-- ==== Sys2Proof/Word.lean ====
section
/-! DEFINITION. The word types of the ZV-768 and the plain data that moves of a bundle slot and outside inputs carry. -/

namespace Sys2Proof

/-- One byte of storage. -/
abbrev Byte := BitVec 8
/-- One vector lane, or one FP32 value. -/
abbrev W32 := BitVec 32
/-- One scalar register, latch or queue entry (R17). -/
abbrev W64 := BitVec 64
/-- One named vector: 64 lanes of 32 bits, lane l in bits 32l+31:32l (R17). -/
abbrev VReg := BitVec 2048

/-- GUARD of a slot (R169). `stage k` reads stage predicate s[k] (R170). -/
inductive Guard where
  | always
  | ifTrue
  | ifFalse
  | stage (k : BitVec 3)
deriving DecidableEq, Repr

/-- The source of a move by level (R171). An immediate is held at the 25 bits
that a header extension gives it; without one its upper bits copy bit 17 (R172). -/
inductive Src where
  | latch (unit : BitVec 4)
  | queue (age : BitVec 4)
  | named (idx : BitVec 8)
  | imm (v : BitVec 25)
deriving DecidableEq, Repr

/-- The guard and the source of one move (R169). -/
structure Move where
  guard : Guard
  src : Src
deriving DecidableEq, Repr

/-- What a store's flag waits for beside its own data (R314): nothing, with whether the store itself is one that fwrrel counts;
every earlier store of its core, in posted order; the count of earlier stores that an fwrrel carries. -/
inductive FlagRule where
  | own (counted : Bool)
  | order
  | count (n : Nat)
deriving DecidableEq, Repr

/-- What a request from another module asks of this one: data and the flag that follows it; bytes; an atomic step; or word that a counted
store (0), or an fwrrel that counted n > 0 of them, has been dropped on its way (R313 to R316, R318). -/
inductive RemoteOp where
  | store (data : List Byte) (flag : BitVec 57) (rule : FlagRule)
  | read (len : Nat)
  | atomic (aop : BitVec 4) (operand : W64) (cmp : W64)
  | dropped (n : Nat)
deriving DecidableEq, Repr

/-- A request that a Sedor link brings for this module (R438, R439). -/
structure RemoteReq where
  srcMod : BitVec 12
  srcCore : BitVec 10
  srcInc : BitVec 8
  tgtInc : BitVec 8
  srcAsid : BitVec 13
  addr : BitVec 57
  tag : Nat
  cls : BitVec 3
  op : RemoteOp
deriving DecidableEq, Repr

/-- The outcome a reply carries (R310). -/
structure RemoteRes where
  tag : Nat
  srcMod : BitVec 12
  tgtInc : BitVec 8
  code : Nat
  data : List Byte
deriving DecidableEq, Repr

/-- A packet between modules: a request, a reply, a barrier arrival, an announcement of an endpoint, a timestamp for a neighbour (R320,
R434, R435, R437, R438). -/
inductive Packet where
  | request (tgt : Nat) (r : RemoteReq)
  | reply (tgt : Nat) (r : RemoteRes)
  | arrival (src tgt key seq : Nat)
  | announce (src tgt : Nat) (join : Bool) (inc : Nat)
  | stamp (ts : W64)
deriving DecidableEq, Repr

end Sys2Proof
end

