-- ==== Sys2Proof/Machine/Sparse.lean ====
section
/-! DEFINITION. Sparse storage: a list of (index, value) pairs with strictly rising indexes that lists no default value. -/

namespace Sys2Proof.Machine

/-- The value at an index; an unlisted index holds the default. -/
def sget {α : Type} (d : α) : List (Nat × α) → Nat → α
  | [], _ => d
  | (k, v) :: r, a => if a = k then v else sget d r a

/-- Insert or replace at an index, keeping the order. -/
def sput {α : Type} : List (Nat × α) → Nat → α → List (Nat × α)
  | [], a, x => [(a, x)]
  | (k, v) :: r, a, x =>
    if a < k then (a, x) :: (k, v) :: r
    else if a = k then (a, x) :: r
    else (k, v) :: sput r a x

/-- Write a value at an index; writing the default removes the entry. -/
def sset {α : Type} [DecidableEq α] (d : α) (m : List (Nat × α)) (a : Nat) (x : α) : List (Nat × α) :=
  if x = d then m.filter (fun e => e.1 != a) else sput m a x

/-- The canonical form: indexes strictly rising, no default listed. -/
def swf {α : Type} [DecidableEq α] (d : α) : List (Nat × α) → Bool
  | [] => true
  | [(_, v)] => v != d
  | (k, v) :: (k', v') :: r => v != d && k < k' && swf d ((k', v') :: r)

/-- Byte storage (R4): what an unlisted address reads as is zero. [DESIGN CHOICE, log 5] -/
abbrev Mem := List (Nat × Byte)

/-- The canonical form of byte storage. -/
abbrev Mem.wf (m : Mem) : Bool := swf (0 : Byte) m

/-- One byte. [DESIGN CHOICE, log 5] -/
def rdByte (m : Mem) (a : Nat) : Byte := sget 0 m a

/-- Write one byte. -/
def wrByte (m : Mem) (a : Nat) (b : Byte) : Mem := sset 0 m a b

/-- n bytes from a, little-endian, as a number (R4). -/
def rdLE (m : Mem) (a : Nat) : Nat → Nat
  | 0 => 0
  | n + 1 => (rdByte m a).toNat + 256 * rdLE m (a + 1) n

/-- Write the low n bytes of a number at a, little-endian (R4). -/
def wrLE (m : Mem) (a : Nat) : Nat → Nat → Mem
  | 0, _ => m
  | n + 1, v => wrLE (wrByte m a (BitVec.ofNat 8 v)) (a + 1) n (v / 256)

/-- n bytes from a, in address order. -/
def rdBytes (m : Mem) (a : Nat) : Nat → List Byte
  | 0 => []
  | n + 1 => rdByte m a :: rdBytes m (a + 1) n

/-- Write bytes in address order. -/
def wrBytes (m : Mem) (a : Nat) : List Byte → Mem
  | [] => m
  | b :: bs => wrBytes (wrByte m a b) (a + 1) bs

/-- Remove every byte of a range. -/
def clearRange (m : Mem) (a n : Nat) : Mem := m.filter (fun e => !(a ≤ e.1 && e.1 < a + n))

end Sys2Proof.Machine
end

