-- ==== Sys2Proof/Machine/Bits.lean ====
section
/-! DEFINITION. Bit fields, sign, saturation and list helpers that the meanings share. -/

namespace Sys2Proof.Machine

/-- Bits hi:lo of a number (R4). -/
def fld (x hi lo : Nat) : Nat := x / 2 ^ lo % 2 ^ (hi + 1 - lo)

/-- Bit i of a number. -/
def bit (x i : Nat) : Bool := x.testBit i

/-- The entry at an index of a register file, with a default beyond its end. -/
def vget {α : Type} {n : Nat} (d : α) (v : Vector α n) (i : Nat) : α := (v[i]?).getD d

/-- The register file with one entry replaced; no effect beyond its end. -/
def vset {α : Type} {n : Nat} (v : Vector α n) (i : Nat) (x : α) : Vector α n := v.setIfInBounds i x

/-- Lane l of a vector. -/
def lane (v : VReg) (l : Nat) : W32 := v.extractLsb' (32 * l) 32

/-- A vector from its lanes, lane 0 first. -/
def ofLanes : List W32 → Nat
  | [] => 0
  | x :: xs => x.toNat + 2 ^ 32 * ofLanes xs

/-- The vector whose lane l is f l. -/
def vgen (f : Nat → W32) : VReg := BitVec.ofNat 2048 (ofLanes ((List.range 64).map f))

/-- Every lane the same. -/
def vsplat (x : W32) : VReg := vgen fun _ => x

/-- Lane by lane. -/
def vmap2 (f : W32 → W32 → W32) (a b : VReg) : VReg := vgen fun l => f (lane a l) (lane b l)

/-- The two's-complement reading of the low w bits of a number. -/
def sInt (w x : Nat) : Int := (BitVec.ofNat w x).toInt

/-- The low w bits of an integer. -/
def ofInt (w : Nat) (x : Int) : Nat := (BitVec.ofInt w x).toNat

/-- A truth value as a number. -/
def b2n (b : Bool) : Nat := if b then 1 else 0

/-- A truth value as a scalar result. -/
def b64 (b : Bool) : W64 := if b then 1 else 0

/-- Insert into a list kept in the order of `le`, after equal entries. -/
def insertBy {α : Type} (le : α → α → Bool) (x : α) : List α → List α
  | [] => [x]
  | y :: ys => if le y x then y :: insertBy le x ys else x :: y :: ys

/-- Sort, keeping equal entries in their order. -/
def sortBy {α : Type} (le : α → α → Bool) (l : List α) : List α := l.foldl (fun acc x => insertBy le x acc) []

/-- The largest power of two not above x; 0 for 0 (R224). -/
def pow2Floor (x : Nat) : Nat := if x = 0 then 0 else 2 ^ x.log2

/-- Saturate at 2^w - 1. -/
def satU (w x : Nat) : Nat := if x < 2 ^ w then x else 2 ^ w - 1

/-- The saturating addition of R67 at width w, on encodings. -/
def satAdd (w : Nat) (a b : Nat) : Nat :=
  let top := 2 ^ (w - 1) - 1
  let bot := 2 ^ (w - 1)
  if a = top ∨ b = top then top
  else if a = bot ∨ b = bot then bot
  else
    let s := sInt w a + sInt w b
    if s > (top : Int) - 1 then top
    else if s ≤ -(bot : Int) then bot
    else ofInt w s

end Sys2Proof.Machine
end

