-- ==== Sys2Proof/Machine/Flags.lean ====
section
/-! DEFINITION. The sticky flags of FSTAT (R62), the formats of R48, and rounding with its flags (R59, R60). -/

namespace Sys2Proof.Machine

/-- FSTAT bits (R62). -/
def flagNX : BitVec 7 := 1
def flagUF : BitVec 7 := 2
def flagOF : BitVec 7 := 4
def flagDZ : BitVec 7 := 8
def flagNV : BitVec 7 := 16
def flagSAT : BitVec 7 := 32
def flagSN : BitVec 7 := 64

/-- A binary floating-point format (R48): exponent and fraction widths, bias, whether it has infinities, its largest finite
encoding and its canonical NaN (R49). -/
structure FFmt where
  ebits : Nat
  mbits : Nat
  bias : Nat
  hasInf : Bool
  maxFin : Nat
  nan : Nat
deriving DecidableEq, Repr

def fp32 : FFmt := ⟨8, 23, 127, true, 0x7F7FFFFF, 0x7FC00000⟩
def bf16 : FFmt := ⟨8, 7, 127, true, 0x7F7F, 0x7FC0⟩
def fp16 : FFmt := ⟨5, 10, 15, true, 0x7BFF, 0x7E00⟩
def e4m3 : FFmt := ⟨4, 3, 7, false, 0x7E, 0x7F⟩
def e5m2 : FFmt := ⟨5, 2, 15, true, 0x7B, 0x7E⟩

/-- The width of a format in bits. -/
def FFmt.width (f : FFmt) : Nat := f.ebits + f.mbits + 1

/-- A decoded value: a NaN, an infinity, or ±m·2^e exactly; m = 0 is a signed zero. -/
inductive Fv where
  | nan
  | inf (neg : Bool)
  | fin (neg : Bool) (m : Nat) (e : Int)
deriving DecidableEq, Repr

/-- The value of an encoding (R48). -/
def FFmt.decode (f : FFmt) (x : Nat) : Fv :=
  let neg := bit x (f.ebits + f.mbits)
  let ex := fld x (f.ebits + f.mbits - 1) f.mbits
  let fr := x % 2 ^ f.mbits
  let top := 2 ^ f.ebits - 1
  if f.hasInf then
    if ex = top then (if fr = 0 then .inf neg else .nan)
    else if ex = 0 then .fin neg fr (1 - f.bias - f.mbits)
    else .fin neg (fr + 2 ^ f.mbits) (ex - f.bias - f.mbits)
  else
    if ex = top ∧ fr = 2 ^ f.mbits - 1 then .nan
    else if ex = 0 then .fin neg fr (1 - f.bias - f.mbits)
    else .fin neg (fr + 2 ^ f.mbits) (ex - f.bias - f.mbits)

/-- The sign bit of an encoding. -/
def FFmt.signBit (f : FFmt) (neg : Bool) : Nat := b2n neg * 2 ^ (f.ebits + f.mbits)

/-- An infinity of the format. -/
def FFmt.inf (f : FFmt) (neg : Bool) : Nat := f.signBit neg + (2 ^ f.ebits - 1) * 2 ^ f.mbits

/-- Rounding modes of FMT.RM (R56): 0 RNE, 1 RTZ, 2 RUP, 3 RDN. Whether a magnitude n with remainder r out of `whole`
rounds up. -/
def roundsUp (rm : Nat) (neg : Bool) (n r whole : Nat) : Bool :=
  match rm with
  | 0 => whole < 2 * r || (2 * r == whole && n % 2 == 1)
  | 1 => false
  | 2 => r != 0 && !neg
  | _ => r != 0 && neg

/-- Round the magnitude m·2^e to a multiple of 2^q: the multiple and whether it is inexact. -/
def roundTo (rm : Nat) (neg : Bool) (m : Nat) (e q : Int) : Nat × Bool :=
  if q ≤ e then (m * 2 ^ (e - q).toNat, false)
  else
    let whole := 2 ^ (q - e).toNat
    let n := m / whole
    let r := m % whole
    (if roundsUp rm neg n r whole then n + 1 else n, r != 0)

/-- What governs an overflow: R59 alone, or the policy SAT of a narrowing conversion (R60). -/
inductive Ovf where
  | ieee
  | sat (policy : Nat)
deriving DecidableEq, Repr

/-- The result of a finite overflow under R59: infinity or the largest finite value, by mode and sign. -/
def FFmt.ovfIeee (f : FFmt) (rm : Nat) (neg : Bool) : Nat :=
  let toInf := rm == 0 || (rm == 2 && !neg) || (rm == 3 && neg)
  if toInf then (if f.hasInf then f.inf neg else f.nan) else f.signBit neg + f.maxFin

/-- The result and flags of a finite overflow (R59, R60). -/
def FFmt.overflow (f : FFmt) (o : Ovf) (rm : Nat) (neg : Bool) : Nat × BitVec 7 :=
  match o with
  | .ieee => (f.ovfIeee rm neg, flagOF ||| flagNX)
  | .sat 0 => (f.signBit neg + f.maxFin, flagOF ||| flagNX ||| flagSAT)
  | .sat 1 => (f.ovfIeee rm neg, flagOF ||| flagNX)
  | .sat _ => (f.nan, flagOF ||| flagNX)

/-- Round ±m·2^e once to the format; tininess is judged after rounding, and FTZ replaces a tiny result (R59). -/
def FFmt.round (f : FFmt) (rm : Nat) (ftz : Bool) (o : Ovf) (neg : Bool) (m : Nat) (e : Int) : Nat × BitVec 7 :=
  if m = 0 then (f.signBit neg, 0)
  else
    let emin : Int := 1 - f.bias
    let top : Int := m.log2 + e
    let free := roundTo rm neg m e (top - f.mbits)
    let tiny := decide (top < emin) && !(decide (top = emin - 1) && free.1 == 2 ^ (f.mbits + 1))
    let q : Int := max (top - f.mbits) (emin - f.mbits)
    let (n, inexact) := roundTo rm neg m e q
    let mag := ((q + f.mbits + f.bias - 1).toNat) * 2 ^ f.mbits + n
    if f.maxFin < mag then f.overflow o rm neg
    else if ftz && tiny then (f.signBit neg, flagUF ||| flagNX)
    else (f.signBit neg + mag,
      (if inexact then flagNX else 0) ||| (if inexact && tiny then flagUF else 0))

/-- A subnormal operand reads as zero of its sign under FTZ (R59). -/
def FFmt.read (f : FFmt) (ftz : Bool) (x : Nat) : Fv :=
  match f.decode x with
  | .fin neg m e => if ftz && m < 2 ^ f.mbits then .fin neg 0 e else .fin neg m e
  | v => v

end Sys2Proof.Machine
end

