-- ==== Sys2Proof/Machine/Num.lean ====
section
/-! DEFINITION. Exact arithmetic on decoded values with one rounding at the end (R49, R59, R204), integer and LNS6 conversions (R50 to R53, R61). -/

namespace Sys2Proof.Machine

/-- A result with the FSTAT flags it raises. -/
abbrev FRes := Nat × BitVec 7

/-- Whether a value is a NaN. -/
def Fv.isNan : Fv → Bool
  | .nan => true
  | _ => false

/-- Whether a value is a zero. -/
def Fv.isZero : Fv → Bool
  | .fin _ m _ => m == 0
  | _ => false

/-- The sign of a value; a NaN counts as positive. -/
def Fv.neg : Fv → Bool
  | .nan => false
  | .inf n => n
  | .fin n _ _ => n

/-- The value with its sign turned. -/
def Fv.negate : Fv → Fv
  | .nan => .nan
  | .inf n => .inf !n
  | .fin n m e => .fin (!n) m e

/-- The exact product; none for 0 × ∞ (R49). -/
def Fv.mul : Fv → Fv → Option Fv
  | .nan, _ => some .nan
  | _, .nan => some .nan
  | .inf a, .inf b => some (.inf (a != b))
  | .inf a, .fin b m _ => if m = 0 then none else some (.inf (a != b))
  | .fin a m _, .inf b => if m = 0 then none else some (.inf (a != b))
  | .fin a m e, .fin b n k => some (.fin (a != b) (m * n) (e + k))

/-- ±m·2^e as an integer multiple of 2^q, for q not above e. -/
def scaled (neg : Bool) (m : Nat) (e q : Int) : Int :=
  let v : Int := m * 2 ^ (e - q).toNat
  if neg then -v else v

/-- The exact sum; none for ∞ − ∞. A zero sum of opposite signs is −0 under RDN and +0 otherwise (R49). -/
def Fv.add (rm : Nat) : Fv → Fv → Option Fv
  | .nan, _ => some .nan
  | _, .nan => some .nan
  | .inf a, .inf b => if a = b then some (.inf a) else none
  | .inf a, .fin .. => some (.inf a)
  | .fin .., .inf b => some (.inf b)
  | .fin a m e, .fin b n k =>
    let q := min e k
    let s := scaled a m e q + scaled b n k q
    if s = 0 then
      if m = 0 ∧ n = 0 ∧ a = b then some (.fin a 0 q) else some (.fin (rm == 3) 0 q)
    else some (.fin (decide (s < 0)) s.natAbs q)

/-- Round a value to a format; a NaN gives the canonical NaN and NV, an infinity stays (R49, R59). -/
def Fv.toFmt (f : FFmt) (rm : Nat) (ftz : Bool) : Fv → FRes
  | .nan => (f.nan, flagNV)
  | .inf n => (f.inf n, 0)
  | .fin n m e => f.round rm ftz .ieee n m e

/-- The canonical NaN with NV: an invalid operation (R49). -/
def FFmt.invalid (f : FFmt) : FRes := (f.nan, flagNV)

/-- FP32 sum (R204). -/
def fpAdd (rm : Nat) (ftz : Bool) (a b : Nat) : FRes :=
  match Fv.add rm (fp32.read ftz a) (fp32.read ftz b) with
  | none => fp32.invalid
  | some v => v.toFmt fp32 rm ftz

/-- FP32 difference a − b (R204). -/
def fpSub (rm : Nat) (ftz : Bool) (a b : Nat) : FRes :=
  match Fv.add rm (fp32.read ftz a) (fp32.read ftz b).negate with
  | none => fp32.invalid
  | some v => v.toFmt fp32 rm ftz

/-- FP32 product (R204). -/
def fpMul (rm : Nat) (ftz : Bool) (a b : Nat) : FRes :=
  match Fv.mul (fp32.read ftz a) (fp32.read ftz b) with
  | none => fp32.invalid
  | some v => v.toFmt fp32 rm ftz

/-- FP32 a·b + c with one rounding (R204). -/
def fpFma (rm : Nat) (ftz : Bool) (a b c : Nat) : FRes :=
  match Fv.mul (fp32.read ftz a) (fp32.read ftz b) with
  | none => fp32.invalid
  | some p =>
    match Fv.add rm p (fp32.read ftz c) with
    | none => fp32.invalid
    | some v => v.toFmt fp32 rm ftz

/-- FP32 quotient (R204): 0 ÷ 0 and ∞ ÷ ∞ are invalid, a finite nonzero value over zero sets DZ. -/
def fpDiv (rm : Nat) (ftz : Bool) (a b : Nat) : FRes :=
  match fp32.read ftz a, fp32.read ftz b with
  | .nan, _ => fp32.invalid
  | _, .nan => fp32.invalid
  | .inf _, .inf _ => fp32.invalid
  | .inf n, .fin k _ _ => (fp32.inf (n != k), 0)
  | .fin n _ _, .inf k => (fp32.signBit (n != k), 0)
  | .fin n m e, .fin k d j =>
    if d = 0 then (if m = 0 then fp32.invalid else (fp32.inf (n != k), flagDZ))
    else if m = 0 then (fp32.signBit (n != k), 0)
    else
      let num := m * 2 ^ 64
      let q := num / d
      fp32.round rm ftz .ieee (n != k) (2 * q + b2n (num % d != 0)) (e - j - 65)

/-- The integer square root, by bits from the top; `fuel` counts the bits. -/
def isqrtGo (x : Nat) : Nat → Nat → Nat
  | 0, r => r
  | k + 1, r => isqrtGo x k (if (r + 2 ^ k) * (r + 2 ^ k) ≤ x then r + 2 ^ k else r)

/-- The integer square root. -/
def isqrt (x : Nat) : Nat := isqrtGo x (x.log2 / 2 + 1) 0

/-- FP32 square root (R204): a number below −0 is invalid, −0 gives −0. -/
def fpSqrt (rm : Nat) (ftz : Bool) (a : Nat) : FRes :=
  match fp32.read ftz a with
  | .nan => fp32.invalid
  | .inf neg => if neg then fp32.invalid else (fp32.inf false, 0)
  | .fin neg m e =>
    if m = 0 then (fp32.signBit neg, 0)
    else if neg then fp32.invalid
    else
      let odd := (e % 2).toNat
      let big := m * 2 ^ (64 + odd)
      let r := isqrt big
      fp32.round rm ftz .ieee false (2 * r + b2n (r * r != big)) ((e - odd - 64) / 2 - 1)

/-- Numeric order of two values that are no NaN: −1, 0 or 1; −0 equals +0. -/
def Fv.cmp : Fv → Fv → Int
  | .inf a, .inf b => if a = b then 0 else if a then -1 else 1
  | .inf a, _ => if a then -1 else 1
  | _, .inf b => if b then 1 else -1
  | .fin a m e, .fin b n k =>
    let q := min e k
    (scaled a m e q - scaled b n k q).sign
  | _, _ => 0

/-- Order with −0 below +0 (R69, R205, R235). -/
def Fv.lt0 (a b : Fv) : Bool :=
  let c := a.cmp b
  if c = 0 then a.neg && !b.neg else decide (c < 0)

/-- Equality, less, less or equal of R206 with their flags: a NaN compares false, and sets NV on less and less or equal. -/
def fpCmp (ftz : Bool) (kind : Nat) (a b : Nat) : Bool × BitVec 7 :=
  let x := fp32.read ftz a
  let y := fp32.read ftz b
  if x.isNan || y.isNan then (false, if kind = 0 then 0 else flagNV)
  else
    let c := x.cmp y
    (match kind with
      | 0 => c = 0
      | 1 => c < 0
      | _ => c ≤ 0, 0)

/-! ## Integers (R53, R61, R67) -/

/-- Round ±m·2^e to an integer under RM: the integer and whether it is inexact. -/
def roundInt (rm : Nat) (neg : Bool) (m : Nat) (e : Int) : Int × Bool :=
  let (n, ix) := roundTo rm neg m e 0
  (if neg then -(n : Int) else n, ix)

/-- Clamp to a range: the value and whether it clamped. -/
def clampInt (lo hi x : Int) : Int × Bool := if x < lo then (lo, true) else if hi < x then (hi, true) else (x, false)

/-- A floating value to an integer range: NaN gives 0, a clamp and a NaN set SAT and NV, an inexact conversion NX (R61). [DEDUCED, log 61] -/
def toIntRange (rm : Nat) (lo hi : Int) : Fv → Int × BitVec 7
  | .nan => (0, flagSAT ||| flagNV)
  | .inf neg => (if neg then lo else hi, flagSAT ||| flagNV)
  | .fin neg m e =>
    let (n, ix) := roundInt rm neg m e
    let (v, cl) := clampInt lo hi n
    (v, if cl then flagSAT ||| flagNV ||| (if ix then flagNX else 0) else if ix then flagNX else 0)

/-- An integer as an exact value. -/
def Fv.ofInt (x : Int) : Fv := .fin (decide (x < 0)) x.natAbs 0

/-! ## LNS6 (R50 to R52) -/

/-- 2^(f/4) rounded at 2^-16 (R51). -/
def lnsTable (f : Nat) : Nat :=
  match f with
  | 0 => 0x10000
  | 1 => 0x13070
  | 2 => 0x16A0A
  | _ => 0x1AE8A

/-- The decoded value of an LNS6 byte (R50). -/
def lnsDecode (x : Nat) : Fv :=
  let l := x % 32
  let neg := bit x 5
  if l = 31 then .nan
  else if l = 0 then .fin neg 0 0
  else
    let t : Int := (l : Int) - 16
    .fin neg (lnsTable (t % 4).toNat) (t / 4 - 16)

/-- The product of two LNS6 bytes in the log domain (R51). -/
def lnsProduct (a b : Nat) : Fv :=
  let la := a % 32
  let lb := b % 32
  let s := bit a 5 != bit b 5
  if la = 31 ∨ lb = 31 then .nan
  else if la = 0 ∨ lb = 0 then .fin s 0 0
  else
    let t := la + lb
    .fin s (lnsTable (t % 4)) (((t : Int) - 32) / 4 - 16)

/-- The integer nearest to 4·log2(m·2^e), m nonzero: ⌊log2(2·x^8) / 2⌋, exactly (R52). -/
def lnsIndex (m : Nat) (e : Int) : Int := ((m ^ 8).log2 + 8 * e + 1) / 2

/-- A conversion to LNS6 (R52, R60). -/
def toLns (sat : Nat) : Fv → FRes
  | .nan => (0x1F, flagNV)
  | .inf neg => if sat = 0 then (b2n neg * 32 + 30, flagSAT ||| flagNX) else (0x1F, flagNV)
  | .fin neg m e =>
    if m = 0 then (b2n neg * 32, 0)
    else
      let l := 16 + lnsIndex m e
      if l ≤ 0 then (b2n neg * 32, flagUF ||| flagNX)
      else if 30 < l then
        (if sat = 0 then (b2n neg * 32 + 30, flagOF ||| flagNX ||| flagSAT) else (0x1F, flagOF ||| flagNX))
      else
        let x := b2n neg * 32 + l.toNat
        (x, if (lnsDecode x).cmp (.fin neg m e) = 0 then 0 else flagNX)

/-- A conversion to a narrower floating format under SAT (R60). [DEDUCED, log 63] -/
def toNarrow (f : FFmt) (rm : Nat) (ftz : Bool) (sat : Nat) : Fv → FRes
  | .nan => (f.nan, flagNV)
  | .inf neg =>
    if sat = 2 then (f.nan, flagNV)
    else if f.hasInf then (f.inf neg, 0)
    else if sat = 0 then (f.signBit neg + f.maxFin, flagSAT ||| flagNX)
    else (f.nan, flagNV)
  | .fin neg m e => f.round rm ftz (.sat sat) neg m e

/-! ## Type codes (R46) -/

/-- The binary floating-point format of a type code. -/
def floatFmt : Nat → Option FFmt
  | 0 => some fp32
  | 1 => some bf16
  | 2 => some fp16
  | 3 => some e4m3
  | 4 => some e5m2
  | _ => none

/-- The width in bytes of a type code; 0 for a reserved one. -/
def typeBytes : Nat → Nat
  | 0 => 4
  | 1 => 2
  | 2 => 2
  | 3 => 1
  | 4 => 1
  | 5 => 1
  | 6 => 1
  | 7 => 1
  | 8 => 2
  | 9 => 4
  | 10 => 1
  | _ => 0

/-- The range of an integer type code (R53). -/
def intRange : Nat → Option (Int × Int)
  | 6 => some (-128, 127)
  | 7 => some (0, 255)
  | 8 => some (-32768, 32767)
  | 9 => some (-2147483648, 2147483647)
  | _ => none

/-- The integer an element of an integer type code holds. -/
def intDecode (t x : Nat) : Int :=
  match t with
  | 6 => sInt 8 x
  | 7 => (x % 256 : Nat)
  | 8 => sInt 16 x
  | _ => sInt 32 x

/-- The exact value of an element of any type; a BOOL8 byte is 0 or 1 (R48, R50, R53). FTZ flushes subnormal
floating operands (R59). -/
def decodeElem (t : Nat) (ftz : Bool) (x : Nat) : Fv :=
  match floatFmt t with
  | some f => f.read ftz (x % 2 ^ f.width)
  | none =>
    if t = 5 then lnsDecode x
    else if t = 10 then Fv.ofInt (if x % 256 = 0 then 0 else 1)
    else Fv.ofInt (intDecode t x)

/-- The truth of a value for BOOL8: false for zeros alone (R53, R61). -/
def Fv.truth (v : Fv) : Bool := !v.isZero

end Sys2Proof.Machine
end

