-- ==== Sys2Proof/Config.lean ====
section
/-! DEFINITION. The values the manual leaves open. Each is an opaque constant: nothing can be proved about its value. -/

namespace Sys2Proof

/-- The cycles the n-th outside request takes before it reaches its home controller, its reply arrives, or its walk
ends (R92, R93, R355): free. [DESIGN CHOICE, log 2] -/
opaque Config.outsideDelay : Nat → Nat

/-- How far the package timestamp counter has moved between the n-th core cycle of the module and the next (R19): free. -/
opaque Config.tsAdvance : Nat → Nat

/-- Which of the cores at work takes its next cycle after the n-th core cycle of the module (R19, R29): free. [DEDUCED, log 1] -/
opaque Config.nextCore : Nat → Nat

/-- The n-th draw of a sampler's generator with a seed (R429): free. [DESIGN CHOICE, log 163] -/
opaque Config.sampleDraw : Nat → Nat → Nat

/-- Word k of a sample's payload, whose layout the manual does not give, from the values it holds (R429): free. [DESIGN CHOICE, log 163] -/
opaque Config.sampleWord : Nat → List Nat → W64

/-- A value that the manual does not state, by the point it belongs to and the operands it depends on: free. [DESIGN CHOICE, log 2] -/
opaque Config.openValue : Nat → Nat → Nat → Nat

/-- A byte that an engine reads where the manual fixes nothing: a gather row beyond its table after the indices changed (R86): free.
[DESIGN CHOICE, log 92] -/
opaque Config.strayByte : Nat → Nat → Byte

/-- The digest over the device's own areas of an image, whose function the manual does not give (R418): free. [DESIGN CHOICE, log 9] -/
opaque Config.digest : List Byte → W64

/-- SHA-384, whose definition lies outside the manual (R447, R449): free. [DESIGN CHOICE, log 9] -/
opaque Config.sha384 : List Byte → List Byte

/-- Whether an ECDSA signature verifies: key, digest, signature (R447): free. [DESIGN CHOICE, log 9] -/
opaque Config.ecdsaOk : List Byte → List Byte → List Byte → Bool

/-- The fused key digest, fused minimum version, ROM version, serial and fused security configuration of the module (R447, R449).
[DESIGN CHOICE, log 9] -/
opaque Config.fusedKey : List Byte
opaque Config.fusedVersion : Nat
opaque Config.romVersion : List Byte
opaque Config.serial : List Byte
/-- [DESIGN CHOICE, log 9] -/
opaque Config.security : List Byte

/-- ALARMPOL, fixed at provisioning (R463). -/
opaque Config.alarmPolicy : BitVec 8

/-- The signature that the device identity key makes over a report (R449): free. [DESIGN CHOICE, log 9] -/
opaque Config.attest : List Byte → List Byte

/-- The identity certificate chain as provisioned (R449). [DESIGN CHOICE, log 9] -/
opaque Config.certChain : Nat → Byte

end Sys2Proof
end

