-- ==== Sys2Proof/Syntax.lean ====
section
/-! DEFINITION. The instructions and steps of the ZV-768: one constructor per row of spec/opcode_table.json.
The first 121 are steps of the part that no bundle encodes (95_what_each_step_holds.md), with the operands that
name what the step acts on; the other 252 are moves of a bundle slot (R169). -/

namespace Sys2Proof

/-- One move of a bundle slot, or one step of the part. -/
inductive Instr where
  /-- R179 -/
  | bundleIssue
  /-- R217 -/
  | nullifiedPosition
  /-- R426 -/
  | breakpointHit
  /-- R222 -/
  | loopPassBoundary
  /-- R237 -/
  | waitEnd
  /-- R83 -/
  | ringTailWrite (n : BitVec 3) (v : W64)
  /-- R154 -/
  | embfltClear (v : W64)
  /-- R115 -/
  | ecauseRearm (v : W64)
  /-- R347 -/
  | resultLand
  /-- R35 -/
  | segmentWalk
  /-- R80 -/
  | opportunisticWrite
  /-- R101 -/
  | fencePerform
  /-- R113 -/
  | globalAccessPerform (id : Nat)
  /-- R114 -/
  | raceException
  /-- R90 -/
  | replicatedStoreCommit (id : Nat)
  /-- R78 -/
  | pushStoreArrival (id : Nat)
  /-- R38 -/
  | barrierComplete
  /-- R355 -/
  | lateItem
  /-- R356 -/
  | holdEnd
  /-- R20 -/
  | relock (island : BitVec 4)
  /-- R20 -/
  | relockEnd (island : BitVec 4)
  /-- R453 -/
  | instructionRefetch
  /-- R416 -/
  | coreStop
  /-- R423 -/
  | contextResume
  /-- R140 -/
  | passStart (pass : Nat)
  /-- R121 -/
  | beatArrival (pass : Nat) (i j : BitVec 6)
  /-- R140 -/
  | streamUnitCheck (pass : Nat)
  /-- R137 -/
  | briquetteRead (pass : Nat)
  /-- R123 -/
  | passRetire (pass : Nat)
  /-- R284 -/
  | outputRingAdvance (pass : Nat)
  /-- R126 -/
  | wsPartialWrite (pass : Nat)
  /-- R127 -/
  | wfOutputWrite (pass : Nat)
  /-- R132 -/
  | shadowConfigWrite (cmd : Nat)
  /-- R132 -/
  | switchTokenInject (cmd : Nat)
  /-- R132 -/
  | switchTokenArrival (i j : BitVec 6)
  /-- R286 -/
  | drainRow (cmd : Nat)
  /-- R287 -/
  | kzeroApply (cmd : Nat)
  /-- R288 -/
  | kringApply (cmd : Nat)
  /-- R294 -/
  | followOnIssue (ch : BitVec 1)
  /-- R292 -/
  | copyUnitRequest (ch : BitVec 1)
  /-- R85 -/
  | copyUnitWritten (ch : BitVec 1)
  /-- R300 -/
  | spsDue
  /-- R87 -/
  | windowBindingSwitch (cmd : Nat)
  /-- R304 -/
  | emberCommandStart
  /-- R143 -/
  | domainStep (d : BitVec 2)
  /-- R151 -/
  | esaveRow (cmd : Nat)
  /-- R151 -/
  | erestApply (cmd : Nat)
  /-- R308 -/
  | fabSend (cmd : Nat)
  /-- R309 -/
  | fabComplete (cmd : Nat)
  /-- R439 -/
  | inboundRemoteRequest (r : RemoteReq)
  /-- R313 -/
  | remoteFlagRaise (id : Nat)
  /-- R438 -/
  | remoteReply (r : RemoteRes)
  /-- R320 -/
  | fbarArrival (key : W32) (seq : Nat) (m : BitVec 12)
  /-- R440 -/
  | heldWritesApply (core : BitVec 10)
  /-- R378 -/
  | tileSplit (id : Nat)
  /-- R383 -/
  | tilePartStart
  /-- R381 -/
  | tileClaim
  /-- R384 -/
  | tilePartComplete
  /-- R377 -/
  | tileComplete (id : Nat)
  /-- R414 -/
  | translationWalk
  /-- R40 -/
  | launchRetire (slot : BitVec 10)
  /-- R404 -/
  | schedulerStep
  /-- R405 -/
  | launchDispatch (slot : BitVec 10)
  /-- R406 -/
  | preemptVictims
  /-- R398 -/
  | qtailWrite (q : BitVec 6) (v : W64)
  /-- R397 -/
  | qctlWrite (q : BitVec 6) (v : W64)
  /-- R408 -/
  | queueReset (q : BitVec 6)
  /-- R407 -/
  | abort (v : W64)
  /-- R396 -/
  | hostRegisterWrite (off : BitVec 24) (v : W64)
  /-- R394 -/
  | hostBar2Write (off : BitVec 40) (data : List Byte)
  /-- R394 -/
  | hostBar2Read (off : BitVec 40) (len : Nat)
  /-- R415 -/
  | invalidationEntry
  /-- R415 -/
  | invalidationDone
  /-- R424 -/
  | debugHalt (core : BitVec 10)
  /-- R424 -/
  | debugResume (core : BitVec 10)
  /-- R424 -/
  | debugStep (core : BitVec 10)
  /-- R427 -/
  | traceOpen (core : BitVec 10)
  /-- R427 -/
  | traceDrain (core : BitVec 10)
  /-- R427 -/
  | traceClose (core : BitVec 10) (reason : BitVec 2)
  /-- R432 -/
  | flueGo
  /-- R433 -/
  | linkTrained (link : BitVec 3) (plane : BitVec 1) (ok : Bool) (peer : W64) (key : W32) (ord : Bool)
  /-- R432 -/
  | groupFormed
  /-- R433 -/
  | planeLoss (link : BitVec 3) (plane : BitVec 1)
  /-- R433 -/
  | flitReplay (link : BitVec 3) (plane : BitVec 1)
  /-- R434 -/
  | routeRecompute (far : List (Nat × Nat))
  /-- R435 -/
  | timestampFlit (ts : W64)
  /-- R437 -/
  | endpointUp
  /-- R437 -/
  | endpointDown
  /-- R437 -/
  | announcementReceived (m : BitVec 12) (join : Bool) (inc : BitVec 8)
  /-- R437 -/
  | neighbourLost (m : BitVec 12)
  /-- R444 -/
  | flueReset
  /-- R441 -/
  | coldPackageReset
  /-- R393 -/
  | functionLevelReset
  /-- R442 -/
  | computeReset
  /-- R443 -/
  | dieReset (die : BitVec 2)
  /-- R443 -/
  | coreReset (core : BitVec 10)
  /-- R447 -/
  | firmwareBoot
  /-- R447 -/
  | recoveryLoad
  /-- R448 -/
  | dieManagerReady (die : BitVec 2)
  /-- R448 -/
  | dieManagerTimeout (die : BitVec 2)
  /-- R449 -/
  | attestationRequest
  /-- R460 -/
  | pstateWrite (island : BitVec 5) (v : W64)
  /-- R461 -/
  | gateRequest (island : BitVec 4)
  /-- R461 -/
  | islandGated (island : BitVec 4)
  /-- R461 -/
  | islandWake (island : BitVec 4)
  /-- R461 -/
  | wakeComplete (island : BitVec 4)
  /-- R461 -/
  | throttleStep (island : BitVec 5) (up : Bool)
  /-- R461 -/
  | thermalTrip (flue : Bool)
  /-- R461 -/
  | pcapWrite (v : W64)
  /-- R459 -/
  | retmapWrite (idx : BitVec 4) (v : W64)
  /-- R450 -/
  | correctedError (addr : W64)
  /-- R451 -/
  | uncorrectableError (addr : W64)
  /-- R451 -/
  | patrolScrub (addr : W64)
  /-- R464 -/
  | securityAlarm (sensor : BitVec 4)
  /-- R464 -/
  | alarmRelease
  /-- R11 -/
  | transitForward (tgt : BitVec 12) (p : Packet)
  /-- R128 -/
  | triSolutionWrite (pass : Nat)
  /-- R300 -/
  | spsCommandStart
  /-- R384 -/
  | sequencerCommandIssue
  /-- R465 -/
  | elementUnitStep
  /-- R463 -/
  | alarmSensorClear (sensor : BitVec 4)
  /-- R173 -/
  | port0Discard (unit : BitVec 4) (m : Move)
  /-- R174 -/
  | operandPortMove (unit : BitVec 4) (port : BitVec 3) (m : Move)
  /-- R191 -/
  | nregWrite (port : BitVec 6) (m : Move)
  /-- R199 -/
  | mov (unit : BitVec 1) (m : Move)
  /-- R199 -/
  | add (unit : BitVec 1) (m : Move)
  /-- R199 -/
  | sub (unit : BitVec 1) (m : Move)
  /-- R199 -/
  | and (unit : BitVec 1) (m : Move)
  /-- R199 -/
  | or (unit : BitVec 1) (m : Move)
  /-- R199 -/
  | xor (unit : BitVec 1) (m : Move)
  /-- R199 -/
  | andn (unit : BitVec 1) (m : Move)
  /-- R199 -/
  | shl (unit : BitVec 1) (m : Move)
  /-- R199 -/
  | shr (unit : BitVec 1) (m : Move)
  /-- R199 -/
  | sar (unit : BitVec 1) (m : Move)
  /-- R199 -/
  | rotl (unit : BitVec 1) (m : Move)
  /-- R199 -/
  | min (unit : BitVec 1) (m : Move)
  /-- R199 -/
  | max (unit : BitVec 1) (m : Move)
  /-- R199 -/
  | minu (unit : BitVec 1) (m : Move)
  /-- R199 -/
  | maxu (unit : BitVec 1) (m : Move)
  /-- R199 -/
  | seteq (unit : BitVec 1) (m : Move)
  /-- R199 -/
  | setne (unit : BitVec 1) (m : Move)
  /-- R199 -/
  | setlt (unit : BitVec 1) (m : Move)
  /-- R199 -/
  | setltu (unit : BitVec 1) (m : Move)
  /-- R199 -/
  | setle (unit : BitVec 1) (m : Move)
  /-- R199 -/
  | setleu (unit : BitVec 1) (m : Move)
  /-- R199 -/
  | sel (unit : BitVec 1) (m : Move)
  /-- R199 -/
  | clz (unit : BitVec 1) (m : Move)
  /-- R199 -/
  | popc (unit : BitVec 1) (m : Move)
  /-- R199 -/
  | sext (unit : BitVec 1) (m : Move)
  /-- R199 -/
  | zext (unit : BitVec 1) (m : Move)
  /-- R200 -/
  | bfx (unit : BitVec 1) (m : Move)
  /-- R200 -/
  | bfi (unit : BitVec 1) (m : Move)
  /-- R199 -/
  | addw (unit : BitVec 1) (m : Move)
  /-- R199 -/
  | subw (unit : BitVec 1) (m : Move)
  /-- R199 -/
  | adds (unit : BitVec 1) (m : Move)
  /-- R199 -/
  | subs (unit : BitVec 1) (m : Move)
  /-- R199 -/
  | adds16 (unit : BitVec 1) (m : Move)
  /-- R199 -/
  | lea (unit : BitVec 1) (m : Move)
  /-- R201 -/
  | mul (m : Move)
  /-- R201 -/
  | mulhs (m : Move)
  /-- R201 -/
  | mulhu (m : Move)
  /-- R201 -/
  | mulw (m : Move)
  /-- R201 -/
  | madd (m : Move)
  /-- R202 -/
  | div (m : Move)
  /-- R202 -/
  | divu (m : Move)
  /-- R202 -/
  | rem (m : Move)
  /-- R202 -/
  | remu (m : Move)
  /-- R204 -/
  | fadd (m : Move)
  /-- R204 -/
  | fsub (m : Move)
  /-- R204 -/
  | fmul (m : Move)
  /-- R204 -/
  | ffma (m : Move)
  /-- R205 -/
  | fmin (m : Move)
  /-- R205 -/
  | fmax (m : Move)
  /-- R205 -/
  | fminnum (m : Move)
  /-- R205 -/
  | fmaxnum (m : Move)
  /-- R204 -/
  | fabs (m : Move)
  /-- R204 -/
  | fneg (m : Move)
  /-- R204 -/
  | fdiv (m : Move)
  /-- R204 -/
  | fsqrt (m : Move)
  /-- R206 -/
  | fcmpeq (m : Move)
  /-- R206 -/
  | fcmplt (m : Move)
  /-- R206 -/
  | fcmple (m : Move)
  /-- R207 -/
  | cvtif (m : Move)
  /-- R207 -/
  | cvtfi (m : Move)
  /-- R207 -/
  | cvtfb (m : Move)
  /-- R207 -/
  | cvtbf (m : Move)
  /-- R208 -/
  | fclass (m : Move)
  /-- R233 -/
  | ld8 (m : Move)
  /-- R233 -/
  | ld8s (m : Move)
  /-- R233 -/
  | ld16 (m : Move)
  /-- R233 -/
  | ld16s (m : Move)
  /-- R233 -/
  | ld32 (m : Move)
  /-- R233 -/
  | ld32s (m : Move)
  /-- R233 -/
  | ld64 (m : Move)
  /-- R233 -/
  | st8 (m : Move)
  /-- R233 -/
  | st16 (m : Move)
  /-- R233 -/
  | st32 (m : Move)
  /-- R233 -/
  | st64 (m : Move)
  /-- R234 -/
  | amoadd (m : Move)
  /-- R234 -/
  | amomin (m : Move)
  /-- R234 -/
  | amomax (m : Move)
  /-- R234 -/
  | amominu (m : Move)
  /-- R234 -/
  | amomaxu (m : Move)
  /-- R234 -/
  | amoand (m : Move)
  /-- R234 -/
  | amoor (m : Move)
  /-- R234 -/
  | amoxor (m : Move)
  /-- R234 -/
  | amoswap (m : Move)
  /-- R234 -/
  | amocas (m : Move)
  /-- R235 -/
  | amofadd (m : Move)
  /-- R235 -/
  | amofmax (m : Move)
  /-- R235 -/
  | amofmin (m : Move)
  /-- R234 -/
  | amoadd64 (m : Move)
  /-- R234 -/
  | amoswap64 (m : Move)
  /-- R234 -/
  | amocas64 (m : Move)
  /-- R236 -/
  | redadd (m : Move)
  /-- R236 -/
  | redmin (m : Move)
  /-- R236 -/
  | redmax (m : Move)
  /-- R236 -/
  | redminu (m : Move)
  /-- R236 -/
  | redmaxu (m : Move)
  /-- R236 -/
  | redand (m : Move)
  /-- R236 -/
  | redor (m : Move)
  /-- R236 -/
  | redxor (m : Move)
  /-- R236 -/
  | redfadd (m : Move)
  /-- R236 -/
  | redfmax (m : Move)
  /-- R236 -/
  | redfmin (m : Move)
  /-- R236 -/
  | redadd64 (m : Move)
  /-- R237 -/
  | wge (m : Move)
  /-- R237 -/
  | wne (m : Move)
  /-- R214 -/
  | tgt (n : BitVec 2) (m : Move)
  /-- R210 -/
  | peq (m : Move)
  /-- R210 -/
  | pne (m : Move)
  /-- R210 -/
  | plt (m : Move)
  /-- R210 -/
  | pltu (m : Move)
  /-- R210 -/
  | ple (m : Move)
  /-- R210 -/
  | pleu (m : Move)
  /-- R211 -/
  | pnot (m : Move)
  /-- R211 -/
  | pand (m : Move)
  /-- R211 -/
  | por (m : Move)
  /-- R211 -/
  | pdup (m : Move)
  /-- R211 -/
  | ppop (m : Move)
  /-- R216 -/
  | jmp (m : Move)
  /-- R215 -/
  | jt (m : Move)
  /-- R215 -/
  | jf (m : Move)
  /-- R215 -/
  | jtn (m : Move)
  /-- R215 -/
  | jfn (m : Move)
  /-- R218 -/
  | call (m : Move)
  /-- R218 -/
  | ret (m : Move)
  /-- R221 -/
  | loop (m : Move)
  /-- R220 -/
  | lstages (m : Move)
  /-- R223 -/
  | lcnt (m : Move)
  /-- R220 -/
  | lstart (m : Move)
  /-- R220 -/
  | lend (m : Move)
  /-- R213 -/
  | vany (m : Move)
  /-- R213 -/
  | vall (m : Move)
  /-- R212 -/
  | rdps (m : Move)
  /-- R212 -/
  | wrps (m : Move)
  /-- R247 -/
  | vmov (m : Move)
  /-- R247 -/
  | vadd (m : Move)
  /-- R247 -/
  | vsub (m : Move)
  /-- R247 -/
  | vmul (m : Move)
  /-- R247 -/
  | vmin (m : Move)
  /-- R247 -/
  | vmax (m : Move)
  /-- R247 -/
  | vminu (m : Move)
  /-- R247 -/
  | vmaxu (m : Move)
  /-- R247 -/
  | vand (m : Move)
  /-- R247 -/
  | vor (m : Move)
  /-- R247 -/
  | vxor (m : Move)
  /-- R247 -/
  | vshl (m : Move)
  /-- R247 -/
  | vshr (m : Move)
  /-- R247 -/
  | vsar (m : Move)
  /-- R247 -/
  | vadds16 (m : Move)
  /-- R247 -/
  | vmin16 (m : Move)
  /-- R247 -/
  | vmax16 (m : Move)
  /-- R248 -/
  | vfadd (m : Move)
  /-- R248 -/
  | vfsub (m : Move)
  /-- R248 -/
  | vfmul (m : Move)
  /-- R248 -/
  | vffma (m : Move)
  /-- R248 -/
  | vfmin (m : Move)
  /-- R248 -/
  | vfmax (m : Move)
  /-- R249 -/
  | vfexp2 (m : Move)
  /-- R249 -/
  | vflog2 (m : Move)
  /-- R249 -/
  | vfrcp (m : Move)
  /-- R249 -/
  | vfrsqrt (m : Move)
  /-- R250 -/
  | vcvtf (m : Move)
  /-- R250 -/
  | vcvti (m : Move)
  /-- R251 -/
  | vpack (m : Move)
  /-- R253 -/
  | vunpack (m : Move)
  /-- R254 -/
  | vcmpeq (m : Move)
  /-- R254 -/
  | vcmplt (m : Move)
  /-- R254 -/
  | vcmple (m : Move)
  /-- R254 -/
  | vfcmpeq (m : Move)
  /-- R254 -/
  | vfcmplt (m : Move)
  /-- R254 -/
  | vfcmple (m : Move)
  /-- R254 -/
  | vsel (m : Move)
  /-- R254 -/
  | vperm (m : Move)
  /-- R254 -/
  | vbcast (m : Move)
  /-- R254 -/
  | vextr (m : Move)
  /-- R254 -/
  | vins (m : Move)
  /-- R255 -/
  | vredadd (m : Move)
  /-- R255 -/
  | vredmin (m : Move)
  /-- R255 -/
  | vredmax (m : Move)
  /-- R255 -/
  | vfredadd (m : Move)
  /-- R255 -/
  | vfredmax (m : Move)
  /-- R256 -/
  | vscan (m : Move)
  /-- R254 -/
  | vmand (m : Move)
  /-- R254 -/
  | vmor (m : Move)
  /-- R254 -/
  | vmnot (m : Move)
  /-- R254 -/
  | vmpopc (m : Move)
  /-- R239 -/
  | vld (m : Move)
  /-- R239 -/
  | vst (m : Move)
  /-- R240 -/
  | vldx (m : Move)
  /-- R240 -/
  | vstx (m : Move)
  /-- R241 -/
  | vldr (m : Move)
  /-- R241 -/
  | vstr (m : Move)
  /-- R242 -/
  | vlda (m : Move)
  /-- R242 -/
  | vsta (m : Move)
  /-- R242 -/
  | vacc (m : Move)
  /-- R239 -/
  | vld8 (m : Move)
  /-- R279 -/
  | kcfg (m : Move)
  /-- R280 -/
  | kflow (m : Move)
  /-- R282 -/
  | kswitch (m : Move)
  /-- R283 -/
  | kstart (m : Move)
  /-- R286 -/
  | kdrain (m : Move)
  /-- R287 -/
  | kzero (m : Move)
  /-- R281 -/
  | ksel (m : Move)
  /-- R288 -/
  | kring (m : Move)
  /-- R289 -/
  | kpop (m : Move)
  /-- R290 -/
  | cpy (m : Move)
  /-- R293 -/
  | cpyt (m : Move)
  /-- R294 -/
  | cpyf (m : Move)
  /-- R295 -/
  | cfetch (m : Move)
  /-- R296 -/
  | cwp (m : Move)
  /-- R296 -/
  | creset (m : Move)
  /-- R297 -/
  | sopen (m : Move)
  /-- R298 -/
  | sisect (m : Move)
  /-- R298 -/
  | sisectc (m : Move)
  /-- R298 -/
  | smerge (m : Move)
  /-- R298 -/
  | sdiff (m : Move)
  /-- R301 -/
  | sread (m : Move)
  /-- R302 -/
  | swbind (m : Move)
  /-- R302 -/
  | swfree (m : Move)
  /-- R303 -/
  | epatch (m : Move)
  /-- R150 -/
  | eload (m : Move)
  /-- R150 -/
  | erd (m : Move)
  /-- R151 -/
  | esave (m : Move)
  /-- R151 -/
  | erest (m : Move)
  /-- R148 -/
  | estep (m : Move)
  /-- R148 -/
  | eclk (m : Move)
  /-- R147 -/
  | einc (m : Move)
  /-- R150 -/
  | ecnt (m : Move)
  /-- R315 -/
  | frd (m : Move)
  /-- R313 -/
  | fwr (m : Move)
  /-- R314 -/
  | fwrrel (m : Move)
  /-- R316 -/
  | fatom (m : Move)
  /-- R318 -/
  | fmcred (m : Move)
  /-- R319 -/
  | fmcst (m : Move)
  /-- R317 -/
  | fgrp (m : Move)
  /-- R320 -/
  | fbar (m : Move)
  /-- R321 -/
  | fstat (m : Move)
  /-- R324 -/
  | nop (m : Move)
  /-- R56 -/
  | fmt (m : Move)
  /-- R325 -/
  | csrr (m : Move)
  /-- R325 -/
  | csrw (m : Move)
  /-- R327 -/
  | fence (m : Move)
  /-- R328 -/
  | bar (m : Move)
  /-- R329 -/
  | trap (m : Move)
  /-- R40 -/
  | halt (m : Move)
  /-- R33 -/
  | cond (m : Move)
  /-- R35 -/
  | segend (m : Move)
  /-- R330 -/
  | tissue (m : Move)
  /-- R330 -/
  | tstat (m : Move)
  /-- R331 -/
  | tsc (m : Move)
  /-- R324 -/
  | mark (m : Move)
deriving DecidableEq, Repr

end Sys2Proof
end

