-- ==== Sys2Proof/Machine/Cause.lean ====
section
/-! DEFINITION. The causes of a stop and their codes (R421). -/

namespace Sys2Proof.Machine

/-- Why a task stopped; `brk` is BREAK (R421). -/
inductive Cause where
  | illegalSlot
  | illegalBundle
  | unitBusy
  | inflight
  | sbShadow
  | timing
  | trap
  | bankConflict
  | imageBad
  | xlateAbsent
  | xlatePerm
  | xlateBad
  | pinLimit
  | addrRange
  | align
  | footprint
  | windowGap
  | windowWrite
  | windowAccess
  | peerRect
  | pflagBad
  | replAtomic
  | raceRw
  | raceWw
  | raceWr
  | nodeBad
  | limit
  | overrun
  | outOfSegment
  | badEnd
  | delayRange
  | walkLimit
  | barRect
  | barMismatch
  | barOrphan
  | pstackOver
  | pstackUnder
  | pstackBad
  | branchTarget
  | loopRange
  | loopDepth
  | loopNest
  | loopState
  | loopXfer
  | fmtBad
  | csrRo
  | csrBad
  | fenceBad
  | ctlSel
  | tileDenied
  | tileWord
  | tileStage
  | tileQueue
  | vmemSpace
  | vidxConflict
  | vring
  | vaccType
  | vfmt
  | engDesc
  | engQueue
  | ringPtr
  | ringFeed
  | ringSize
  | ringUndef
  | ringFull
  | ringBusy
  | roleBad
  | fmtCombo
  | flowBad
  | flowCode
  | flowSkew
  | flowMap
  | klnOverlap
  | klnShadow
  | klnShadowBusy
  | klnFlowBusy
  | klnQuad
  | klnBeats
  | selectRange
  | brqSize
  | cellprogBad
  | drainType
  | kpopBad
  | selectK
  | cpyChan
  | cpyAlias
  | cpyOverlap
  | cpyShape
  | cpyBusy
  | tileHandle
  | tileFormat
  | tileRange
  | windowBind
  | windowUnbound
  | windowRange
  | windowIndex
  | spsOut
  | spsOverlap
  | spsSel
  | embPatch
  | embXdomain
  | embOrder
  | embInc
  | embMode
  | embCount
  | embBusy
  | embOverrun
  | fabLocal
  | fabRemote
  | fabGroup
  | fabRelcnt
  | fabType
  | fabSel
  | debugHalt
  | brk
  | step
deriving DecidableEq, Repr

/-- The 8-bit cause code (R421). -/
def Cause.code : Cause → Nat
  | .illegalSlot => 0x01
  | .illegalBundle => 0x02
  | .unitBusy => 0x03
  | .inflight => 0x04
  | .sbShadow => 0x05
  | .timing => 0x06
  | .trap => 0x07
  | .bankConflict => 0x08
  | .imageBad => 0x09
  | .xlateAbsent => 0x10
  | .xlatePerm => 0x11
  | .xlateBad => 0x12
  | .pinLimit => 0x13
  | .addrRange => 0x14
  | .align => 0x15
  | .footprint => 0x16
  | .windowGap => 0x17
  | .windowWrite => 0x18
  | .windowAccess => 0x19
  | .peerRect => 0x1A
  | .pflagBad => 0x1B
  | .replAtomic => 0x1C
  | .raceRw => 0x1D
  | .raceWw => 0x1E
  | .raceWr => 0x1F
  | .nodeBad => 0x20
  | .limit => 0x21
  | .overrun => 0x22
  | .outOfSegment => 0x23
  | .badEnd => 0x24
  | .delayRange => 0x25
  | .walkLimit => 0x26
  | .barRect => 0x27
  | .barMismatch => 0x28
  | .barOrphan => 0x29
  | .pstackOver => 0x30
  | .pstackUnder => 0x31
  | .pstackBad => 0x32
  | .branchTarget => 0x33
  | .loopRange => 0x34
  | .loopDepth => 0x35
  | .loopNest => 0x36
  | .loopState => 0x37
  | .loopXfer => 0x38
  | .fmtBad => 0x40
  | .csrRo => 0x41
  | .csrBad => 0x42
  | .fenceBad => 0x43
  | .ctlSel => 0x44
  | .tileDenied => 0x45
  | .tileWord => 0x46
  | .tileStage => 0x47
  | .tileQueue => 0x48
  | .vmemSpace => 0x49
  | .vidxConflict => 0x4A
  | .vring => 0x4B
  | .vaccType => 0x4C
  | .vfmt => 0x4D
  | .engDesc => 0x50
  | .engQueue => 0x51
  | .ringPtr => 0x52
  | .ringFeed => 0x53
  | .ringSize => 0x54
  | .ringUndef => 0x55
  | .ringFull => 0x56
  | .ringBusy => 0x57
  | .roleBad => 0x58
  | .fmtCombo => 0x59
  | .flowBad => 0x5A
  | .flowCode => 0x5B
  | .flowSkew => 0x5C
  | .flowMap => 0x5D
  | .klnOverlap => 0x5E
  | .klnShadow => 0x60
  | .klnShadowBusy => 0x61
  | .klnFlowBusy => 0x62
  | .klnQuad => 0x63
  | .klnBeats => 0x64
  | .selectRange => 0x65
  | .brqSize => 0x66
  | .cellprogBad => 0x67
  | .drainType => 0x68
  | .kpopBad => 0x69
  | .selectK => 0x6A
  | .cpyChan => 0x70
  | .cpyAlias => 0x71
  | .cpyOverlap => 0x72
  | .cpyShape => 0x73
  | .cpyBusy => 0x74
  | .tileHandle => 0x75
  | .tileFormat => 0x76
  | .tileRange => 0x77
  | .windowBind => 0x78
  | .windowUnbound => 0x79
  | .windowRange => 0x7A
  | .windowIndex => 0x7B
  | .spsOut => 0x7C
  | .spsOverlap => 0x7D
  | .spsSel => 0x7E
  | .embPatch => 0x80
  | .embXdomain => 0x81
  | .embOrder => 0x82
  | .embInc => 0x83
  | .embMode => 0x84
  | .embCount => 0x85
  | .embBusy => 0x86
  | .embOverrun => 0x87
  | .fabLocal => 0x90
  | .fabRemote => 0x91
  | .fabGroup => 0x92
  | .fabRelcnt => 0x93
  | .fabType => 0x94
  | .fabSel => 0x95
  | .debugHalt => 0xA0
  | .brk => 0xA1
  | .step => 0xA2

end Sys2Proof.Machine
end

