-- ==== Sys2Proof/Machine/CoreState.lean ====
section
/-! DEFINITION. The parts of a compute core's state: task, stream, loops, results in flight, memory interface, stops (R17, R28). -/

namespace Sys2Proof.Machine

/-- A coordinate-given rectangle of cores (R22). -/
structure Rect where
  x0 : Nat
  y0 : Nat
  w : Nat
  h : Nat
deriving DecidableEq, Repr

/-- What the scheduler gave the task (R24, R27): its launch slot and LAUNCH_ID, rectangle, ASID, footprints
in 64 KiB units, priority, pre-emptible flag, tile entitlement, image address, start timestamp. -/
structure Task where
  slot : Nat
  launchId : W64
  rect : Rect
  asid : Nat
  spUnits : Nat
  accUnits : Nat
  prio : Nat
  preemptible : Bool
  pkgGrant : Bool
  grpGrant : Bool
  image : Nat
  imageLen : Nat
deriving DecidableEq, Repr

/-- The 32-bit, 64-bit and vector registers a bundle names (R17). `sLatch` is indexed by unit; units without
a scalar latch keep zero there. `vLatch` holds vec, vmem, emb. `sPort` holds operand port p of unit u at 8u + p;
`vPort` holds VEC a, VEC b, VMEM b, VMEM c (R14, R174, R418). -/
structure Regs where
  n : Vector W64 32
  v : Vector VReg 16
  x : Vector W64 8
  b : Vector W64 4
  sq : Vector W64 16
  vq : Vector VReg 8
  sLatch : Vector W64 16
  vLatch : Vector VReg 3
  sPort : Vector W64 128
  vPort : Vector VReg 4
deriving DecidableEq, Repr

/-- One hardware loop level (R221, R226). `stages` is the stage count minus 1; `pend` is the value of an lcnt that the
next loop-back test takes (R223); `fresh` says that its first pass has not started (R221). -/
structure Level where
  active : Bool
  fresh : Bool
  stages : BitVec 3
  sp : BitVec 8
  pend : Option W32
  count : W32
  first : BitVec 14
  last : BitVec 14
deriving DecidableEq, Repr

/-- The two levels and the pending start, end and stages (R220, R226). -/
structure Loops where
  outer : Level
  inner : Level
  pendStages : BitVec 3
  pendFirst : BitVec 14
  pendLast : BitVec 14
deriving DecidableEq, Repr

/-- A position of the issue stream (R216): its bundle, whether an untaken jtn or jfn nullified it, whether it is
a delay position of a taken transfer or of a loop, whether a taken transfer names it as target, and whether it has issued before and
stands here for its wait alone (R237). -/
structure Pos where
  idx : BitVec 14
  null : Bool
  xferDelay : Bool
  loopDelay : Bool
  target : Bool
  again : Bool := false
deriving DecidableEq, Repr

/-- The segment that runs (R30): its node, its range, and the delay bundles still to issue after a segend (R35). -/
structure Segment where
  node : Nat
  first : BitVec 14
  last : BitVec 14
  ending : Option Nat
deriving DecidableEq, Repr

/-- A walk between segments: the node it has reached and the conditional and while nodes passed (R35). -/
structure Walk where
  node : Nat
  passed : Nat
deriving DecidableEq, Repr

/-- The trigger a result, a command or a record comes from (R359). -/
structure Origin where
  unit : Nat
  slot : Nat
  bundle : BitVec 14
  tcc : Nat
deriving DecidableEq, Repr

/-- The step of an atomic (R234). -/
inductive AmoOp where
  | add | min | max | minu | maxu | and | or | xor | swap | cas | fadd | fmax | fmin
deriving DecidableEq, Repr

/-- How an atomic returns the old value (R234). -/
inductive Ext where
  | zero
  | sign
deriving DecidableEq, Repr

/-- An atomic's operands: operation, width in bytes, data, compare value, extension. -/
structure Amo where
  op : AmoOp
  width : Nat
  d : W64
  c : W64
  ext : Ext
deriving DecidableEq, Repr

/-- What a pending item does when it lands or performs (R361, R422). A result whose value comes from outside or
from a scratchpad atomic not yet performed holds none; `spAmo` names the pending result it gives its old word to. -/
inductive PendAct where
  | csr (num : BitVec 12) (v : W64)
  | scalar (toLatch : Bool) (v : Option W64)
  | vector (v : VReg)
  | embVector (cmd : Nat) (v : Option VReg)
  | reg (idx : BitVec 6) (v : W64)
  | vreg (idx : BitVec 4) (v : VReg)
  | breg (idx : BitVec 2) (v : W64)
  | pstack (st : List Bool)
  | level (which : Bool) (l : Level)
  | lcnt (which : Bool) (v : W32)
  | loopPend (stages : Option (BitVec 3)) (first last : Option (BitVec 14))
  | cond (v : W64)
  | fmt (v : W32)
  | ringHead (ring : BitVec 3) (tiles : Nat)
  | cwpReset (ch : BitVec 1)
  | spWrite (addr len data : Nat)
  | accWrite (addr len data : Nat)
  | spLanes (cells : List (Nat × W32))
  | spAmo (addr : Nat) (op : Amo) (result : Option Nat)
  | accAdd (addr : Nat) (v : VReg) (fmt : W32)
  | vgather (addrs : List Nat) (v : Nat)
deriving DecidableEq, Repr

/-- A result in flight: its landing or perform cycle, issue order, unit, FSTAT flags and origin (R347, R348). -/
structure Pend where
  tcc : Nat
  seq : Nat
  unit : Nat
  act : PendAct
  flags : BitVec 7
  org : Origin
deriving DecidableEq, Repr

/-- A bank use by a scheduled requester (R80, R364). Store 0 is the scratchpad, 1 the accumulator store. -/
structure Booking where
  tcc : Nat
  store : Nat
  bank : Nat
  row : Nat
  write : Bool
  unit : Nat
  slot : Nat
  bundle : Nat
deriving DecidableEq, Repr

/-- An item a schedule needs, whose lateness is judged (R355). -/
inductive Need where
  | result (seq : Nat)
  | page (va : Nat) (read write : Bool)
  | handle (va pa len : Nat) (repl : Bool) (cls : BitVec 3)
  | ring (pass : Nat)
  | stream (pass : Nat)
  | follow (ch : BitVec 1)
  | copyUnit (id u : Nat)
  | sps
  | wbuf
  | refetch (until_ : Nat)
  | relock
  | alarm
  | tile (instr : Nat)
deriving DecidableEq, Repr

/-- A late item: its code, origin, the slot that needs it, the need, and the hold cycles after which it arrived. -/
structure Late where
  code : Nat
  org : Origin
  nslot : Nat
  need : Need
  arrived : Option Nat
deriving DecidableEq, Repr

/-- What the core is doing (R40, R41): no task, running, held, stopping (draining), stopped with its image in a
frame, being restored, halted with results and engines still running out. -/
inductive Mode where
  | off
  | run
  | hold
  | stopping
  | stopped
  | restoring
  | halted
deriving DecidableEq, Repr

/-- A hold in progress: the timestamp of its start, the cycles held so far, its items, and the mode
that the core goes back to (R356). -/
structure Hold where
  ts : W64
  cycles : Nat
  items : List Late
  back : Mode
deriving DecidableEq, Repr

/-- A wait that pauses issue: a word compared with a value, and once the global word has
been found to satisfy it the moment at which the core learns of it (R237); a bar, with the package
time of its release once its barrier completes (R38). -/
inductive Wait where
  | word (ne : Bool) (ea : Nat) (c : W64) (slot : Nat) (hit : Option Nat)
  | bar (rect : Rect) (slot : Nat) (release : Option W64)
deriving DecidableEq, Repr

/-- The index reads for which a bundle with a swbind waits at issue (R302): the descriptor as first read, and the indices read so far. -/
structure BindRead where
  desc : List Nat
  got : List Nat
deriving DecidableEq, Repr

/-- The record of a stop (R419). `cause` is none for a pre-emption; `after` says that the stop falls after the cycle, so the
next cycle is the first to run on resume, `halted` that the task had halted. -/
structure Stop where
  cause : Option Cause
  reason : Nat
  slot : Nat
  done : BitVec 4
  stallRem : Nat
  faddr : Nat
  finfo : Nat
  resumable : Bool
  after : Bool
  org : Origin
  halted : Bool := false
deriving DecidableEq, Repr

/-- A translation of one page (R411). -/
structure Leaf where
  asid : Nat
  va : Nat
  size : Nat
  pa : Nat
  r : Bool
  w : Bool
  rpl : Bool
deriving DecidableEq, Repr

/-- A walk asked of the hub: the page address, the access, when its result arrives, and the failure found (R413, R414). -/
structure PageWalk where
  va : Nat
  read : Bool
  write : Bool
  arrive : Nat
  failed : Option (Cause × Nat)
deriving DecidableEq, Repr

/-- Who waits for a global read. `handle` is the entry of a tile handle that a cfetch at issue waits for (R295). -/
inductive Reader where
  | slot (seq : Nat) (ext : Ext)
  | engine (unit cmd item : Nat)
  | wait
  | handle
  | none
deriving DecidableEq, Repr

/-- What a global access does at its home controller (R113, R234); `later` is a copy unit's write whose bytes have not come. -/
inductive GAct where
  | read (len : Nat) (rd : Reader)
  | write (data : List Byte)
  | amo (op : Amo) (rd : Reader)
  | later
deriving DecidableEq, Repr

/-- A global access on its way (R100, R113): its number, its place in core order (that of its operation for an access of a fabric
operation), class, addresses, whether its page is replicated, when it reaches its controller, its origin, whether an engine makes it,
whether it is exempt from the race check, and a race it met. -/
structure GAccess where
  id : Nat
  place : Nat
  cls : BitVec 3
  va : Nat
  pa : Nat
  repl : Bool
  act : GAct
  arrive : Nat
  org : Origin
  engine : Bool
  perform : Bool
  raced : Option (Cause × Nat)
deriving DecidableEq, Repr

/-- Kinds of fence (R101, R327). -/
inductive FenceKind where
  | release
  | acquire
  | full
deriving DecidableEq, Repr

/-- A fence that has not performed: its place in core order, kind and scope. -/
structure Fence where
  id : Nat
  kind : FenceKind
  scope : BitVec 2
deriving DecidableEq, Repr

/-- The trace session of a core (R427, R429): the launch it is for, the area, the records waiting in the buffer with the
launch's bytes written and dropped, the sampler's seed, how many gaps it has drawn and the positions left of the present one,
and the stall, hold and wait cycles before the next position. `closing` holds the terminal record to come. -/
structure Trace where
  isOpen : Bool
  launch : W64
  closing : Option (List W64)
  kinds : BitVec 8
  logp : Nat
  seed : Nat
  draws : Nat
  gap : Nat
  buf : List (List W64)
  wptr : W64
  dropped : W64
  stallN : Nat
  holdN : Nat
  waitN : Nat
deriving DecidableEq, Repr

/-- What follows when an opportunistic request is served (R80): nothing, a rise of the 64-bit word at an offset (R78), the
change of a completion word with a code or with success (R309), the step of a remote atomic with the number of its request (R316), or word to
its engine that an item of a command is done. -/
inductive After where
  | none
  | raise (off : Nat)
  | complete (off code : Nat)
  | atomic (off : Nat) (op : Amo) (req : Nat)
  | engine (unit cmd item : Nat)
deriving DecidableEq, Repr

/-- An opportunistic request waiting for its bank (R80): its place in the list of requesters, the group it belongs to, the
store, the offset, how many bytes it reads, the bytes it writes, and what follows. -/
structure OppReq where
  rank : Nat
  grp : Nat
  acc : Bool
  off : Nat
  len : Nat
  data : List Byte
  after : After
deriving DecidableEq, Repr

end Sys2Proof.Machine
end

