-- ==== Sys2Proof/Machine/EngState.lean ====
section
/-! DEFINITION. The state of a core's engines: rings and the Kiln, copy channels, sparse streams, gather windows, the Ember field
(R13, R306). -/

namespace Sys2Proof.Machine

/-! ## Rings and gather windows -/

/-- An operand ring (R82): `feed` as the register codes it, sizes in bytes and slots, tiles produced and consumed, the fill
position, and the copies assigned to it: channel, first tile position, tiles, first channel unit (R84, R140). -/
structure Ring where
  v : Bool
  feed : Nat
  tileU : Nat
  slots : Nat
  base : Nat
  head : W32
  tail : W32
  fill : Nat
  assigned : List (Nat × Nat × Nat × Nat)
deriving DecidableEq, Repr

/-- A gather window's binding (R86). -/
structure Binding where
  tbase : Nat
  rstride : Nat
  rows : Nat
  rsize : Nat
  idx : Nat
  count : Nat
deriving DecidableEq, Repr

/-- A change of a window's binding at a start cycle: swbind gives one, swfree takes it away (R87, R302). -/
structure BindSwitch where
  id : Nat
  w : Nat
  start : Nat
  bind : Option Binding
deriving DecidableEq, Repr

/-! ## The Kiln -/

/-- A cell's transient: register bits, an unrounded product, a four-lane window with its flags, scale exponent, lsb and
whether the captured ACC is INT32, or sixteen bytes that a debugger wrote (R259, R263, R418, R425). -/
inductive TVal where
  | bits (v : W64)
  | raw (v : BitVec 128)
  | prod (p : Fv)
  | window (w : Int) (nan inv pinf ninf scn : Bool) (sc lsb : Int) (int : Bool)
deriving DecidableEq, Repr

/-- A configuration (R117): programs and constants by class, the class map, micro-bundles, flow, and edge skews, as the table
of 128 or the constant C. -/
structure KCfg where
  sp : List Nat
  lp : List Nat
  k0 : List Nat
  k1 : List Nat
  map : Nat
  ub : List Nat
  flow : Nat
  skews : Option (List Nat)
  c : Nat
deriving DecidableEq, Repr

/-- One cell (R117, R257, R258): `valid` and `validN` are the tags that came with WI and NI (R267), `due` is a fixed-datapath
result with the cycle of its write (R121), `blk` its open window. -/
structure Cell where
  c0 : W64
  c1 : W64
  t : TVal
  u : Nat
  wi : W64
  ni : W64
  valid : Bool
  validN : Bool
  cfg : Nat
  due : Option (Nat × W64)
  blk : TVal
deriving DecidableEq, Repr

/-- What a pending shadow write changes (R279 to R281). -/
inductive ShadowAct where
  | block (sp lp k0 k1 : List Nat) (map : Nat) (ub : List Nat)
  | flow (flow : Nat) (skews : Option (List Nat)) (c : Nat)
  | consts (mask k0 k1 : Nat)
deriving DecidableEq, Repr

/-- Whether a shadow write is a kcfg's or a kflow's, for which a kswitch must wait (R132). -/
def ShadowAct.isLoad : ShadowAct → Bool
  | .consts .. => false
  | _ => true

/-- A kcfg, kflow or ksel whose write is not complete (R132). -/
structure ShadowWrite where
  id : Nat
  start : Nat
  done : Nat
  act : ShadowAct
deriving DecidableEq, Repr

/-- A switch token: its cycle W, its quadrant or the whole array, and the configuration it carries once injected (R132, R282). -/
structure Token where
  id : Nat
  w : Nat
  quad : Option Nat
  cfg : Option Nat
deriving DecidableEq, Repr

/-- A role of a pass (R284): its number, ring, declared tiles, whether STREAM, and, once the pass has started, the tile position
its stream begins at. -/
structure Role where
  r : Nat
  ring : Nat
  tiles : Nat
  stream : Bool
  pos : Option Nat
deriving DecidableEq, Repr

/-- One beat read at the edges (R121, R133, R137): per row the element or its candidates, per column the element or its
candidates, select nibbles, scales, whether it opens or closes a block or carries nothing, and the rows and columns whose blocks
meet a scale of 0xFF (R138), and the block it belongs to. -/
structure EdgeBeat where
  b : Nat
  rows : List (List Nat)
  cols : List (List Nat)
  nibs : List (List Nat)
  sa : List Nat
  sb : List Nat
  opens : Bool
  closes : Bool
  null : Bool
  nanR : List Nat
  nanC : List Nat
  blk : Nat
deriving DecidableEq, Repr

/-- A pass (R120, R283): its descriptor, the captured FMT, the flow and skews it runs under, its beat count and period, and as
it runs the beats between edge and cells, the Briquette's buffer or a WS pass's scales, the block its map has reached and whether its
map has ended, words gathered on the way in, the outputs on their way, the flags it has raised, and under TRI the latest kzero of c0 or
c1 that met it (R287), whether it runs the programs of R273, and the inputs that each cell's beat in progress holds (R258). -/
structure Pass where
  id : Nat
  start : Nat
  code : Nat
  fresh : Bool
  accum : Bool
  dirs : Bool
  pre : Bool
  quad : Option Nat
  sel : Nat
  cnd : Bool
  trim : Nat
  n : Nat
  q : Nat
  ext : Nat
  roles : List Role
  arg : Nat
  selOff : Nat
  selLen : Nat
  fmt : W32
  flow : Nat
  skews : Option (List Nat)
  c : Nat
  s : Nat
  nl : Nat
  beatN : Nat
  lb : Nat
  org : Origin
  edges : List EdgeBeat
  bitmap : List Byte
  values : List Byte
  blkNext : Nat
  ended : Bool
  rowsIn : List (List Nat)
  outs : List (Nat × Bool × Nat × List Byte)
  flags : BitVec 7
  zeroed : Option Nat
  std : Bool
  held : List (Nat × Nat × Nat)
deriving DecidableEq, Repr

/-- A drain (R286): its descriptor, the captured FMT, and rows sampled and not yet written. -/
structure Drain where
  id : Nat
  start : Nat
  reg1 : Bool
  acc : Bool
  quad : Option Nat
  st : Nat
  dt : Nat
  off : Nat
  rstr : Nat
  fmt : W32
  org : Origin
  held : List (Nat × List W64)
deriving DecidableEq, Repr

/-- A kzero (R287): the registers c0, c1, T as bits 0 to 2. -/
structure KZero where
  id : Nat
  start : Nat
  regs : Nat
  quad : Option Nat
deriving DecidableEq, Repr

/-- A kring (R288). -/
structure KRing where
  id : Nat
  start : Nat
  n : Nat
  ring : Ring
deriving DecidableEq, Repr

/-- The Kiln (R117, R306): the cells that differ from zeros, the configurations that cells hold by number, the number last
injected per quadrant, the shadow, and the commands. `ends` is the end of the latest pass per quadrant (R123). -/
structure Kiln where
  cells : List (Nat × Cell)
  cfgs : List KCfg
  quadCfg : List Nat
  shadow : KCfg
  writes : List ShadowWrite
  tokens : List Token
  passes : List Pass
  drains : List Drain
  zeros : List KZero
  krings : List KRing
  ends : List Nat
  kstat : W64
deriving DecidableEq, Repr

/-! ## Copies (R84, R85, R290 to R295) -/

/-- Where a copy writes: an address with a row stride, or a ring from a tile position. -/
inductive CopyDst where
  | addr (dst : Nat) (stride : Int)
  | ring (n pos : Nat)
deriving DecidableEq, Repr

/-- A unit requested and not yet written: its number from 0, the pieces that have come, how many make it whole, the time from
which it may be written, its writes' places in core order, and whether it has left for its destination. -/
structure CUnit where
  u : Nat
  parts : List (Nat × List Byte)
  need : Nat
  due : Nat
  wid : Nat
  sent : Bool
deriving DecidableEq, Repr

/-- A copy (R290, R292): its shape, its translations, the bindings of the windows it reads through, PFLAG at issue, the channel unit before its
first, units requested and written, units on their way, whether its flag has left, the follow-on command's cycle. -/
structure Copy where
  id : Nat
  ch : Nat
  start : Nat
  cls : BitVec 3
  rows : Nat
  rlu : Nat
  src : Nat
  sstride : Int
  dst : CopyDst
  esz : Nat
  leaves : List Leaf
  binds : List (Nat × Binding)
  pflag : Nat
  first : Nat
  issued : Nat
  written : Nat
  units : List CUnit
  raised : Bool
  follow : Option Nat
  org : Origin
deriving DecidableEq, Repr

/-! ## Sparse streams (R297 to R301) -/

/-- A stream slot (R297). -/
structure SSlot where
  base : Nat
  n : Nat
deriving DecidableEq, Repr

/-- The operation of a sparse stream command (R298). -/
inductive SpsOp where
  | isect
  | isectc
  | diff
  | merge (dedup : Bool)
deriving DecidableEq, Repr

/-- A sparse stream command (R298, R300): its input slots, output, due cycle; the pieces read of its inputs, whether its keys have
been formed, its count, and whether COUNT and TOTAL have taken it. -/
structure SpsCmd where
  id : Nat
  start : Nat
  due : Nat
  cls : BitVec 3
  op : SpsOp
  ins : List SSlot
  out : Nat
  keys : List (Nat × List Byte)
  formed : Bool
  count : Nat
  counted : Bool
  org : Origin
deriving DecidableEq, Repr

/-! ## The Ember field (R142 to R155) -/

/-- A cell of the field (R142): Y and R signed, CNT, Z. -/
structure ECell where
  y : Int
  r : Int
  cnt : W32
  z : Int
deriving DecidableEq, Repr

/-- An external line (R147). -/
structure ELine where
  v : Int
  held : Bool
  since : Nat
deriving DecidableEq, Repr

/-- A domain's mode (R148). -/
inductive EMode where
  | stopped
  | periodic (d e : Nat)
  | counted (owed : Nat)
deriving DecidableEq, Repr

/-- A domain: its mode and STEPS (R149). -/
structure EDom where
  mode : EMode
  steps : BitVec 39
deriving DecidableEq, Repr

/-- What an Ember command does (R303). -/
inductive EAct where
  | patch (entries : List (Nat × W64))
  | load (g off : Nat) (mask : W64)
  | inc (g : Nat) (lanes : List Nat)
  | read (g : Nat) (cnt : Bool)
  | save (dmask off : Nat)
  | rest (dmask off : Nat)
  | step (d count : Nat)
  | clk (d mode div : Nat)
deriving DecidableEq, Repr

/-- An Ember command, and whether its start cycle has come; an esave keeps its snapshot, and an erest the cells it is for and the
rows it has read (R151). -/
structure ECmd where
  id : Nat
  start : Nat
  act : EAct
  begun : Bool
  snap : List (Nat × Nat × Nat)
  rows : List (Nat × List Byte)
  org : Origin
deriving DecidableEq, Repr

/-- The Ember field (R142, R144, R147 to R149, R154, R306). `plan` is the patch table with every issued epatch in it and
`patched` the latest START of one (R305), `stepped` the latest cycle in which a domain stepped (R147), `loaded` what the eloads of the latest
cycle with one have replaced: cycle, command, cell and its Y, for a bank conflict that undoes them (R81). -/
structure Ember where
  cells : List (Nat × ECell)
  patch : List (Nat × W64)
  plan : List (Nat × W64)
  patched : Nat
  lines : List (Nat × ELine)
  doms : Vector EDom 4
  stepped : Option Nat
  flt : W64
  cmds : List ECmd
  loaded : List (Nat × Nat × Nat × Int)
deriving DecidableEq, Repr

/-! ## Fabric commands (R307 to R322) -/

/-- What a FAB command asks (R313 to R320): target module or group, lengths in units, local and remote addresses. -/
inductive FabOp where
  | store (rel rlx : Bool) (tmod len flag : Nat)
  | read (tmod len : Nat)
  | atomic (tmod aop : Nat) (cmp : W64) (res : Option Nat)
  | reduce (g op type n status : Nat)
  | cast (g len foff : Nat) (rlx : Bool) (status : Nat)
  | group (g : Nat) (clr : Bool) (key : Nat) (members : List (Nat × Nat))
  | barrier (g status : Nat)
deriving DecidableEq, Repr

/-- A FAB command that has not left the core (R308, R312): its operands as read at issue, its place in core order, the count an
fwrrel carries (R314), its pages, and the source units asked for and read. -/
structure FabCmd where
  id : Nat
  start : Nat
  cls : BitVec 3
  op : FabOp
  a : Nat
  b : W64
  cw : Nat
  gid : Nat
  count : Nat
  leaves : List Leaf
  asked : Nat
  src : List (Nat × List Byte)
  org : Origin
deriving DecidableEq, Repr

/-- The fabric unit of a core: commands, the groups it has set up with its fbar count on each (R317, R320), stores per target
since the last fwrrel (R314), and fstat requests: result number, selector, tag, arrival (R321). -/
structure Fab where
  cmds : List FabCmd
  groups : List (Nat × Nat)
  rel : List (Nat × Nat)
  stats : List (Nat × Nat × Nat × Nat)
deriving DecidableEq, Repr

/-- A command of a part's schedule (R384, R465): operand copies and the pass of chunk c, the drain, output unit u of the element unit,
the output copy, the last unit's write. -/
inductive TileCmd where
  | copyIn (c : Nat)
  | pass (c : Nat)
  | drain
  | element (u : Nat)
  | copyOut
  | last
deriving DecidableEq, Repr

/-- A fault that a tile has found (R386): code, element, operand, address, timestamp, and where it was found: level, member rank, core,
cluster. -/
structure TileFault where
  code : Nat
  row : Nat
  col : Nat
  opnd : Nat
  addr : Nat
  ts : Nat
  level : Nat
  rank : Nat
  core : Nat
  clus : Nat
deriving DecidableEq, Repr

/-- An operand read that a copy of a tile has still to ask for: its channel, its number, address and length. -/
structure TileAsk where
  ch : Nat
  item : Nat
  va : Nat
  len : Nat
deriving DecidableEq, Repr

/-- A tile under way (R384, R465): its number, the words of its operands' handles and side blocks, the commands still to come with
the cycles of their START, the operand reads by copy (virtual address and length), those still to be asked for, those still owed, the
operand bytes that have come by address, the units of C still to be sent with their addresses, whether their copy has started, the places in
core order of the writes sent. -/
structure TileRun where
  tile : Nat
  ops : List (List Nat)
  cmds : List (Nat × TileCmd)
  reads : List (List (Nat × Nat))
  asks : List TileAsk
  owed : List Nat
  data : Mem
  outs : List (Nat × List Byte)
  leaving : Bool
  wids : List Nat
deriving DecidableEq, Repr

/-- A part of a tile instruction on a core (R378 to R385, R465): the instruction, its word and tissue, whether the core issued it, rank
among the executors and their number, its origin T0 once it has begun, the next copy start and the end of the latest pass, the tiles
it still has to run, whether it claims more from a pool, the tiles under way, and the ring registers and configurations to put back. -/
structure TilePart where
  instr : Nat
  word : List Nat
  org : Origin
  issuer : Bool
  rank : Nat
  size : Nat
  t0 : Option Nat
  cs : Nat
  ks : Nat
  todo : List Nat
  pool : Bool
  runs : List TileRun
  rings : List Ring
  quadCfg : List Nat
  shadow : KCfg
deriving DecidableEq, Repr

/-- The engines of a core (R13). `parts` are those that tile instructions have handed to the core, `tileFail`
is word 0 of the latest failed instruction's summary (R330); `delivered` holds bytes that have come back for an engine: unit, command, item; `pins` the pages
each live command holds (R414). -/
structure Engines where
  nid : Nat
  cwp : Vector (BitVec 48) 2
  rings : Vector Ring 8
  binds : List BindSwitch
  kiln : Kiln
  copies : List Copy
  chanEnd : List Nat
  slots : List (Nat × SSlot)
  sps : List SpsCmd
  spsEnd : Nat
  spsCount : W64
  spsTotal : W64
  ember : Ember
  fab : Fab
  parts : List TilePart
  tileFail : W64
  delivered : List (Nat × Nat × Nat × List Byte)
  pins : List (Nat × List Leaf)
deriving DecidableEq, Repr

/-- An undefined ring. -/
def Ring.none : Ring := { v := false, feed := 0, tileU := 0, slots := 1, base := 0, head := 0, tail := 0, fill := 0, assigned := [] }

/-- The configuration at the start pulse: zeros, length 1 (R28, R117). -/
def KCfg.zero : KCfg :=
  { sp := [0, 0, 0, 0], lp := [1, 1, 1, 1], k0 := [0, 0, 0, 0], k1 := [0, 0, 0, 0], map := 0, ub := [], flow := 0,
    skews := .none, c := 0 }

/-- An empty window: value 0, flags clear (R263). -/
def TVal.empty : TVal := .window 0 false false false false false 0 0 false

/-- A cell at the start pulse (R28). -/
def Cell.zero : Cell :=
  { c0 := 0, c1 := 0, t := .bits 0, u := 0, wi := 0, ni := 0, valid := false, validN := false, cfg := 0, due := none, blk := .empty }

/-- The Kiln at the start pulse (R28). -/
def Kiln.zero : Kiln :=
  { cells := [], cfgs := [.zero], quadCfg := [0, 0, 0, 0], shadow := .zero, writes := [], tokens := [], passes := [], drains := [],
    zeros := [], krings := [], ends := [0, 0, 0, 0], kstat := 0 }

/-- An Ember cell at the start pulse. -/
def ECell.zero : ECell := ⟨0, 0, 0, 0⟩

/-- A line at the start pulse: 0 and held (R147). -/
def ELine.zero : ELine := ⟨0, true, 0⟩

/-- The field at the start pulse (R28). -/
def Ember.zero : Ember :=
  { cells := [], patch := [], plan := [], patched := 0, lines := [], doms := Vector.replicate 4 ⟨.stopped, 0⟩, stepped := none, flt := 0, cmds := [], loaded := [] }

/-- The engines at the start pulse (R28). [DESIGN CHOICE, log 4] -/
def Engines.zero : Engines :=
  { nid := 0, cwp := Vector.replicate 2 0, rings := Vector.replicate 8 .none, binds := [], kiln := .zero, copies := [],
    chanEnd := [0, 0], slots := [], sps := [], spsEnd := 0, spsCount := 0, spsTotal := 0, ember := .zero, fab := ⟨[], [], [], []⟩, parts := [],
    tileFail := 0, delivered := [], pins := [] }

end Sys2Proof.Machine
end

