-- ==== Sys2Proof/Machine/CoreRec.lean ====
section
/-! DEFINITION. One compute core: everything it holds, and its values at the start pulse (R17, R28). -/

namespace Sys2Proof.Machine

/-- One compute core (R12, R17, R28). [DEDUCED, log 3] -/
structure Core where
  mode : Mode
  task : Task
  regs : Regs
  pstack : List Bool
  loops : Loops
  fmt : W32
  cond : W64
  tcc : Nat
  scc : BitVec 48
  sp : Mem
  acc : Mem
  imem : Mem
  -- control/status registers with storage of their own (R326)
  fstat : BitVec 7
  tcls : BitVec 3
  pflag : BitVec 24
  vpeer : BitVec 11
  vpscale : W32
  thbase : W64
  raceStat : W64
  raceAddr : W64
  schedCtl : BitVec 4
  devCnt : W32
  devLost : W64
  devLast : Vector W64 4
  bkpt : Vector W64 4
  -- issue (R216, R35, R178)
  cur : Pos
  curHdr : Bool
  slot : Nat
  bundle : Nat
  doneMask : BitVec 4
  captured : List (Nat × VReg)
  fq : List Pos
  seg : Segment
  walk : Option Walk
  counts : List (Nat × Nat)
  stall : Nat
  cycleOpen : Bool
  wait : Option Wait
  -- the place in core order of the wait under way (R100, R105)
  waitFrom : Nat
  -- of the bundle whose bar the core waits at: the slots that are done, and the source of the bar slot (R39, R423)
  barKept : BitVec 4 × List (Nat × VReg)
  -- results in flight (R361) and busy windows (R194)
  pend : List Pend
  seq : Nat
  mulBusy : Nat
  fpsBusy : Nat
  banks : List Booking
  opp : List OppReq
  -- the bank rows that opportunistic requesters have used in the present cycle (R80)
  oppUsed : List (Nat × Nat × Nat)
  -- memory interface (R100 to R105, R414)
  gacc : List GAccess
  fences : List Fence
  gid : Nat
  tlb : List Leaf
  heldLeaves : List Leaf
  walks : List PageWalk
  writeLog : List Nat
  engWrites : List (Bool × Nat × List Byte)
  -- stops (R356, R416)
  hold : Option Hold
  -- the start and the length of a hold that has ended in the present cycle (R358)
  held : Option (W64 × Nat)
  -- the handle-table entry that a cfetch at issue has fetched: its address and bytes (R295)
  handle : Option (Nat × List Byte)
  -- the index reads of a swbind at issue (R302)
  bindRead : Option BindRead
  stop : Option Stop
  stopAsked : Option Stop
  halt : Bool
  trapped : Option Nat
  frame : Nat
  skipBrk : Bool
  stepOne : Bool
  -- trace (R427)
  trace : Trace
  eng : Engines
deriving DecidableEq, Repr

/-- No task (R28). -/
def Task.none : Task :=
  { slot := 0, launchId := 0, rect := ⟨0, 0, 1, 1⟩, asid := 0, spUnits := 0, accUnits := 0, prio := 0,
    preemptible := false, pkgGrant := false, grpGrant := false, image := 0, imageLen := 0 }

/-- Every register of R17 at zero (R28). [DESIGN CHOICE, log 4] -/
def Regs.zero : Regs :=
  { n := Vector.replicate 32 0, v := Vector.replicate 16 0, x := Vector.replicate 8 0, b := Vector.replicate 4 0,
    sq := Vector.replicate 16 0, vq := Vector.replicate 8 0, sLatch := Vector.replicate 16 0,
    vLatch := Vector.replicate 3 0, sPort := Vector.replicate 128 0, vPort := Vector.replicate 4 0 }

/-- An inactive loop level (R28). -/
def Level.zero : Level :=
  { active := false, fresh := false, stages := 0, sp := 0, pend := none, count := 0, first := 0, last := 0 }

/-- No loop active (R28). -/
def Loops.zero : Loops :=
  { outer := .zero, inner := .zero, pendStages := 0, pendFirst := 0, pendLast := 0 }

/-- The position of bundle 0. -/
def Pos.zero : Pos := { idx := 0, null := false, xferDelay := false, loopDelay := false, target := false }

/-- No trace session. -/
def Trace.none : Trace :=
  { isOpen := false, launch := 0, closing := .none, kinds := 0, logp := 0, seed := 0, draws := 0, gap := 0, buf := [], wptr := 0,
    dropped := 0, stallN := 0, holdN := 0, waitN := 0 }

/-- A core without a task, every register at the value the start pulse gives it (R28). [DESIGN CHOICE, log 4; DEDUCED, log 6] -/
def Core.zero : Core :=
  { mode := .off, task := .none, regs := .zero, pstack := [], loops := .zero, fmt := 0, cond := 0, tcc := 0, scc := 0,
    sp := [], acc := [], imem := [], fstat := 0, tcls := 7, pflag := 0, vpeer := 0, vpscale := 0, thbase := 0,
    raceStat := 0, raceAddr := 0, schedCtl := 0, devCnt := 0, devLost := 0, devLast := Vector.replicate 4 0,
    bkpt := Vector.replicate 4 0, cur := .zero, curHdr := false, slot := 0, bundle := 0, doneMask := 0, captured := [],
    fq := [], seg := ⟨0, 0, 0, .none⟩, walk := .none, counts := [], stall := 0, cycleOpen := false, wait := .none, waitFrom := 0, barKept := (0, []), pend := [], seq := 0,
    mulBusy := 0, fpsBusy := 0, banks := [], opp := [], oppUsed := [], gacc := [], fences := [], gid := 0, tlb := [], heldLeaves := [], walks := [],
    writeLog := [], engWrites := [], hold := .none, held := .none, handle := .none, bindRead := .none, stop := .none, stopAsked := .none, halt := false, trapped := .none, frame := 0, skipBrk := false, stepOne := false,
    trace := .none, eng := .zero }

end Sys2Proof.Machine
end

