-- ==== Sys2Proof/Machine/ModState.lean ====
section
/-! DEFINITION. The state of the module outside its cores: barriers, launches and queues, host registers, the hub and Flue blocks. -/

namespace Sys2Proof.Machine

/-- A push store on its way (R78): its source and target cores, the launch of both, its class, its place in core
order, its pieces as scratchpad offsets with bytes, the flag it raises, the group of stores that must all be visible
before a flag of the group rises, when it arrives. -/
structure Push where
  id : Nat
  src : Nat
  tgt : Nat
  launch : W64
  cls : BitVec 3
  gid : Nat
  parts : List (Nat × List Byte)
  flag : Option Nat
  grp : Nat
  arrive : Nat
  got : Bool
deriving DecidableEq, Repr

/-- A pending barrier of a launch (R38): its rectangle and the members that have arrived. -/
structure Barrier where
  slot : Nat
  rect : Rect
  arrived : List Nat
deriving DecidableEq, Repr

/-! ## Launches and queues (R396 to R408) -/

/-- A launch queue (R397, R398). `headSince` is the time at which the present head passed its check, `ready` says that its waits have
been met (R401), `draining` names the cores whose trace sessions a queue reset has closed and waits for (R408). -/
structure Queue where
  base : Nat
  age : Nat
  rst : Bool
  logn : Nat
  en : Bool
  tail : W32
  head : W32
  stat : W64
  headSince : Option Nat
  ready : Bool
  draining : List Nat
deriving DecidableEq, Repr

/-- What a launch that holds a slot is doing (R404 to R407): placed and not dispatched, running, being saved, suspended since a time,
being restored. -/
inductive LState where
  | placed
  | running
  | saving
  | suspended (since : Nat)
  | restoring
deriving DecidableEq, Repr

/-- A launch, or a tile record, that holds a slot (R404, R405): its LAUNCH_ID, queue, record, rectangle, ASID, whether it is a tile record,
its frames by core, the barriers it took with it when suspended, when it was placed or chosen as a victim, the code with which its
tile instruction failed. -/
structure Launch where
  slot : Nat
  id : W64
  queue : Nat
  words : List Nat
  rect : Rect
  asid : Nat
  tile : Bool
  state : LState
  frames : List (Nat × Nat)
  barriers : List Barrier
  since : Nat
  result : Nat
deriving DecidableEq, Repr

/-- A placement that waits until its victims are saved (R406): the candidate's queue (its slot then counts for nothing: a head takes one at
dispatch), or the slot of a suspended launch, its rectangle, and the victims' slots. -/
structure Placing where
  queue : Option Nat
  slot : Nat
  rect : Rect
  victims : List Nat
deriving DecidableEq, Repr

/-- A saved context of a suspended launch (R43, R416): its frame, its core, the core's state. -/
structure Image where
  frame : Nat
  idx : Nat
  core : Core
deriving DecidableEq, Repr

/-! ## Tile instructions (R367 to R388) -/

/-- A tile instruction that has not completed (R376 to R381): its word, the core that issued it (for a record the core at its origin),
whether it is a record's, its tissue, the launch slot and LAUNCH_ID, its place in core order, the number that the issuer's next engine
command had then, whether its parts are out, the cores that still have a part, the tiles not claimed, and the flags and faults found. -/
structure TileInstr where
  id : Nat
  word : List Nat
  core : Nat
  record : Bool
  org : Origin
  slot : Nat
  launch : W64
  gid : Nat
  nid : Nat
  started : Bool
  left : List Nat
  pool : List Nat
  flags : BitVec 7
  faults : List TileFault
deriving DecidableEq, Repr

/-! ## The Flue island (R430 to R440) -/

/-- A plane of a link: whether it is up, failed trainings in a row, whether it stays down (R433). -/
structure Plane where
  up : Bool
  fails : Nat
  dead : Bool
deriving DecidableEq, Repr

/-- A link (R433), with the sequence number of its next critical flit (R435). -/
structure Link where
  retry : W32
  trains : BitVec 8
  planes : Vector Plane 2
  seq : BitVec 16
deriving DecidableEq, Repr

/-- An endpoint entry (R436). -/
structure Endpt where
  unreach : Bool
  down : Bool
  long : BitVec 3
  inc : BitVec 8
deriving DecidableEq, Repr

/-- An address group (R317): the core and the launch it belongs to, its number, key, members with bases, whether the island refused it, and
the sequence number of its last barrier that has completed (R320). -/
structure FGroup where
  core : Nat
  launch : W64
  g : Nat
  key : Nat
  members : List (Nat × Nat)
  bad : Bool
  done : Nat
deriving DecidableEq, Repr

/-- A FAB operation that has reached the island (R308 to R320): its tag, core and launch, the command, the group as it then stood, the
members it still hears from, the members absent, the replies (module, code, data), its outcome once known, and its own writes to global memory by their places
in core order. -/
structure FOp where
  tag : Nat
  core : Nat
  launch : W64
  cmd : FabCmd
  group : Option FGroup
  owed : List Nat
  absent : List Nat
  replies : List (Nat × Nat × List Byte)
  code : Option Nat
  writes : List Nat
deriving DecidableEq, Repr

/-- What a request of another module still asks for (R313, R314, R316): a flag, which waits for the data's writes in the core of the launch
that they went to and for what its rule names, or an atomic; `rising` says that its change of a scratchpad word waits for the bank, in that
core. -/
structure HeldFlag where
  id : Nat
  req : RemoteReq
  core : Option (Nat × W64)
  rising : Bool
deriving DecidableEq, Repr

/-- A write held for a core whose image is being saved or restored (R440). -/
structure HeldWrite where
  core : Nat
  launch : W64
  off : Nat
  data : List Byte
  grp : Nat
deriving DecidableEq, Repr

/-- The Flue island (R431 to R440). `state` is FL_CTL.STATE, `coords` FL_ID without MODNUM, `counters` the eight counters, `far` the links
of other modules that are known to be down, `resetting` says that a Flue reset is under way, its formation included (R444), `slow` the
nanoseconds by which the timestamp counter is ahead of its reference, `tick` those since the last timestamp flits (R435), and `lostRel` what
lost fwrrels had counted, by core and target (R314). -/
structure Flue where
  state : Nat
  err : Nat
  ord : Bool
  coords : W64
  key : W32
  up : Bool
  inc : BitVec 8
  links : Vector Link 6
  counters : Vector W64 8
  endpts : List (Nat × Endpt)
  asidMap : List (Nat × W64)
  groups : List FGroup
  ops : List FOp
  counts : List (Nat × Int)
  flags : List HeldFlag
  held : List HeldWrite
  waiting : List RemoteReq
  arrivals : List (Nat × Nat × Nat)
  far : List (Nat × Nat)
  resetting : Bool
  slow : Nat
  tick : Nat
  lostRel : List (Nat × Nat)
  outbox : List Packet
deriving DecidableEq, Repr

/-! ## The hub (R441 to R464) -/

/-- An island's control (R460, R461): requested and present P-state, throttle step, GATE, STATE, and while it relocks the package time
at which that began (R20). -/
structure Isl where
  pstate : Nat
  cur : Nat
  step : Nat
  gate : Bool
  state : Nat
  relock : Option W64
deriving DecidableEq, Repr

/-- The hub block: boot, resets, measurements, errors, retirement, islands, alarms, the event log. `version` is that of the accepted
image, `mgrSince` the time at which the die managers were last started (R448), `coreErrs` the corrected errors of each core with their
times (R454), `poison` the poisoned granules by number (R451), `pending` says that a compute reset has not reached its last step (R442),
`hot` that a thermal trip of a compute die caused it (R461). -/
structure Hub where
  bootMode : Nat
  bootFail : Nat
  dies : BitVec 4
  silent : BitVec 4
  mgrSince : Nat
  version : Nat
  meas : List Byte
  nonce : Mem
  report : Mem
  attest : Bool
  pending : Bool
  recovery : Mem
  firmware : Mem
  errcnt : Vector W64 8
  errcfg : W64
  retmap : Vector W64 12
  coreErrs : List (Nat × Nat)
  poison : List Nat
  isl : Vector Isl 18
  pcap : Nat
  hot : Bool
  alarmSeen : BitVec 4
  alarmActive : BitVec 4
  held : Bool
  erased : Bool
  prombrk : W64
  evw : W64
  log : Mem
deriving DecidableEq, Repr

/-! ## The host's registers (R393 to R397) -/

/-- BAR0 outside the queues, the MSI-X table as written, its pending bits, the messages sent in order, the bytes a host read last returned. -/
structure HostRegs where
  hwin : W64
  abortId : W64
  abortStat : Nat
  faultmap : Vector W64 16
  msixTable : List (Nat × W64)
  pba : Vector W64 2
  msix : List Nat
  readData : List Byte
deriving DecidableEq, Repr

/-- The module outside its cores. `gens` holds the generation of each launch slot, `lastGen` the last one assigned (R112), `lastId` the
last LAUNCH_ID, `refused` the groups of push stores of which one was refused, with their targets (R88), `ivWait` an invalidation entry
that waits for pins, `asids` words 0 and 1 of the ASID table entries in effect (R415); `flash` is the module's flash, `retList` the retirement list
in it (R459). -/
structure Module where
  pushes : List Push
  refused : List (Nat × Nat)
  barriers : List Barrier
  gens : List (Nat × W64)
  lastGen : W64
  lastId : W64
  frames : Nat
  queues : List (Nat × Queue)
  launches : List Launch
  placing : List Placing
  images : List Image
  tiles : List TileInstr
  ivWait : Option Nat
  asids : List (Nat × Nat × Nat)
  host : HostRegs
  hub : Hub
  flue : Flue
  flash : Mem
  retList : Vector W64 12
deriving DecidableEq, Repr

/-- A queue after a compute reset: LOGN reads 4 (R396). -/
def Queue.reset : Queue :=
  { base := 0, age := 0, rst := false, logn := 4, en := false, tail := 0, head := 0, stat := 0, headSince := none, ready := false, draining := [] }

/-- A link that has not trained. -/
def Link.down : Link := { retry := 0, trains := 0, planes := Vector.replicate 2 ⟨false, 0, false⟩, seq := 0 }

/-- An endpoint that has never announced (R436). [DEDUCED, log 69] -/
def Endpt.never : Endpt := { unreach := false, down := true, long := 0, inc := 0 }

/-- The Flue island after a cold package reset: in RESET, from where it goes to CONFIG by itself (R431, R432). [DEDUCED, log 69] -/
def Flue.reset : Flue :=
  { state := 0, err := 0, ord := false, coords := 0, key := 0, up := false, inc := 0, links := Vector.replicate 6 .down,
    counters := Vector.replicate 8 0, endpts := [], asidMap := [], groups := [], ops := [], counts := [], flags := [], held := [],
    waiting := [], arrivals := [], far := [], resetting := false, slow := 0, tick := 0, lostRel := [], outbox := [] }

/-- An island after a cold reset (R460). -/
def Isl.reset : Isl := { pstate := 0, cur := 0, step := 0, gate := false, state := 0, relock := none }

/-- The hub after a cold package reset: the boot ROM is about to read the firmware image (R447, R448). [DESIGN CHOICE, log 4; DESIGN CHOICE, log 5] -/
def Hub.reset : Hub :=
  { bootMode := 0, bootFail := 0, dies := 0, silent := 0, mgrSince := 0, version := 0, meas := [], nonce := [], report := [], attest := false, pending := false,
    recovery := [], firmware := [], errcnt := Vector.replicate 8 0, errcfg := 0, retmap := Vector.replicate 12 0, coreErrs := [],
    poison := [], isl := Vector.replicate 18 .reset, pcap := 3200, hot := false, alarmSeen := 0, alarmActive := 0, held := false,
    erased := false, prombrk := 0, evw := 0, log := [] }

/-- The host's registers after a reset (R396). [PRESUMED, log 194] -/
def HostRegs.reset : HostRegs :=
  { hwin := 0, abortId := 0, abortStat := 0, faultmap := Vector.replicate 16 0, msixTable := [], pba := Vector.replicate 2 0, msix := [], readData := [] }

/-- What a word of the MSI-X table not written yet reads as: the mask bit of a vector is set, all else is zero. [PRESUMED, log 194] -/
def msixReset (off : Nat) : W64 := if off % 16 = 8 then BitVec.ofNat 64 (2 ^ 32) else 0

/-- A word of the MSI-X table by its offset in BAR0: the message's address, then its data and the vector's control, whose bit 0 masks it (R393).
[PRESUMED, log 194] -/
def HostRegs.msixWord (h : HostRegs) (off : Nat) : W64 := sget (msixReset off) h.msixTable off

/-- Whether a vector is masked. [PRESUMED, log 194] -/
def HostRegs.masked (h : HostRegs) (v : Nat) : Bool := (h.msixWord (0x8000 + 16 * v + 8)).getLsbD 32

/-- Change the pending bit of a vector. -/
def HostRegs.setPending (h : HostRegs) (v : Nat) (b : Bool) : HostRegs :=
  let w := vget 0 h.pba (v / 64)
  let m : W64 := 1#64 <<< (v % 64)
  { h with pba := vset h.pba (v / 64) (if b then w ||| m else w &&& ~~~m) }

/-- A vector is raised: its message is sent, or while it is masked its pending bit is set (R393, R395). [PRESUMED, log 194] -/
def HostRegs.raise (h : HostRegs) (v : Nat) : HostRegs := if h.masked v then h.setPending v true else { h with msix := h.msix ++ [v] }

/-- A write of a word of the MSI-X table; a pending vector whose mask goes is sent (R393). [PRESUMED, log 194] -/
def HostRegs.writeMsix (h : HostRegs) (off : Nat) (w : W64) : HostRegs :=
  let v := (off - 0x8000) / 16
  let h1 := { h with msixTable := sset (msixReset off) h.msixTable off w }
  if !h1.masked v && (vget 0 h.pba (v / 64)).getLsbD (v % 64) then { h1.setPending v false with msix := h.msix ++ [v] } else h1

/-- The module after a cold package reset. [DESIGN CHOICE, log 4; DESIGN CHOICE, log 5] -/
def Module.reset : Module :=
  { pushes := [], refused := [], barriers := [], gens := [], lastGen := 0, lastId := 0, frames := 2304, queues := [], launches := [], placing := [],
    images := [], tiles := [], ivWait := none, asids := [], host := .reset, hub := .reset, flue := .reset, flash := [],
    retList := Vector.replicate 12 0 }

end Sys2Proof.Machine
end

