-- ==== Sys2Proof/Machine/State.lean ====
section
/-! DEFINITION. The state of the module, its reset, and the reasons a step can stop. -/

namespace Sys2Proof.Machine

/-- The state of the whole module. One core stands in focus; the others that differ from an idle core are listed by
index. A step acts on the core in focus and on what the core shares with the rest. `agenda` holds the steps that fall due in the present
cycle of the core in focus, which a stop or a hold withholds; `due` the steps of the rest of the module, `inbox` what comes from outside. -/
structure State where
  core : Core
  focus : Nat
  others : List (Nat × Core)
  agenda : List Instr
  due : List Instr
  inbox : List Instr
  wall : Nat
  ts : W64
  nReq : Nat
  mem : Mem
  tags : List (Nat × BitVec 18)
  mod : Module
deriving DecidableEq, Repr

/-- Why the machine stops. -/
inductive Fault where
  /-- Raised by HOST_BAR2_WRITE and HOST_BAR2_READ at a physical address where the spec places no storage. Safe. -/
  | noStorage
deriving DecidableEq, Repr

/-- Why the model gives an instruction no meaning. -/
inductive Refusal where
  /-- Raised by an arm of `exec` whose instruction has no meaning in this model yet. Safe. -/
  | notModelled (mnemonic : String)
deriving DecidableEq, Repr

/-- The outcome of one step. -/
abbrev Out := Host.Outcome State Fault Refusal

/-- The module after a cold package reset: the boot ROM is about to read the firmware image (R441, R447).
[DESIGN CHOICE, log 2; DESIGN CHOICE, log 4] -/
def State.reset : State :=
  { core := .zero, focus := 0, others := [], agenda := [], due := [.firmwareBoot], inbox := [], wall := 0, ts := 0, nReq := 0, mem := [],
    tags := [], mod := .reset }

end Sys2Proof.Machine
end

