-- ==== Sys2Proof/Machine/Ops.lean ====
section
/-! DEFINITION. Named operations over a core: registers, queues, results in flight, late items, stops and their records. -/

namespace Sys2Proof.Machine

/-- Change the core in focus. -/
def State.onCore (s : State) (f : Core → Core) : State := { s with core := f s.core }

/-- A core by index: the one in focus, a listed one, or an idle one. -/
def State.coreAt (s : State) (i : Nat) : Core := if i = s.focus then s.core else sget .zero s.others i

/-- A core as the task of a launch has it: in its place, or in the image of a suspended launch (R43, R406). -/
def State.coreOf (s : State) (i : Nat) (launch : W64) : Core :=
  let c := s.coreAt i
  if c.task.launchId = launch then c
  else ((s.mod.images.find? fun m => m.idx == i && m.core.task.launchId == launch).map (·.core)).getD .zero

/-- Replace a core by index. -/
def State.setCore (s : State) (i : Nat) (c : Core) : State :=
  if i = s.focus then { s with core := c } else { s with others := sset .zero s.others i c }

/-- Steps of the module outside the core in focus become due. [DEDUCED, log 168] -/
def State.later (s : State) (l : List Instr) : State := { s with due := s.due ++ l }

/-- A number no earlier outside request has used (R92). [DESIGN CHOICE, log 2] -/
def State.takeReq (s : State) : Nat × State := (s.nReq, { s with nReq := s.nReq + 1 })

/-! ## Registers (R17, R171, R191) -/

/-- Named scalar n0..n31; n0 reads zero. -/
def Core.readN (c : Core) (i : Nat) : W64 := if i = 0 then 0 else vget 0 c.regs.n i

/-- Write a named scalar; n0 discards. -/
def Core.writeN (c : Core) (i : Nat) (x : W64) : Core :=
  if i = 0 then c else { c with regs := { c.regs with n := vset c.regs.n i x } }

/-- Named scalar or rotating base by named index (R171). -/
def Core.writeReg (c : Core) (idx : BitVec 6) (x : W64) : Core :=
  if idx.toNat < 32 then c.writeN idx.toNat x
  else { c with regs := { c.regs with x := vset c.regs.x (idx.toNat - 56) x } }

/-- Write a named vector. -/
def Core.writeV (c : Core) (i : Nat) (x : VReg) : Core := { c with regs := { c.regs with v := vset c.regs.v i x } }

/-- A scalar enters the queue: every older entry ages by one (R348). -/
def Core.pushS (c : Core) (x : W64) : Core :=
  { c with regs := { c.regs with sq := Vector.ofFn fun i => if i.val = 0 then x else vget 0 c.regs.sq (i.val - 1) } }

/-- A vector enters the queue (R348). -/
def Core.pushV (c : Core) (x : VReg) : Core :=
  { c with regs := { c.regs with vq := Vector.ofFn fun i => if i.val = 0 then x else vget 0 c.regs.vq (i.val - 1) } }

/-- The index of a vector latch (R14). -/
def vLatchIdx (unit : Nat) : Nat := if unit = 6 then 0 else if unit = 7 then 1 else 2

/-- A unit's scalar latch. -/
def Core.sLatchOf (c : Core) (unit : Nat) : W64 := vget 0 c.regs.sLatch unit

/-- A unit's vector latch. -/
def Core.vLatchOf (c : Core) (unit : Nat) : VReg := vget 0 c.regs.vLatch (vLatchIdx unit)

/-- A scalar operand port (R174). -/
def Core.port (c : Core) (unit p : Nat) : W64 := vget 0 c.regs.sPort (8 * unit + p)

/-- Where `vPort` holds a vector operand port (R174). -/
def vPortIdx (unit p : Nat) : Nat := if unit = 6 then p - 1 else p

/-- A vector operand port: VEC a and b, VMEM b and c (R174). -/
def Core.vport (c : Core) (unit p : Nat) : VReg := vget 0 c.regs.vPort (vPortIdx unit p)

/-- The innermost active loop level; true names the inner one (R222). -/
def Loops.innermost (l : Loops) : Option (Bool × Level) :=
  if l.inner.active then some (true, l.inner) else if l.outer.active then some (false, l.outer) else none

/-- One level replaced. -/
def Loops.set (l : Loops) (which : Bool) (v : Level) : Loops :=
  if which then { l with inner := v } else { l with outer := v }

/-- One level. -/
def Loops.get (l : Loops) (which : Bool) : Level := if which then l.inner else l.outer

/-- The stage predicates that guards read (R224). -/
def Core.stagePreds (c : Core) : BitVec 8 :=
  match c.loops.innermost with
  | some (_, l) => l.sp
  | none => 0

/-- The top of the predicate stack; an empty stack reads 0 (R211). -/
def Core.top (c : Core) : Bool := c.pstack.headD false

/-! ## Deviation and trace records (R359, R360, R428) -/

/-- The eight words of a record (R428). -/
def Core.traceWords (c : Core) (ts : W64) (src kind : Nat) (payload : List W64) : List W64 :=
  let w1 := BitVec.ofNat 64 (kind * 2 ^ 56 + src % 4096 * 2 ^ 44 + c.tcc % 2 ^ 44)
  ((ts :: w1 :: payload) ++ List.replicate 8 0).take 8

/-- The trace session of a core closes with a reason: a terminal record is to follow what the buffer holds (R427). -/
def Core.closeTrace (c : Core) (ts : W64) (src reason : Nat) : Core :=
  if c.trace.isOpen && c.trace.closing.isNone then
    { c with trace := { c.trace with closing := some (c.traceWords ts src 7 [BitVec.ofNat 64 reason]) } }
  else c

/-- A trace record enters the buffer of 64 KiB when a session is open and its kind is enabled; with the buffer full it is dropped and
counted (R17, R427, R428). [DEDUCED, log 162] -/
def Core.traceRec (c : Core) (ts : W64) (src kind : Nat) (payload : List W64) : Core :=
  if c.trace.isOpen && c.trace.launch == c.task.launchId && c.trace.closing.isNone && c.trace.kinds.getLsbD (kind - 1) then
    if c.trace.buf.length < 1024 then { c with trace := { c.trace with buf := c.trace.buf ++ [c.traceWords ts src kind payload] } }
    else { c with trace := { c.trace with dropped := c.trace.dropped + 1 } }
  else c

/-- The bundle that issues, or would issue, next: NBUNDLE of a record (R359). -/
def Core.nextIdx (c : Core) : BitVec 14 :=
  match c.fq with
  | p :: _ => p.idx
  | [] => c.cur.idx

/-- Word 1 of a deviation record (R359). -/
def devWord1 (code nslot nbundle ounit oslot obundle : Nat) (faulted : Bool) : W64 :=
  BitVec.ofNat 64 (nslot * 2 ^ 48 + nbundle * 2 ^ 32 + code * 2 ^ 24 + b2n faulted * 2 ^ 23 + ounit * 2 ^ 16
    + oslot * 2 ^ 14 + obundle)

/-- Write a deviation record: DEVCNT and DEVLOST rise, saturating, DEVLAST takes the record, and an open trace session
receives it (R359, R360). -/
def Core.deviation (c : Core) (src : Nat) (startTs : W64) (w1 : W64) (short lost : Nat) : Core :=
  let words : List W64 := [startTs, w1, BitVec.ofNat 64 c.tcc,
    BitVec.ofNat 64 (satU 16 short * 2 ^ 48 + lost % 2 ^ 48)]
  let c1 := { c with
    devCnt := BitVec.ofNat 32 (satU 32 (c.devCnt.toNat + 1))
    devLost := BitVec.ofNat 64 (satU 64 (c.devLost.toNat + lost))
    devLast := Vector.ofFn fun i => words.getD i.val 0 }
  c1.traceRec startTs src 1 words

/-- The record of a late item (R359). -/
def Core.lateRecord (c : Core) (src : Nat) (startTs : W64) (l : Late) (faulted : Bool) (lost : Nat) : Core :=
  c.deviation src startTs
    (devWord1 l.code l.nslot c.nextIdx.toNat l.org.unit l.org.slot l.org.bundle.toNat faulted) 0 lost

/-! ## Taking an exception (R181, R229, R356, R357, R416, R419) -/

/-- What a slot can end in besides taking effect: a precise fault with its cause, reason, FADDR and FINFO, or a wait for an
outside item. -/
inductive Exc where
  | fault (cause : Cause) (reason faddr finfo : Nat)
  | late (code : Nat) (need : Need)
  | missed (short : Nat)
deriving DecidableEq, Repr

/-- A precise fault with a cause alone. -/
abbrev Exc.of (cause : Cause) : Exc := .fault cause 0 0 0

/-- The mask of slots below k that are moves, the header left out (R419). -/
def doneBelow (k : Nat) (hdr : Bool) : BitVec 4 :=
  BitVec.ofNat 4 ((2 ^ k - 1) / (if hdr then 2 else 1) * (if hdr then 2 else 1))

/-- The trigger in the slot being executed. -/
def Core.here (c : Core) (unit : Nat) : Origin := ⟨unit, c.slot, c.cur.idx, c.tcc⟩

/-- No origin. -/
def Origin.zero : Origin := ⟨0, 0, 0, 0⟩

/-- The graph faults, BAR_ORPHAN left out, after which the task is not resumable (R31, R34, R35, R39, R420, R421). [DEDUCED, log 20] -/
def Cause.graph (c : Cause) : Bool := 0x20 ≤ c.code && c.code ≤ 0x28

/-- TAKING A PRECISE FAULT: the task stops on the slot being executed with the slots below it done, the position stands
first in the stream again, and what was still due in the cycle is withheld (R229, R357, R416). -/
def Core.takeFault (c : Core) (cause : Cause) (reason faddr finfo : Nat) : Core :=
  { c with
    mode := .stopping
    cycleOpen := false
    fq := c.cur :: c.fq
    walks := c.walks.filter fun w => w.failed.isNone
    stop := some
      { cause := some cause, reason := reason, slot := c.slot, done := c.doneMask ||| doneBelow c.slot c.curHdr,
        stallRem := 0, faddr := faddr, finfo := finfo, resumable := !cause.graph, after := false, org := .zero } }

/-- The hold of a cycle: items that turn out late after a hold of the same cycle lengthen that hold (R356, R358). [DEDUCED, log 31] -/
def Core.newHold (c : Core) (ts : W64) (items : List Late) (back : Mode) : Hold :=
  match c.held with
  | some (t, n) => ⟨t, n + 1, items, back⟩
  | none => ⟨ts, 1, items, back⟩

/-- The item a slot waits for: under HOLD the core is held at issue, under FAULT it stops with TIMING (R356, R357). [DEDUCED, log 30] -/
def State.takeLate (s : State) (code : Nat) (need : Need) (org : Origin) : State :=
  let l : Late := ⟨code, org, s.core.slot, need, none⟩
  let s1 : State :=
    match need with
    | .page va read write =>
      if s.core.walks.any fun w => w.va / 65536 == va / 65536 && w.read == read && w.write == write then s
      else
        let (k, s') := s.takeReq
        s'.onCore fun c => { c with walks := c.walks ++ [⟨va, read, write, s.wall + 1 + Config.outsideDelay k, none⟩] }
    | .handle va pa len repl cls =>
      if s.core.gacc.any fun g => g.act == .read len .handle && g.va == va then s
      else
        let (k, s') := s.takeReq
        s'.onCore fun c => { c with
          gid := c.gid + 1
          gacc := c.gacc ++ [⟨c.gid, c.gid, cls, va, pa, repl, .read len .handle, s.wall + 1 + Config.outsideDelay k, org, true, false, none⟩] }
    | _ => s
  let s2 := { s1 with agenda := [] }
  if s.core.schedCtl.getLsbD 0 then
    s2.onCore fun c => (c.takeFault .timing code 0 0).lateRecord s.focus s.ts l true 0
  else
    s2.onCore fun c => { c with mode := .hold, cycleOpen := false, fq := c.cur :: c.fq, hold := some (c.newHold s.ts [l] .run) }

/-- TAKING WHAT A SLOT ENDS IN: the one operation behind every precise fault at issue (R416). START_MISSED is TIMING
with reason 10 and writes its record whatever LATE says (R277, R355, R359). -/
def State.take (s : State) (e : Exc) (unit : Nat) : State :=
  match e with
  | .fault cause reason faddr finfo =>
    { s with core := s.core.takeFault cause reason faddr finfo, agenda := [] }
  | .late code need => s.takeLate code need (s.core.here unit)
  | .missed short =>
    let w1 := devWord1 10 s.core.slot s.core.cur.idx.toNat unit s.core.slot s.core.cur.idx.toNat true
    { s with core := (s.core.takeFault .timing 10 0 0).deviation s.focus s.ts w1 short 0, agenda := [] }

/-! ## Results in flight (R347, R361) -/

/-- How many pending items an action counts for (R361): pointer updates that are no result count for none. -/
def PendAct.weight : PendAct → Nat
  | .ringHead _ _ => 0
  | .cwpReset _ => 0
  | .embVector _ _ => 0
  | _ => 1

/-- Whether a result's value has still to come. -/
def PendAct.open_ : PendAct → Bool
  | .scalar _ none => true
  | _ => false

/-- The pending items that land or perform after a cycle, with those whose value has not come (R361). -/
def inFlight (now : Nat) (l : List Pend) : Nat :=
  (l.map fun p => if now < p.tcc || p.act.open_ then p.act.weight else 0).sum

/-- Add results of the slot being executed, each with its latency; INFLIGHT when more than 48 would be pending (R361). [DEDUCED, log 12] -/
def State.issue (s : State) (unit : Nat) (items : List (Nat × PendAct × BitVec 7)) : Except Exc State :=
  let c := s.core
  let new := items.mapIdx fun i (lat, act, fl) => (⟨c.tcc + lat, c.seq + i, unit, act, fl, c.here unit⟩ : Pend)
  let all := c.pend ++ new
  if 48 < inFlight c.tcc all then .error (.of .inflight)
  else .ok { s with core := { c with pend := all, seq := c.seq + items.length } }

/-- One result. -/
def State.issue1 (s : State) (unit lat : Nat) (act : PendAct) (fl : BitVec 7 := 0) : Except Exc State :=
  s.issue unit [(lat, act, fl)]

/-! ## Bank use (R79, R81, R364) -/

/-- Bank and row of an offset (R79). -/
def bankOf (store off : Nat) : Nat × Nat :=
  if store = 0 then (off / 64 % 32, off / 2048) else (off / 64 % 64, off / 4096)

/-- Whether two bookings conflict (R81). [DEDUCED, log 100] -/
def Booking.clash (a b : Booking) : Bool :=
  a.tcc == b.tcc && a.store == b.store && a.bank == b.bank && (a.row != b.row || (a.write && b.write))

/-- FINFO of a bank conflict (R419). -/
def Booking.info (a b : Booking) : Nat := a.bank + a.store * 64 + a.unit * 2 ^ 8 + b.unit * 2 ^ 12

/-- Book rows for the slot being executed. A clash with another slot of the same bundle is a precise fault on this slot,
the higher one; any other clash is met in its cycle (R81). [DEDUCED, log 26] -/
def State.book (s : State) (unit store lat : Nat) (write : Bool) (offs : List Nat) : Except Exc State :=
  let c := s.core
  let new := (offs.map (bankOf store)).dedup.map fun (bk, row) =>
    (⟨c.tcc + lat, store, bk, row, write, unit, c.slot, c.bundle⟩ : Booking)
  let bad := new.findSome? fun b =>
    (c.banks.find? fun o => o.bundle == c.bundle && o.slot != c.slot && o.slot < 4 && Booking.clash o b).map fun o => (o, b)
  match bad with
  | some (o, b) => .error (.fault .bankConflict 0 b.tcc (Booking.info o b))
  | none => .ok { s with core := { c with banks := c.banks ++ new } }

end Sys2Proof.Machine
end

