-- ==== Sys2Proof/Machine/Ports.lean ====
section
/-! DEFINITION. The opcode map: which unit and port each move names, and the class of every port (R183 to R193). -/

namespace Sys2Proof

/-- The class of a port (R173). `any` is port 0, which discards. -/
inductive PortClass where
  | scalar
  | vector
  | any
  | undefined
deriving DecidableEq, Repr

/-- How many trigger ports a unit has, from port 8 upward (R184 to R193). -/
def triggerCount : Nat → Nat
  | 0 => 34
  | 1 => 34
  | 2 => 9
  | 3 => 20
  | 4 => 41
  | 5 => 31
  | 6 => 52
  | 7 => 10
  | 9 => 9
  | 10 => 6
  | 11 => 8
  | 12 => 9
  | 13 => 9
  | 14 => 14
  | _ => 0

/-- The class of a trigger port, for a port that has a trigger (R184 to R193). -/
def triggerClass (unit port : Nat) : PortClass :=
  if unit = 6 then
    if port ≤ 46 ∨ (50 ≤ port ∧ port ≤ 55) then .vector else .scalar
  else if unit = 5 ∧ (port = 35 ∨ port = 36) then .vector
  else .scalar

/-- The class of an operand port 1..7 (R184 to R193). -/
def operandClass (unit port : Nat) : PortClass :=
  match unit, port with
  | 0, 1 | 0, 2 | 1, 1 | 1, 2 | 2, 1 | 2, 2 | 3, 1 | 3, 2 => .scalar
  | 4, 1 | 4, 2 | 4, 3 | 5, 1 | 7, 1 | 10, 1 | 13, 1 | 13, 2 | 13, 3 | 14, 1 | 6, 3 => .scalar
  | 6, 1 | 6, 2 | 7, 2 | 7, 3 => .vector
  | _, _ => .undefined

/-- The class of an NREG port (R191). -/
def nregClass (port : Nat) : PortClass :=
  if port = 0 then .any
  else if port ≤ 31 then .scalar
  else if port ≤ 47 then .vector
  else if port ≤ 55 then .undefined
  else .scalar

/-- The class of any port of any unit; unit 15 has none (R173, R183). -/
def portClass (unit port : Nat) : PortClass :=
  if 15 ≤ unit then .undefined
  else if port = 0 then .any
  else if unit = 8 then nregClass port
  else if port ≤ 7 then operandClass unit port
  else if port - 8 < triggerCount unit then triggerClass unit port
  else .undefined

/-- The unit, the port and the move of a slot instruction; none for a step that no slot encodes. -/
def Instr.slot : Instr → Option (Nat × Nat × Move)
  | .port0Discard u m => some (u.toNat, 0, m)
  | .operandPortMove u p m => some (u.toNat, p.toNat, m)
  | .nregWrite p m => some (8, p.toNat, m)
  | .mov u m => some (u.toNat, 8, m)
  | .add u m => some (u.toNat, 9, m)
  | .sub u m => some (u.toNat, 10, m)
  | .and u m => some (u.toNat, 11, m)
  | .or u m => some (u.toNat, 12, m)
  | .xor u m => some (u.toNat, 13, m)
  | .andn u m => some (u.toNat, 14, m)
  | .shl u m => some (u.toNat, 15, m)
  | .shr u m => some (u.toNat, 16, m)
  | .sar u m => some (u.toNat, 17, m)
  | .rotl u m => some (u.toNat, 18, m)
  | .min u m => some (u.toNat, 19, m)
  | .max u m => some (u.toNat, 20, m)
  | .minu u m => some (u.toNat, 21, m)
  | .maxu u m => some (u.toNat, 22, m)
  | .seteq u m => some (u.toNat, 23, m)
  | .setne u m => some (u.toNat, 24, m)
  | .setlt u m => some (u.toNat, 25, m)
  | .setltu u m => some (u.toNat, 26, m)
  | .setle u m => some (u.toNat, 27, m)
  | .setleu u m => some (u.toNat, 28, m)
  | .sel u m => some (u.toNat, 29, m)
  | .clz u m => some (u.toNat, 30, m)
  | .popc u m => some (u.toNat, 31, m)
  | .sext u m => some (u.toNat, 32, m)
  | .zext u m => some (u.toNat, 33, m)
  | .bfx u m => some (u.toNat, 34, m)
  | .bfi u m => some (u.toNat, 35, m)
  | .addw u m => some (u.toNat, 36, m)
  | .subw u m => some (u.toNat, 37, m)
  | .adds u m => some (u.toNat, 38, m)
  | .subs u m => some (u.toNat, 39, m)
  | .adds16 u m => some (u.toNat, 40, m)
  | .lea u m => some (u.toNat, 41, m)
  | .mul m => some (2, 8, m)
  | .mulhs m => some (2, 9, m)
  | .mulhu m => some (2, 10, m)
  | .mulw m => some (2, 11, m)
  | .madd m => some (2, 12, m)
  | .div m => some (2, 13, m)
  | .divu m => some (2, 14, m)
  | .rem m => some (2, 15, m)
  | .remu m => some (2, 16, m)
  | .fadd m => some (3, 8, m)
  | .fsub m => some (3, 9, m)
  | .fmul m => some (3, 10, m)
  | .ffma m => some (3, 11, m)
  | .fmin m => some (3, 12, m)
  | .fmax m => some (3, 13, m)
  | .fminnum m => some (3, 14, m)
  | .fmaxnum m => some (3, 15, m)
  | .fabs m => some (3, 16, m)
  | .fneg m => some (3, 17, m)
  | .fdiv m => some (3, 18, m)
  | .fsqrt m => some (3, 19, m)
  | .fcmpeq m => some (3, 20, m)
  | .fcmplt m => some (3, 21, m)
  | .fcmple m => some (3, 22, m)
  | .cvtif m => some (3, 23, m)
  | .cvtfi m => some (3, 24, m)
  | .cvtfb m => some (3, 25, m)
  | .cvtbf m => some (3, 26, m)
  | .fclass m => some (3, 27, m)
  | .ld8 m => some (4, 8, m)
  | .ld8s m => some (4, 9, m)
  | .ld16 m => some (4, 10, m)
  | .ld16s m => some (4, 11, m)
  | .ld32 m => some (4, 12, m)
  | .ld32s m => some (4, 13, m)
  | .ld64 m => some (4, 14, m)
  | .st8 m => some (4, 15, m)
  | .st16 m => some (4, 16, m)
  | .st32 m => some (4, 17, m)
  | .st64 m => some (4, 18, m)
  | .amoadd m => some (4, 19, m)
  | .amomin m => some (4, 20, m)
  | .amomax m => some (4, 21, m)
  | .amominu m => some (4, 22, m)
  | .amomaxu m => some (4, 23, m)
  | .amoand m => some (4, 24, m)
  | .amoor m => some (4, 25, m)
  | .amoxor m => some (4, 26, m)
  | .amoswap m => some (4, 27, m)
  | .amocas m => some (4, 28, m)
  | .amofadd m => some (4, 29, m)
  | .amofmax m => some (4, 30, m)
  | .amofmin m => some (4, 31, m)
  | .amoadd64 m => some (4, 32, m)
  | .amoswap64 m => some (4, 33, m)
  | .amocas64 m => some (4, 34, m)
  | .redadd m => some (4, 35, m)
  | .redmin m => some (4, 36, m)
  | .redmax m => some (4, 37, m)
  | .redminu m => some (4, 38, m)
  | .redmaxu m => some (4, 39, m)
  | .redand m => some (4, 40, m)
  | .redor m => some (4, 41, m)
  | .redxor m => some (4, 42, m)
  | .redfadd m => some (4, 43, m)
  | .redfmax m => some (4, 44, m)
  | .redfmin m => some (4, 45, m)
  | .redadd64 m => some (4, 46, m)
  | .wge m => some (4, 47, m)
  | .wne m => some (4, 48, m)
  | .tgt n m => some (5, 8 + n.toNat, m)
  | .peq m => some (5, 12, m)
  | .pne m => some (5, 13, m)
  | .plt m => some (5, 14, m)
  | .pltu m => some (5, 15, m)
  | .ple m => some (5, 16, m)
  | .pleu m => some (5, 17, m)
  | .pnot m => some (5, 18, m)
  | .pand m => some (5, 19, m)
  | .por m => some (5, 20, m)
  | .pdup m => some (5, 21, m)
  | .ppop m => some (5, 22, m)
  | .jmp m => some (5, 23, m)
  | .jt m => some (5, 24, m)
  | .jf m => some (5, 25, m)
  | .jtn m => some (5, 26, m)
  | .jfn m => some (5, 27, m)
  | .call m => some (5, 28, m)
  | .ret m => some (5, 29, m)
  | .loop m => some (5, 30, m)
  | .lstages m => some (5, 31, m)
  | .lcnt m => some (5, 32, m)
  | .lstart m => some (5, 33, m)
  | .lend m => some (5, 34, m)
  | .vany m => some (5, 35, m)
  | .vall m => some (5, 36, m)
  | .rdps m => some (5, 37, m)
  | .wrps m => some (5, 38, m)
  | .vmov m => some (6, 8, m)
  | .vadd m => some (6, 9, m)
  | .vsub m => some (6, 10, m)
  | .vmul m => some (6, 11, m)
  | .vmin m => some (6, 12, m)
  | .vmax m => some (6, 13, m)
  | .vminu m => some (6, 14, m)
  | .vmaxu m => some (6, 15, m)
  | .vand m => some (6, 16, m)
  | .vor m => some (6, 17, m)
  | .vxor m => some (6, 18, m)
  | .vshl m => some (6, 19, m)
  | .vshr m => some (6, 20, m)
  | .vsar m => some (6, 21, m)
  | .vadds16 m => some (6, 22, m)
  | .vmin16 m => some (6, 23, m)
  | .vmax16 m => some (6, 24, m)
  | .vfadd m => some (6, 25, m)
  | .vfsub m => some (6, 26, m)
  | .vfmul m => some (6, 27, m)
  | .vffma m => some (6, 28, m)
  | .vfmin m => some (6, 29, m)
  | .vfmax m => some (6, 30, m)
  | .vfexp2 m => some (6, 31, m)
  | .vflog2 m => some (6, 32, m)
  | .vfrcp m => some (6, 33, m)
  | .vfrsqrt m => some (6, 34, m)
  | .vcvtf m => some (6, 35, m)
  | .vcvti m => some (6, 36, m)
  | .vpack m => some (6, 37, m)
  | .vunpack m => some (6, 38, m)
  | .vcmpeq m => some (6, 39, m)
  | .vcmplt m => some (6, 40, m)
  | .vcmple m => some (6, 41, m)
  | .vfcmpeq m => some (6, 42, m)
  | .vfcmplt m => some (6, 43, m)
  | .vfcmple m => some (6, 44, m)
  | .vsel m => some (6, 45, m)
  | .vperm m => some (6, 46, m)
  | .vbcast m => some (6, 47, m)
  | .vextr m => some (6, 48, m)
  | .vins m => some (6, 49, m)
  | .vredadd m => some (6, 50, m)
  | .vredmin m => some (6, 51, m)
  | .vredmax m => some (6, 52, m)
  | .vfredadd m => some (6, 53, m)
  | .vfredmax m => some (6, 54, m)
  | .vscan m => some (6, 55, m)
  | .vmand m => some (6, 56, m)
  | .vmor m => some (6, 57, m)
  | .vmnot m => some (6, 58, m)
  | .vmpopc m => some (6, 59, m)
  | .vld m => some (7, 8, m)
  | .vst m => some (7, 9, m)
  | .vldx m => some (7, 10, m)
  | .vstx m => some (7, 11, m)
  | .vldr m => some (7, 12, m)
  | .vstr m => some (7, 13, m)
  | .vlda m => some (7, 14, m)
  | .vsta m => some (7, 15, m)
  | .vacc m => some (7, 16, m)
  | .vld8 m => some (7, 17, m)
  | .kcfg m => some (9, 8, m)
  | .kflow m => some (9, 9, m)
  | .kswitch m => some (9, 10, m)
  | .kstart m => some (9, 11, m)
  | .kdrain m => some (9, 12, m)
  | .kzero m => some (9, 13, m)
  | .ksel m => some (9, 14, m)
  | .kring m => some (9, 15, m)
  | .kpop m => some (9, 16, m)
  | .cpy m => some (10, 8, m)
  | .cpyt m => some (10, 9, m)
  | .cpyf m => some (10, 10, m)
  | .cfetch m => some (10, 11, m)
  | .cwp m => some (10, 12, m)
  | .creset m => some (10, 13, m)
  | .sopen m => some (11, 8, m)
  | .sisect m => some (11, 9, m)
  | .sisectc m => some (11, 10, m)
  | .smerge m => some (11, 11, m)
  | .sdiff m => some (11, 12, m)
  | .sread m => some (11, 13, m)
  | .swbind m => some (11, 14, m)
  | .swfree m => some (11, 15, m)
  | .epatch m => some (12, 8, m)
  | .eload m => some (12, 9, m)
  | .erd m => some (12, 10, m)
  | .esave m => some (12, 11, m)
  | .erest m => some (12, 12, m)
  | .estep m => some (12, 13, m)
  | .eclk m => some (12, 14, m)
  | .einc m => some (12, 15, m)
  | .ecnt m => some (12, 16, m)
  | .frd m => some (13, 8, m)
  | .fwr m => some (13, 9, m)
  | .fwrrel m => some (13, 10, m)
  | .fatom m => some (13, 11, m)
  | .fmcred m => some (13, 12, m)
  | .fmcst m => some (13, 13, m)
  | .fgrp m => some (13, 14, m)
  | .fbar m => some (13, 15, m)
  | .fstat m => some (13, 16, m)
  | .nop m => some (14, 8, m)
  | .fmt m => some (14, 9, m)
  | .csrr m => some (14, 10, m)
  | .csrw m => some (14, 11, m)
  | .fence m => some (14, 12, m)
  | .bar m => some (14, 13, m)
  | .trap m => some (14, 14, m)
  | .halt m => some (14, 15, m)
  | .cond m => some (14, 16, m)
  | .segend m => some (14, 17, m)
  | .tissue m => some (14, 18, m)
  | .tstat m => some (14, 19, m)
  | .tsc m => some (14, 20, m)
  | .mark m => some (14, 21, m)
  | .bundleIssue | .nullifiedPosition | .breakpointHit | .loopPassBoundary
  | .waitEnd | .ringTailWrite .. | .embfltClear .. | .ecauseRearm ..
  | .resultLand | .segmentWalk | .opportunisticWrite | .fencePerform
  | .globalAccessPerform .. | .raceException | .replicatedStoreCommit .. | .pushStoreArrival ..
  | .barrierComplete | .lateItem | .holdEnd | .relock ..
  | .relockEnd .. | .instructionRefetch | .coreStop | .contextResume
  | .passStart .. | .beatArrival .. | .streamUnitCheck .. | .briquetteRead ..
  | .passRetire .. | .outputRingAdvance .. | .wsPartialWrite .. | .wfOutputWrite ..
  | .shadowConfigWrite .. | .switchTokenInject .. | .switchTokenArrival .. | .drainRow ..
  | .kzeroApply .. | .kringApply .. | .followOnIssue .. | .copyUnitRequest ..
  | .copyUnitWritten .. | .spsDue | .windowBindingSwitch .. | .emberCommandStart
  | .domainStep .. | .esaveRow .. | .erestApply .. | .fabSend ..
  | .fabComplete .. | .inboundRemoteRequest .. | .remoteFlagRaise .. | .remoteReply ..
  | .fbarArrival .. | .heldWritesApply .. | .tileSplit .. | .tilePartStart
  | .tileClaim | .tilePartComplete | .tileComplete .. | .translationWalk
  | .launchRetire .. | .schedulerStep | .launchDispatch .. | .preemptVictims
  | .qtailWrite .. | .qctlWrite .. | .queueReset .. | .abort ..
  | .hostRegisterWrite .. | .hostBar2Write .. | .hostBar2Read .. | .invalidationEntry
  | .invalidationDone | .debugHalt .. | .debugResume .. | .debugStep ..
  | .traceOpen .. | .traceDrain .. | .traceClose .. | .flueGo
  | .linkTrained .. | .groupFormed | .planeLoss .. | .flitReplay ..
  | .routeRecompute .. | .timestampFlit .. | .endpointUp | .endpointDown
  | .announcementReceived .. | .neighbourLost .. | .flueReset | .coldPackageReset
  | .functionLevelReset | .computeReset | .dieReset .. | .coreReset ..
  | .firmwareBoot | .recoveryLoad | .dieManagerReady .. | .dieManagerTimeout ..
  | .attestationRequest | .pstateWrite .. | .gateRequest .. | .islandGated ..
  | .islandWake .. | .wakeComplete .. | .throttleStep .. | .thermalTrip ..
  | .pcapWrite .. | .retmapWrite .. | .correctedError .. | .uncorrectableError ..
  | .patrolScrub .. | .securityAlarm .. | .alarmRelease | .transitForward ..
  | .triSolutionWrite .. | .spsCommandStart | .sequencerCommandIssue | .elementUnitStep
  | .alarmSensorClear .. => none

end Sys2Proof
end

