-- ==== Sys2Proof/WellFormed.lean ====
section
/-! DEFINITION. Which moves are legal: the reasons of R182 and the checks of R171, R173 and R177 on one move. -/

namespace Sys2Proof

/-- Why a slot is malformed (R182). -/
inductive Malformed where
  | hdrGuard
  | hdrReserved
  | hdrPlace
  | portUndefined
  | extReserved
  | payloadReserved
  | namedReserved
  | latchNone
  | wrongClass
deriving DecidableEq, Repr

/-- The reason code of R182. -/
def Malformed.code : Malformed → Nat
  | .hdrGuard => 1
  | .hdrReserved => 2
  | .hdrPlace => 3
  | .portUndefined => 4
  | .extReserved => 5
  | .payloadReserved => 6
  | .namedReserved => 7
  | .latchNone => 8
  | .wrongClass => 9

/-- Units with a 64-bit scalar latch (R14). -/
def hasScalarLatch (u : Nat) : Bool :=
  u ≤ 5 || u == 10 || u == 11 || u == 13 || u == 14

/-- Units with a vector latch (R14). -/
def hasVectorLatch (u : Nat) : Bool :=
  u == 6 || u == 7 || u == 12

/-- Whether a latch source resolves on a port of the class; port 0 takes either latch (R14, R173). -/
def latchResolves (cls : PortClass) (u : Nat) : Bool :=
  match cls with
  | .scalar => hasScalarLatch u
  | .vector => hasVectorLatch u
  | .any => hasScalarLatch u || hasVectorLatch u
  | .undefined => false

/-- What is wrong with a named source on a port of the class (R171, R182). -/
def namedBad (cls : PortClass) (i : Nat) : Option Malformed :=
  if (48 ≤ i ∧ i ≤ 55) ∨ 64 ≤ i then some .namedReserved
  else
    match cls with
    | .scalar => if 32 ≤ i ∧ i ≤ 47 then some .wrongClass else none
    | .vector => if 32 ≤ i ∧ i ≤ 47 then none else some .wrongClass
    | _ => none

/-- What is wrong with a source on a port of the class; none when it is legal (R171, R173). -/
def Src.bad (cls : PortClass) : Src → Option Malformed
  | .latch u => if latchResolves cls u.toNat then none else some .latchNone
  | .queue a => if cls = .vector ∧ 8 ≤ a.toNat then some .payloadReserved else none
  | .named i => namedBad cls i.toNat
  | .imm _ => none

/-- A guard on an immediate source can name only s0, since its extension holds immediate bits (R177). -/
def Move.guardOk (m : Move) : Bool :=
  match m.src, m.guard with
  | .imm _, .stage k => k == 0
  | _, _ => true

/-- Constructors that stand for their port: port 0 of NREG is an `nregWrite`, and an operand
port move names a defined operand port (R173, R174, R191). -/
def Instr.portOk : Instr → Bool
  | .port0Discard u _ => u != 8 && u != 15
  | .operandPortMove u p _ => operandClass u.toNat p.toNat != .undefined
  | .nregWrite p _ => nregClass p.toNat != .undefined
  | _ => true

/-- A well-formed instruction: a slot encodes it (R169 to R177), or no slot does and it is a step. -/
def Instr.wellFormed (i : Instr) : Bool :=
  match i.slot with
  | none => true
  | some (u, p, m) => i.portOk && (m.src.bad (portClass u p)).isNone && m.guardOk

end Sys2Proof
end

