-- ==== Sys2Proof/Machine/Operands.lean ====
section
/-! DEFINITION. Operand forms: guards, sources by level, the scoreboard's read checks, and the frame every slot move shares (R170 to R174, R353). -/

namespace Sys2Proof.Machine

/-- Whether a guard passes on the state visible at issue (R170). -/
def Core.guardPass (c : Core) : Guard → Bool
  | .always => true
  | .ifTrue => c.top
  | .ifFalse => !c.top
  | .stage k => c.stagePreds.getLsbD k.toNat

/-- The value a source supplies to a scalar-class port (R171, R172). -/
def Core.scalarSrc (c : Core) : Src → W64
  | .latch u => c.sLatchOf u.toNat
  | .queue a => vget 0 c.regs.sq a.toNat
  | .named i => if i.toNat < 32 then c.readN i.toNat else vget 0 c.regs.x (i.toNat - 56)
  | .imm v => v.signExtend 64

/-- The value a source supplies to a vector-class port (R171, R172). -/
def Core.vectorSrc (c : Core) : Src → VReg
  | .latch u => c.vLatchOf u.toNat
  | .queue a => vget 0 c.regs.vq a.toNat
  | .named i => vget 0 c.regs.v (i.toNat - 32)
  | .imm v => vsplat (v.signExtend 32)

/-- The scalar source of the slot being executed; a reissued slot takes its captured value (R423). -/
def Core.takeScalar (c : Core) (src : Src) : W64 :=
  match c.captured.lookup c.slot with
  | some v => v.setWidth 64
  | none => c.scalarSrc src

/-- The vector source of the slot being executed; a reissued slot takes its captured value (R423). -/
def Core.takeVector (c : Core) (src : Src) : VReg :=
  match c.captured.lookup c.slot with
  | some v => v
  | none => c.vectorSrc src

/-! ## The format register's fields (R56) -/

def fmtAT (f : W32) : Nat := (f.extractLsb' 0 4).toNat
def fmtBT (f : W32) : Nat := (f.extractLsb' 4 4).toNat
def fmtACC (f : W32) : Nat := (f.extractLsb' 8 4).toNat
def fmtRM (f : W32) : Nat := (f.extractLsb' 12 2).toNat
def fmtFTZ (f : W32) : Bool := f.getLsbD 14
def fmtBSC (f : W32) : Bool := f.getLsbD 15
def fmtSAT (f : W32) : Nat := (f.extractLsb' 16 2).toNat

/-! ## The scoreboard (R352 to R354) -/

/-- A pending result of a unit's latch of the class, issued in an earlier cycle and landing later (R353 SBL). -/
def Core.latchShadow (c : Core) (cls : PortClass) (src : Src) : Option (Nat × Nat) :=
  match src with
  | .latch u =>
    let hit := c.pend.find? fun p =>
      p.unit == u.toNat && p.org.tcc < c.tcc && c.tcc < p.tcc &&
        (match p.act with
          | .scalar true _ => cls != .vector
          | .vector _ => cls != .scalar
          | .embVector _ _ => cls != .scalar
          | .vgather _ _ => cls != .scalar
          | _ => false)
    hit.map fun p =>
      (p.tcc, if hasVectorLatch u.toNat then 0x7800 + 256 * vLatchIdx u.toNat else 0x5180 + 8 * u.toNat)
  | _ => none

/-- A pending FMT write issued in an earlier cycle (R353 SBF). -/
def Core.fmtShadow (c : Core) : Option Nat :=
  (c.pend.find? fun p =>
    p.org.tcc < c.tcc && c.tcc < p.tcc && (match p.act with | .fmt _ => true | _ => false)).map (·.tcc)

/-- The scoreboard checks of a slot's source and of its use of FMT; tested last (R354). [DEDUCED, log 11] -/
def Core.scoreboard (c : Core) (cls : PortClass) (src : Src) (fmtUser : Bool) : Option Exc :=
  match (if c.schedCtl.getLsbD 1 then c.latchShadow cls src else none) with
  | some (t, loc) => some (.fault .sbShadow 0 loc t)
  | none =>
    match (if c.schedCtl.getLsbD 3 && fmtUser then c.fmtShadow else none) with
    | some t => some (.fault .sbShadow 0 0x8010 t)
    | none => none

/-! ## The frame of every slot move -/

/-- A slot move: a malformed source faults (R181), a guard that fails leaves everything (R170), and otherwise the body
acts, its own faults coming before the scoreboard's (R354). [DEDUCED, log 12] -/
def slotMove (unit : Nat) (cls : PortClass) (fmtUser : Bool) (m : Move) (s : State)
    (body : Except Exc State) : Out :=
  match m.src.bad cls with
  | some r => .next (s.take (.fault .illegalSlot r.code 0 0) unit)
  | none =>
    if s.core.guardPass m.guard then
      match body with
      | .error e => .next (s.take e unit)
      | .ok s' =>
        match s.core.scoreboard cls m.src fmtUser with
        | some e => .next (s.take e unit)
        | none => .next s'
    else .next s

/-- A trigger with a scalar final operand (R175). -/
def scalarTrigger (unit : Nat) (m : Move) (s : State) (body : W64 → Except Exc State) : Out :=
  slotMove unit .scalar false m s (body (s.core.takeScalar m.src))

/-- A scalar trigger that uses FMT (R58). -/
def scalarFmtTrigger (unit : Nat) (m : Move) (s : State) (body : W64 → Except Exc State) : Out :=
  slotMove unit .scalar true m s (body (s.core.takeScalar m.src))

/-- A trigger with a vector final operand (R175). -/
def vectorTrigger (unit : Nat) (m : Move) (s : State) (body : VReg → Except Exc State) : Out :=
  slotMove unit .vector false m s (body (s.core.takeVector m.src))

/-- A vector trigger that uses FMT (R58). -/
def vectorFmtTrigger (unit : Nat) (m : Move) (s : State) (body : VReg → Except Exc State) : Out :=
  slotMove unit .vector true m s (body (s.core.takeVector m.src))

/-- A scalar result into a unit's latch and the scalar queue (R14, R347). -/
def State.result (s : State) (unit lat : Nat) (v : W64) (fl : BitVec 7 := 0) : Except Exc State :=
  s.issue1 unit lat (.scalar true (some v)) fl

/-- A VEC scalar result: the queue only (R14). -/
def State.queueResult (s : State) (unit lat : Nat) (v : W64) (fl : BitVec 7 := 0) : Except Exc State :=
  s.issue1 unit lat (.scalar false (some v)) fl

/-- A vector result (R14). -/
def State.vectorResult (s : State) (unit lat : Nat) (v : VReg) (fl : BitVec 7 := 0) : Except Exc State :=
  s.issue1 unit lat (.vector v) fl

/-! ## Port moves (R173, R174, R191) -/

/-- A move to port 0 discards after its checks (R173). -/
def execPort0Discard (u : BitVec 4) (m : Move) (s : State) : Out := slotMove u.toNat .any false m s (.ok s)

/-- A move latches its value into an operand port, at once (R174, R179). -/
def execOperandPortMove (u : BitVec 4) (p : BitVec 3) (m : Move) (s : State) : Out :=
  match operandClass u.toNat p.toNat with
  | .scalar =>
    slotMove u.toNat .scalar false m s
      (.ok (s.onCore fun c =>
        { c with regs := { c.regs with sPort := vset c.regs.sPort (8 * u.toNat + p.toNat) (c.takeScalar m.src) } }))
  | .vector =>
    slotMove u.toNat .vector false m s
      (.ok (s.onCore fun c =>
        { c with regs := { c.regs with vPort := vset c.regs.vPort (vPortIdx u.toNat p.toNat) (c.takeVector m.src) } }))
  | _ => .next (s.take (.fault .illegalSlot (Malformed.code .portUndefined) 0 0) u.toNat)

/-- A write of a named register through NREG lands in the next cycle; port 0 discards (R191). -/
def execNregWrite (p : BitVec 6) (m : Move) (s : State) : Out :=
  match nregClass p.toNat with
  | .any => slotMove 8 .any false m s (.ok s)
  | .scalar => slotMove 8 .scalar false m s (s.issue1 8 1 (.reg p (s.core.takeScalar m.src)))
  | .vector =>
    slotMove 8 .vector false m s (s.issue1 8 1 (.vreg (BitVec.ofNat 4 (p.toNat - 32)) (s.core.takeVector m.src)))
  | .undefined => .next (s.take (.fault .illegalSlot (Malformed.code .portUndefined) 0 0) 8)

end Sys2Proof.Machine
end

