-- ==== Sys2Proof/Machine/Space.lean ====
section
/-! DEFINITION. The virtual layout, footprints, translation of slot accesses, and the memory interface (R74 to R78, R25, R231, R102). -/

namespace Sys2Proof.Machine

/-- A region of the virtual layout with the offset in it (R74). -/
inductive Region where
  | global
  | peer (core off : Nat)
  | sp (off : Nat)
  | acc (off : Nat)
  | imem (off : Nat)
  | csr (off : Nat)
  | gather (w off : Nat)
  | gap
deriving DecidableEq, Repr

/-- First addresses of the regions (R74). -/
def peerBase : Nat := 0x1FFFE0000000000
def spBase : Nat := 0x1FFFF0000000000
def accBase : Nat := 0x1FFFF0100000000
def imemBase : Nat := 0x1FFFF0200000000
def csrBase : Nat := 0x1FFFF0300000000
def gatherBase : Nat := 0x1FFFF0400000000

/-- Sizes of the on-chip stores (R17). -/
def spSize : Nat := 0x400000
def accSize : Nat := 0x800000
def imemSize : Nat := 0x40000

/-- The region of an address below 2^57 (R74). -/
def regionOf (a : Nat) : Region :=
  if a < peerBase then .global
  else if a < peerBase + 0xC000000000 then .peer ((a - peerBase) / 2 ^ 30) ((a - peerBase) % 2 ^ 30)
  else if spBase ≤ a ∧ a < spBase + spSize then .sp (a - spBase)
  else if accBase ≤ a ∧ a < accBase + accSize then .acc (a - accBase)
  else if imemBase ≤ a ∧ a < imemBase + imemSize then .imem (a - imemBase)
  else if csrBase ≤ a ∧ a < csrBase + 0x8000 then .csr (a - csrBase)
  else if gatherBase ≤ a ∧ a < gatherBase + 0x10000000 then
    .gather ((a - gatherBase) / 0x4000000) ((a - gatherBase) % 0x4000000)
  else .gap

/-- The offset of the task block (R25). -/
def taskBlock : Nat := 0x3FFF80

/-- Whether scratchpad bytes lie in the footprint or the task block (R25). -/
def Task.spOk (t : Task) (off len : Nat) : Bool :=
  off + len ≤ 65536 * t.spUnits || (taskBlock ≤ off && off + len ≤ spSize)

/-- Whether accumulator-store bytes lie in the footprint (R25). -/
def Task.accOk (t : Task) (off len : Nat) : Bool := off + len ≤ 65536 * t.accUnits

/-- The column, row and die of a core (R9). -/
def coreX (i : Nat) : Nat := i % 32
def coreY (i : Nat) : Nat := i / 32
def coreDie (i : Nat) : Nat := coreX i / 16 + 2 * (coreY i / 12)

/-- The compute island of a core (R18). -/
def islandOf (i : Nat) : Nat := coreX i / 8 + 4 * (coreY i / 6)

/-- Whether a core lies in a rectangle. -/
def Rect.has (r : Rect) (i : Nat) : Bool :=
  r.x0 ≤ coreX i && coreX i < r.x0 + r.w && r.y0 ≤ coreY i && coreY i < r.y0 + r.h

/-- Whether a rectangle is aligned (R22). -/
def Rect.aligned (r : Rect) : Bool :=
  [1, 2, 4, 8, 16, 32].contains r.w && [1, 2, 3, 6, 12, 24].contains r.h &&
  r.x0 % r.w == 0 && r.y0 % r.h == 0 && r.x0 + r.w ≤ 32 && r.y0 + r.h ≤ 24

/-- Whether one rectangle lies in another. -/
def Rect.inside (a b : Rect) : Bool :=
  b.x0 ≤ a.x0 && a.x0 + a.w ≤ b.x0 + b.w && b.y0 ≤ a.y0 && a.y0 + a.h ≤ b.y0 + b.h

/-- Whether two rectangles share a core. -/
def Rect.meets (a b : Rect) : Bool :=
  a.x0 < b.x0 + b.w && b.x0 < a.x0 + a.w && a.y0 < b.y0 + b.h && b.y0 < a.y0 + a.h

/-- The cores of a rectangle, by index. -/
def Rect.cores (r : Rect) : List Nat := (List.range 768).filter r.has

/-- The effective address (a + t) mod 2^64, or ADDR_RANGE (R227). -/
def effAddr (a t : W64) : Except Exc Nat :=
  let ea := (a + t).toNat
  if 2 ^ 57 ≤ ea then .error (.fault .addrRange 0 ea 0) else .ok ea

/-- A memory fault names the address (R419). -/
def memExc (cause : Cause) (ea : Nat) : Exc := .fault cause 0 ea 0

/-! ## Translation at issue (R231, R413, R414) -/

/-- The bytes of an HBM group's address range (R412). -/
def groupSpan : Nat := 0x6000000000

/-- Whether a leaf maps an address for an access. -/
def Leaf.serves (l : Leaf) (asid va : Nat) (read write : Bool) : Bool :=
  l.asid == asid && l.va ≤ va && va < l.va + l.size && (!read || l.r) && (!write || l.w)

/-- The 64 KiB page of an address. -/
def pageOf (va : Nat) : Nat := va / 65536

/-- A held translation that allows the access; a walk that failed gives its cause; otherwise the slot waits (R231). -/
def State.translate (s : State) (va : Nat) (read write : Bool) : Except Exc Leaf :=
  match (s.core.tlb ++ s.core.heldLeaves).find? fun l => l.serves s.core.task.asid va read write with
  | some l => .ok l
  | none =>
    match s.core.walks.findSome? fun w => if pageOf w.va = pageOf va ∧ w.read = read ∧ w.write = write then w.failed else none with
    | some (cause, level) => .error (.fault cause 0 va (level + 8 * b2n write))
    | none => .error (.late 2 (.page va read write))

/-- The physical address of a virtual one under its leaf; a read of a replicated page takes the reader's own die (R89). -/
def Leaf.phys (l : Leaf) (va die : Nat) : Nat :=
  l.pa + (va - l.va) + (if l.rpl then groupSpan * die else 0)

/-- The bound of a global load: 300 from the local group or a replicated page, 360 from another die's (R230). [DEDUCED, log 33] -/
def loadDue (l : Leaf) (va core : Nat) : Nat :=
  if l.rpl || (l.pa + (va - l.va)) / groupSpan == coreDie core then 300 else 360

/-! ## The memory interface (R100, R102) -/

/-- Whether an access writes. -/
def GAct.writes : GAct → Bool
  | .read _ _ => false
  | .write _ => true
  | .amo _ _ => true
  | .later => true

/-- Whether an access reads. -/
def GAct.reads : GAct → Bool
  | .read _ _ => true
  | .write _ => false
  | .amo _ rd => match rd with | .none => false | _ => true
  | .later => false

/-- Room for a global write; the interface holds up to 64, and the place of a write whose bytes have not come takes none (R102). -/
def Core.writeRoom (c : Core) : Bool := (c.gacc.filter fun g => g.act.writes && g.act != .later).length < 64

/-- A global access leaves for its home controller, its arrival free: its place in core order is that of the operation it belongs to (R100). -/
def State.sendGlobalAt (s : State) (place : Nat) (cls : BitVec 3) (va pa : Nat) (repl : Bool) (act : GAct) (org : Origin) (engine : Bool) : State :=
  let (k, s1) := s.takeReq
  s1.onCore fun c =>
    { c with
      gid := c.gid + 1
      gacc := c.gacc ++ [⟨c.gid, place, cls, va, pa, repl, act, s.wall + 1 + Config.outsideDelay k, org, engine, false, none⟩] }

/-- A global access in its own place in core order (R100). -/
def State.sendGlobal (s : State) (cls : BitVec 3) (va pa : Nat) (repl : Bool) (act : GAct) (org : Origin) (engine : Bool) : State :=
  s.sendGlobalAt s.core.gid cls va pa repl act org engine

/-! ## The scoreboard on local bytes (R353 SBM, R361) -/

/-- The byte ranges of a pending slot write. -/
def PendAct.ranges : PendAct → List (Nat × Nat × Nat)
  | .spWrite a n _ => [(0, a, n)]
  | .accWrite a n _ => [(1, a, n)]
  | .spLanes cells => cells.map fun c => (0, c.1, 4)
  | .spAmo a op _ => [(0, a, op.width)]
  | .accAdd a _ _ => [(1, a, 256)]
  | _ => []

/-- A pending slot write to some of the bytes, issued before this cycle and performed after it (R353). -/
def Core.byteShadow (c : Core) (store : Nat) (rs : List (Nat × Nat)) : Option (Nat × Nat) :=
  c.pend.findSome? fun p =>
    if p.org.tcc < c.tcc ∧ c.tcc < p.tcc then
      p.act.ranges.findSome? fun (st, a, n) =>
        rs.findSome? fun (b, k) =>
          if st = store ∧ a < b + k ∧ b < a + n then
            some (p.tcc, (if st = 0 then spBase else accBase) + max a b) else none
    else none

end Sys2Proof.Machine
end

