-- ==== Sys2Proof/Machine/Amo.lean ====
section
/-! DEFINITION. The indivisible step of atomics and red operations (R234 to R236). -/

namespace Sys2Proof.Machine

/-- fadd of R235: to nearest, subnormals kept, a NaN or ∞ − ∞ gives the canonical NaN. -/
def atomAdd (old d : Nat) : Nat := (fpAdd 0 false old d).1

/-- fmax and fmin of R235: a NaN of any kind gives the canonical NaN, −0 below +0. -/
def atomPick (wantMax : Bool) (old d : Nat) : Nat :=
  if (fp32.decode old).isNan || (fp32.decode d).isNan then fp32.nan
  else if (fp32.decode old).lt0 (fp32.decode d) then (if wantMax then d else old)
  else (if wantMax then old else d)

/-- The new word of an atomic on w bytes (R234). -/
def amoNew (a : Amo) (old : Nat) : Nat :=
  let w := 8 * a.width
  let d := a.d.toNat % 2 ^ w
  match a.op with
  | .add => (old + d) % 2 ^ w
  | .min => if sInt w d < sInt w old then d else old
  | .max => if sInt w old < sInt w d then d else old
  | .minu => if d < old then d else old
  | .maxu => if old < d then d else old
  | .and => (BitVec.ofNat w old &&& BitVec.ofNat w d).toNat
  | .or => (BitVec.ofNat w old ||| BitVec.ofNat w d).toNat
  | .xor => (BitVec.ofNat w old ^^^ BitVec.ofNat w d).toNat
  | .swap => d
  | .cas => if old = a.c.toNat % 2 ^ w then d else old
  | .fadd => atomAdd old d
  | .fmax => atomPick true old d
  | .fmin => atomPick false old d

/-- A word of w bytes extended to 64 bits (R233, R234). -/
def extWord (ext : Ext) (w v : Nat) : W64 :=
  match ext with
  | .zero => BitVec.ofNat 64 (v % 2 ^ (8 * w))
  | .sign => BitVec.ofInt 64 (sInt (8 * w) v)

end Sys2Proof.Machine
end

