-- ==== Sys2Proof/Machine/Bru.lean ====
section
/-! DEFINITION. BRU: targets, the predicate stack, transfers, votes and hardware loops (R209 to R226). -/

namespace Sys2Proof.Machine

/-- BRU's operand a (R210). -/
def bruA (s : State) : W64 := s.core.port 5 1

/-- The predicate stack changes in the next cycle (R211). The head of the list is the top. -/
def State.setStack (s : State) (st : List Bool) : Except Exc State := s.issue1 5 1 (.pstack st)

/-- Push onto the stack; PSTACK_OVER when full (R211). -/
def State.pushPred (s : State) (b : Bool) : Except Exc State :=
  if 16 ≤ s.core.pstack.length then .error (.of .pstackOver) else s.setStack (b :: s.core.pstack)

/-- tgt0..tgt3 (R210, R214). -/
def execTgt (n : BitVec 2) (m : Move) (s : State) : Out := scalarTrigger 5 m s fun t => s.issue1 5 1 (.breg n t)

/-- A compare that pushes (R210). -/
def predCmp (m : Move) (s : State) (p : W64 → W64 → Bool) : Out :=
  scalarTrigger 5 m s fun t => s.pushPred (p (bruA s) t)

/-- peq (R210). -/
def execPeq (m : Move) (s : State) : Out := predCmp m s (· == ·)

/-- pne (R210). -/
def execPne (m : Move) (s : State) : Out := predCmp m s (· != ·)

/-- plt (R210). -/
def execPlt (m : Move) (s : State) : Out := predCmp m s BitVec.slt

/-- pltu (R210). -/
def execPltu (m : Move) (s : State) : Out := predCmp m s BitVec.ult

/-- ple (R210). -/
def execPle (m : Move) (s : State) : Out := predCmp m s BitVec.sle

/-- pleu (R210). -/
def execPleu (m : Move) (s : State) : Out := predCmp m s BitVec.ule

/-- pnot (R210, R211). -/
def execPnot (m : Move) (s : State) : Out :=
  scalarTrigger 5 m s fun _ =>
    match s.core.pstack with
    | x :: r => s.setStack ((!x) :: r)
    | [] => .error (.of .pstackUnder)

/-- Pop two, push their combination (R210, R211). -/
def predPair (m : Move) (s : State) (f : Bool → Bool → Bool) : Out :=
  scalarTrigger 5 m s fun _ =>
    match s.core.pstack with
    | x :: y :: r => s.setStack (f x y :: r)
    | _ => .error (.of .pstackUnder)

/-- pand (R210). -/
def execPand (m : Move) (s : State) : Out := predPair m s and

/-- por (R210). -/
def execPor (m : Move) (s : State) : Out := predPair m s or

/-- pdup (R210, R211). -/
def execPdup (m : Move) (s : State) : Out :=
  scalarTrigger 5 m s fun _ =>
    match s.core.pstack with
    | x :: _ => s.pushPred x
    | [] => .error (.of .pstackUnder)

/-- ppop (R210, R211). -/
def execPpop (m : Move) (s : State) : Out :=
  scalarTrigger 5 m s fun _ =>
    match s.core.pstack with
    | _ :: r => s.setStack r
    | [] => .error (.of .pstackUnder)

/-- The stack in the layout of R212: bit i of ENT is the entry i above the bottom. -/
def stackWord (st : List Bool) : W64 :=
  BitVec.ofNat 64 (st.length * 2 ^ 16 + st.foldl (fun acc b => 2 * acc + b2n b) 0)

/-- The stack of a depth and entries, top first (R212). -/
def stackOf (ent : Nat) : Nat → List Bool
  | 0 => []
  | d + 1 => bit ent d :: stackOf ent d

/-- rdps (R212). -/
def execRdps (m : Move) (s : State) : Out := scalarTrigger 5 m s fun _ => s.result 5 1 (stackWord s.core.pstack)

/-- wrps (R212). -/
def execWrps (m : Move) (s : State) : Out :=
  scalarTrigger 5 m s fun t =>
    let d := fld t.toNat 20 16
    if 16 < d ∨ t.toNat / 2 ^ 21 ≠ 0 then .error (.of .pstackBad) else s.setStack (stackOf t.toNat d)

/-- The votes of the lanes that take part (R213). -/
def votes (mask : W64) (t : VReg) : List Bool :=
  ((List.range 64).filter fun l => mask.getLsbD l).map fun l => lane t l != 0

/-- vany (R213). -/
def execVany (m : Move) (s : State) : Out :=
  vectorTrigger 5 m s fun t => s.pushPred ((votes (bruA s) t).any id)

/-- vall (R213). -/
def execVall (m : Move) (s : State) : Out :=
  vectorTrigger 5 m s fun t => s.pushPred ((votes (bruA s) t).all id)

/-! ## Transfers (R214 to R219) -/

/-- A plain position in address order. -/
def Pos.plain (idx : BitVec 14) : Pos := { Pos.zero with idx := idx }

/-- The first n positions that follow the one at issue; beyond those named they run in address order (R216). -/
def following (prev : BitVec 14) : List Pos → Nat → List Pos
  | _, 0 => []
  | p :: ps, n + 1 => p :: following p.idx ps n
  | [], n + 1 => Pos.plain (prev + 1) :: following (prev + 1) [] n

/-- A graph fault on a slot names the node (R31, R419). -/
def State.graphExc (s : State) (cause : Cause) : Exc := .fault cause 0 s.core.seg.node 0

/-- A transfer at the position at issue is taken: two delay bundles, then the target (R215, R216). -/
def Core.redirect (c : Core) (target : BitVec 14) : Core :=
  let next := (following c.cur.idx c.fq 2).map fun p => { p with xferDelay := true }
  { c with fq := next ++ [{ Pos.plain target with target := true }] }

/-- An untaken jtn or jfn nullifies the next two positions (R216). -/
def Core.nullify (c : Core) : Core :=
  let all := following c.cur.idx c.fq (max 2 c.fq.length)
  { c with fq := (all.take 2).map (fun p => { p with null := true }) ++ all.drop 2 }

/-- Whether the position at issue is a delay bundle of a segend; the segend's own bundle is none (R35). [DEDUCED, log 25] -/
def Core.endDelay (c : Core) : Bool := c.seg.ending.any (· < 3)

/-- What may not hold a transfer: a delay bundle of a segend (R35), a delay bundle of a loop (R225). [DEDUCED, log 25] -/
def State.transferBad (s : State) : Option Exc :=
  if s.core.endDelay then some (s.graphExc .badEnd)
  else if s.core.cur.loopDelay then some (.of .loopXfer)
  else none

/-- A branch target is legal when it is a multiple of 16 below 262,144 (R214). -/
def targetOk (x : W64) : Bool := x.toNat % 16 == 0 && x.toNat < 262144

/-- The bundle index of a legal target. -/
def targetIdx (x : W64) : BitVec 14 := x.extractLsb' 4 14

/-- A transfer is taken; beside a segend of its own bundle its delay bundles would be pending as the segment ends (R34, R215). [DEDUCED, log 25] -/
def State.transfer (s : State) (target : W64) : Except Exc State :=
  if s.core.seg.ending.isSome then .error (s.graphExc .badEnd) else .ok (s.onCore fun c => c.redirect (targetIdx target))

/-- A transfer always taken (R215). -/
def State.jump (s : State) (target : W64) : Except Exc State :=
  match s.transferBad with
  | some e => .error e
  | none => if targetOk target then s.transfer target else .error (.of .branchTarget)

/-- The branch target register t[1:0] (R214). -/
def State.targetReg (s : State) (t : W64) : W64 := vget 0 s.core.regs.b (t.toNat % 4)

/-- jmp (R215). -/
def execJmp (m : Move) (s : State) : Out := scalarTrigger 5 m s fun t => s.jump (s.targetReg t)

/-- ret uses n31 (R214, R218). -/
def execRet (m : Move) (s : State) : Out := scalarTrigger 5 m s fun _ => s.jump (s.core.readN 31)

/-- call also writes n31 with its own offset + 48 (R218). -/
def execCall (m : Move) (s : State) : Out :=
  scalarTrigger 5 m s fun t =>
    (s.jump (s.targetReg t)).bind fun s' =>
      s'.issue1 5 1 (.reg 31 (BitVec.ofNat 64 (16 * s.core.cur.idx.toNat + 48)))

/-- A conditional transfer: taken when the top equals `want`; the top is popped (R215). -/
def condTransfer (want nullifies : Bool) (m : Move) (s : State) : Out :=
  scalarTrigger 5 m s fun t =>
    match s.transferBad with
    | some e => .error e
    | none =>
      if !targetOk (s.targetReg t) then .error (.of .branchTarget)
      else
        match s.core.pstack with
        | [] => .error (.of .pstackUnder)
        | x :: r =>
          (s.setStack r).bind fun s' =>
            if x == want then s'.transfer (s.targetReg t)
            else if nullifies then .ok (s'.onCore Core.nullify)
            else .ok s'

/-- jt (R215). -/
def execJt (m : Move) (s : State) : Out := condTransfer true false m s

/-- jf (R215). -/
def execJf (m : Move) (s : State) : Out := condTransfer false false m s

/-- jtn (R215). -/
def execJtn (m : Move) (s : State) : Out := condTransfer true true m s

/-- jfn (R215). -/
def execJfn (m : Move) (s : State) : Out := condTransfer false true m s

/-! ## Hardware loops (R220 to R226) -/

/-- lstart and lend: a bundle offset of the instruction store, to the pending start or end (R220). -/
def loopBound (m : Move) (s : State) (f : BitVec 14 → PendAct) : Out :=
  scalarTrigger 5 m s fun t => if targetOk t then s.issue1 5 1 (f (targetIdx t)) else .error (.of .loopRange)

/-- lstart (R220). -/
def execLstart (m : Move) (s : State) : Out := loopBound m s fun i => .loopPend none (some i) none

/-- lend (R220). -/
def execLend (m : Move) (s : State) : Out := loopBound m s fun i => .loopPend none none (some i)

/-- lstages: 1..8 (R220). -/
def execLstages (m : Move) (s : State) : Out :=
  scalarTrigger 5 m s fun t =>
    if 1 ≤ t.toNat ∧ t.toNat ≤ 8 then s.issue1 5 1 (.loopPend (some (BitVec.ofNat 3 (t.toNat - 1))) none none)
    else .error (.of .loopRange)

/-- lcnt: pending for the innermost level's next loop-back test (R223). -/
def execLcnt (m : Move) (s : State) : Out :=
  scalarTrigger 5 m s fun t =>
    if t.toNat / 2 ^ 32 ≠ 0 then .error (.of .loopRange)
    else
      match s.core.loops.innermost with
      | none => .error (.of .loopState)
      | some (which, _) => s.issue1 5 1 (.lcnt which (t.setWidth 32))

/-- The checks of an activation, in the order of R221 after those of R34 and R225. [DEDUCED, log 13] -/
def State.loopBad (s : State) (t : W64) : Option Exc :=
  let l := s.core.loops
  if s.core.endDelay then some (s.graphExc .badEnd)
  else if s.core.cur.loopDelay || s.core.cur.xferDelay then some (.of .loopXfer)
  else if t.toNat / 2 ^ 32 ≠ 0 then some (.of .loopRange)
  else if l.inner.active then some (.of .loopDepth)
  else if !(l.pendFirst ≤ l.pendLast && s.core.seg.first ≤ l.pendFirst && l.pendLast ≤ s.core.seg.last) then
    some (.of .loopRange)
  else if l.outer.active && !(l.outer.first ≤ l.pendFirst && l.pendLast < l.outer.last) then some (.of .loopNest)
  else none

/-- loop: the level becomes active with N passes to start, after two delay bundles; N = 0 skips the body (R221). -/
def execLoop (m : Move) (s : State) : Out :=
  scalarTrigger 5 m s fun t =>
    match s.loopBad t with
    | some e => .error e
    | none =>
      let l := s.core.loops
      let dest := if t = 0 then l.pendLast + 1 else l.pendFirst
      let delays := (following s.core.cur.idx [] 2).map fun p => { p with loopDelay := true }
      let s1 := s.onCore fun c => { c with fq := delays ++ [Pos.plain dest] }
      if t = 0 then .ok s1
      else
        s1.issue1 5 1 (.level l.outer.active
          { active := true, fresh := true, stages := l.pendStages, sp := 0, pend := none, count := t.setWidth 32,
            first := l.pendFirst, last := l.pendLast })

/-- The start of a pass: the stage predicates shift and the count falls (R222). -/
def Level.startPass (l : Level) : Level :=
  let kept := BitVec.ofNat 8 (2 ^ (l.stages.toNat + 1) - 1)
  { l with
    fresh := false
    sp := ((l.sp <<< 1) ||| (if l.count = 0 then 0 else 1)) &&& kept
    count := if l.count = 0 then 0 else l.count - 1 }

/-- The level as a loop-back test sees it, a pending lcnt taken (R222, R223). -/
def Level.tested (l : Level) : Level := { l with count := l.pend.getD l.count, pend := none }

/-- Whether another pass runs: iterations to start, or a stage before the last still holds one (R222). -/
def Level.again (l : Level) : Bool :=
  l.count != 0 || (l.sp &&& BitVec.ofNat 8 (2 ^ l.stages.toNat - 1)) != 0

/-- A rotating base advances by its stride within its ring (R224). -/
def rotateBase (x : W64) : W64 :=
  let size := fld x.toNat 63 40
  if size = 0 then x
  else
    let m := pow2Floor size
    let off := fld x.toNat 23 0
    let off' := off - off % m + (((off : Int) + sInt 16 (fld x.toNat 39 24)) % (m : Int)).toNat
    BitVec.ofNat 64 (x.toNat / 2 ^ 24 * 2 ^ 24 + off' % 2 ^ 24)

/-- LOOP_PASS_BOUNDARY: as the LEND bundle of the innermost level has issued, the test is decided, the bases rotate, and the next position
is LSTART or the bundle after LEND. It is the last step of the stream in its cycle, so the changes are visible from the next one, at whose
start an lcnt or an NREG write of the LEND bundle lands over them (R222 to R224). [DEDUCED, log 50] -/
def execLoopPassBoundary (s : State) : Out :=
  match s.core.loops.innermost with
  | none => .next s
  | some (which, l0) =>
    if s.core.cur.idx != l0.last then .next s
    else
      let c := s.core
      let l := l0.tested
      .next { s with core := { c with
        fq := [Pos.plain (if l.again then l.first else l.last + 1)]
        loops := c.loops.set which (if l.again then l.startPass else { l with active := false, sp := 0 })
        regs := { c.regs with x := c.regs.x.map rotateBase } } }

/-- LOOPn_CTL (R226). [DESIGN CHOICE, log 189] -/
def Level.ctlWord (l : Level) : W64 :=
  if l.active then
    BitVec.ofNat 64 (2 ^ 63 + l.stages.toNat * 2 ^ 48 + l.sp.toNat * 2 ^ 40 + b2n l.pend.isSome * 2 ^ 32
      + (l.pend.getD l.count).toNat)
  else 0

/-- LOOPn_RANGE (R226). [DESIGN CHOICE, log 189] -/
def Level.rangeWord (l : Level) : W64 :=
  if l.active then BitVec.ofNat 64 (l.last.toNat * 2 ^ 16 + l.first.toNat) else 0

/-- LOOP_PEND (R226). -/
def Loops.pendWord (l : Loops) : W64 :=
  BitVec.ofNat 64 (l.pendStages.toNat * 2 ^ 32 + l.pendLast.toNat * 2 ^ 16 + l.pendFirst.toNat)

end Sys2Proof.Machine
end

