-- ==== Sys2Proof/Machine/Csr.lean ====
section
/-! DEFINITION. The control/status registers: reading, which may be written, and what a write does when it lands (R325, R326). -/

namespace Sys2Proof.Machine

/-- A ring of the core (R82). -/
def Core.ring (c : Core) (n : Nat) : Ring := vget .none c.eng.rings n

/-- RINGn_CFG (R82). -/
def Ring.cfgWord (r : Ring) : W64 :=
  if r.v then
    BitVec.ofNat 64 (2 ^ 63 + r.feed * 2 ^ 58 + (r.tileU - 1) * 2 ^ 48 + (r.slots - 1) * 2 ^ 40 + r.base)
  else 0

/-- RINGn_PTR (R82). -/
def Ring.ptrWord (r : Ring) : W64 := if r.v then r.tail ++ r.head else 0

/-- EDOMd (R149). -/
def EDom.word (d : EDom) : W64 :=
  match d.mode with
  | .stopped => d.steps.setWidth 64
  | .periodic n _ => BitVec.ofNat 64 (2 ^ 63 + 2 ^ 61 + n % 65536 * 2 ^ 39) + d.steps.setWidth 64
  | .counted o => BitVec.ofNat 64 (b2n (o != 0) * 2 ^ 63 + 2 * 2 ^ 61 + o * 2 ^ 39) + d.steps.setWidth 64

/-- KSTAT takes OVLCNT, and its flags clear by ones (R139). -/
def kstatWrite (old v : W64) : W64 :=
  (v &&& BitVec.ofNat 64 0xFFFF000000) ||| (old &&& BitVec.ofNat 64 0xF &&& ~~~v)

/-- The bits of THBASE that are not reserved (R295). -/
def thbaseMask : Nat := 2 ^ 57 - 4096 + 31

/-- EMBFLT.V (R154, R155). -/
def Core.embOverrun (c : Core) : Bool := c.eng.ember.flt.getLsbD 63

/-- A control/status register as visible now; none for a number that is not defined (R326). [DEDUCED, log 3] -/
def Core.csrRead (c : Core) (num : Nat) : Option W64 :=
  if 0x040 ≤ num ∧ num ≤ 0x047 then some (c.ring (num - 0x040)).cfgWord
  else if 0x048 ≤ num ∧ num ≤ 0x04F then some (c.ring (num - 0x048)).ptrWord
  else if 0x060 ≤ num ∧ num ≤ 0x063 then some (vget ⟨.stopped, 0⟩ c.eng.ember.doms (num - 0x060)).word
  else if 0x084 ≤ num ∧ num ≤ 0x087 then some (vget 0 c.devLast (num - 0x084))
  else if 0x0A0 ≤ num ∧ num ≤ 0x0A3 then some (vget 0 c.bkpt (num - 0x0A0))
  else
    match num with
    | 0x000 => some (BitVec.ofNat 64 c.tcc)
    | 0x001 => some (c.scc.setWidth 64)
    | 0x002 => some (c.fmt.setWidth 64)
    | 0x003 => some (c.fstat.setWidth 64)
    | 0x004 => some c.cond
    | 0x010 => some (c.tcls.setWidth 64)
    | 0x011 => some (c.pflag.setWidth 64)
    | 0x012 => some (c.vpeer.setWidth 64)
    | 0x013 => some (c.vpscale.setWidth 64)
    | 0x014 => some c.thbase
    | 0x020 => some ((vget 0 c.eng.cwp 0).setWidth 64)
    | 0x021 => some ((vget 0 c.eng.cwp 1).setWidth 64)
    | 0x030 => some c.raceStat
    | 0x031 => some c.raceAddr
    | 0x050 => some c.eng.kiln.kstat
    | 0x064 => some c.eng.ember.flt
    | 0x070 => some c.loops.outer.ctlWord
    | 0x071 => some c.loops.outer.rangeWord
    | 0x074 => some c.loops.inner.ctlWord
    | 0x075 => some c.loops.inner.rangeWord
    | 0x078 => some c.loops.pendWord
    | 0x080 => some (c.schedCtl.setWidth 64)
    | 0x081 => some (c.devCnt.setWidth 64)
    | 0x082 => some c.devLost
    | _ => none

/-- Registers that are read-only as a whole (R325, R326). -/
def csrReadOnly (num : Nat) : Bool :=
  [0x000, 0x001, 0x002, 0x004, 0x013, 0x014, 0x020, 0x021, 0x031, 0x060, 0x061, 0x062, 0x063, 0x070, 0x071, 0x074,
   0x075, 0x078].contains num || (0x040 ≤ num && num ≤ 0x047) || (0x084 ≤ num && num ≤ 0x087)

/-- A csrw of RINGn_PTR that moves TAIL backwards or beyond HEAD + SLOTS, or names an undefined ring (R83). TAIL is
writable only under FEED = 0 (R82). -/
def Ring.ptrBad (r : Ring) (v : W64) : Bool :=
  if !r.v then true
  else if r.feed ≠ 0 then false
  else
    let tail : W32 := v.extractLsb' 32 32
    let held := (r.tail - r.head).toNat
    let asked := (tail - r.head).toNat
    asked < held || r.slots < asked

/-- The checks of a csrw at issue (R325, R83). -/
def Core.csrwBad (c : Core) (num : Nat) (v : W64) : Option Cause :=
  if (c.csrRead num).isNone then some .csrBad
  else if csrReadOnly num then some .csrRo
  else if 0x048 ≤ num ∧ num ≤ 0x04F then (if (c.ring (num - 0x048)).ptrBad v then some .ringPtr else none)
  else none

/-- RING_TAIL_WRITE: TAIL of a program-fed ring takes bits 63:32 of the value (R83). -/
def Core.ringTailWrite (c : Core) (n : BitVec 3) (v : W64) : Core :=
  let r := c.ring n.toNat
  if r.v && r.feed == 0 && !r.ptrBad v then
    { c with eng := { c.eng with rings := vset c.eng.rings n.toNat { r with tail := v.extractLsb' 32 32 } } }
  else c

/-- ECAUSE_REARM: ECAUSE 0 rearms the capture of an engine race (R115). [DEDUCED, log 171] -/
def Core.ecauseRearm (c : Core) (v : W64) : Core :=
  if v.extractLsb' 40 2 = 0 then { c with raceStat := c.raceStat &&& ~~~(BitVec.ofNat 64 (3 * 2 ^ 40)) } else c

/-- RACESTAT takes its two counters (R115). -/
def Core.raceStatWrite (c : Core) (v : W64) : Core :=
  { c with raceStat := (c.raceStat &&& ~~~(BitVec.ofNat 64 0xFFFFFFFF)) ||| (v &&& BitVec.ofNat 64 0xFFFFFFFF) }

/-- A csrw lands: RO fields keep, W1C flags clear, reserved bits stay zero (R5, R325). The writes that are steps of their
own, of a ring's TAIL, of ECAUSE and of EMBFLT, are left to those steps. -/
def Core.csrApply (c : Core) (num : Nat) (v : W64) : Core :=
  if 0x0A0 ≤ num ∧ num ≤ 0x0A3 then
    { c with bkpt := vset c.bkpt (num - 0x0A0) (v &&& BitVec.ofNat 64 (2 ^ 63 + 0x3FFF)) }
  else
    match num with
    | 0x003 => { c with fstat := c.fstat &&& ~~~(v.setWidth 7) }
    | 0x010 => { c with tcls := v.setWidth 3 }
    | 0x011 => { c with pflag := v.setWidth 24 }
    | 0x012 => { c with vpeer := v.setWidth 11 }
    | 0x013 => { c with vpscale := v.setWidth 32 }
    | 0x030 => c.raceStatWrite v
    | 0x050 => { c with
        eng := { c.eng with kiln := { c.eng.kiln with kstat := kstatWrite c.eng.kiln.kstat v } } }
    | 0x080 => { c with schedCtl := v.setWidth 4 }
    | 0x081 => { c with devCnt := v.setWidth 32 }
    | 0x082 => { c with devLost := v }
    | _ => c

/-- The step that a landing csrw becomes when the write has one of its own (R83, R115, R154). -/
def csrEvent (num : Nat) (v : W64) : List Instr :=
  if 0x048 ≤ num ∧ num ≤ 0x04F then [.ringTailWrite (BitVec.ofNat 3 (num - 0x048)) v]
  else if num = 0x030 then [.ecauseRearm v]
  else if num = 0x064 then [.embfltClear v]
  else []

/-- EMBFLT_CLEAR: a write of 1 to V clears the whole register (R154). -/
def execEmbfltClear (v : W64) (s : State) : Out :=
  .next (if v.getLsbD 63 then
    s.onCore fun c => { c with eng := { c.eng with ember := { c.eng.ember with flt := 0 } } } else s)

/-- RING_TAIL_WRITE (R83). -/
def execRingTailWrite (n : BitVec 3) (v : W64) (s : State) : Out := .next (s.onCore fun c => c.ringTailWrite n v)

/-- ECAUSE_REARM (R115). -/
def execEcauseRearm (v : W64) (s : State) : Out := .next (s.onCore fun c => c.ecauseRearm v)

end Sys2Proof.Machine
end

