-- ==== Sys2Proof/Machine/Push.lean ====
section
/-! DEFINITION. Push stores: the checks at issue and their dispatch (R78). -/

namespace Sys2Proof.Machine

/-- Split bytes at an offset into pieces that each lie in one 64-byte row (R79). -/
def rowPieces : Nat → Nat → List Byte → List (Nat × List Byte)
  | 0, _, _ => []
  | fuel + 1, off, data =>
    let n := 64 - off % 64
    if data.length ≤ n then [(off, data)] else (off, data.take n) :: rowPieces fuel (off + n) (data.drop n)

/-- The pieces of bytes at an offset. -/
def piecesOf (off : Nat) (data : List Byte) : List (Nat × List Byte) :=
  if data.isEmpty then [] else rowPieces (data.length / 64 + 2) off data

/-- Whether PFLAG names an 8-byte word within the footprint; the task block is no part of it (R25, R78). -/
def Core.pflagOk (c : Core) : Bool := c.pflag.toNat % 8 == 0 && c.pflag.toNat + 8 ≤ 65536 * c.task.spUnits

/-- The checks of a push store to core i at offset o (R78, R229). -/
def Core.pushBad (c : Core) (i o len ea : Nat) : Option Exc :=
  if !c.task.rect.has i then some (memExc .peerRect ea)
  else if !c.task.spOk o len then some (memExc .footprint ea)
  else if !c.pflagOk then some (memExc .pflagBad ea)
  else none

/-- A push store leaves for its target in pieces, its arrival free; `grp` names its group, or is absent for a store of its own;
data and flag carry one class (R78, R92). -/
def State.sendPushTo (s : State) (i : Nat) (parts : List (Nat × List Byte)) (flag grp : Option Nat) (cls : BitVec 3)
    (gid : Nat) : State :=
  let (k, s1) := s.takeReq
  { s1 with
    mod := { s1.mod with
      pushes := s1.mod.pushes ++
        [⟨k, s.focus, i, s.core.task.launchId, cls, gid, parts, flag, grp.getD k, s.wall + 1 + Config.outsideDelay k, false⟩] } }

/-- A slot's push store, in core order (R100). -/
def State.sendPushRows (s : State) (i : Nat) (parts : List (Nat × List Byte)) : State :=
  (s.sendPushTo i parts (some s.core.pflag.toNat) none s.core.tcls s.core.gid).onCore fun c => { c with gid := c.gid + 1 }

/-- A push store of bytes at one offset. -/
def State.sendPush (s : State) (i o : Nat) (data : List Byte) : State := s.sendPushRows i [(o, data)]

/-- The binding of a window in a cycle, with its number: that of the latest switch up to it (R87, R302). -/
def Core.bindAt (c : Core) (w t : Nat) : Option (Nat × Binding) :=
  (c.eng.binds.foldl (fun (best : Option BindSwitch) x =>
    if x.w = w ∧ x.start ≤ t ∧ (best.elim true fun y => y.start ≤ x.start) then some x else best) none).bind
      fun x => x.bind.map fun b => (x.id, b)

/-- Whether bytes of the scratchpad lie in the index vector of an active binding (R88). -/
def Core.indexHit (c : Core) (off len : Nat) : Bool :=
  (List.range 4).any fun w =>
    match c.bindAt w c.tcc with
    | some (_, b) => off < b.idx + 4 * b.count && b.idx < off + len
    | none => false

end Sys2Proof.Machine
end

