-- ==== Sys2Proof/Machine/CopyMap.lean ====
section
/-! DEFINITION. Where the units of a copy stand and by when they are written, and what slot reads meet of them (R290 to R293, R353, R355). -/

namespace Sys2Proof.Machine

/-! ## The units of a copy (R290, R292, R293) -/

/-- The number of units. -/
def Copy.count (c : Copy) : Nat := c.rows * c.rlu

/-- Where unit u of a transposition stands: block row, block column, destination row in the block, unit in that row (R293). [DEDUCED, log 93] -/
def Copy.spot (c : Copy) (u : Nat) : Nat × Nat × Nat × Nat :=
  let blk := u / (64 * c.esz)
  let rem := u % (64 * c.esz)
  let wide := c.rlu / c.esz
  (blk / wide, blk % wide, rem / c.esz, rem % c.esz)

/-- An address plus a number of strides. -/
def strideAt (a : Nat) (st : Int) (k : Nat) : Nat := ((a : Int) + st * k).toNat

/-- The source pieces of a unit: addresses and lengths; a gather window's offset becomes a table address when the row is
fetched (R86, R293). [DEDUCED, log 93] -/
def Copy.srcPieces (c : Copy) (u : Nat) : List (Nat × Nat) :=
  if c.esz = 0 then [(strideAt c.src c.sstride (u / c.rlu) + 64 * (u % c.rlu), 64)]
  else
    let (rb, cb, cr, k) := c.spot u
    (List.range (64 / c.esz)).map fun i =>
      (strideAt c.src c.sstride (64 * rb + k * (64 / c.esz) + i) + (64 * cb + cr) * c.esz, c.esz)

/-- The source row that a transposition out of a local store reads for unit u, one a cycle: the 64 rows of a block one after another, 64 bytes of
each at a time. Its address, and the pieces of units that it gives, each with where its bytes lie in the row (R293, R364). [DEDUCED, log 192] -/
def Copy.line (c : Copy) (u : Nat) : Nat × List (Nat × Nat) :=
  let n := 64 / c.esz
  let wide := c.rlu / c.esz
  let blk := u / (64 * c.esz)
  let g := u % (64 * c.esz) / 64
  let r := u % 64
  (strideAt c.src c.sstride (64 * (blk / wide) + r) + 64 * (blk % wide) * c.esz + 64 * g,
    (List.range n).map fun e => (64 * (blk * 64 * c.esz + (g * n + e) * c.esz + r / n) + r % n, c.esz * e))

/-- Whether a copy is a transposition out of a local store. -/
def Copy.turnsLocal (c : Copy) : Bool :=
  c.esz != 0 &&
  match regionOf c.src with
  | .sp _ => true
  | .acc _ => true
  | .imem _ => true
  | _ => false

/-- The scratchpad offset of a tile position of a ring (R83). -/
def Ring.slotOff (r : Ring) (pos : Nat) : Nat := r.base + pos % r.slots * (64 * (r.tileU))

/-- The destination address of a unit. -/
def Core.copyDst (k : Core) (c : Copy) (u : Nat) : Nat :=
  match c.dst with
  | .ring n pos =>
    let r := k.ring n
    spBase + r.slotOff (pos + u / r.tileU) + 64 * (u % r.tileU)
  | .addr dst st =>
    if c.esz = 0 then strideAt dst st (u / c.rlu) + 64 * (u % c.rlu)
    else
      let (rb, cb, cr, q) := c.spot u
      strideAt dst st (64 * cb + cr) + 64 * rb * c.esz + 64 * q

/-- The byte ranges of the source (R290). -/
def Copy.srcRows (c : Copy) : List (Int × Nat) := (List.range c.rows).map fun (r : Nat) => ((c.src : Int) + c.sstride * r, 64 * c.rlu)

/-- The byte ranges of the destination (R290, R293). -/
def Core.dstRows (k : Core) (c : Copy) : List (Int × Nat) :=
  match c.dst with
  | .ring n pos =>
    let r := k.ring n
    (List.range (c.count / r.tileU)).map fun t => (((spBase + r.slotOff (pos + t) : Nat) : Int), 64 * r.tileU)
  | .addr dst st =>
    if c.esz = 0 then (List.range c.rows).map fun (r : Nat) => ((dst : Int) + st * r, 64 * c.rlu)
    else (List.range (64 * c.rlu / c.esz)).map fun (q : Nat) => ((dst : Int) + st * q, c.rows * c.esz)

/-- L of R292 for a piece of source: 64 more for a transposition. -/
def Core.latOf (copy : Copy) (die va : Nat) (globalDst : Bool) : Nat :=
  (match regionOf va with
    | .global =>
      match copy.leaves.find? fun l => l.va ≤ va && va < l.va + l.size with
      | some l =>
        if l.rpl || (l.pa + (va - l.va)) / groupSpan == die then (if globalDst then 540 else 240)
        else (if globalDst then 600 else 300)
      | none => if globalDst then 600 else 300
    | .gather _ _ => if globalDst then 600 else 300
    | _ => if globalDst then 300 else 8) + (if copy.esz = 0 then 0 else 64)

/-- Whether a copy writes global memory. -/
def Copy.toGlobal (c : Copy) : Bool :=
  match c.dst with
  | .addr dst _ => regionOf dst = .global
  | .ring _ _ => false

/-- The cycle by which unit u, from 0, is written (R292). -/
def Copy.bound (c : Copy) (die u : Nat) : Nat :=
  c.start + ((c.srcPieces u).map fun p => Core.latOf c die p.1 c.toGlobal).foldl max 0 + (u + 1)

/-- The bound of the last unit: the cycle F of a follow-on command (R294). [DEDUCED, log 82] -/
def Copy.lastBound (c : Copy) (die : Nat) : Nat := c.bound die (c.count - 1)

/-! ## What slot reads meet (R353, R355) -/

/-- Whether unit u of a copy is written over some of the bytes of a local store. -/
def Core.unitMeets (k : Core) (c : Copy) (u store off len : Nat) : Bool :=
  let d := k.copyDst c u
  match regionOf d with
  | .sp o => store == 0 && o < off + len && off < o + 64
  | .acc o => store == 1 && o < off + len && off < o + 64
  | _ => false

/-- COPY_LATE: a unit over the bytes that is due and not written (R355). -/
def Core.copyLate (k : Core) (die store : Nat) (rs : List (Nat × Nat)) : Option (Nat × Nat) :=
  k.eng.copies.findSome? fun c =>
    ((List.range c.count).find? fun u =>
      c.written ≤ u && c.bound die u ≤ k.tcc && rs.any fun r => k.unitMeets c u store r.1 r.2).map fun u => (c.id, u)

/-- The scoreboard's check of bytes that a copy unit is assigned before its bound (R353). -/
def Core.copyShadow (k : Core) (die store : Nat) (rs : List (Nat × Nat)) : Option (Nat × Nat) :=
  k.eng.copies.findSome? fun c =>
    (List.range c.count).findSome? fun u =>
      if k.tcc < c.bound die u then
        (rs.find? fun r => k.unitMeets c u store r.1 r.2).map fun r =>
          (c.bound die u, (if store = 0 then spBase else accBase) + max r.1 (k.copyDst c u % 2 ^ 32))
      else none

/-- COPY_LATE for a slot's read of local bytes (R355). [DEDUCED, log 94] -/
def State.copyCheck (s : State) (store : Nat) (rs : List (Nat × Nat)) : Except Exc Unit :=
  match s.core.copyLate (coreDie s.focus) store rs with
  | some (id, u) => .error (.late 6 (.copyUnit id u))
  | none => .ok ()

/-- SB_SHADOW on local bytes, for slot writes and copy units, tested last (R353, R354). -/
def State.sbmRanges (s : State) (store : Nat) (rs : List (Nat × Nat)) : Except Exc Unit :=
  if s.core.schedCtl.getLsbD 2 then
    match s.core.byteShadow store rs with
    | some (t, loc) => .error (.fault .sbShadow 0 loc t)
    | none =>
      match s.core.copyShadow (coreDie s.focus) store rs with
      | some (t, loc) => .error (.fault .sbShadow 0 loc t)
      | none => .ok ()
  else .ok ()

end Sys2Proof.Machine
end

