-- ==== Sys2Proof/Machine/Agu.lean ====
section
/-! DEFINITION. AGU: scalar loads, stores, atomics, red operations and waits (R227 to R237). -/

namespace Sys2Proof.Machine

/-- AGU's operands a, b, c (R227). -/
def aguA (s : State) : W64 := s.core.port 4 1
def aguB (s : State) : W64 := s.core.port 4 2
def aguC (s : State) : W64 := s.core.port 4 3

/-- An AGU trigger: the effective address first, then the form (R227, R229). -/
def aguOp (m : Move) (s : State) (body : Nat → Except Exc State) : Out :=
  scalarTrigger 4 m s fun t => (effAddr (aguA s) t).bind body

/-- Fail with an exception, or go on (R229). -/
def must (ok : Bool) (e : Exc) : Except Exc Unit := if ok then .ok () else .error e

/-- A local load: its bytes as visible now, its bank in this cycle, its result at the store's latency (R230). -/
def State.loadLocal (s : State) (store off w lat : Nat) (ext : Ext) : Except Exc State := do
  s.copyCheck store [(off, w)]
  let s1 ← s.book 4 store 0 false [off]
  let v := extWord ext w (rdLE (if store = 0 then s.core.sp else s.core.acc) off w)
  let s2 ← s1.result 4 lat v
  s.sbmRanges store [(off, w)]
  return s2

/-- A global load: translated before issue, due at 300 or 360 (R230, R231). -/
def State.loadGlobal (s : State) (ea w : Nat) (ext : Ext) : Except Exc State := do
  let leaf ← s.translate ea true false
  let seq := s.core.seq
  let s1 ← s.issue1 4 (loadDue leaf ea s.focus) (.scalar true none)
  return s1.sendGlobal s.core.tcls ea (leaf.phys ea (coreDie s.focus)) leaf.rpl (.read w (.slot seq ext))
    (s.core.here 4) false

/-- A load of w bytes (R228, R229, R233). -/
def State.load (s : State) (w : Nat) (ext : Ext) (ea : Nat) : Except Exc State :=
  match regionOf ea with
  | .gap => .error (memExc .windowGap ea)
  | .peer _ _ => .error (memExc .windowAccess ea)
  | .gather _ _ => .error (memExc .windowAccess ea)
  | .global => do
    must (ea % w == 0) (memExc .align ea)
    s.loadGlobal ea w ext
  | .sp off => do
    must (ea % w == 0) (memExc .align ea)
    must (s.core.task.spOk off w) (memExc .footprint ea)
    s.loadLocal 0 off w 5 ext
  | .acc off => do
    must (ea % w == 0) (memExc .align ea)
    must (s.core.task.accOk off w) (memExc .footprint ea)
    s.loadLocal 1 off w 7 ext
  | .imem off => do
    must (ea % w == 0) (memExc .align ea)
    s.result 4 5 (extWord ext w (rdLE s.core.imem off w))
  | .csr off => do
    must (w == 8 && ea % 8 == 0) (memExc .windowAccess ea)
    match s.core.csrRead (off / 8) with
    | none => .error (.of .csrBad)
    | some v => do
      let s1 ← s.result 4 5 v
      match (if s.core.schedCtl.getLsbD 3 && off == 16 then s.core.fmtShadow else none) with
      | some t => .error (.fault .sbShadow 0 0x8010 t)
      | none => return s1

/-- The low w bytes of a value in address order (R4). -/
def leBytes (v : Nat) : Nat → List Byte
  | 0 => []
  | n + 1 => BitVec.ofNat 8 v :: leBytes (v / 256) n

/-- A store of w bytes (R228, R229, R233). -/
def State.store (s : State) (w : Nat) (ea : Nat) : Except Exc State :=
  let v := (aguB s).toNat % 2 ^ (8 * w)
  match regionOf ea with
  | .gap => .error (memExc .windowGap ea)
  | .imem _ => .error (memExc .windowWrite ea)
  | .gather _ _ => .error (memExc .windowWrite ea)
  | .peer i o => do
    must (ea % w == 0) (memExc .align ea)
    match s.core.pushBad i o w ea with
    | some e => .error e
    | none => return s.sendPush i o (leBytes v w)
  | .global => do
    must (ea % w == 0) (memExc .align ea)
    let leaf ← s.translate ea false true
    must s.core.writeRoom (.late 9 .wbuf)
    return s.sendGlobal s.core.tcls ea (leaf.phys ea 0) leaf.rpl (.write (leBytes v w)) (s.core.here 4) false
  | .sp off => do
    must (ea % w == 0) (memExc .align ea)
    must (s.core.task.spOk off w) (memExc .footprint ea)
    must (!s.core.indexHit off w) (memExc .windowIndex ea)
    let s1 ← s.book 4 0 2 true [off]
    s1.issue1 4 2 (.spWrite off w v)
  | .acc off => do
    must (ea % w == 0) (memExc .align ea)
    must (s.core.task.accOk off w) (memExc .footprint ea)
    let s1 ← s.book 4 1 2 true [off]
    s1.issue1 4 2 (.accWrite off w v)
  | .csr off => do
    must (w == 8 && ea % 8 == 0) (memExc .windowAccess ea)
    match s.core.csrwBad (off / 8) (aguB s) with
    | some c => .error (.of c)
    | none => s.issue1 4 1 (.csr (BitVec.ofNat 12 (off / 8)) (aguB s))

/-- An atomic (`ret`) or a red operation (R228, R234, R236). -/
def State.atomic (s : State) (op : AmoOp) (w : Nat) (ext : Ext) (ret : Bool) (ea : Nat) : Except Exc State :=
  let a : Amo := ⟨op, w, aguB s, aguC s, ext⟩
  match regionOf ea with
  | .gap => .error (memExc .windowGap ea)
  | .imem _ => .error (memExc .windowWrite ea)
  | .gather _ _ => .error (memExc .windowWrite ea)
  | .acc _ => .error (memExc .windowAccess ea)
  | .csr _ => .error (memExc .windowAccess ea)
  | .peer _ _ => .error (memExc .windowAccess ea)
  | .sp off => do
    must (ea % w == 0) (memExc .align ea)
    must (s.core.task.spOk off w) (memExc .footprint ea)
    must (!s.core.indexHit off w) (memExc .windowIndex ea)
    s.copyCheck 0 [(off, w)]
    let s1 ← s.book 4 0 2 true [off]
    let s2 ← s1.issue 4 ((if ret then [(8, .scalar true none, 0)] else []) ++
      [(2, .spAmo off a (if ret then some s.core.seq else none), 0)])
    s.sbmRanges 0 [(off, w)]
    return s2
  | .global => do
    must (ea % w == 0) (memExc .align ea)
    let leaf ← s.translate ea ret true
    must (!leaf.rpl) (memExc .replAtomic ea)
    must s.core.writeRoom (.late 9 .wbuf)
    let seq := s.core.seq
    let s1 ← if ret then s.issue1 4 420 (.scalar true none) else .ok s
    return s1.sendGlobal s.core.tcls ea (leaf.phys ea 0) false (.amo a (if ret then .slot seq ext else .none))
      (s.core.here 4) false

/-- Whether a wait's condition holds of a word (R237). -/
def waitHolds (ne : Bool) (c v : W64) : Bool := if ne then v != c else BitVec.ule c v

/-- Whether a global word can be read in the issue cycle: no fence holds a read back, no earlier access of the core to its granule is
outstanding, and it can be read (R101, R232, R443, R451). [DEDUCED, log 24] -/
def State.wordFree (s : State) (pa : Nat) : Bool :=
  !(s.core.fences.any fun f => f.kind != .release) && !(s.core.gacc.any fun g => g.pa / 64 == pa / 64) &&
  !(s.mod.hub.poison.contains (pa / 64)) && (s.mod.hub.dies.getLsbD (pa / groupSpan) || s.mod.hub.silent.getLsbD (pa / groupSpan))

/-- wge and wne: the word is sampled in the issue cycle; a global word that does not satisfy the wait then is read again at its home
controller (R237). [DEDUCED, log 24] -/
def State.waitOn (s : State) (ne : Bool) (ea : Nat) : Except Exc State :=
  let c := aguC s
  let pause := fun (s : State) => s.onCore fun k => { k with wait := some (.word ne ea c s.core.slot none), waitFrom := k.gid }
  let sample := fun (v : W64) => if waitHolds ne c v then s else pause s
  match regionOf ea with
  | .gap => .error (memExc .windowGap ea)
  | .imem _ => .error (memExc .windowAccess ea)
  | .gather _ _ => .error (memExc .windowAccess ea)
  | .acc _ => .error (memExc .windowAccess ea)
  | .peer _ _ => .error (memExc .windowAccess ea)
  | .sp off => do
    must (ea % 8 == 0) (memExc .align ea)
    must (s.core.task.spOk off 8) (memExc .footprint ea)
    let s1 ← s.book 4 0 0 false [off]
    let v := BitVec.ofNat 64 (rdLE s.core.sp off 8)
    return if waitHolds ne c v then s1 else pause s1
  | .csr off => do
    must (ea % 8 == 0) (memExc .windowAccess ea)
    match s.core.csrRead (off / 8) with
    | none => .error (.of .csrBad)
    | some v => return sample v
  | .global => do
    must (ea % 8 == 0) (memExc .align ea)
    let leaf ← s.translate ea true false
    must (!leaf.rpl) (memExc .replAtomic ea)
    let pa := leaf.phys ea 0
    if s.wordFree pa && waitHolds ne c (BitVec.ofNat 64 (rdLE s.mem pa 8)) then return s
    else return (pause s).sendGlobal s.core.tcls ea pa false (.read 8 .wait) (s.core.here 4) false

/-- ld8 (R233). -/
def execLd8 (m : Move) (s : State) : Out := aguOp m s (s.load 1 .zero)

/-- ld8s (R233). -/
def execLd8s (m : Move) (s : State) : Out := aguOp m s (s.load 1 .sign)

/-- ld16 (R233). -/
def execLd16 (m : Move) (s : State) : Out := aguOp m s (s.load 2 .zero)

/-- ld16s (R233). -/
def execLd16s (m : Move) (s : State) : Out := aguOp m s (s.load 2 .sign)

/-- ld32 (R233). -/
def execLd32 (m : Move) (s : State) : Out := aguOp m s (s.load 4 .zero)

/-- ld32s (R233). -/
def execLd32s (m : Move) (s : State) : Out := aguOp m s (s.load 4 .sign)

/-- ld64 (R233). -/
def execLd64 (m : Move) (s : State) : Out := aguOp m s (s.load 8 .zero)

/-- st8 (R233). -/
def execSt8 (m : Move) (s : State) : Out := aguOp m s (s.store 1)

/-- st16 (R233). -/
def execSt16 (m : Move) (s : State) : Out := aguOp m s (s.store 2)

/-- st32 (R233). -/
def execSt32 (m : Move) (s : State) : Out := aguOp m s (s.store 4)

/-- st64 (R233). -/
def execSt64 (m : Move) (s : State) : Out := aguOp m s (s.store 8)

/-- amoadd (R234). -/
def execAmoadd (m : Move) (s : State) : Out := aguOp m s (s.atomic .add 4 .sign true)

/-- amomin (R234). -/
def execAmomin (m : Move) (s : State) : Out := aguOp m s (s.atomic .min 4 .sign true)

/-- amomax (R234). -/
def execAmomax (m : Move) (s : State) : Out := aguOp m s (s.atomic .max 4 .sign true)

/-- amominu (R234). -/
def execAmominu (m : Move) (s : State) : Out := aguOp m s (s.atomic .minu 4 .zero true)

/-- amomaxu (R234). -/
def execAmomaxu (m : Move) (s : State) : Out := aguOp m s (s.atomic .maxu 4 .zero true)

/-- amoand (R234). -/
def execAmoand (m : Move) (s : State) : Out := aguOp m s (s.atomic .and 4 .zero true)

/-- amoor (R234). -/
def execAmoor (m : Move) (s : State) : Out := aguOp m s (s.atomic .or 4 .zero true)

/-- amoxor (R234). -/
def execAmoxor (m : Move) (s : State) : Out := aguOp m s (s.atomic .xor 4 .zero true)

/-- amoswap (R234). -/
def execAmoswap (m : Move) (s : State) : Out := aguOp m s (s.atomic .swap 4 .zero true)

/-- amocas (R234). -/
def execAmocas (m : Move) (s : State) : Out := aguOp m s (s.atomic .cas 4 .zero true)

/-- amofadd (R234). -/
def execAmofadd (m : Move) (s : State) : Out := aguOp m s (s.atomic .fadd 4 .zero true)

/-- amofmax (R234). -/
def execAmofmax (m : Move) (s : State) : Out := aguOp m s (s.atomic .fmax 4 .zero true)

/-- amofmin (R234). -/
def execAmofmin (m : Move) (s : State) : Out := aguOp m s (s.atomic .fmin 4 .zero true)

/-- amoadd64 (R234). -/
def execAmoadd64 (m : Move) (s : State) : Out := aguOp m s (s.atomic .add 8 .zero true)

/-- amoswap64 (R234). -/
def execAmoswap64 (m : Move) (s : State) : Out := aguOp m s (s.atomic .swap 8 .zero true)

/-- amocas64 (R234). -/
def execAmocas64 (m : Move) (s : State) : Out := aguOp m s (s.atomic .cas 8 .zero true)

/-- redadd (R236). -/
def execRedadd (m : Move) (s : State) : Out := aguOp m s (s.atomic .add 4 .sign false)

/-- redmin (R236). -/
def execRedmin (m : Move) (s : State) : Out := aguOp m s (s.atomic .min 4 .sign false)

/-- redmax (R236). -/
def execRedmax (m : Move) (s : State) : Out := aguOp m s (s.atomic .max 4 .sign false)

/-- redminu (R236). -/
def execRedminu (m : Move) (s : State) : Out := aguOp m s (s.atomic .minu 4 .zero false)

/-- redmaxu (R236). -/
def execRedmaxu (m : Move) (s : State) : Out := aguOp m s (s.atomic .maxu 4 .zero false)

/-- redand (R236). -/
def execRedand (m : Move) (s : State) : Out := aguOp m s (s.atomic .and 4 .zero false)

/-- redor (R236). -/
def execRedor (m : Move) (s : State) : Out := aguOp m s (s.atomic .or 4 .zero false)

/-- redxor (R236). -/
def execRedxor (m : Move) (s : State) : Out := aguOp m s (s.atomic .xor 4 .zero false)

/-- redfadd (R236). -/
def execRedfadd (m : Move) (s : State) : Out := aguOp m s (s.atomic .fadd 4 .zero false)

/-- redfmax (R236). -/
def execRedfmax (m : Move) (s : State) : Out := aguOp m s (s.atomic .fmax 4 .zero false)

/-- redfmin (R236). -/
def execRedfmin (m : Move) (s : State) : Out := aguOp m s (s.atomic .fmin 4 .zero false)

/-- redadd64 (R236). -/
def execRedadd64 (m : Move) (s : State) : Out := aguOp m s (s.atomic .add 8 .zero false)

/-- wge (R237). -/
def execWge (m : Move) (s : State) : Out := aguOp m s (s.waitOn false)

/-- wne (R237). -/
def execWne (m : Move) (s : State) : Out := aguOp m s (s.waitOn true)

end Sys2Proof.Machine
end

