-- ==== Sys2Proof/Machine/Eng.lean ====
section
/-! DEFINITION. What every engine command shares: its descriptor, its checks and their order, pinned ranges, the lead rule (R274 to R278). -/

namespace Sys2Proof.Machine

/-- A descriptor: its eight words (R275). -/
abbrev Desc := List Nat

/-- A word of a descriptor. -/
def dword (d : Desc) (k : Nat) : Nat := d.getD k 0

/-- Change the engines of the core in focus. -/
def State.onEng (s : State) (f : Engines → Engines) : State :=
  s.onCore fun c => { c with eng := f c.eng }

/-- The next command number of the core's engines. -/
def State.takeCmd (s : State) : Nat × State := (s.core.eng.nid, s.onEng fun e => { e with nid := e.nid + 1 })

/-- The eight words at a scratchpad offset. -/
def descAt (m : Mem) (off : Nat) : Desc := (List.range 8).map fun w => rdLE m (off + 8 * w) 8

/-- Whether every bit set in words 1 to 7 lies in its mask: a field that a command does not define must be 0 (R275). -/
def maskOk (d : Desc) (masks : List Nat) : Bool :=
  (List.range 7).all fun k => Nat.land (dword d (k + 1)) (masks.getD k 0) == dword d (k + 1)

/-- Word 0 of a descriptor (R275): TAG, reserved bits, and TC where the unit takes none. -/
def word0Ok (unit port : Nat) (d : Desc) : Bool :=
  let w := dword d 0
  fld w 7 0 == port && fld w 15 11 == 0 && ((10 ≤ unit && unit != 12) || fld w 10 8 == 0)

/-- START of a descriptor (R275). -/
def descStart (d : Desc) : Nat := fld (dword d 0) 63 16

/-- The traffic class of a descriptor (R275). -/
def descTc (d : Desc) : BitVec 3 := BitVec.ofNat 3 (fld (dword d 0) 10 8)

/-- START as a TCC cycle (R277). -/
def Core.startTcc (c : Core) (d : Desc) : Nat := c.tcc + descStart d - c.scc.toNat

/-- The descriptor reading of a trigger: the address checks, the row's bank in the issue cycle, its words as visible now, and
steps 1 and 2 of R276 (R275). [DEDUCED, log 94] -/
def State.readDesc (s : State) (unit port : Nat) (t : W64) (masks : List Nat) : Except Exc (State × Desc) := do
  let off := t.toNat
  must (off < spSize) (memExc .addrRange off)
  must (off % 64 == 0) (memExc .align (spBase + off))
  must (s.core.task.spOk off 64) (memExc .footprint (spBase + off))
  s.copyCheck 0 [(off, 64)]
  let s1 ← s.book unit 0 0 false [off]
  let d := descAt s.core.sp off
  must (word0Ok unit port d && maskOk d masks) (.of .engDesc)
  return (s1, d)

/-! ## Pinned ranges (R276, R299, R414) -/

/-- The leaves that cover the bytes from va up to `last`, joined to those found; none beyond 4,096 pages in all. -/
def State.coverRange (s : State) (read write : Bool) (last : Nat) : Nat → Nat → List Leaf → Except Exc (List Leaf)
  | 0, va, _ => .error (memExc .pinLimit va)
  | fuel + 1, va, acc =>
    match acc.find? fun l => l.serves s.core.task.asid va read write with
    | some l => if last < l.va + l.size then .ok acc else s.coverRange read write last fuel (l.va + l.size) acc
    | none => do
      let l ← s.translate va read write
      let acc1 := acc ++ [l]
      if last < l.va + l.size then return acc1 else s.coverRange read write last fuel (l.va + l.size) acc1

/-- The leaves of several ranges (first address, length). -/
def State.coverRanges (s : State) (read write : Bool) (rs : List (Nat × Nat)) (acc : List Leaf) : Except Exc (List Leaf) :=
  rs.foldlM (fun acc r => if r.2 = 0 then .ok acc else s.coverRange read write (r.1 + r.2 - 1) 4098 r.1 acc) acc

/-- The distinct pages that leaves name. -/
def pagesOf (ls : List Leaf) : List (Nat × Nat × Nat) := (ls.map fun l => (l.asid, l.va, l.size)).dedup

/-- PIN_LIMIT: at most 4,096 distinct pages stay pinned (R414). -/
def Core.pinRoom (c : Core) (ls : List Leaf) : Bool :=
  (pagesOf (c.eng.pins.flatMap (·.2) ++ ls)).length ≤ 4096

/-- Pin pages for a command. -/
def State.pin (s : State) (id : Nat) (ls : List Leaf) : State :=
  s.onEng fun e => { e with pins := if ls.isEmpty then e.pins else e.pins ++ [(id, ls)] }

/-- Release a command's pins (R414). -/
def Engines.unpin (e : Engines) (id : Nat) : Engines := { e with pins := e.pins.filter fun p => p.1 != id }

/-- The leaf by which a command reaches an address. -/
def Core.pinned (c : Core) (id va : Nat) (write : Bool) : Option Leaf :=
  ((c.eng.pins.lookup id).getD []).find? fun l => l.va ≤ va && va < l.va + l.size && (if write then l.w else l.r)

/-! ## The lead rule and the queue limit (R277, R278) -/

/-- The lead rule, judged from an SCC cycle (R277). -/
def leadRule (scc start : Nat) : Except Exc Unit :=
  if start < scc + 16 then .error (.missed (scc + 16 - start))
  else if scc + 2 ^ 32 < start then .error (.of .engDesc)
  else .ok ()

/-- Steps 4 to 6 of R276: the ranges read and written are covered and there is room for their pins, START leads by enough, and
the queue has room. [DEDUCED, log 88] -/
def State.commitChecks (s : State) (reads writes : List (Nat × Nat)) (start : Nat) (room : Bool) : Except Exc (List Leaf) := do
  let l1 ← s.coverRanges true false reads []
  let l2 ← s.coverRanges false true writes []
  must (s.core.pinRoom (l1 ++ l2)) (.of .pinLimit)
  leadRule s.core.scc.toNat start
  must room (.of .engQueue)
  return (l1 ++ l2)

/-- Engine bookings: `slot` 4 and up, and the command's number, name the requester (R364). [DEDUCED, log 100] -/
def Core.bookEng (c : Core) (unit slot id store : Nat) (write : Bool) (offs : List Nat) : Core :=
  let new := (offs.map (bankOf store)).dedup.map fun (bk, row) => (⟨c.tcc, store, bk, row, write, unit, slot, id⟩ : Booking)
  { c with banks := c.banks ++ new }

/-- The 64-byte rows that bytes touch. -/
def rowsIn (off len : Nat) : List Nat :=
  if len = 0 then [] else (List.range ((off + len - 1) / 64 - off / 64 + 1)).map fun k => (off / 64 + k) * 64

/-- A write of a scheduled engine: it occupies its rows in this cycle and performs at the cycle's end (R97, R364). -/
def Core.engWrite (c : Core) (unit slot id : Nat) (acc : Bool) (off : Nat) (data : List Byte) : Core :=
  let c1 := c.bookEng unit slot id (if acc then 1 else 0) true (rowsIn off data.length)
  { c1 with engWrites := c1.engWrites ++ [(acc, off, data)] }

/-- A vector of bytes as words of n bytes. -/
def wordsOf (n : Nat) (data : List Byte) (count : Nat) : List Nat :=
  (List.range count).map fun k => ((data.drop (n * k)).take n).foldr (fun b acc => b.toNat + 256 * acc) 0

end Sys2Proof.Machine
end

