-- ==== Sys2Proof/Machine/Emb.lean ====
section
/-! DEFINITION. EMB: the Ember field, its commands and its steps (R142 to R155, R303 to R305). -/

namespace Sys2Proof.Machine

/-- Change the field of the core in focus. -/
def State.onEmb (s : State) (f : Ember → Ember) : State := s.onEng fun e => { e with ember := f e.ember }

/-- The field of the core in focus. -/
def State.emb (s : State) : Ember := s.core.eng.ember

/-! ## Patch entries (R144, R145) -/

/-- A source slot of an entry: IDX, XS, YS. -/
def srcIdx (e s : Nat) : Nat := fld e (13 * s + 8) (13 * s)
def srcX (e s : Nat) : Nat := fld e (13 * s + 10) (13 * s + 9)
def srcY (e s : Nat) : Nat := fld e (13 * s + 12) (13 * s + 11)
def patchDom (e : Nat) : Nat := fld e 58 57
def patchLim (e : Nat) : Nat := fld e 61 59
def patchShift (e : Nat) : Nat := fld e 56 52

/-- Whether a slot feeds its cell. -/
def srcUsed (e s : Nat) : Bool := srcX e s != 0 || srcY e s != 0

/-- The first four conditions of R145. -/
def patchOk (e : Nat) : Bool :=
  fld e 63 62 == 0 && patchLim e ≤ 4 && patchShift e ≤ 24 &&
  (List.range 4).all fun s => srcX e s != 2 && srcY e s != 2 && (srcUsed e s || srcIdx e s == 0)

/-- A cell's entry in a table. -/
def patchAt (t : List (Nat × W64)) (c : Nat) : Nat := (sget 0 t c).toNat

/-- Whether every cell that an entry's used slots name has its domain (R145). -/
def sameDomain (t : List (Nat × W64)) (e : Nat) : Bool :=
  (List.range 4).all fun s => !srcUsed e s || 256 ≤ srcIdx e s || patchDom (patchAt t (srcIdx e s)) == patchDom e

/-- A table with entries written. -/
def patchWrite (t : List (Nat × W64)) (es : List (Nat × W64)) : List (Nat × W64) := es.foldl (fun m e => sset 0 m e.1 e.2) t

/-- Whether an entry names a cell whose domain differs between two tables. -/
def namesMoved (t t' : List (Nat × W64)) (e : Nat) : Bool :=
  (List.range 4).any fun s => srcUsed e s && srcIdx e s < 256 && patchDom (patchAt t (srcIdx e s)) != patchDom (patchAt t' (srcIdx e s))

/-- The cause, if any, of an epatch's refusal: it checks what it writes, and what names a cell it moves (R145). -/
def patchBad (t : List (Nat × W64)) (es : List (Nat × W64)) : Option Cause :=
  let t' := patchWrite t es
  if !(es.all fun e => patchOk e.2.toNat) then some .embPatch
  else if (es.any fun e => !sameDomain t' e.2.toNat) ||
      (List.range 256).any fun c => namesMoved t t' (patchAt t' c) && !sameDomain t' (patchAt t' c) then some .embXdomain
  else none

/-! ## The schedules of domains (R148, R152) -/

/-- A domain's mode when it has run on, without a command, from one cycle to another. -/
def EMode.later (m : EMode) (n : Nat) : EMode :=
  match m with
  | .counted o => .counted (o - n)
  | m => m

/-- What eclk sets (R148). -/
def clkMode (mode div start : Nat) : EMode :=
  if mode = 1 then .periodic (if div = 0 then 65536 else div) start else if mode = 2 then .counted 0 else .stopped

/-- A command's effect on a domain's mode. -/
def EAct.onMode (a : EAct) (d start : Nat) (m : EMode) : EMode :=
  match a with
  | .clk d' mode div => if d' = d then clkMode mode div start else m
  | .step d' n => if d' = d then (match m with | .counted o => .counted (o + n) | m => m) else m
  | _ => m

/-- Whether a command is for a domain's clock. -/
def EAct.clocks (a : EAct) (d : Nat) : Bool :=
  match a with
  | .clk d' _ _ => d' == d
  | .step d' _ => d' == d
  | _ => false

/-- The order of two clock commands: by start, an eclk before an estep (R304). [DEDUCED, log 97] -/
def clockBefore (a b : Nat × EAct) : Bool :=
  let k := fun (x : Nat × EAct) => 2 * x.1 + (match x.2 with | .clk .. => 0 | _ => 1)
  k a ≤ k b

/-- The stretches of a domain's schedule: first cycle, the cycle that follows the last one, the mode at the first cycle. -/
def stretches (d : Nat) : List (Nat × EAct) → Nat → EMode → List (Nat × Option Nat × EMode)
  | [], now, m => [(now, none, m)]
  | (t, a) :: rest, now, m => (now, some t, m) :: stretches d rest t (a.onMode d t (m.later (t - now)))

/-- The clock commands of a domain not yet begun, in order. -/
def Ember.clockCmds (e : Ember) (d : Nat) : List (Nat × EAct) :=
  sortBy clockBefore ((e.cmds.filter fun c => !c.begun && c.act.clocks d).map fun c => (c.start, c.act))

/-- The schedule of a domain from a cycle. -/
def Ember.schedule (e : Ember) (d now : Nat) : List (Nat × Option Nat × EMode) :=
  stretches d (e.clockCmds d) now (vget ⟨.stopped, 0⟩ e.doms d).mode

/-- Whether a stretch steps in some cycle from a to b. -/
def stretchSteps (x : Nat × Option Nat × EMode) (a b : Nat) : Bool :=
  let lo := max a x.1
  let hi := match x.2.1 with | some t => min b (t - 1) | none => b
  (match x.2.1 with | some t => decide (x.1 < t) | none => true) && decide (lo ≤ hi) &&
  (match x.2.2 with
    | .stopped => false
    | .counted o => decide (lo < x.1 + o)
    | .periodic n e => decide (e + n * max 1 ((lo - e + n - 1) / n) ≤ hi))

/-- Whether a domain is fixed to step in some cycle from a to b (R152). -/
def Ember.stepsIn (e : Ember) (d now a b : Nat) : Bool := (e.schedule d now).any fun x => stretchSteps x a b

/-- The largest owed count a domain's schedule reaches. -/
def Ember.mostOwed (e : Ember) (d now : Nat) : Nat :=
  ((e.schedule d now).map fun x => match x.2.2 with | .counted o => o | _ => 0).foldl max 0

/-- A domain's mode at a start cycle, after the eclks of that cycle. -/
def Ember.modeAt (e : Ember) (d now t : Nat) : EMode :=
  (((e.cmds.filter fun c => !c.begun && c.act.clocks d && (c.start < t || (c.start == t && (match c.act with | .clk .. => true | _ => false)))).map
    fun c => (c.start, c.act)) |> sortBy clockBefore).foldl (fun (acc : Nat × EMode) x => (x.1, x.2.onMode d x.1 (acc.2.later (x.1 - acc.1))))
      (now, (vget ⟨.stopped, 0⟩ e.doms d).mode) |>.2

/-- The domains that an erest selects. -/
def ECmd.restMask (c : ECmd) : Nat :=
  match c.act with
  | .rest dmask _ => dmask
  | _ => 0

/-- EMB_BUSY: a domain that an erest selects steps in E to E + 32 (R152). -/
def Ember.restBusy (e : Ember) (now : Nat) : Bool :=
  e.cmds.any fun c => (List.range 4).any fun d => bit c.restMask d && e.stepsIn d now (max now c.start) (c.start + 32)

/-! ## Issue (R303, R305) -/

/-- Commands issued and not started (R278). -/
def Core.embRoom (c : Core) : Bool := (c.eng.ember.cmds.filter fun x => c.tcc < x.start).length < 8

/-- An EMB trigger. -/
def embTrigger (m : Move) (s : State) (body : W64 → Except Exc State) : Out :=
  scalarTrigger 12 m s body

/-- A command with its number and start. -/
def State.embCmd (s : State) (d : Desc) (a : EAct) : ECmd :=
  { id := s.core.eng.nid, start := s.core.startTcc d, act := a, begun := false, snap := [], rows := [], org := s.core.here 12 }

/-- EMB_OVERRUN, the last of the command's own checks (R155, R276, R305), the last steps of R276, and the command's entry.
[DEDUCED, log 11; DEDUCED, log 89] -/
def State.embIssue (s : State) (d : Desc) (a : EAct) : Except Exc State := do
  must (!s.core.embOverrun) (.fault .embOverrun 0 0 s.core.eng.ember.flt.toNat)
  let _ ← s.commitChecks [] [] (descStart d) s.core.embRoom
  let c := s.embCmd d a
  return s.onEng fun e => { e with nid := e.nid + 1, ember := { e.ember with cmds := e.ember.cmds ++ [c] } }

/-- An offset a command names: aligned, and within the footprint (R303). -/
def State.embRange (s : State) (off align len : Nat) : Except Exc Unit := do
  must (off % align == 0) (memExc .align (spBase + off))
  must (s.core.task.spOk off len) (memExc .footprint (spBase + off))

/-- epatch: entries are read and checked at issue (R145, R303). -/
def execEpatch (m : Move) (s : State) : Out :=
  embTrigger m s fun t => do
    let (s1, d) ← s.readDesc 12 8 t [0xFFFFFF01FFFF, 0, 0, 0, 0, 0, 0]
    let w := dword d 1
    let first := fld w 7 0
    let n := fld w 15 8 + 1
    let off := fld w 47 24
    must (first + n ≤ 256) (.of .engDesc)
    let s2 ← if bit w 16 then do
        must (off % 8 == 0) (memExc .align (imemBase + off))
        must (off + 8 * n ≤ imemSize) (memExc .footprint (imemBase + off))
        return s1
      else do
        s1.embRange off 8 (8 * n)
        s1.copyCheck 0 [(off, 8 * n)]
        s1.book 12 0 0 false (rowsIn off (8 * n))
    let src := if bit w 16 then s.core.imem else s.core.sp
    let es := (List.range n).map fun k => (first + k, BitVec.ofNat 64 (rdLE src (off + 8 * k) 8))
    match patchBad s.emb.plan es with
    | some c => .error (.of c)
    | none => do
      must (s.emb.patched ≤ s.core.startTcc d) (.of .embOrder)
      let s3 ← s2.embIssue d (.patch es)
      return s3.onEmb fun e => { e with plan := patchWrite e.plan es, patched := s.core.startTcc d }

/-- eload (R150, R303). -/
def execEload (m : Move) (s : State) : Out :=
  embTrigger m s fun t => do
    let (s1, d) ← s.readDesc 12 9 t [0xFFFFFF000003, 2 ^ 64 - 1, 0, 0, 0, 0, 0]
    let off := fld (dword d 1) 47 24
    s1.embRange off 64 256
    s1.embIssue d (.load (fld (dword d 1) 1 0) off (BitVec.ofNat 64 (dword d 2)))

/-- einc: the vector is read and checked in the issue cycle (R147, R303). -/
def execEinc (m : Move) (s : State) : Out :=
  embTrigger m s fun t => do
    let (s1, d) ← s.readDesc 12 15 t [0xFFFFFF000003, 0, 0, 0, 0, 0, 0]
    let off := fld (dword d 1) 47 24
    s1.embRange off 64 256
    s1.copyCheck 0 [(off, 256)]
    let s2 ← s1.book 12 0 0 false (rowsIn off 256)
    let lanes := (List.range 64).map fun l => rdLE s.core.sp (off + 4 * l) 4 % 8
    must (lanes.all fun l => l % 4 != 2) (.of .embInc)
    s2.embIssue d (.inc (fld (dword d 1) 1 0) lanes)

/-- erd and ecnt: a vector result that lands at START + 4 (R150, R192). -/
def embRead (port : Nat) (cnt : Bool) (m : Move) (s : State) : Out :=
  embTrigger m s fun t => do
    let (s1, d) ← s.readDesc 12 port t [3, 0, 0, 0, 0, 0, 0]
    let s2 ← s1.embIssue d (.read (fld (dword d 1) 1 0) cnt)
    s2.issue 12 [(s.core.startTcc d + 4 - s.core.tcc, .embVector s.core.eng.nid none, 0)]

/-- erd (R150). -/
def execErd (m : Move) (s : State) : Out := embRead 10 false m s

/-- ecnt (R150). -/
def execEcnt (m : Move) (s : State) : Out := embRead 16 true m s

/-- The mask and image of esave and erest (R151, R303). -/
def State.embImage (s : State) (d : Desc) : Except Exc (Nat × Nat) := do
  let mask := fld (dword d 1) 3 0
  let off := fld (dword d 1) 47 24
  must (mask != 0) (.of .engDesc)
  s.embRange off 64 2048
  return (mask, off)

/-- esave (R151). -/
def execEsave (m : Move) (s : State) : Out :=
  embTrigger m s fun t => do
    let (s1, d) ← s.readDesc 12 11 t [0xFFFFFF00000F, 0, 0, 0, 0, 0, 0]
    let (mask, off) ← s1.embImage d
    s1.embIssue d (.save mask off)

/-- erest (R151, R152). -/
def execErest (m : Move) (s : State) : Out :=
  embTrigger m s fun t => do
    let (s1, d) ← s.readDesc 12 12 t [0xFFFFFF00000F, 0, 0, 0, 0, 0, 0]
    let (mask, off) ← s1.embImage d
    let st := s.core.startTcc d
    must (!((List.range 4).any fun k => bit mask k && s.emb.stepsIn k s.core.tcc st (st + 32))) (.of .embBusy)
    s1.embIssue d (.rest mask off)

/-- The field with one more command, to judge its clocks. -/
def State.withCmd (s : State) (d : Desc) (a : EAct) : Ember := { s.emb with cmds := s.emb.cmds ++ [s.embCmd d a] }

/-- estep (R148, R152). -/
def execEstep (m : Move) (s : State) : Out :=
  embTrigger m s fun t => do
    let (s1, d) ← s.readDesc 12 13 t [0x1FFFF00000003, 0, 0, 0, 0, 0, 0]
    let k := fld (dword d 1) 1 0
    let n := fld (dword d 1) 48 32
    must (n != 0) (.of .engDesc)
    let e := s.withCmd d (.step k n)
    must (match s.emb.modeAt k s.core.tcc (s.core.startTcc d) with | .counted _ => true | _ => false) (.of .embMode)
    must (e.mostOwed k s.core.tcc ≤ 131071) (.of .embCount)
    must (!e.restBusy s.core.tcc) (.of .embBusy)
    s1.embIssue d (.step k n)

/-- eclk (R148, R152). -/
def execEclk (m : Move) (s : State) : Out :=
  embTrigger m s fun t => do
    let (s1, d) ← s.readDesc 12 14 t [0xFFFF000F, 0, 0, 0, 0, 0, 0]
    let w := dword d 1
    let mode := fld w 3 2
    must (mode != 3 && (mode == 1 || fld w 31 16 == 0)) (.of .engDesc)
    let a : EAct := .clk (fld w 1 0) mode (fld w 31 16)
    must (!(s.withCmd d a).restBusy s.core.tcc) (.of .embBusy)
    s1.embIssue d a

/-! ## The cycle of the field (R143, R304) -/

/-- Change a domain. -/
def Ember.setDom (e : Ember) (d : Nat) (f : EDom → EDom) : Ember := { e with doms := vset e.doms d (f (vget ⟨.stopped, 0⟩ e.doms d)) }

/-- A cell of the field. -/
def Ember.cell (e : Ember) (c : Nat) : ECell := sget .zero e.cells c

/-- The value of an external line in a cycle; a pulse that a step has read since is 0 (R147). -/
def Ember.line (e : Ember) (i now : Nat) : Int :=
  let l := sget .zero e.lines i
  match e.stepped with
  | some t => if !l.held && l.since < t && t < now then 0 else l.v
  | none => l.v

/-- The field when a domain steps: pulses that an earlier cycle's step has read become 0 (R147). -/
def Ember.markStep (e : Ember) (now : Nat) : Ember :=
  match e.stepped with
  | some t =>
    if t = now then e
    else { e with
      stepped := some now
      lines := e.lines.foldl (fun m l => sset .zero m l.1 (if !l.2.held && l.2.since < t then ⟨0, false, l.2.since⟩ else l.2)) e.lines }
  | none => { e with stepped := some now }

/-- The sign that a code stands for (R143). -/
def signCode (c : Nat) : Int := if c = 1 then 1 else if c = 3 then -1 else 0

/-- What a cell's step comes to: its new state, or the cause of an overrun (R143, R153). -/
def Ember.stepCell (e : Ember) (c now : Nat) : Except Nat ECell :=
  let p := patchAt e.patch c
  let x := e.cell c
  let v := fun s => if srcIdx p s < 256 then (e.cell (srcIdx p s)).z else e.line (srcIdx p s - 256) now
  let n := ((List.range 4).map fun s => signCode (srcX p s) * v s).sum
  let m := ((List.range 4).map fun s => signCode (srcY p s) * v s).sum
  let u := x.r + n * x.y
  let z := (u + 2 ^ 31) / (2 : Int) ^ 32
  let y := x.y + m * 2 ^ patchShift p
  if patchLim p < n.natAbs then .error 1
  else if 1 < z.natAbs then .error 2
  else if y < -(2 : Int) ^ 31 ∨ (2 : Int) ^ 31 - 1 < y then .error 3
  else .ok ⟨y, u - z * 2 ^ 32, x.cnt + BitVec.ofInt 32 z, z⟩

/-- Whether a domain steps in a cycle (R148). -/
def EMode.stepsNow (m : EMode) (now : Nat) : Bool :=
  match m with
  | .stopped => false
  | .counted o => o != 0
  | .periodic n e => e < now && (now - e) % n == 0

/-- EMBFLT after an abandoned step (R154). -/
def fltAfter (flt : W64) (cause d cell steps : Nat) : W64 :=
  let v := flt.toNat
  if bit v 63 then
    if fld v 50 47 = 15 then flt else flt + BitVec.ofNat 64 (2 ^ 47)
  else BitVec.ofNat 64 (2 ^ 63 + cause * 2 ^ 61 + d * 2 ^ 59 + cell * 2 ^ 51 + (steps + 1) % 2 ^ 39)

/-- A domain steps: all of its cells, or none of them when one overruns (R143, R153). -/
def Ember.stepDomain (e0 : Ember) (d now : Nat) : Ember :=
  let e := e0.markStep now
  let mine := (List.range 256).filter fun c => patchDom (patchAt e.patch c) == d
  let dom := vget ⟨.stopped, 0⟩ e.doms d
  let bad := mine.findSome? fun c => match e.stepCell c now with | .error k => some (c, k) | .ok _ => none
  match bad with
  | some (c, k) => { (e.setDom d fun x => { x with mode := .stopped }) with flt := fltAfter e.flt k d c dom.steps.toNat }
  | none =>
    let cells := mine.foldl (fun m c => match e.stepCell c now with | .ok x => sset .zero m c x | .error _ => m) e.cells
    { (e.setDom d fun x => ⟨x.mode.later 1, x.steps + 1⟩) with cells := cells }

/-- DOMAIN_STEP: in the cycles of its mode a domain steps (R143, R148). -/
def execDomainStep (d : BitVec 2) (s : State) : Out :=
  .next (if (vget ⟨.stopped, 0⟩ s.emb.doms d.toNat).mode.stepsNow s.core.tcc then s.onEmb fun e => e.stepDomain d.toNat s.core.tcc else s)

/-- The vector of Y or CNT of a group (R150). -/
def Ember.groupVec (e : Ember) (g : Nat) (cnt : Bool) : VReg :=
  vgen fun l => let x := e.cell (64 * g + l); if cnt then x.cnt else BitVec.ofInt 32 x.y

/-- The value of an erd or ecnt joins its result in flight. -/
def Core.embValue (c : Core) (cmd : Nat) (v : VReg) : Core :=
  { c with pend := c.pend.map fun p => match p.act with | .embVector k none => if k = cmd then { p with act := .embVector k (some v) } else p | _ => p }

/-- The cells that a domain mask selects in the table in force. -/
def Ember.selected (e : Ember) (mask : Nat) : List Nat := (List.range 256).filter fun c => bit mask (patchDom (patchAt e.patch c))

/-- The rank of a command in its cycle (R304). [DEDUCED, log 97] -/
def EAct.rank : EAct → Nat
  | .clk .. => 0
  | .patch _ => 1
  | .step .. => 2
  | .read .. => 3
  | .save .. => 3
  | .rest .. => 3
  | .inc .. => 5
  | .load .. => 6

/-- A command begins (R146 to R151). -/
def State.embBegin (s : State) (c : ECmd) : State :=
  let done := fun (st : State) => st.onEmb fun e => { e with cmds := e.cmds.filter fun x => x.id != c.id }
  let keep := fun (st : State) (snap : List (Nat × Nat × Nat)) =>
    st.onEmb fun e => { e with cmds := e.cmds.map fun x => if x.id = c.id then { x with begun := true, snap := snap } else x }
  match c.act with
  | .clk d mode div => done (s.onEmb fun e => e.setDom d fun _ => ⟨clkMode mode div s.core.tcc, 0⟩)
  | .patch es => done (s.onEmb fun e => { e with patch := patchWrite e.patch es })
  | .step d n => done (s.onEmb fun e => e.setDom d fun x => { x with mode := (EAct.step d n).onMode d s.core.tcc x.mode })
  | .read g cnt => done (s.onCore fun k => k.embValue c.id (k.eng.ember.groupVec g cnt))
  | .save mask _ => keep s ((s.emb.selected mask).map fun i =>
      (i, (BitVec.ofInt 32 (s.emb.cell i).y).toNat, (BitVec.ofInt 32 (s.emb.cell i).r).toNat))
  | .rest mask _ => keep s ((s.emb.selected mask).map fun i => (i, 0, 0))
  | .inc g lanes => done (s.onEmb fun e => { e with
      lines := lanes.zipIdx.foldl (fun m l => sset .zero m (64 * g + l.2) ⟨signCode (l.1 % 4), bit l.1 2, s.core.tcc⟩) e.lines })
  | .load g off mask =>
    done ((s.onCore fun k => k.bookEng 12 5 c.id 0 false (rowsIn off 256)).onEmb fun e => { e with
      loaded := e.loaded.filter (fun x => x.1 == s.core.tcc) ++ (List.range 64).filterMap fun l =>
        if mask.getLsbD l then some (s.core.tcc, c.id, 64 * g + l, (sget .zero e.cells (64 * g + l)).y) else none
      cells := (List.range 64).foldl (fun m l =>
        if mask.getLsbD l then sset .zero m (64 * g + l) { sget .zero m (64 * g + l) with y := sInt 32 (rdLE s.core.sp (off + 4 * l) 4) } else m) e.cells })

/-- The commands whose start cycle has come and that have not begun, before the steps of domains or after them (R304). [DEDUCED, log 97] -/
def Ember.dueCmds (e : Ember) (now : Nat) (after : Bool) : List ECmd :=
  sortBy (fun a b => a.act.rank ≤ b.act.rank) (e.cmds.filter fun c => c.start ≤ now && !c.begun && (4 ≤ c.act.rank) == after)

/-- EMBER_COMMAND_START: the commands of the cycle begin, those before the steps first (R304). -/
def execEmberCommandStart (s : State) : Out :=
  let before := s.emb.dueCmds s.core.tcc false
  .next ((if before.isEmpty then s.emb.dueCmds s.core.tcc true else before).foldl State.embBegin s)

/-- The bytes of a saved cell. -/
def cellBytes (y r : Nat) : List Byte := leBytes y 4 ++ leBytes r 4

/-- ESAVE_ROW: row r of the image is written in E + 1 + r; the bytes of cells not selected stay (R151). -/
def execEsaveRow (cmd : Nat) (s : State) : Out :=
  .next (match s.emb.cmds.find? fun c => c.id == cmd && c.begun with
    | none => s
    | some c =>
      match c.act with
      | .save _ off =>
        let now := s.core.tcc
        let r := now - c.start - 1
        if c.start < now ∧ r < 32 then
          let s1 := s.onCore fun k =>
            let k1 := k.bookEng 12 6 c.id 0 true [off + 64 * r]
            { k1 with engWrites := k1.engWrites ++ (c.snap.filter fun x => x.1 / 8 == r).map fun x => (false, off + 8 * x.1, cellBytes x.2.1 x.2.2) }
          if r = 31 then s1.onEmb fun e => { e with cmds := e.cmds.filter fun x => x.id != cmd } else s1
        else s
      | _ => s)

/-- EREST_APPLY: row r is read in E + r, and in E + 32 the selected cells take what was read (R151). -/
def execErestApply (cmd : Nat) (s : State) : Out :=
  .next (match s.emb.cmds.find? fun c => c.id == cmd && c.begun with
    | none => s
    | some c =>
      match c.act with
      | .rest _ off =>
        let now := s.core.tcc
        let r := now - c.start
        if r < 32 then
          (s.onCore fun k => k.bookEng 12 7 c.id 0 false [off + 64 * r]).onEmb fun e =>
            { e with cmds := e.cmds.map fun x => if x.id = cmd then { x with rows := x.rows ++ [(r, rdBytes s.core.sp (off + 64 * r) 64)] } else x }
        else
          let img := wordsOf 4 (c.rows.flatMap (·.2)) 512
          s.onEmb fun e => { e with
            cmds := e.cmds.filter fun x => x.id != cmd
            cells := c.snap.foldl (fun m x => sset .zero m x.1 ⟨sInt 32 (img.getD (2 * x.1) 0), sInt 32 (img.getD (2 * x.1 + 1) 0), 0, 0⟩) e.cells }
      | _ => s)

/-- The steps of EMB in a cycle, in the order of R304. [DESIGN CHOICE, log 187] -/
def Ember.events (e : Ember) (now : Nat) : List Instr :=
  let before := e.dueCmds now false
  let after := e.dueCmds now true
  let clocks := (before.any fun c => c.act.rank == 0 || c.act.rank == 2) || (List.range 4).any fun d => (vget ⟨.stopped, 0⟩ e.doms d).mode != .stopped
  (if before.isEmpty then [] else [Instr.emberCommandStart]) ++
  (e.cmds.filterMap fun c => match c.act with
    | .save .. => if c.begun then some (Instr.esaveRow c.id) else none
    | .rest .. => if c.start ≤ now && now < c.start + 32 then some (.erestApply c.id) else none
    | _ => none) ++
  (if clocks then [.domainStep 0, .domainStep 1, .domainStep 2, .domainStep 3] else []) ++
  (if after.isEmpty then [] else [.emberCommandStart]) ++
  (e.cmds.filterMap fun c => match c.act with
    | .rest .. => if c.start + 32 ≤ now then some (.erestApply c.id) else none
    | _ => none)

end Sys2Proof.Machine
end

