-- ==== Sys2Proof/Machine/Home.lean ====
section
/-! DEFINITION. The home controllers: access tags and races, the write log, and how global accesses and fences perform (R90, R98 to R115). -/

namespace Sys2Proof.Machine

/-- A tag without a mark (R110). -/
def unmarked : BitVec 18 := 0x3FF00

/-- A mark by a core in a generation (R110, R113). -/
def markOf (core gen : Nat) (pub frd : Bool) : BitVec 18 :=
  BitVec.ofNat 18 (core * 256 + gen % 64 * 4 + b2n pub * 2 + b2n frd)

/-- The fields of a tag (R110). -/
def tagCore (t : BitVec 18) : Nat := fld t.toNat 17 8
def tagGen (t : BitVec 18) : Nat := fld t.toNat 7 2
def tagPub (t : BitVec 18) : Bool := t.getLsbD 1
def tagFrd (t : BitVec 18) : Bool := t.getLsbD 0

/-- The check of a plain access and the tag it leaves, or the race it meets (R113). -/
def raceCheck (t : BitVec 18) (core gen : Nat) (write : Bool) : Except Cause (BitVec 18) :=
  let fresh := markOf core gen false (!write)
  if tagCore t = 0x3FF ∨ tagGen t ≠ gen % 64 then .ok fresh
  else if tagCore t = core then
    if tagFrd t then (if write then .ok fresh else .ok (markOf core gen false true))
    else if write then .ok (markOf core gen false false) else .ok t
  else if tagPub t then .ok fresh
  else if tagFrd t then (if write then .error .raceWr else .ok fresh)
  else .error (if write then .raceWw else .raceRw)

/-- The granule whose tag stands for an address; a replicated granule keeps one tag (R89, R110). -/
def granuleOf (pa : Nat) : Nat := pa / 64

/-- A tag of the module. -/
def State.tag (s : State) (pa : Nat) : BitVec 18 := sget unmarked s.tags (granuleOf pa)

/-- Set a tag. -/
def State.setTag (s : State) (pa : Nat) (t : BitVec 18) : State :=
  { s with tags := sset unmarked s.tags (granuleOf pa) t }

/-- OVFCNT or ENGCNT, saturating at 0xFFFF (R115). -/
def bumpField (w : W64) (lo : Nat) : W64 :=
  let v := fld w.toNat (lo + 15) lo
  if v = 0xFFFF then w else w + BitVec.ofNat 64 (2 ^ lo)

/-- Log the region of a mark with PUB = 0; with the log full the mark is made with PUB = 1 and counted (R111). -/
def State.logMark (s : State) (pa : Nat) (t : BitVec 18) : State :=
  let region := pa / 65536
  if tagPub t || tagCore t ≠ s.focus then s.setTag pa t
  else if s.core.writeLog.contains region then s.setTag pa t
  else if s.core.writeLog.length < 2048 then
    (s.setTag pa t).onCore fun c => { c with writeLog := c.writeLog ++ [region] }
  else (s.setTag pa (t ||| 2)).onCore fun c => { c with raceStat := bumpField c.raceStat 0 }

/-- Publication: every mark by the core in its logged regions counts as published (R111). -/
def publishTags (tags : List (Nat × BitVec 18)) (core : Nat) (log : List Nat) : List (Nat × BitVec 18) :=
  tags.map fun (g, t) => if tagCore t = core ∧ log.contains (g / 1024) then (g, t ||| 2) else (g, t)

/-- WRITE_LOG_PUBLISH for the core in focus: the log empties (R111). -/
def State.publish (s : State) : State :=
  { s with tags := publishTags s.tags s.focus s.core.writeLog, core := { s.core with writeLog := [] } }

/-- The generation of the launch that holds the core (R112). [DEDUCED, log 54] -/
def State.gen (s : State) : Nat := (s.mod.gens.lookup s.core.task.slot).elim 0 BitVec.toNat

/-- Capture of an engine race (R115). [DEDUCED, log 171] -/
def Core.engineRace (c : Core) (cause : Cause) (other unit va : Nat) : Core :=
  let st := bumpField c.raceStat 16
  if fld st.toNat 41 40 = 0 then
    let code := if cause = .raceRw then 1 else if cause = .raceWw then 2 else 3
    { c with
      raceStat := BitVec.ofNat 64 (st.toNat % 2 ^ 32 + unit * 2 ^ 36 + code * 2 ^ 40 + other * 2 ^ 42)
      raceAddr := BitVec.ofNat 64 (va / 64 % 2 ^ 51 * 64) }
  else { c with raceStat := st }

/-- Whether a physical range meets a poisoned granule (R451). [DEDUCED, log 143] -/
def State.poisoned (s : State) (pa len : Nat) : Bool := s.mod.hub.poison.any fun g => pa < 64 * g + 64 && 64 * g < pa + len

/-- A write that covers a granule clears its mark (R451). -/
def State.unpoison (s : State) (pa len : Nat) : State :=
  { s with mod := { s.mod with hub := { s.mod.hub with poison := s.mod.hub.poison.filter fun g => !(pa ≤ 64 * g && 64 * g + 64 ≤ pa + len) } } }

/-- Whether an access reads a poisoned granule, or writes a part of one (R451). -/
def State.meetsPoison (s : State) (pa : Nat) (repl : Bool) (len : Nat) (write : Bool) : Bool :=
  !(write && pa % 64 == 0 && len % 64 == 0) &&
  (s.poisoned pa len || (write && repl && (List.range 4).any fun d => s.poisoned (pa + groupSpan * d) len))

/-- The operand of an error event: the index of the row in bits 63:60, and its location (R450, R452). [DEDUCED, log 142] -/
def errorAt (k loc : Nat) : W64 := BitVec.ofNat 64 (k * 2 ^ 60 + loc % 2 ^ 60)

/-- Whether a die is in a die reset: its manager is not ready, and it has not been given up (R443, R448). [DEDUCED, log 108] -/
def State.dieReset (s : State) (d : Nat) : Bool := !s.mod.hub.dies.getLsbD d && !s.mod.hub.silent.getLsbD d

/-- How many bytes an access touches. -/
def GAct.length : GAct → Nat
  | .read len _ => len
  | .write data => data.length
  | .amo op _ => op.width
  | .later => 0

/-- The physical address where a replicated granule's tag stands. -/
def GAccess.tagPa (g : GAccess) : Nat := if g.repl then g.pa % groupSpan else g.pa

/-- Whether a fence holds an access back (R101). -/
def Fence.holds (f : Fence) (g : GAccess) : Bool :=
  f.id ≤ g.place && (match f.kind with | .release => g.act.writes | _ => true)

/-- Whether an access comes before another in the order of their core. -/
def GAccess.before (a g : GAccess) : Bool := a.place < g.place || (a.place == g.place && a.id < g.id)

/-- Whether an access keeps another of its core waiting: an earlier one to the same granule, whose replicas are one, but for the read of a
wait, which is made again after every write (R89, R232, R237); or an earlier output key of the stream engine, whose keys perform in
order (R300). -/
def GAccess.shuts (a g : GAccess) : Bool :=
  a.before g &&
    (a.tagPa / 64 == g.tagPa / 64 && a.act != .read 8 .wait ||
      a.org.unit == 11 && g.org.unit == 11 && a.act.writes && g.act.writes)

/-- Whether the core's own engines may write the word it waits on. [DESIGN CHOICE, log 177] -/
def Core.feeds (c : Core) (ea : Nat) : Bool :=
  (c.eng.copies.any fun k => (c.dstRows k).any fun r => decide (r.1 ≤ ea) && decide ((ea : Int) < r.1 + r.2)) ||
  !c.eng.sps.isEmpty || !c.eng.fab.cmds.isEmpty || !c.eng.parts.isEmpty ||
  (regionOf ea != .global && (!c.eng.kiln.passes.isEmpty || !c.eng.kiln.drains.isEmpty || !c.eng.ember.cmds.isEmpty))

/-- Whether the acquire that a core waits at holds an access of its copy channels and streams back: one emitted during a bar wait, or during
a wait for a word that another agent writes (R100, R103, R105). [DESIGN CHOICE, log 177] -/
def Core.acquires (c : Core) (g : GAccess) : Bool :=
  g.engine && (g.org.unit == 10 || g.org.unit == 11) && g.org.slot < 4 && c.waitFrom ≤ g.place &&
  match c.wait with
  | some (.bar _ _ _) => true
  | some (.word _ ea _ _ none) => (match regionOf ea with | .csr _ => false | _ => !c.feeds ea)
  | _ => false

/-- Whether a sparse stream's write to global memory waits for one of its unit before it: outputs perform in order (R300). -/
def Core.streamWaits (c : Core) (g : GAccess) : Bool :=
  g.org.unit == 11 && g.act.writes && c.gacc.any fun a => a.org.unit == 11 && a.act.writes && a.place < g.place

/-- Whether a core's memory interface lets an access go: no fence and no acquire under way holds it, and no earlier access of the core that
it must follow is outstanding (R101, R103, R105, R232). -/
def Core.lets (c : Core) (g : GAccess) : Bool :=
  !(c.fences.any fun f => f.holds g) && !(c.gacc.any fun a => a.shuts g) && !c.acquires g && !c.streamWaits g

/-- Whether a write of bytes lets a wait of a core end: the word it waits on holds what it waits for (R237). -/
def Core.waitFound (c : Core) (m : Mem) (pa len : Nat) : Bool :=
  match c.wait with
  | some (.word ne _ v _ none) =>
    c.gacc.any fun g => g.act == .read 8 .wait && g.pa / 64 * 64 < pa + len && pa < g.pa / 64 * 64 + 64 && c.lets g &&
      waitHolds ne v (BitVec.ofNat 64 (rdLE m g.pa 8))
  | _ => false

/-- A wait has been found satisfied, of which the core learns at a moment. [DEDUCED, log 24] -/
def Core.found (c : Core) (at_ : Nat) : Core :=
  match c.wait with
  | some (.word ne ea v sl none) =>
    { c with wait := some (.word ne ea v sl (some at_)), gacc := c.gacc.filter fun g => g.act != .read 8 .wait }
  | _ => c

/-- After a write to global memory the words waited on in its granules are read again, for every core (R237). [DEDUCED, log 24] -/
def State.notice (s : State) (pa len : Nat) : State :=
  let hits := (if s.core.waitFound s.mem pa len then [s.focus] else []) ++
    s.others.filterMap fun e => if e.2.waitFound s.mem pa len then some e.1 else none
  hits.foldl (fun st i =>
    let (k, st1) := st.takeReq
    st1.setCore i ((st1.coreAt i).found (s.wall + Config.outsideDelay k))) s

/-- Write bytes to physical memory (R237, R451). -/
def State.memPut (s : State) (pa : Nat) (data : List Byte) : State :=
  ({ s with mem := wrBytes s.mem pa data }.unpoison pa data.length).notice pa data.length

/-- Write bytes to physical memory; a replicated page takes them in its four replicas (R90). [DEDUCED, log 55] -/
def State.memWrite (s : State) (pa : Nat) (repl : Bool) (data : List Byte) : State :=
  if repl then (List.range 4).foldl (fun st d => st.memPut (pa + groupSpan * d) data) s else s.memPut pa data

/-- Deliver a value to the pending result with a sequence number (R230). -/
def Core.deliver (c : Core) (seq : Nat) (v : W64) : Core :=
  { c with pend := c.pend.map fun p =>
      match p.act with
      | .scalar l none => if p.seq = seq then { p with act := .scalar l (some v) } else p
      | _ => p }

/-- A wait's global word has been read: the wait is satisfied, or the word is read again (R237). [DEDUCED, log 24] -/
def State.waitRead (s : State) (g : GAccess) (v : W64) : State :=
  match s.core.wait with
  | some (.word ne ea c sl _) =>
    if waitHolds ne c v then
      s.onCore fun k => { k with wait := some (.word ne ea c sl (some s.wall)), gacc := k.gacc.filter fun a => a.id != g.id }
    else
      let (n, s1) := s.takeReq
      s1.onCore fun k => { k with gacc := k.gacc.map fun a =>
        if a.id = g.id then { a with arrive := s.wall + 1 + Config.outsideDelay n } else a }
  | _ => s.onCore fun k => { k with gacc := k.gacc.filter fun a => a.id != g.id }

/-- An access leaves the memory interface. -/
def State.dropAccess (s : State) (id : Nat) : State :=
  s.onCore fun c => { c with gacc := c.gacc.filter fun a => a.id != id }

/-- Bytes reach an engine of the core in focus. -/
def State.toEngine (s : State) (unit cmd item : Nat) (data : List Byte) : State :=
  s.onCore fun c => { c with eng := { c.eng with delivered := c.eng.delivered ++ [(unit, cmd, item, data)] } }

/-- What the access does at its controller, its check passed (R113, R234). -/
def State.performAct (s : State) (g : GAccess) : State :=
  match g.act with
  | .write data => (s.dropAccess g.id).memWrite g.pa g.repl data
  | .read len rd =>
    match rd with
    | .wait => s.waitRead g (BitVec.ofNat 64 (rdLE s.mem g.pa len))
    | .slot seq ext => (s.onCore fun c => c.deliver seq (extWord ext len (rdLE s.mem g.pa len))).dropAccess g.id
    | .engine u k i => (s.toEngine u k i (rdBytes s.mem g.pa len)).dropAccess g.id
    | .handle => (s.onCore fun c => { c with handle := some (g.va, rdBytes s.mem g.pa len) }).dropAccess g.id
    | .none => s.dropAccess g.id
  | .amo a rd =>
    let old := rdLE s.mem g.pa a.width
    let s1 := (s.dropAccess g.id).memWrite g.pa g.repl (leBytes (amoNew a old) a.width)
    (match rd with
      | .slot seq ext => s1.onCore fun c => c.deliver seq (extWord ext a.width old)
      | _ => s1)
  | .later => s

/-- Whether an access is plain, so that it is checked for races (R113). -/
def GAct.plain : GAct → Bool
  | .read _ rd => rd != .wait
  | .write _ => true
  | .amo _ _ => false
  | .later => true

/-- A global access at its home controller: checked, then performed in the same step (R113 to R115). -/
def State.performAccess (s : State) (g : GAccess) : State :=
  if !g.act.plain || g.perform then s.performAct g
  else
    match raceCheck (s.tag g.tagPa) s.focus s.gen g.act.writes with
    | .ok t => (s.logMark g.tagPa t).performAct g
    | .error cause =>
      let other := tagCore (s.tag g.tagPa)
      if g.engine then
        let t := markOf s.focus s.gen false (!g.act.writes)
        ((s.logMark g.tagPa t).onCore fun c => c.engineRace cause other g.org.unit g.va).performAct g
      else
        s.onCore fun c => { c with gacc := c.gacc.map fun a =>
          if a.id = g.id then { a with raced := some (cause, other) } else a }

/-- Whether an access may perform now: it has arrived and the memory interface lets it go (R101, R232). -/
def State.ready (s : State) (g : GAccess) : Bool := g.act != .later && g.arrive ≤ s.wall && g.raced.isNone && s.core.lets g

/-- Forms that write at another module (R94). -/
def FabOp.remoteWrite : FabOp → Bool
  | .store _ _ _ _ _ => true
  | .cast _ _ _ _ _ => true
  | .atomic _ _ _ _ => true
  | _ => false

/-- Whether the remote writes of a core before a place in core order have performed (R94, R101). -/
def State.remoteCovered (s : State) (i gid : Nat) : Bool :=
  let c := s.coreAt i
  !(s.mod.flue.ops.any fun o => o.core == i && o.launch == c.task.launchId && o.cmd.gid < gid && o.cmd.op.remoteWrite) &&
  !(c.eng.fab.cmds.any fun k => k.gid < gid && k.op.remoteWrite)

/-- Forms that read at another module (R315, R316, R318). -/
def FabOp.remoteRead : FabOp → Bool
  | .read _ _ => true
  | .reduce _ _ _ _ _ => true
  | .atomic _ _ _ res => res.isSome
  | _ => false

/-- Whether the remote reads of a core before a place in core order have returned (R100, R101). -/
def State.readsCovered (s : State) (i gid : Nat) : Bool :=
  let c := s.coreAt i
  !(s.mod.flue.ops.any fun o => o.core == i && o.launch == c.task.launchId && o.cmd.gid < gid && o.cmd.op.remoteRead) &&
  !(c.eng.fab.cmds.any fun k => k.gid < gid && k.op.remoteRead)

/-- Whether a unit of a copy that has been requested before a place in core order has still to leave for the scratchpad of a core that
counts (R78, R100). -/
def Core.peerOwed (c : Core) (gid : Nat) (counts : Nat → Bool) : Bool :=
  c.eng.copies.any fun k => k.units.any fun x => x.wid < gid && !x.sent &&
    (match regionOf (c.copyDst k x.u) with
      | .peer i _ => counts i
      | _ => false)

/-- The cores whose scratchpads a fence's scope takes in (R94). -/
def Fence.takes (f : Fence) (core tgt : Nat) : Bool :=
  match f.scope.toNat with
  | 0 => false
  | 1 => coreDie tgt == coreDie core
  | _ => true

/-- Whether every access a fence covers is done (R101): reads, remote ones among them, for an acquire, writes as well otherwise; a scope
of die or wider covers the core's push stores to the cores it names, one of group scope its remote writes. -/
def State.fenceMet (s : State) (f : Fence) : Bool :=
  let open_ := s.core.gacc.filter fun g => g.place < f.id
  s.readsCovered s.focus f.id &&
  match f.kind with
  | .acquire => !(open_.any fun g => g.act.reads)
  | _ =>
    open_.isEmpty && !s.core.peerOwed f.id (f.takes s.focus) &&
    !(s.mod.pushes.any fun p => p.src == s.focus && p.launch == s.core.task.launchId && p.gid < f.id && f.takes s.focus p.tgt) &&
    (f.scope != 3 || s.remoteCovered s.focus f.id)

/-- FENCE_PERFORM: the first fence whose condition holds performs; a release or full fence of die scope or wider publishes the write log
(R101, R111). What it held back goes on, each read due in the cycle that its issue fixed (R102, R230). [DEDUCED, log 33] -/
def execFencePerform (s : State) : Out :=
  match s.core.fences.find? s.fenceMet with
  | none => .next s
  | some f =>
    let s1 := s.onCore fun c => { c with fences := c.fences.erase f }
    .next (if f.kind != .acquire && f.scope != 0 then s1.publish else s1)

end Sys2Proof.Machine
end

