-- ==== Sys2Proof/Machine/Xlate.lean ====
section
/-! DEFINITION. Page tables and the hub walker (R409 to R414). -/

namespace Sys2Proof.Machine

/-- The base of the host control area and the frames (R409). -/
def ctxBase : Nat := 0x15000000000

/-- The populated bytes of a group: 384 GB (R7, R412). [DEDUCED, log 116] -/
def groupPopulated : Nat := 384000000000

/-- Whether a physical range lies in the populated part of one group (R412). [DEDUCED, log 116] -/
def hbmOk (pa len : Nat) : Bool := pa / groupSpan < 4 && pa % groupSpan + len ≤ groupPopulated

/-- Whether a range meets the reserved range of R409. -/
def State.reservedHit (s : State) (pa len : Nat) : Bool :=
  pa < ctxBase + 0x1000000 * (s.mod.frames + 1) && ctxBase < pa + len

/-- Word k of the ASID table entry of an ASID as it stands in the table (R410). [DEDUCED, log 167] -/
def State.asidTable (s : State) (asid k : Nat) : Nat := rdLE s.mem (ctxBase + 32 * asid + 8 * k) 8

/-- Word 0 or 1 of the ASID table entry in effect for an ASID: the one that the hub holds, else the table's (R410, R415). [DEDUCED, log 167] -/
def State.asidWord (s : State) (asid k : Nat) : Nat :=
  match s.mod.asids.lookup asid with
  | some e => if k = 0 then e.1 else e.2
  | none => s.asidTable asid k

/-- An entry that comes into use is held: a later change of the table waits for an entry of the ring with ALL set (R415). [DEDUCED, log 167] -/
def State.holdAsid (s : State) (asid : Nat) : State :=
  if (s.mod.asids.lookup asid).isSome || !bit (s.asidTable asid 0) 63 then s
  else { s with mod := { s.mod with asids := s.mod.asids ++ [(asid, s.asidTable asid 0, s.asidTable asid 1)] } }

/-- The index of a level into its table (R411). -/
def levelIndex (va level : Nat) : Nat :=
  match level with
  | 0 => fld va 56 52
  | 1 => fld va 51 43
  | 2 => fld va 42 34
  | 3 => fld va 33 25
  | _ => fld va 24 16

/-- The page size of a leaf at a level (R411). -/
def leafSize (level : Nat) : Nat := if level = 2 then 2 ^ 34 else if level = 3 then 2 ^ 25 else 2 ^ 16

/-- The physical address in an entry (R411). -/
def entryPa (e : Nat) : Nat := fld e 51 12 * 4096

/-- A leaf's malformations (R412, R413). -/
def State.leafBad (s : State) (e level : Nat) : Bool :=
  let pa := entryPa e
  let size := leafSize level
  pa % size ≠ 0 || !hbmOk pa size || s.reservedHit pa size ||
  (bit e 5 && (pa / groupSpan ≠ 0 ||
    (List.range 4).any fun d => !hbmOk (pa + groupSpan * d) size || s.reservedHit (pa + groupSpan * d) size))

/-- An entry's reserved bits, and LEAF where it may not or must be (R411, R413). -/
def entryBad (e level : Nat) : Bool :=
  fld e 63 52 ≠ 0 || fld e 11 6 ≠ 0 || bit e 4 || (!bit e 1 && bit e 5) || (bit e 1 && level < 2) || (!bit e 1 && level = 4)

/-- Added to the address of an entry that cannot be read, so that it differs from every level (R451). -/
def spoiltMark : Nat := 16

/-- The walk from a table; `fuel` counts the levels left (R411, R413). -/
def State.walkTable (s : State) (asid va : Nat) (read write : Bool) (table : Nat) : Nat → Except (Cause × Nat) Leaf
  | 0 => .error (.xlateBad, 4)
  | fuel + 1 =>
    let level := 4 - fuel
    if !hbmOk table 4096 || s.reservedHit table 4096 then .error (.xlateBad, level)
    else if s.poisoned (table + 8 * levelIndex va level) 8 then .error (.xlateBad, spoiltMark + (table + 8 * levelIndex va level))
    else
      let e := rdLE s.mem (table + 8 * levelIndex va level) 8
      if !bit e 0 then .error (.xlateAbsent, level)
      else if entryBad e level then .error (.xlateBad, level)
      else if bit e 1 then
        if s.leafBad e level then .error (.xlateBad, level)
        else if (read && !bit e 2) || (write && !bit e 3) then .error (.xlatePerm, level)
        else
          let size := leafSize level
          .ok { asid := asid, va := va / size * size, size := size, pa := entryPa e, r := bit e 2, w := bit e 3, rpl := bit e 5 }
      else s.walkTable asid va read write (entryPa e) fuel

/-- A walk of the hub (R410, R411, R413). [DEDUCED, log 17; DEDUCED, log 167] -/
def State.walkPage (s : State) (asid va : Nat) (read write : Bool) : Except (Cause × Nat) Leaf :=
  let w := s.asidWord asid 0
  if (s.mod.asids.lookup asid).isNone && s.poisoned (ctxBase + 32 * asid) 8 then .error (.xlateBad, spoiltMark + (ctxBase + 32 * asid))
  else if !bit w 63 then .error (.xlateAbsent, 7)
  else if fld w 62 52 ≠ 0 ∨ fld w 11 0 ≠ 0 then .error (.xlateBad, 7)
  else s.walkTable asid va read write (entryPa w) 5

/-- A translation enters the core's cache of 512; the oldest leaves when it is full (R414). A bundle that waits at issue keeps
what its walks have found. [DESIGN CHOICE, log 10] -/
def Core.cacheLeaf (c : Core) (l : Leaf) : Core :=
  { c with tlb := (l :: c.tlb).take 512, heldLeaves := if c.mode = .hold then l :: c.heldLeaves else [] }

/-- TRANSLATION_WALK: the hub ends a walk asked for by the core. Its result is cached; a failure is kept for the slot that
asked and never cached (R414). An entry that cannot be read ends the launch (R451). [DEDUCED, log 143] -/
def execTranslationWalk (s : State) : Out :=
  match s.core.walks.find? fun w => w.arrive ≤ s.wall && w.failed.isNone with
  | none => .next s
  | some w =>
    match s.walkPage s.core.task.asid w.va w.read w.write with
    | .ok l => .next (s.onCore fun c => { c with walks := c.walks.erase w }.cacheLeaf l)
    | .error f =>
      if spoiltMark ≤ f.2 then .next (s.later [.uncorrectableError (errorAt 4 ((f.2 - spoiltMark) / 64 * 64))])
      else .next (s.onCore fun c => { c with walks := c.walks.map fun x => if x = w then { x with failed := some f } else x })

end Sys2Proof.Machine
end

