-- ==== Sys2Proof/Machine/Cpy.lean ====
section
/-! DEFINITION. CPY: copies, their checks, their units, write pointers and ring fills (R84, R85, R290 to R296). -/

namespace Sys2Proof.Machine

/-! ## The checks of a copy (R84, R276, R290 to R293) -/

/-- What a range of the peer scratchpads may not name: it ends in the region, no source lies there, and a destination is a push store
(R74, R75, R78, R291). -/
def State.peerBad (s : State) (write : Bool) (a len : Nat) : Option Exc :=
  match regionOf a with
  | .peer i o =>
    if peerBase + 0xC000000000 < a + len then some (memExc .windowGap (peerBase + 0xC000000000))
    else if write then s.core.pushBad i o len a
    else some (memExc .windowAccess a)
  | _ => some (memExc .windowGap a)

/-- What a source or destination range may not name; one that begins in global memory may run into the peer scratchpads (R74, R291, R88,
R25, R78). -/
def State.endBad (s : State) (write gatherOk : Bool) (a len : Nat) : Option Exc :=
  let inside := fun (size off : Nat) => off + len ≤ size
  match regionOf a with
  | .gap => some (memExc .windowGap a)
  | .global => if a + len ≤ peerBase then none else s.peerBad write peerBase (a + len - peerBase)
  | .csr _ => some (memExc .windowAccess a)
  | .peer _ _ => s.peerBad write a len
  | .imem off =>
    if write then some (memExc .windowWrite a) else if inside imemSize off then none else some (memExc .windowGap (imemBase + imemSize))
  | .sp off =>
    if !inside spSize off then some (memExc .windowGap (spBase + spSize))
    else if !s.core.task.spOk off len then some (memExc .footprint a)
    else if write && s.core.indexHit off len then some (memExc .windowIndex a) else none
  | .acc off =>
    if !inside accSize off then some (memExc .windowGap (accBase + accSize))
    else if s.core.task.accOk off len then none else some (memExc .footprint a)
  | .gather w off =>
    if write then some (memExc .windowWrite a)
    else if !gatherOk then some (memExc .windowAccess a)
    else
      match s.core.bindAt w s.core.tcc with
      | none => some (memExc .windowUnbound a)
      | some (_, b) => if 0x4000000 < off + len || b.count ≤ (off + len - 1) / b.rsize then some (memExc .windowRange a) else none

/-- Ranges lie below 2^57 and each end is one the copy may name. -/
def State.endsBad (s : State) (write gatherOk : Bool) (rs : List (Int × Nat)) : Option Exc :=
  rs.findSome? fun (a, len) =>
    if a < 0 ∨ (2 : Int) ^ 57 < a + len then some (memExc .addrRange (a % 2 ^ 64).toNat)
    else s.endBad write gatherOk a.toNat len

/-- Whether two lists of ranges share a byte (R290). -/
def rangesMeet (a b : List (Int × Nat)) : Bool :=
  a.any fun x => b.any fun y => decide (x.1 < y.1 + y.2) && decide (y.1 < x.1 + x.2)

/-- The rules of a ring destination (R84). -/
def Core.ringDstBad (k : Core) (c : Copy) : Option Exc :=
  match c.dst with
  | .addr _ _ => none
  | .ring n _ =>
    let r := k.ring n
    if r.feed != 1 + c.ch || c.count % r.tileU != 0 then some (.of .ringFeed) else none

/-- The copy's own checks, in the order of its section (R290 to R293). -/
def State.copyBad (s : State) (c : Copy) : Option Exc :=
  let undef := match c.dst with | .ring n _ => !(s.core.ring n).v | .addr _ _ => false
  if undef then some (.of .ringUndef)
  else if rangesMeet c.srcRows (s.core.dstRows c) then some (.of .cpyAlias)
  else
    match s.core.ringDstBad c with
    | some e => some e
    | none =>
      match s.endsBad false (c.esz == 0) c.srcRows with
      | some e => some e
      | none =>
        match s.endsBad true false (s.core.dstRows c) with
        | some e => some e
        | none =>
          if c.start < s.core.eng.chanEnd.getD c.ch 0 then some (.of .cpyOverlap)
          else if c.esz != 0 && (c.rows % 64 != 0 || c.rlu % c.esz != 0) then some (.of .cpyShape)
          else none

/-- The global parts of ranges. -/
def globalParts (rs : List (Int × Nat)) : List (Nat × Nat) :=
  (rs.map fun r => (r.1.toNat, r.2)).filter fun r => regionOf r.1 = .global

/-! ## Issue -/

/-- The channel that cpy.a names: the first of a command's own checks (R274, R276). [DEDUCED, log 89] -/
def State.channel (s : State) : Except Exc Nat :=
  let a := s.core.port 10 1
  if a.toNat ≤ 1 then .ok a.toNat else .error (.of .cpyChan)

/-- Copies of a channel that have not started (R278). -/
def Core.copiesPending (c : Core) (ch : Nat) : Nat := (c.eng.copies.filter fun k => k.ch == ch && c.tcc < k.start).length

/-- The class of a value in two's complement at 32 bits. -/
def stride32 (x : Nat) : Int := sInt 32 (x % 2 ^ 32)

/-- The destination that word 2 names; the ring's fill position is where the copy begins (R84, R290). -/
def Core.dstOf (c : Core) (w2 : Nat) (st : Int) : CopyDst :=
  if bit w2 60 then .ring (fld w2 59 57) (c.ring (fld w2 59 57)).fill else .addr (fld w2 56 0) st

/-- The windows that source rows lie in, each with the number and the table of its binding (R86, R87). -/
def Core.srcBinds (c : Core) (rows : List (Int × Nat)) : List (Nat × Nat × Binding) :=
  ((rows.filterMap fun r => match regionOf r.1.toNat with | .gather w _ => some w | _ => none).dedup).filterMap fun w =>
    (c.bindAt w c.tcc).map fun b => (w, b)

/-- A copy as its descriptor gives it. -/
def State.mkCopy (s : State) (ch : Nat) (d : Desc) (rows rlu src : Nat) (ss ds : Int) (esz : Nat) : Copy :=
  let c : Copy := {
    id := s.core.eng.nid, ch := ch, start := s.core.startTcc d, cls := descTc d, rows := rows, rlu := rlu, src := src, sstride := ss,
    dst := s.core.dstOf (dword d 2) ds, esz := esz, leaves := [], binds := [], pflag := s.core.pflag.toNat,
    first := 0, issued := 0, written := 0, units := [], raised := false, follow := none, org := s.core.here 10 }
  { c with binds := (s.core.srcBinds c.srcRows).map fun x => (x.1, x.2.2) }

/-- A copy enters its channel: it is assigned the next channel units, and its ring's next tile positions (R84, R85). -/
def State.enterCopy (s : State) (c : Copy) (ls : List Leaf) (follow : Option Nat) : State :=
  let before := (s.core.eng.copies.filter fun k => k.ch == c.ch).map fun k => k.count - k.written
  let first := (vget 0 s.core.eng.cwp c.ch).toNat + before.sum
  let s1 := s.onEng fun e =>
    { e with
      nid := e.nid + 1
      copies := e.copies ++ [{ c with leaves := ls, first := first, follow := follow }]
      chanEnd := e.chanEnd.set c.ch (c.start + c.count)
      rings :=
        match c.dst with
        | .ring n pos =>
          let r := vget .none e.rings n
          let t := c.count / r.tileU
          vset e.rings n { r with fill := pos + t, assigned := r.assigned ++ [(c.ch, pos, t, first)] }
        | .addr _ _ => e.rings }
  s1.pin c.id ls

/-- The pages that the tables of a copy's windows keep pinned (R302). -/
def State.bindLeaves (s : State) (rows : List (Int × Nat)) : List Leaf :=
  (s.core.srcBinds rows).flatMap fun x => (s.core.eng.pins.lookup x.2.1).getD []

/-- A checked copy: steps 3 to 6 of R276. `extra` is the follow-on command of cpyf: its own checks, its room, and its entry. -/
def State.copyIssue (s : State) (d : Desc) (c : Copy) (extra : Except Exc (Bool × Option Nat × (State → State))) : Except Exc State := do
  match s.copyBad c with
  | some e => .error e
  | none => do
    let (room, follow, enter) ← extra
    let ls ← s.commitChecks (globalParts c.srcRows) (match c.dst with | .addr _ _ => globalParts (s.core.dstRows c) | .ring _ _ => [])
      (descStart d) (decide (s.core.copiesPending c.ch < 4) && room)
    return enter (s.enterCopy c (ls ++ s.bindLeaves c.srcRows) follow)

/-- Masks of R290. -/
def copyMasks : List Nat := [2 ^ 57 - 1, 2 ^ 61 - 1, 2 ^ 34 - 1, 2 ^ 64 - 1, 3, 2 ^ 24 - 1, 0]

/-- No follow-on command. -/
def noFollow : Except Exc (Bool × Option Nat × (State → State)) := .ok (true, none, id)

/-- The common part of cpy, cpyt and cpyf: codes, alignment, the copy (R290). -/
def State.copyOf (s : State) (d : Desc) (eszOk foffOk : Bool) : Except Exc Copy := do
  let w4 := dword d 4
  let ss := stride32 w4
  let ds := stride32 (w4 / 2 ^ 32)
  let ring := bit (dword d 2) 60
  must (eszOk && foffOk && ss % 64 == 0 && ds % 64 == 0 && !(ring && (fld (dword d 2) 56 0 != 0 || ds != 0)) &&
    (ring || fld (dword d 2) 59 57 == 0)) (.of .engDesc)
  let ch ← s.channel
  must (dword d 1 % 64 == 0) (memExc .align (dword d 1))
  must (fld (dword d 2) 56 0 % 64 == 0) (memExc .align (fld (dword d 2) 56 0))
  return s.mkCopy ch d (fld (dword d 3) 33 18 + 1) (fld (dword d 3) 17 0 + 1) (dword d 1) ss ds (2 * dword d 5)

/-- cpy (R290). -/
def execCpy (m : Move) (s : State) : Out :=
  scalarTrigger 10 m s fun t => do
    let (s1, d) ← s.readDesc 10 8 t copyMasks
    let c ← s1.copyOf d (dword d 5 == 0) (dword d 6 == 0)
    s1.copyIssue d c noFollow

/-- cpyt (R293). [DEDUCED, log 93] -/
def execCpyt (m : Move) (s : State) : Out :=
  scalarTrigger 10 m s fun t => do
    let (s1, d) ← s.readDesc 10 9 t copyMasks
    let c ← s1.copyOf d (dword d 5 == 1 || dword d 5 == 2) (dword d 6 == 0)
    s1.copyIssue d c noFollow

/-- An entry of a handle table (R370). -/
structure Handle where
  words : List Nat
deriving DecidableEq, Repr

def Handle.w (h : Handle) (k : Nat) : Nat := h.words.getD k 0
def Handle.valid (h : Handle) : Bool := bit (h.w 0) 63
def Handle.type (h : Handle) : Nat := fld (h.w 0) 60 57
def Handle.base (h : Handle) : Nat := fld (h.w 0) 56 0
def Handle.rows (h : Handle) : Nat := fld (h.w 1) 31 0
def Handle.cols (h : Handle) : Nat := fld (h.w 1) 63 32
def Handle.spf (h : Handle) : Nat := fld (h.w 2) 47 44
def Handle.layout (h : Handle) : Nat := fld (h.w 2) 43 40
def Handle.stride (h : Handle) : Nat := fld (h.w 2) 39 0
def Handle.aux (h : Handle) : Nat := fld (h.w 3) 56 0

/-- Whether a handle can be used: V, extents, codes and reserved fields (R370). -/
def Handle.ok (h : Handle) : Bool :=
  h.valid && h.rows != 0 && h.cols != 0 && h.type ≤ 10 && h.spf ≤ 4 && h.layout ≤ 1 && fld (h.w 0) 62 61 == 0 &&
  fld (h.w 2) 63 48 == 0 && fld (h.w 3) 63 57 == 0 && h.base % 64 == 0 && h.stride % 64 == 0 && h.aux % 64 == 0

/-- The entry of a handle table at an address, once it has been fetched (R295). [DEDUCED, log 48] -/
def Core.fetched (c : Core) (va : Nat) : Option (List Byte) := c.handle.bind fun h => if h.1 = va then some h.2 else none

/-- The handle of an index, read from the launch's table by an access of the class given; the bundle waits while its page is walked and
while the entry is fetched (R231, R295, R370). [DEDUCED, log 49] -/
def State.readHandle (s : State) (h : Nat) (cls : BitVec 3) : Except Exc Handle := do
  let tb := s.core.thbase.toNat
  must (h < 2 ^ fld tb 4 0) (.of .tileHandle)
  let va := fld tb 56 12 * 4096 + 32 * h
  match s.core.fetched va with
  | some d =>
    let e : Handle := ⟨wordsOf 8 d 4⟩
    must e.ok (.of .tileHandle)
    return e
  | none =>
    let leaf ← s.translate va true false
    .error (.late 2 (.handle va (leaf.phys va (coreDie s.focus)) 32 leaf.rpl cls))

/-- cfetch: the copy of a dense rectangle of a tile handle (R295). [DEDUCED, log 49] -/
def execCfetch (m : Move) (s : State) : Out :=
  scalarTrigger 10 m s fun t => do
    let (s1, d) ← s.readDesc 10 11 t [2 ^ 24 - 1, 2 ^ 61 - 1, 2 ^ 64 - 1, 2 ^ 32 - 1, 0, 0, 0]
    let ring := bit (dword d 2) 60
    must (!(ring && fld (dword d 2) 56 0 != 0) && (ring || fld (dword d 2) 59 57 == 0)) (.of .engDesc)
    let ch ← s.channel
    let h ← s1.readHandle (dword d 1) (descTc d)
    must (h.spf == 0 && h.layout == 0) (.of .tileFormat)
    let row := fld (dword d 3) 31 0
    let col := fld (dword d 3) 63 32
    let nr := fld (dword d 4) 15 0 + 1
    let nc := fld (dword d 4) 31 16 + 1
    let el := typeBytes h.type
    must (row + nr ≤ h.rows && col + nc ≤ h.cols && nc * el % 64 == 0) (.of .tileRange)
    let src := h.base + row * h.stride + col * el
    must (src % 64 == 0) (memExc .align src)
    must (fld (dword d 2) 56 0 % 64 == 0) (memExc .align (fld (dword d 2) 56 0))
    s1.copyIssue d (s1.mkCopy ch d nr (nc * el / 64) src h.stride (nc * el : Nat) 0) noFollow

/-- cwp: the channel's write pointer as visible now (R296). -/
def execCwp (m : Move) (s : State) : Out :=
  scalarTrigger 10 m s fun _ => do
    let ch ← s.channel
    s.result 10 2 ((vget 0 s.core.eng.cwp ch).setWidth 64)

/-- creset: an idle channel's pointer becomes 0 from the next cycle (R296). [DEDUCED, log 91] -/
def execCreset (m : Move) (s : State) : Out :=
  scalarTrigger 10 m s fun t => do
    must (t == 0) (.of .engDesc)
    let ch ← s.channel
    must (!(s.core.eng.copies.any fun c => c.ch == ch && c.written < c.count)) (.of .cpyBusy)
    s.issue1 10 1 (.cwpReset (BitVec.ofNat 1 ch))

/-! ## Emission (R292) -/

/-- The address a piece is read at: a gather window's row comes from the index vector of its window's binding now (R86). [DESIGN CHOICE, log 92] -/
def Core.pieceAt (k : Core) (c : Copy) (va : Nat) : Nat :=
  match regionOf va with
  | .gather w off =>
    (match c.binds.lookup w with
      | some b => b.tbase + rdLE k.sp (b.idx + 4 * (off / b.rsize)) 4 * b.rstride + off % b.rsize
      | none => va)
  | _ => va

/-- One piece of a unit: local bytes are read now, global ones asked for. [DESIGN CHOICE, log 92] -/
def State.requestPiece (s : State) (c : Copy) (item va len : Nat) : State :=
  let got := fun (st : State) (d : List Byte) => st.toEngine 10 c.id item d
  match regionOf va with
  | .sp off => got (s.onCore fun k => k.bookEng 10 (4 + c.ch) c.id 0 false (rowsIn off len)) (rdBytes s.core.sp off len)
  | .acc off => got (s.onCore fun k => k.bookEng 10 (4 + c.ch) c.id 1 false (rowsIn off len)) (rdBytes s.core.acc off len)
  | .imem off => got s (rdBytes s.core.imem off len)
  | _ =>
    let g := s.core.pieceAt c va
    match c.leaves.find? fun l => l.va ≤ g && g < l.va + l.size with
    | some l => s.sendGlobal c.cls g (l.phys g (coreDie s.focus)) l.rpl (.read len (.engine 10 c.id item)) c.org true
    | none => got s ((List.range len).map fun k => Config.strayByte g k)

/-- The source row of a unit of a local transposition is read: its bank is taken for the cycle, its bytes go to the units they make (R293, R364). -/
def State.readLine (s : State) (c : Copy) (u : Nat) : State :=
  let (va, items) := c.line u
  let give := fun (st : State) (d : List Byte) => items.foldl (fun st (i, o) => st.toEngine 10 c.id i ((d.drop o).take c.esz)) st
  match regionOf va with
  | .sp off => give (s.onCore fun k => k.bookEng 10 (4 + c.ch) c.id 0 false (rowsIn off 64)) (rdBytes s.core.sp off 64)
  | .acc off => give (s.onCore fun k => k.bookEng 10 (4 + c.ch) c.id 1 false (rowsIn off 64)) (rdBytes s.core.acc off 64)
  | .imem off => give s (rdBytes s.core.imem off 64)
  | _ => s

/-- A unit's request: its pieces, and the place of its write in core order (R100). -/
def State.requestUnit (s : State) (c : Copy) (u : Nat) : State :=
  let ps := c.srcPieces u
  let s1 := if c.turnsLocal then s.readLine c u else (ps.zipIdx).foldl (fun st (p, i) => st.requestPiece c (64 * u + i) p.1 p.2) s
  let wid := s1.core.gid
  let (k, s2) := s1.takeReq
  let d := s.core.copyDst c u
  let s3 := s2.onCore fun k' =>
    { k' with
      gid := k'.gid + 1
      gacc :=
        match regionOf d, c.leaves.find? fun l => l.va ≤ d && d < l.va + l.size && l.w with
        | .global, some l => k'.gacc ++ [⟨wid, wid, c.cls, d, l.phys d 0, l.rpl, .later, 0, c.org, true, false, none⟩]
        | _, _ => k'.gacc }
  s3.onEng fun e => { e with copies := e.copies.map fun x =>
    if x.id = c.id then
      { x with
        issued := u + 1
        units := x.units ++ [⟨u, [], ps.length, s.wall + 1 + Config.outsideDelay k, wid, false⟩] }
    else x }

/-- The copy whose unit a channel requests in this cycle. -/
def Core.requesting (k : Core) (ch : Nat) : Option Copy :=
  k.eng.copies.find? fun c => c.ch == ch && c.start ≤ k.tcc && c.issued < c.count

/-- COPY_UNIT_REQUEST: the channel asks for its next unit (R292). -/
def execCopyUnitRequest (ch : BitVec 1) (s : State) : Out :=
  match s.core.requesting ch.toNat with
  | some c => .next (s.requestUnit c c.issued)
  | none => .next s

/-! ## Writing (R85, R292) -/

/-- Pieces that have come back join their units. -/
def Engines.absorbCopies (e : Engines) : Engines :=
  let early := fun (d : Nat × Nat × Nat × List Byte) => e.copies.any fun c => c.id == d.2.1 && c.issued ≤ d.2.2.1 / 64
  let mine := e.delivered.filter fun d => d.1 == 10 && !early d
  { e with
    delivered := e.delivered.filter fun d => d.1 != 10 || early d
    copies := e.copies.map fun c => { c with
      units := c.units.map fun x => { x with
        parts := x.parts ++ (mine.filter fun d => d.2.1 == c.id && d.2.2.1 / 64 == x.u).map fun d => (d.2.2.1 % 64, d.2.2.2) } } }

/-- The bytes of a whole unit, its pieces in order. -/
def CUnit.bytes (x : CUnit) : List Byte := (sortBy (fun (a b : Nat × List Byte) => a.1 ≤ b.1) x.parts).flatMap (·.2)

/-- Whether a unit may be written. -/
def CUnit.ready (x : CUnit) (wall : Nat) : Bool := x.parts.length == x.need && x.due ≤ wall

/-- Whether the slot a ring unit goes to is free of an unconsumed tile (R84). -/
def Core.slotFree (k : Core) (c : Copy) (u : Nat) : Bool :=
  match c.dst with
  | .ring n pos =>
    let r := k.ring n
    (BitVec.ofNat 32 (pos + u / r.tileU) - r.head).toNat < r.slots
  | .addr _ _ => true

/-- A unit counts as written: the pointer rises, and the ring's TAIL with the last unit of a tile (R83, R85). -/
def Engines.unitWritten (e : Engines) (c : Copy) (u : Nat) : Engines :=
  { e with
    cwp := vset e.cwp c.ch (vget 0 e.cwp c.ch + 1)
    rings :=
      match c.dst with
      | .ring n _ =>
        let r := vget .none e.rings n
        if (u + 1) % r.tileU = 0 then vset e.rings n { r with tail := r.tail + 1 } else e.rings
      | .addr _ _ => e.rings
    copies := e.copies.map fun x =>
      if x.id = c.id then { x with written := u + 1, units := x.units.filter fun y => y.u != u } else x
    pins := if u + 1 = c.count then e.pins.filter fun p => p.1 != c.id else e.pins }

/-- Whether a bank is free of scheduled use in this cycle, and of earlier opportunistic service (R80). -/
def Core.bankFree (k : Core) (store off : Nat) : Bool :=
  !(k.oppUsed.any fun u => u.1 == store && u.2.1 == (bankOf store off).1) &&
  (k.mode != .run && k.mode != .halted || !(k.banks.any fun b => b.tcc == k.tcc && b.store == store && b.bank == (bankOf store off).1))

/-- Whether a unit from a gather window leaves its bank to a request that comes before it: a unit of the other channel that is no such
delivery, or an inbound write (R80). -/
def State.outranked (s : State) (c : Copy) (acc : Bool) (off : Nat) : Bool :=
  let st := if acc then 1 else 0
  let bk := (bankOf st off).1
  !c.binds.isEmpty &&
  ((s.core.opp.any fun r => r.rank ≤ 1 && r.acc == acc && (bankOf st r.off).1 == bk) ||
    ((s.core.eng.copies.find? fun k => k.ch != c.ch && k.written < k.count).any fun k =>
      k.binds.isEmpty && (k.units.find? fun x => !x.sent).any fun x =>
        x.ready s.wall && s.core.slotFree k x.u &&
          (match regionOf (s.core.copyDst k x.u) with
            | .sp o => !acc && (bankOf 0 o).1 == bk
            | .acc o => acc && (bankOf 1 o).1 == bk
            | _ => false)))

/-- A unit is written into a local store, as an opportunistic request that takes a row of its bank; while TCC stands still it occupies no
cycle of the schedule (R80, R85, R356). [DEDUCED, log 28] -/
def State.writeLocalUnit (s : State) (c : Copy) (x : CUnit) (acc : Bool) (off : Nat) : State :=
  if s.core.slotFree c x.u && s.core.bankFree (if acc then 1 else 0) off && !s.outranked c acc off then
    (s.onCore fun k =>
      { k with
        oppUsed := k.oppUsed ++ [(if acc then 1 else 0, bankOf (if acc then 1 else 0) off)]
        engWrites := k.engWrites ++ [(acc, off, x.bytes)] }).onEng fun e => e.unitWritten c x.u
  else s

/-- A unit leaves for global memory or another core's scratchpad (R78, R291). -/
def State.sendUnit (s : State) (c : Copy) (x : CUnit) (d : Nat) : State :=
  let mark := fun (st : State) => st.onEng fun e => { e with copies := e.copies.map fun y =>
    if y.id = c.id then { y with units := y.units.map fun z => if z.u = x.u then { z with sent := true } else z } else y }
  match regionOf d with
  | .peer i o => mark (s.sendPushTo i [(o, x.bytes)] none (some (2 ^ 40 * (s.focus + 1) + c.id)) c.cls x.wid)
  | _ =>
    let (k, s1) := s.takeReq
    mark (s1.onCore fun q => { q with gacc := q.gacc.map fun g =>
      if g.id = x.wid then { g with act := .write x.bytes, arrive := s.wall + 1 + Config.outsideDelay k } else g })

/-- Whether a unit that has left has performed (R292). -/
def State.unitDone (s : State) (x : CUnit) : Bool :=
  x.sent && !(s.core.gacc.any fun g => g.id == x.wid) && !(s.mod.pushes.any fun p => p.src == s.focus && p.gid == x.wid)

/-- The flag of a copy into another core's scratchpad rises once per core it wrote, after all its units; each rise takes its own place in
core order (R100, R291). [DEDUCED, log 174] -/
def State.copyFlags (s : State) (c : Copy) : State :=
  let cores := ((s.core.dstRows c).filterMap fun r => match regionOf r.1.toNat with | .peer i _ => some i | _ => none).dedup
  let s1 := cores.foldl (fun st i =>
    (st.sendPushTo i [] (some c.pflag) (some (2 ^ 40 * (s.focus + 1) + c.id)) c.cls st.core.gid).onCore fun k => { k with gid := k.gid + 1 }) s
  s1.onEng fun e => { e with copies := e.copies.map fun x => if x.id = c.id then { x with raised := true } else x }

/-- A channel writes at most one unit: the next in order of its earliest unfinished copy. -/
def State.channelWrite (s : State) (ch : Nat) : State :=
  let s0 := s.onEng Engines.absorbCopies
  match s0.core.eng.copies.find? fun c => c.ch == ch && (c.written < c.count || !c.raised) with
  | none => s0
  | some c =>
    if c.written = c.count then s0.copyFlags c
    else
      match c.units.find? fun x => !x.sent with
      | some x =>
        if !x.ready s0.wall then (match c.units.head? with
          | some y => if s0.unitDone y then s0.onEng fun e => e.unitWritten c y.u else s0
          | none => s0)
        else
          let d := s0.core.copyDst c x.u
          match regionOf d with
          | .sp off => s0.writeLocalUnit c x false off
          | .acc off => s0.writeLocalUnit c x true off
          | r =>
            let s1 := if r == .global && !s0.core.writeRoom then s0 else s0.sendUnit c x d
            match c.units.head? with
            | some y => if s0.unitDone y then s1.onEng fun e => e.unitWritten c y.u else s1
            | none => s1
      | none =>
        match c.units.head? with
        | some y => if s0.unitDone y then s0.onEng fun e => e.unitWritten c y.u else s0
        | none => s0

/-- Copies that have ended and whose last bound has passed are forgotten. -/
def Core.dropCopies (k : Core) : Core :=
  { k with eng := { k.eng with copies := k.eng.copies.filter fun c =>
    c.written < c.count || !c.raised || k.tcc < c.start + c.count + 664 } }

/-- COPY_UNIT_WRITTEN: a unit that has come is written in order (R85). -/
def execCopyUnitWritten (ch : BitVec 1) (s : State) : Out := .next ((s.channelWrite ch.toNat).onCore Core.dropCopies)

/-- FOLLOW_ON_ISSUE: in cycle F the command a cpyf carries is handed to the array (R294). -/
def execFollowOnIssue (ch : BitVec 1) (s : State) : Out :=
  .next (s.onEng fun e => { e with copies := e.copies.map fun c =>
    if c.ch = ch.toNat ∧ c.follow = some s.core.tcc then { c with follow := none } else c })

end Sys2Proof.Machine
end

