-- ==== Sys2Proof/Machine/Fab.lean ====
section
/-! DEFINITION. FAB: the commands of the fabric unit, their checks at issue, their source reads and release conditions (R307 to R321). -/

namespace Sys2Proof.Machine

/-! ## Checks at issue (R276, R308) -/

/-- The completion word: 8-byte aligned, within the footprint or the task block (R308). -/
def Core.cwOk (c : Core) (cw : W64) : Bool := cw.toNat % 8 == 0 && cw.toNat < spSize && c.task.spOk cw.toNat 8

/-- A local range in the scratchpad, the accumulator store or global memory; one that runs on past its region meets the gap, or the peer
scratchpads, there (R74, R75, R88, R308, R313, R315). [DEDUCED, log 102] -/
def Core.fabLocal (c : Core) (write : Bool) (a len : Nat) : Except Exc Unit := do
  must (a % 64 == 0 && a + len ≤ 2 ^ 57) (memExc .fabLocal a)
  match regionOf a with
  | .sp off => do
    must (off + len ≤ spSize) (memExc .windowGap (spBase + spSize))
    must (c.task.spOk off len) (memExc .footprint a)
  | .acc off => do
    must (off + len ≤ accSize) (memExc .windowGap (accBase + accSize))
    must (c.task.accOk off len) (memExc .footprint a)
  | .global => must (a + len ≤ peerBase) (memExc .windowAccess peerBase)
  | .gap => .error (memExc .windowGap a)
  | .gather _ _ => .error (memExc (if write then .windowWrite else .windowAccess) a)
  | _ => .error (memExc .windowAccess a)

/-- A scratchpad range that a field names by its offset (R308). [DEDUCED, log 102] -/
def Core.fabField (c : Core) (off al len : Nat) : Except Exc Unit := do
  must (off % al == 0) (memExc .fabLocal (spBase + off))
  must (c.task.spOk off len) (memExc .footprint (spBase + off))

/-- A remote address of the alignment its form requires (R308). -/
def fabRemote (a al : Nat) : Except Exc Unit := must (a % al == 0 && a < 2 ^ 57) (memExc .fabRemote a)

/-- Whether the core has set up a group (R308, R317). -/
def Core.hasGroup (c : Core) (g : Nat) : Bool := c.eng.fab.groups.any fun x => x.1 == g

/-- The global part of a local range. -/
def fabPages (a len : Nat) : List (Nat × Nat) := if regionOf a = .global ∧ len ≠ 0 then [(a, len)] else []

/-- The places of a command's global writes, which follow the command's own in core order and wait for their data (R98, R100). -/
def Core.fabPlaces (c : Core) (cls : BitVec 3) (org : Origin) (ls : List Leaf) (writes : List (Nat × Nat)) : List GAccess :=
  let units := writes.flatMap fun w => (List.range (w.2 / 64)).map fun k => w.1 + 64 * k
  units.zipIdx.filterMap fun (va, k) => (ls.find? fun l => l.va ≤ va && va < l.va + l.size).map fun l =>
    ⟨c.gid + 1 + k, c.gid, cls, va, l.phys va 0, l.rpl, .later, 0, org, true, false, none⟩

/-- Steps 4 to 6 of R276, and the command's entry, in core order (R100, R308). -/
def State.fabIssue (s : State) (d : Desc) (op : FabOp) (a : Nat) (b : W64) (cw count : Nat) (reads writes : List (Nat × Nat)) : Except Exc State := do
  let ls ← s.commitChecks reads writes (descStart d) (decide (s.core.eng.fab.cmds.length < 16))
  let id := s.core.eng.nid
  let cmd : FabCmd :=
    { id := id, start := s.core.startTcc d, cls := descTc d, op := op, a := a, b := b, cw := cw, gid := s.core.gid, count := count,
      leaves := ls, asked := 0, src := [], org := s.core.here 13 }
  return ((s.onEng fun e => { e with nid := id + 1, fab := { e.fab with cmds := e.fab.cmds ++ [cmd] } }).pin id ls).onCore
    fun c => { c with gid := c.gid + 1 + (writes.map fun w => w.2 / 64).sum, gacc := c.gacc ++ c.fabPlaces (descTc d) (s.core.here 13) ls writes }

/-- A FAB trigger: its descriptor, and its operands (R307). -/
def fabTrigger (port : Nat) (masks : List Nat) (m : Move) (s : State) (body : State → Desc → Nat → W64 → Nat → Except Exc State) : Out :=
  scalarTrigger 13 m s fun t => do
    let (s1, d) ← s.readDesc 13 port t masks
    body s1 d (s.core.port 13 1).toNat (s.core.port 13 2) (s.core.port 13 3).toNat

/-- Stores to a target module counted since the last fwrrel to it (R314). -/
def Core.relCount (c : Core) (tmod : Nat) : Nat := sget 0 c.eng.fab.rel tmod

/-- Change a count of stores (R314). -/
def State.setRel (s : State) (tmod n : Nat) : State :=
  s.onEng fun e => { e with fab := { e.fab with rel := sset 0 e.fab.rel tmod n } }

/-- fwr and fwrrel (R313, R314). -/
def State.fabStore (s : State) (d : Desc) (rel : Bool) (a : Nat) (b : W64) (cw : Nat) : Except Exc State := do
  let w := dword d 1
  let tmod := fld w 11 0
  let len := fld w 28 16
  let counted := !s.mod.flue.ord
  must (len ≤ 4096) (.of .engDesc)
  must (s.core.cwOk (BitVec.ofNat 64 cw)) (memExc .fabLocal (spBase + cw))
  if len ≠ 0 then s.core.fabLocal false b.toNat (64 * len)
  fabRemote a (if len = 0 then 8 else 64)
  fabRemote (dword d 2) 8
  must (rel || !counted || s.core.relCount tmod != 0 || s.core.eng.fab.rel.length < 64) (.of .fabRelcnt)
  let s1 ← s.fabIssue d (.store rel (bit w 12) tmod len (dword d 2)) a b cw (if rel then s.core.relCount tmod else 0)
    (if len = 0 then [] else fabPages b.toNat (64 * len)) []
  return if !counted then s1 else if rel then s1.setRel tmod 0 else s1.setRel tmod (s.core.relCount tmod + 1)

/-- fwr (R313). -/
def execFwr (m : Move) (s : State) : Out :=
  fabTrigger 9 [0x1FFF1FFF, 2 ^ 57 - 1, 0, 0, 0, 0, 0] m s fun s1 d a b cw => s1.fabStore d false a b cw

/-- fwrrel (R314). [DEDUCED, log 102] -/
def execFwrrel (m : Move) (s : State) : Out :=
  fabTrigger 10 [0x1FFF1FFF, 2 ^ 57 - 1, 0, 0, 0, 0, 0] m s fun s1 d a b cw => s1.fabStore d true a b cw

/-- frd (R315). -/
def execFrd (m : Move) (s : State) : Out :=
  fabTrigger 8 [0x1FFF0FFF, 0, 0, 0, 0, 0, 0] m s fun s1 d a b cw => do
    let len := fld (dword d 1) 28 16
    must (1 ≤ len && len ≤ 4096) (.of .engDesc)
    must (s1.core.cwOk (BitVec.ofNat 64 cw)) (memExc .fabLocal (spBase + cw))
    s1.core.fabLocal true b.toNat (64 * len)
    fabRemote a 64
    s1.fabIssue d (.read (fld (dword d 1) 11 0) len) a b cw 0 [] (fabPages b.toNat (64 * len))

/-- The atomic that an AOP code names (R316, R234). -/
def fabAmo (code : Nat) (d c : W64) : Amo :=
  match code with
  | 0 => ⟨.add, 4, d, c, .sign⟩
  | 1 => ⟨.min, 4, d, c, .sign⟩
  | 2 => ⟨.max, 4, d, c, .sign⟩
  | 3 => ⟨.minu, 4, d, c, .zero⟩
  | 4 => ⟨.maxu, 4, d, c, .zero⟩
  | 5 => ⟨.and, 4, d, c, .zero⟩
  | 6 => ⟨.or, 4, d, c, .zero⟩
  | 7 => ⟨.xor, 4, d, c, .zero⟩
  | 8 => ⟨.swap, 4, d, c, .zero⟩
  | 9 => ⟨.cas, 4, d, c, .zero⟩
  | 10 => ⟨.fadd, 4, d, c, .zero⟩
  | 11 => ⟨.fmax, 4, d, c, .zero⟩
  | 12 => ⟨.fmin, 4, d, c, .zero⟩
  | 13 => ⟨.add, 8, d, c, .zero⟩
  | 14 => ⟨.swap, 8, d, c, .zero⟩
  | _ => ⟨.cas, 8, d, c, .zero⟩

/-- fatom (R316). -/
def execFatom (m : Move) (s : State) : Out :=
  fabTrigger 11 [0xF0FFF, 2 ^ 64 - 1, 2 ^ 63 + 0xFFFFFF, 0, 0, 0, 0] m s fun s1 d a b cw => do
    let aop := fld (dword d 1) 19 16
    let res := fld (dword d 3) 23 0
    let en := bit (dword d 3) 63
    must (s1.core.cwOk (BitVec.ofNat 64 cw)) (memExc .fabLocal (spBase + cw))
    if en then s1.core.fabField res 8 8
    fabRemote a (fabAmo aop 0 0).width
    s1.fabIssue d (.atomic (fld (dword d 1) 11 0) aop (BitVec.ofNat 64 (dword d 2)) (if en then some res else none)) a b cw 0 [] []

/-- Bytes of an input element of fmcred, and of its result (R318). -/
def redIn (op type : Nat) : Nat := if op = 5 ∨ op = 6 then 8 else if type = 1 ∨ type = 8 then 2 else 4
def redOut (op type : Nat) : Nat := if op = 5 ∨ op = 6 then 8 else if type = 8 then 2 else 4

/-- The allowed pairs of operation and type (R318). -/
def redPairOk (op type : Nat) : Bool :=
  match op with
  | 0 => true
  | 1 => type == 0 || type == 8 || type == 9
  | 2 => type == 0 || type == 8 || type == 9
  | _ => type == 8 || type == 9

/-- fmcred (R318). [DEDUCED, log 102] -/
def execFmcred (m : Move) (s : State) : Out :=
  fabTrigger 12 [0x3FFF0FFF, 0xFFFFFF, 0, 0, 0, 0, 0] m s fun s1 d a b cw => do
    let w := dword d 1
    let g := fld w 3 0
    let op := fld w 7 4
    let type := fld w 11 8
    let n := fld w 29 16
    let st := fld (dword d 2) 23 0
    must (op ≤ 6 && [0, 1, 8, 9].contains type && n != 0) (.of .engDesc)
    must (s1.core.cwOk (BitVec.ofNat 64 cw)) (memExc .fabLocal (spBase + cw))
    must (b.toNat % 64 == 0 && b.toNat < spSize) (memExc .fabLocal (spBase + b.toNat))
    must (s1.core.task.spOk b.toNat (n * redOut op type)) (memExc .footprint (spBase + b.toNat))
    s1.core.fabField st 8 8
    fabRemote a (redIn op type)
    must (s1.core.hasGroup g) (.of .fabGroup)
    must (redPairOk op type) (.of .fabType)
    s1.fabIssue d (.reduce g op type n st) a b cw 0 [] []

/-- fmcst (R319). [DEDUCED, log 103] -/
def execFmcst (m : Move) (s : State) : Out :=
  fabTrigger 13 [0x1FFF100F, 2 ^ 57 - 1, 0xFFFFFF, 0, 0, 0, 0] m s fun s1 d a b cw => do
    let w := dword d 1
    let len := fld w 28 16
    let st := fld (dword d 3) 23 0
    must (1 ≤ len && len ≤ 4096) (.of .engDesc)
    must (s1.core.cwOk (BitVec.ofNat 64 cw)) (memExc .fabLocal (spBase + cw))
    s1.core.fabLocal false b.toNat (64 * len)
    s1.core.fabField st 8 8
    fabRemote a 64
    fabRemote (dword d 2) 8
    must (s1.core.hasGroup (fld w 3 0)) (.of .fabGroup)
    s1.fabIssue d (.cast (fld w 3 0) len (dword d 2) (bit w 12) st) a b cw 0 (fabPages b.toNat (64 * len)) []

/-- The member table at a scratchpad offset, as visible now (R317). [DEDUCED, log 102] -/
def memberTable (m : Mem) (off n : Nat) : List (Nat × Nat) :=
  (List.range n).map fun r => (rdLE m (off + 16 * r) 8, rdLE m (off + 16 * r + 8) 8)

/-- Strictly ascending. -/
def ascending : List Nat → Bool
  | a :: b :: r => a < b && ascending (b :: r)
  | _ => true

/-- fgrp (R317). [DEDUCED, log 102] -/
def execFgrp (m : Move) (s : State) : Out :=
  fabTrigger 14 [0x3F1F, 0xFFFFFFFF, 0xFFFFFF, 0, 0, 0, 0] m s fun s1 d _ _ cw => do
    let w := dword d 1
    let g := fld w 3 0
    let clr := bit w 4
    let n := fld w 13 8 + 1
    let off := fld (dword d 3) 23 0
    must (!clr || (w / 32 == 0 && dword d 2 == 0 && dword d 3 == 0)) (.of .engDesc)
    must (s1.core.cwOk (BitVec.ofNat 64 cw)) (memExc .fabLocal (spBase + cw))
    if !clr then s1.core.fabField off 16 (16 * n)
    let rows := if clr then [] else rowsIn off (16 * n)
    if !clr then s1.copyCheck 0 [(off, 16 * n)]
    must (!clr || s1.core.hasGroup g) (.of .fabGroup)
    let s1 ← s1.book 13 0 0 false rows
    let tbl := if clr then [] else memberTable s1.core.sp off n
    must (ascending (tbl.map (·.1)) && tbl.all fun e => e.1 < 4096 && e.2 < 2 ^ 57) (.of .fabGroup)
    let s2 ← s1.fabIssue d (.group g clr (dword d 2) tbl) 0 0 cw 0 [] []
    return s2.onEng fun e => { e with fab := { e.fab with
      groups := (e.fab.groups.filter fun x => x.1 != g) ++ (if clr then [] else [(g, 0)]) } }

/-- fbar (R320). -/
def execFbar (m : Move) (s : State) : Out :=
  fabTrigger 15 [0xF, 0xFFFFFF, 0, 0, 0, 0, 0] m s fun s1 d _ _ cw => do
    let g := fld (dword d 1) 3 0
    let st := fld (dword d 2) 23 0
    must (s1.core.cwOk (BitVec.ofNat 64 cw)) (memExc .fabLocal (spBase + cw))
    s1.core.fabField st 8 8
    must (s1.core.hasGroup g) (.of .fabGroup)
    let seq := (s1.core.eng.fab.groups.lookup g).getD 0 + 1
    let s2 ← s1.fabIssue d (.barrier g st) 0 0 cw seq [] []
    return s2.onEng fun e => { e with fab := { e.fab with groups := e.fab.groups.map fun x => if x.1 = g then (g, seq) else x } }

/-- fstat: its result lands at issue + 200, its reply comes when it comes (R321). -/
def execFstat (m : Move) (s : State) : Out :=
  scalarTrigger 13 m s fun t => do
    must (t.toNat ≤ 2) (.of .fabSel)
    let seq := s.core.seq
    let s1 ← s.issue1 13 200 (.scalar true none)
    let (k, s2) := s1.takeReq
    return s2.onEng fun e => { e with fab := { e.fab with
      stats := e.fab.stats ++ [(seq, t.toNat, k, s.wall + 1 + Config.outsideDelay k)] } }

/-! ## From the queue to the island (R308, R312 to R314) -/

/-- Units of a block source (R312). -/
def FabCmd.units (c : FabCmd) : Nat :=
  match c.op with
  | .store _ _ _ len _ => len
  | .cast _ len _ _ _ => len
  | _ => 0

/-- Commands in the order in which they reach the island: by start, then by issue (R308). -/
def Core.fabQueue (c : Core) : List FabCmd := sortBy (fun a b => a.start < b.start || (a.start == b.start && a.id ≤ b.id)) c.eng.fab.cmds

/-- Forms that leave the core as a release at group scope (R104, R319, R320). [DEDUCED, log 101] -/
def FabCmd.release (c : FabCmd) : Bool :=
  match c.op with
  | .store _ _ _ _ _ => true
  | .cast _ _ _ _ _ => true
  | .barrier _ _ => true
  | _ => false

/-- Forms that a release fence holds back: remote operations that write, and barriers (R101). -/
def FabOp.held (o : FabOp) : Bool :=
  o.remoteWrite || (match o with | .barrier _ _ => true | _ => false)

/-- Whether every access of the core before a place in core order has performed, or returned, remote ones and push stores still to
leave included (R94, R101). [DEDUCED, log 101] -/
def State.groupCovered (s : State) (gid : Nat) : Bool :=
  !(s.core.gacc.any fun g => g.place < gid) &&
  !(s.mod.pushes.any fun p => p.src == s.focus && p.launch == s.core.task.launchId && p.gid < gid) &&
  !s.core.peerOwed gid (fun _ => true) && s.remoteCovered s.focus gid && s.readsCovered s.focus gid

/-- Whether an frd still follows a store of the core to the same target, whose performing it waits for (R314). [DEDUCED, log 99] -/
def State.readBehind (s : State) (c : FabCmd) : Bool :=
  match c.op with
  | .read t _ => s.mod.flue.ops.any fun o => o.core == s.focus && o.launch == s.core.task.launchId && (match o.cmd.op with
      | .store _ _ u _ _ => u == t
      | .cast _ _ _ _ _ => o.owed.contains t
      | _ => false)
  | _ => false

/-- Whether a command may leave the core now (R101, R104, R314). [DEDUCED, log 99] -/
def State.fabReady (s : State) (c : FabCmd) : Bool :=
  c.src.length == c.units && !s.readBehind c &&
  !(s.core.fences.any fun f => f.id ≤ c.gid && (f.kind != .release || c.op.held)) && (!c.release || s.groupCovered c.gid)

/-- One unit of a source is asked for: locally through its bank, or of global memory (R312). -/
def State.fabAsk (s : State) (c : FabCmd) : State :=
  let a := c.b.toNat + 64 * c.asked
  let s1 := s.onEng fun e => { e with fab := { e.fab with cmds := e.fab.cmds.map fun x => if x.id = c.id then { x with asked := x.asked + 1 } else x } }
  let opp := fun (acc : Bool) (off : Nat) => s1.onCore fun k =>
    { k with opp := k.opp ++ [⟨4, 2 * c.id + 1, acc, off, 64, [], .engine 13 c.id c.asked⟩] }
  match regionOf a with
  | .sp off => opp false off
  | .acc off => opp true off
  | _ =>
    match c.leaves.find? fun l => l.va ≤ a && a < l.va + l.size with
    | some l => s1.sendGlobalAt c.gid c.cls a (l.phys a (coreDie s.focus)) l.rpl (.read 64 (.engine 13 c.id c.asked)) c.org true
    | none => s1

/-- Units that have been read join their commands. -/
def Engines.absorbFab (e : Engines) : Engines :=
  let mine := e.delivered.filter fun d => d.1 == 13
  { e with
    delivered := e.delivered.filter fun d => d.1 != 13
    fab := { e.fab with cmds := e.fab.cmds.map fun c =>
      { c with src := c.src ++ (mine.filter fun d => d.2.1 == c.id).map fun d => (d.2.2.1, d.2.2.2) } } }

/-- The bytes of a whole source. -/
def FabCmd.data (c : FabCmd) : List Byte :=
  if c.units = 0 then leBytes c.b.toNat 8 else (sortBy (fun (a b : Nat × List Byte) => a.1 ≤ b.1) c.src).flatMap (·.2)

/-- The commands that act in this cycle: the first with source units still to read, and the head of the queue. -/
def Core.fabEvents (c : Core) : List Instr :=
  let started := c.fabQueue.filter fun x => x.start ≤ c.tcc
  let reader := (started.find? fun x => x.asked < x.units).map fun x => x.id
  ((reader.toList ++ (started.head?.map fun x => x.id).toList).dedup).map Instr.fabSend

end Sys2Proof.Machine
end

