-- ==== Sys2Proof/Machine/Flue.lean ====
section
/-! DEFINITION. The Flue island: identity, bring-up, links, routes, endpoints, announcements, timestamps, the Flue reset (R11, R430 to R437, R444). -/

namespace Sys2Proof.Machine

/-- Change the Flue island. -/
def State.onFlue (s : State) (f : Flue → Flue) : State := { s with mod := { s.mod with flue := f s.mod.flue } }

/-- A counter of the island, saturating (R431). -/
def Flue.bump (f : Flue) (i n : Nat) : Flue :=
  { f with counters := vset f.counters i (BitVec.ofNat 64 (satU 64 ((vget 0 f.counters i).toNat + n))) }

/-! ## Identity and routes (R431, R434) -/

/-- This module's coordinate and the group's extent in dimension d (R321, R431). -/
def Flue.pos (f : Flue) (d : Nat) : Nat := fld f.coords.toNat (15 + 4 * d) (12 + 4 * d)
def Flue.ext (f : Flue) (d : Nat) : Nat := fld f.coords.toNat (27 + 4 * d) (24 + 4 * d) + 1

/-- This module's number (R321). -/
def Flue.self (f : Flue) : Nat := f.pos 0 + 16 * f.pos 1 + 256 * f.pos 2

/-- A module's coordinate in dimension d (R317). -/
def modPos (m d : Nat) : Nat := m / 16 ^ d % 16

/-- Whether a module number names a module of the group (R317). -/
def Flue.inGroup (f : Flue) (m : Nat) : Bool := m < 4096 && (List.range 3).all fun d => modPos m d < f.ext d

/-- The modules of the group. -/
def Flue.members (f : Flue) : List Nat := (List.range 4096).filter f.inGroup

/-- Whether link n is expected (R433). -/
def Flue.expected (f : Flue) (n : Nat) : Bool := 1 < f.ext (n / 2)

/-- LINKn.STATE (R433). -/
def Flue.linkState (f : Flue) (n : Nat) : Nat :=
  let l := vget .down f.links n
  let p := vget ⟨false, 0, false⟩ l.planes 0
  let q := vget ⟨false, 0, false⟩ l.planes 1
  if f.state < 2 || !f.expected n then 0
  else if p.up && q.up then 2
  else if p.up || q.up then (if (p.dead || q.dead) || f.state == 3 then 3 else 1)
  else if p.dead && q.dead then 4
  else 1

/-- Whether a link carries traffic (R434). -/
def Flue.linkUp (f : Flue) (n : Nat) : Bool := f.linkState n == 2 || f.linkState n == 3

/-- Whether a link is settled, so that the group can form (R432). -/
def Flue.settled (f : Flue) : Bool :=
  (List.range 6).all fun n => !f.expected n || f.linkState n == 2 || f.linkState n == 3 || f.linkState n == 4

/-- The endpoint entry of a module; its own mirrors FL_EP (R436). -/
def Flue.entry (f : Flue) (m : Nat) : Endpt :=
  let e := sget .never f.endpts m
  if m = f.self then { e with unreach := false, down := !f.up, inc := f.inc } else e

/-- The hop of a packet from a module toward another: the link, and the module it leads to. The way around a dimension is the one that its
source's coordinate gives, which LONG reverses (R434). [DEDUCED, log 190] -/
def Flue.hop (f : Flue) (src cur dest : Nat) (long : BitVec 3) : Option (Nat × Nat) :=
  (List.range 3).findSome? fun k =>
    let e := f.ext k
    let d := (modPos dest k + e - modPos cur k) % e
    if d = 0 then none
    else
      let first := (modPos dest k + e - modPos src k) % e
      let way := if first = 0 then d else first
      let plus := (decide (way ≤ e - way)) != long.getLsbD k
      let next := if plus then (modPos cur k + 1) % e else (modPos cur k + e - 1) % e
      some (2 * k + b2n !plus, cur - modPos cur k * 16 ^ k + next * 16 ^ k)

/-- Whether a route exists, its links counted from a module on; links of other modules count as up unless known to be down. [DEDUCED, log 107] -/
def Flue.routeFrom (f : Flue) (dest : Nat) (long : BitVec 3) : Nat → Nat → Bool
  | 0, _ => false
  | fuel + 1, cur =>
    match f.hop f.self cur dest long with
    | none => true
    | some (n, next) =>
      (if cur = f.self then f.linkUp n else !f.far.contains (cur, n)) && f.routeFrom dest long fuel next

/-- Whether a module of the group can be reached (R434). [DEDUCED, log 107] -/
def Flue.reaches (f : Flue) (m : Nat) : Bool := f.routeFrom m (f.entry m).long 48 f.self

/-! ## Packets on the links (R434, R435) -/

/-- Whether a link has both planes up. -/
def Flue.bothUp (f : Flue) (n : Nat) : Bool := f.linkState n == 2

/-- Whether a packet carries a critical flit: a flag, a completion reply, an arrival, an announcement, a timestamp (R435). -/
def packetCritical : Packet → Bool
  | .request _ r => (match r.op with | .store .. => true | _ => false)
  | _ => true

/-- The module that a packet is for; a timestamp flit goes to the neighbour (R434, R435). -/
def packetTarget : Packet → Option Nat
  | .request t _ => some t
  | .reply t _ => some t
  | .arrival _ t _ _ => some t
  | .announce _ t _ _ => some t
  | .stamp _ => none

/-- The module that a packet comes from. -/
def packetSource : Packet → Option Nat
  | .request _ r => some r.srcMod.toNat
  | .reply _ r => some r.srcMod.toNat
  | .arrival s _ _ _ => some s
  | .announce s _ _ _ => some s
  | .stamp _ => none

/-- A packet leaves on a link; a critical one takes the link's next sequence number. How many flits it takes is not stated (R431, R435).
[DESIGN CHOICE, log 106] -/
def Flue.sendOn (f : Flue) (n : Nat) (p : Packet) : Flue :=
  let l := vget .down f.links n
  { f with
    outbox := f.outbox ++ [p]
    links := if packetCritical p then vset f.links n { l with seq := l.seq + 1 } else f.links }.bump 0 (Config.openValue 40 f.outbox.length 0)

/-- The link by which this module's packets for another leave it (R434). -/
def Flue.firstLink (f : Flue) (m : Nat) : Option Nat := (f.hop f.self f.self m (f.entry m).long).map (·.1)

/-- A packet of this module leaves; at a failed link it is lost (R434). [DESIGN CHOICE, log 106] -/
def Flue.send (f : Flue) (p : Packet) : Flue :=
  match (packetTarget p).bind f.firstLink with
  | some n => if f.linkUp n then f.sendOn n p else f
  | none => f.sendOn 6 p

/-- A packet has come in on a Sedor link, a critical one over a link with both planes up in two copies of which one is discarded
(R431, R435). [DESIGN CHOICE, log 106] -/
def Flue.received (f : Flue) (critical : Bool) (k : Nat) : Flue :=
  let f1 := f.bump 1 (Config.openValue 41 k 0)
  if critical && (List.range 6).any f.bothUp then f1.bump 3 (Config.openValue 42 k 0 % 2) else f1

/-- Whether the island is out of service: in a Flue reset or not yet out of a cold one (R321, R431, R444, R445). -/
def Flue.away (f : Flue) : Bool := f.state == 0 || f.resetting

/-- Every UNREACH bit anew. A member never keeps an incarnation for a module it cannot reach (R434, R437). -/
def Flue.reroute (f : Flue) : Flue :=
  { f with endpts := f.members.foldl (fun l m =>
      let e := sget .never l m
      if m = f.self then l
      else if f.reaches m then sset .never l m { e with unreach := false }
      else sset .never l m { e with unreach := true, inc := 0 }) f.endpts }

/-- ROUTE_RECOMPUTE: the UNREACH bits follow the state of the links, this module's and those of others (R434). [DEDUCED, log 107] -/
def execRouteRecompute (far : List (Nat × Nat)) (s : State) : Out := .next (s.onFlue fun f => { f with far := far }.reroute)

/-! ## Bring-up (R432, R433) -/

/-- The first error since ERR was last cleared (R433). -/
def Flue.error (f : Flue) (code : Nat) : Flue := if f.err = 0 then { f with err := code } else f

/-- Every link trains anew. -/
def Flue.startTraining (f : Flue) : Flue :=
  { f with state := 2, links := Vector.ofFn fun n => { vget .down f.links n.val with trains := 0, planes := Vector.replicate 2 ⟨false, 0, false⟩ } }

/-- When every expected link is settled, the group forms (R432). -/
def State.tryForm (s : State) : State :=
  if s.mod.flue.state = 2 ∧ s.mod.flue.settled then (s.later [.groupFormed]) else s

/-- The incarnation after one (R437). -/
def nextInc (i : BitVec 8) : BitVec 8 := BitVec.ofNat 8 (i.toNat % 255 + 1)

/-- The formation of the group starts; with too many modules for counted release the island stays in CONFIG with ERR ORD_SIZE, and a Flue
reset ends there (R432, R444). [DESIGN CHOICE, log 114] -/
def State.goForm (s : State) : State :=
  let f := s.mod.flue
  if !f.ord && 64 < f.ext 0 * f.ext 1 * f.ext 2 then s.onFlue fun f =>
    { f with state := 1, err := if f.err = 0 then 1 else f.err, resetting := false, inc := if f.resetting && f.up then nextInc f.inc else f.inc }
  else (s.onFlue Flue.startTraining).tryForm

/-- FLUE_GO: a write of GO clears ERR; in CONFIG it starts the formation (R432, R433). -/
def execFlueGo (s : State) : Out :=
  let s1 := s.onFlue fun f => { f with err := 0 }
  .next (if s.mod.flue.state = 1 then s1.goForm else s1)

/-- What is wrong with the neighbour a plane has met: 2 COORD, 3 KEY (R433). ORD is compared like the key. [DEDUCED, log 105] -/
def Flue.peerBad (f : Flue) (n : Nat) (peer : W64) (key : W32) (ord : Bool) : Option Nat :=
  let d := n / 2
  let want := if n % 2 = 0 then (f.pos d + 1) % f.ext d else (f.pos d + f.ext d - 1) % f.ext d
  let at_ := fun (k : Nat) => fld peer.toNat (15 + 4 * k) (12 + 4 * k)
  if at_ d != want || ((List.range 3).any fun k => k != d && at_ k != f.pos k) || fld peer.toNat 35 24 != fld f.coords.toNat 35 24 then some 2
  else if key != f.key || ord != f.ord then some 3
  else none

/-- A plane of a link replaced. -/
def Flue.setPlane (f : Flue) (n p : Nat) (g : Plane → Plane) : Flue :=
  let l := vget .down f.links n
  { f with links := vset f.links n { l with planes := vset l.planes p (g (vget ⟨false, 0, false⟩ l.planes p)) } }

/-- A training attempt counts (R433). -/
def Flue.countTraining (f : Flue) (n : Nat) : Flue :=
  let l := vget .down f.links n
  { f with links := vset f.links n { l with trains := BitVec.ofNat 8 (satU 8 (l.trains.toNat + 1)) } }

/-- One training attempt of a plane: it fails, meets a neighbour that does not fit, or brings the plane up (R433). -/
def Flue.train (f : Flue) (n p : Nat) (ok : Bool) (peer : W64) (key : W32) (ord : Bool) : Flue :=
  let f1 := f.countTraining n
  if !ok then
    let fails := (vget ⟨false, 0, false⟩ (vget .down f.links n).planes p).fails + 1
    let f2 := f1.setPlane n p fun x => { x with fails := fails, dead := decide (8 ≤ fails) }
    if 8 ≤ fails then f2.error 4 else f2
  else
    match f.peerBad n peer key ord with
    | some e => (f1.setPlane n p fun x => { x with dead := true }).error e
    | none => f1.setPlane n p fun x => { x with up := true, fails := 0 }

/-- LINK_TRAINED: a plane of an expected link ends a training attempt (R433). -/
def execLinkTrained (link : BitVec 3) (plane : BitVec 1) (ok : Bool) (peer : W64) (key : W32) (ord : Bool) (s : State) : Out :=
  let f := s.mod.flue
  let x := vget ⟨false, 0, false⟩ (vget .down f.links link.toNat).planes plane.toNat
  if f.state < 2 ∨ !f.expected link.toNat ∨ 5 < link.toNat ∨ x.up ∨ x.dead then .next s
  else
    let s1 := s.onFlue fun f => f.train link.toNat plane.toNat ok peer key ord
    .next ((s1.later [Instr.routeRecompute f.far]).tryForm)

/-- PLANE_LOSS: a plane loses lock, or sees 16 flits in a row fail CRC; it goes down and trains again (R433). -/
def execPlaneLoss (link : BitVec 3) (plane : BitVec 1) (s : State) : Out :=
  if s.mod.flue.state < 2 then .next s
  else
    let s1 := s.onFlue fun f => f.setPlane link.toNat plane.toNat fun x => { x with up := false, fails := 0 }
    .next (s1.later [Instr.routeRecompute s.mod.flue.far])

/-- FLIT_REPLAY: a flit that failed CRC is sent again from the replay buffer; RETRY and the counter of replays rise (R431, R433). -/
def execFlitReplay (link : BitVec 3) (_plane : BitVec 1) (s : State) : Out :=
  .next (s.onFlue fun f =>
    let l := vget .down f.links link.toNat
    { f with links := vset f.links link.toNat { l with retry := BitVec.ofNat 32 (satU 32 (l.retry.toNat + 1)) } }.bump 2 1)

/-- The endpoint's state goes out to every reachable member: JOIN with INC, or DOWN (R432, R437). -/
def Flue.announce (f : Flue) : Flue :=
  (f.members.filter fun m => m != f.self && f.reaches m).foldl (fun k m => k.send (.announce f.self m f.up f.inc.toNat)) f

/-- GROUP_FORMED: STATE becomes FORMED, and the endpoint is announced; a formation that ends a Flue reset advances the
incarnation of an endpoint that is up (R432, R444, R445). -/
def execGroupFormed (s : State) : Out :=
  let f := s.mod.flue
  if f.state ≠ 2 ∨ !f.settled then .next s
  else
    .next (s.onFlue fun f =>
      { f with state := 3, resetting := false, inc := if f.resetting && f.up then nextInc f.inc else f.inc }.reroute.announce)

/-! ## Endpoints (R436, R437) -/

/-- Whether every die manager has reported or has been given up (R448). -/
def Hub.allReady (h : Hub) : Bool := (h.dies ||| h.silent) == 15

/-- The last step of a compute reset is done (R442, R446). -/
def State.endPending (s : State) : State :=
  { s with mod := { s.mod with hub := { s.mod.hub with
      pending := s.mod.hub.pending && !s.mod.hub.allReady
      hot := s.mod.hub.hot && !s.mod.hub.allReady } } }

/-- ENDPOINT_UP: a write of UP from 0 to 1 advances INC and announces JOIN, or leaves that to FORMED (R437). It is the last step of a
compute reset (R442). -/
def execEndpointUp (s : State) : Out :=
  let f := s.mod.flue
  if f.up then .next s.endPending
  else .next (s.endPending.onFlue fun f =>
    let f1 := { f with up := true, inc := nextInc f.inc, lostRel := [] }
    if f.state = 3 then f1.announce else f1)

/-- DOWN is announced (R437, R442). -/
def Flue.goDown (f : Flue) : Flue :=
  if f.up then (if f.state = 3 then { f with up := false }.announce else { f with up := false }) else f

/-- ENDPOINT_DOWN: a write of UP from 1 to 0 announces DOWN (R437). -/
def execEndpointDown (s : State) : Out := .next (s.onFlue Flue.goDown)

/-- ANNOUNCEMENT_RECEIVED: the entry of the sender is rewritten; a JOIN discards the counts held for it (R437, R438). -/
def execAnnouncementReceived (m : BitVec 12) (join : Bool) (inc : BitVec 8) (s : State) : Out :=
  let f := s.mod.flue
  if f.away ∨ !f.inGroup m.toNat ∨ m.toNat = f.self then .next s
  else .next (s.onFlue fun f =>
    let f1 := f.received true m.toNat
    { f1 with
      endpts := sset .never f1.endpts m.toNat { sget .never f1.endpts m.toNat with down := !join, inc := inc }
      counts := if join then f1.counts.filter fun c => c.1 / 1024 != m.toNat else f1.counts })

/-- NEIGHBOUR_LOST: every link of a module is lost; its entry reads DOWN with incarnation 0 (R437). -/
def execNeighbourLost (m : BitVec 12) (s : State) : Out :=
  .next (s.onFlue fun f =>
    { f with endpts := sset .never f.endpts m.toNat { sget .never f.endpts m.toNat with down := true, inc := 0 } })

/-! ## The timestamp counter (R435) -/

/-- TIMESTAMP_FLIT: a counter behind its reference steps forward; one ahead slows until the reference has caught up. The module
that is the reference keeps its own (R435). -/
def execTimestampFlit (ts : W64) (s0 : State) : Out :=
  let f := s0.mod.flue
  if f.state ≠ 3 then .next s0
  else
    let s := s0.onFlue fun f => f.received true ts.toNat
    if (f.members.find? f.reaches) = some f.self then .next s
    else if s.ts.toNat ≤ ts.toNat then .next ({ s with ts := ts }.onFlue fun f => { f with slow := 0 })
    else .next (s.onFlue fun f => { f with slow := s.ts.toNat - ts.toNat })

/-- The timestamp flits of a microsecond: one on each link that carries traffic (R435). -/
def Flue.sendStamps (f : Flue) (ts : W64) : Flue :=
  if f.state = 3 then ((List.range 6).filter f.linkUp).foldl (fun k n => k.sendOn n (.stamp ts)) f else f

/-- The timestamp counter after n nanoseconds: while slowed it advances by one every 2 ns; each microsecond timestamp flits leave (R435). -/
def State.tickTs (s : State) (n : Nat) : State :=
  let f := s.mod.flue
  let e := f.tick + n
  let lost := min f.slow (n - (e / 2 - f.tick / 2))
  let ts := s.ts + BitVec.ofNat 64 (n - lost)
  { s with ts := ts }.onFlue fun f =>
    let f1 := { f with slow := f.slow - lost, tick := e % 1000 }
    if 1000 ≤ e then f1.sendStamps ts else f1

/-! ## Transit (R11, R434) -/

/-- A packet that has reached its target is taken in (R320, R437 to R439). -/
def packetArrives : Packet → List Instr
  | .request _ r => [.inboundRemoteRequest r]
  | .reply _ r => [.remoteReply r]
  | .arrival src _ key seq => [.fbarArrival (BitVec.ofNat 32 key) seq (BitVec.ofNat 12 src)]
  | .announce src _ join inc => [.announcementReceived (BitVec.ofNat 12 src) join (BitVec.ofNat 8 inc)]
  | .stamp ts => [.timestampFlit ts]

/-- What a packet that meets a failed link comes to: a request's requester hears UNREACHABLE; the others are lost (R434).
[DEDUCED, log 109; DEDUCED, log 110] -/
def Flue.dropPacket (f : Flue) (tgt : BitVec 12) (p : Packet) : Flue :=
  match p with
  | .request _ r => (f.bump 6 1).send (.reply r.srcMod.toNat { tag := r.tag, srcMod := tgt, tgtInc := r.srcInc, code := 5, data := [] })
  | _ => f

/-- TRANSIT_FORWARD: a packet for another module goes on through X, then Y, then Z; at a failed link it is dropped. In a Flue reset it is
lost (R11, R434, R445). [DEDUCED, log 110] -/
def execTransitForward (tgt : BitVec 12) (p : Packet) (s : State) : Out :=
  let f := s.mod.flue
  if f.state ≠ 3 then .next s
  else
    match f.hop ((packetSource p).getD f.self) f.self tgt.toNat (f.entry tgt.toNat).long with
    | none => .next (s.later (packetArrives p))
    | some (n, _) =>
      let f1 := f.received (packetCritical p) tgt.toNat
      .next (s.onFlue fun _ => if f.linkUp n then f1.sendOn n p else f1.dropPacket tgt p)

end Sys2Proof.Machine
end

