-- ==== Sys2Proof/Machine/Hub.lean ====
section
/-! DEFINITION. The hub's event log and error counters, and messages to the host (R395, R452, R457). -/

namespace Sys2Proof.Machine

/-- Change the module. -/
def State.onMod (s : State) (f : Module → Module) : State := { s with mod := f s.mod }

/-- Change the hub block. -/
def State.onHub (s : State) (f : Hub → Hub) : State := s.onMod fun m => { m with hub := f m.hub }

/-- An MSI-X message to the host (R395). [PRESUMED, log 194] -/
def State.raiseMsix (s : State) (v : Nat) : State :=
  s.onMod fun m => { m with host := m.host.raise v }

/-- A record in the event log, under the hub's source 1,040 (R428, R457). [DESIGN CHOICE, log 151] -/
def State.logEvent (s : State) (kind : Nat) (payload : List Nat) : State :=
  s.onHub fun h =>
    let words := ((s.ts.toNat :: (kind * 2 ^ 56 + 1040 * 2 ^ 44) :: payload) ++ List.replicate 8 0).take 8
    { h with
      log := wrBytes h.log (64 * (h.evw.toNat % 1024)) (words.flatMap fun w => (List.range 8).map fun i => BitVec.ofNat 8 (w / 2 ^ (8 * i)))
      evw := h.evw + 1 }

/-- A reset is recorded: a row of R441's table, counted from 0, and the target (R457). The number of a kind is not stated. [DESIGN CHOICE, log 151] -/
def State.logReset (s : State) (row target : Nat) : State := s.logEvent 13 [Config.openValue 90 row 0, target]

/-- CORR or UNCORR of an index rises, saturating (R452). -/
def countField (w : W64) (uncorr : Bool) : W64 :=
  if uncorr then BitVec.ofNat 64 (satU 32 (w.toNat / 2 ^ 32 + 1) * 2 ^ 32 + w.toNat % 2 ^ 32)
  else BitVec.ofNat 64 (w.toNat / 2 ^ 32 * 2 ^ 32 + satU 32 (w.toNat % 2 ^ 32 + 1))

/-- A machine error is counted and recorded: index, location, LAUNCH_ID, whether it was corrected (R452, R457). -/
def State.countError (s : State) (k loc launch : Nat) (corrected : Bool) : State :=
  (s.onHub fun h => { h with errcnt := vset h.errcnt k (countField (vget 0 h.errcnt k) !corrected) }).logEvent 8 [k, loc, launch, b2n corrected]

end Sys2Proof.Machine
end

