-- ==== Sys2Proof/Machine/VecNum.lean ====
section
/-! DEFINITION. The table functions of VEC: the exact value rounded once to nearest, ties to even (R249). -/

namespace Sys2Proof.Machine

/-- ⌊ln 2 · 2^288⌋. -/
def ln2Fix : Nat := 0xb17217f7d1cf79abc9e3b39803f2f6af40f343267298b62d8a0d175b8baafa2be7b87620

/-- Σ y^n / n! for n from i on, with y and the terms in units of 2^-288. -/
def expTerms (y : Nat) : Nat → Nat → Nat → Nat
  | 0, _, _ => 0
  | k + 1, i, term => term + expTerms y k (i + 1) (term * y / 2 ^ 288 / (i + 1))

/-- 2^f in units of 2^-288, for f = frac·2^-s below 1; its error is below 2^-270 (R249). -/
def exp2Frac (frac s : Nat) : Nat := expTerms (ln2Fix * frac / 2 ^ s) 80 0 (2 ^ 288)

/-- vfexp2 of one lane (R249). A fractional exponent gives an irrational value, so a sticky bit marks it inexact; an
exponent beyond the format's range needs only its overflow or underflow. -/
def exp2Lane (ftz : Bool) (x : Nat) : FRes :=
  match fp32.read ftz x with
  | .nan => fp32.invalid
  | .inf neg => if neg then (0, 0) else (fp32.inf false, 0)
  | .fin neg m e =>
    if (Fv.fin neg m e).cmp (.fin false 128 0) ≥ 0 then (fp32.inf false, flagOF ||| flagNX)
    else if (Fv.fin neg m e).cmp (.fin true 150 0) ≤ 0 then (0, flagUF ||| flagNX)
    else
      let s := (-e).toNat
      let v : Int := scaled neg m (max e 0) 0
      let k : Int := if 0 ≤ e then v else (if neg then -(m : Int) else m) / (2 ^ s : Nat)
      let frac : Nat := if 0 ≤ e then 0 else ((if neg then -(m : Int) else m) % (2 ^ s : Nat)).toNat
      if frac = 0 then fp32.round 0 ftz .ieee false 1 k
      else fp32.round 0 ftz .ieee false (2 * exp2Frac frac s + 1) (k - 289)

/-- The fractional bits of log2 of r·2^-512, r in [2^512, 2^513), by repeated squaring (R249). -/
def log2Bits : Nat → Nat → Nat → Nat
  | 0, _, acc => acc
  | k + 1, r, acc =>
    let q := r * r / 2 ^ 512
    if 2 ^ 513 ≤ q then log2Bits k (q / 2) (2 * acc + 1) else log2Bits k q (2 * acc)

/-- vflog2 of one lane (R249): 128 fractional bits and a sticky bit, exact for powers of two. -/
def log2Lane (ftz : Bool) (x : Nat) : FRes :=
  match fp32.read ftz x with
  | .nan => fp32.invalid
  | .inf neg => if neg then fp32.invalid else (fp32.inf false, 0)
  | .fin neg m e =>
    if m = 0 then (fp32.inf true, flagDZ)
    else if neg then fp32.invalid
    else
      let k : Int := e + m.log2
      if m = 2 ^ m.log2 then
        (if k = 0 then (0, 0) else fp32.round 0 ftz .ieee (decide (k < 0)) k.natAbs 0)
      else
        let t : Int := k * 2 ^ 128 + log2Bits 128 (m * 2 ^ (512 - m.log2)) 0
        if 0 ≤ t then fp32.round 0 ftz .ieee false (2 * t.toNat + 1) (-129)
        else fp32.round 0 ftz .ieee true (2 * (-t - 1).toNat + 1) (-129)

/-- vfrcp of one lane (R249). -/
def rcpLane (ftz : Bool) (x : Nat) : FRes := fpDiv 0 ftz 0x3F800000 x

/-- vfrsqrt of one lane (R249). -/
def rsqrtLane (ftz : Bool) (x : Nat) : FRes :=
  match fp32.read ftz x with
  | .nan => fp32.invalid
  | .inf neg => if neg then fp32.invalid else (0, 0)
  | .fin neg m e =>
    if m = 0 then (fp32.inf neg, flagDZ)
    else if neg then fp32.invalid
    else
      let odd := (e % 2).toNat
      let big := m * 2 ^ odd
      let r := isqrt (2 ^ 200 / big)
      fp32.round 0 ftz .ieee false (2 * r + b2n (r * r * big != 2 ^ 200)) (-101 - (e - odd) / 2)

end Sys2Proof.Machine
end

