-- ==== Sys2Proof/Machine/Cell.lean ====
section
/-! DEFINITION. One step of a Kiln cell: micro-bundles, the four-lane window, and the fixed datapath as the standard programs
give it (R65 to R69, R119, R257 to R268, R272). -/

namespace Sys2Proof.Machine

/-- The form of a register value (R259); i8, u8 and narrow stand for captured types that have no form of their own there: INT8, UINT8, and the
floating types below FP32 and LNS6 by their type code. -/
inductive Form where
  | i8
  | u8
  | i16
  | i32
  | f32
  | b8
  | p16
  | p32
  | narrow (t : Nat)
deriving DecidableEq, Repr

/-- The form that a captured type gives (R259, R262). [DEDUCED, log 68] -/
def typeForm (t : Nat) : Form :=
  if t = 6 then .i8 else if t = 7 then .u8 else if t = 8 then .i16 else if t = 9 then .i32 else if t = 10 then .b8
  else if t = 0 then .f32 else .narrow t

/-- The form of a TYPE field; code 6 takes a captured type (R260). [DEDUCED, log 68] -/
def fieldForm (tp captured : Nat) : Form :=
  match tp with
  | 0 => .i16
  | 1 => .i32
  | 2 => .f32
  | 3 => .b8
  | 4 => .p16
  | 5 => .p32
  | _ => typeForm captured

/-- The width of a form's value. -/
def Form.width : Form → Nat
  | .i8 => 8
  | .u8 => 8
  | .i16 => 16
  | .p16 => 16
  | .b8 => 8
  | .narrow t => 8 * typeBytes t
  | _ => 32

/-- A value written in a form (R259). Above a value of a type that has no form of its own the bits are not given. [DESIGN CHOICE, log 67] -/
def Form.put (f : Form) (v : Nat) : Nat :=
  match f with
  | .i8 => v % 256 + 256 * (Config.openValue 8 v 6 % 2 ^ 56)
  | .u8 => v % 256 + 256 * (Config.openValue 8 v 7 % 2 ^ 56)
  | .i16 => ofInt 64 (sInt 16 v)
  | .i32 => ofInt 64 (sInt 32 v)
  | .f32 => v % 2 ^ 32
  | .b8 => b2n (v % 256 != 0)
  | .narrow t => v % 2 ^ (8 * typeBytes t) + 2 ^ (8 * typeBytes t) * (Config.openValue 8 v t % 2 ^ (64 - 8 * typeBytes t))
  | .p16 => fld v 63 32 * 2 ^ 32 + ofInt 32 (sInt 16 v)
  | .p32 => v % 2 ^ 64

/-- An element as it enters the array: in one-product modes in the form of its type, where it has one (R259). [DEDUCED, log 71] -/
def enterForm (nl t v : Nat) : Nat := if nl = 1 ∧ 8 ≤ t ∧ t ≤ 10 then (typeForm t).put v else v

/-- Whether a form is a pair (R68). -/
def Form.pair : Form → Bool
  | .p16 => true
  | .p32 => true
  | _ => false

/-- A value combined at a form's width; a pair keeps the index of its first operand (R68, R262). [DEDUCED, log 70] -/
def Form.join (f : Form) (x v : Nat) : Nat := f.put (if f.pair then fld x 63 32 * 2 ^ 32 + v % 2 ^ 32 else v)

/-- What a beat brings a cell besides its operands: the captured FMT, the block's state and scales, the lanes present. -/
structure BeatCtx where
  fmt : W32
  opens : Bool
  closes : Bool
  fresh : Bool
  sa : Nat
  sb : Nat
  lanes : Nat
  valid : Bool
deriving DecidableEq, Repr

/-- What a transient of sixteen edited bytes reads as: the device's own encoding of it is not stated. [DESIGN CHOICE, log 45] -/
def rawRead (v : BitVec 128) : Nat := Config.openValue 64 (v.toNat / 2 ^ 64) (v.toNat % 2 ^ 64) % 2 ^ 64

/-- The exact value T stands for as an addend (R259, R265). -/
def TVal.exact (ftz : Bool) : TVal → Fv
  | .bits v => fp32.read ftz (v.toNat % 2 ^ 32)
  | .raw v => fp32.read ftz (rawRead v % 2 ^ 32)
  | .prod p => p
  | .window w nan _ pinf ninf _ sc lsb _ =>
    if nan || (pinf && ninf) then .nan
    else if pinf || ninf then .inf ninf
    else .fin (decide (w < 0)) w.natAbs (lsb + sc)

/-- The register bits a source reads from T: an exact value is rounded once to nearest, without flush or flag (R259). -/
def TVal.read (t : TVal) : Nat :=
  match t with
  | .bits v => v.toNat
  | .raw v => rawRead v
  | .window w _ _ _ _ _ _ _ true => ofInt 64 (sInt 32 (ofInt 32 w))
  | t => ((t.exact false).toFmt fp32 0 false).1

/-! ## Combine (R262 to R264) -/

/-- The canonical NaN of a floating type or of LNS6 (R49). [DEDUCED, log 179] -/
def nanOf (t : Nat) : Nat :=
  match floatFmt t with
  | some g => g.nan
  | none => 0x1F

/-- The smaller or larger of two values (R262 COP 4 and 5, R69 code 3). [DEDUCED, log 179] -/
def pickForm (f : Form) (wantMax : Bool) (x y : Nat) : Nat :=
  match f with
  | .f32 => atomPick wantMax (x % 2 ^ 32) (y % 2 ^ 32)
  | .narrow t =>
    let a := decodeElem t false x
    let b := decodeElem t false y
    f.put (if a.isNan || b.isNan then nanOf t else if a.lt0 b = wantMax then y else x)
  | .b8 =>
    let a := x % 256 != 0
    let b := y % 256 != 0
    b2n (if wantMax then a || b else a && b)
  | .u8 => f.put (if (if wantMax then x % 256 < y % 256 else y % 256 < x % 256) then y else x)
  | _ =>
    let a := sInt f.width x
    let b := sInt f.width y
    f.put (if (if wantMax then a < b else b < a) then y else x)

/-- An operand of MULX or MULR as an exact value: under FMT its captured type, element 0 of an 8-bit one (R262). [DEDUCED, log 71] -/
def mulOperand (tp captured : Nat) (ftz : Bool) (x : Nat) : Fv :=
  match tp with
  | 6 => decodeElem captured ftz (x % 2 ^ (8 * typeBytes captured))
  | 2 => fp32.read ftz (x % 2 ^ 32)
  | _ => Fv.ofInt (sInt (fieldForm tp captured).width x)

/-- The exact product and NV when 0 × ∞ arises from operands that are no NaN (R262, R268). -/
def exactMul (x y : Fv) : Fv × BitVec 7 :=
  match Fv.mul x y with
  | some p => (p, 0)
  | none => (.nan, flagNV)

/-- The least significant bit of the four-lane window for an operand pair (R66); none outside its rows. -/
def windowLsb (a b : Nat) : Option Int :=
  match a, b with
  | 3, 3 => some (-18)
  | 3, 4 => some (-17)
  | 4, 3 => some (-17)
  | 4, 4 => some (-10)
  | 5, 5 => some (-24)
  | _, _ => if (a = 6 ∨ a = 7) ∧ (b = 6 ∨ b = 7) then some 0 else none

/-- The product of one lane (R263). -/
def laneProduct (a b : Nat) (ftz : Bool) (x y : Nat) : Option Fv :=
  if a = 5 then some (lnsProduct x y) else Fv.mul (decodeElem a ftz x) (decodeElem b ftz y)

/-- The window of the captured types, in the four-lane rows of R64 only (R263). -/
def fmtWindow (f : W32) : Option Int :=
  let int := fmtAT f == 6 || fmtAT f == 7
  if (if int then (fmtACC f == 9 && !fmtBSC f) || (fmtACC f == 0 && fmtBSC f) else fmtACC f == 0) then windowLsb (fmtAT f) (fmtBT f)
  else none

/-- One lane enters a window (R263). -/
def laneStep (a b : Nat) (ftz : Bool) (lsb : Int) (x y : Nat) : TVal → TVal
  | .window w nan inv pinf ninf scn sc l int =>
    match laneProduct a b ftz x y with
    | none => .window w true true pinf ninf scn sc l int
    | some .nan => .window w true inv pinf ninf scn sc l int
    | some (.inf n) => .window w nan inv (pinf || !n) (ninf || n) scn sc l int
    | some (.fin n m e) =>
      let q : Nat := if lsb ≤ e then m * 2 ^ (e - lsb).toNat else m / 2 ^ (lsb - e).toNat
      .window (if n then w - q else w + q) nan inv pinf ninf scn sc l int
  | t => t

/-- DOT4 (R263): INT8 and UINT8 under ACC INT32 sum exactly; types outside the four-lane rows give an empty window. Every element of a
block whose scale is 0xFF is a NaN (R55). -/
def dot4 (x : BeatCtx) (t : TVal) (wi ni : Nat) : TVal :=
  let a := fmtAT x.fmt
  let b := fmtBT x.fmt
  let bsc := fmtBSC x.fmt
  let int := fmtACC x.fmt == 9
  match fmtWindow x.fmt with
  | none => .empty
  | some lsb =>
    let sc : Int := if bsc then ((x.sa : Int) - 127) + ((x.sb : Int) - 127) else 0
    let bad := bsc && (x.sa == 255 || x.sb == 255)
    let start : TVal :=
      match (if bsc && !x.opens then t else .empty) with
      | .window w nan inv pinf ninf scn _ _ _ => .window w (nan || bad) inv pinf ninf (scn || bad) sc lsb int
      | _ => .window 0 bad false false false bad sc lsb int
    (List.range 4).foldl (fun (acc : TVal) q =>
      if !bad && bit x.lanes q then laneStep a b (fmtFTZ x.fmt) lsb (fld wi (8 * q + 7) (8 * q)) (fld ni (8 * q + 7) (8 * q)) acc
      else acc) start

/-- Whether a window has met 0 × ∞ (R263). -/
def TVal.inv : TVal → Bool
  | .window _ _ inv .. => inv
  | _ => false

/-- The wavefront step: the value and its candidate's number (R127, R264). -/
def wfStep (wantMax : Bool) (wi ni k0 : Nat) : Nat × Nat :=
  let sub := if fld wi 15 0 = fld ni 15 0 then fld k0 15 0 else fld k0 31 16
  let c := [satAdd 16 (fld wi 47 32) sub, satAdd 16 (fld ni 31 16) (fld k0 63 48), satAdd 16 (fld wi 31 16) (fld k0 47 32)]
  let better := fun (x y : Nat) => if wantMax then sInt 16 y < sInt 16 x else sInt 16 x < sInt 16 y
  (c.zipIdx).foldl (fun (acc : Nat × Nat) p => if better p.1 acc.1 then p else acc) (c.headD 0, 0)

/-- RSQ (R262): a value not above zero, −∞ and a NaN give the canonical NaN with NV. -/
def cellRsq (ftz : Bool) (x : Nat) : Nat × BitVec 7 :=
  let v := fp32.read ftz (x % 2 ^ 32)
  if v.isNan || v.neg || v.isZero then (fp32.nan, flagNV) else ((rsqrtLane ftz (x % 2 ^ 32)).1, 0)

/-- The combine part: the new T and its flags (R262). -/
def combine (x : BeatCtx) (cop tp : Nat) (a b : Nat) (t : TVal) (wi ni k0 : Nat) : TVal × BitVec 7 :=
  let f := fieldForm tp (fmtAT x.fmt)
  let ftz := fmtFTZ x.fmt
  let out := fun (v : Nat) => (TVal.bits (BitVec.ofNat 64 v), (0 : BitVec 7))
  let mul := exactMul (mulOperand tp (fmtAT x.fmt) ftz a) (mulOperand tp (fmtBT x.fmt) ftz b)
  match cop with
  | 0 => (t, 0)
  | 1 => out (f.put a)
  | 2 => out (f.join a (a + b))
  | 3 => out (f.join a (satAdd f.width (a % 2 ^ f.width) (b % 2 ^ f.width)))
  | 4 => out (pickForm f false a b)
  | 5 => out (pickForm f true a b)
  | 6 => out (if f = .b8 then b2n (a % 256 != 0 && b % 256 != 0) else Nat.land a b)
  | 7 => out (if f = .b8 then b2n (a % 256 != 0 || b % 256 != 0) else Nat.lor a b)
  | 8 => out (if f = .b8 then b2n ((a % 256 != 0) != (b % 256 != 0)) else Nat.xor a b)
  | 9 => if tp = 2 ∨ tp = 6 then (.prod mul.1, mul.2) else out (f.join a (a * b))
  | 10 =>
    match mul.1 with
    | .nan => (.bits (BitVec.ofNat 64 fp32.nan), mul.2)
    | v =>
      let r := v.toFmt fp32 (fmtRM x.fmt) ftz
      (.bits (BitVec.ofNat 64 r.1), r.2 &&& flagOF)
  | 11 =>
    let w := dot4 x t wi ni
    (w, if w.inv then flagNV else 0)
  | 12 => out (rcpLane ftz (a % 2 ^ 32)).1
  | 13 =>
    let r := cellRsq ftz a
    (.bits (BitVec.ofNat 64 r.1), r.2)
  | 14 => out (Form.i16.put (wfStep false wi ni k0).1)
  | 15 => out (Form.i16.put (wfStep true wi ni k0).1)
  | 16 =>
    let (v, i) := wfStep false wi ni k0
    out (Form.p16.put (i * 2 ^ 32 + v))
  | _ =>
    let (v, i) := wfStep true wi ni k0
    out (Form.p16.put (i * 2 ^ 32 + v))

/-! ## Accumulate (R265) -/

/-- P plus an exact value with one rounding; NV only when no operand is a NaN (R265, R268). -/
def addRound (x : BeatCtx) (p : Nat) (v : Fv) : Nat × BitVec 7 :=
  let a := fp32.read (fmtFTZ x.fmt) (p % 2 ^ 32)
  if a.isNan || v.isNan then (fp32.nan, 0)
  else
    match Fv.add (fmtRM x.fmt) a v with
    | none => (fp32.nan, flagNV)
    | some r =>
      let y := r.toFmt fp32 (fmtRM x.fmt) (fmtFTZ x.fmt)
      (y.1, y.2 &&& flagOF)

/-- WRND (R265); none writes nothing. A T that is no window counts as an empty one. [DEDUCED, log 80] -/
def wrnd (x : BeatCtx) (p : Nat) (t : TVal) : Option Nat × BitVec 7 :=
  if fmtBSC x.fmt && !x.closes then (none, 0)
  else
    match (match t with | .window .. => t | _ => TVal.empty) with
    | .window w nan inv pinf ninf scn sc lsb _ =>
      if fmtACC x.fmt = 9 then (some (Form.i32.put (ofInt 32 (sInt 32 p + w))), 0)
      else if nan || (pinf && ninf) then
        (some fp32.nan, (if scn then flagSN else 0) ||| (if inv || (pinf && ninf) then flagNV else 0))
      else
        let r := addRound x p (if pinf || ninf then .inf ninf else .fin (decide (w < 0)) w.natAbs (lsb + sc))
        (some r.1, r.2)
    | _ => (some p, 0)

/-- The ⊕ of codes 5 and 6 on pairs (R68). [DEDUCED, log 70] -/
def pairPick (wantMax : Bool) (w : Nat) (p t : Nat) : Nat :=
  let a := sInt w p
  let b := sInt w t
  let better := if wantMax then a < b else b < a
  let r := if better || (a == b && fld t 63 32 < fld p 63 32) then t else p
  (if w = 16 then Form.p16 else Form.p32).put r

/-- The accumulate part: R when it writes, and its flags (R265). -/
def accumulate (x : BeatCtx) (aop tp p : Nat) (t : TVal) : Option Nat × BitVec 7 :=
  let f := fieldForm tp (fmtACC x.fmt)
  let v := t.read
  match aop with
  | 1 => (some (f.put v), 0)
  | 2 =>
    let r := addRound x p (t.exact (fmtFTZ x.fmt))
    (some r.1, r.2)
  | 3 =>
    let r := addRound x p (t.exact (fmtFTZ x.fmt)).negate
    (some r.1, r.2)
  | 4 => (some (f.join p (p + v)), 0)
  | 5 => (some (f.join p (satAdd f.width (p % 2 ^ f.width) (v % 2 ^ f.width))), 0)
  | 6 => (some (pickForm f false p v), 0)
  | 7 => (some (pickForm f true p v), 0)
  | 8 => (some (b2n (p % 256 != 0 || v % 256 != 0)), 0)
  | 9 => (some (b2n (p % 256 != 0 && v % 256 != 0)), 0)
  | 10 => (some (pairPick true f.width p v), 0)
  | 11 => (some (pairPick false f.width p v), 0)
  | 12 => wrnd x p t
  | _ => (none, 0)

/-! ## Micro-bundles (R257, R260, R266, R267) -/

/-- The class of a cell (R118). [DEDUCED, log 78] -/
def cellClass (map i j : Nat) : Nat :=
  match map with
  | 0 => 0
  | 1 => if i = j then 1 else if i < j then 2 else 0
  | 2 => i % 2
  | _ => j % 2

/-- A source code's value (R261). -/
def microSrc (code wi ni c0 c1 t k0 k1 : Nat) : Nat := [wi, ni, c0, c1, t, k0, k1, 0].getD code 0

/-- A forward output (R267). -/
def forward (code : Nat) (east : Bool) (wi ni t c0 c1 r : Nat) : Nat :=
  match code with
  | 0 => if east then wi else ni
  | 1 => wi
  | 2 => ni
  | 3 => t
  | 4 => c0
  | 5 => c1
  | 6 => r
  | _ =>
    if east then fld ni 31 16 * 2 ^ 32 + r % 65536 * 2 ^ 16 + wi % 65536
    else r % 65536 * 2 ^ 16 + ni % 65536

/-- What a cell's step gives: the cell, its east and south outputs, its flags. -/
structure CellOut where
  cell : Cell
  east : Nat
  south : Nat
  flags : BitVec 7
deriving DecidableEq, Repr

/-- One micro-bundle of a cell of a class (R257 to R268). -/
def runMicro (g : KCfg) (cls : Nat) (x : BeatCtx) (c : Cell) (wi ni : Nat) : CellOut :=
  let u := g.ub.getD c.u 0
  let k0 := g.k0.getD cls 0
  let k1 := g.k1.getD cls 0
  let c0 := c.c0.toNat
  let c1 := c.c1.toNat
  let src := fun code c0 c1 => microSrc code wi ni c0 c1 c.t.read k0 k1
  let tp := fld u 36 34
  let (t1, fl1) := combine x (fld u 47 43) tp (src (fld u 42 40) c0 c1) (src (fld u 39 37) c0 c1) c.t wi ni k0
  let restart := bit u 22 && x.fresh
  let d0 := if restart then c1 else c0
  let d1 := if restart then k1 else c1
  let p := src (fld u 25 23) d0 d1
  let cond := match fld u 21 20 with | 0 => true | 1 => x.valid | _ => !x.valid
  let (res, fl2) := if cond then accumulate x (fld u 31 28) tp p t1 else (none, 0)
  let r := res.getD p
  let dst := fld u 27 26
  let e0 := if res.isSome && dst == 1 then r else d0
  let e1 := if res.isSome && dst == 0 then r else d1
  let sp := g.sp.getD cls 0
  let last := sp + g.lp.getD cls 1 - 1
  { cell := { c with
      c0 := BitVec.ofNat 64 e0
      c1 := BitVec.ofNat 64 e1
      t := t1
      u := if last ≤ c.u then sp else c.u + 1 }
    east := forward (fld u 15 13) true wi ni t1.read c0 c1 r
    south := forward (fld u 12 10) false wi ni t1.read c0 c1 r
    flags := fl1 ||| fl2 }

/-! ## The fixed datapath (R65 to R69, R119, R272) -/

/-- The ⊕ identity of a code as register bits (R69, R272). -/
def identity (code acc : Nat) : Nat :=
  let w := if acc = 8 then 16 else 32
  let top := 2 ^ (w - 1) - 1
  let bot := ofInt 64 (-(2 : Int) ^ (w - 1))
  match code with
  | 1 => top
  | 2 => bot
  | 3 => 0xFF800000
  | 5 => 0xFFFFFFFF * 2 ^ 32 + bot % 2 ^ 32
  | 6 => 0xFFFFFFFF * 2 ^ 32 + top
  | 7 => bot
  | _ => 0

/-- Whether a type pair runs four lanes (R64). -/
def fourLane (fmt : W32) (code : Nat) : Bool := code == 0 && (fmtWindow fmt).isSome

/-- The combine and accumulate parts that stand for a code: COP, TYPE, AOP (R272). -/
def stdOps (fmt : W32) (code : Nat) : Nat × Nat × Nat :=
  let wide := fmtACC fmt == 9
  let i := if wide then 1 else 0
  let p := if wide then 5 else 4
  match code with
  | 0 => if fourLane fmt 0 then (11, 6, 12) else if wide then (9, 1, 4) else (9, 6, 2)
  | 1 => (3, i, 6)
  | 2 => (3, i, 7)
  | 3 => (10, 6, 7)
  | 4 => (6, 3, 8)
  | 5 => (3, p, 10)
  | 6 => (3, p, 11)
  | _ => (4, i, 7)

/-- One step on an accumulator: the new window, the accumulator, the flags (R65, R66). -/
def fixedStep (x : BeatCtx) (code : Nat) (blk : TVal) (acc a b : Nat) : TVal × Nat × BitVec 7 :=
  let (cop, tp, aop) := stdOps x.fmt code
  let (t, f1) := combine x cop tp a b blk a b 0
  let (r, f2) := accumulate x aop tp acc t
  (t, r.getD acc, f1 ||| f2)

end Sys2Proof.Machine
end

