-- ==== Sys2Proof/Machine/KlnCmd.lean ====
section
/-! DEFINITION. The Kiln commands at issue: what configuration and rings they will meet, their checks, their entry (R120 to R141,
R279 to R289, R294). -/

namespace Sys2Proof.Machine

/-- Change the Kiln of the core in focus. -/
def State.onKiln (s : State) (f : Kiln → Kiln) : State := s.onEng fun e => { e with kiln := f e.kiln }

/-- The Kiln of the core in focus. -/
def State.kiln (s : State) : Kiln := s.core.eng.kiln

/-! ## What a command will meet (R132, R279, R285) -/

/-- A shadow write takes effect (R279 to R281). -/
def ShadowAct.apply (a : ShadowAct) (g : KCfg) : KCfg :=
  match a with
  | .block sp lp k0 k1 map ub => { g with sp := sp, lp := lp, k0 := k0, k1 := k1, map := map, ub := ub }
  | .flow fl sk c => { g with flow := fl, skews := sk, c := c }
  | .consts mask k0 k1 => { g with
      k0 := g.k0.mapIdx fun p v => if bit mask p then k0 else v
      k1 := g.k1.mapIdx fun p v => if bit mask p then k1 else v }

/-- The shadow as it stands at a cycle, from the writes issued so far, in the order of their completion (R132). [DEDUCED, log 42] -/
def Kiln.shadowAt (k : Kiln) (t : Nat) : KCfg :=
  (sortBy (fun (a b : ShadowWrite) => a.done ≤ b.done) (k.writes.filter fun w => w.done ≤ t)).foldl (fun g w => w.act.apply g) k.shadow

/-- The configuration a token carries: fixed once injected, else the shadow as it will stand at W. -/
def Kiln.tokenCfg (k : Kiln) (x : Token) : KCfg :=
  match x.cfg with
  | some n => k.cfgs.getD n .zero
  | none => k.shadowAt x.w

/-- The configuration a quadrant, or the whole array, runs under at a cycle (R132, R285). [DEDUCED, log 84] -/
def Kiln.activeAt (k : Kiln) (quad : Option Nat) (t : Nat) : KCfg :=
  let best := k.tokens.foldl (fun (b : Option Token) x =>
    if x.w ≤ t ∧ (x.quad.isNone ∨ x.quad = quad) ∧ b.elim true (fun y => y.w ≤ x.w) then some x else b) none
  match best with
  | some x => k.tokenCfg x
  | none => k.cfgs.getD (k.quadCfg.getD (quad.getD 0) 0) .zero

/-- A ring as it will stand at a cycle (R285, R288). -/
def Core.ringAt (c : Core) (n t : Nat) : Ring :=
  (c.eng.kiln.krings.foldl (fun (b : Nat × Ring) x => if x.n = n ∧ b.1 ≤ x.start ∧ x.start ≤ t then (x.start, x.ring) else b) (0, c.ring n)).2

/-- The cycle from which the times of a pass count (R122, R137). -/
def Pass.base (p : Pass) : Nat := p.start + p.c + p.lb

/-- The cycle in which a pass retires (R123). -/
def Pass.retire (p : Pass) : Nat := p.base + p.s * p.beatN

/-- Whether the reads and the retirement of a pass wait for its table's skews: never (R122). [DEDUCED, log 73] -/
def Pass.skewed (p : Pass) : Bool := p.skews.isSome

/-- Whether a pass that has not retired by a cycle names a ring (R288, R289). -/
def Kiln.ringBusy (k : Kiln) (n t : Nat) : Bool := k.passes.any fun p => t < p.retire && p.roles.any fun r => r.ring == n

/-- Commands issued and not started (R278). -/
def Kiln.pending (k : Kiln) (t : Nat) : Nat :=
  (k.writes.filter fun x => t < x.start).length + (k.tokens.filter fun x => t < x.w).length +
  (k.passes.filter fun x => t < x.start).length + (k.drains.filter fun x => t < x.start).length +
  (k.zeros.filter fun x => t < x.start).length + (k.krings.filter fun x => t < x.start).length

/-- Room in the Kiln's queue (R278). -/
def Core.klnRoom (c : Core) : Bool := c.eng.kiln.pending c.tcc < 8

/-- A Kiln trigger (R58). [DEDUCED, log 90] -/
def klnTrigger (m : Move) (s : State) (body : W64 → Except Exc State) : Out := scalarFmtTrigger 9 m s body

/-- The last two steps of R276 for a command without global ranges. -/
def State.klnCommit (s : State) (d : Desc) : Except Exc State := do
  let _ ← s.commitChecks [] [] (descStart d) s.core.klnRoom
  return s.onEng fun e => { e with nid := e.nid + 1 }

/-! ## Shadow writes and tokens (R132, R279 to R282) -/

/-- KLN_SHADOW_BUSY: a write may not complete while a token runs through the array (R132). [DEDUCED, log 83] -/
def Kiln.shadowBusy (k : Kiln) (done : Nat) : Bool := k.tokens.any fun x => x.w ≤ done && done ≤ x.w + 129

/-- A checked shadow write enters. -/
def State.enterShadow (s : State) (d : Desc) (lat : Nat) (a : ShadowAct) : Except Exc State := do
  let st := s.core.startTcc d
  must (!s.kiln.shadowBusy (st + lat)) (.of .klnShadowBusy)
  let s1 ← s.klnCommit d
  return s1.onKiln fun k => { k with writes := k.writes ++ [⟨s.core.eng.nid, st, st + lat, a⟩] }

/-- What a program block may not hold (R270). -/
def blockBad (hdr : Nat) (ub : List Nat) (tail : Nat) : Bool :=
  fld hdr 63 34 != 0 || tail != 0 ||
  (List.range 4).any (fun p => 16 < fld hdr (8 * p + 3) (8 * p) + fld hdr (8 * p + 7) (8 * p + 4) + 1) ||
  ub.any fun u =>
    fld u 33 32 != 0 || fld u 19 16 != 0 || fld u 9 0 != 0 || 17 < fld u 47 43 || fld u 36 34 == 7 || 12 < fld u 31 28 ||
    fld u 27 26 == 3 || fld u 21 20 == 3

/-- kcfg (R269, R270, R279). -/
def execKcfg (m : Move) (s : State) : Out :=
  klnTrigger m s fun t => do
    let (s1, d) ← s.readDesc 9 8 t [2 ^ 18 - 1, 0, 0, 0, 0, 0, 0]
    let off := dword d 1
    must (off % 16 == 0 && off ≤ 262144 - 176) (.of .engDesc)
    let w := fun a n => rdLE s.core.imem (off + a) n
    let hdr := w 0 8
    let ub := (List.range 16).map fun e => w (72 + 6 * e) 6
    must (!blockBad hdr ub (w 168 8)) (.of .cellprogBad)
    s1.enterShadow d 16
      (.block ((List.range 4).map fun p => fld hdr (8 * p + 3) (8 * p)) ((List.range 4).map fun p => fld hdr (8 * p + 7) (8 * p + 4) + 1)
        ((List.range 4).map fun p => w (8 + 16 * p) 8) ((List.range 4).map fun p => w (16 + 16 * p) 8) (fld hdr 33 32) ub)

/-- kflow (R122, R124, R280). -/
def execKflow (m : Move) (s : State) : Out :=
  klnTrigger m s fun t => do
    let (s1, d) ← s.readDesc 9 9 t [0xFFFFFF0FFF, 0, 0, 0, 0, 0, 0]
    let w := dword d 1
    let skt := bit w 4
    let off := fld w 39 16
    must (!skt || s.core.task.spOk off 128) (memExc .footprint (spBase + off))
    must (fld w 11 5 ≤ 64 && !(skt && fld w 11 5 != 0) && (skt || off == 0) && off % 64 == 0) (.of .engDesc)
    if skt then do
      s1.copyCheck 0 [(off, 128)]
      let s2 ← s1.book 9 0 0 false [off, off + 64]
      let table := (rdBytes s.core.sp off 128).map BitVec.toNat
      must (table.all fun b => b < 128) (.of .engDesc)
      must (fld w 3 0 ≤ 4) (.of .flowBad)
      s2.enterShadow d 4 (.flow (fld w 3 0) (some table) 0)
    else do
      must (fld w 3 0 ≤ 4) (.of .flowBad)
      s1.enterShadow d 4 (.flow (fld w 3 0) none (fld w 11 5))

/-- ksel (R281). -/
def execKsel (m : Move) (s : State) : Out :=
  klnTrigger m s fun t => do
    let (s1, d) ← s.readDesc 9 14 t [15, 2 ^ 64 - 1, 2 ^ 64 - 1, 0, 0, 0, 0]
    must (dword d 1 != 0) (.of .engDesc)
    s1.enterShadow d 4 (.consts (dword d 1) (dword d 2) (dword d 3))

/-- The rule for QEN and QUAD (R282, R287). -/
def quadBad (qen : Bool) (quad : Nat) (split : Bool) : Bool := if qen then !split else quad != 0

/-- kswitch (R130, R132, R282). [DEDUCED, log 83] -/
def execKswitch (m : Move) (s : State) : Out :=
  klnTrigger m s fun t => do
    let (s1, d) ← s.readDesc 9 10 t [7, 0, 0, 0, 0, 0, 0]
    let w := s.core.startTcc d
    let qen := bit (dword d 1) 2
    let quad := fld (dword d 1) 1 0
    let k := s.kiln
    let now := k.activeAt (if qen then some quad else none) w
    let next := k.shadowAt w
    must (!quadBad qen quad (now.flow == 4 && next.flow == 4)) (.of .klnQuad)
    must (!(k.writes.any fun x => w < x.done && x.act.isLoad)) (.of .klnShadow)
    must (!((now.flow == 4) != (next.flow == 4) && k.passes.any fun p => p.start < w && w < p.retire)) (.of .klnFlowBusy)
    let s2 ← s1.klnCommit d
    return s2.onKiln fun k => { k with tokens := k.tokens ++ [⟨s.core.eng.nid, w, if qen then some quad else none, none⟩] }

/-! ## Rings (R288, R289) -/

/-- Whether a copy's destination is a ring. -/
def Copy.fills (c : Copy) (n : Nat) : Bool :=
  match c.dst with
  | .ring r _ => r == n
  | .addr _ _ => false

/-- kring (R82, R288). That a copy is unfinished at the START is judged, at issue, by the cycle in which its last unit is promised (R292).
[DEDUCED, log 82] -/
def execKring (m : Move) (s : State) : Out :=
  klnTrigger m s fun t => do
    let (s1, d) ← s.readDesc 9 15 t [2 ^ 48 - 1, 0, 0, 0, 0, 0, 0]
    let w := dword d 1
    let n := fld w 2 0
    let st := s.core.startTcc d
    let tile := fld w 15 6 + 1
    let slots := fld w 23 16 + 1
    let base := fld w 47 24
    must (fld w 5 4 != 3 && base % 64 == 0) (.of .engDesc)
    must (!bit w 3 || s.core.task.spOk base (slots * tile * 64)) (memExc .footprint (spBase + base))
    must (!(s.kiln.ringBusy n st || s.core.eng.copies.any fun c => c.fills n && c.written < c.count && st < c.lastBound (coreDie s.focus))) (.of .ringBusy)
    let s2 ← s1.klnCommit d
    let r : Ring := if bit w 3 then { Ring.none with v := true, feed := fld w 5 4, tileU := tile, slots := slots, base := base } else .none
    return s2.onKiln fun k => { k with krings := k.krings ++ [⟨s.core.eng.nid, st, n, r⟩] }

/-- kpop: HEAD moves on from the next cycle (R289). [DEDUCED, log 90] -/
def execKpop (m : Move) (s : State) : Out :=
  klnTrigger m s fun t => do
    let v := t.toNat
    let n := fld v 2 0
    let cnt := fld v 24 16
    let r := s.core.ring n
    must (v == cnt * 65536 + n && 1 ≤ cnt && cnt ≤ 256 && r.v) (.of .kpopBad)
    must (cnt ≤ (r.tail - r.head).toNat) (.of .ringPtr)
    must (!s.kiln.ringBusy n s.core.tcc) (.of .ringBusy)
    s.issue1 9 1 (.ringHead (BitVec.ofNat 3 n) cnt)

/-! ## kzero and kdrain (R286, R287) -/

/-- A checked kzero for a start cycle: its entry. -/
def State.kzeroOf (s : State) (d : Desc) (st : Nat) : Except Exc (State → State) := do
  let w := dword d 1
  let qen := bit w 5
  let quad := fld w 4 3
  must (!quadBad qen quad ((s.kiln.activeAt none st).flow == 4)) (.of .klnQuad)
  return fun s1 => s1.onKiln fun k => { k with zeros := k.zeros ++ [⟨s1.core.eng.nid, st, fld w 2 0, if qen then some quad else none⟩] }

/-- The bytes of a drained element (R286). -/
def drainBytes (dt : Nat) : Nat := if dt = 15 then 8 else typeBytes dt

/-- A checked kdrain for a start cycle: its entry (R286). -/
def State.kdrainOf (s : State) (d : Desc) (st : Nat) : Except Exc (State → State) := do
  let w := dword d 1
  let split := (s.kiln.activeAt none st).flow == 4
  let quad := fld w 3 2
  let sty := fld w 11 8
  let dt := fld w 15 12
  let off := fld w 39 16
  let rstr := fld w 55 40
  let n := if split then 32 else 64
  must ((sty == 0 && dt ≤ 5) || ([8, 9, 10, 15].contains sty && dt == sty)) (.of .drainType)
  must (split || quad == 0) (.of .klnQuad)
  let row := n * drainBytes dt
  must (off % 64 == 0 && rstr % 64 == 0 && row ≤ rstr) (.of .engDesc)
  let acc := bit w 1
  must ((List.range n).all fun i =>
    if acc then s.core.task.accOk (off + i * rstr) row else s.core.task.spOk (off + i * rstr) row)
    (memExc .footprint ((if acc then accBase else spBase) + off))
  return fun s1 => s1.onKiln fun k => { k with drains := k.drains ++
    [⟨s1.core.eng.nid, st, bit w 0, acc, if split then some quad else none, sty, dt, off, rstr, s.core.fmt, s.core.here 9, []⟩] }

/-- The masks of the three commands a cpyf may carry (R283, R286, R287). -/
def kstartMasks : List Nat := [2 ^ 55 - 1, 0xC7C7C7C7C7C7C7C7, 2 ^ 64 - 1, 2 ^ 64 - 1, 2 ^ 36 - 1, 0, 0]
def kdrainMasks : List Nat := [2 ^ 56 - 1 - 0xF0, 0, 0, 0, 0, 0, 0]
def kzeroMasks : List Nat := [0x3F, 0, 0, 0, 0, 0, 0]

/-- kzero (R287). -/
def execKzero (m : Move) (s : State) : Out :=
  klnTrigger m s fun t => do
    let (s1, d) ← s.readDesc 9 13 t kzeroMasks
    let enter ← s1.kzeroOf d (s.core.startTcc d)
    let s2 ← s1.klnCommit d
    return enter s2

/-- kdrain (R286). -/
def execKdrain (m : Move) (s : State) : Out :=
  klnTrigger m s fun t => do
    let (s1, d) ← s.readDesc 9 12 t kdrainMasks
    let enter ← s1.kdrainOf d (s.core.startTcc d)
    let s2 ← s1.klnCommit d
    return enter s2

/-! ## kstart (R120 to R141, R283 to R285) -/

/-- The combinations of R64. -/
def fmtCombo (f : W32) (code : Nat) : Bool :=
  let a := fmtAT f
  let b := fmtBT f
  let c := fmtACC f
  let bsc := fmtBSC f
  let isB := fun x => x == 1 || x == 2
  let is8 := fun x => x == 3 || x == 4
  let isI := fun x => x == 6 || x == 7
  if 8 ≤ code then !bsc
  else
    ((code == 0 || code == 3) && !bsc && c == 0 && ((a == 0 && b == 0) || (isB a && isB b))) ||
    (code == 0 && c == 0 && ((is8 a && is8 b) || (a == 5 && b == 5))) ||
    (code == 0 && isI a && isI b && ((c == 9 && !bsc) || (c == 0 && bsc))) ||
    (!bsc && a == 8 && b == 8 && c == 8 && [1, 2, 5, 6, 7].contains code) ||
    (!bsc && a == 9 && b == 9 && c == 9 && [0, 1, 2, 5, 6, 7].contains code) ||
    (!bsc && a == 10 && b == 10 && c == 10 && code == 4)

/-- The beat period (R120). -/
def beatPeriod (f : W32) (code : Nat) : Nat :=
  if 8 ≤ code then 1 else if fmtAT f = 0 then 4 else if fmtAT f = 9 then 2 else 1

/-- The flows' semiring codes (R124, R126, R135). -/
def flowTakes (flow code : Nat) (f : W32) : Bool :=
  match flow with
  | 1 => code != 3
  | 2 => (([1, 2, 5, 6].contains code) && fmtAT f == 8) || 8 ≤ code
  | 3 => code == 0 && fmtAT f == 0
  | _ => true

/-- W and P of a select pattern (R133). -/
def selPattern (sel : Nat) : Nat × Nat := if sel = 1 then (4, 2) else if sel = 2 then (4, 1) else if sel = 3 then (8, 1) else (1, 1)

/-- Whether a dense edge delivers four lanes a beat: a condensed pass runs one product (R120, R136). -/
def Pass.lanes (p : Pass) : Nat := if p.cnd then 1 else p.nl

/-- Rows and columns of the pass's cells (R130). -/
def Pass.side (p : Pass) : Nat := if p.quad.isSome then 32 else 64

/-- Widths of the A and B elements, and of an accumulator word. -/
def Pass.wA (p : Pass) : Nat := typeBytes (fmtAT p.fmt)
def Pass.wB (p : Pass) : Nat := typeBytes (fmtBT p.fmt)
def Pass.wC (p : Pass) : Nat := typeBytes (fmtACC p.fmt)

/-- Bytes per unit of a role's stream (R284). -/
def Pass.unitBytes (p : Pass) (r : Nat) : Nat :=
  match r with
  | 0 => if p.flow = 2 then 512 else if p.flow = 3 then 256 else p.side * p.wA * p.lanes
  | 1 => if p.flow = 2 then 256 else p.side * p.wB * p.lanes
  | 2 => p.side
  | 3 => p.side
  | 6 => 1024
  | 7 => 256
  | _ => if p.code = 5 ∨ p.code = 6 then 512 else 128

/-- Blocks of 32 of a block-scaled pass; under WS the reduction runs down 64 rows of four lanes (R54, R65). -/
def Pass.blocks (p : Pass) : Nat := if p.flow = 1 then 8 else (p.ext + 31) / 32

/-- The roles a pass uses, each with its stream's length in bytes where its extent gives one (R133, R136, R284). -/
def Pass.needs (p : Pass) : List (Nat × Nat) :=
  let (w, q) := selPattern p.sel
  let scales := if fmtBSC p.fmt then [(2, p.blocks * p.side), (3, p.blocks * p.side)] else []
  match p.flow with
  | 1 => (if p.pre then [(1, 64 * p.unitBytes 1)] else [(0, p.ext * p.unitBytes 0)]) ++ scales
  | 2 =>
    [(0, p.beatN * 512), (1, p.beatN * 256), (4, p.beatN * p.unitBytes 4), (5, p.beatN * p.unitBytes 5)] ++
    (if p.dirs then [(6, p.beatN * 1024)] else [])
  | 3 => (0, p.beatN * 256) :: (if 2 ≤ p.trim then [(7, p.ext * 256)] else [])
  | _ =>
    if p.cnd then
      [(1, p.ext / w * q * p.unitBytes 1)] ++ scales ++ [(4, 8 * p.ext), (5, 0), (6, 8 * p.beatN)]
    else
      [(0, (p.ext + p.nl - 1) / p.nl * p.unitBytes 0), (1, p.beatN * p.unitBytes 1)] ++ scales

/-- Whether a role of a pass is an output (R284). -/
def Pass.isOut (p : Pass) (r : Nat) : Bool := r == 7 || (p.flow == 2 && 4 ≤ r)

/-- Roles marked USED, as the descriptor gives them (R283). -/
def descRoles (d : Desc) : List Role :=
  (List.range 8).filterMap fun r =>
    let b := fld (dword d 2) (8 * r + 7) (8 * r)
    if bit b 7 then some ⟨r, fld b 2 0, fld (dword d 3) (8 * r + 7) (8 * r) + 1, bit b 6, none⟩ else none

/-- The tiles that passes not finished have yet to produce in a ring (R284). -/
def Kiln.owed (k : Kiln) (n : Nat) : Nat :=
  (k.passes.map fun p => ((p.roles.filter fun r => r.ring == n && p.isOut r.r).map (·.tiles)).sum).sum

/-- The rules of one used role (R82, R84, R284). -/
def State.roleBad (s : State) (p : Pass) (len : Nat) (r : Role) : Option Cause :=
  let g := s.core.ringAt r.ring p.start
  if !g.v then some .ringUndef
  else if r.tiles * g.tileU * 64 < len || g.slots < r.tiles then some .ringSize
  else if p.isOut r.r then
    (if g.feed != 0 then some .ringFeed
     else if g.slots < (g.tail - g.head).toNat + s.kiln.owed r.ring + r.tiles then some .ringFull
     else none)
  else none

/-- The rules of the roles (R284). -/
def State.rolesBad (s : State) (p : Pass) : Option Cause :=
  let need := p.needs
  if !(p.roles.all fun r => need.any fun q => q.1 == r.r) || !(need.all fun q => p.roles.any fun r => r.r == q.1) then some .roleBad
  else p.roles.findSome? fun r => s.roleBad p ((need.lookup r.r).getD 0) r

/-- Fields used where the flow does not take them (R285). -/
def passFieldsBad (p : Pass) (d : Desc) : Bool :=
  let os := p.flow == 0 || p.flow == 4
  (p.accum && (p.flow != 1 || p.pre)) || (p.dirs && !(p.flow == 2 && (p.code == 5 || p.code == 6))) || (p.pre && p.flow != 1) ||
  (p.sel != 0 && !os) || (p.cnd && !os) || (p.flow != 3 && fld (dword d 1) 36 13 != 0)

/-- Words 4 and 5, and extents, that the descriptor's table does not allow (R275, R283). -/
def passArgBad (p : Pass) (d : Desc) : Bool :=
  (p.sel == 0 && dword d 5 != 0) ||
  (match p.flow with
    | 1 => p.arg % 64 != 0 || fld p.arg 31 23 != 0 || fld p.arg 63 48 != 0 || fld p.arg 47 32 % 64 != 0 || (p.pre && p.ext != 64)
    | 2 => false
    | 3 => (if p.trim = 1 then fld p.arg 63 32 != 0 else p.arg != 0) || (p.trim == 0 && p.ext != 1) || (2 ≤ p.trim && p.q != 1)
    | _ => p.arg != 0)

/-- The beat count (R120, R133, R136, R283). A condensed pass has a beat for every entry of its declared map tiles. [DEDUCED, log 74] -/
def State.beatsOf (s : State) (p : Pass) : Nat :=
  let (w, q) := selPattern p.sel
  match p.flow with
  | 1 => if p.pre then 64 else p.ext
  | 2 => p.ext
  | 3 => if p.trim = 0 then p.q * p.n else if p.trim = 1 then p.q * (p.ext + p.n) else p.ext
  | _ =>
    if p.cnd then
      match p.roles.find? fun r => r.r == 6 with
      | some r => r.tiles * (s.core.ringAt r.ring p.start).tileU * 8
      | none => 1
    else (p.ext / w * q + p.nl - 1) / p.nl

/-- The configuration that a pass for a quadrant meets at a cycle (R285). -/
def Kiln.metAt (k : Kiln) (quad st : Nat) : KCfg :=
  let g := k.activeAt none st
  if g.flow = 4 then k.activeAt (some quad) st else g

/-- Whether the resident programs are those of R273 for the sub-mode: entry words, lengths. [DESIGN CHOICE, log 86] -/
def triStandard (g : KCfg) (trim : Nat) : Bool :=
  let entry := fun (cls e : Nat) => g.ub.getD (g.sp.getD cls 0 + e) 0
  let idle := fun (cls e : Nat) => entry cls e == 0
  g.map == 1 && g.lp.getD 0 1 == 4 && g.lp.getD 1 1 == 4 &&
  entry 0 0 == 0x4B283800C800 && idle 0 1 && idle 0 2 && idle 0 3 &&
  (if trim ≤ 1 then entry 1 0 == 0x680814006C00 && entry 1 1 == 0x504810000000 else entry 1 0 == 0x504808006C00 && idle 1 1) &&
  idle 1 2 && idle 1 3

/-- A pass under the configuration it meets at its START: flow, skews, beats, and under TRI its programs (R119, R120, R122, R132).
[DEDUCED, log 84] -/
def State.underCfg (s : State) (p : Pass) (quad : Nat) : Pass :=
  let g := s.kiln.metAt quad p.start
  let p1 := { p with
    quad := if g.flow = 4 then some quad else none, flow := g.flow, skews := g.skews, c := if g.skews.isSome then 0 else g.c
    s := if g.flow = 1 && p.pre then 1 else beatPeriod p.fmt p.code, lb := if p.cnd then (8 * p.ext + 63) / 64 else 0
    std := g.flow = 3 && triStandard g p.trim }
  { p1 with beatN := s.beatsOf p1 }

/-- A pass as its descriptor gives it, for a start cycle. -/
def State.mkPass (s : State) (d : Desc) (st : Nat) : Pass :=
  let w := dword d 1
  let code := fld w 3 0
  s.underCfg
    { id := s.core.eng.nid, start := st, code := code, fresh := bit w 4, accum := bit w 5, dirs := bit w 6, pre := bit w 7,
      quad := none, sel := fld w 11 10, cnd := bit w 12, trim := fld w 14 13, n := fld w 20 15 + 1,
      q := fld w 36 21 + 1, ext := fld w 54 37 + 1, roles := descRoles d, arg := dword d 4, selOff := fld (dword d 5) 17 0,
      selLen := fld (dword d 5) 35 18, fmt := s.core.fmt, flow := 0, skews := none, c := 0, s := 1,
      nl := if fourLane s.core.fmt code then 4 else 1, beatN := 0, lb := 0,
      org := s.core.here 9, edges := [], bitmap := [], values := [], blkNext := 0, ended := false, rowsIn := [], outs := [], flags := 0, zeroed := none
      std := false, held := [] }
    (fld w 9 8)

/-- The end of the latest pass that a pass follows (R123, R130). [DEDUCED, log 87] -/
def Kiln.lastEnd (k : Kiln) (quad : Option Nat) : Nat :=
  match quad with
  | some q => k.ends.getD q 0
  | none => k.ends.foldl max 0

/-- The ends when a pass has been issued (R123, R130). [DEDUCED, log 87] -/
def Kiln.endsAfter (k : Kiln) (p : Pass) : List Nat :=
  match p.quad with
  | some q => k.ends.set q p.retire
  | none => k.ends.map fun _ => p.retire

/-- The words of a WS stream pass (R126, R284). -/
def Pass.wordOff (p : Pass) (m j : Nat) : Nat := fld p.arg 22 0 + m * fld p.arg 47 32 + j * p.wC

/-- The pass's checks in the order of R276: its descriptor, KLN_BEATS of R283, the roles and words of R284, then R285, the causes of R141 in
their order before its own two. [DEDUCED, log 87; DEDUCED, log 88] -/
def State.passBad (s : State) (d : Desc) (p : Pass) : Option Exc :=
  let (w, _) := selPattern p.sel
  let g := s.kiln.activeAt p.quad p.start
  if passArgBad p d then some (.of .engDesc)
  else if p.beatN = 0 || 65536 < p.beatN then some (.of .klnBeats)
  else
    match s.rolesBad p with
    | some c => some (.of c)
    | none =>
      if p.flow == 1 && !p.pre && !((List.range p.ext).all fun m => s.core.task.accOk (p.wordOff m 0) (64 * p.wC)) then
        some (memExc .footprint (accBase + p.wordOff 0 0))
      else if !fmtCombo p.fmt p.code then some (.of .fmtCombo)
      else if !flowTakes p.flow p.code p.fmt || ((p.sel != 0 || p.cnd) && p.code == 3) then some (.of .flowCode)
      else if p.skewed && p.code < 8 then some (.of .flowSkew)
      else if p.flow == 3 && g.map != 1 then some (.of .flowMap)
      else if p.base < s.kiln.lastEnd p.quad then some (.of .klnOverlap)
      else if p.sel != 0 && !(p.selOff % 16 == 0 && p.selLen % 16 == 0 && p.selOff + p.selLen ≤ s.core.task.imageLen) then some (.of .selectRange)
      else if p.sel != 0 && p.ext % w != 0 then some (.of .selectK)
      else if p.cnd && (1024 < p.ext || 32768 < ((p.roles.filter fun r => r.r == 5).map fun r =>
          r.tiles * (s.core.ringAt r.ring p.start).tileU * 64).sum) then some (.of .brqSize)
      else if p.flow != 4 && fld (dword d 1) 9 8 != 0 then some (.of .klnQuad)
      else if passFieldsBad p d then some (.of .engDesc)
      else none

/-- A checked kstart for a start cycle: its entry. -/
def State.kstartOf (s : State) (d : Desc) (st : Nat) : Except Exc (State → State) := do
  let p := s.mkPass d st
  match s.passBad d p with
  | some e => .error e
  | none =>
    return fun s1 => s1.onKiln fun k => { k with
      passes := k.passes ++ [{ p with id := s1.core.eng.nid }]
      ends := k.endsAfter p }

/-- kstart (R283). -/
def execKstart (m : Move) (s : State) : Out :=
  klnTrigger m s fun t => do
    let (s1, d) ← s.readDesc 9 11 t kstartMasks
    let enter ← s1.kstartOf d (s.core.startTcc d)
    let s2 ← s1.klnCommit d
    return enter s2

/-! ## cpyf (R294) -/

/-- The follow-on command of a cpyf: read and checked with the start cycle F, START 0 (R294). -/
def State.followOf (s : State) (off : Nat) (f : Nat) : Except Exc (State → State) := do
  must (off % 64 == 0) (.of .engDesc)
  must (s.core.task.spOk off 64) (memExc .footprint (spBase + off))
  s.copyCheck 0 [(off, 64)]
  let d := descAt s.core.sp off
  let tag := fld (dword d 0) 7 0
  must ([11, 12, 13].contains tag && dword d 0 == tag) (.of .engDesc)
  must (maskOk d (if tag = 11 then kstartMasks else if tag = 12 then kdrainMasks else kzeroMasks)) (.of .engDesc)
  if tag = 11 then s.kstartOf d f else if tag = 12 then s.kdrainOf d f else s.kzeroOf d f

/-- The translations on which the bound of a copy's last unit rests: held ones, or what the page tables give (R292, R294). [DEDUCED, log 82] -/
def State.lastLeaves (s : State) (c : Copy) : List Leaf :=
  (c.srcPieces (c.count - 1)).filterMap fun p =>
    if regionOf p.1 != .global then none
    else ((s.core.tlb ++ s.core.heldLeaves).find? fun l => l.serves s.core.task.asid p.1 true false).orElse fun _ =>
      (s.walkPage s.core.task.asid p.1 true false).toOption

/-- cpyf (R290, R294). -/
def execCpyf (m : Move) (s : State) : Out :=
  scalarFmtTrigger 10 m s fun t => do
    let (s1, d) ← s.readDesc 10 10 t copyMasks
    let c ← s1.copyOf d (dword d 5 == 0) true
    let s2 ← s1.book 10 0 0 false [dword d 6]
    let f := { c with leaves := s.lastLeaves c }.lastBound (coreDie s.focus)
    s2.copyIssue d c (do
      let enter ← s2.followOf (dword d 6) f
      return (s.core.klnRoom, some f, fun st => enter (st.onEng fun e => { e with nid := e.nid + 1 })))

end Sys2Proof.Machine
end

