-- ==== Sys2Proof/Machine/Alu.lean ====
section
/-! DEFINITION. ALU0 and ALU1 (R195 to R200). -/

namespace Sys2Proof.Machine

/-- The shift count t[5:0] (R199). -/
def sh6 (t : W64) : Nat := (t.extractLsb' 0 6).toNat

/-- An ALU result on a, b and t, with latency 1 (R195, R199). -/
def aluOp (u : BitVec 1) (m : Move) (s : State) (f : W64 → W64 → W64 → W64) : Out :=
  scalarTrigger u.toNat m s fun t => s.result u.toNat 1 (f (s.core.port u.toNat 1) (s.core.port u.toNat 2) t)

/-- a[sh:0] sign-extended from bit sh (R199). -/
def sextFrom (a : W64) (sh : Nat) : W64 := (a <<< (63 - sh)).sshiftRight (63 - sh)

/-- a[sh:0] with zeros above (R199). -/
def zextFrom (a : W64) (sh : Nat) : W64 := (a <<< (63 - sh)) >>> (63 - sh)

/-- The leading zero bits of t, 0..64 (R199). -/
def clz64 (t : W64) : W64 := if t = 0 then 64 else BitVec.ofNat 64 (63 - t.toNat.log2)

/-- The set bits among the low n (R199). -/
def popcount (t : Nat) : Nat → Nat
  | 0 => 0
  | n + 1 => b2n (bit t n) + popcount t n

/-- The field mask of w bits (R200). -/
def fieldMask (w : Nat) : W64 := BitVec.ofNat 64 (2 ^ w - 1)

/-- The width of a bfx or bfi descriptor (R200). -/
def fieldWidth (t : W64) : Nat := (t.extractLsb' 6 6).toNat + 1

/-- Extract a field; bits beyond 63 read as 0 (R200). -/
def bfxOf (a t : W64) : W64 := (a >>> sh6 t) &&& fieldMask (fieldWidth t)

/-- Insert a field; bits of b that do not fit are dropped (R200). -/
def bfiOf (a b t : W64) : W64 :=
  let mask := fieldMask (fieldWidth t) <<< sh6 t
  (a &&& ~~~mask) ||| ((b <<< sh6 t) &&& mask)

/-- A signed integer clamped to 64 bits (R199). -/
def clamp64 (x : Int) : W64 := BitVec.ofInt 64 (clampInt (-(2 ^ 63)) (2 ^ 63 - 1) x).1

/-- A 32-bit result sign-extended (R199). -/
def sext32 (x : W32) : W64 := x.signExtend 64

/-- mov (R199). -/
def execMov (u : BitVec 1) (m : Move) (s : State) : Out := aluOp u m s fun _ _ t => t

/-- add (R199). -/
def execAdd (u : BitVec 1) (m : Move) (s : State) : Out := aluOp u m s fun a _ t => a + t

/-- sub (R199). -/
def execSub (u : BitVec 1) (m : Move) (s : State) : Out := aluOp u m s fun a _ t => a - t

/-- and (R199). -/
def execAnd (u : BitVec 1) (m : Move) (s : State) : Out := aluOp u m s fun a _ t => a &&& t

/-- or (R199). -/
def execOr (u : BitVec 1) (m : Move) (s : State) : Out := aluOp u m s fun a _ t => a ||| t

/-- xor (R199). -/
def execXor (u : BitVec 1) (m : Move) (s : State) : Out := aluOp u m s fun a _ t => a ^^^ t

/-- andn (R199). -/
def execAndn (u : BitVec 1) (m : Move) (s : State) : Out := aluOp u m s fun a _ t => a &&& ~~~t

/-- shl (R199). -/
def execShl (u : BitVec 1) (m : Move) (s : State) : Out := aluOp u m s fun a _ t => a <<< sh6 t

/-- shr (R199). -/
def execShr (u : BitVec 1) (m : Move) (s : State) : Out := aluOp u m s fun a _ t => a >>> sh6 t

/-- sar (R199). -/
def execSar (u : BitVec 1) (m : Move) (s : State) : Out := aluOp u m s fun a _ t => a.sshiftRight (sh6 t)

/-- rotl (R199). -/
def execRotl (u : BitVec 1) (m : Move) (s : State) : Out := aluOp u m s fun a _ t => a.rotateLeft (sh6 t)

/-- min (R199). -/
def execMin (u : BitVec 1) (m : Move) (s : State) : Out := aluOp u m s fun a _ t => if BitVec.slt t a then t else a

/-- max (R199). -/
def execMax (u : BitVec 1) (m : Move) (s : State) : Out := aluOp u m s fun a _ t => if BitVec.slt a t then t else a

/-- minu (R199). -/
def execMinu (u : BitVec 1) (m : Move) (s : State) : Out := aluOp u m s fun a _ t => if BitVec.ult t a then t else a

/-- maxu (R199). -/
def execMaxu (u : BitVec 1) (m : Move) (s : State) : Out := aluOp u m s fun a _ t => if BitVec.ult a t then t else a

/-- seteq (R199). -/
def execSeteq (u : BitVec 1) (m : Move) (s : State) : Out := aluOp u m s fun a _ t => b64 (a == t)

/-- setne (R199). -/
def execSetne (u : BitVec 1) (m : Move) (s : State) : Out := aluOp u m s fun a _ t => b64 (a != t)

/-- setlt (R199). -/
def execSetlt (u : BitVec 1) (m : Move) (s : State) : Out := aluOp u m s fun a _ t => b64 (BitVec.slt a t)

/-- setltu (R199). -/
def execSetltu (u : BitVec 1) (m : Move) (s : State) : Out := aluOp u m s fun a _ t => b64 (BitVec.ult a t)

/-- setle (R199). -/
def execSetle (u : BitVec 1) (m : Move) (s : State) : Out := aluOp u m s fun a _ t => b64 (BitVec.sle a t)

/-- setleu (R199). -/
def execSetleu (u : BitVec 1) (m : Move) (s : State) : Out := aluOp u m s fun a _ t => b64 (BitVec.ule a t)

/-- sel (R199). -/
def execSel (u : BitVec 1) (m : Move) (s : State) : Out := aluOp u m s fun a b t => if t = 0 then b else a

/-- clz (R199). -/
def execClz (u : BitVec 1) (m : Move) (s : State) : Out := aluOp u m s fun _ _ t => clz64 t

/-- popc (R199). -/
def execPopc (u : BitVec 1) (m : Move) (s : State) : Out := aluOp u m s fun _ _ t => BitVec.ofNat 64 (popcount t.toNat 64)

/-- sext (R199). -/
def execSext (u : BitVec 1) (m : Move) (s : State) : Out := aluOp u m s fun a _ t => sextFrom a (sh6 t)

/-- zext (R199). -/
def execZext (u : BitVec 1) (m : Move) (s : State) : Out := aluOp u m s fun a _ t => zextFrom a (sh6 t)

/-- bfx (R200). -/
def execBfx (u : BitVec 1) (m : Move) (s : State) : Out := aluOp u m s fun a _ t => bfxOf a t

/-- bfi (R200). -/
def execBfi (u : BitVec 1) (m : Move) (s : State) : Out := aluOp u m s fun a b t => bfiOf a b t

/-- addw (R199). -/
def execAddw (u : BitVec 1) (m : Move) (s : State) : Out := aluOp u m s fun a _ t => sext32 (a.setWidth 32 + t.setWidth 32)

/-- subw (R199). -/
def execSubw (u : BitVec 1) (m : Move) (s : State) : Out := aluOp u m s fun a _ t => sext32 (a.setWidth 32 - t.setWidth 32)

/-- adds (R199). -/
def execAdds (u : BitVec 1) (m : Move) (s : State) : Out := aluOp u m s fun a _ t => clamp64 (a.toInt + t.toInt)

/-- subs (R199). -/
def execSubs (u : BitVec 1) (m : Move) (s : State) : Out := aluOp u m s fun a _ t => clamp64 (a.toInt - t.toInt)

/-- adds16 (R199). -/
def execAdds16 (u : BitVec 1) (m : Move) (s : State) : Out := aluOp u m s fun a _ t => (BitVec.ofNat 16 (satAdd 16 (a.toNat % 65536) (t.toNat % 65536))).signExtend 64

/-- lea (R199). -/
def execLea (u : BitVec 1) (m : Move) (s : State) : Out := aluOp u m s fun a b t => a + (t <<< (b.extractLsb' 0 3).toNat)

end Sys2Proof.Machine
end

