-- ==== Sys2Proof/Machine/Mul.lean ====
section
/-! DEFINITION. MUL: multiplies and divides (R201, R202, R194). -/

namespace Sys2Proof.Machine

/-- A pipelined multiply on a, b and t, latency 3 (R201). -/
def mulOp (m : Move) (s : State) (f : W64 → W64 → W64 → W64) : Out :=
  scalarTrigger 2 m s fun t => s.result 2 3 (f (s.core.port 2 1) (s.core.port 2 2) t)

/-- mul (R201). -/
def execMul (m : Move) (s : State) : Out := mulOp m s fun a _ t => a * t

/-- mulhs (R201). -/
def execMulhs (m : Move) (s : State) : Out :=
  mulOp m s fun a _ t => BitVec.ofInt 64 (a.toInt * t.toInt / 2 ^ 64)

/-- mulhu (R201). -/
def execMulhu (m : Move) (s : State) : Out :=
  mulOp m s fun a _ t => BitVec.ofNat 64 (a.toNat * t.toNat / 2 ^ 64)

/-- mulw (R201). -/
def execMulw (m : Move) (s : State) : Out :=
  mulOp m s fun a _ t => BitVec.ofInt 64 ((a.setWidth 32).toInt * (t.setWidth 32).toInt)

/-- madd (R201). -/
def execMadd (m : Move) (s : State) : Out := mulOp m s fun a b t => a * t + b

/-- A unit's window, given its last busy cycle; 0 stands for none (R194). -/
def Core.busyAt (c : Core) (last : Nat) : Bool := last != 0 && c.tcc ≤ last

/-- A divide: UNIT_BUSY in the divider's window, else the result at 34 and a window to 32 (R194, R202). [DESIGN CHOICE, log 188] -/
def divOp (m : Move) (s : State) (f : W64 → W64 → W64) : Out :=
  scalarTrigger 2 m s fun t =>
    if s.core.busyAt s.core.mulBusy then .error (.of .unitBusy)
    else (s.result 2 34 (f (s.core.port 2 1) t)).map fun s' => s'.onCore fun c => { c with mulBusy := c.tcc + 32 }

/-- Signed quotient toward zero; all ones for a zero divisor, and −2^63 for −2^63 ÷ −1 (R202). -/
def divS (a t : W64) : W64 := if t = 0 then BitVec.allOnes 64 else BitVec.ofInt 64 (a.toInt.tdiv t.toInt)

/-- Unsigned quotient (R202). -/
def divU (a t : W64) : W64 := if t = 0 then BitVec.allOnes 64 else BitVec.ofNat 64 (a.toNat / t.toNat)

/-- Signed remainder with the dividend's sign; the dividend for a zero divisor (R202). -/
def remS (a t : W64) : W64 := if t = 0 then a else BitVec.ofInt 64 (a.toInt.tmod t.toInt)

/-- Unsigned remainder (R202). -/
def remU (a t : W64) : W64 := if t = 0 then a else BitVec.ofNat 64 (a.toNat % t.toNat)

/-- div (R202). -/
def execDiv (m : Move) (s : State) : Out := divOp m s divS

/-- divu (R202). -/
def execDivu (m : Move) (s : State) : Out := divOp m s divU

/-- rem (R202). -/
def execRem (m : Move) (s : State) : Out := divOp m s remS

/-- remu (R202). -/
def execRemu (m : Move) (s : State) : Out := divOp m s remU

end Sys2Proof.Machine
end

