-- ==== Sys2Proof/Machine/Fps.lean ====
section
/-! DEFINITION. FPS: scalar FP32 (R203 to R208). -/

namespace Sys2Proof.Machine

/-- The low 32 bits of an operand as an encoding (R203). -/
def lo32 (x : W64) : Nat := x.toNat % 2 ^ 32

/-- An encoding as a scalar result, zero above (R203). -/
def enc64 (x : Nat) : W64 := BitVec.ofNat 64 x

/-- An FPS operation that uses FMT: rounding mode, FTZ, a, b and t give the result and its flags (R58, R203). -/
def fpsOp (lat : Nat) (m : Move) (s : State) (f : W32 → Nat → Nat → W64 → W64 × BitVec 7) : Out :=
  scalarFmtTrigger 3 m s fun t =>
    let (v, fl) := f s.core.fmt (lo32 (s.core.port 3 1)) (lo32 (s.core.port 3 2)) t
    s.result 3 lat v fl

/-- An arithmetic result of a pair with flags. -/
def fpsRes (r : FRes) : W64 × BitVec 7 := (enc64 r.1, r.2)

/-- fadd (R204). -/
def execFadd (m : Move) (s : State) : Out :=
  fpsOp 4 m s fun f a _ t => fpsRes (fpAdd (fmtRM f) (fmtFTZ f) a (lo32 t))

/-- fsub (R204). -/
def execFsub (m : Move) (s : State) : Out :=
  fpsOp 4 m s fun f a _ t => fpsRes (fpSub (fmtRM f) (fmtFTZ f) a (lo32 t))

/-- fmul (R204). -/
def execFmul (m : Move) (s : State) : Out :=
  fpsOp 4 m s fun f a _ t => fpsRes (fpMul (fmtRM f) (fmtFTZ f) a (lo32 t))

/-- ffma (R204). -/
def execFfma (m : Move) (s : State) : Out :=
  fpsOp 4 m s fun f a b t => fpsRes (fpFma (fmtRM f) (fmtFTZ f) a (lo32 t) b)

/-- The encoding of an operand as read: a subnormal becomes zero of its sign under FTZ (R203). -/
def fpsRead (ftz : Bool) (x : Nat) : Nat :=
  match fp32.decode x with
  | .fin neg m _ => if ftz && m < 2 ^ 23 then fp32.signBit neg else x
  | _ => x

/-- The smaller or larger of two encodings that are no NaN, −0 below +0 (R205). -/
def fpPick (wantMax : Bool) (a b : Nat) : Nat :=
  if (fp32.decode a).lt0 (fp32.decode b) then (if wantMax then b else a) else (if wantMax then a else b)

/-- fmin and fmax (R205): a NaN operand gives the canonical NaN and NV. -/
def fpMinMax (wantMax ftz : Bool) (a b : Nat) : FRes :=
  if (fp32.decode a).isNan || (fp32.decode b).isNan then fp32.invalid
  else (fpPick wantMax (fpsRead ftz a) (fpsRead ftz b), 0)

/-- fminnum and fmaxnum (R205): one NaN gives the other operand. -/
def fpMinMaxNum (wantMax ftz : Bool) (a b : Nat) : FRes :=
  match (fp32.decode a).isNan, (fp32.decode b).isNan with
  | true, true => fp32.invalid
  | true, false => (fpsRead ftz b, 0)
  | false, true => (fpsRead ftz a, 0)
  | false, false => (fpPick wantMax (fpsRead ftz a) (fpsRead ftz b), 0)

/-- fmin (R205). -/
def execFmin (m : Move) (s : State) : Out :=
  fpsOp 4 m s fun f a _ t => fpsRes (fpMinMax false (fmtFTZ f) a (lo32 t))

/-- fmax (R205). -/
def execFmax (m : Move) (s : State) : Out :=
  fpsOp 4 m s fun f a _ t => fpsRes (fpMinMax true (fmtFTZ f) a (lo32 t))

/-- fminnum (R205). -/
def execFminnum (m : Move) (s : State) : Out :=
  fpsOp 4 m s fun f a _ t => fpsRes (fpMinMaxNum false (fmtFTZ f) a (lo32 t))

/-- fmaxnum (R205). -/
def execFmaxnum (m : Move) (s : State) : Out :=
  fpsOp 4 m s fun f a _ t => fpsRes (fpMinMaxNum true (fmtFTZ f) a (lo32 t))

/-- An FPS operation that reads bits as they stand and no field of FMT (R58, R203). -/
def fpsBits (m : Move) (s : State) (f : Nat → Nat) : Out :=
  scalarTrigger 3 m s fun t => s.result 3 4 (enc64 (f (lo32 t)))

/-- fabs (R204). -/
def execFabs (m : Move) (s : State) : Out := fpsBits m s fun t => t % 2 ^ 31

/-- fneg (R204). -/
def execFneg (m : Move) (s : State) : Out := fpsBits m s fun t => if t < 2 ^ 31 then t + 2 ^ 31 else t - 2 ^ 31

/-- fdiv and fsqrt share a unit with the window of R194. [DESIGN CHOICE, log 188] -/
def fpsLong (m : Move) (s : State) (f : W32 → Nat → Nat → FRes) : Out :=
  scalarFmtTrigger 3 m s fun t =>
    if s.core.busyAt s.core.fpsBusy then .error (.of .unitBusy)
    else
      let r := f s.core.fmt (lo32 (s.core.port 3 1)) (lo32 t)
      (s.result 3 16 (enc64 r.1) r.2).map fun s' => s'.onCore fun c => { c with fpsBusy := c.tcc + 14 }

/-- fdiv (R204). -/
def execFdiv (m : Move) (s : State) : Out := fpsLong m s fun f a t => fpDiv (fmtRM f) (fmtFTZ f) a t

/-- fsqrt (R204). -/
def execFsqrt (m : Move) (s : State) : Out := fpsLong m s fun f _ t => fpSqrt (fmtRM f) (fmtFTZ f) t

/-- A compare result as an integer 0 or 1 (R206). -/
def cmpRes (r : Bool × BitVec 7) : W64 × BitVec 7 := (b64 r.1, r.2)

/-- fcmpeq (R206). -/
def execFcmpeq (m : Move) (s : State) : Out := fpsOp 4 m s fun f a _ t => cmpRes (fpCmp (fmtFTZ f) 0 a (lo32 t))

/-- fcmplt (R206). -/
def execFcmplt (m : Move) (s : State) : Out := fpsOp 4 m s fun f a _ t => cmpRes (fpCmp (fmtFTZ f) 1 a (lo32 t))

/-- fcmple (R206). -/
def execFcmple (m : Move) (s : State) : Out := fpsOp 4 m s fun f a _ t => cmpRes (fpCmp (fmtFTZ f) 2 a (lo32 t))

/-- cvtif: a signed 64-bit integer to FP32 (R207). -/
def execCvtif (m : Move) (s : State) : Out :=
  fpsOp 4 m s fun f _ _ t => fpsRes ((Fv.ofInt t.toInt).toFmt fp32 (fmtRM f) (fmtFTZ f))

/-- cvtfi: FP32 to INT32, sign-extended (R61, R207). -/
def execCvtfi (m : Move) (s : State) : Out :=
  fpsOp 4 m s fun f _ _ t =>
    let (v, fl) := toIntRange (fmtRM f) (-2147483648) 2147483647 (fp32.read (fmtFTZ f) (lo32 t))
    (BitVec.ofInt 64 v, fl)

/-- cvtfb: FP32 to BF16 under SAT (R60, R207). -/
def execCvtfb (m : Move) (s : State) : Out :=
  fpsOp 4 m s fun f _ _ t => fpsRes (toNarrow bf16 (fmtRM f) (fmtFTZ f) (fmtSAT f) (fp32.read (fmtFTZ f) (lo32 t)))

/-- cvtbf: BF16 to FP32, exact (R207). -/
def execCvtbf (m : Move) (s : State) : Out :=
  fpsOp 4 m s fun f _ _ t =>
    fpsRes ((bf16.read (fmtFTZ f) (t.toNat % 65536)).toFmt fp32 (fmtRM f) false)

/-- The class bit of an FP32 encoding (R208). -/
def fclassBit (x : Nat) : Nat :=
  match fp32.decode x with
  | .nan => 8
  | .inf neg => if neg then 0 else 7
  | .fin neg m _ =>
    if m = 0 then (if neg then 3 else 4)
    else if m < 2 ^ 23 then (if neg then 2 else 5)
    else (if neg then 1 else 6)

/-- fclass (R208). -/
def execFclass (m : Move) (s : State) : Out := fpsBits m s fun t => 2 ^ fclassBit t

end Sys2Proof.Machine
end

