-- ==== Sys2Proof/Machine/Vec.lean ====
section
/-! DEFINITION. VEC: 64-lane arithmetic (R245 to R256, R71). -/

namespace Sys2Proof.Machine

/-- The operands of VEC: a, b, k (R245). -/
def vecA (s : State) : VReg := s.core.vport 6 1
def vecB (s : State) : VReg := s.core.vport 6 2
def vecK (s : State) : W64 := s.core.port 6 3

/-- A lane-by-lane integer operation, latency 2 (R247). -/
def vecInt (m : Move) (s : State) (f : W32 → W32 → W32) : Out :=
  vectorTrigger 6 m s fun t => s.vectorResult 6 2 (vmap2 f (vecA s) t)

/-- The shift count t[l][4:0] (R247). -/
def sh5 (t : W32) : Nat := (t.extractLsb' 0 5).toNat

/-- vmov (R247). -/
def execVmov (m : Move) (s : State) : Out := vectorTrigger 6 m s fun t => s.vectorResult 6 2 t

/-- vadd (R247). -/
def execVadd (m : Move) (s : State) : Out := vecInt m s (· + ·)

/-- vsub (R247). -/
def execVsub (m : Move) (s : State) : Out := vecInt m s (· - ·)

/-- vmul (R247). -/
def execVmul (m : Move) (s : State) : Out := vecInt m s (· * ·)

/-- vmin (R247). -/
def execVmin (m : Move) (s : State) : Out := vecInt m s fun a t => if BitVec.slt t a then t else a

/-- vmax (R247). -/
def execVmax (m : Move) (s : State) : Out := vecInt m s fun a t => if BitVec.slt a t then t else a

/-- vminu (R247). -/
def execVminu (m : Move) (s : State) : Out := vecInt m s fun a t => if BitVec.ult t a then t else a

/-- vmaxu (R247). -/
def execVmaxu (m : Move) (s : State) : Out := vecInt m s fun a t => if BitVec.ult a t then t else a

/-- vand (R247). -/
def execVand (m : Move) (s : State) : Out := vecInt m s (· &&& ·)

/-- vor (R247). -/
def execVor (m : Move) (s : State) : Out := vecInt m s (· ||| ·)

/-- vxor (R247). -/
def execVxor (m : Move) (s : State) : Out := vecInt m s (· ^^^ ·)

/-- vshl (R247). -/
def execVshl (m : Move) (s : State) : Out := vecInt m s fun a t => a <<< sh5 t

/-- vshr (R247). -/
def execVshr (m : Move) (s : State) : Out := vecInt m s fun a t => a >>> sh5 t

/-- vsar (R247). -/
def execVsar (m : Move) (s : State) : Out := vecInt m s fun a t => a.sshiftRight (sh5 t)

/-- An operation on the two 16-bit halves of a lane (R247). -/
def halves (f : Nat → Nat → Nat) (a t : W32) : W32 :=
  BitVec.ofNat 32 (f (a.toNat % 65536) (t.toNat % 65536) + 65536 * f (a.toNat / 65536) (t.toNat / 65536))

/-- The smaller or larger of two signed encodings of width w (R67). -/
def minS (w a b : Nat) : Nat := if sInt w b < sInt w a then b else a
def maxS (w a b : Nat) : Nat := if sInt w a < sInt w b then b else a

/-- vadds16 (R67, R247). -/
def execVadds16 (m : Move) (s : State) : Out := vecInt m s (halves (satAdd 16))

/-- vmin16 (R247). -/
def execVmin16 (m : Move) (s : State) : Out := vecInt m s (halves (minS 16))

/-- vmax16 (R247). -/
def execVmax16 (m : Move) (s : State) : Out := vecInt m s (halves (maxS 16))

/-- The lanes of a function with flags, and the union of their flags (R246). -/
def lanesF (f : Nat → FRes) : VReg × BitVec 7 :=
  let rs := (List.range 64).map f
  (BitVec.ofNat 2048 (ofLanes (rs.map fun r => BitVec.ofNat 32 r.1)), rs.foldl (fun acc r => acc ||| r.2) 0)

/-- The encoding in lane l. -/
def laneN (v : VReg) (l : Nat) : Nat := (lane v l).toNat

/-- A lane-by-lane floating operation (R248, R249). -/
def vecFloat (lat : Nat) (m : Move) (s : State) (f : W32 → Nat → Nat → Nat → FRes) : Out :=
  vectorFmtTrigger 6 m s fun t =>
    let (v, fl) := lanesF fun l => f s.core.fmt (laneN (vecA s) l) (laneN (vecB s) l) (laneN t l)
    s.vectorResult 6 lat v fl

/-- vfadd (R248). -/
def execVfadd (m : Move) (s : State) : Out := vecFloat 4 m s fun f a _ t => fpAdd (fmtRM f) (fmtFTZ f) a t

/-- vfsub (R248). -/
def execVfsub (m : Move) (s : State) : Out := vecFloat 4 m s fun f a _ t => fpSub (fmtRM f) (fmtFTZ f) a t

/-- vfmul (R248). -/
def execVfmul (m : Move) (s : State) : Out := vecFloat 4 m s fun f a _ t => fpMul (fmtRM f) (fmtFTZ f) a t

/-- vffma (R248). -/
def execVffma (m : Move) (s : State) : Out := vecFloat 4 m s fun f a b t => fpFma (fmtRM f) (fmtFTZ f) a t b

/-- vfmin (R248). -/
def execVfmin (m : Move) (s : State) : Out := vecFloat 4 m s fun f a _ t => fpMinMax false (fmtFTZ f) a t

/-- vfmax (R248). -/
def execVfmax (m : Move) (s : State) : Out := vecFloat 4 m s fun f a _ t => fpMinMax true (fmtFTZ f) a t

/-- vfexp2 (R249). -/
def execVfexp2 (m : Move) (s : State) : Out := vecFloat 8 m s fun f _ _ t => exp2Lane (fmtFTZ f) t

/-- vflog2 (R249). -/
def execVflog2 (m : Move) (s : State) : Out := vecFloat 8 m s fun f _ _ t => log2Lane (fmtFTZ f) t

/-- vfrcp (R249). -/
def execVfrcp (m : Move) (s : State) : Out := vecFloat 8 m s fun f _ _ t => rcpLane (fmtFTZ f) t

/-- vfrsqrt (R249). -/
def execVfrsqrt (m : Move) (s : State) : Out := vecFloat 8 m s fun f _ _ t => rsqrtLane (fmtFTZ f) t

/-! ## Conversions and packing (R250 to R253) -/

/-- The types that vcvtf and vcvti accept (R250). -/
def cvtCode (t : Nat) : Bool := 6 ≤ t && t ≤ 10

/-- vcvtf of one lane: an integer or BOOL8 value to FP32 (R250). -/
def cvtfLane (f : W32) (x : Nat) : FRes := (decodeElem (fmtAT f) false x).toFmt fp32 (fmtRM f) (fmtFTZ f)

/-- vcvtf (R250). -/
def execVcvtf (m : Move) (s : State) : Out :=
  vectorFmtTrigger 6 m s fun t =>
    if cvtCode (fmtAT s.core.fmt) then
      let (v, fl) := lanesF fun l => cvtfLane s.core.fmt (laneN t l)
      s.vectorResult 6 4 v fl
    else .error (.of .vfmt)

/-- A value converted to a type of at most 16 bits, or to INT32, as its encoding (R52, R60, R61). [DEDUCED, log 62] -/
def toType (t rm : Nat) (ftz : Bool) (sat : Nat) (v : Fv) : FRes :=
  match floatFmt t with
  | some f => toNarrow f rm ftz sat v
  | none =>
    if t = 5 then toLns sat v
    else if t = 10 then (b2n v.truth, 0)
    else
      match intRange t with
      | some (lo, hi) =>
        let (x, fl) := toIntRange rm lo hi v
        (ofInt (8 * typeBytes t) x, fl)
      | none => (0, 0)

/-- vcvti of one lane: extended to 32 bits as its type is signed or not (R250). -/
def cvtiLane (f : W32) (x : Nat) : FRes :=
  let t := fmtBT f
  let (e, fl) := toType t (fmtRM f) (fmtFTZ f) (fmtSAT f) (fp32.read (fmtFTZ f) x)
  (if t = 6 ∨ t = 8 ∨ t = 9 then ofInt 32 (sInt (8 * typeBytes t) e) else e, fl)

/-- vcvti (R250). -/
def execVcvti (m : Move) (s : State) : Out :=
  vectorFmtTrigger 6 m s fun t =>
    if cvtCode (fmtBT s.core.fmt) then
      let (v, fl) := lanesF fun l => cvtiLane s.core.fmt (laneN t l)
      s.vectorResult 6 4 v fl
    else .error (.of .vfmt)

/-- The types that vpack and vunpack accept (R251, R253). -/
def packCode (t : Nat) : Bool := (1 ≤ t && t ≤ 8) || t == 10

/-- The value of an SC8 scale below 0xFF as an exponent of two (R54). -/
def scaleExp (e : Nat) : Int := (e : Int) - 127

/-- A value times 2^k, exactly. -/
def Fv.shift (k : Int) : Fv → Fv
  | .fin neg m e => .fin neg m (e + k)
  | v => v

/-- MAXF of a target type (R252): m·2^e. -/
def packMax : Nat → Fv
  | 3 => .fin false 448 0
  | 4 => .fin false 57344 0
  | 5 => lnsDecode 30
  | 6 => .fin false 127 0
  | _ => .fin false 255 0

/-- MAXF of LNS6 is the nominal 2^3.5 (R252), which no dyadic equals: m ≤ 2^3.5·2^k exactly when m² ≤ 2^(7+2k). [DEDUCED, log 66] -/
def lnsFits (x : Fv) (k : Int) : Bool :=
  match x with
  | .fin _ m e => (Fv.fin false (m * m) (2 * e)).cmp (.fin false 1 (7 + 2 * k)) ≤ 0
  | _ => false

/-- Whether a finite magnitude fits the target under scale e (R252). [DEDUCED, log 66] -/
def scaleFits (t : Nat) (x : Fv) (e : Nat) : Bool :=
  if t = 5 then lnsFits x (scaleExp e)
  else
    match x with
    | .fin _ m k => (Fv.fin false m k).cmp ((packMax t).shift (scaleExp e)) ≤ 0
    | _ => false

/-- The scale of a block (R252). [DEDUCED, log 66] -/
def blockScale (t : Nat) (xs : List Fv) : Nat :=
  if xs.any Fv.isNan then 0xFF
  else
    let fins := xs.filter fun x => match x with | .fin .. => true | _ => false
    if fins.all Fv.isZero then 0x7F
    else ((List.range 255).find? fun e => fins.all fun x => scaleFits t x e).getD 254

/-- The 128 elements of a vpack: a's lanes, then t's (R251). -/
def packElem (a t : VReg) (i : Nat) : Nat := if i < 64 then laneN a i else laneN t (i - 64)

/-- The results of vpack's elements with flags, and the scales when it chooses them (R251, R252). -/
def packAll (f : W32) (a t : VReg) : List FRes × Option (List Nat) :=
  let bt := fmtBT f
  let elem := fun i => fp32.read (fmtFTZ f) (packElem a t i)
  let conv := fun v => toType bt (fmtRM f) (fmtFTZ f) (fmtSAT f) v
  if fmtBSC f && (3 ≤ bt && bt ≤ 7) then
    let scales := (List.range 4).map fun b => blockScale bt ((List.range 32).map fun i => elem (32 * b + i))
    ((List.range 128).map fun i =>
      let sc := scales.getD (i / 32) 0
      conv (if sc = 0xFF then .nan else (elem i).shift (-(scaleExp sc))), some scales)
  else ((List.range 128).map fun i => conv (elem i), none)

/-- The bytes or halves of packed elements as one number, element 0 lowest. -/
def packBits (w : Nat) : List Nat → Nat
  | [] => 0
  | x :: xs => x % 2 ^ w + 2 ^ w * packBits w xs

/-- vpack's vector: 16-bit targets fill it, 8-bit targets replace half H of b (R251). -/
def packVec (f : W32) (b : VReg) (k : W64) (rs : List FRes) : VReg :=
  if typeBytes (fmtBT f) = 2 then BitVec.ofNat 2048 (packBits 16 (rs.map (·.1)))
  else
    let half := packBits 8 (rs.map (·.1))
    if k.getLsbD 0 then BitVec.ofNat 2048 (b.toNat % 2 ^ 1024 + 2 ^ 1024 * half)
    else BitVec.ofNat 2048 (b.toNat / 2 ^ 1024 * 2 ^ 1024 + half)

/-- vpack (R251, R252): the scales land in VPSCALE with the result. -/
def execVpack (m : Move) (s : State) : Out :=
  vectorFmtTrigger 6 m s fun t =>
    let f := s.core.fmt
    if packCode (fmtBT f) then
      let (rs, scales) := packAll f (vecA s) t
      let v := packVec f (vecB s) (vecK s) rs
      let fl := rs.foldl (fun acc r => acc ||| r.2) (0 : BitVec 7)
      match scales with
      | none => s.vectorResult 6 4 v fl
      | some sc => s.issue 6 [(4, .vector v, fl), (4, .csr 0x013 (BitVec.ofNat 64 (packBits 8 sc)), 0)]
    else .error (.of .vfmt)

/-- The element of t that lane l of a vunpack takes (R253). -/
def unpackElem (f : W32) (k : W64) (t : VReg) (l : Nat) : Nat :=
  if typeBytes (fmtAT f) = 2 then
    let i := 64 * (k.toNat % 2) + l
    (t.extractLsb' (16 * i) 16).toNat
  else
    let i := 64 * (k.toNat % 4) + l
    (t.extractLsb' (8 * i) 8).toNat

/-- vunpack of one lane: exact widening, then the block scale when BSC is set (R253). -/
def unpackLane (f : W32) (k : W64) (t : VReg) (l : Nat) : FRes :=
  let at_ := fmtAT f
  let v := decodeElem at_ (fmtFTZ f) (unpackElem f k t l)
  if fmtBSC f && (3 ≤ at_ && at_ ≤ 7) then
    let sc := if l < 32 then fld k.toNat 15 8 else fld k.toNat 23 16
    if sc = 0xFF then (fp32.nan, 0) else (v.shift (scaleExp sc)).toFmt fp32 (fmtRM f) (fmtFTZ f)
  else v.toFmt fp32 (fmtRM f) (fmtFTZ f)

/-- vunpack (R253). -/
def execVunpack (m : Move) (s : State) : Out :=
  vectorFmtTrigger 6 m s fun t =>
    if packCode (fmtAT s.core.fmt) then
      let (v, fl) := lanesF fun l => unpackLane s.core.fmt (vecK s) t l
      s.vectorResult 6 4 v fl
    else .error (.of .vfmt)

/-! ## Compares, selection and lane movement (R254) -/

/-- A mask whose bit l is p l. -/
def maskOf (p : Nat → Bool) : W64 := BitVec.ofNat 64 (packBits 1 ((List.range 64).map fun l => b2n (p l)))

/-- An integer compare, latency 2 (R254). -/
def vecCmp (m : Move) (s : State) (p : W32 → W32 → Bool) : Out :=
  vectorTrigger 6 m s fun t => s.queueResult 6 2 (maskOf fun l => p (lane (vecA s) l) (lane t l))

/-- vcmpeq (R254). -/
def execVcmpeq (m : Move) (s : State) : Out := vecCmp m s (· == ·)

/-- vcmplt (R254). -/
def execVcmplt (m : Move) (s : State) : Out := vecCmp m s BitVec.slt

/-- vcmple (R254). -/
def execVcmple (m : Move) (s : State) : Out := vecCmp m s BitVec.sle

/-- A floating compare, latency 4, with its flags (R206, R254). -/
def vecFcmp (kind : Nat) (m : Move) (s : State) : Out :=
  vectorFmtTrigger 6 m s fun t =>
    let rs := (List.range 64).map fun l => fpCmp (fmtFTZ s.core.fmt) kind (laneN (vecA s) l) (laneN t l)
    s.queueResult 6 4 (BitVec.ofNat 64 (packBits 1 (rs.map fun r => b2n r.1)))
      (rs.foldl (fun acc r => acc ||| r.2) 0)

/-- vfcmpeq (R254). -/
def execVfcmpeq (m : Move) (s : State) : Out := vecFcmp 0 m s

/-- vfcmplt (R254). -/
def execVfcmplt (m : Move) (s : State) : Out := vecFcmp 1 m s

/-- vfcmple (R254). -/
def execVfcmple (m : Move) (s : State) : Out := vecFcmp 2 m s

/-- vsel (R254). -/
def execVsel (m : Move) (s : State) : Out :=
  vectorTrigger 6 m s fun t =>
    s.vectorResult 6 2 (vgen fun l => if (vecK s).getLsbD l then lane t l else lane (vecA s) l)

/-- vperm (R254). -/
def execVperm (m : Move) (s : State) : Out :=
  vectorTrigger 6 m s fun t =>
    s.vectorResult 6 3 (vgen fun l =>
      if (lane t l).getLsbD 6 then 0 else lane (vecA s) (laneN t l % 64))

/-- vbcast (R254). -/
def execVbcast (m : Move) (s : State) : Out :=
  scalarTrigger 6 m s fun t => s.vectorResult 6 2 (vsplat (t.setWidth 32))

/-- vextr (R254). -/
def execVextr (m : Move) (s : State) : Out :=
  scalarTrigger 6 m s fun t => s.queueResult 6 2 ((lane (vecA s) (t.toNat % 64)).setWidth 64)

/-- vins (R254). -/
def execVins (m : Move) (s : State) : Out :=
  scalarTrigger 6 m s fun t =>
    s.vectorResult 6 2 (vgen fun l => if l = t.toNat % 64 then (vecK s).setWidth 32 else lane (vecA s) l)

/-! ## Reductions and scan (R71, R255, R256) -/

/-- One level of the pairwise tree; an absent input passes the other unchanged (R71). -/
def treeLevel {α : Type} (f : α → α → α) : List (Option α) → List (Option α)
  | a :: b :: rest =>
    (match a, b with
      | some x, some y => some (f x y)
      | some x, none => some x
      | none, y => y) :: treeLevel f rest
  | l => l

/-- The tree over 64 leaves, six levels (R71). -/
def treeReduce {α : Type} (f : α → α → α) (l : List (Option α)) : Option α :=
  ((treeLevel f (treeLevel f (treeLevel f (treeLevel f (treeLevel f (treeLevel f l)))))).headD none)

/-- The lanes that take part under a mask. -/
def maskedLanes (k : W64) (t : VReg) : List (Option W32) :=
  (List.range 64).map fun l => if k.getLsbD l then some (lane t l) else none

/-- An integer reduction, sign-extended, latency 6 (R255). -/
def vecRed (m : Move) (s : State) (f : W32 → W32 → W32) (absent : W64) : Out :=
  vectorTrigger 6 m s fun t =>
    s.queueResult 6 6
      (match treeReduce f (maskedLanes (vecK s) t) with
        | some x => x.signExtend 64
        | none => absent)

/-- vredadd (R255). -/
def execVredadd (m : Move) (s : State) : Out := vecRed m s (· + ·) 0

/-- vredmin (R255). -/
def execVredmin (m : Move) (s : State) : Out :=
  vecRed m s (fun a b => if BitVec.slt b a then b else a) 0x7FFFFFFF

/-- vredmax (R255). -/
def execVredmax (m : Move) (s : State) : Out :=
  vecRed m s (fun a b => if BitVec.slt a b then b else a) 0xFFFFFFFF80000000

/-- A floating reduction by the tree, each node with its flags, latency 6 (R71, R255). -/
def vecFred (m : Move) (s : State) (f : W32 → Nat → Nat → FRes) (absent : Nat) : Out :=
  vectorFmtTrigger 6 m s fun t =>
    let leaves := (maskedLanes (vecK s) t).map fun o => o.map fun x => ((x.toNat, 0) : FRes)
    let r := (treeReduce (fun a b => let r := f s.core.fmt a.1 b.1; (r.1, a.2 ||| b.2 ||| r.2)) leaves).getD (absent, 0)
    s.queueResult 6 6 (enc64 r.1) r.2

/-- vfredadd (R255). -/
def execVfredadd (m : Move) (s : State) : Out :=
  vecFred m s (fun f a b => fpAdd (fmtRM f) (fmtFTZ f) a b) 0

/-- vfredmax (R255). -/
def execVfredmax (m : Move) (s : State) : Out :=
  vecFred m s (fun f a b => fpMinMax true (fmtFTZ f) a b) fp32.nan

/-- The running masked sums of the lanes (R256). -/
def scanLanes (k : W64) (t : VReg) : List Nat → W32 → List W32
  | [], _ => []
  | l :: ls, acc =>
    let acc' := if k.getLsbD l then acc + lane t l else acc
    acc' :: scanLanes k t ls acc'

/-- vscan (R256). -/
def execVscan (m : Move) (s : State) : Out :=
  vectorTrigger 6 m s fun t =>
    s.vectorResult 6 6 (BitVec.ofNat 2048 (ofLanes (scanLanes (vecK s) t (List.range 64) 0)))

/-! ## Mask operations (R254) -/

/-- A mask operation, latency 2 (R254). -/
def vecMask (m : Move) (s : State) (f : W64 → W64 → W64) : Out :=
  scalarTrigger 6 m s fun t => s.queueResult 6 2 (f (vecK s) t)

/-- vmand (R254). -/
def execVmand (m : Move) (s : State) : Out := vecMask m s (· &&& ·)

/-- vmor (R254). -/
def execVmor (m : Move) (s : State) : Out := vecMask m s (· ||| ·)

/-- vmnot (R254). -/
def execVmnot (m : Move) (s : State) : Out := vecMask m s fun _ t => ~~~t

/-- vmpopc (R254). -/
def execVmpopc (m : Move) (s : State) : Out := vecMask m s fun _ t => BitVec.ofNat 64 (popcount t.toNat 64)

end Sys2Proof.Machine
end

