-- ==== Sys2Proof/Machine/KlnRun.lean ====
section
/-! DEFINITION. The Kiln as it runs: configuration, starts, edge reads, beats, outputs, drains and retirement, cycle by cycle
(R120 to R141, R283 to R289). -/

namespace Sys2Proof.Machine

/-! ## Cells -/

/-- A cell by its row and column. -/
def Kiln.cell (k : Kiln) (i j : Nat) : Cell := sget .zero k.cells (64 * i + j)

/-- Replace a cell. -/
def Kiln.setCell (k : Kiln) (i j : Nat) (c : Cell) : Kiln := { k with cells := sset .zero k.cells (64 * i + j) c }

/-- The cell with a fixed-datapath result in c1 once its cycle has passed (R121). -/
def Cell.settle (c : Cell) (now : Nat) : Cell :=
  match c.due with
  | some (t, v) => if t < now then { c with c1 := v, due := none } else c
  | none => c

/-- The cell with the value that its next step finds. -/
def Cell.absorb (c : Cell) : Cell :=
  match c.due with
  | some (_, v) => { c with c1 := v, due := none }
  | none => c

/-- The configuration that a cell runs under. -/
def Kiln.cfgOf (k : Kiln) (c : Cell) : KCfg := k.cfgs.getD c.cfg .zero

/-- The first row and column of the cells of a command (R16, R130). -/
def quadOrg (quad : Option Nat) : Nat × Nat :=
  match quad with
  | some q => (32 * (q / 2), 32 * (q % 2))
  | none => (0, 0)

/-- The rows and columns of the cells of a command. -/
def quadSide (quad : Option Nat) : Nat := if quad.isSome then 32 else 64

/-- The cells (i, j) of a command with i + j = d, in local coordinates. -/
def diagonal (side : Nat) (d : Nat) : List (Nat × Nat) :=
  (List.range side).filterMap fun i => if i ≤ d ∧ d - i < side then some (i, d - i) else none

/-! ## Configuration (R132, R279 to R282, R288) -/

/-- SHADOW_CONFIG_WRITE: a write of the shadow is complete (R132). [DEDUCED, log 42] -/
def execShadowConfigWrite (cmd : Nat) (s : State) : Out :=
  .next (match s.kiln.writes.find? fun w => w.id == cmd && w.done ≤ s.core.tcc with
    | some w => s.onKiln fun k => { k with shadow := w.act.apply k.shadow, writes := k.writes.filter fun x => x.id != cmd }
    | none => s)

/-- The quadrants a token is for. -/
def Token.quads (t : Token) : List Nat :=
  match t.quad with
  | some q => [q]
  | none => [0, 1, 2, 3]

/-- SWITCH_TOKEN_INJECT: the token takes the shadow as it stands at W; one equal to what is active has no effect (R132).
[DEDUCED, log 42; DEDUCED, log 83] -/
def execSwitchTokenInject (cmd : Nat) (s : State) : Out :=
  .next (match s.kiln.tokens.find? fun t => t.id == cmd && t.cfg.isNone && t.w ≤ s.core.tcc with
    | none => s
    | some t => s.onKiln fun k =>
      let g := k.shadow
      if t.quads.all fun q => decide (k.cfgs.getD (k.quadCfg.getD q 0) .zero = g) then { k with tokens := k.tokens.filter fun x => x.id != cmd }
      else
        let n := k.cfgs.length
        { k with
          cfgs := k.cfgs ++ [g]
          quadCfg := t.quads.foldl (fun l q => l.set q n) k.quadCfg
          tokens := k.tokens.map fun x => if x.id = cmd then { x with cfg := some n } else x })

/-- Whether a token reaches cell (i, j) in a cycle (R130, R132). -/
def Token.reaches (t : Token) (i j now : Nat) : Bool :=
  let (r, c) := quadOrg t.quad
  let side := quadSide t.quad
  t.cfg.isSome && r ≤ i && i < r + side && c ≤ j && j < c + side && t.w + 3 + (i - r) + (j - c) == now

/-- SWITCH_TOKEN_ARRIVAL: the cell takes the shadow that the token carries, and its micro-program begins (R132, R257). -/
def execSwitchTokenArrival (i j : BitVec 6) (s : State) : Out :=
  .next (match s.kiln.tokens.find? fun t => t.reaches i.toNat j.toNat s.core.tcc with
    | none => s
    | some t => s.onKiln fun k =>
      let n := t.cfg.getD 0
      let g := k.cfgs.getD n .zero
      k.setCell i.toNat j.toNat { k.cell i.toNat j.toNat with cfg := n, u := g.sp.getD (cellClass g.map i.toNat j.toNat) 0 })

/-- KRING_APPLY (R288). -/
def execKringApply (cmd : Nat) (s : State) : Out :=
  .next (match s.kiln.krings.find? fun r => r.id == cmd && r.start ≤ s.core.tcc with
    | none => s
    | some r => s.onEng fun e => { e with
        rings := vset e.rings r.n r.ring
        kiln := { e.kiln with krings := e.kiln.krings.filter fun x => x.id != cmd } })

/-- KZERO_APPLY: the selected registers of the cells are zero from the next cycle (R287). A result that the fixed datapath
writes in a later cycle still comes. [DEDUCED, log 85] -/
def execKzeroApply (cmd : Nat) (s : State) : Out :=
  .next (match s.kiln.zeros.find? fun z => z.id == cmd && z.start ≤ s.core.tcc with
    | none => s
    | some z => s.onKiln fun k =>
      let (r, c) := quadOrg z.quad
      let side := quadSide z.quad
      let one := fun (x : Cell) =>
        let x1 := if bit z.regs 0 then { x with c0 := 0 } else x
        let x2 :=
          if bit z.regs 1 then { x1.settle z.start with c1 := 0, due := (x1.due.filter fun d => z.start < d.1) } else x1
        if bit z.regs 2 then { x2 with t := .bits 0, blk := .empty } else x2
      let k1 := k.cells.foldl (fun (acc : Kiln) e =>
        let i := e.1 / 64
        let j := e.1 % 64
        if r ≤ i && i < r + side && c ≤ j && j < c + side then acc.setCell i j (one e.2) else acc) k
      { k1 with
        zeros := k1.zeros.filter fun x => x.id != cmd
        passes := k1.passes.map fun p => if p.flow = 3 && fld z.regs 1 0 != 0 then { p with zeroed := some z.start } else p })

/-! ## Drains (R131, R286) -/

/-- An FP32 accumulator as a drain writes it, with the flags of R60 that it sets: a drain to FP32 is no conversion to a narrower format and
sets none (R62, R286, R391). [DEDUCED, log 81] -/
def drainFloat (dt : Nat) (f : W32) (v : Nat) : FRes :=
  let x := fp32.read (fmtFTZ f) (v % 2 ^ 32)
  if dt = 0 then ((x.toFmt fp32 (fmtRM f) (fmtFTZ f)).1, 0)
  else
    let r := toType dt (fmtRM f) (fmtFTZ f) (fmtSAT f) x
    (r.1, r.2 &&& (flagOF ||| flagNV))

/-- The bytes of one drained register, with its flags: an FP32 register is converted, others are copied (R62, R286). -/
def drainElem (d : Drain) (v : W64) : List Byte × BitVec 7 :=
  if d.st = 0 then
    let r := drainFloat d.dt d.fmt v.toNat
    (leBytes r.1 (drainBytes d.dt), r.2)
  else (leBytes v.toNat (drainBytes d.dt), 0)

/-- The register of a row that a drain samples. -/
def Kiln.sampleRow (k : Kiln) (d : Drain) (now i : Nat) : List W64 :=
  let (r, c) := quadOrg d.quad
  (List.range (quadSide d.quad)).map fun j =>
    let x := (k.cell (r + i) (c + j)).settle now
    if d.reg1 then x.c1 else x.c0

/-- The drains when row i of one is written; it ends with its last row. -/
def drainsAfter (l : List Drain) (cmd i : Nat) (last : Bool) : List Drain :=
  if last then l.filter fun x => x.id != cmd
  else l.map fun x => if x.id = cmd then { x with held := x.held.filter fun h => h.1 != i } else x

/-- DRAIN_ROW: row i is sampled in D + 2 + i and written in D + 5 + i (R131, R286). [DEDUCED, log 50; DEDUCED, log 52] -/
def execDrainRow (cmd : Nat) (s : State) : Out :=
  .next (match s.kiln.drains.find? fun d => d.id == cmd with
    | none => s
    | some d =>
      let now := s.core.tcc
      let side := quadSide d.quad
      let s1 :=
        if d.start + 2 ≤ now ∧ now < d.start + 2 + side then
          let row := s.kiln.sampleRow d now (now - d.start - 2)
          s.onKiln fun k => { k with drains := k.drains.map fun x => if x.id = cmd then { x with held := x.held ++ [(now - d.start - 2, row)] } else x }
        else s
      let i := now - d.start - 5
      if d.start + 5 ≤ now ∧ now < d.start + 5 + side then
        match d.held.lookup i with
        | some row =>
          let out := row.map (drainElem d)
          let fl := out.foldl (fun acc x => acc ||| x.2) (0 : BitVec 7)
          let s2 := s1.onCore fun c =>
            { c.engWrite 9 12 d.id d.acc (d.off + i * d.rstr) (out.flatMap (·.1)) with fstat := c.fstat ||| fl }
          s2.onKiln fun k => { k with drains := drainsAfter k.drains cmd i (i + 1 == side) }
        | none => s1
      else s1)

/-! ## Streams (R82 to R85, R140, R284) -/

/-- The tiles that some passes still hold of a ring, as input or as output: a pass gives up its input roles when it retires and
its output roles with its last write. -/
def heldTiles (l : List Pass) (n : Nat) (out : Bool) : Nat :=
  (l.map fun q => ((q.roles.filter fun x => x.ring == n && q.isOut x.r == out).map (·.tiles)).sum).sum

/-- Where a role's stream begins: HEAD or TAIL past the tiles of earlier passes (R284). -/
def Core.rolePos (c : Core) (p : Pass) (r : Role) : Nat :=
  match r.pos with
  | some n => n
  | none =>
    let g := c.ring r.ring
    (if p.isOut r.r then g.tail.toNat else g.head.toNat) + heldTiles (c.eng.kiln.passes.takeWhile fun q => q.id != p.id) r.ring (p.isOut r.r)

/-- The role of a number. -/
def Pass.role (p : Pass) (r : Nat) : Option Role := p.roles.find? fun x => x.r == r

/-- The scratchpad offset of a byte of a role's stream. -/
def Core.streamOff (c : Core) (p : Pass) (r : Role) (o : Nat) : Nat :=
  let g := c.ring r.ring
  g.slotOff (c.rolePos p r + o / (64 * g.tileU)) + o % (64 * g.tileU)

/-- Bytes of a role's stream as a number. -/
def Core.streamNum (c : Core) (p : Pass) (r o n : Nat) : Nat :=
  match p.role r with
  | some x => (List.range n).foldr (fun i acc => (rdByte c.sp (c.streamOff p x (o + i))).toNat + 256 * acc) 0
  | none => 0

/-- The 64-byte rows that bytes of a role's stream lie in. -/
def Core.streamRows (c : Core) (p : Pass) (r o n : Nat) : List Nat :=
  match p.role r with
  | some x => ((rowsIn o n).map fun q => c.streamOff p x q / 64 * 64).dedup
  | none => []

/-- Whether a 64-byte unit of a STREAM ring has been written (R140). [DEDUCED, log 91] -/
def Core.unitReady (c : Core) (p : Pass) (r : Role) (o : Nat) : Bool :=
  let g := c.ring r.ring
  let pos := c.rolePos p r + o / (64 * g.tileU)
  match g.assigned.find? fun a => a.2.1 ≤ pos && pos < a.2.1 + a.2.2.1 with
  | some (ch, first, _, unit) => unit + (pos - first) * g.tileU + o % (64 * g.tileU) / 64 < (vget 0 c.eng.cwp ch).toNat
  | none => false

/-! ## What the edge and the Briquette read (R121, R133, R136, R137) -/

/-- The beat read in a cycle. -/
def Pass.readBeat (p : Pass) (now : Nat) : Option Nat :=
  if p.base ≤ now ∧ (now - p.base) % p.s = 0 ∧ (now - p.base) / p.s < p.beatN then some ((now - p.base) / p.s) else none

/-- The reduction index where lane 0 of a beat of an uncondensed pass begins. -/
def Pass.kOf (p : Pass) (b : Nat) : Nat :=
  let (w, q) := selPattern p.sel
  w * (p.nl * b / q)

/-- The block of a beat of an uncondensed pass. -/
def Pass.blockOf (p : Pass) (b : Nat) : Nat := p.kOf b / 32

/-- Whether a beat opens its block, and whether it closes it. -/
def Pass.opensAt (p : Pass) (b : Nat) : Bool := b == 0 || p.blockOf b != p.blockOf (b - 1)
def Pass.closesAt (p : Pass) (b : Nat) : Bool := b + 1 == p.beatN || p.blockOf b != p.blockOf (b + 1)

/-- A group-map entry (R136). -/
def Core.mapEntry (c : Core) (p : Pass) (b : Nat) : Nat := c.streamNum p 6 (8 * b) 8

/-- The reduction indices that an entry names; 0x3FFF and an index beyond K name none (R136). [DESIGN CHOICE, log 184] -/
def Pass.named (p : Pass) (entry : Nat) : List (Option Nat) :=
  (List.range 4).map fun t =>
    let k := fld entry (14 * t + 13) (14 * t)
    if p.ext ≤ k then none else some k

/-- The block of SRC0, where it names an index (R137). -/
def Pass.entryBlock (p : Pass) (entry : Nat) : Option Nat := ((p.named entry).headD none).map (· / 32)

/-- The four sources of an entry; under BSC one outside the block of SRC0 counts as none (R137). [DESIGN CHOICE, log 182] -/
def Pass.sources (p : Pass) (entry : Nat) : List (Option Nat) :=
  (p.named entry).map fun k => if fmtBSC p.fmt && k.map (· / 32) != p.entryBlock entry then none else k

/-- Whether an entry mixes blocks (R137). -/
def Pass.mixes (p : Pass) (entry : Nat) : Bool := p.named entry != p.sources entry

/-- The blocks whose scales a beat of a condensed pass meets for the first time: blocks that the map skips or never comes to, and its own
(R138). [DEDUCED, log 76; DESIGN CHOICE, log 181] -/
def Core.newBlocks (c : Core) (p : Pass) (b : Nat) : List Nat :=
  let e := if p.ended then none else p.entryBlock (c.mapEntry p b)
  let reached := match e with | some k => max p.blkNext (k + 1) | none => p.blkNext
  let upto := if b + 1 == p.beatN then max reached p.blocks else reached
  if fmtBSC p.fmt then (List.range (upto - p.blkNext)).map (p.blkNext + ·) else []

/-- The reads of a pass in a cycle: role, stream offset, bytes. -/
def Core.passReads (c : Core) (p : Pass) : List (Nat × Nat × Nat) :=
  let now := c.tcc
  let (w, q) := selPattern p.sel
  let scale := fun (blk : Nat) => if fmtBSC p.fmt then [(2, blk * p.side, p.side), (3, blk * p.side, p.side)] else []
  if p.cnd then
    let t := now - (p.start + p.c)
    let v := now - p.base
    let rows := match p.role 5 with | some r => r.tiles * (c.ring r.ring).tileU * 64 | none => 0
    (if p.start + p.c ≤ now && t < p.lb then [(4, 64 * t, min 64 (8 * p.ext - 64 * t))] else []) ++
    (if p.base ≤ now && 128 * v < rows then [(5, 128 * v, min 128 (rows - 128 * v))] else []) ++
    (match p.readBeat now with
      | none => []
      | some b =>
        let e := c.mapEntry p b
        let src := p.sources e
        let unit := p.unitBytes 1
        let known := if p.ended then none else p.entryBlock e
        (6, 8 * b, 8) ::
          ((if p.ended then []
            else src.filterMap fun k => k.map fun k => (1, (if p.sel = 0 then k * unit else k / w * q * unit), if p.sel = 0 then unit else q * unit)) ++
            (known.elim [] fun k => if k < p.blkNext then scale k else []) ++ (c.newBlocks p b).flatMap scale))
  else
    match p.readBeat now with
    | none => []
    | some b =>
      match p.flow with
      | 1 =>
        if p.pre then [(1, b * p.unitBytes 1, p.unitBytes 1)]
        else (0, b * p.unitBytes 0, p.unitBytes 0) :: (if b = 0 then (List.range p.blocks).flatMap scale else [])
      | 2 => [(0, b * 512, 512), (1, b * 256, 256)]
      | 3 => [(0, b * 256, 256)]
      | _ =>
        let d0 := p.kOf b / p.nl
        let d1 := min ((w * ((p.nl * b + p.nl - 1) / q) + w - 1) / p.nl) ((p.ext + p.nl - 1) / p.nl - 1)
        (0, d0 * p.unitBytes 0, (d1 + 1 - d0) * p.unitBytes 0) :: (1, b * p.unitBytes 1, p.unitBytes 1) ::
          (if p.opensAt b then scale (p.blockOf b) else [])

/-- Bit i of the bitmap of reduction index k. -/
def Pass.bmBit (p : Pass) (k i : Nat) : Bool := (p.bitmap.getD (8 * k + i / 8) 0).getLsbD (i % 8)

/-- How many nonzeros stand before (i, k) in the value stream. -/
def Pass.rank (p : Pass) (k i : Nat) : Nat :=
  ((List.range k).map fun k' => ((List.range 64).filter (p.bmBit k')).length).sum + ((List.range i).filter (p.bmBit k)).length

/-- The source that a row of a condensed beat takes: the lowest-numbered one whose bitmap names the row (R137). [DEDUCED, log 75] -/
def Pass.taken (p : Pass) (src : List (Option Nat)) (i : Nat) : Option Nat :=
  (List.range 4).find? fun t => ((src.getD t none).elim false fun k => p.bmBit k i)

/-- The values that the beat of the cycle needs and the buffer does not hold yet: role, stream offset, bytes (R137, R140). [DEDUCED, log 77] -/
def Core.valueReads (c : Core) (p : Pass) : List (Nat × Nat × Nat) :=
  match (if p.cnd && !p.ended then p.readBeat c.tcc else none) with
  | none => []
  | some b =>
    let src := p.sources (c.mapEntry p b)
    (List.range p.side).filterMap fun i =>
      match p.taken src i with
      | some t =>
        let o := p.rank ((src.getD t none).getD 0) i * p.wA
        if o + p.wA ≤ p.values.length then none else some (5, o, p.wA)
      | none => none

/-- STREAM_SHORT: a read of a pass in this cycle, or a value that a beat needs before its buffer has it, meets a unit that its channel has
not written (R140, R355). [DEDUCED, log 77] -/
def Core.streamShort (c : Core) (p : Pass) : Bool :=
  (c.passReads p ++ c.valueReads p).any fun (r, o, n) =>
    match p.role r with
    | some x => x.stream && (c.ring x.ring).feed != 0 && (rowsIn o n).any fun u => !c.unitReady p x u
    | none => false

/-- RING_SHORT: a ring that is no STREAM holds too few tiles at the pass's start (R140, R355). -/
def Core.ringShort (c : Core) (p : Pass) : Bool :=
  p.roles.any fun r =>
    let g := c.ring r.ring
    let gone := heldTiles (c.eng.kiln.passes.filter fun q => q.id != p.id && q.retire ≤ c.tcc) r.ring false
    !p.isOut r.r && !(r.stream && g.feed != 0) && (g.tail - g.head).toNat < r.tiles + gone

/-- PASS_START: the pass runs under the configuration that is active now, and its roles' streams are fixed to their positions
(R132, R140, R284). [DEDUCED, log 50; DEDUCED, log 84] -/
def execPassStart (pass : Nat) (s : State) : Out :=
  .next (s.onKiln fun k => { k with passes := k.passes.map fun p =>
    if p.id = pass ∧ p.start ≤ s.core.tcc then
      let p1 := s.underCfg p (p.quad.getD 0)
      { p1 with roles := p.roles.map fun r => { r with pos := some (s.core.rolePos p1 r) } }
    else p })

/-- Replace a pass. -/
def State.onPass (s : State) (pass : Nat) (f : Pass → Pass) : State :=
  s.onKiln fun k => { k with passes := k.passes.map fun p => if p.id = pass then f p else p }

/-- The banks that a pass's edge uses in this cycle (R364). -/
def State.bookReads (s : State) (p : Pass) : State :=
  (s.core.passReads p).foldl (fun st (r, o, n) =>
    st.onCore fun c => c.bookEng 9 (4 + r) p.id 0 false (c.streamRows p r o n)) s

/-- Words of w bytes of a role's stream, from an offset. -/
def Core.streamWords (c : Core) (p : Pass) (r o w n : Nat) : List Nat := (List.range n).map fun i => c.streamNum p r (o + i * w) w

/-- The ⊕ identity that stands for an element that is absent: K1 of the cell's class under a custom code (R266, R272). [DEDUCED, log 75] -/
def Pass.absent (p : Pass) (g : KCfg) (cls : Nat) : Nat :=
  if 8 ≤ p.code then g.k1.getD cls 0 else identity p.code (fmtACC p.fmt)

/-- An element as it enters the array. -/
def Pass.enter (p : Pass) (t v : Nat) : Nat := enterForm p.nl t v

/-- The select nibbles of a beat by column (R134). -/
def Core.nibbles (c : Core) (p : Pass) (lanes b : Nat) : List (List Nat) :=
  (List.range p.side).map fun j => (List.range lanes).map fun l =>
    let n := b * 64 * lanes + lanes * j + l
    fld (rdByte c.imem (p.selOff + n / 2)).toNat (4 * (n % 2) + 3) (4 * (n % 2))

/-- The scales of a block. -/
def Core.scales (c : Core) (p : Pass) (r blk : Nat) : List Nat :=
  if fmtBSC p.fmt then c.streamWords p r (blk * p.side) 1 p.side else []

/-- One beat of an uncondensed pass as its edges read it (R121, R127, R133). -/
def Core.edgeBeat (c : Core) (p : Pass) (b : Nat) : EdgeBeat :=
  let e0 : EdgeBeat :=
    { b := b, rows := [], cols := [], nibs := [], sa := [], sb := [], opens := p.opensAt b, closes := p.closesAt b, null := false, nanR := [], nanC := [], blk := 0 }
  match p.flow with
  | 1 =>
    if p.pre then { e0 with cols := (c.streamWords p 1 (b * p.unitBytes 1) (p.wB * p.nl) 64).map fun x => [p.enter (fmtBT p.fmt) x] }
    else { e0 with rows := (c.streamWords p 0 (b * p.unitBytes 0) (p.wA * p.nl) 64).map fun x => [p.enter (fmtAT p.fmt) x] }
  | 2 => { e0 with
      rows := (c.streamWords p 0 (b * 512) 8 64).map fun x => [x]
      cols := (c.streamWords p 1 (b * 256) 4 64).map fun x => [x] }
  | 3 => { e0 with rows := [c.streamWords p 0 (b * 256) 4 64] }
  | _ =>
    let (w, q) := selPattern p.sel
    let wa := p.wA
    let rows :=
      if p.sel = 0 then (c.streamWords p 0 (b * p.unitBytes 0) (wa * p.nl) p.side).map fun x => [p.enter (fmtAT p.fmt) x]
      else (List.range p.side).map fun i => (List.range (p.nl * w)).map fun x =>
        let k := w * ((p.nl * b + x / w) / q) + x % w
        p.enter (fmtAT p.fmt) (c.streamNum p 0 (k / p.nl * p.unitBytes 0 + (i * p.nl + k % p.nl) * wa) wa)
    let cols := (c.streamWords p 1 (b * p.unitBytes 1) (p.wB * p.nl) p.side).map fun x => [p.enter (fmtBT p.fmt) x]
    { e0 with
      rows := rows
      cols := cols
      nibs := if p.sel = 0 then [] else c.nibbles p p.nl b
      sa := c.scales p 2 (p.blockOf b)
      sb := c.scales p 3 (p.blockOf b) }

/-- STREAM_UNIT_CHECK: the edge reads the beat of the cycle; its units are there, or the cycle would not have begun (R121, R140). -/
def execStreamUnitCheck (pass : Nat) (s : State) : Out :=
  .next (match s.kiln.passes.find? fun p => p.id == pass with
    | none => s
    | some p =>
      match p.readBeat s.core.tcc with
      | none => s
      | some b =>
        (s.bookReads p).onPass pass fun p =>
          let e := s.core.edgeBeat p b
          let p1 := if p.flow = 1 && !p.pre && b = 0 then { p with values := (List.range p.blocks).flatMap fun k => (s.core.scales p 3 k).map (BitVec.ofNat 8) } else p
          if p.flow = 3 then { p1 with rowsIn := p1.rowsIn ++ e.rows } else { p1 with edges := p1.edges ++ [e] })

/-! ## The Briquette (R136 to R139) -/

/-- The nonzero (i, k), from the buffer, or from the ring where the buffer has not come to it. [DEDUCED, log 77] -/
def Core.brqValue (c : Core) (p : Pass) (k i : Nat) : Nat :=
  let o := p.rank k i * p.wA
  if o + p.wA ≤ p.values.length then ((p.values.drop o).take p.wA).foldr (fun b acc => b.toNat + 256 * acc) 0
  else c.streamNum p 5 o p.wA

/-- A KSTAT bit set, sticky; `lost` elements counted (R139). -/
def kstatSet (k : W64) (b lost : Nat) : W64 :=
  let v := k.toNat ||| 2 ^ b
  let cnt := satU 16 (fld v 39 24 + lost)
  BitVec.ofNat 64 (fld v 63 40 * 2 ^ 40 + cnt * 2 ^ 24 + fld v 23 0)

/-- The rows, or columns, to which some of these blocks bring a scale of 0xFF (R55, R138). [DEDUCED, log 76] -/
def Core.nanLines (c : Core) (p : Pass) (r : Nat) (blks : List Nat) : List Nat :=
  (List.range p.side).filter fun i => blks.any fun k => (c.scales p r k).getD i 0 == 255

/-- The beat that the Briquette emits for an entry; its block is that of SRC0, else that of the beat before, and before the first it is null
(R137 to R139). [DEDUCED, log 74; DEDUCED, log 75] -/
def Core.condBeat (c : Core) (p : Pass) (b : Nat) : EdgeBeat :=
  let e := c.mapEntry p b
  let src := p.sources e
  let (w, q) := selPattern p.sel
  let prev := (p.edges.getLast?).filter fun o => !o.null
  let known := (p.entryBlock e).orElse fun _ => prev.map (·.blk)
  let isNull := p.ended || (fmtBSC p.fmt && known.isNone)
  let blk := known.getD 0
  let hits := c.newBlocks p b
  let rows := (List.range p.side).map fun i =>
    match p.taken src i with
    | some t => [p.enter (fmtAT p.fmt) (c.brqValue p ((src.getD t none).getD 0) i), t, 1]
    | none => [0, 0, 0]
  let cols := (List.range p.side).map fun j => (List.range 4).map fun t =>
    match src.getD t none with
    | none => 2 ^ 64
    | some k =>
      if p.sel = 0 then p.enter (fmtBT p.fmt) (c.streamNum p 1 (k * p.unitBytes 1 + j * p.wB) p.wB)
      else
        let n := ((c.nibbles p 4 b).getD j []).getD t 15
        if q ≤ n then 2 ^ 64 else p.enter (fmtBT p.fmt) (c.streamNum p 1 ((k / w * q + n) * p.unitBytes 1 + j * p.wB) p.wB)
  { b := b, rows := if isNull then [] else rows, cols := if isNull then [] else cols, nibs := []
    sa := if isNull then [] else c.scales p 2 blk, sb := if isNull then [] else c.scales p 3 blk
    opens := isNull || prev.elim true (fun o => o.closes || o.blk != blk), closes := isNull || b + 1 == p.beatN || bit e 63
    null := isNull, nanR := c.nanLines p 2 hits, nanC := c.nanLines p 3 hits, blk := blk }

/-- The beats at the edges with one more: a beat that opens a block closes that of the beat before, which no cell has met yet (R66, R121). -/
def addBeat (es : List EdgeBeat) (e : EdgeBeat) : List EdgeBeat :=
  match es.getLast? with
  | some o => if e.opens && !o.closes then es.dropLast ++ [{ o with closes := true }, e] else es ++ [e]
  | none => [e]

/-- What an emitted beat leaves in KSTAT (R137, R139). [DEDUCED, log 74; DESIGN CHOICE, log 183] -/
def Core.brqStat (c : Core) (p : Pass) (b : Nat) (k : W64) : W64 :=
  let e := c.mapEntry p b
  let src := p.sources e
  let last := b + 1 == p.beatN
  let dropped := ((List.range p.side).map fun i =>
    ((List.range 4).filter fun t => ((src.getD t none).elim false fun k' => p.bmBit k' i)).length - 1).sum
  let k1 := if !p.ended && 0 < dropped then kstatSet k 0 dropped else k
  let k2 := if last && !p.ended && !bit e 63 then kstatSet k1 1 0 else k1
  let k3 := if !p.ended && p.mixes e then kstatSet k2 2 0 else k2
  let own := if p.ended then none else p.entryBlock e
  if (c.newBlocks p b).any fun k => own != some k then kstatSet k3 3 0 else k3

/-- BRIQUETTE_READ: bitmap rows and values enter the buffer, and a beat is emitted (R137). -/
def execBriquetteRead (pass : Nat) (s : State) : Out :=
  .next (match s.kiln.passes.find? fun p => p.id == pass && p.cnd with
    | none => s
    | some p =>
      let c := s.core
      let reads := c.passReads p
      let bytes := fun (r : Nat) => (reads.filter fun x => x.1 == r).flatMap fun (_, o, n) => (c.streamWords p r o 1 n).map (BitVec.ofNat 8)
      let p1 := { p with bitmap := p.bitmap ++ bytes 4, values := p.values ++ bytes 5 }
      let s1 := s.bookReads p
      match p.readBeat c.tcc with
      | none => s1.onPass pass fun _ => p1
      | some b =>
        let e := c.mapEntry p1 b
        let s2 := s1.onKiln fun k => { k with kstat := c.brqStat p1 b k.kstat }
        s2.onPass pass fun _ => { p1 with
          edges := addBeat p1.edges (c.condBeat p1 b)
          blkNext := ((c.newBlocks p1 b).map (· + 1)).foldl max p1.blkNext
          ended := p1.ended || bit e 63 })

/-! ## Beats in the cells (R121, R125 to R127, R257, R258, R267) -/

/-- The skew of a line: row i is entry i of a table, column j entry 64 + j (R122). [DEDUCED, log 73] -/
def Pass.lineSkew (p : Pass) (col : Bool) (i : Nat) : Nat :=
  match p.skews with
  | some t => t.getD (if col then 64 + i else i) 0
  | none => i

/-- The beat that comes to a cell from the west, or from the north, in a cycle. -/
def Pass.lineBeat (p : Pass) (now : Nat) (col : Bool) (i j : Nat) : Option Nat :=
  let t := p.base + 3 + (if col then p.lineSkew true j + i else p.lineSkew false i + j)
  if t ≤ now ∧ (now - t) % p.s = 0 ∧ (now - t) / p.s < p.beatN then some ((now - t) / p.s) else none

/-- The cycles from the first entry of a beat into the array to its arrival at the last cell: the longest line's skew and way
(R121, R122, R130). [DEDUCED, log 73] -/
def Pass.span (p : Pass) : Nat :=
  if p.skews.isNone then 2 * p.side - 2
  else ((List.range p.side).map fun i => max (p.lineSkew false i) (p.lineSkew true i) + p.side - 1).foldl max 0

/-- Whether the cell meets the first beat of the pass in this cycle. -/
def Pass.firstAt (p : Pass) (now i j : Nat) : Bool :=
  now == p.base + 3 + min (p.lineSkew false i + j) (p.lineSkew true j + i)

/-- The operands of a cell for a beat: WI, NI, whether they are valid, and the lanes present (R133, R134, R137, R139, R258). Under a skew
table a beat is valid when both its operands have come, each with a valid tag (R122, R267). [DESIGN CHOICE, log 72; DEDUCED, log 78] -/
def Pass.beatInputs (p : Pass) (none2 : Nat) (x : Cell) (i j : Nat) (w n : Option Nat) : Nat × Nat × Bool × Nat :=
  let edge := fun (b : Option Nat) => b.bind fun b => p.edges.find? fun e => e.b == b
  let row := (edge w).elim [] fun e => e.rows.getD i []
  let col := (edge n).elim [] fun e => e.cols.getD j []
  if p.cnd then
    let t := row.getD 1 0
    let v := col.getD t (2 ^ 64)
    let ok := row.getD 2 0 == 1 && v < 2 ^ 64
    (row.getD 0 0, if v < 2 ^ 64 then v else none2, ok, b2n ok)
  else if p.sel != 0 then
    let (gw, _) := selPattern p.sel
    let nib := (edge n).elim [] fun e => e.nibs.getD j []
    let pick := (List.range p.nl).map fun l => let z := nib.getD l 15; if z < gw then row.getD (gw * l + z) 0 else 0
    let lanes := ((List.range p.nl).map fun l => if nib.getD l 15 < gw then 2 ^ l else 0).sum
    let lanes4 := ((List.range p.nl).map fun l => if bit lanes l && (p.nl == 1 || p.nl * w.getD 0 + l < p.ext / gw * (selPattern p.sel).2) then 2 ^ l else 0).sum
    (pick.zipIdx.foldl (fun acc v => acc + v.1 * 2 ^ (8 * p.wA * v.2)) 0, col.headD 0, bit lanes 0 && w.isSome && n.isSome, lanes4)
  else
    let wi := if j = 0 then row.headD 0 else x.wi.toNat
    let ni := if p.flow = 1 && !p.pre then x.ni.toNat else if i = 0 then col.headD 0 else x.ni.toNat
    let lanes := ((List.range p.nl).map fun l => if p.nl * w.getD 0 + l < p.ext || p.flow == 1 then 2 ^ l else 0).sum
    match w, n with
    | some _, some _ => (wi, ni, p.skews.isNone || ((j == 0 || x.valid) && (i == 0 || x.validN)), lanes)
    | some b, none => (wi, Config.openValue 1 b (64 * i + j), false, lanes)
    | none, some b => (Config.openValue 2 b (64 * i + j), ni, false, lanes)
    | none, none => (wi, ni, false, lanes)

/-- Give the neighbours what a cell drives (R267); with a block-scaled partial sum its open window goes south (R66, R126). -/
def Kiln.drive (k : Kiln) (side r0 c0 i j : Nat) (o : CellOut) (valid : Bool) (win : Option TVal) : Kiln :=
  let k1 := if j + 1 < side then
    k.setCell (r0 + i) (c0 + j + 1) { k.cell (r0 + i) (c0 + j + 1) with wi := BitVec.ofNat 64 o.east, valid := valid } else k
  if i + 1 < side then
    let c := k1.cell (r0 + i + 1) (c0 + j)
    k1.setCell (r0 + i + 1) (c0 + j) { c with ni := BitVec.ofNat 64 o.south, validN := valid, blk := win.getD c.blk }
  else k1

/-- What a beat brings a cell besides its operands. Under WS a block runs down eight rows of four lanes, column j's scale of block k is
byte 64k + j of role 3, and where A's scale of row m of the pass stands is not given (R54, R65, R284). [DESIGN CHOICE, log 79] -/
def Pass.ctxOf (p : Pass) (e : EdgeBeat) (i j : Nat) (first valid : Bool) (lanes : Nat) : BeatCtx :=
  let x : BeatCtx := { fmt := p.fmt, opens := e.opens, closes := e.closes, fresh := p.fresh && first, sa := e.sa.getD i 0, sb := e.sb.getD j 0
                       lanes := lanes, valid := valid }
  if p.flow = 1 then
    { x with
      opens := i % 8 == 0, closes := i % 8 == 7
      sa := Config.openValue 3 e.b (i / 8) % 256, sb := (p.values.getD (64 * (i / 8) + j) 0).toNat }
  else x

/-- A cell's step under OS or SPLIT4 on the fixed datapath; `nan`: a block with a scale of 0xFF reaches the cell's row or column
(R65, R66, R121, R125, R135, R138). [DEDUCED, log 76] -/
def Pass.fixedCell (p : Pass) (x : BeatCtx) (null nan : Bool) (c : Cell) (now wi ni : Nat) : CellOut :=
  let a := c.absorb
  let c1 := a.c1.toNat
  let base := if x.fresh then identity p.code (fmtACC p.fmt) else c1
  let start := if nan then fp32.nan else base
  let four := fourLane p.fmt p.code
  let act := !null && (four || x.valid)
  let (t, r, fl) := if act then fixedStep x p.code a.blk start wi ni else (a.blk, start, 0)
  { cell := { a with
      c0 := if x.fresh then a.c1 else a.c0
      blk := t
      due := if act || x.fresh || nan then some (now + p.s - 1, BitVec.ofNat 64 r) else none }
    east := wi
    south := ni
    flags := fl ||| (if nan then flagSN else 0) }

/-- A cell's step under WF on the fixed datapath (R127). -/
def Pass.wfCell (p : Pass) (c : Cell) (now wi ni : Nat) : CellOut :=
  let (v, idx) := wfStep (p.code == 2 || p.code == 5) wi ni p.arg
  let r := if p.code = 5 ∨ p.code = 6 then Form.p16.put (idx * 2 ^ 32 + v) else Form.i16.put v
  { cell := { c.absorb with due := some (now, BitVec.ofNat 64 r) }
    east := forward 7 true wi ni 0 0 0 r
    south := forward 7 false wi ni 0 0 0 r
    flags := 0 }

/-- A cell's step under WS on the fixed datapath (R126). A block-scaled partial sum passes the rows of a block with its open window, and
the last of them rounds it in (R66). [DESIGN CHOICE, log 79] -/
def Pass.wsCell (p : Pass) (x : BeatCtx) (b i : Nat) (c : Cell) (wi ni : Nat) : CellOut :=
  if p.pre then
    { cell := if b = i then { c with c0 := BitVec.ofNat 64 (if (8 ≤ fmtBT p.fmt && fmtBT p.fmt ≤ 9) then (typeForm (fmtBT p.fmt)).put ni else ni) } else c
      east := wi, south := ni, flags := 0 }
  else
    let (t, r, fl) := fixedStep x p.code (if fmtBSC p.fmt then c.blk else .empty) ni wi c.c0.toNat
    { cell := { c with blk := t }, east := wi, south := r, flags := fl }

/-- A cell's step, by the pass's flow and code, at local coordinates (i, j); beat 0 sets u (R119, R257). [DEDUCED, log 78] -/
def Pass.stepCell (p : Pass) (g : KCfg) (cls : Nat) (x : BeatCtx) (e : EdgeBeat) (i j now : Nat) (c0 : Cell) (wi ni : Nat) : CellOut :=
  let c := if p.firstAt now i j then { c0 with u := g.sp.getD cls 0 } else c0
  if p.flow = 1 && p.pre then p.wsCell x e.b i c wi ni
  else if 8 ≤ p.code then runMicro g cls x c.absorb wi ni
  else
    match p.flow with
    | 1 => p.wsCell x e.b i c wi ni
    | 2 => p.wfCell c now wi ni
    | _ => p.fixedCell x e.null (e.nanR.contains i || e.nanC.contains j) c now wi ni

/-- The direction of a WF cell (R127, R267). -/
def Cell.dir (c : Cell) : Nat := fld c.absorb.c1.toNat 33 32

/-- The low bytes of c1 as a WF output (R127, R284). -/
def Pass.wfElem (p : Pass) (c : Cell) : List Byte :=
  leBytes c.absorb.c1.toNat (if p.code = 5 ∨ p.code = 6 then 8 else 2)

/-- The outputs that the beats w and n from the west and the north set on their way: cycle, store, offset, bytes. What leaves to the south
is of the beat that came from the north (R126, R127). [DEDUCED, log 73] -/
def Core.cellOuts (c : Core) (p : Pass) (w n : Option Nat) (i j now : Nat) (o : CellOut) : List (Nat × Bool × Nat × List Byte) :=
  let ring := fun (r off : Nat) (d : List Byte) (t : Nat) =>
    match p.role r with | some x => [(t, false, c.streamOff p x off, d)] | none => []
  match p.flow with
  | 1 => n.elim [] fun b => if !p.pre && i = 63 then [(now + p.s + 2, true, p.wordOff b j, leBytes o.south p.wC)] else []
  | 2 =>
    let el := p.wfElem o.cell
    (w.elim [] fun b => if j = 63 then ring 4 (b * p.unitBytes 4 + i * el.length) el (now + 3) else []) ++
    (n.elim [] fun b => if i = 63 then ring 5 (b * p.unitBytes 5 + j * el.length) el (now + 3) else [])
  | _ => []

/-- Whether a cell of a TRI pass issues a micro-bundle in a cycle (R128, R257). -/
def Pass.triTurn (p : Pass) (now i j : Nat) : Bool :=
  j ≤ i && i < p.n && p.base + 3 + i + j ≤ now && now < p.base + 3 + i + j + p.s * p.beatN

/-- The operands of a TRI cell at a beat's arrival: what its neighbours drove (R258, R267). Open is what enters at the edge, and under the
programs of R273, whose operand routing is the flow's own, every operand. [DESIGN CHOICE, log 86] -/
def Pass.triInputs (p : Pass) (c : Cell) (now i j : Nat) : Nat × Nat :=
  (if p.std || j == 0 then Config.openValue 9 now (64 * i + j) % 2 ^ 32 else c.wi.toNat,
   if p.std || i == j then Config.openValue 10 now (64 * i + j) % 2 ^ 32 else c.ni.toNat)

/-- A cell of a TRI pass issues a micro-bundle in each cycle of a beat, on the inputs of the beat's arrival; in the beat's last cycle its
neighbours latch what it drives (R119, R128, R257, R258, R267). The flags of the programs of R273 come with their results. -/
def State.triIssue (s : State) (p : Pass) (i j : Nat) : State :=
  let now := s.core.tcc
  let at0 := p.base + 3 + i + j
  if p.triTurn now i j then
    let k := s.kiln
    let c := k.cell i j
    let g := k.cfgOf c
    let cls := cellClass g.map i j
    let arrives := (now - at0) % p.s == 0
    let (wi, ni) := if arrives then p.triInputs c now i j else (p.held.lookup (64 * i + j)).getD (0, 0)
    let x : BeatCtx :=
      { fmt := p.fmt, opens := true, closes := true, fresh := p.fresh && now == at0, sa := 0, sb := 0, lanes := 1, valid := true }
    let o := runMicro g cls x { c.absorb with u := if now = at0 then g.sp.getD cls 0 else c.u } wi ni
    let k1 := k.setCell i j o.cell
    let k2 := if (now - at0) % p.s + 1 = p.s then k1.drive 64 0 0 i j o true none else k1
    (s.onKiln fun _ => k2).onPass p.id fun q => { q with
      flags := if q.std then q.flags else q.flags ||| o.flags
      held := (q.held.filter fun e => e.1 != 64 * i + j) ++ [(64 * i + j, wi, ni)] }
  else s

/-- BEAT_ARRIVAL at a cell (R121). -/
def execBeatArrival (pass : Nat) (i j : BitVec 6) (s : State) : Out :=
  .next (match s.kiln.passes.find? fun p => p.id == pass with
    | none => s
    | some p =>
      if p.flow = 3 then s.triIssue p i.toNat j.toNat else
      let now := s.core.tcc
      let (r0, c0) := quadOrg p.quad
      let li := i.toNat - r0
      let lj := j.toNat - c0
      let w := p.lineBeat now false li lj
      let n := p.lineBeat now true li lj
      match if p.flow = 1 then (if p.pre then n else n.orElse fun _ => w) else w.orElse fun _ => n with
      | none => s
      | some b =>
        let k := s.kiln
        let c := k.cell i.toNat j.toNat
        let g := k.cfgOf c
        let cls := cellClass g.map i.toNat j.toNat
        let (wi, ni, valid, lanes) := p.beatInputs (p.absent g cls) c li lj w n
        let e := (p.edges.find? fun e => e.b == b).getD ⟨b, [], [], [], [], [], false, true, true, [], [], 0⟩
        let x := p.ctxOf e li lj (p.firstAt now li lj) valid lanes
        let o := p.stepCell g cls x e li lj now c wi ni
        let k1 := (k.setCell i.toNat j.toNat o.cell).drive p.side r0 c0 li lj o valid (if p.flow = 1 ∧ fmtBSC p.fmt then some o.cell.blk else none)
        let s1 := s.onKiln fun _ => k1
        s1.onPass pass fun q => { q with
          flags := q.flags ||| o.flags
          outs := q.outs ++ s.core.cellOuts p w n li lj now o
          rowsIn := if p.dirs then (q.rowsIn.filter fun r => !(p.skewed && r.take 3 == [b, li, lj])) ++ [[b, li, lj, o.cell.dir]] else q.rowsIn })

/-! ## Outputs (R126, R127, R284) -/

/-- The writes of a pass that fall in this cycle. -/
def State.passWrites (s : State) (p : Pass) : State :=
  let now := s.core.tcc
  let due := p.outs.filter fun o => o.1 == now
  let s1 := due.foldl (fun st o => st.onCore fun c => c.engWrite 9 13 p.id o.2.1 o.2.2.1 o.2.2.2) s
  s1.onPass p.id fun q => { q with outs := q.outs.filter fun o => o.1 != now }

/-- WS_PARTIAL_WRITE: the column entries of the next arrivals are formed, and the sums that have left row 63 are written (R126). -/
def execWsPartialWrite (pass : Nat) (s : State) : Out :=
  .next (match s.kiln.passes.find? fun p => p.id == pass && p.flow == 1 && !p.pre with
    | none => s
    | some p =>
      let now := s.core.tcc
      let s1 := s.passWrites p
      (List.range 64).foldl (fun st j =>
        let t := p.base + 2 + p.lineSkew true j
        if t ≤ now ∧ (now - t) % p.s = 0 ∧ (now - t) / p.s < p.beatN then
          let off := p.wordOff ((now - t) / p.s) j
          let c := st.kiln.cell 0 j
          let v := if p.accum then (typeForm (fmtACC p.fmt)).put (rdLE s.core.acc off p.wC) else
            let g := st.kiln.cfgOf c
            p.absent g (cellClass g.map 0 j)
          let st1 := if p.accum then st.onCore fun q => q.bookEng 9 14 p.id 1 false [off] else st
          st1.onKiln fun k => k.setCell 0 j { c with ni := BitVec.ofNat 64 v }
        else st) s1)

/-- The 1 KiB of directions of a beat (R127). -/
def dirBytes (l : List (List Nat)) (b : Nat) : List Byte :=
  let mine := l.filter fun e => e.getD 0 0 == b
  leBytes ((mine.map fun e => e.getD 3 0 * 2 ^ (128 * e.getD 1 0 + 2 * e.getD 2 0)).sum) 1024

/-- WF_OUTPUT_WRITE: boundary values, and the directions of a beat whose last cell is done (R127). [DESIGN CHOICE, log 185] -/
def execWfOutputWrite (pass : Nat) (s : State) : Out :=
  .next (match s.kiln.passes.find? fun p => p.id == pass && p.flow == 2 with
    | none => s
    | some p =>
      let now := s.core.tcc
      let s1 := s.passWrites p
      let b := now - (p.base + 5 + p.span)
      if p.dirs ∧ p.base + 5 + p.span ≤ now ∧ b < p.beatN then
        match p.role 6 with
        | some x =>
          let s2 := s1.onCore fun c => (List.range 16).foldl (fun (q : Core) u =>
            q.engWrite 9 15 p.id false (s.core.streamOff p x (1024 * b + 64 * u)) (((dirBytes p.rowsIn b).drop (64 * u)).take 64)) c
          s2.onPass pass fun q => { q with rowsIn := q.rowsIn.filter fun e => e.getD 0 0 != b }
        | none => s1
      else s1)

/-! ## The triangular flow (R128, R129, R273) -/

/-- FP32 values of one matrix or vector. -/
abbrev Row32 := List Nat

/-- v := round(v − a·b), one rounding, with its flags. -/
def triSub (x : BeatCtx) (v a b : Nat) : Nat × BitVec 7 :=
  let m := exactMul (fp32.read (fmtFTZ x.fmt) a) (fp32.read (fmtFTZ x.fmt) b)
  let r := addRound x v m.1.negate
  (r.1, m.2 ||| r.2)

/-- round(a·b). -/
def triMul (x : BeatCtx) (a b : Nat) : Nat × BitVec 7 :=
  let r := combine x 10 2 a b (.bits 0) 0 0 0
  (r.1.read, r.2)

/-- round(v + a·b). -/
def triAdd (x : BeatCtx) (v a b : Nat) : Nat × BitVec 7 :=
  let m := exactMul (fp32.read (fmtFTZ x.fmt) a) (fp32.read (fmtFTZ x.fmt) b)
  let r := addRound x v m.1
  (r.1, m.2 ||| r.2)

/-- An entry of a square matrix kept as rows. -/
def mat (m : List Row32) (i j : Nat) : Nat := (m.getD i []).getD j 0

/-- Set an entry. -/
def setMat (m : List Row32) (i j v : Nat) : List Row32 := m.set i ((m.getD i []).set j v)

/-- The Cholesky factor of the lower triangle w of order n, and the reciprocals of its pivots (R128, R129, R273). -/
def factor (x : BeatCtx) (n : Nat) (w : List Row32) : List Row32 × List Nat × BitVec 7 :=
  (List.range n).foldl (fun (acc : List Row32 × List Nat × BitVec 7) j =>
    let (m, rs, fl) := acc
    let r := cellRsq (fmtFTZ x.fmt) (mat m j j)
    let col := (List.range (n - j)).foldl (fun (a : List Row32 × BitVec 7) d =>
      let v := triMul x (mat m (j + d) j) r.1
      (setMat a.1 (j + d) j v.1, a.2 ||| v.2)) (m, fl ||| r.2)
    let rest := (List.range (n - j - 1)).foldl (fun (a : List Row32 × BitVec 7) d =>
      (List.range (d + 1)).foldl (fun (a : List Row32 × BitVec 7) e =>
        let i := j + 1 + d
        let k := j + 1 + e
        let v := triSub x (mat a.1 i k) (mat col.1 i j) (mat col.1 k j)
        (setMat a.1 i k v.1, a.2 ||| v.2)) a) col
    (rest.1, rs ++ [r.1], rest.2)) (w, [], 0)

/-- A = JᵀJ + λI from m Jacobian rows (R128). -/
def assemble (x : BeatCtx) (n lam : Nat) (rows : List Row32) : List Row32 × BitVec 7 :=
  let cells := (List.range n).map fun i => (List.range (i + 1)).map fun j =>
    let a := rows.foldl (fun (acc : Nat × BitVec 7) r =>
      let v := triAdd x acc.1 (r.getD i 0) (r.getD j 0)
      (v.1, acc.2 ||| v.2)) (0, 0)
    if i = j then
      let v := addRound x a.1 (fp32.read (fmtFTZ x.fmt) lam)
      (v.1, a.2 ||| v.2)
    else a
  (cells.map fun r => r.map (·.1), cells.foldl (fun acc r => r.foldl (fun a v => a ||| v.2) acc) 0)

/-- The solution for one right-hand side: L from c1 and the reciprocals from c0 of the diagonal (R128, R273). -/
def triSolve (x : BeatCtx) (n : Nat) (back : Bool) (l : Nat → Nat → Nat) (r : Nat → Nat) (v : Row32) : Row32 × BitVec 7 :=
  let order := if back then (List.range n).reverse else List.range n
  order.foldl (fun (acc : Row32 × BitVec 7) i =>
    let y := triMul x (acc.1.getD i 0) (r i)
    let rest := order.filter fun k => if back then k < i else i < k
    rest.foldl (fun (a : Row32 × BitVec 7) k =>
      let z := triSub x (a.1.getD k 0) (if back then l i k else l k i) y.1
      (a.1.set k z.1, a.2 ||| z.2)) (acc.1.set i y.1, acc.2 ||| y.2)) (v, 0)

/-- Beats per matrix, and the beat that follows matrix q's last one (R128). -/
def Pass.triBeats (p : Pass) : Nat := if p.trim = 0 then p.n else if p.trim = 1 then p.ext + p.n else 1
def Pass.triEnd (p : Pass) (q : Nat) : Nat := (q + 1) * p.triBeats

/-- The cycle in which the result of matrix or right-hand side q is written: that of R128, and no earlier than its last read.
[DESIGN CHOICE, log 186] -/
def Pass.triAt (p : Pass) (q : Nat) : Nat :=
  if p.trim ≤ 1 then max (p.base + p.triEnd q + 3 * p.n + 128) (p.base + p.s * (p.triEnd q - 1))
  else max (p.base + q + 2 * p.n + 131) (p.base + p.s * q)

/-- The results of a TRI pass. -/
def Pass.triCount (p : Pass) : Nat := if p.trim ≤ 1 then p.q else p.ext

/-- The context of a TRI step. -/
def Pass.triCtx (p : Pass) : BeatCtx :=
  { fmt := p.fmt, opens := true, closes := true, fresh := false, sa := 0, sb := 0, lanes := 1, valid := true }

/-- Whether a kzero of c0 or c1 has met the steps of matrix or right-hand side q, which began when its first beat came to a cell
(R121, R287). [DEDUCED, log 85] -/
def Pass.triZeroed (p : Pass) (q : Nat) : Bool := p.zeroed.any fun z => p.base + 3 + p.s * (q * p.triBeats) ≤ z

/-- Under the programs of R273 matrix q's factor stands in c1, its reciprocals in c0 and L in T of the diagonal (R128); other programs have
left in the cells what they formed. Open are T below the diagonal, and all when a kzero has met the steps. [DEDUCED, log 85; DESIGN CHOICE, log 86] -/
def State.triFactor (s : State) (p : Pass) (q : Nat) : State :=
  if !p.std then s else
  let x := p.triCtx
  let std := !p.triZeroed q
  let rows := (p.rowsIn.drop (q * p.triBeats)).take (if p.trim = 0 then p.n else p.ext)
  let (w, f0) := if p.trim = 0 then ((rows.zipIdx.map fun r => r.1.take (r.2 + 1)), (0 : BitVec 7)) else assemble x p.n (p.arg % 2 ^ 32) rows
  let (l, rs, f1) := factor x p.n w
  let put := fun (k : Kiln) (i j : Nat) =>
    let c := (k.cell i j).absorb
    let c' := if std then { c with c1 := BitVec.ofNat 64 (mat l i j), c0 := if i = j then BitVec.ofNat 64 (rs.getD i 0) else c.c0 }
      else { c with c1 := BitVec.ofNat 64 (Config.openValue 4 q (64 * i + j)), c0 := BitVec.ofNat 64 (Config.openValue 5 q (64 * i + j)) }
    k.setCell i j { c' with t := .bits (BitVec.ofNat 64 (if std && i == j then mat l i i else Config.openValue 6 q (64 * i + j))) }
  let s1 := s.onKiln fun k => (List.range p.n).foldl (fun k i => (List.range (i + 1)).foldl (fun k j => put k i j) k) k
  s1.onPass p.id fun r => { r with flags := r.flags ||| (if std then f0 ||| f1 else 0) }

/-- What a solve leaves in T: the solution's element on the diagonal, below it the exact product of L and the element that came from the north
(R262, R273). [DESIGN CHOICE, log 86] -/
def triT (x : BeatCtx) (back : Bool) (l : Nat → Nat → Nat) (y : Row32) (i j : Nat) : TVal :=
  if i = j then .bits (BitVec.ofNat 64 (y.getD i 0))
  else .prod (exactMul (fp32.read (fmtFTZ x.fmt) (l i j)) (fp32.read (fmtFTZ x.fmt) (y.getD (if back then i else j) 0))).1

/-- Right-hand side h's solution, and T as its steps leave it; the words beyond n are open, as are all words under other programs or when a kzero
has met the steps. [DEDUCED, log 85; DESIGN CHOICE, log 86] -/
def State.triSolution (s : State) (p : Pass) (h : Nat) : State :=
  let k := s.kiln
  let std := p.std && !p.triZeroed h
  let v := p.rowsIn.getD h []
  let l := fun i j => ((k.cell i j).settle s.core.tcc).c1.toNat % 2 ^ 32
  let r := fun i => ((k.cell i i).settle s.core.tcc).c0.toNat % 2 ^ 32
  let (y, fl) := triSolve p.triCtx p.n (p.trim == 3) l r (v.take p.n)
  let words := (List.range 64).map fun i => if std && i < p.n then y.getD i 0 else Config.openValue 7 h i % 2 ^ 32
  match p.role 7 with
  | some x =>
    let s1 := s.onCore fun c => (List.range 4).foldl (fun (q : Core) u =>
      q.engWrite 9 13 p.id false (s.core.streamOff p x (256 * h + 64 * u)) (((words.drop (16 * u)).take 16).flatMap fun w => leBytes w 4)) c
    let t := fun (i j : Nat) => if std then triT p.triCtx (p.trim == 3) l y i j else .bits (BitVec.ofNat 64 (Config.openValue 6 h (64 * i + j)))
    let s2 := if p.std then s1.onKiln fun k => (List.range p.n).foldl (fun k i => (List.range (i + 1)).foldl (fun (k : Kiln) j =>
        k.setCell i j { k.cell i j with t := t i j }) k) k
      else s1
    s2.onPass p.id fun q => { q with flags := q.flags ||| (if std then fl else 0) }
  | none => s

/-- TRI_SOLUTION_WRITE: the factor or the solution that falls due in this cycle (R128). -/
def execTriSolutionWrite (pass : Nat) (s : State) : Out :=
  .next (match s.kiln.passes.find? fun p => p.id == pass && p.flow == 3 with
    | none => s
    | some p => ((List.range p.triCount).filter fun q => p.triAt q == s.core.tcc).foldl
        (fun st q => if p.trim ≤ 1 then st.triFactor p q else st.triSolution p q) s)

/-! ## The end of a pass (R63, R83, R123, R284) -/

/-- The cycle in which a pass's final values stand, and its flags are set (R63, R121 to R128). [DEDUCED, log 73] -/
def Pass.fin (p : Pass) : Nat :=
  match p.flow with
  | 1 => p.base + p.s * p.beatN + 5 + p.span
  | 2 => p.base + p.beatN + 5 + p.span
  | 3 => p.triAt (p.triCount - 1) + b2n (p.trim ≤ 1)
  | _ => p.base + p.s * p.beatN + 3 + p.span

/-- The cycle of a pass's last output write (R284). -/
def Pass.lastOut (p : Pass) : Nat :=
  if p.flow = 3 then p.triAt (p.triCount - 1) else p.base + p.beatN + 5 + p.span

/-- A ring's HEAD, or its TAIL, moves on by tiles (R83). -/
def Ring.move (g : Ring) (out : Bool) (n : Nat) : Ring :=
  if out then { g with tail := g.tail + BitVec.ofNat 32 n } else { g with head := g.head + BitVec.ofNat 32 n }

/-- The rings when a pass gives up its input, or its output, roles. -/
def Pass.moveRings (p : Pass) (out : Bool) (rs : Vector Ring 8) : Vector Ring 8 :=
  (p.roles.filter fun r => p.isOut r.r == out).foldl (fun acc r => vset acc r.ring ((vget .none acc r.ring).move out r.tiles)) rs

/-- PASS_RETIRE: every input ring that the pass names moves HEAD on by its tiles (R83, R123). -/
def execPassRetire (pass : Nat) (s : State) : Out :=
  .next (match s.kiln.passes.find? fun p => p.id == pass && p.retire == s.core.tcc with
    | none => s
    | some p => (s.onEng fun e => { e with rings := p.moveRings false e.rings }).onPass pass fun q => { q with roles := q.roles.filter fun r => q.isOut r.r })

/-- OUTPUT_RING_ADVANCE: with its last output write a pass moves TAIL on by its declared tiles (R284). -/
def execOutputRingAdvance (pass : Nat) (s : State) : Out :=
  .next (match s.kiln.passes.find? fun p => p.id == pass && p.lastOut == s.core.tcc with
    | none => s
    | some p => (s.onEng fun e => { e with rings := p.moveRings true e.rings }).onPass pass fun q => { q with roles := q.roles.filter fun r => !q.isOut r.r })

/-- The flags of passes whose final values stand in this cycle (R63). -/
def Kiln.flagsAt (k : Kiln) (now : Nat) : BitVec 7 :=
  k.passes.foldl (fun acc p => if p.fin = now then acc ||| p.flags else acc) 0

/-- What is over is forgotten: passes past their final values, tokens past the last cell. -/
def Kiln.forget (k : Kiln) (now : Nat) : Kiln :=
  { k with
    passes := k.passes.filter fun p => now ≤ p.fin || now ≤ p.retire
    tokens := k.tokens.filter fun t => now ≤ t.w + 129 || t.cfg.isNone }

/-- The edges that every cell is done with. -/
def Pass.trimEdges (p : Pass) (now : Nat) : Pass :=
  { p with edges := p.edges.filter fun e => now ≤ p.base + p.s * e.b + 4 + p.span }

/-! ## The Kiln's steps in a cycle -/

/-- The cells of a pass at which a beat arrives in a cycle, the far ones first (R121). -/
def Pass.arrivals (p : Pass) (now : Nat) : List (Nat × Nat) :=
  if now < p.base + 3 ∨ p.fin < now then []
  else if p.flow = 3 then (List.range p.n).flatMap fun i => ((List.range (i + 1)).filter (p.triTurn now i)).map fun j => (i, j)
  else
    (List.range (2 * p.side - 1)).reverse.flatMap fun d =>
      (diagonal p.side d).filter fun (i, j) => (p.lineBeat now false i j).isSome || (p.lineBeat now true i j).isSome

/-- The events of drains, configuration and rings that fall in this cycle. -/
def Kiln.earlyEvents (k : Kiln) (now : Nat) : List Instr :=
  (k.drains.filter fun d => d.start + 2 ≤ now).map (fun d => Instr.drainRow d.id) ++
  ((sortBy (fun (a b : ShadowWrite) => a.done ≤ b.done) (k.writes.filter fun w => w.done ≤ now)).map fun w => .shadowConfigWrite w.id) ++
  ((k.tokens.filter fun t => t.cfg.isNone && t.w ≤ now).map fun t => .switchTokenInject t.id) ++
  ((k.tokens.filter fun t => t.cfg.isSome && t.w + 3 ≤ now).flatMap fun t =>
    let (r, c) := quadOrg t.quad
    (diagonal (quadSide t.quad) (now - t.w - 3)).map fun x => .switchTokenArrival (BitVec.ofNat 6 (r + x.1)) (BitVec.ofNat 6 (c + x.2))) ++
  ((k.krings.filter fun r => r.start ≤ now).map fun r => .kringApply r.id) ++
  ((k.passes.filter fun p => p.retire == now).map fun p => .passRetire p.id)

/-- The events of passes that fall in this cycle, starts first and zeroing last. -/
def Kiln.passEvents (k : Kiln) (now : Nat) : List Instr :=
  ((k.passes.filter fun p => p.start == now).map fun p => Instr.passStart p.id) ++
  ((k.passes.filter fun p => p.start ≤ now && now < p.retire).flatMap fun p =>
    if p.cnd then [.briquetteRead p.id] else if (p.readBeat now).isSome then [.streamUnitCheck p.id] else []) ++
  (k.passes.flatMap fun p =>
    let (r, c) := quadOrg p.quad
    (p.arrivals now).map fun x => .beatArrival p.id (BitVec.ofNat 6 (r + x.1)) (BitVec.ofNat 6 (c + x.2))) ++
  ((k.passes.filter fun p => p.flow == 1 && !p.pre && p.base + 2 ≤ now).map fun p => .wsPartialWrite p.id) ++
  ((k.passes.filter fun p => p.flow == 2 && p.base + 3 ≤ now).map fun p => .wfOutputWrite p.id) ++
  ((k.passes.filter fun p => p.flow == 3 && (List.range p.triCount).any fun q => p.triAt q == now).map fun p => .triSolutionWrite p.id) ++
  ((k.passes.filter fun p => p.lastOut == now && p.roles.any fun r => p.isOut r.r).map fun p => .outputRingAdvance p.id) ++
  ((k.zeros.filter fun z => z.start == now).map fun z => .kzeroApply z.id)

end Sys2Proof.Machine
end

