-- ==== Sys2Proof/Machine/Vmem.lean ====
section
/-! DEFINITION. VMEM: vector loads and stores, and vacc (R238 to R244). -/

namespace Sys2Proof.Machine

/-- VMEM's operands a, b, c (R238). -/
def vmA (s : State) : W64 := s.core.port 7 1
def vmB (s : State) : VReg := s.core.vport 7 2
def vmC (s : State) : VReg := s.core.vport 7 3

/-- A VMEM trigger: the effective address first, then the form (R227, R238). -/
def vmemOp (m : Move) (s : State) (body : Nat → Except Exc State) : Out :=
  scalarTrigger 7 m s fun t => (effAddr (vmA s) t).bind body

/-- The rows of an access of n bytes from a 64-byte-aligned offset (R79). -/
def rowsOf (off n : Nat) : List Nat := (List.range (n / 64)).map fun r => off + 64 * r

/-- 256 bytes of a store as a vector (R239). -/
def vecAt (m : Mem) (off : Nat) : VReg := BitVec.ofNat 2048 (rdLE m off 256)

/-- A region a form does not list: a gap, or VMEM_SPACE (R238, R244). -/
def vmemSpace (r : Region) (ea : Nat) : Exc :=
  match r with
  | .gap => memExc .windowGap ea
  | _ => memExc .vmemSpace ea

/-- A vector load of n bytes from the scratchpad (R239). -/
def State.vload (s : State) (n : Nat) (f : Nat → VReg) (ea : Nat) : Except Exc State :=
  match regionOf ea with
  | .sp off => do
    must (off + n ≤ spSize) (memExc .windowGap ea)
    must (ea % 64 == 0) (memExc .align ea)
    must (s.core.task.spOk off n) (memExc .footprint ea)
    s.copyCheck 0 [(off, n)]
    let s1 ← s.book 7 0 0 false (rowsOf off n)
    let s2 ← s1.vectorResult 7 6 (f off)
    s.sbmRanges 0 [(off, n)]
    return s2
  | r => .error (vmemSpace r ea)

/-- vld (R239). -/
def execVld (m : Move) (s : State) : Out := vmemOp m s (s.vload 256 fun off => vecAt s.core.sp off)

/-- vld8 (R239): each byte zero-extended to a lane. -/
def execVld8 (m : Move) (s : State) : Out :=
  vmemOp m s (s.vload 64 fun off => vgen fun l => (rdByte s.core.sp (off + l)).setWidth 32)

/-- A 256-byte store to the issuing core's scratchpad, performed in t + 2 (R239). -/
def State.vstoreLocal (s : State) (ea : Nat) (rows : List (Nat × Nat × Nat)) : Except Exc State := do
  must (rows.all fun r => s.core.task.spOk r.1 r.2.1) (memExc .footprint ea)
  must (rows.all fun r => !s.core.indexHit r.1 r.2.1) (memExc .windowIndex ea)
  let s1 ← s.book 7 0 2 true (rows.flatMap fun r => rowsOf r.1 r.2.1)
  s1.issue 7 (match rows with
    | [(a, n, v)] => [(2, .spWrite a n v, 0)]
    | _ => [(2, .spLanes (rows.flatMap fun r =>
        (List.range (r.2.1 / 4)).map fun i => (r.1 + 4 * i, BitVec.ofNat 32 (r.2.2 / 2 ^ (32 * i)))), 0)])

/-- vst: the scratchpad, or a peer's as a push store (R239). -/
def execVst (m : Move) (s : State) : Out :=
  vmemOp m s fun ea =>
    match regionOf ea with
    | .sp off => do
      must (off + 256 ≤ spSize) (memExc .windowGap ea)
      must (ea % 64 == 0) (memExc .align ea)
      s.vstoreLocal ea [(off, 256, (vmB s).toNat)]
    | .peer i o => do
      must (ea % 64 == 0) (memExc .align ea)
      match s.core.pushBad i o 256 ea with
      | some e => .error e
      | none => return s.sendPush i o (leBytes (vmB s).toNat 256)
    | r => .error (vmemSpace r ea)

/-- The address of lane l of an indexed access (R240). -/
def laneAddr (s : State) (ea l : Nat) : Nat := ea + 4 * laneN (vmC s) l

/-- The first fault among the lanes of an indexed access, in the order of R229 (R240). [DEDUCED, log 60] -/
def State.lanesBad (s : State) (ea : Nat) : Option Exc :=
  let addrs := (List.range 64).map (laneAddr s ea)
  let gapOf := addrs.find? fun a => regionOf a = .gap
  let space := addrs.find? fun a => match regionOf a with | .sp _ => false | _ => true
  match addrs.find? fun a => 2 ^ 57 ≤ a with
  | some a => some (memExc .addrRange a)
  | none =>
    match gapOf with
    | some a => some (memExc .windowGap a)
    | none =>
      match space with
      | some a => some (memExc .vmemSpace a)
      | none =>
        if ea % 4 ≠ 0 then some (memExc .align ea)
        else (addrs.find? fun a => !s.core.task.spOk (a - spBase) 4).map (memExc .footprint ·)

/-- The scratchpad offsets of group g's lanes (R240). -/
def groupOffs (s : State) (ea g : Nat) : List Nat :=
  (List.range 16).map fun i => laneAddr s ea (16 * g + i) - spBase

/-- Two lanes of one group that name different rows of one bank (R240). -/
def vidxClash (offs : List Nat) : Bool :=
  offs.any fun a => offs.any fun b => (bankOf 0 a).1 == (bankOf 0 b).1 && (bankOf 0 a).2 != (bankOf 0 b).2

/-- The checks of vldx and vstx (R240, R244). [DEDUCED, log 60] -/
def State.indexedBad (s : State) (ea : Nat) : Option Exc :=
  match s.lanesBad ea with
  | some e => some e
  | none =>
    if (List.range 4).any fun g => vidxClash (groupOffs s ea g) then some (memExc .vidxConflict ea) else none

/-- The lanes of group g read from the scratchpad, in their places (R240). -/
def gatherGroup (m : Mem) (addrs : List Nat) (g : Nat) : Nat :=
  2 ^ (512 * g) * ofLanes (((addrs.drop (16 * g)).take 16).map fun a => BitVec.ofNat 32 (rdLE m a 4))

/-- vldx: group g samples in t + g, so its lanes see what performs before then; the value lands at t + 10 (R240). -/
def execVldx (m : Move) (s : State) : Out :=
  vmemOp m s fun ea => do
    match s.indexedBad ea with
    | some e => .error e
    | none => do
      s.copyCheck 0 ((List.range 64).map fun l => (laneAddr s ea l - spBase, 4))
      let s1 ← (List.range 4).foldlM (fun st g => st.book 7 0 g false (groupOffs s ea g)) s
      let addrs := (List.range 64).map fun l => laneAddr s ea l - spBase
      let s2 ← s1.issue1 7 10 (.vgather addrs (gatherGroup s.core.sp addrs 0))
      s.sbmRanges 0 ((List.range 64).map fun l => (laneAddr s ea l - spBase, 4))
      return s2

/-- vstx: group g writes in t + 2 + g; of lanes that name the same bytes the highest is written (R240). -/
def execVstx (m : Move) (s : State) : Out :=
  vmemOp m s fun ea => do
    match s.indexedBad ea with
    | some e => .error e
    | none => do
      must ((List.range 64).all fun l => !s.core.indexHit (laneAddr s ea l - spBase) 4) (memExc .windowIndex ea)
      let s1 ← (List.range 4).foldlM (fun st g => st.book 7 0 (2 + g) true (groupOffs s ea g)) s
      s1.issue 7 ((List.range 4).map fun g =>
        (2 + g, .spLanes ((List.range 16).map fun i =>
          (laneAddr s ea (16 * g + i) - spBase, lane (vmB s) (16 * g + i))), 0))

/-- The offset of row r of a ring access (R241). -/
def ringRow (a t : W64) (r : Nat) : Int :=
  let size := fld a.toNat 63 40
  let off := fld a.toNat 23 0
  if size = 0 then (off : Int) + t.toInt + 64 * r
  else
    let mm := pow2Floor size
    ((off - off % mm : Nat) : Int) + (((off % mm : Nat) : Int) + t.toInt + 64 * r) % (mm : Int)

/-- The checks of a ring access, and its four row offsets: VRING, alignment of row 0, the scratchpad's bounds and the
footprint (R241, R244). -/
def ringRows (s : State) (t : W64) (foot : Nat → Bool) : Except Exc (List Nat) := do
  let a := vmA s
  let size := fld a.toNat 63 40
  must (size == 0 || 64 ≤ size) (.of .vring)
  let rows := (List.range 4).map (ringRow a t)
  must ((rows.headD 0) % 64 == 0) (.of .align)
  must (rows.all fun r => 0 ≤ r && foot r.toNat) (.of .footprint)
  return rows.map Int.toNat

/-- vldr (R241). -/
def execVldr (m : Move) (s : State) : Out :=
  scalarTrigger 7 m s fun t => do
    let rows ← ringRows s t fun r => s.core.task.spOk r 64
    s.copyCheck 0 (rows.map fun r => (r, 64))
    let s1 ← s.book 7 0 0 false rows
    let v := rows.foldr (fun r acc => rdLE s.core.sp r 64 + 2 ^ 512 * acc) 0
    let s2 ← s1.vectorResult 7 6 (BitVec.ofNat 2048 v)
    s.sbmRanges 0 (rows.map fun r => (r, 64))
    return s2

/-- vstr: the issuing core's scratchpad, or core VPEER.CORE's as a push store when VPEER.EN is set (R241). -/
def execVstr (m : Move) (s : State) : Out :=
  scalarTrigger 7 m s fun t => do
    let b := (vmB s).toNat
    let part := fun (i : Nat) => b / 2 ^ (512 * i) % 2 ^ 512
    if s.core.vpeer.getLsbD 10 then
      let i := s.core.vpeer.toNat % 1024
      let rows ← ringRows s t fun _ => true
      match rows.findSome? fun r => s.core.pushBad i r 64 (peerBase + i * 2 ^ 30 + r) with
      | some e => .error e
      | none => return s.sendPushRows i (rows.mapIdx fun k r => (r, leBytes (part k) 64))
    else
      let rows ← ringRows s t fun r => s.core.task.spOk r 64
      s.vstoreLocal (spBase + rows.headD 0) (rows.mapIdx fun k r => (r, 64, part k))

/-- The checks of an accumulator-store access of 256 bytes: its offset (R242, R244). -/
def State.accOff (s : State) (ea : Nat) : Except Exc Nat :=
  match regionOf ea with
  | .acc off => do
    must (off + 256 ≤ accSize) (memExc .windowGap ea)
    must (ea % 64 == 0) (memExc .align ea)
    must (s.core.task.accOk off 256) (memExc .footprint ea)
    return off
  | r => .error (vmemSpace r ea)

/-- vlda (R242). -/
def execVlda (m : Move) (s : State) : Out :=
  vmemOp m s fun ea => do
    let off ← s.accOff ea
    s.copyCheck 1 [(off, 256)]
    let s1 ← s.book 7 1 0 false (rowsOf off 256)
    let s2 ← s1.vectorResult 7 8 (vecAt s.core.acc off)
    s.sbmRanges 1 [(off, 256)]
    return s2

/-- vsta (R242). -/
def execVsta (m : Move) (s : State) : Out :=
  vmemOp m s fun ea => do
    let off ← s.accOff ea
    let s1 ← s.book 7 1 2 true (rowsOf off 256)
    s1.issue1 7 2 (.accWrite off 256 (vmB s).toNat)

/-- vacc: in t + 3 each lane's word takes its sum with b, under ACC, RM and FTZ captured at issue (R242). -/
def execVacc (m : Move) (s : State) : Out :=
  slotMove 7 .scalar true m s ((effAddr (vmA s) (s.core.takeScalar m.src)).bind fun ea => do
    let off ← s.accOff ea
    must (fmtACC s.core.fmt == 0 || fmtACC s.core.fmt == 9) (.of .vaccType)
    let s1 ← s.book 7 1 3 true (rowsOf off 256)
    s1.issue1 7 3 (.accAdd off (vmB s) s.core.fmt))

end Sys2Proof.Machine
end

