-- ==== Sys2Proof/Machine/Land.lean ====
section
/-! DEFINITION. Landing and performing: results reach registers, latches and queues, and slot writes reach the local stores (R347 to R351, R97). -/

namespace Sys2Proof.Machine

/-- Whether an item performs on bytes at the end of its cycle, rather than landing at its start (R97, R347). -/
def PendAct.onBytes : PendAct → Bool
  | .spWrite _ _ _ => true
  | .accWrite _ _ _ => true
  | .spLanes _ => true
  | .spAmo _ _ _ => true
  | .accAdd _ _ _ => true
  | _ => false

/-- Whether an item is a control/status register write, which acts before hardware updates (R325). -/
def PendAct.isCsr : PendAct → Bool
  | .csr _ _ => true
  | _ => false

/-- The order in which items land: register writes first, then ascending unit, then issue order (R325, R348). [DEDUCED, log 59] -/
def landBefore (a b : Pend) : Bool :=
  let k := fun (p : Pend) => if p.act.isCsr then 0 else p.unit + 1
  k a < k b || (k a == k b && a.seq ≤ b.seq)

/-- An item lands (R347). A result whose value has not come stays pending, and its lateness is judged apart. -/
def Core.landOne (c : Core) (p : Pend) : Core :=
  let c := { c with fstat := c.fstat ||| p.flags }
  match p.act with
  | .csr num v => c.csrApply num.toNat v
  | .scalar toLatch (some v) =>
    let c1 := c.pushS v
    if toLatch then { c1 with regs := { c1.regs with sLatch := vset c1.regs.sLatch p.unit v } } else c1
  | .vector v =>
    let c1 := c.pushV v
    { c1 with regs := { c1.regs with vLatch := vset c1.regs.vLatch (vLatchIdx p.unit) v } }
  | .embVector _ (some v) =>
    let c1 := c.pushV v
    { c1 with regs := { c1.regs with vLatch := vset c1.regs.vLatch (vLatchIdx p.unit) v } }
  | .vgather _ n =>
    let v : VReg := BitVec.ofNat 2048 n
    let c1 := c.pushV v
    { c1 with regs := { c1.regs with vLatch := vset c1.regs.vLatch (vLatchIdx p.unit) v } }
  | .reg idx v => c.writeReg idx v
  | .vreg idx v => c.writeV idx.toNat v
  | .breg idx v => { c with regs := { c.regs with b := vset c.regs.b idx.toNat v } }
  | .pstack st => { c with pstack := st }
  | .level which l => { c with loops := c.loops.set which l }
  | .lcnt which v =>
    let l := c.loops.get which
    if l.active then { c with loops := c.loops.set which { l with pend := some v } } else c
  | .loopPend st f l =>
    { c with loops := { c.loops with
      pendStages := st.getD c.loops.pendStages
      pendFirst := f.getD c.loops.pendFirst
      pendLast := l.getD c.loops.pendLast } }
  | .cond v => { c with cond := v }
  | .fmt v => { c with fmt := v }
  | .ringHead n tiles =>
    let r := c.ring n.toNat
    { c with eng := { c.eng with rings := vset c.eng.rings n.toNat { r with head := r.head + BitVec.ofNat 32 tiles } } }
  | .cwpReset ch => { c with eng := { c.eng with cwp := vset c.eng.cwp ch.toNat 0 } }
  | _ => c

/-- Whether an item lands at the start of the current cycle. -/
def Core.landsNow (c : Core) (p : Pend) : Bool :=
  p.tcc ≤ c.tcc && !p.act.onBytes && (match p.act with | .scalar _ none => false | _ => true)

/-- A lane-by-lane accumulation step of vacc: the new lanes and the flags of FP32 sums (R242). -/
def accStep (fmt : W32) (old v : VReg) : VReg × BitVec 7 :=
  if fmtACC fmt = 0 then lanesF fun l => fpAdd (fmtRM fmt) (fmtFTZ fmt) (laneN old l) (laneN v l)
  else (vmap2 (· + ·) old v, 0)

/-- At the start of a cycle a vldx on its way samples the group of the cycle (R240). -/
def Core.sampleItems (c : Core) : Core :=
  { c with pend := c.pend.map fun p =>
    match p.act with
    | .vgather addrs v =>
      let g := c.tcc - p.org.tcc
      if 1 ≤ g ∧ g ≤ 3 then
        { p with act := .vgather addrs (v % 2 ^ (512 * g) + gatherGroup c.sp addrs g) } else p
    | _ => p }

/-- The flags of every vacc that performs in this cycle (R242). [DEDUCED, log 52] -/
def Core.accFlags (c : Core) : BitVec 7 :=
  c.pend.foldl (fun acc p =>
    match p.act with
    | .accAdd a v f => if p.tcc = c.tcc then acc ||| (accStep f (vecAt c.acc a) v).2 else acc
    | _ => acc) 0

/-- RESULT_LAND: everything due lands in order, and register writes that are steps of their own follow (R347, R348). -/
def State.land (s : State) : State :=
  let c := s.core.sampleItems
  let due := sortBy landBefore (c.pend.filter c.landsNow)
  let rest := c.pend.filter fun p => !c.landsNow p
  let c1 := due.foldl Core.landOne { c with pend := rest }
  let evs := due.flatMap fun p => match p.act with | .csr num v => csrEvent num.toNat v | _ => []
  let k := (c1.eng.kiln.forget c.tcc)
  { s with
    core := { c1 with
      fstat := c1.fstat ||| c.accFlags ||| c.eng.kiln.flagsAt c.tcc
      eng := { c1.eng with kiln := { k with passes := k.passes.map fun p => p.trimEdges c.tcc } } }
    agenda := evs ++ s.agenda }

/-- RESULT_LAND (R347). -/
def execResultLand (s : State) : Out := .next s.land

/-- A slot write performs (R230, R234, R240, R242). A returning atomic's old word goes to its pending result. -/
def Core.performOne (c : Core) (p : Pend) : Core :=
  match p.act with
  | .spWrite a n v => { c with sp := wrLE c.sp a n v }
  | .accWrite a n v => { c with acc := wrLE c.acc a n v }
  | .spLanes cells => { c with sp := cells.foldl (fun m e => wrLE m e.1 4 e.2.toNat) c.sp }
  | .spAmo a op result =>
    let old := rdLE c.sp a op.width
    let c1 := { c with sp := wrLE c.sp a op.width (amoNew op old) }
    match result with
    | some seq => c1.deliver seq (extWord op.ext op.width old)
    | none => c1
  | .accAdd a v f => { c with acc := wrLE c.acc a 256 (accStep f (vecAt c.acc a) v).1.toNat }
  | _ => c

/-- The engine and opportunistic writes of a cycle perform at its end (R97). -/
def Core.performEng (c : Core) : Core :=
  c.engWrites.foldl (fun k w =>
    if w.1 then { k with acc := wrBytes k.acc w.2.1 w.2.2 } else { k with sp := wrBytes k.sp w.2.1 w.2.2 })
    { c with engWrites := [] }

/-- The slot and engine writes of the current cycle perform at its end (R97). -/
def Core.perform (c : Core) : Core :=
  let due := sortBy landBefore (c.pend.filter fun p => p.act.onBytes && p.tcc ≤ c.tcc)
  let rest := c.pend.filter fun p => !(p.act.onBytes && p.tcc ≤ c.tcc)
  (due.foldl Core.performOne { c with pend := rest }).performEng

end Sys2Proof.Machine
end

