-- ==== Sys2Proof/Decode.lean ====
section
/-! DEFINITION. Reading bundles and slots (R168 to R182), and the encoder written from the same layout.
Lean's compiler cannot build a constructor with fields beyond the 245th of a type, and the table has 373 rows: the few
definitions that build slot instructions are marked noncomputable; the kernel evaluates them as any other. -/

namespace Sys2Proof

/-- The fields of a slot that is not a header (R169). -/
def slotGuard (w : BitVec 32) : BitVec 2 := w.extractLsb' 30 2
def slotUnit (w : BitVec 32) : BitVec 4 := w.extractLsb' 26 4
def slotPort (w : BitVec 32) : BitVec 6 := w.extractLsb' 20 6
def slotLevel (w : BitVec 32) : BitVec 2 := w.extractLsb' 18 2
def slotPayload (w : BitVec 32) : BitVec 18 := w.extractLsb' 0 18

/-- The 25-bit value of an immediate slot: extended by the header's seven bits, or sign-extended
from 18 bits when the bundle has no header (R172, R177). -/
def immOf (hdr : Bool) (ext : BitVec 7) (p : BitVec 18) : BitVec 25 :=
  if hdr then ext ++ p else p.signExtend 25

/-- The guard; stage k comes from the extension of a slot whose source is no immediate (R170, R177). -/
def guardOf (g : BitVec 2) (isImm : Bool) (ext : BitVec 7) : Guard :=
  if g = 0 then .always
  else if g = 1 then .ifTrue
  else if g = 2 then .ifFalse
  else .stage (if isImm then 0 else ext.extractLsb' 0 3)

/-- The source by level, or the reason its payload is refused; the bits that R171 marks as zero
are checked here, the rest by `Src.bad`. -/
def srcOf (hdr : Bool) (ext : BitVec 7) (level : BitVec 2) (p : BitVec 18) : Except Malformed Src :=
  if level = 0 then
    if p.extractLsb' 4 14 = 0 then .ok (.latch (p.extractLsb' 0 4)) else .error .payloadReserved
  else if level = 1 then
    if p.extractLsb' 4 14 = 0 then .ok (.queue (p.extractLsb' 0 4)) else .error .payloadReserved
  else if level = 2 then
    if p.extractLsb' 8 10 = 0 then .ok (.named (p.extractLsb' 0 8)) else .error .payloadReserved
  else .ok (.imm (immOf hdr ext p))

/-- A slot as its unit, port and move. -/
structure RawMove where
  unit : Nat
  port : Nat
  move : Move
deriving DecidableEq, Repr

/-- R177 broken for a slot whose source is no immediate. -/
def extBad (g : BitVec 2) (ext : BitVec 7) : Bool :=
  ext.extractLsb' 3 4 != 0 || (g != 3 && ext.extractLsb' 0 3 != 0)

/-- One slot that is not a header, checked in the order of R181 and R182. -/
def decodeRaw (hdr : Bool) (ext : BitVec 7) (w : BitVec 32) : Except Malformed RawMove :=
  let unit := (slotUnit w).toNat
  let port := (slotPort w).toNat
  let cls := portClass unit port
  let isImm := slotLevel w == 3
  if unit = 15 then .error .hdrPlace
  else if cls = .undefined then .error .portUndefined
  else if hdr && !isImm && extBad (slotGuard w) ext then .error .extReserved
  else
    match srcOf hdr ext (slotLevel w) (slotPayload w) with
    | .error r => .error r
    | .ok src =>
      match src.bad cls with
      | some r => .error r
      | none => .ok ⟨unit, port, ⟨guardOf (slotGuard w) isImm (if hdr then ext else 0), src⟩⟩

noncomputable section

/-- Triggers of ALU0 (u = 0) and ALU1 (u = 1) from port 8 upward (R184). -/
def aluOps (u : BitVec 1) : List (Move → Instr) :=
  [.mov u, .add u, .sub u, .and u, .or u, .xor u, .andn u, .shl u,
   .shr u, .sar u, .rotl u, .min u, .max u, .minu u, .maxu u, .seteq u,
   .setne u, .setlt u, .setltu u, .setle u, .setleu u, .sel u, .clz u, .popc u,
   .sext u, .zext u, .bfx u, .bfi u, .addw u, .subw u, .adds u, .subs u,
   .adds16 u, .lea u]

/-- Triggers of unit 2 from port 8 upward (R185). -/
def mulOps : List (Move → Instr) :=
  [.mul, .mulhs, .mulhu, .mulw, .madd, .div, .divu, .rem,
   .remu]

/-- Triggers of unit 3 from port 8 upward (R186). -/
def fpsOps : List (Move → Instr) :=
  [.fadd, .fsub, .fmul, .ffma, .fmin, .fmax, .fminnum, .fmaxnum,
   .fabs, .fneg, .fdiv, .fsqrt, .fcmpeq, .fcmplt, .fcmple, .cvtif,
   .cvtfi, .cvtfb, .cvtbf, .fclass]

/-- Triggers of unit 4 from port 8 upward (R187). -/
def aguOps : List (Move → Instr) :=
  [.ld8, .ld8s, .ld16, .ld16s, .ld32, .ld32s, .ld64, .st8,
   .st16, .st32, .st64, .amoadd, .amomin, .amomax, .amominu, .amomaxu,
   .amoand, .amoor, .amoxor, .amoswap, .amocas, .amofadd, .amofmax, .amofmin,
   .amoadd64, .amoswap64, .amocas64, .redadd, .redmin, .redmax, .redminu, .redmaxu,
   .redand, .redor, .redxor, .redfadd, .redfmax, .redfmin, .redadd64, .wge,
   .wne]

/-- Triggers of unit 5 from port 8 upward (R188). -/
def bruOps : List (Move → Instr) :=
  [.tgt 0, .tgt 1, .tgt 2, .tgt 3, .peq, .pne, .plt, .pltu,
   .ple, .pleu, .pnot, .pand, .por, .pdup, .ppop, .jmp,
   .jt, .jf, .jtn, .jfn, .call, .ret, .loop, .lstages,
   .lcnt, .lstart, .lend, .vany, .vall, .rdps, .wrps]

/-- Triggers of unit 6 from port 8 upward (R189). -/
def vecOps : List (Move → Instr) :=
  [.vmov, .vadd, .vsub, .vmul, .vmin, .vmax, .vminu, .vmaxu,
   .vand, .vor, .vxor, .vshl, .vshr, .vsar, .vadds16, .vmin16,
   .vmax16, .vfadd, .vfsub, .vfmul, .vffma, .vfmin, .vfmax, .vfexp2,
   .vflog2, .vfrcp, .vfrsqrt, .vcvtf, .vcvti, .vpack, .vunpack, .vcmpeq,
   .vcmplt, .vcmple, .vfcmpeq, .vfcmplt, .vfcmple, .vsel, .vperm, .vbcast,
   .vextr, .vins, .vredadd, .vredmin, .vredmax, .vfredadd, .vfredmax, .vscan,
   .vmand, .vmor, .vmnot, .vmpopc]

/-- Triggers of unit 7 from port 8 upward (R190). -/
def vmemOps : List (Move → Instr) :=
  [.vld, .vst, .vldx, .vstx, .vldr, .vstr, .vlda, .vsta,
   .vacc, .vld8]

/-- Triggers of unit 9 from port 8 upward (R192). -/
def klnOps : List (Move → Instr) :=
  [.kcfg, .kflow, .kswitch, .kstart, .kdrain, .kzero, .ksel, .kring,
   .kpop]

/-- Triggers of unit 10 from port 8 upward (R192). -/
def cpyOps : List (Move → Instr) :=
  [.cpy, .cpyt, .cpyf, .cfetch, .cwp, .creset]

/-- Triggers of unit 11 from port 8 upward (R192). -/
def spsOps : List (Move → Instr) :=
  [.sopen, .sisect, .sisectc, .smerge, .sdiff, .sread, .swbind, .swfree]

/-- Triggers of unit 12 from port 8 upward (R192). -/
def embOps : List (Move → Instr) :=
  [.epatch, .eload, .erd, .esave, .erest, .estep, .eclk, .einc,
   .ecnt]

/-- Triggers of unit 13 from port 8 upward (R192). -/
def fabOps : List (Move → Instr) :=
  [.frd, .fwr, .fwrrel, .fatom, .fmcred, .fmcst, .fgrp, .fbar,
   .fstat]

/-- Triggers of unit 14 from port 8 upward (R193). -/
def ctlOps : List (Move → Instr) :=
  [.nop, .fmt, .csrr, .csrw, .fence, .bar, .trap, .halt,
   .cond, .segend, .tissue, .tstat, .tsc, .mark]

/-- The triggers of a unit, from port 8 upward; NREG and unit 15 have none (R183). -/
def unitOps : Nat → List (Move → Instr)
  | 0 => aluOps 0
  | 1 => aluOps 1
  | 2 => mulOps
  | 3 => fpsOps
  | 4 => aguOps
  | 5 => bruOps
  | 6 => vecOps
  | 7 => vmemOps
  | 9 => klnOps
  | 10 => cpyOps
  | 11 => spsOps
  | 12 => embOps
  | 13 => fabOps
  | 14 => ctlOps
  | _ => []

/-- The instruction of a unit and port (R183 to R193). -/
def RawMove.instr (r : RawMove) : Option Instr :=
  if r.unit = 8 then some (.nregWrite (BitVec.ofNat 6 r.port) r.move)
  else if r.port = 0 then some (.port0Discard (BitVec.ofNat 4 r.unit) r.move)
  else if r.port ≤ 7 then some (.operandPortMove (BitVec.ofNat 4 r.unit) (BitVec.ofNat 3 r.port) r.move)
  else ((unitOps r.unit)[r.port - 8]?).map (fun f => f r.move)

/-- The instruction in a slot that is not a header, or the reason it is malformed. [DEDUCED, log 8] -/
def decodeSlot (hdr : Bool) (ext : BitVec 7) (w : BitVec 32) : Except Malformed Instr :=
  match decodeRaw hdr ext w with
  | .error r => .error r
  | .ok raw =>
    match raw.instr with
    | some i => .ok i
    | none => .error .portUndefined

/-- The instruction of an opcode-table word: the word stands in a slot of a bundle without a header.
A row of another length has no word of its own. [DEDUCED, log 8] -/
def decodeTableWord (nbits w : Nat) : Option Instr :=
  if nbits = 32 then
    match decodeSlot false 0 (BitVec.ofNat 32 w) with
    | .ok i => some i
    | .error _ => none
  else none

end

/-- The header of a bundle (R176). -/
structure Header where
  stall : BitVec 4
  ext1 : BitVec 7
  ext2 : BitVec 7
  ext3 : BitVec 7
deriving DecidableEq, Repr

/-- Slot k of a bundle (R168). -/
def bundleSlot (b : BitVec 128) (k : Nat) : BitVec 32 := b.extractLsb' (32 * k) 32

/-- The extension of slot k (R176, R181). -/
def bundleExt (b : BitVec 128) (k : Nat) : BitVec 7 := b.extractLsb' (22 - 7 * k) 7

/-- A bundle's cause of refusal: the slot with its reason, or a slot that breaks R180. -/
inductive BundleBad where
  | slot (k : Nat) (r : Malformed)
  | pair (k : Nat)
deriving DecidableEq, Repr

/-- A checked bundle: whether it has a header, its stall count, and its moves by slot. -/
structure Bundle where
  hdr : Bool
  stall : Nat
  moves : List (Nat × RawMove)
deriving DecidableEq, Repr

/-- The slots of `ks` in order, up to the first defect (R181). -/
def decodeSlots (b : BitVec 128) (hdr : Bool) : List Nat → Except (Nat × Malformed) (List (Nat × RawMove))
  | [] => .ok []
  | k :: ks =>
    match decodeRaw hdr (if hdr then bundleExt b k else 0) (bundleSlot b k) with
    | .error r => .error (k, r)
    | .ok m =>
      match decodeSlots b hdr ks with
      | .error e => .error e
      | .ok ms => .ok ((k, m) :: ms)

/-- Two moves that may not stand in one bundle (R180). -/
def clash (a b : RawMove) : Bool :=
  a.unit == b.unit && ((a.port == b.port && a.port != 0) || (8 ≤ a.port && 8 ≤ b.port && a.unit != 8))

/-- The first slot that repeats a port or a trigger unit of an earlier slot (R180). -/
def firstClash : List RawMove → List (Nat × RawMove) → Option Nat
  | _, [] => none
  | seen, (k, m) :: rest => if seen.any (clash m) then some k else firstClash (seen ++ [m]) rest

/-- The bundle check of R181. -/
def checkBundle (b : BitVec 128) : Except BundleBad Bundle :=
  let hdr := b.extractLsb' 26 4 == 15#4
  if hdr && b.extractLsb' 30 2 != 0 then .error (.slot 0 .hdrGuard)
  else if hdr && b.extractLsb' 0 1 != 0 then .error (.slot 0 .hdrReserved)
  else
    match decodeSlots b hdr (if hdr then [1, 2, 3] else [0, 1, 2, 3]) with
    | .error (k, r) => .error (.slot k r)
    | .ok ms =>
      match firstClash [] ms with
      | some k => .error (.pair k)
      | none => .ok ⟨hdr, if hdr then (b.extractLsb' 22 4).toNat else 0, ms⟩

/-! ## The encoder (R169, R171, R176, R177) -/

/-- GUARD of a guard (R169). -/
def guardBits : Guard → BitVec 2
  | .always => 0
  | .ifTrue => 1
  | .ifFalse => 2
  | .stage _ => 3

/-- LEVEL of a source (R169). -/
def levelBits : Src → BitVec 2
  | .latch _ => 0
  | .queue _ => 1
  | .named _ => 2
  | .imm _ => 3

/-- PAYLOAD of a source (R171). -/
def payloadBits : Src → BitVec 18
  | .latch u => u.setWidth 18
  | .queue a => a.setWidth 18
  | .named i => i.setWidth 18
  | .imm v => v.setWidth 18

/-- The header extension a move needs (R177). -/
def extBits (m : Move) : BitVec 7 :=
  match m.src, m.guard with
  | .imm v, _ => v.extractLsb' 18 7
  | _, .stage k => k.setWidth 7
  | _, _ => 0

/-- The word of a slot (R169). -/
def slotWord (unit port : Nat) (m : Move) : BitVec 32 :=
  guardBits m.guard ++ BitVec.ofNat 4 unit ++ BitVec.ofNat 6 port ++ levelBits m.src ++ payloadBits m.src

/-- The slot word of an instruction and its header extension; none for a step that no slot encodes. [DEDUCED, log 8] -/
def encode (i : Instr) : Option (BitVec 32 × BitVec 7) :=
  match i.slot with
  | none => none
  | some (u, p, m) => some (slotWord u p m, extBits m)

end Sys2Proof
end

