-- ==== Sys2Proof/Machine/Ctl.lean ====
section
/-! DEFINITION. CTL: the format register, registers, fences, barriers, traps, halting, graph control, timestamp and mark (R323 to R331, R38, R39). -/

namespace Sys2Proof.Machine

/-- CTL's operand a (R323). -/
def ctlA (s : State) : W64 := s.core.port 14 1

/-- nop (R324). -/
def execNop (m : Move) (s : State) : Out := scalarTrigger 14 m s fun _ => .ok s

/-- What FMT refuses (R47, R56): bits above 17, a reserved type code, SAT 3. -/
def fmtBad (t : W64) : Bool :=
  let f := t.setWidth 32
  t.toNat / 2 ^ 18 != 0 || 10 < fmtAT f || 10 < fmtBT f || 10 < fmtACC f || fmtSAT f == 3

/-- fmt: lands in t + 4 (R56, R57). -/
def execFmt (m : Move) (s : State) : Out :=
  scalarTrigger 14 m s fun t =>
    if fmtBad t then .error (.of .fmtBad) else s.issue1 14 4 (.fmt (t.setWidth 32))

/-- csrr: the register as visible in the issue cycle, at t + 2 (R325). A read of FMT uses FMT for the scoreboard (R353). -/
def execCsrr (m : Move) (s : State) : Out :=
  slotMove 14 .scalar (s.core.takeScalar m.src == 2) m s
    (let t := s.core.takeScalar m.src
     if t.toNat / 4096 ≠ 0 then .error (.of .csrBad)
     else
       match s.core.csrRead t.toNat with
       | some v => s.result 14 2 v
       | none => .error (.of .csrBad))

/-- csrw: the write lands in t + 1 (R325). -/
def execCsrw (m : Move) (s : State) : Out :=
  scalarTrigger 14 m s fun t =>
    let a := ctlA s
    if a.toNat / 4096 ≠ 0 then .error (.of .csrBad)
    else
      match s.core.csrwBad a.toNat t with
      | some c => .error (.of c)
      | none => s.issue1 14 1 (.csr (a.setWidth 12) t)

/-- The kind of a fence (R327). -/
def fenceKind (t : W64) : Option FenceKind :=
  match fld t.toNat 3 2 with
  | 1 => some .release
  | 2 => some .acquire
  | 3 => some .full
  | _ => none

/-- fence: it never holds issue, and acts in the memory interface (R101, R327). -/
def execFence (m : Move) (s : State) : Out :=
  scalarTrigger 14 m s fun t =>
    match fenceKind t with
    | none => .error (.of .fenceBad)
    | some k =>
      if t.toNat / 16 ≠ 0 then .error (.of .fenceBad)
      else if t.toNat % 4 = 0 then .ok s
      else .ok (s.onCore fun c =>
        { c with fences := c.fences ++ [⟨c.gid, k, BitVec.ofNat 2 t.toNat⟩], gid := c.gid + 1 })

/-- The rectangle a bar names (R328); none for a malformed operand. -/
def barRect (launch : Rect) (t : W64) : Option Rect :=
  let n := t.toNat
  if n / 2 ^ 17 ≠ 0 then none
  else if bit n 16 then (if n % 65536 = 0 then some launch else none)
  else
    let hc := fld n 15 13
    let lw := fld n 12 10
    if 5 < hc ∨ 5 < lw then none
    else some ⟨fld n 4 0, fld n 9 5, 2 ^ lw, [1, 2, 3, 6, 12, 24].getD hc 1⟩

/-- The checks of a bar (R39, R328): an aligned rectangle that holds this core and lies in the launch, and no other pending
barrier of the launch that overlaps it without being equal. [DEDUCED, log 20] -/
def State.barBad (s : State) (r : Rect) : Option Cause :=
  let t := s.core.task
  if !(r.aligned && r.has s.focus && r.inside t.rect) then some .barRect
  else if s.mod.barriers.any fun b => b.slot == t.slot && b.rect.meets r && b.rect != r then some .barMismatch
  else none

/-- The barrier list with this core's arrival at a rectangle (R38). -/
def arriveAt (bs : List Barrier) (slot : Nat) (r : Rect) (core : Nat) : List Barrier :=
  if bs.any fun b => b.slot == slot && b.rect == r then
    bs.map fun b => if b.slot = slot ∧ b.rect = r then { b with arrived := b.arrived ++ [core] } else b
  else bs ++ [⟨slot, r, [core]⟩]

/-- bar: the core arrives and pauses until every member has; what it covers has performed before its bundle issues, so the
write log is published here (R38, R103, R111). [DEDUCED, log 23] -/
def execBar (m : Move) (s : State) : Out :=
  scalarTrigger 14 m s fun t =>
    match barRect s.core.task.rect t with
    | none => .error (s.graphExc .barRect)
    | some r =>
      match s.barBad r with
      | some c => .error (s.graphExc c)
      | none =>
        let s1 := s.publish
        let bs := arriveAt s1.mod.barriers s.core.task.slot r s.focus
        .ok ({ s1 with
          core := { s1.core with
            wait := some (.bar r s.core.slot none)
            waitFrom := s1.core.gid
            barKept := (0, [(s.core.slot, t.setWidth 2048)]) }
          mod := { s1.mod with barriers := bs } }.later [.barrierComplete])

/-- Release a member that waits at a barrier, at a time the manual bounds and does not fix (R38). [DEDUCED, log 19] -/
def Core.releaseBar (c : Core) (r : Rect) (at_ : W64) : Core :=
  match c.wait with
  | some (.bar r' sl none) => if r = r' then { c with wait := some (.bar r sl (some at_)) } else c
  | _ => c

/-- BARRIER_COMPLETE: a barrier of this core's launch whose members have all arrived releases them, each at a free moment of the next
250 ns; a full-launch barrier advances the generation (R38, R103, R112). [DEDUCED, log 19; DEDUCED, log 54] -/
def execBarrierComplete (s : State) : Out :=
  let slot := s.core.task.slot
  match s.mod.barriers.find? fun b => b.slot == slot && b.rect.cores.all fun i => b.arrived.contains i with
  | none => .next s
  | some b =>
    let full := b.rect == s.core.task.rect
    let gens := if full then
        s.mod.gens.map fun (k, g) => if k = slot then (k, g + 1) else (k, g)
      else s.mod.gens
    let s1 := { s with mod := { s.mod with barriers := s.mod.barriers.erase b, gens := gens } }
    .next (b.rect.cores.foldl (fun st i =>
      let (n, st1) := st.takeReq
      st1.setCore i ((st1.coreAt i).releaseBar b.rect (s.ts + BitVec.ofNat 64 (Config.outsideDelay n % 250)))) s1)

/-- trap: every slot of the bundle is done, and the task stops after it with code t[15:0] (R329). [DEDUCED, log 22] -/
def execTrap (m : Move) (s : State) : Out :=
  scalarTrigger 14 m s fun t => .ok (s.onCore fun c => { c with trapped := some (t.toNat % 65536) })

/-- halt: the task halts after this bundle (R40, R324); EMB_OVERRUN while EMBFLT.V is set (R155). [DEDUCED, log 11] -/
def execHalt (m : Move) (s : State) : Out :=
  scalarTrigger 14 m s fun _ =>
    if s.core.embOverrun then .error (.fault .embOverrun 0 0 s.core.eng.ember.flt.toNat) else .ok (s.onCore fun c => { c with halt := true })

/-- cond: visible from t + 1 (R33). -/
def execCond (m : Move) (s : State) : Out := scalarTrigger 14 m s fun t => s.issue1 14 1 (.cond t)

/-- What a segend meets: an active loop, pending delay bundles of a taken transfer, a segend already ending the segment
(BAD_END), or delay bundles beyond LAST (DELAY_RANGE) (R34, R35). [DEDUCED, log 15; DEDUCED, log 25] -/
def State.segendBad (s : State) : Option Cause :=
  let c := s.core
  if c.loops.innermost.isSome || c.cur.xferDelay || c.seg.ending.isSome || (c.fq.any fun p => p.xferDelay) then
    some .badEnd
  else if c.seg.last.toNat < c.cur.idx.toNat + 2 then some .delayRange
  else none

/-- segend: two delay bundles, then the walk (R34, R35). -/
def execSegend (m : Move) (s : State) : Out :=
  scalarTrigger 14 m s fun _ =>
    match s.segendBad with
    | some c => .error (s.graphExc c)
    | none => .ok (s.onCore fun c =>
        { c with seg := { c.seg with ending := some 3 }, fq := following c.cur.idx c.fq 2 })

/-- tsc: the package timestamp as sampled in the issue cycle (R324, R331). -/
def execTsc (m : Move) (s : State) : Out := scalarTrigger 14 m s fun _ => s.result 14 2 s.ts

/-- mark: a trace mark record when a session is open (R324, R428). -/
def execMark (m : Move) (s : State) : Out :=
  scalarTrigger 14 m s fun t =>
    .ok (s.onCore fun c => c.traceRec s.ts s.focus 2 [BitVec.ofNat 64 (t.toNat % 2 ^ 32)])

end Sys2Proof.Machine
end

