-- ==== Sys2Proof/Machine/Sps.lean ====
section
/-! DEFINITION. SPS: sparse streams and gather-window bindings (R86, R87, R297 to R302). -/

namespace Sys2Proof.Machine

/-! ## Checks at issue -/

/-- SPS commands issued and not started (R278). -/
def Core.spsPending (c : Core) : Nat :=
  (c.eng.sps.filter fun x => c.tcc < x.start).length + (c.eng.binds.filter fun x => c.tcc < x.start).length

/-- Room in the queue of SPS (R278). -/
def Core.spsRoom (c : Core) : Bool := c.spsPending < 4

/-- What a stream's bytes, or an output's, may not be (R25, R88, R297). -/
def State.streamBad (s : State) (write : Bool) (a n : Nat) : Option Exc :=
  match regionOf a with
  | .gap => some (memExc .windowGap a)
  | .global => if a + n ≤ peerBase then none else some (memExc .windowAccess peerBase)
  | .sp off =>
    if spSize < off + n then some (memExc .windowGap (spBase + spSize))
    else if !s.core.task.spOk off n then some (memExc .footprint a)
    else if write && s.core.indexHit off n then some (memExc .windowIndex a) else none
  | .gather _ _ => some (memExc (if write then .windowWrite else .windowAccess) a)
  | _ => some (memExc .windowAccess a)

/-- sopen: the slot takes the stream in the issue cycle (R297). -/
def execSopen (m : Move) (s : State) : Out :=
  scalarTrigger 11 m s fun t => do
    let (s1, d) ← s.readDesc 11 8 t [7, 2 ^ 57 - 1, 2 ^ 24 - 1, 0, 0, 0, 0]
    must (descStart d == 0) (.of .engDesc)
    let base := dword d 2
    must (base % 4 == 0) (memExc .align base)
    match s.streamBad false base (4 * dword d 3) with
    | some e => .error e
    | none => return s1.onEng fun e => { e with slots := sset ⟨0, 0⟩ e.slots (dword d 1) ⟨base, dword d 3⟩ }

/-- Latency Ls of a command (R300). -/
def spsLs (die : Nat) (ins : List SSlot) (ls : List Leaf) : Nat :=
  let far := ls.any fun l => !l.rpl && l.pa / groupSpan != die
  if ins.all fun i => i.n == 0 || regionOf i.base != .global then 8 else if far then 300 else 240

/-- What OUTCAP must hold (R298). -/
def SpsOp.need (op : SpsOp) (ns : List Nat) : Nat :=
  match op with
  | .isect => min (ns.getD 0 0) (ns.getD 1 0)
  | .isectc => 0
  | .diff => ns.getD 0 0
  | .merge _ => ns.sum

/-- The leaves held that cover global inputs, for the due cycle; R299 has every page translated before the command starts. -/
def Core.inputLeaves (c : Core) (ins : List SSlot) : List Leaf :=
  (c.tlb ++ c.heldLeaves).filter fun l => l.asid == c.task.asid && ins.any fun i => decide (l.va < i.base + 4 * i.n) && decide (i.base < l.va + l.size)

/-- A checked command enters (R298 to R300). -/
def State.spsIssue (s : State) (d : Desc) (op : SpsOp) (ins : List SSlot) : Except Exc State := do
  let out := dword d 2
  let cap := dword d 3
  let writes := op != .isectc
  must (!writes || out % 4 == 0) (memExc .align out)
  must (!writes || op.need (ins.map (·.n)) ≤ cap) (.of .spsOut)
  let bad := if writes && cap != 0 then s.streamBad true out (4 * cap) else none
  match bad with
  | some e => .error e
  | none => do
    let st := s.core.startTcc d
    must (s.core.eng.spsEnd ≤ st) (.of .spsOverlap)
    let reads := (ins.filter fun i => i.n != 0 && regionOf i.base == .global).map fun i => (i.base, 4 * i.n)
    let wr := if writes && cap != 0 && regionOf out == .global then [(out, 4 * cap)] else []
    let ls ← s.commitChecks reads wr (descStart d) s.core.spsRoom
    let inLs := ls.filter fun l => reads.any fun r => decide (l.va < r.1 + r.2) && decide (r.1 < l.va + l.size)
    let lat := spsLs (coreDie s.focus) ins inLs
    let due := st + lat + (ins.map (·.n)).sum + (match op with | .merge _ => 24 | _ => 8)
    let c : SpsCmd :=
      { id := s.core.eng.nid, start := st, due := due, cls := descTc d, op := op, ins := ins, out := out, keys := [], formed := false,
        count := 0, counted := false, org := s.core.here 11 }
    return (s.onEng fun e => { e with nid := e.nid + 1, sps := e.sps ++ [c], spsEnd := due }).pin c.id ls

/-- A stream slot (R297). -/
def Core.sslot (c : Core) (n : Nat) : SSlot := sget ⟨0, 0⟩ c.eng.slots n

/-- sisect, sisectc and sdiff: two slots (R298). -/
def spsPair (port : Nat) (op : SpsOp) (m : Move) (s : State) : Out :=
  scalarTrigger 11 m s fun t => do
    let (s1, d) ← s.readDesc 11 port t [0x1FFFF, 2 ^ 57 - 1, 2 ^ 24 - 1, 0, 0, 0, 0]
    let w := dword d 1
    must (fld w 7 6 == 0 && fld w 16 8 == 0 && (op != .isectc || (dword d 2 == 0 && dword d 3 == 0))) (.of .engDesc)
    s1.spsIssue d op [s.core.sslot (fld w 2 0), s.core.sslot (fld w 5 3)]

/-- sisect (R298). -/
def execSisect (m : Move) (s : State) : Out := spsPair 9 .isect m s

/-- sisectc (R298). -/
def execSisectc (m : Move) (s : State) : Out := spsPair 10 .isectc m s

/-- sdiff (R298). -/
def execSdiff (m : Move) (s : State) : Out := spsPair 12 .diff m s

/-- smerge (R298). -/
def execSmerge (m : Move) (s : State) : Out :=
  scalarTrigger 11 m s fun t => do
    let (s1, d) ← s.readDesc 11 11 t [0x1FFFF, 2 ^ 57 - 1, 2 ^ 24 - 1, 0, 0, 0, 0]
    let w := dword d 1
    must (fld w 7 0 == 0 && fld w 15 8 != 0) (.of .engDesc)
    s1.spsIssue d (.merge (bit w 16)) (((List.range 8).filter fun k => bit w (8 + k)).map s.core.sslot)

/-- Commands due and not finished make an sread late (R300, R355). [DEDUCED, log 96] -/
def Core.spsLate (c : Core) : Bool := c.eng.sps.any fun x => x.due ≤ c.tcc && !x.counted

/-- sread (R301). -/
def execSread (m : Move) (s : State) : Out :=
  scalarTrigger 11 m s fun t => do
    must (t == 0 || t == 1) (.of .spsSel)
    must (!s.core.spsLate) (.late 7 .sps)
    s.result 11 4 (if t = 0 then s.core.eng.spsCount else s.core.eng.spsTotal)

/-! ## Gather windows (R86, R87, R302) -/

/-- The binding that a descriptor gives (R86, R302). -/
def bindOf (d : Desc) : Binding :=
  { tbase := dword d 2, rows := fld (dword d 3) 31 0, rsize := 64 * fld (dword d 3) 38 32, rstride := dword d 4,
    idx := fld (dword d 5) 23 0, count := fld (dword d 5) 63 32 }

/-- Some of the indices of a binding, as visible now. -/
def Core.indices (c : Core) (b : Binding) (k n : Nat) : List Nat := (List.range n).map fun j => rdLE c.sp (b.idx + 4 * (k + j)) 4

/-- The descriptor of a swbind, checked: as it was read when the bundle came to issue, or as it is now (R86, R87, R302). [DEDUCED, log 95] -/
def State.bindDesc (s : State) (t : W64) : Except Exc (State × Desc) :=
  match s.core.bindRead with
  | some r => .ok (s, r.desc)
  | none => do
    let (s1, d) ← s.readDesc 11 14 t [3, 2 ^ 57 - 1, 2 ^ 39 - 1, 2 ^ 40 - 1, 0xFFFFFFFF00FFFFFF, 0, 0]
    let b := bindOf d
    must (64 ≤ b.rsize && b.rsize ≤ 4096) (.of .engDesc)
    must (b.tbase % 64 == 0 && b.rstride % 64 == 0 && b.idx % 4 == 0 && 1 ≤ b.count && b.count * b.rsize ≤ 0x4000000 &&
      1 ≤ b.rows && b.tbase + b.rows * b.rstride ≤ peerBase) (.of .windowBind)
    must (s.core.task.spOk b.idx (4 * b.count)) (memExc .footprint (spBase + b.idx))
    return (s1, d)

/-- The indices that a swbind at issue has read (R302). -/
def Core.gotIndices (c : Core) : List Nat := (c.bindRead.map (·.got)).getD []

/-- One cycle of the index reads: those of one scratchpad row, which is booked in it (R302, R364). [DEDUCED, log 95] -/
def State.readIndices (s : State) (t : W64) : Except Exc State := do
  let (s1, d) ← s.bindDesc t
  let b := bindOf d
  let got := s.core.gotIndices
  let off := b.idx + 4 * got.length
  let n := min (16 - off % 64 / 4) (b.count - got.length)
  s.copyCheck 0 [(off, 4 * n)]
  let s2 ← s1.book 11 0 0 false (rowsIn off (4 * n))
  return s2.onCore fun c => { c with bindRead := some ⟨d, got ++ s.core.indices b got.length n⟩ }

/-- Whether the bundle of a swbind has waited at issue for ceil(COUNT/16) cycles; a row that indices off a row's start leave over is read in the cycle
in which issue completes (R302, R364). [DEDUCED, log 95] -/
def Core.indicesRead (c : Core) : Bool :=
  c.bindRead.any fun r =>
    let b := bindOf r.desc
    r.got.length == b.count || (b.count + 15) / 16 ≤ (r.got.length + b.idx % 64 / 4) / 16

/-- swbind: its indices, read while the bundle waited at issue, are checked, the table is translated and pinned; the lead is judged from
the present cycle, in which issue completes (R87, R302). [DEDUCED, log 95] -/
def execSwbind (m : Move) (s : State) : Out :=
  scalarTrigger 11 m s fun t => do
    let (s1, d) ← s.bindDesc t
    let b := bindOf d
    let got := s.core.gotIndices
    let left := b.count - got.length
    if left ≠ 0 then s.copyCheck 0 [(b.idx + 4 * got.length, 4 * left)]
    let s2 ← if left = 0 then .ok s1 else s1.book 11 0 0 false (rowsIn (b.idx + 4 * got.length) (4 * left))
    must ((got ++ s.core.indices b got.length left).all fun r => r < b.rows) (.of .windowBind)
    let ls ← s.coverRanges true false [(b.tbase, b.rows * b.rstride)] []
    must (s.core.pinRoom ls) (.of .pinLimit)
    leadRule s.core.scc.toNat (descStart d)
    must s.core.spsRoom (.of .engQueue)
    let id := s.core.eng.nid
    return (s2.onEng fun e => { e with nid := e.nid + 1, binds := e.binds ++ [⟨id, dword d 1, s.core.startTcc d, some b⟩] }).pin id ls

/-- swfree (R87, R302). -/
def execSwfree (m : Move) (s : State) : Out :=
  scalarTrigger 11 m s fun t => do
    let (s1, d) ← s.readDesc 11 15 t [3, 0, 0, 0, 0, 0, 0]
    let _ ← s.commitChecks [] [] (descStart d) s.core.spsRoom
    return s1.onEng fun e => { e with nid := e.nid + 1, binds := e.binds ++ [⟨e.nid, dword d 1, s.core.startTcc d, none⟩] }

/-- WINDOW_BINDING_SWITCH: what a switch replaces is forgotten, and its table unpinned; copies hold pins of their own (R87, R302). -/
def execWindowBindingSwitch (cmd : Nat) (s : State) : Out :=
  .next (match s.core.eng.binds.find? fun b => b.id == cmd && b.start ≤ s.core.tcc with
    | none => s
    | some b => s.onEng fun e =>
      let old := e.binds.filter fun x => x.w == b.w && (x.start < b.start || (x.start == b.start && x.id < b.id))
      let e1 := old.foldl (fun k x => k.unpin x.id) e
      { e1 with binds := e1.binds.filter fun x => !(old.any fun o => o.id == x.id) && !(x.id == cmd && b.bind.isNone) })

/-! ## The running command (R298, R300) -/

/-- The pieces of an input by 64-byte row: first byte, length. -/
def SSlot.pieces (i : SSlot) : List (Nat × Nat) :=
  if i.n = 0 then []
  else
    let stop := i.base + 4 * i.n
    (List.range ((stop - 1) / 64 - i.base / 64 + 1)).map fun k =>
      let a := max i.base ((i.base / 64 + k) * 64)
      (a, min stop ((i.base / 64 + k + 1) * 64) - a)

/-- Every piece of a command: its item number, first byte, length. -/
def SpsCmd.pieces (c : SpsCmd) : List (Nat × Nat × Nat) :=
  (c.ins.zipIdx).flatMap fun (i, n) => (i.pieces.zipIdx).map fun (p, k) => (2 ^ 24 * n + k, p.1, p.2)

/-- The pieces that lie in the scratchpad, in the order of R364. -/
def SpsCmd.localPieces (c : SpsCmd) : List (Nat × Nat × Nat) :=
  c.pieces.filter fun p => match regionOf p.2.1 with | .sp _ => true | _ => false

/-- SPS_COMMAND_START: at START the global inputs are asked for, and from START + 1 one scratchpad row is read a cycle (R300, R364).
[DEDUCED, log 96] -/
def execSpsCommandStart (s : State) : Out :=
  .next (s.core.eng.sps.foldl (fun st c =>
    let now := s.core.tcc
    if now = c.start then
      (c.pieces.filter fun p => regionOf p.2.1 == .global).foldl (fun st p =>
        match s.core.pinned c.id p.2.1 false with
        | some l => st.sendGlobal c.cls p.2.1 (l.phys p.2.1 (coreDie s.focus)) l.rpl (.read p.2.2 (.engine 11 c.id p.1)) c.org true
        | none => st) st
    else
      match c.localPieces[now - c.start - 1]? with
      | some p =>
        if now < c.start then st
        else
          let off := p.2.1 - spBase
          (st.onCore fun k => k.bookEng 11 4 c.id 0 false [off]).toEngine 11 c.id p.1 (rdBytes s.core.sp off p.2.2)
      | none => st) s)

/-- The keys of an input from its pieces. -/
def SpsCmd.inputKeys (c : SpsCmd) (n : Nat) : List Nat :=
  let mine := sortBy (fun (a b : Nat × List Byte) => a.1 ≤ b.1) (c.keys.filter fun k => k.1 / 2 ^ 24 == n)
  wordsOf 4 (mine.flatMap (·.2)) ((c.ins.getD n ⟨0, 0⟩).n)

/-- isect_or_diff of R298; `fuel` bounds the steps. -/
def pairKeys (diff : Bool) : Nat → List Nat → List Nat → List Nat
  | 0, _, _ => []
  | _, [], _ => []
  | _, as, [] => if diff then as else []
  | fuel + 1, a :: as, b :: bs =>
    if a < b then (if diff then a :: pairKeys diff fuel as (b :: bs) else pairKeys diff fuel as (b :: bs))
    else if b < a then pairKeys diff fuel (a :: as) bs
    else if diff then pairKeys diff fuel as bs else a :: pairKeys diff fuel as bs

/-- The list whose head is least, the lower one on ties (R298). -/
def leastHead (ls : List (List Nat)) : Option (Nat × Nat) :=
  (ls.zipIdx).foldl (fun (b : Option (Nat × Nat)) p =>
    match p.1, b with
    | [], _ => b
    | k :: _, none => some (p.2, k)
    | k :: _, some (_, k0) => if k < k0 then some (p.2, k) else b) none

/-- merge of R298. -/
def mergeKeys (dedup : Bool) : Nat → Option Nat → List (List Nat) → List Nat
  | 0, _, _ => []
  | fuel + 1, last, ls =>
    match leastHead ls with
    | none => []
    | some (i, k) =>
      let rest := ls.set i ((ls.getD i []).drop 1)
      if dedup && last == some k then mergeKeys dedup fuel last rest else k :: mergeKeys dedup fuel (some k) rest

/-- The keys a command emits (R298). -/
def SpsCmd.emit (c : SpsCmd) : List Nat :=
  let total := (c.ins.map (·.n)).sum + 1
  match c.op with
  | .merge dd => mergeKeys dd total none ((List.range c.ins.length).map c.inputKeys)
  | .diff => pairKeys true total (c.inputKeys 0) (c.inputKeys 1)
  | _ => pairKeys false total (c.inputKeys 0) (c.inputKeys 1)

/-- Pieces that have come back join their commands. -/
def Engines.absorbSps (e : Engines) : Engines :=
  let mine := e.delivered.filter fun d => d.1 == 11
  { e with
    delivered := e.delivered.filter fun d => d.1 != 11
    sps := e.sps.map fun c => { c with keys := c.keys ++ (mine.filter fun d => d.2.1 == c.id).map fun d => (d.2.2.1, d.2.2.2) } }

/-- Whether every piece of a command's inputs is there. -/
def Engines.spsWhole (e : Engines) (c : SpsCmd) : Bool :=
  c.pieces.length ≤ c.keys.length + (e.delivered.filter fun d => d.1 == 11 && d.2.1 == c.id).length

/-- A command whose inputs are whole forms its keys: they leave for the scratchpad in order, or for global memory (R300). [DEDUCED, log 96] -/
def State.spsForm (s : State) (c : SpsCmd) : State :=
  let out := c.emit
  let data := out.flatMap fun k => leBytes k 4
  let s1 := s.onEng fun e => { e with sps := e.sps.map fun x => if x.id = c.id then { x with formed := true, count := out.length, keys := [] } else x }
  if c.op = .isectc ∨ out.isEmpty then s1
  else
    match regionOf c.out with
    | .sp off => s1.onCore fun k => { k with opp := k.opp ++ (piecesOf off data).map fun p => ⟨5, 2 * c.id, false, p.1, 0, p.2, .none⟩ }
    | _ => (piecesOf c.out data).foldl (fun st p =>
        match s.core.pinned c.id p.1 true with
        | some l => st.sendGlobal c.cls p.1 (l.phys p.1 0) l.rpl (.write p.2) c.org true
        | none => st) s1

/-- SPS_DUE: a command whose inputs have come forms its keys, and in its due cycle COUNT and TOTAL take their new values; its
pins end (R299, R300). [DEDUCED, log 50; DEDUCED, log 96] -/
def execSpsDue (s : State) : Out :=
  let s1 := s.onEng Engines.absorbSps
  let s2 := (s1.core.eng.sps.filter fun c => c.start < s1.core.tcc && !c.formed && s1.core.eng.spsWhole c).foldl State.spsForm s1
  let due := s2.core.eng.sps.filter fun c => c.due ≤ s2.core.tcc && c.formed && !c.counted
  .next (s2.onEng fun e =>
    let e1 := due.foldl (fun (k : Engines) c => { k.unpin c.id with spsCount := BitVec.ofNat 64 c.count, spsTotal := k.spsTotal + BitVec.ofNat 64 c.count }) e
    { e1 with sps := e1.sps.filter fun c => !(due.any fun x => x.id == c.id) })

/-- The steps of SPS in a cycle: those before the stream, and those after it. -/
def Core.spsEarly (c : Core) : List Instr := if c.eng.sps.any fun x => x.start < c.tcc then [.spsDue] else []
def Core.spsEvents (c : Core) : List Instr :=
  ((c.eng.binds.filter fun b => b.start == c.tcc).map fun b => Instr.windowBindingSwitch b.id) ++
  (if c.eng.sps.any fun x => x.start ≤ c.tcc && !x.formed then [.spsCommandStart] else [])

end Sys2Proof.Machine
end

