-- ==== Sys2Proof/Machine/TileWord.lean ====
section
/-! DEFINITION. The tile instruction word, its checks, tissue and tstat (R45, R330, R367 to R369, R372, R376, R387). -/

namespace Sys2Proof.Machine

/-! ## The word (R367, R368) -/

/-- A field of word k of a tile instruction. -/
def tf (w : List Nat) (k hi lo : Nat) : Nat := fld (w.getD k 0) hi lo

def tileOpc (w : List Nat) : Nat := tf w 0 7 0
def tileLevel (w : List Nat) : Nat := tf w 0 10 8
def tileSr (w : List Nat) : Nat := tf w 0 15 12
def tileAt (w : List Nat) : Nat := tf w 0 19 16
def tileBt (w : List Nat) : Nat := tf w 0 23 20
def tileCt (w : List Nat) : Nat := tf w 0 27 24
def tileTa (w : List Nat) : Bool := bit (w.getD 0 0) 36
def tileTb (w : List Nat) : Bool := bit (w.getD 0 0) 37
def tileAccum (w : List Nat) : Bool := bit (w.getD 0 0) 38
def tileDual (w : List Nat) : Bool := bit (w.getD 0 0) 39
def tileTgt (w : List Nat) : Nat := tf w 0 63 48
def tileK (w : List Nat) : Nat := tf w 1 63 48 + 1
def tileN (w : List Nat) : Nat := tf w 2 63 44 + 1
def tileM (w : List Nat) : Nat := tf w 2 43 24 + 1
def tileSel (w : List Nat) : Nat := tf w 3 63 57
def tileCw (w : List Nat) : Nat := tf w 3 56 0

/-- The range of K that a part runs: all of it, or what the origin that a Splitter adds to the word gives (R378, R380). -/
def tileLo (w : List Nat) : Nat := w.getD 4 0
def tileLen (w : List Nat) : Nat := if 4 < w.length then w.getD 5 0 - w.getD 4 0 else tileK w

/-- The word's types, RM, FTZ, BSC and SAT, in the layout of FMT (R56, R367). -/
def tileFmt (w : List Nat) : W32 := BitVec.ofNat 32 (tf w 0 33 16)

/-- The handle of an operand: 0 A, 1 B, 2 C. -/
def tileHandle (w : List Nat) (o : Nat) : Nat := if o = 0 then tf w 1 23 0 else if o = 1 then tf w 1 47 24 else tf w 2 23 0

/-- The type the word gives an operand. -/
def tileType (w : List Nat) (o : Nat) : Nat := if o = 0 then tileAt w else if o = 1 then tileBt w else tileCt w

/-- The rectangle in TGT at L2 and L1 (R328, R368). -/
def tileRect (w : List Nat) : Option Rect :=
  let t := tileTgt w
  if 5 < fld t 12 10 ∨ 5 < fld t 15 13 then none
  else some ⟨fld t 4 0, fld t 9 5, 2 ^ fld t 12 10, [1, 2, 3, 6, 12, 24].getD (fld t 15 13) 1⟩

/-- The lowest and highest level of an operation (R372). -/
def tileLevels (opc : Nat) : Nat × Nat :=
  ([(0, 4), (1, 4), (1, 4), (1, 4), (0, 4), (1, 4), (2, 4), (1, 3), (1, 3), (1, 3), (0, 3), (1, 3), (0, 4), (0, 4)] : List (Nat × Nat)).getD opc (1, 0)

/-- Whether a selector of tmap takes two operands (R375). -/
def mapTwo (sel : Nat) : Bool := [1, 2, 3, 4, 5, 10, 11].contains sel

/-- Whether an operation uses an operand (R372). -/
def tileUses (w : List Nat) (o : Nat) : Bool :=
  let opc := tileOpc w
  if o = 0 then opc != 4 && opc < 12
  else if o = 1 then [0, 1, 2, 7, 8, 9, 11].contains opc || (opc == 10 && mapTwo (tileSel w))
  else opc < 12

/-- Fields that an operation leaves unused, its selector and its extents (R372). [DEDUCED, log 138] -/
def tileFieldsOk (w : List Nat) : Bool :=
  let opc := tileOpc w
  let sel := tileSel w
  (if opc = 4 then tf w 1 63 32 == 0
    else (tileUses w 0 || tf w 1 23 0 == 0) && (tileUses w 1 || tf w 1 47 24 == 0)) &&
  (tileUses w 2 || tf w 2 23 0 == 0) &&
  (match opc with
    | 8 => sel ≤ 3 && tileM w ≤ 64
    | 9 => 1 ≤ sel && sel ≤ 15 && tileM w == 1
    | 10 => sel ≤ 11
    | 12 => sel == 0 && tileM w == 1 && tileN w == 1 && tileK w == 1
    | 13 => sel == 0 && tileM w == 1 && tileN w == 1 && tileK w == 1
    | _ => sel == 0)

/-- TGT by level (R22, R368). -/
def tileTgtOk (w : List Nat) : Bool :=
  match tileLevel w with
  | 0 => tileTgt w % 16 != 0 && tileTgt w / 16 == 0
  | 1 => (tileRect w).elim false Rect.aligned
  | 2 => (tileRect w).elim false Rect.aligned
  | _ => tileTgt w == 0

/-- The completion area: aligned, wholly in global memory or in the scratchpad (R369). [DEDUCED, log 139] -/
def tileCwOk (w : List Nat) : Bool :=
  let a := tileCw w
  a % 8 == 0 &&
  (match regionOf a, regionOf (a + 55) with
    | .global, .global => true
    | .sp _, .sp _ => true
    | _, _ => false)

/-- Whether an operation is allowed at the word's level (R372). -/
def tileLevelOk (w : List Nat) : Bool := let (lo, hi) := tileLevels (tileOpc w); lo ≤ tileLevel w && tileLevel w ≤ hi

/-- What TILE_WORD asks of a word beside its level (R369). -/
def tileFormOk (w : List Nat) : Bool :=
  tf w 0 47 40 == 0 && tf w 0 35 34 == 0 && tf w 0 11 11 == 0 && tileOpc w ≤ 13 && tileAt w ≤ 10 && tileBt w ≤ 10 && tileCt w ≤ 10 &&
  tf w 0 33 32 != 3 && tileFieldsOk w && tileTgtOk w && tileCwOk w

/-- TILE_WORD (R369). -/
def tileWordOk (w : List Nat) : Bool := tileFormOk w && tileLevelOk w

/-- FMT_COMBO for the three products; the sparse ones refuse SR 3 (R64, R369, R373). [DEDUCED, log 139] -/
def tileComboOk (w : List Nat) : Bool :=
  2 < tileOpc w || (fmtCombo (tileFmt w) (tileSr w) && !(tileOpc w != 0 && tileSr w == 3))

/-! ## tissue and tstat (R45, R330, R369) -/

/-- Whether a task may target the level (R45). -/
def Task.mayTarget (t : Task) (w : List Nat) : Bool :=
  match tileLevel w with
  | 0 => true
  | 1 => (tileRect w).elim false fun r => r.inside t.rect
  | 2 => (tileRect w).elim false fun r => r.inside t.rect && r.w == 16 && r.h == 12
  | 3 => t.pkgGrant
  | _ => t.grpGrant

/-- The core's tile instructions that have not completed (R330). -/
def State.tilesOf (s : State) : List TileInstr :=
  s.mod.tiles.filter fun x => x.core == s.focus && x.launch == s.core.task.launchId && !x.record

/-- The pins' key of a tile instruction. -/
def tilePin (id : Nat) : Nat := 2 ^ 62 + id

/-- The leaves of a completion area in global memory (R369). [DEDUCED, log 139] -/
def State.areaLeaves (s : State) (w : List Nat) : Except Exc (List Leaf) := do
  match regionOf (tileCw w) with
  | .sp off =>
    must (s.core.task.spOk off 56) (memExc .footprint (tileCw w))
    return []
  | _ =>
    let ls ← s.coverRanges false true [(tileCw w, 56)] []
    must (s.core.pinRoom ls) (.of .pinLimit)
    return ls

/-- tissue: the word is read and checked in the issue cycle, then queued (R330, R369). [DEDUCED, log 94; DEDUCED, log 139] -/
def execTissue (m : Move) (s : State) : Out :=
  scalarTrigger 14 m s fun t => do
    let off := t.toNat
    must (off % 32 == 0) (memExc .align (spBase + off))
    must (off < spSize && s.core.task.spOk off 32) (memExc .footprint (spBase + off))
    s.copyCheck 0 [(off, 32)]
    let s1 ← s.book 14 0 0 false [off]
    let w := (List.range 4).map fun k => rdLE s.core.sp (off + 8 * k) 8
    must (tileWordOk w) (.of .tileWord)
    must (tileComboOk w) (.of .fmtCombo)
    must (1 < tileLevel w || 12 ≤ tileOpc w || 16 ≤ s.core.task.spUnits) (.of .tileStage)
    must (s.core.task.mayTarget w) (.of .tileDenied)
    must (s.tilesOf.length < 4) (.of .tileQueue)
    let ls ← s1.areaLeaves w
    let (id, s2) := s1.takeReq
    let x : TileInstr :=
      { id := id, word := w, core := s.focus, record := false, org := s.core.here 14, slot := s.core.task.slot, launch := s.core.task.launchId,
        gid := s.core.gid, nid := s.core.eng.nid, started := false, left := [], pool := [], flags := 0, faults := [] }
    return { (s2.pin (tilePin id) ls).onCore (fun c => { c with gid := c.gid + 1 }) with mod := { s2.mod with tiles := s2.mod.tiles ++ [x] } }

/-- tstat (R330, R387). -/
def execTstat (m : Move) (s : State) : Out :=
  scalarTrigger 14 m s fun t =>
    match t.toNat with
    | 0 => s.result 14 2 (BitVec.ofNat 64 (s.tilesOf.length + b2n s.core.task.pkgGrant * 2 ^ 8 + b2n s.core.task.grpGrant * 2 ^ 9))
    | 1 => s.result 14 2 s.core.eng.tileFail
    | _ => .error (.of .ctlSel)

end Sys2Proof.Machine
end

