-- ==== Sys2Proof/Machine/Slots.lean ====
section
/-! DEFINITION. The meaning of a slot by its unit and port: the same meanings as `exec`, without building the instruction (R183 to R193). -/

namespace Sys2Proof.Machine

/-- Meanings of unit 0 from port 8 upward. -/
def alu0Meanings : List (Move → State → Out) :=
  [execMov 0, execAdd 0, execSub 0, execAnd 0, execOr 0, execXor 0, execAndn 0, execShl 0, execShr 0, execSar 0,
   execRotl 0, execMin 0, execMax 0, execMinu 0, execMaxu 0, execSeteq 0, execSetne 0, execSetlt 0, execSetltu 0,
   execSetle 0, execSetleu 0, execSel 0, execClz 0, execPopc 0, execSext 0, execZext 0, execBfx 0, execBfi 0,
   execAddw 0, execSubw 0, execAdds 0, execSubs 0, execAdds16 0, execLea 0]

/-- Meanings of unit 1 from port 8 upward. -/
def alu1Meanings : List (Move → State → Out) :=
  [execMov 1, execAdd 1, execSub 1, execAnd 1, execOr 1, execXor 1, execAndn 1, execShl 1, execShr 1, execSar 1,
   execRotl 1, execMin 1, execMax 1, execMinu 1, execMaxu 1, execSeteq 1, execSetne 1, execSetlt 1, execSetltu 1,
   execSetle 1, execSetleu 1, execSel 1, execClz 1, execPopc 1, execSext 1, execZext 1, execBfx 1, execBfi 1,
   execAddw 1, execSubw 1, execAdds 1, execSubs 1, execAdds16 1, execLea 1]

/-- Meanings of unit 2 from port 8 upward. -/
def mulMeanings : List (Move → State → Out) :=
  [execMul, execMulhs, execMulhu, execMulw, execMadd, execDiv, execDivu, execRem, execRemu]

/-- Meanings of unit 3 from port 8 upward. -/
def fpsMeanings : List (Move → State → Out) :=
  [execFadd, execFsub, execFmul, execFfma, execFmin, execFmax, execFminnum, execFmaxnum, execFabs, execFneg,
   execFdiv, execFsqrt, execFcmpeq, execFcmplt, execFcmple, execCvtif, execCvtfi, execCvtfb, execCvtbf, execFclass]

/-- Meanings of unit 4 from port 8 upward. -/
def aguMeanings : List (Move → State → Out) :=
  [execLd8, execLd8s, execLd16, execLd16s, execLd32, execLd32s, execLd64, execSt8, execSt16, execSt32, execSt64,
   execAmoadd, execAmomin, execAmomax, execAmominu, execAmomaxu, execAmoand, execAmoor, execAmoxor, execAmoswap,
   execAmocas, execAmofadd, execAmofmax, execAmofmin, execAmoadd64, execAmoswap64, execAmocas64, execRedadd,
   execRedmin, execRedmax, execRedminu, execRedmaxu, execRedand, execRedor, execRedxor, execRedfadd, execRedfmax,
   execRedfmin, execRedadd64, execWge, execWne]

/-- Meanings of unit 5 from port 8 upward. -/
def bruMeanings : List (Move → State → Out) :=
  [execTgt 0, execTgt 1, execTgt 2, execTgt 3, execPeq, execPne, execPlt, execPltu, execPle, execPleu, execPnot,
   execPand, execPor, execPdup, execPpop, execJmp, execJt, execJf, execJtn, execJfn, execCall, execRet, execLoop,
   execLstages, execLcnt, execLstart, execLend, execVany, execVall, execRdps, execWrps]

/-- Meanings of unit 6 from port 8 upward. -/
def vecMeanings : List (Move → State → Out) :=
  [execVmov, execVadd, execVsub, execVmul, execVmin, execVmax, execVminu, execVmaxu, execVand, execVor, execVxor,
   execVshl, execVshr, execVsar, execVadds16, execVmin16, execVmax16, execVfadd, execVfsub, execVfmul, execVffma,
   execVfmin, execVfmax, execVfexp2, execVflog2, execVfrcp, execVfrsqrt, execVcvtf, execVcvti, execVpack,
   execVunpack, execVcmpeq, execVcmplt, execVcmple, execVfcmpeq, execVfcmplt, execVfcmple, execVsel, execVperm,
   execVbcast, execVextr, execVins, execVredadd, execVredmin, execVredmax, execVfredadd, execVfredmax, execVscan,
   execVmand, execVmor, execVmnot, execVmpopc]

/-- Meanings of unit 7 from port 8 upward. -/
def vmemMeanings : List (Move → State → Out) :=
  [execVld, execVst, execVldx, execVstx, execVldr, execVstr, execVlda, execVsta, execVacc, execVld8]

/-- Meanings of unit 9 from port 8 upward. -/
def klnMeanings : List (Move → State → Out) :=
  [execKcfg, execKflow, execKswitch, execKstart, execKdrain, execKzero, execKsel, execKring, execKpop]

/-- Meanings of unit 10 from port 8 upward. -/
def cpyMeanings : List (Move → State → Out) :=
  [execCpy, execCpyt, execCpyf, execCfetch, execCwp, execCreset]

/-- Meanings of unit 11 from port 8 upward. -/
def spsMeanings : List (Move → State → Out) :=
  [execSopen, execSisect, execSisectc, execSmerge, execSdiff, execSread, execSwbind, execSwfree]

/-- Meanings of unit 12 from port 8 upward. -/
def embMeanings : List (Move → State → Out) :=
  [execEpatch, execEload, execErd, execEsave, execErest, execEstep, execEclk, execEinc, execEcnt]

/-- Meanings of unit 13 from port 8 upward. -/
def fabMeanings : List (Move → State → Out) :=
  [execFrd, execFwr, execFwrrel, execFatom, execFmcred, execFmcst, execFgrp, execFbar, execFstat]

/-- Meanings of unit 14 from port 8 upward. -/
def ctlMeanings : List (Move → State → Out) :=
  [execNop, execFmt, execCsrr, execCsrw, execFence, execBar, execTrap, execHalt, execCond, execSegend, execTissue,
   execTstat, execTsc, execMark]

/-- The meanings of a unit (R183). -/
def unitMeanings : Nat → List (Move → State → Out)
  | 0 => alu0Meanings
  | 1 => alu1Meanings
  | 2 => mulMeanings
  | 3 => fpsMeanings
  | 4 => aguMeanings
  | 5 => bruMeanings
  | 6 => vecMeanings
  | 7 => vmemMeanings
  | 9 => klnMeanings
  | 10 => cpyMeanings
  | 11 => spsMeanings
  | 12 => embMeanings
  | 13 => fabMeanings
  | 14 => ctlMeanings
  | _ => []

/-- The meaning of a checked slot. -/
def runSlot (r : RawMove) (s : State) : Out :=
  if r.unit = 8 then execNregWrite (BitVec.ofNat 6 r.port) r.move s
  else if r.port = 0 then execPort0Discard (BitVec.ofNat 4 r.unit) r.move s
  else if r.port ≤ 7 then execOperandPortMove (BitVec.ofNat 4 r.unit) (BitVec.ofNat 3 r.port) r.move s
  else
    match (unitMeanings r.unit)[r.port - 8]? with
    | some f => f r.move s
    | none => .next (s.take (.fault .illegalSlot (Malformed.code .portUndefined) 0 0) r.unit)

end Sys2Proof.Machine
end

