-- ==== Sys2Proof/Machine/Issue.lean ====
section
/-! DEFINITION. Issue: a position of the stream, its checks, its slots, and what follows in the stream (R178 to R181, R216, R217, R225). -/

namespace Sys2Proof.Machine

/-- The number of the bundle at issue: a bundle of which some slots are done keeps its own (R81, R423). [DEDUCED, log 26] -/
def Core.nextBundle (c : Core) : Nat := if c.doneMask = 0 then c.bundle + 1 else c.bundle

/-- The next position leaves the stream and stands at issue. -/
def Core.popPos (c : Core) : Core :=
  match c.fq with
  | p :: r => { c with cur := p, fq := r, slot := 0, curHdr := false, bundle := c.nextBundle }
  | [] => { c with cur := Pos.plain (c.cur.idx + 1), slot := 0, curHdr := false, bundle := c.nextBundle }

/-- The levels whose body does not hold a target end, with every level inside them (R225). -/
def Loops.leave (l : Loops) (idx : BitVec 14) : Loops :=
  let out := fun (v : Level) => v.active && !(v.first ≤ idx && idx ≤ v.last)
  let ended := fun (v : Level) => { v with active := false, sp := 0 }
  if out l.outer then { l with outer := ended l.outer, inner := ended l.inner }
  else if out l.inner then { l with inner := ended l.inner }
  else l

/-- A target that issues ends the loops it lies outside; one that issues the rest of its slots, or for its wait alone, has done so
(R225, R423). [DEDUCED, log 21] -/
def Core.enterTarget (c : Core) : Core :=
  if c.cur.target && !c.cur.again && c.doneMask == 0 then { c with loops := c.loops.leave c.cur.idx } else c

/-- A position outside its segment (R34). -/
def State.rangeBad (s : State) : Option Exc :=
  let c := s.core
  if c.cur.idx < c.seg.first || c.seg.last < c.cur.idx then
    some (s.graphExc (if c.cur.target then .outOfSegment else .overrun))
  else none

/-- The bundle of the position at issue (R168). -/
def Core.fetch (c : Core) : BitVec 128 := BitVec.ofNat 128 (rdLE c.imem (16 * c.cur.idx.toNat) 16)

/-- Whether a move is a transfer (R215). [DEDUCED, log 35] -/
def isTransfer (r : RawMove) : Bool := r.unit == 5 && 23 ≤ r.port && r.port ≤ 29

/-- A LEND bundle, of either level, in a place or of a form that R225 refuses. [DEDUCED, log 35] -/
def Core.lendBad (c : Core) (b : Bundle) : Bool :=
  ([c.loops.inner, c.loops.outer].any fun l => l.active && l.last == c.cur.idx) &&
    (c.cur.xferDelay || c.cur.loopDelay || c.cur.null || b.moves.any fun m => isTransfer m.2)

/-- The refusal of a bundle as a fault on its slot (R181, R182). FINFO names the unit and the port. [DEDUCED, log 11] -/
def bundleExc (b : BitVec 128) : BundleBad → Nat × Exc
  | .slot k r =>
    (k, .fault .illegalSlot r.code 0 ((slotUnit (bundleSlot b k)).toNat * 64 + (slotPort (bundleSlot b k)).toNat))
  | .pair k =>
    (k, .fault .illegalBundle 0 0 ((slotUnit (bundleSlot b k)).toNat * 64 + (slotPort (bundleSlot b k)).toNat))

/-- The checks made before any slot of a position acts: its place, its encoding, and the rule for LEND (R34, R181, R225). [DEDUCED, log 34] -/
def State.positionBundle (s : State) : Except (Nat × Exc) Bundle :=
  match s.rangeBad with
  | some e => .error (0, e)
  | none =>
    match checkBundle s.core.fetch with
    | .error bad => .error (bundleExc s.core.fetch bad)
    | .ok b => if s.core.lendBad b then .error (0, .of .loopXfer) else .ok b

/-- A fault of a whole bundle, or a breakpoint: its record names a slot, and its done mask is empty, that of a bundle issued again too
(R181, R426). [DEDUCED, log 34] -/
def State.takeWhole (s : State) (k : Nat) (e : Exc) : State :=
  let s1 := s.take e 0
  s1.onCore fun c => { c with doneMask := 0, captured := [], stop := c.stop.map fun st => { st with slot := k, done := 0 } }

/-! ## The slots of a bundle (R179) -/

/-- Whether a move delivers to an operand port. -/
def isPortMove (r : RawMove) : Bool := r.unit != 8 && 1 ≤ r.port && r.port ≤ 7

/-- The operand-port writes of some slots, all before any trigger (R174, R179). -/
def State.portWrites (s : State) : List (Nat × RawMove) → State
  | [] => s
  | (k, r) :: rest =>
    if isPortMove r then
      match runSlot r (s.onCore fun c => { c with slot := k }) with
      | .next s' => (if s'.core.mode = Mode.run then s' else s).portWrites rest
      | _ => s.portWrites rest
    else s.portWrites rest

/-- A core as it stands, with the walks and the handle reads that slots which wait have asked for (R231, R295). [DEDUCED, log 48] -/
def Core.keepAsked (c asked : Core) : Core :=
  { c with
    walks := asked.walks
    gid := asked.gid
    gacc := c.gacc ++ asked.gacc.filter fun g => (match g.act with | .read _ .handle => true | _ => false) && !c.gacc.contains g }

/-- What a run of slots comes to: all done, a stop on a slot, late items that hold the bundle, or a stop of the model. -/
inductive Ran where
  | done (s : State)
  | stopped (k : Nat) (s : State)
  | held (s : State) (items : List Late)
  | out (o : Out)

/-- The slots in order. A slot that must wait under HOLD is passed over and its late item collected (R356, R358). [DEDUCED, log 30] -/
def runSlots : List (Nat × RawMove) → List Late → State → Ran
  | [], [], s => .done s
  | [], items, s => .held s items
  | (k, r) :: rest, items, s =>
    match runSlot r (s.onCore fun c => { c with slot := k }) with
    | .next s' =>
      match s'.core.mode with
      | .stopping => if items.isEmpty then .stopped k s' else .held s items
      | .hold =>
        runSlots rest (items ++ (s'.core.hold.elim [] Hold.items))
          { s with nReq := s'.nReq, core := s.core.keepAsked s'.core }
      | _ => runSlots rest items s'
    | o => .out o

/-- The value a slot not done keeps for its reissue (R418, R423). -/
def Core.capture (c : Core) (k : Nat) (r : RawMove) : Nat × VReg :=
  let c1 := { c with slot := k }
  (k, match portClass r.unit r.port with
    | .vector => c1.takeVector r.move.src
    | _ => (c1.takeScalar r.move.src).setWidth 2048)

/-- A precise stop on slot k: operand-port writes of that slot and those above it are undone, and their sources kept
(R229, R357, R423). -/
def State.stopAt (s0 s : State) (k : Nat) (todo : List (Nat × RawMove)) : State :=
  let below := s0.portWrites (todo.filter fun m => m.1 < k)
  s.onCore fun c =>
    { c with
      regs := { c.regs with sPort := below.core.regs.sPort, vPort := below.core.regs.vPort }
      captured := (todo.filter fun m => k ≤ m.1).map fun m => s0.core.capture m.1 m.2 }

/-! ## What follows an issued position -/

/-- After the second delay bundle of a loop the first pass starts (R221, R222). [DEDUCED, log 175] -/
def Core.firstPass (c : Core) : Core :=
  let last := c.cur.loopDelay && !(c.fq.headD .zero).loopDelay
  match (if last then c.loops.innermost else none) with
  | some (which, l) => if l.fresh then { c with loops := c.loops.set which l.startPass } else c
  | none => c

/-- The stream and the stall after a position, and the delay bundles left of an ending segment (R35, R178, R216). A position that issues
again for its wait alone has had its count, and has its stall from this issue on (R178, R237, R423). [DEDUCED, log 21] -/
def Core.afterPos (c : Core) (stall : Nat) : Core :=
  let c1 := c.firstPass
  { c1 with
    fq := if c1.fq.isEmpty then [Pos.plain (c1.cur.idx + 1)] else c1.fq
    stall := stall
    seg := { c1.seg with ending := if c1.cur.again then c1.seg.ending else c1.seg.ending.map (· - 1) }
    doneMask := 0
    captured := []
    heldLeaves := []
    handle := none
    bindRead := none
    skipBrk := false
    curHdr := false }

/-- A stop that falls after the present cycle (R329, R424). [DEDUCED, log 22; DEDUCED, log 37] -/
def Core.stopAfter (c : Core) (cause : Cause) (reason slot : Nat) : Core :=
  { c with
    stopAsked := some
      { cause := some cause, reason := reason, slot := slot, done := 0, stallRem := 0, faddr := 0, finfo := 0,
        resumable := true, after := true, org := .zero } }

/-- A trap, a halt or a single step takes hold after its position (R40, R329, R424). [DEDUCED, log 22] -/
def Core.afterStops (c : Core) : Core :=
  let c1 := if c.halt then { c with mode := .halted, halt := false } else c
  match c1.trapped with
  | some code => { c1.stopAfter .trap code 0 with trapped := none, stepOne := false }
  | none => if c1.stepOne then { c1.stopAfter .step 0 0 with stepOne := false } else c1

/-- The slots of a bundle but one as done, and that one's source. [DEDUCED, log 21] -/
def Core.keepSlot (c before : Core) (moves : List (Nat × RawMove)) (k : Nat) : Core :=
  { c with
    doneMask := BitVec.ofNat 4 ((moves.filter fun m => m.1 != k).map fun m => 2 ^ m.1).sum
    captured := (moves.filter fun m => m.1 == k).map fun m => before.capture m.1 m.2 }

/-- A pausing wait, or a bar, is the one slot of its bundle that a stop may reissue (R237, R39). [DEDUCED, log 21] -/
def Core.keepWait (c before : Core) (moves : List (Nat × RawMove)) : Core :=
  match c.wait with
  | some (.word _ _ _ k _) => c.keepSlot before moves k
  | some (.bar _ k _) => { c with barKept := ((c.keepSlot before moves k).doneMask, c.barKept.2) }
  | _ => c

/-! ## Sampling (R429) -/

/-- The gap after a draw: from 2^p - 2^(p-1) to 2^p + 2^(p-1) - 1 positions. [DESIGN CHOICE, log 163] -/
def Trace.nextGap (t : Trace) : Nat := 2 ^ t.logp - 2 ^ (t.logp - 1) + Config.sampleDraw t.seed t.draws % 2 ^ t.logp

/-- A position passes the sampler; a sampled one writes a record of its index, its fetch cycle and the cycles in the fetch queue, the
stall, hold and wait cycles, the issue cycle and the guards. The fetch cycle, and how six words hold the eight items, are free.
[DESIGN CHOICE, log 163] -/
def State.sample (s : State) (guards : Nat) : State :=
  let c := s.core
  let t := c.trace
  let fresh := { t with stallN := 0, holdN := 0, waitN := 0 }
  if c.cur.again then s
  else if !t.isOpen || t.launch != c.task.launchId || t.logp == 0 then { s with core := { c with trace := fresh } }
  else if t.gap ≤ 1 then
    let fetched := Config.openValue 63 t.seed t.draws % (c.tcc + 1)
    let known := [c.cur.idx.toNat, fetched, c.tcc - fetched - t.stallN - t.waitN, t.stallN, t.holdN, t.waitN, c.tcc, guards]
    let c1 := { c with trace := { fresh with gap := t.nextGap, draws := t.draws + 1 } }
    { s with core := c1.traceRec s.ts s.focus 3 ((List.range 6).map fun k => Config.sampleWord k known) }
  else { s with core := { c with trace := { fresh with gap := t.gap - 1 } } }

/-- Bit k set when the guard of slot k passes (R429). -/
def Core.guardMask (c : Core) (moves : List (Nat × RawMove)) : Nat :=
  (moves.map fun m => if c.guardPass m.2.move.guard then 2 ^ m.1 else 0).sum

/-! ## The steps -/

/-- Whether a bundle holds a bar to be acted on (R103). -/
def Core.hasBar (c : Core) (moves : List (Nat × RawMove)) : Bool :=
  moves.any fun m => !c.doneMask.getLsbD m.1 && m.2.unit == 14 && m.2.port == 13 && c.guardPass m.2.move.guard

/-- Whether what a bar covers is still under way: an access of the core, a push store it made or is about to make, a remote read
(R100, R103). -/
def State.barCovered (s : State) : Bool :=
  !s.core.gacc.isEmpty || (s.mod.pushes.any fun p => p.src == s.focus && p.launch == s.core.task.launchId) ||
  s.core.peerOwed s.core.gid (fun _ => true) || !s.readsCovered s.focus s.core.gid

/-- The steps that the issued position sets off in the same cycle. -/
def Core.boundaryEvent (c : Core) : List Instr :=
  match c.loops.innermost with
  | some (_, l) => if l.last = c.cur.idx ∧ !c.cur.again then [.loopPassBoundary] else []
  | none => []

/-- Whether a slot accesses the scratchpad or the accumulator store, or triggers units 9 to 12 (R383). -/
def Core.slotTouches (c : Core) (r : RawMove) : Bool :=
  c.guardPass r.move.guard && 8 ≤ r.port &&
  (r.unit == 7 || (9 ≤ r.unit && r.unit ≤ 12) || (r.unit == 13 && r.port != 16) || (r.unit == 14 && r.port == 18) ||
    (r.unit == 4 &&
      (match regionOf (c.port 4 1 + c.takeScalar r.move.src).toNat with
        | .sp _ => true
        | .acc _ => true
        | _ => false)))

/-- A tile part that runs on the core (R383). -/
def Core.tileHere (c : Core) : Option TilePart := c.eng.parts.find? fun p => p.t0.isSome

/-- Whether a part of an instruction of its own holds a bundle back (R383). -/
def Core.tileHolds (c : Core) (todo : List (Nat × RawMove)) : Bool :=
  c.tileHere.isSome && todo.any fun m => { c with slot := m.1 }.slotTouches m.2

/-- A bundle with a swbind to act waits at issue while the indices are read; the state after one cycle of it. A swbind that could not act,
and one whose indices are read, holds nothing back (R302). [DEDUCED, log 48; DEDUCED, log 95] -/
def State.bindWaits (s : State) (todo : List (Nat × RawMove)) : Option State :=
  match todo.find? fun m => m.2.unit == 11 && m.2.port == 14 && s.core.guardPass m.2.move.guard with
  | none => none
  | some (k, r) =>
    if s.core.indicesRead then none
    else
      let s1 := s.onCore fun c => { c with slot := k }
      (s1.readIndices (s1.core.takeScalar r.move.src)).toOption

/-- A stop on a bank conflict between two slots of the bundle: neither access performs, so the bundle stands as though the lower of the two
had done nothing (R81). [DEDUCED, log 26] -/
def State.conflictUndone (s1 s' : State) (todo : List (Nat × RawMove)) (k : Nat) : State :=
  match s'.core.stop with
  | some st =>
    if st.cause == some .bankConflict then
      match runSlots (todo.filter fun m => m.1 < k && m.2.unit != st.finfo / 256 % 16) [] s1 with
      | .done t => (t.onCore fun c => { c with slot := k }).take (.fault .bankConflict 0 st.faddr st.finfo) 0
      | _ => s'
    else s'
  | none => s'

/-- The slots of a checked bundle act. `before` is the state in which the position has not left the stream; a bundle that is held at issue
has not issued (R225, R356). -/
def State.actBundle (before s0 : State) (b : Bundle) : Out :=
  let s1 := s0.onCore fun c => { c with curHdr := b.hdr }
  let todo := b.moves.filter fun m => !s1.core.doneMask.getLsbD m.1
  let s1p := s1.portWrites todo
  if s1p.core.tileHolds todo then .next before
  else
  match s1.bindWaits todo with
  | some r => .next (before.onCore fun c => { c with bindRead := r.core.bindRead, banks := r.core.banks })
  | none =>
  match runSlots todo [] s1p with
  | .out o => o
  | .stopped k s' => .next (s1.stopAt (s1p.conflictUndone s' todo k) k todo)
  | .held s' items =>
    .next { s0 with
      nReq := s'.nReq
      agenda := []
      core := { s0.core.keepAsked s'.core with
        loops := before.core.loops
        mode := .hold
        cycleOpen := false
        fq := s0.core.cur :: s0.core.fq
        hold := some (s0.core.newHold s0.ts (sortBy (fun a b => a.org.unit ≤ b.org.unit) items) .run) } }
  | .done s' =>
    let s2 := s'.sample (s1.core.guardMask b.moves)
    let ev := s2.core.boundaryEvent
    .next { s2 with
      core := ((s2.core.afterPos b.stall).keepWait s1.core b.moves).afterStops
      agenda := ev ++ s2.agenda }

/-- BUNDLE_ISSUE (R179). -/
def execBundleIssue (s : State) : Out :=
  let p := s.onCore Core.popPos
  match p.positionBundle with
  | .error (k, e) => .next (p.takeWhole k e)
  | .ok b =>
    let s0 := p.onCore Core.enterTarget
    if s0.core.hasBar b.moves && s.barCovered then .next s else s.actBundle s0 b

/-- NULLIFIED_POSITION: the checks are made, no slot acts, and the position takes its cycle and its stall (R217). -/
def execNullifiedPosition (s : State) : Out :=
  let p := s.onCore Core.popPos
  match p.positionBundle with
  | .error (k, e) => .next (p.takeWhole k e)
  | .ok b => .next (((p.onCore Core.enterTarget).sample 0).onCore fun c => (c.afterPos b.stall).afterStops)

/-- BREAKPOINT_HIT: the task stops before the position, with nothing of it done (R426). -/
def execBreakpointHit (s : State) : Out :=
  let s0 := s.onCore Core.popPos
  .next (s0.takeWhole 0 (.of .brk))

/-- Whether a register word satisfies a wait in this cycle (R237). [DEDUCED, log 173] -/
def Core.waitNow (c : Core) (ne : Bool) (ea : Nat) (v : W64) : Bool :=
  match regionOf ea with
  | .csr off => (c.csrRead (off / 8)).elim false (waitHolds ne v ·)
  | .sp off => waitHolds ne v (BitVec.ofNat 64 (rdLE c.sp off 8))
  | _ => false

/-- Whether the wait of the core is over: a condition found true, or a barrier released (R237, R38). -/
def State.waitOver (s : State) : Bool :=
  match s.core.wait with
  | some (.word ne ea v _ hit) => hit.any (· ≤ s.wall) || s.core.waitNow ne ea v
  | some (.bar _ _ (some at_)) => (s.ts - at_).toNat < 2 ^ 63
  | some (.bar _ _ none) => false
  | none => false

/-- Whether the slot of the wait is done and the bundle it stands in is still to issue the rest of its slots, after a stop on one of
them: the wait goes on when they are done (R416, R423). [DEDUCED, log 21] -/
def Core.parked (c : Core) : Bool :=
  match c.wait with
  | some (.word _ _ _ k _) => c.doneMask.getLsbD k
  | some (.bar _ k _) => c.doneMask.getLsbD k
  | none => false

/-- The wait of a core is over. A bundle of which some slots are still to act, after a stop on one of them, keeps what it has done
(R237, R423); a bar's bundle that has issued keeps nothing here. [DEDUCED, log 21] -/
def Core.endWait (c : Core) : Core :=
  match c.wait with
  | some (.word _ _ _ k _) => if c.doneMask.getLsbD k then { c with wait := none } else { c with wait := none, doneMask := 0, captured := [] }
  | _ => { c with wait := none }

/-- WAIT_END: a wait that is over no longer pauses issue (R237, R38). -/
def execWaitEnd (s : State) : Out := .next (if s.waitOver then s.onCore Core.endWait else s)

end Sys2Proof.Machine
end

