-- ==== Sys2Proof/Machine/Walk.lean ====
section
/-! DEFINITION. The node table and the graph walker (R30 to R35). -/

namespace Sys2Proof.Machine

/-- A node entry (R30). -/
structure Node where
  raw : Nat
deriving DecidableEq, Repr

def Node.kind (n : Node) : Nat := fld n.raw 3 0
def Node.start (n : Node) : Nat := fld n.raw 21 8
def Node.last (n : Node) : Nat := fld n.raw 35 22
def Node.succ0 (n : Node) : Nat := fld n.raw 47 36
def Node.succ1 (n : Node) : Nat := fld n.raw 59 48
def Node.limit (n : Node) : Nat := fld n.raw 95 64
def Node.ncount (n : Node) : Nat := fld n.raw 107 96

/-- The entry of a node in the instruction store (R30). -/
def Core.node (c : Core) (i : Nat) : Node := ⟨rdLE c.imem (16 * i) 16⟩

/-- The number of nodes, from node 0 (R30). -/
def Core.nodeCount (c : Core) : Nat := let n := (c.node 0).ncount; if n = 0 then 4096 else n

/-- Reserved fields, and the fields a kind leaves unused, are zero (R30, R31). -/
def Node.fieldsOk (n : Node) (i : Nat) : Bool :=
  fld n.raw 127 108 == 0 && fld n.raw 63 60 == 0 && fld n.raw 7 4 == 0 && (i == 0 || n.ncount == 0) &&
  (match n.kind with
    | 0 => n.limit == 0 && n.succ1 == 0
    | 1 => n.limit == 0 && n.start == 0 && n.last == 0
    | 2 => n.start == 0 && n.last == 0
    | 3 => n.limit == 0 && n.succ0 == 0 && n.succ1 == 0 && n.start == 0 && n.last == 0
    | _ => false)

/-- What makes an entry NODE_BAD (R31). -/
def Node.bad (n : Node) (i count : Nat) : Bool :=
  !n.fieldsOk i ||
  (match n.kind with
    | 0 => !(count ≤ n.start && n.start ≤ n.last) || count ≤ n.succ0
    | 1 => count ≤ n.succ0 || count ≤ n.succ1
    | 2 => count ≤ n.succ0 || count ≤ n.succ1
    | _ => false)

/-- The walk now under way: one in progress, or the one that follows an ended segment, its stall and its waits over; a delay bundle that
is to issue again for its wait comes first (R35, R237). -/
def Core.theWalk (c : Core) : Option Walk :=
  match c.walk with
  | some w => some w
  | none => if c.seg.ending = some 0 && !(c.fq.headD .zero).again then some ⟨(c.node c.seg.node).succ0, 0⟩ else none

/-- The walker stops the task at a node: no position of the stream is pending (R31, R35, R155). -/
def State.walkFault (s : State) (w : Walk) (e : Exc) : State :=
  (s.take e 14).onCore fun c => { c with fq := [], walk := some w }

/-- The step that the next position calls for: a breakpoint, a nullified position, or issue (R217, R426). -/
def Core.positionEvent (c : Core) : Instr :=
  let p := c.fq.headD (Pos.plain (c.cur.idx + 1))
  let armed := (List.range 4).any fun i =>
    let b := vget 0 c.bkpt i
    b.getLsbD 63 && b.extractLsb' 0 14 == p.idx
  if armed && !c.skipBrk then .breakpointHit else if p.null then .nullifiedPosition else .bundleIssue

/-- A segment begins: SCC restarts and its first bundle is the next position (R32, R36). [DEDUCED, log 16] -/
def Core.enterSegment (c : Core) (i : Nat) (n : Node) : Core :=
  let first := BitVec.ofNat 14 n.start
  { c with
    walk := none
    scc := 0
    seg := ⟨i, first, BitVec.ofNat 14 n.last, none⟩
    fq := [Pos.plain first] }

/-- The walker moves on to another node. -/
def Core.walkTo (c : Core) (w : Walk) (next : Nat) (counts : List (Nat × Nat)) : Core :=
  { c with walk := some ⟨next, w.passed + 1⟩, counts := counts, seg := { c.seg with ending := none } }

/-- A conditional or while node passed, in one cycle (R32, R35). -/
def State.passNode (s : State) (w : Walk) (n : Node) : State :=
  let c := s.core
  let count := sget 0 c.counts w.node
  if n.kind = 1 then
    s.onCore fun c => c.walkTo w (if c.cond.getLsbD 0 then n.succ1 else n.succ0) c.counts
  else if c.cond = 0 then s.onCore fun c => c.walkTo w n.succ1 (sset 0 c.counts w.node 0)
  else if n.limit ≠ 0 ∧ n.limit ≤ count then s.walkFault w (.fault .limit 0 w.node 0)
  else s.onCore fun c => c.walkTo w n.succ0 (sset 0 c.counts w.node (count + 1))

/-- The stop asked for takes the core at a boundary that falls before its next cycle (R416). A bundle that is to issue again for its wait
owes its stall from that issue on (R178). [DEDUCED, log 21] -/
def Core.beginStop (c : Core) (st : Stop) : Core :=
  let c1 := { c with mode := .stopping, stopAsked := none, cycleOpen := false, halt := c.halt }
  let st := { st with halted := (c.mode == Mode.halted : Bool) }
  match (if c.parked then none else c.wait) with
  | some (.word _ _ _ slot _) =>
    { c1 with
      wait := none
      gacc := c.gacc.filter fun g => match g.act with | .read _ .wait => false | _ => true
      stall := 0
      fq := { c.cur with again := true } :: c.fq
      stop := some { st with slot := if st.cause.isNone then st.slot else slot, done := c.doneMask, stallRem := 0 } }
  | some _ => { c1 with stop := some { st with stallRem := c.stall } }
  | none => { c1 with stop := some { st with done := c.doneMask, stallRem := c.stall } }

/-- A member that waits at a barrier which cannot complete takes a precise fault on its bar slot: the bundle's other slots are done, or as
they were when a stop came between them and the bar slot, and the bar slot keeps its source (R39, R423). [DEDUCED, log 18] -/
def Core.orphanStop (c : Core) (slot : Nat) : Core :=
  let done := (if c.parked then c.doneMask else c.barKept.1) &&& ~~~(1#4 <<< slot)
  let stall := if c.parked then c.stall else 0
  { c with
    mode := .stopping, stopAsked := none, cycleOpen := false, wait := none
    doneMask := done
    captured := if c.parked then c.captured ++ c.barKept.2 else c.barKept.2
    stall := stall
    fq := if c.parked then c.fq else { c.cur with again := true } :: c.fq
    stop := some
      { cause := some .barOrphan, reason := 0, slot := slot, done := done, stallRem := stall, faddr := c.seg.node, finfo := 0,
        resumable := true, after := false, org := .zero } }

/-- SEGMENT_WALK: one cycle of the walker. A conditional or while node takes the cycle; a plain node's first bundle
issues in it; an end node halts the task (R32, R35). [DEDUCED, log 14; DEDUCED, log 50] -/
def execSegmentWalk (s : State) : Out :=
  match s.core.theWalk with
  | none => .next s
  | some w =>
    let c := s.core
    let n := c.node w.node
    if n.bad w.node c.nodeCount then .next (s.walkFault w (.fault .nodeBad 0 w.node 0))
    else if n.kind = 0 then
      let s1 := s.onCore fun c => c.enterSegment w.node n
      match s1.core.stopAsked with
      | some st => .next { (s1.onCore fun c => c.beginStop st) with agenda := [] }
      | none => .next { s1 with agenda := s1.core.positionEvent :: s1.agenda }
    else if n.kind = 3 then
      if c.embOverrun then .next (s.walkFault w (.fault .embOverrun 0 0 c.eng.ember.flt.toNat))
      else .next (s.onCore fun c => { c with mode := .halted, walk := none, seg := { c.seg with ending := none } })
    else if w.passed = 16 then .next (s.walkFault w (.fault .walkLimit 0 w.node 0))
    else .next (s.passNode w n)

end Sys2Proof.Machine
end

