-- ==== Sys2Proof/Machine/Mem.lean ====
section
/-! DEFINITION. Steps of the memory system: global accesses, replicated stores, push stores, opportunistic requests, races (R78, R80, R90, R113, R114). -/

namespace Sys2Proof.Machine

/-- Whether an access meets a granule that cannot be read (R451). [DEDUCED, log 143] -/
def State.spoilt (s : State) (g : GAccess) : Bool :=
  s.meetsPoison g.pa g.repl g.act.length g.act.writes

/-- Whether an access waits for a die that is in reset (R443). -/
def State.atReset (s : State) (g : GAccess) : Bool :=
  if g.repl && g.act.writes then (List.range 4).any s.dieReset else s.dieReset (g.pa / groupSpan)

/-- An access that may perform does, unless its granule is poisoned: then it does not complete, and the error is acted on (R443, R451).
[DEDUCED, log 143] -/
def State.tryAccess (s : State) (g : GAccess) : State :=
  if !s.ready g || s.atReset g then s
  else if s.spoilt g then (s.later [.uncorrectableError (errorAt 4 (g.pa / 64 * 64))])
  else s.performAccess g

/-- GLOBAL_ACCESS_PERFORM: an access that may perform now does, checked at its home controller (R113, R232). -/
def execGlobalAccessPerform (id : Nat) (s : State) : Out :=
  match s.core.gacc.find? fun g => g.id == id with
  | some g => .next (s.tryAccess g)
  | none => .next s

/-- REPLICATED_STORE_COMMIT: a granule of a replicated page is locked in the four replicas, written and unlocked, in one
step (R90). [DEDUCED, log 55] -/
def execReplicatedStoreCommit (id : Nat) (s : State) : Out :=
  match s.core.gacc.find? fun g => g.id == id && g.repl && g.act.writes with
  | some g => .next (s.tryAccess g)
  | none => .next s

/-- The base of a core's image while it stands in a frame (R409, R418). -/
def Core.frameBase (c : Core) : Nat := ctxBase + 0x1000000 * (c.frame + 1)

/-- The base of a frame (R409). -/
def frameAt (f : Nat) : Nat := ctxBase + 0x1000000 * (f + 1)

/-- What writes to a core's stores from outside meet: the live core, its image in a frame, or a save or restore under way (R439). -/
inductive Place where
  | live
  | frame (base : Nat)
  | busy
deriving DecidableEq, Repr

/-- Where the task of core i that satisfies p stands, with its record: in its place, or in the image of a suspended launch (R43, R406,
R416). -/
def State.placeOf (s : State) (i : Nat) (p : Task → Bool) : Option (Place × Core) :=
  let c := s.coreAt i
  if c.mode ≠ .off ∧ p c.task then
    some (match c.mode with
      | .stopped => .frame c.frameBase
      | .stopping => .busy
      | .restoring => .busy
      | _ => .live, c)
  else (s.mod.images.find? fun x => x.idx == i && p x.core.task).map fun x => (.frame (frameAt x.frame), x.core)

/-- The place at which writes that no island holds are made: a core that is being saved still takes them (R362). [DEDUCED, log 113] -/
def ownPlace (pl : Place) (c : Core) : Place :=
  match pl with
  | .busy => if c.mode = .restoring then .frame c.frameBase else .live
  | p => p

/-- A write to the scratchpad of the core in focus from outside its schedule, through its banks (R80). -/
def State.inboundWrite (s : State) (rank grp off : Nat) (data : List Byte) : State :=
  s.onCore fun c => { c with opp := c.opp ++ (piecesOf off data).map fun p => ⟨rank, grp, false, p.1, 0, p.2, .none⟩ }

/-- A rise of a 64-bit flag word after the writes of its group (R78). -/
def State.inboundRaise (s : State) (rank grp off : Nat) : State :=
  s.onCore fun c => { c with opp := c.opp ++ [⟨rank, grp, false, off, 8, [], .raise off⟩] }

/-- Whether a fence of its core holds a push store back (R101). -/
def State.pushHeld (s : State) (p : Push) : Bool := (s.coreOf p.src p.launch).fences.any fun f => f.id ≤ p.gid

/-- Whether a push store may arrive: it has not, no fence holds it, and its flag comes after every store of its group to the core has
performed (R78, R101, R291). -/
def State.pushReady (s : State) (p : Push) : Bool :=
  !p.got && p.tgt == s.focus && p.arrive ≤ s.wall && !s.pushHeld p &&
  (p.flag.isNone || !(s.mod.pushes.any fun o => o.id != p.id && o.grp == p.grp && o.tgt == p.tgt && o.flag.isNone))

/-- A push store takes effect on a live task through the banks of its scratchpad, and has performed when they have served it (R78, R80,
R95). -/
def State.pushLive (s : State) (p : Push) : State :=
  let s1 := p.parts.foldl (fun st x => st.inboundWrite 1 (2 * p.id) x.1 x.2) s
  match p.flag with
  | some f => s1.inboundRaise 1 (2 * p.id) f
  | none => s1

/-- Push stores to the core in focus that its banks have served are done (R95). -/
def State.pushesServed (s : State) : State :=
  s.onMod fun m => { m with pushes := m.pushes.filter fun p =>
    !(p.got && p.tgt == s.focus && !(s.core.opp.any fun r => r.rank == 1 && r.grp == 2 * p.id)) }

/-- A push store takes effect on the image at a base (R43). -/
def Push.onImage (p : Push) (base : Nat) (m : Mem) : Mem :=
  let m1 := p.parts.foldl (fun m x => wrBytes m (base + 0x400000 + x.1) x.2) m
  match p.flag with
  | some f => wrLE m1 (base + 0x400000 + f) 8 (rdLE m1 (base + 0x400000 + f) 8 + 1)
  | none => m1

/-- A refused store: it and its flag are discarded, with the flag of the copy it belongs to (R88, R291). [DEDUCED, log 174] -/
def State.refusePush (s : State) (p : Push) : State :=
  s.onMod fun m => { m with
    refused := if p.flag.isSome then m.refused.erase (p.grp, p.tgt)
      else if m.refused.contains (p.grp, p.tgt) then m.refused else (p.grp, p.tgt) :: m.refused }

/-- PUSH_STORE_ARRIVAL at the core in focus: data first, then the flag, in the task's scratchpad or its image; a store on an active index
vector is refused (R43, R78, R88). [DEDUCED, log 174] -/
def execPushStoreArrival (id : Nat) (s : State) : Out :=
  match s.mod.pushes.find? fun p => p.id == id && s.pushReady p with
  | none => .next s
  | some p =>
    let s1 := s.onMod fun m => { m with pushes := m.pushes.erase p }
    .next (match s.placeOf s.focus fun t => t.launchId == p.launch with
      | none => s1
      | some (pl, c) =>
        if (p.parts.any fun x => c.indexHit x.1 x.2.length) || (p.flag.isSome && s.mod.refused.contains (p.grp, p.tgt)) then s1.refusePush p
        else
          match ownPlace pl c with
          | .frame base => { s1 with mem := p.onImage base s1.mem }
          | _ => (s.onMod fun m => { m with pushes := m.pushes.map fun x => if x.id = p.id then { x with got := true } else x }).pushLive p)

/-! ## Opportunistic requests (R80) -/

/-- The bank row a request wants. -/
def OppReq.bank (r : OppReq) : Nat × Nat × Nat :=
  let st := if r.acc then 1 else 0
  (st, bankOf st r.off)

/-- Whether what follows reads a word and writes it anew: such a request comes after the others of its group. -/
def After.updates : After → Bool
  | .raise _ => true
  | .complete _ _ => true
  | .atomic _ _ _ => true
  | _ => false

/-- The completion word after an outcome: it counts a success, and keeps the first error (R309). -/
def completeWord (w code : Nat) : Nat :=
  if code = 0 then w / 2 ^ 48 * 2 ^ 48 + (w + 1) % 2 ^ 48
  else if bit w 63 then w
  else 2 ^ 63 + code % 2 ^ 15 * 2 ^ 48 + w % 2 ^ 48

/-- Whether a request can be served beside those already served in the cycle. The reads of FAB sources, and the keys of SPS, go one at a
time in their order (R300, R312). -/
def Core.oppFree (c : Core) (served : List OppReq) (r : OppReq) : Bool :=
  let (st, bk, row) := r.bank
  !(c.oppUsed.any fun u => u.1 == st && u.2.1 == bk) &&
  ((c.mode != .run && c.mode != .halted) || !(c.banks.any fun b => b.tcc == c.tcc && b.store == st && b.bank == bk)) &&
  !(served.any fun o => o.bank.1 == st && o.bank.2.1 == bk && (o.bank.2.2 != row || r.after.updates)) &&
  (!r.after.updates || !(c.opp.any fun o => o != r && (o.grp == r.grp || (o.rank == 3 && o.grp == r.grp + 1)))) &&
  (r.rank != 3 || r.grp % 2 == 0 || !(c.opp.any fun o => o.grp + 1 == r.grp)) &&
  (r.rank < 4 || (c.opp.find? fun o => o.rank == r.rank) == some r)

/-- The requests served in this cycle, in the order of R80's list. -/
def Core.oppServed (c : Core) : List OppReq :=
  (sortBy (fun (a b : OppReq) => a.rank ≤ b.rank) c.opp).foldl
    (fun served r => if c.oppFree served r then served ++ [r] else served) []

/-- The scratchpad with the writes already made in this cycle. -/
def Core.spSoon (c : Core) : Mem := c.engWrites.foldl (fun m w => if w.1 then m else wrBytes m w.2.1 w.2.2) c.sp

/-- The bytes an atomic returns: the old value, extended (R316). -/
def amoReply (a : Amo) (old : Nat) : List Byte := leBytes (extWord a.ext a.width old).toNat 8

/-- One request is served: its write performs at the end of the cycle, its read reaches its engine, the old value of a remote atomic the
island, which hears of it as unit 15. [DEDUCED, log 57] -/
def Core.serveOpp (c : Core) (r : OppReq) : Core :=
  let c1 := { c with opp := c.opp.erase r }
  let m := if r.acc then c.acc else c.sp
  let wr := fun (k : Core) (d : List Byte) => { k with engWrites := k.engWrites ++ [(r.acc, r.off, d)] }
  let tell := fun (k : Core) (u cmd i : Nat) (d : List Byte) => { k with eng := { k.eng with delivered := k.eng.delivered ++ [(u, cmd, i, d)] } }
  match r.after with
  | .none => wr c1 r.data
  | .raise off => wr c1 (leBytes (rdLE c.spSoon off 8 + 1) 8)
  | .complete off code => wr c1 (leBytes (completeWord (rdLE c.spSoon off 8) code) 8)
  | .atomic off a req =>
    let old := rdLE c.spSoon off a.width
    tell (wr c1 (leBytes (amoNew a old) a.width)) 15 req 0 (amoReply a old)
  | .engine u k i =>
    if r.data.isEmpty then tell c1 u k i (rdBytes m r.off r.len) else tell (wr c1 r.data) u k i []

/-- OPPORTUNISTIC_WRITE: the requests whose bank no scheduled requester holds, and no copy channel has used in the cycle, are served, one
row a bank (R80). -/
def execOpportunisticWrite (s : State) : Out := .next (s.onCore fun c => c.oppServed.foldl Core.serveOpp c).pushesServed

/-! ## Races (R114) -/

/-- RACE_EXCEPTION: the task stops at a boundary; the access stays pending (R114, R419). [DEDUCED, log 172] -/
def execRaceException (s : State) : Out :=
  match s.core.gacc.findSome? fun g => g.raced.map fun r => (g, r) with
  | none => .next s
  | some (g, cause, other) =>
    .next { (s.onCore fun c => c.beginStop
      { cause := some cause, reason := 0, slot := 0, done := 0, stallRem := 0, faddr := g.va / 64 * 64, finfo := other,
        resumable := true, after := false, org := g.org }) with agenda := [] }

end Sys2Proof.Machine
end

