-- ==== Sys2Proof/Machine/Island.lean ====
section
/-! DEFINITION. Fabric operations at the Flue island: sending, answers for this module, replies, completion, the Flue reset (R309 to R322, R438 to R445). -/

namespace Sys2Proof.Machine

/-! ## Where a task's core stands (R322, R439) -/

/-- Where a part of a stopped core's image stands (R418). -/
def imageOff (acc : Bool) : Nat := if acc then 0x800000 else 0x400000

/-- A write from outside to a live core, or to its image in a frame: bytes, and a change of a word that follows them. -/
def State.deposit (s : State) (i : Nat) (pl : Place) (rank grp : Nat) (acc : Bool) (off : Nat) (data : List Byte) (af : After) : State :=
  match pl with
  | .frame base =>
    let a := base + imageOff acc + off
    match af with
    | .raise o => let b := base + 0x400000 + o; { s with mem := wrLE s.mem b 8 (rdLE s.mem b 8 + 1) }
    | .complete o code => let b := base + 0x400000 + o; { s with mem := wrLE s.mem b 8 (completeWord (rdLE s.mem b 8) code) }
    | .atomic o op _ => let b := base + 0x400000 + o; { s with mem := wrLE s.mem b op.width (amoNew op (rdLE s.mem b op.width)) }
    | _ => { s with mem := wrBytes s.mem a data }
  | _ =>
    let c := s.coreAt i
    let reqs : List OppReq :=
      match af with
      | .raise o => [⟨rank, grp, false, o, 8, [], af⟩]
      | .complete o _ => [⟨rank, grp, false, o, 8, [], af⟩]
      | .atomic o op _ => [⟨rank, grp, false, o, op.width, [], af⟩]
      | _ => (piecesOf off data).map fun p => ⟨rank, grp, acc, p.1, 0, p.2, .none⟩
    s.setCore i { c with opp := c.opp ++ reqs }

/-- Bytes of a core's scratchpad, live or in its image. -/
def State.fetchSp (s : State) (c : Core) (pl : Place) (off len : Nat) : List Byte :=
  match pl with
  | .frame base => rdBytes s.mem (base + 0x400000 + off) len
  | _ => rdBytes c.sp off len

/-- The group number of an operation's own writes, of a request's data, and of its change of a word. -/
def opGrp (tag : Nat) : Nat := 2 ^ 60 + 2 * tag
def reqGrp (id : Nat) : Nat := 2 ^ 61 + 2 * id
def wordGrp (id : Nat) : Nat := 2 ^ 62 + 2 * id

/-! ## Sending (R308, R438) -/

/-- What the island finds against a target before it sends: UNREACHABLE or ENDPOINT_DOWN (R438, R317). [DEDUCED, log 104] -/
def Flue.refuse (f : Flue) (m : Nat) : Option Nat :=
  if !f.inGroup m || (f.entry m).unreach then some 5 else if (f.entry m).down then some 1 else none

/-- The group that a task has set up under a number (R317). -/
def Flue.group (f : Flue) (core : Nat) (launch : W64) (g : Nat) : Option FGroup :=
  f.groups.find? fun x => x.core == core && x.launch == launch && x.g == g

/-- A request of an operation to a target module. -/
def State.reqOf (s : State) (o : FOp) (t : Nat) (addr : Nat) (op : RemoteOp) : RemoteReq :=
  let f := s.mod.flue
  { srcMod := BitVec.ofNat 12 f.self, srcCore := BitVec.ofNat 10 o.core, srcInc := f.inc, tgtInc := (f.entry t).inc,
    srcAsid := BitVec.ofNat 13 (s.coreOf o.core o.launch).task.asid, addr := BitVec.ofNat 57 addr, tag := o.tag, cls := o.cmd.cls, op := op }

/-- A request leaves for its target; one for this module is answered here, and one whose first link has failed is dropped with UNREACHABLE
(R434). [DEDUCED, log 109] -/
def State.sendReq (s : State) (t : Nat) (r : RemoteReq) : State :=
  let f := s.mod.flue
  if t = f.self then (s.later [.inboundRemoteRequest r])
  else if (f.firstLink t).any fun n => !f.linkUp n then
    (s.onFlue fun f => f.bump 6 1).later [.remoteReply { tag := r.tag, srcMod := BitVec.ofNat 12 t, tgtInc := f.inc, code := 5, data := [] }]
  else s.onFlue fun f => f.send (.request t r)

/-- Change the record of the task that issued an operation, wherever it stands. -/
def State.onOwner (s : State) (o : FOp) (f : Core → Core) : State :=
  let c := s.coreAt o.core
  if c.mode ≠ .off ∧ c.task.launchId = o.launch then s.setCore o.core (f c)
  else { s with mod := { s.mod with images := s.mod.images.map fun x =>
      if x.idx = o.core ∧ x.core.task.launchId = o.launch then { x with core := f x.core } else x } }

/-- Whether a command is an fwrrel to a target. -/
def FabOp.releases (op : FabOp) (t : Nat) : Bool := match op with | .store true _ u _ _ => u == t | _ => false

/-- A store to a target that has been refused here, or dropped on its way, counts as arrived: the next fwrrel to the target no longer
counts it, or, when that has left, the target is told (R314). [DEDUCED, log 109] -/
def State.storeLost (s : State) (o : FOp) (t : Nat) : State :=
  let left := s.mod.flue.ops.any fun x => x.core == o.core && x.launch == o.launch && o.cmd.id < x.cmd.id && x.cmd.op.releases t
  if left then s.sendReq t (s.reqOf o t 0 (.dropped 0))
  else s.onOwner o fun c =>
    let f := c.eng.fab
    let g := match f.cmds.find? fun k => o.cmd.id < k.id && k.op.releases t with
      | some k => { f with cmds := f.cmds.map fun x => if x.id = k.id then { x with count := x.count - 1 } else x }
      | none => { f with rel := sset 0 f.rel t (sget 0 f.rel t - 1) }
    { c with eng := { c.eng with fab := g } }

/-- A key for a core and a target module. -/
def relKey (core t : Nat) : Nat := core * 4096 + t

/-- An fwrrel that does not reach its target leaves the stores it counted counted there: the core's next fwrrel to the target waits for them
too, or, when that has left, the target is told (R314). [DEDUCED, log 109] -/
def State.releaseLost (s : State) (o : FOp) (t n : Nat) : State :=
  let left := s.mod.flue.ops.any fun x => x.core == o.core && x.launch == o.launch && o.cmd.id < x.cmd.id && x.cmd.op.releases t
  if n = 0 then s
  else if left then s.sendReq t (s.reqOf o t 0 (.dropped n))
  else s.onFlue fun f => { f with lostRel := sset 0 f.lostRel (relKey o.core t) (sget 0 f.lostRel (relKey o.core t) + n) }

/-- What an fwrrel counts: its own count, and those of lost ones before it (R314). [DEDUCED, log 103] -/
def State.relCount (s : State) (core t n : Nat) : Nat := n + sget 0 s.mod.flue.lostRel (relKey core t)

/-- A store that does not reach its target (R314). [DEDUCED, log 109] -/
def State.uncount (s : State) (o : FOp) : State :=
  match o.cmd.op with
  | .store rel _ t _ _ =>
    if s.mod.flue.ord then s else if rel then s.releaseLost o t o.cmd.count else s.storeLost o t
  | _ => s

/-- An operation enters the island's list. -/
def State.addOp (s : State) (o : FOp) : State := s.onFlue fun f => { f with ops := f.ops ++ [o] }

/-- An operation to one module: refused, or sent (R438). -/
def State.sendOne (s : State) (o : FOp) (t addr : Nat) (op : RemoteOp) : State :=
  match s.mod.flue.refuse t with
  | some code => (s.uncount o).addOp { o with code := some code }
  | none => (s.addOp { o with owed := [t] }).sendReq t (s.reqOf o t addr op)

/-- An operation to the members of a group: absent ones are noted, the others are sent to (R318, R319, R439). -/
def State.sendGroup (s : State) (o : FOp) (gr : FGroup) (mk : Nat → Nat × RemoteOp) : State :=
  let f := s.mod.flue
  let here := gr.members.filter fun m => (f.refuse m.1).isNone
  let gone := (gr.members.filter fun m => (f.refuse m.1).isSome).map (·.1)
  let s1 := s.addOp { o with group := some gr, owed := here.map (·.1), absent := gone }
  here.foldl (fun st m => st.sendReq m.1 (s.reqOf o m.1 ((mk m.2).1 % 2 ^ 57) (mk m.2).2)) s1

/-- Arrivals of a barrier go to every member, this module included (R320). -/
def State.sendArrivals (s : State) (key seq : Nat) (members : List Nat) : State :=
  let f := s.mod.flue
  members.foldl (fun st m =>
    if m = f.self then (st.later [.fbarArrival (BitVec.ofNat 32 key) seq (BitVec.ofNat 12 m)])
    else if (f.refuse m).isSome then st
    else st.onFlue fun k => k.send (.arrival f.self m key seq)) s

/-- The arrivals that some group of this module may still count: those of a key for which a group's barrier of that sequence number has not
completed, or for which there is no group (R320). [DEDUCED, log 111] -/
def Flue.arrivalsLeft (f : Flue) : List (Nat × Nat × Nat) :=
  f.arrivals.filter fun a =>
    let mine := f.groups.filter fun g => g.key == a.1
    mine.isEmpty || mine.any fun g => g.done < a.2.1

/-- A group is set up, freed or refused (R317). -/
def State.setGroup (s : State) (o : FOp) (g : Nat) (clr : Bool) (key : Nat) (members : List (Nat × Nat)) : State :=
  let bad := members.any fun m => !s.mod.flue.inGroup m.1
  (s.onFlue fun f =>
    { f with groups := (f.groups.filter fun x => !(x.core == o.core && x.launch == o.launch && x.g == g)) ++
        (if clr then [] else [⟨o.core, o.launch, g, key, members, bad, 0⟩]) }).addOp { o with code := some (if bad then 10 else 0) }

/-- The island takes a command (R308, R313 to R320, R438, R444). [DEDUCED, log 104] -/
def State.islandTake (s : State) (core : Nat) (launch : W64) (c : FabCmd) : State :=
  let (tag, s1) := s.takeReq
  let o : FOp := { tag := tag, core := core, launch := launch, cmd := c, group := none, owed := [], absent := [], replies := [], code := none, writes := [] }
  if s.mod.flue.away then s1.addOp { o with code := some 4 }
  else
    let withGroup := fun (g : Nat) (k : FGroup → State) =>
      match s1.mod.flue.group core launch g with
      | some gr => if gr.bad then s1.addOp { o with code := some 10 } else k gr
      | none => s1.addOp { o with code := some 10 }
    match c.op with
    | .store rel rlx tmod _ flag =>
      let n := s1.relCount core tmod c.count
      let s2 := if rel && !s1.mod.flue.ord then s1.onFlue fun f => { f with lostRel := sset 0 f.lostRel (relKey core tmod) 0 } else s1
      s2.sendOne (if rel && !s1.mod.flue.ord then { o with cmd := { c with count := n } } else o) tmod c.a (.store c.data (BitVec.ofNat 57 flag)
        (if s1.mod.flue.ord then (if rel || !rlx then .order else .own false) else if rel then .count n else .own true))
    | .read tmod len => s1.sendOne o tmod c.a (.read (64 * len))
    | .atomic tmod aop cmp _ => s1.sendOne o tmod c.a (.atomic (BitVec.ofNat 4 aop) c.b cmp)
    | .group g clr key members => s1.setGroup o g clr key members
    | .reduce g op type n _ => withGroup g fun gr => s1.sendGroup o gr fun base => (base + c.a, .read (n * redIn op type))
    | .cast g _ foff rlx _ => withGroup g fun gr => s1.sendGroup o gr fun base =>
        (base + c.a, .store c.data (BitVec.ofNat 57 (base + foff)) (if s1.mod.flue.ord && !rlx then .order else .own false))
    | .barrier g _ => withGroup g fun gr => (s1.addOp { o with group := some gr }).sendArrivals gr.key c.count (gr.members.map (·.1))

/-- FAB_SEND: a started command asks for its next source unit, or, when its turn has come, its source is whole and its release
condition holds, reaches the island (R308, R312, R313). A release publishes the write log (R104, R111). [DEDUCED, log 101] -/
def execFabSend (cmd : Nat) (s : State) : Out :=
  let s0 := s.onEng Engines.absorbFab
  match s0.core.eng.fab.cmds.find? fun c => c.id == cmd && c.start ≤ s0.core.tcc with
  | none => .next s0
  | some c =>
    if c.asked < c.units then .next (s0.fabAsk c)
    else if (s0.core.fabQueue.head?.map fun x => x.id) ≠ some cmd ∨ !s0.fabReady c then .next s0
    else
      let s1 := if c.release then s0.publish else s0
      let s2 := s1.onEng fun e => { e with fab := { e.fab with cmds := e.fab.cmds.filter fun x => x.id != cmd } }
      .next (s2.islandTake s.focus s.core.task.launchId c)

/-! ## Answers for this module (R311, R438 to R440) -/

/-- A reply goes back; one for this module itself is delivered here. -/
def State.answer (s : State) (r : RemoteReq) (code : Nat) (data : List Byte) : State :=
  let f := s.mod.flue
  let res : RemoteRes := { tag := r.tag, srcMod := BitVec.ofNat 12 f.self, tgtInc := r.srcInc, code := code, data := data }
  let s1 := s.onFlue fun f => if code = 1 then f.bump 5 1 else if code = 5 then f.bump 6 1 else f
  if r.srcMod.toNat = f.self then (s1.later [.remoteReply res])
  else s1.onFlue fun f => f.send (.reply r.srcMod.toNat res)

/-- The core that a request comes from, as a key of the counts (R314). -/
def reqSource (r : RemoteReq) : Nat := r.srcMod.toNat * 1024 + r.srcCore.toNat

/-- A store of a core counts as arrived (R314). [DEDUCED, log 103] -/
def State.countStore (s : State) (r : RemoteReq) : State :=
  match r.op with
  | .store _ _ (.own true) => s.onFlue fun f => { f with counts := sset 0 f.counts (reqSource r) (sget 0 f.counts (reqSource r) + 1) }
  | .dropped n => s.onFlue fun f =>
    { f with counts := sset 0 f.counts (reqSource r) (sget 0 f.counts (reqSource r) + if n = 0 then 1 else -(n : Int)) }
  | _ => s

/-- An fwrrel is done with the stores that it counted (R314). [DEDUCED, log 103; DEDUCED, log 115] -/
def State.spendCount (s : State) (r : RemoteReq) : State :=
  match r.op with
  | .store _ _ (.count n) => s.onFlue fun f => { f with counts := sset 0 f.counts (reqSource r) (sget 0 f.counts (reqSource r) - n) }
  | _ => s

/-- A request is refused with a code; a refused store counts as arrived, and a refused fwrrel has used its count (R314). [DEDUCED, log 115] -/
def State.refuseReq (s : State) (r : RemoteReq) (code : Nat) : State := ((s.countStore r).spendCount r).answer r code []

/-- Whether a compute island is gated or waking (R461). -/
def State.gated (s : State) (core : Nat) : Bool :=
  let x := vget .reset s.mod.hub.isl (islandOf core)
  x.state == 2 || x.state == 3

/-- Where a remote address leads: a scratchpad place, physical pieces of global memory, a refusal, a granule that cannot be read, or a wait
(R311, R439, R440, R451). -/
inductive Target where
  | core (i off : Nat) (pl : Place) (c : Core)
  | memory (parts : List (Nat × Nat × Bool))
  | refused (code : Nat)
  | spoilt (pa : Nat)
  | wait (i : Nat)
deriving DecidableEq, Repr

/-- The physical pieces of a global range, one a granule: address, length, replicated. -/
def State.remotePages (s : State) (asid va len : Nat) (read write : Bool) : Except Nat (List (Nat × Nat × Bool)) :=
  ((List.range ((va + len - 1) / 64 - va / 64 + 1)).map fun k => max va ((va / 64 + k) * 64)).mapM fun a =>
    match s.walkPage asid a read write with
    | .error _ => .error 6
    | .ok l => .ok (l.phys a 0, min (va + len) (a / 64 * 64 + 64) - a, l.rpl)

/-- What the state of a range's groups refuses, and the replica that a read takes (R439). [DEDUCED, log 56; DEDUCED, log 108] -/
def State.groupAnswer (s : State) (write atomic : Bool) (parts : List (Nat × Nat × Bool)) : Target :=
  let up := (List.range 4).filter fun d => !s.dieReset d
  if parts.any fun p => !p.2.2 && s.dieReset (p.1 / groupSpan) then .refused 1
  else if (parts.any fun p => p.2.2) && (write || atomic) && up.length < 4 then .refused 1
  else if (parts.any fun p => p.2.2) && up.isEmpty then .refused 1
  else if (parts.any fun p => p.2.2) && atomic then .refused 8
  else
    let ps := if write then parts else parts.map fun p => if p.2.2 then (p.1 + groupSpan * up.headD 0, p.2.1, p.2.2) else p
    match ps.find? fun p => s.meetsPoison p.1 p.2.2 p.2.1 (write && !atomic) with
    | some p => .spoilt (p.1 / 64 * 64)
    | none => .memory ps

/-- A request that meets a granule which cannot be read is refused with REMOTE_RANGE, and the error is acted on (R451). [DEDUCED, log 143] -/
def State.settleTarget (s : State) (t : Target) : State × Target :=
  match t with
  | .spoilt pa => ((s.later [.uncorrectableError (errorAt 4 pa)]), .refused 7)
  | t => (s, t)

/-- The place of an address under a local ASID, which must be usable (R311, R410, R439). [DEDUCED, log 108] -/
def State.target (s : State) (lasid addr len : Nat) (write atomic : Bool) : Target :=
  if !bit (s.asidWord lasid 0) 63 then .refused 6
  else match regionOf addr with
  | .peer i off =>
    (match s.placeOf i fun t => t.asid == lasid with
      | some (pl, c) =>
        if !c.task.spOk off len then .refused 7
        else if write && !atomic && c.indexHit off len then .refused 9
        else if pl == .busy then .wait i
        else .core i off pl c
      | none => .refused (if (s.coreAt i).mode = .off && (s.gated i || s.dieReset (coreDie i)) then 1 else 7))
  | .global =>
    if peerBase < addr + len then .refused 7
    else
      match s.remotePages lasid addr len (!write || atomic) (write || atomic) with
      | .error code => .refused code
      | .ok parts => s.groupAnswer write atomic parts
  | _ => .refused 7

/-- A write from a remote agent: its bytes, and tags marked as published (R110, R311). -/
def State.remoteWrite (s : State) (parts : List (Nat × Nat × Bool)) (data : List Byte) : State :=
  (parts.foldl (fun (st : State × List Byte) p =>
    let s1 := (st.1.memWrite p.1 p.2.2 (st.2.take p.2.1)).setTag (if p.2.2 then p.1 % groupSpan else p.1) (markOf 0x3FE 0 true false)
    (s1, st.2.drop p.2.1)) (s, data)).1

/-- The bytes of pieces. -/
def State.remoteRead (s : State) (parts : List (Nat × Nat × Bool)) : List Byte := parts.flatMap fun p => rdBytes s.mem p.1 p.2.1

/-- A request that must wait for a save or restore: a store's data is held, up to 256 writes for the core, and any other request waits
(R440). [DEDUCED, log 113] -/
def State.holdReq (s : State) (r : RemoteReq) (i off : Nat) : State :=
  match r.op with
  | .store data _ _ =>
    if (s.mod.flue.held.filter fun h => h.core == i).length < 256 then
      let (id, s1) := s.takeReq
      (s1.onFlue fun f => { f with
        held := f.held ++ [⟨i, (s.coreAt i).task.launchId, off, data, reqGrp id⟩]
        flags := f.flags ++ [⟨id, r, some (i, (s.coreAt i).task.launchId), false⟩] }).countStore r
    else s.onFlue fun f => { f with waiting := f.waiting ++ [r] }
  | _ => s.onFlue fun f => { f with waiting := f.waiting ++ [r] }

/-- A store's data performs; its flag waits for its turn (R313, R314). -/
def State.remoteStore (s : State) (r : RemoteReq) (t : Target) (data : List Byte) : State :=
  let (id, s1) := s.takeReq
  let flag := fun (st : State) (core : Option (Nat × W64)) =>
    (st.onFlue fun f => { f with flags := f.flags ++ [⟨id, r, core, false⟩] }).countStore r
  match t with
  | .core i off pl c => flag (s1.deposit i pl 1 (reqGrp id) false off data .none) (some (i, c.task.launchId))
  | .memory parts => flag (s1.remoteWrite parts data) none
  | .refused code => s.refuseReq r code
  | .spoilt _ => s.refuseReq r 7
  | .wait i => s.holdReq r i (r.addr.toNat % 2 ^ 30)

/-- A read's bytes as they are when the reply is formed (R315, R318). -/
def State.serveRead (s : State) (r : RemoteReq) (t : Target) (len : Nat) : State :=
  match t with
  | .core _ off pl c => s.answer r 0 (s.fetchSp c pl off len)
  | .memory parts => s.answer r 0 (s.remoteRead parts)
  | .refused code => s.answer r code []
  | .spoilt _ => s.refuseReq r 7
  | .wait i => s.holdReq r i 0

/-- An atomic at its home: one step, never checked for races; in a scratchpad an opportunistic one, answered when its bank has served it
(R80, R316). [DEDUCED, log 57] -/
def State.serveAtomic (s : State) (r : RemoteReq) (t : Target) (a : Amo) : State :=
  match t with
  | .core _ off (.frame base) _ =>
    let p := base + 0x400000 + off
    let old := rdLE s.mem p a.width
    { s with mem := wrLE s.mem p a.width (amoNew a old) }.answer r 0 (amoReply a old)
  | .core i off pl c =>
    let (id, s1) := s.takeReq
    (s1.deposit i pl 1 (wordGrp id) false off [] (.atomic off a id)).onFlue fun f =>
      { f with flags := f.flags ++ [⟨id, r, some (i, c.task.launchId), true⟩] }
  | .memory parts =>
    let pa := (parts.headD (0, 0, false)).1
    let old := rdLE s.mem pa a.width
    (s.remoteWrite parts (leBytes (amoNew a old) a.width)).answer r 0 (amoReply a old)
  | .refused code => s.answer r code []
  | .spoilt _ => s.refuseReq r 7
  | .wait i => s.holdReq r i 0

/-- A request whose incarnations fit; its local ASID's entry is in effect from here (R410, R415, R438, R439). -/
def State.serve (s0 : State) (r : RemoteReq) : State :=
  let map := sget 0 s0.mod.flue.asidMap r.srcAsid.toNat
  if !map.getLsbD 63 then s0.refuseReq r 6
  else
    let lasid := (map.extractLsb' 0 13).toNat
    let s := s0.holdAsid lasid
    match r.op with
    | .store data _ _ =>
      let t := s.settleTarget (s.target lasid r.addr.toNat data.length true false)
      t.1.remoteStore r t.2 data
    | .read len =>
      let t := s.settleTarget (s.target lasid r.addr.toNat len false false)
      t.1.serveRead r t.2 len
    | .atomic aop d c =>
      let a := fabAmo aop.toNat d c
      let t := s.settleTarget (s.target lasid r.addr.toNat a.width true true)
      t.1.serveAtomic r t.2 a
    | .dropped _ => s.countStore r

/-- Whether a request writes. -/
def reqWrites (r : RemoteReq) : Bool := match r.op with | .read _ => false | .dropped _ => false | _ => true

/-- A request is served, or waits behind a write that waits, a write behind any and a read behind its own core's requests (R314, R440).
[DEDUCED, log 113] -/
def State.letIn (s : State) (r : RemoteReq) : State :=
  if s.mod.flue.waiting.any fun w => (reqWrites w && reqWrites r) || reqSource w == reqSource r then
    s.onFlue fun k => { k with waiting := k.waiting ++ [r] }
  else s.serve r

/-- INBOUND_REMOTE_REQUEST: dropped for a stale incarnation, refused while the endpoint is down, else answered by what it names
(R438, R439). In a Flue reset it never arrives (R445). -/
def execInboundRemoteRequest (r : RemoteReq) (s : State) : Out :=
  let f := s.mod.flue
  if f.away then .next s
  else
    let s1 := if r.srcMod.toNat = f.self then s else s.onFlue fun k => k.received (packetCritical (.request f.self r)) r.tag
    match r.op with
    | .dropped _ => .next (if r.tgtInc = f.inc ∧ f.up then s1.countStore r else s1)
    | _ =>
      if r.tgtInc ≠ f.inc then .next ((s1.onFlue fun k => k.bump 4 1).refuseReq r 2)
      else if !f.up then .next (s1.refuseReq r 1)
      else .next (s1.letIn r)

/-- Whether a core's state is being saved or restored (R440). [DEDUCED, log 113] -/
def State.saving (s : State) (i : Nat) : Bool :=
  let m := (s.coreAt i).mode
  m == .stopping || m == .restoring

/-- HELD_WRITES_APPLY: with the save or restore over, the writes held for the core are applied in arrival order, and the requests
that waited behind them go on (R440). [DEDUCED, log 113] -/
def execHeldWritesApply (core : BitVec 10) (s : State) : Out :=
  let i := core.toNat
  if s.saving i then .next s
  else
    let mine := s.mod.flue.held.filter fun h => h.core == i
    let s1 := s.onFlue fun f => { f with held := f.held.filter fun h => h.core != i }
    let s2 := mine.foldl (fun st h =>
      match st.placeOf i fun t => t.launchId == h.launch with
      | some (pl, _) => st.deposit i pl 1 h.grp false h.off h.data .none
      | none => st) s1
    .next (s2.mod.flue.waiting.foldl State.letIn (s2.onFlue fun f => { f with waiting := [] }))

/-! ## Flags (R313, R314) -/

/-- The count of earlier stores that a flag waits for (R314). -/
def HeldFlag.count (h : HeldFlag) : Option Nat :=
  match h.req.op with
  | .store _ _ (.count n) => some n
  | _ => none

/-- Whether a flag's data have performed: none of its writes is held or waits for its bank (R313). -/
def State.dataDone (s : State) (h : HeldFlag) : Bool :=
  !(s.mod.flue.held.any fun w => w.grp == reqGrp h.id) &&
  (h.core.elim true fun i => !((s.coreOf i.1 i.2).opp.any fun o => o.grp == reqGrp h.id))

/-- Whether a change of a scratchpad word has been served by its bank: nothing of it waits there (R80). -/
def State.wordDone (s : State) (h : HeldFlag) : Bool :=
  h.core.elim true fun i => !((s.coreOf i.1 i.2).opp.any fun o => o.grp == wordGrp h.id)

/-- Whether the stores that a flag waits for have performed: as many as an fwrrel counts, or in posted order every earlier one of
its core (R314). [DEDUCED, log 115] -/
def State.storesDone (s : State) (h : HeldFlag) : Bool :=
  let mine := s.mod.flue.flags.filter fun x => reqSource x.req == reqSource h.req
  match h.req.op with
  | .store _ _ (.count n) => decide ((n : Int) ≤ sget 0 s.mod.flue.counts (reqSource h.req)) && mine.all s.dataDone
  | .store _ _ .order => mine.all fun x => h.id ≤ x.id || s.dataDone x
  | _ => true

/-- Where a flag is raised. [DEDUCED, log 56] -/
def State.flagTarget (s : State) (h : HeldFlag) : Target :=
  match h.req.op with
  | .store _ flag _ => s.target ((sget 0 s.mod.flue.asidMap h.req.srcAsid.toNat).extractLsb' 0 13).toNat flag.toNat 8 true true
  | _ => .refused 7

/-- Whether a flag's turn has come, its data and counted stores having performed; or, for one that rises, whether it has (R313, R314).
[DEDUCED, log 115] -/
def State.flagReady (s : State) (h : HeldFlag) : Bool :=
  if h.rising then s.wordDone h
  else s.dataDone h && s.storesDone h && (match s.flagTarget h with | .wait _ => false | _ => true)

/-- Whether incarnation a is older than b: they run 1 to 255 and around, and b = 0 is none (R437). [DEDUCED, log 191] -/
def olderInc (a b : BitVec 8) : Bool := b != 0 && a != b && (b.toNat + 255 - a.toNat) % 255 < 128

/-- Whether the requester has rejoined since its request: an fwrrel of an older incarnation waits no longer (R438). -/
def State.flagStale (s : State) (h : HeldFlag) : Bool :=
  h.req.srcMod.toNat != s.mod.flue.self && h.count.isSome && olderInc h.req.srcInc (s.mod.flue.entry h.req.srcMod.toNat).inc

/-- A change of a scratchpad word that has been served is answered: for an atomic with its old value (R313, R316). [DEDUCED, log 57] -/
def State.answerWord (s : State) (h : HeldFlag) : State :=
  match h.req.op, h.core with
  | .atomic _ _ _, some (i, l) =>
    let mine := fun (d : Nat × Nat × Nat × List Byte) => d.1 == 15 && d.2.1 == h.id
    (match (s.coreOf i l).eng.delivered.find? mine with
      | some d =>
        let strip := fun (c : Core) => { c with eng := { c.eng with delivered := c.eng.delivered.filter fun x => !mine x } }
        let s1 := if (s.coreAt i).task.launchId = l then s.setCore i (strip (s.coreAt i)) else s
        s1.answer h.req 0 d.2.2.2
      | none => s.answer h.req 7 [])
  | _, _ => s.answer h.req 0 []

/-- REMOTE_FLAG_RAISE: the flag rises by 1 in one step, or is refused with the data performed; in a running core's scratchpad it rises when
its bank serves it, and is answered then (R80, R313). [DEDUCED, log 56; DEDUCED, log 57] -/
def execRemoteFlagRaise (id : Nat) (s : State) : Out :=
  match s.mod.flue.flags.find? fun h => h.id == id with
  | none => .next s
  | some h =>
    let s0 := s.onFlue fun f => { f with flags := f.flags.filter fun x => x.id != id }
    if s.flagStale h then .next ((s0.onFlue fun f => f.bump 4 1).answer h.req 2 [])
    else if !s.flagReady h then .next s
    else if h.rising then .next (s0.answerWord h)
    else
      let s1 := s0.spendCount h.req
      match s.flagTarget h with
      | .core i off (.frame base) _ => .next ((s1.deposit i (.frame base) 1 (wordGrp id) false off [] (.raise off)).answer h.req 0 [])
      | .core i off pl c =>
        let up : HeldFlag := { h with core := some (i, c.task.launchId), rising := true }
        .next ((s1.deposit i pl 1 (wordGrp id) false off [] (.raise off)).onFlue fun f => { f with flags := f.flags ++ [up] })
      | .memory parts =>
        let v := rdLE s.mem (parts.headD (0, 0, false)).1 8
        .next ((s1.remoteWrite parts (leBytes (v + 1) 8)).answer h.req 0 [])
      | .refused code => .next (s1.answer h.req code [])
      | .spoilt pa => .next ((s1.later [Instr.uncorrectableError (errorAt 4 pa)]).answer h.req 7 [])
      | .wait _ => .next s

/-! ## Replies and arrivals (R320, R438) -/

/-- A reply is noted for its operation. -/
def FOp.hear (o : FOp) (r : RemoteRes) : FOp :=
  if o.tag = r.tag ∧ o.owed.contains r.srcMod.toNat then
    { o with owed := o.owed.erase r.srcMod.toNat, replies := o.replies ++ [(r.srcMod.toNat, r.code, r.data)] }
  else o

/-- REMOTE_REPLY: a reply for an older incarnation, or one that comes in a compute reset, is dropped; any other is noted for its operation
(R438, R442). A store that was dropped on its way counts as arrived (R314). [DEDUCED, log 109] -/
def execRemoteReply (r : RemoteRes) (s0 : State) : Out :=
  let f := s0.mod.flue
  if f.away then .next s0
  else
    let s := if r.srcMod.toNat = f.self then s0 else s0.onFlue fun k => k.received true r.tag
    if r.tgtInc ≠ f.inc ∨ s.mod.hub.pending then .next (s.onFlue fun k => k.bump 4 1)
    else
    let s1 := s.onFlue fun k => { k with ops := k.ops.map fun o => o.hear r }
    .next (match f.ops.find? fun o => o.tag == r.tag && o.owed.contains r.srcMod.toNat with
      | some o => if r.code = 5 then s1.uncount o else s1
      | none => s1)

/-- FBAR_ARRIVAL: an arrival is noted (R320). [DEDUCED, log 111] -/
def execFbarArrival (key : W32) (seq : Nat) (m : BitVec 12) (s : State) : Out :=
  .next (s.onFlue fun f =>
    if f.away then f
    else
      let f1 := if m.toNat = f.self then f else f.received true seq
      { f1 with arrivals := f1.arrivals ++ [(key.toNat, seq, m.toNat)] })

/-! ## Completion (R309, R318 to R320) -/

/-- Codes that make a multicast member absent (R439). -/
def absentCode (c : Nat) : Bool := c == 1 || c == 2 || c == 5

/-- The members of an operation's group that are absent. -/
def FOp.gone (o : FOp) : List Nat := o.absent ++ (o.replies.filter fun r => absentCode r.2.1).map (·.1)

/-- Bit r for each absent rank r. -/
def rankBits (members : List (Nat × Nat)) (gone : List Nat) : Nat :=
  ((members.zipIdx).map fun (m, r) => if gone.contains m.1 then 2 ^ r else 0).sum

/-- How a barrier stands: GROUP_BAD, success, absent members, or none of these yet (R320). [DEDUCED, log 111] -/
def State.barrierOutcome (s : State) (gr : FGroup) (seq : Nat) : Option (Nat × Nat) :=
  let f := s.mod.flue
  let ms := gr.members.map (·.1)
  let came := f.arrivals.filter fun a => a.1 == gr.key && a.2.1 == seq
  if f.arrivals.any fun a => a.1 == gr.key && !ms.contains a.2.2 then some (10, 0)
  else if ms.all fun m => came.any fun a => a.2.2 == m then some (0, 0)
  else
    let gone := ms.filter fun m => !(came.any fun a => a.2.2 == m) && (f.refuse m).isSome
    if gone.isEmpty then none else some (3, rankBits gr.members gone)

/-- The outcome of an operation, once it is known: its code, and the bitmap of its STATUS (R309, R318 to R320). [DEDUCED, log 112] -/
def State.opOutcome (s : State) (o : FOp) : Option (Nat × Nat) :=
  let fan : Option (Nat × Nat) :=
    if !o.owed.isEmpty then none
    else if !o.gone.isEmpty then some (3, rankBits (o.group.elim [] FGroup.members) o.gone)
    else some (((o.replies.map fun r => r.2.1).find? fun c => c != 0).getD 0, 0)
  match o.cmd.op with
  | .reduce _ _ _ _ _ => fan
  | .cast _ _ _ _ _ => fan
  | .barrier _ _ => (match o.group with | some gr => s.barrierOutcome gr o.cmd.count | none => some (10, 0))
  | _ => if o.owed.isEmpty then some ((o.replies.headD (0, 0, [])).2.1, 0) else none

/-- One level of the tree: neighbours combined, an odd last one passed on (R72). -/
def pairUp (f : Nat → Nat → Nat) : List Nat → List Nat
  | a :: b :: r => f a b :: pairUp f r
  | l => l

/-- The tree over present members (R72). -/
def treeOf (f : Nat → Nat → Nat) : Nat → List Nat → Nat
  | 0, l => l.headD 0
  | fuel + 1, l => if l.length ≤ 1 then l.headD 0 else treeOf f fuel (pairUp f l)

/-- A NaN is the canonical one (R72). -/
def canonNan (x : Nat) : Nat := if (fp32.decode x).isNan then fp32.nan else x

/-- The combination of a reduction (R68, R72). -/
def redStep (op type : Nat) (a b : Nat) : Nat :=
  let w := if type = 8 then 16 else 32
  match op with
  | 0 => if type = 8 then satAdd 16 a b else if type = 9 then (a + b) % 2 ^ 32 else atomAdd a b
  | 1 => if type = 0 then atomPick false a b else if sInt w b < sInt w a then b else a
  | 2 => if type = 0 then atomPick true a b else if sInt w a < sInt w b then b else a
  | 3 => (BitVec.ofNat w a ||| BitVec.ofNat w b).toNat
  | 4 => (BitVec.ofNat w a &&& BitVec.ofNat w b).toNat
  | _ =>
    let va := sInt 32 a
    let vb := sInt 32 b
    if va = vb then (if b / 2 ^ 32 < a / 2 ^ 32 then b else a)
    else if (op = 5) = (va < vb) then b else a

/-- A leaf of the tree: BF16 widened to FP32, a NaN made canonical (R72). -/
def redLeaf (op type x : Nat) : Nat :=
  if op = 0 ∧ type = 1 then canonNan (x * 65536) else if op ≤ 2 ∧ type = 0 then canonNan x else x

/-- The bytes of a reduction's result (R318). -/
def FOp.reduced (o : FOp) (op type n : Nat) : List Byte :=
  let inputs := (sortBy (fun (a b : Nat × Nat × List Byte) => a.1 ≤ b.1) o.replies).map fun r => wordsOf (redIn op type) r.2.2 n
  (List.range n).flatMap fun k =>
    leBytes (treeOf (redStep op type) inputs.length (inputs.map fun l => redLeaf op type (l.getD k 0))) (redOut op type)

/-- The local writes of an operation that has an outcome, as scratchpad writes, but for those of an frd (R315 to R320). [DEDUCED, log 112] -/
def FOp.fields (o : FOp) (code bits : Nat) : List (Nat × List Byte) :=
  match o.cmd.op with
  | .atomic _ _ _ (some res) => if code = 0 then [(res, (o.replies.headD (0, 0, [])).2.2)] else []
  | .reduce _ op type n st => (st, leBytes bits 8) :: (if code = 0 then [(o.cmd.b.toNat, o.reduced op type n)] else [])
  | .cast _ _ _ _ st => [(st, leBytes bits 8)]
  | .barrier _ st => if code = 3 then [(st, leBytes bits 8)] else []
  | _ => []

/-- Where the task that issued an operation stands. -/
def State.ownerOf (s : State) (o : FOp) : Option (Place × Core) := s.placeOf o.core fun t => t.launchId == o.launch

/-- A unit of an frd is written for a task whose state is in a frame: checked and marked as the task's engine write (R113, R315). -/
def State.writeFor (s : State) (o : FOp) (va pa : Nat) (rpl : Bool) (data : List Byte) : State :=
  let tagPa := if rpl then pa % groupSpan else pa
  let gen := (s.mod.gens.lookup (s.coreOf o.core o.launch).task.slot).elim 0 BitVec.toNat
  let mark := markOf o.core gen false false
  let region := tagPa / 65536
  let log := (s.coreOf o.core o.launch).writeLog
  let full := !log.contains region && 2048 ≤ log.length
  let t := (raceCheck (s.tag tagPa) o.core gen true).toOption.getD mark
  let s1 := (s.memWrite pa rpl data).setTag tagPa (if full then t ||| 2 else t)
  s1.onOwner o fun c =>
    let c1 := if full then { c with raceStat := bumpField c.raceStat 0 }
      else if log.contains region then c else { c with writeLog := log ++ [region] }
    match raceCheck (s.tag tagPa) o.core gen true with
    | .error cause => c1.engineRace cause (tagCore (s.tag tagPa)) 13 va
    | .ok _ => c1

/-- The places of a FAB command's global writes for which p holds are given up: their data have come, or will not (R98, R315). -/
def Core.dropPlaces (c : Core) (gid : Nat) (p : GAccess → Bool) : Core :=
  { c with gacc := c.gacc.filter fun g => !(g.place == gid && g.org.unit == 13 && g.act == .later && p g) }

/-- The units of an frd arrive: locally through the banks, or in global memory as the core's own stores (R315). -/
def State.readArrives (s : State) (o : FOp) (pl : Place) (data : List Byte) : State × List Nat :=
  let a := o.cmd.b.toNat
  match regionOf a with
  | .sp off => (s.deposit o.core pl 3 (opGrp o.tag) false off data .none, [])
  | .acc off => (s.deposit o.core pl 3 (opGrp o.tag) true off data .none, [])
  | _ =>
    let units := (piecesOf a data).filterMap fun p =>
      (o.cmd.leaves.find? fun l => l.va ≤ p.1 && p.1 < l.va + l.size).map fun l => (p.1, l.phys p.1 0, l.rpl, p.2)
    match pl with
    | .live =>
      units.foldl (fun (st : State × List Nat) u =>
        let c := (st.1.coreAt o.core).dropPlaces o.cmd.gid fun g => g.va == u.1
        let (k, s1) := st.1.takeReq
        let g : GAccess := ⟨c.gid, o.cmd.gid, o.cmd.cls, u.1, u.2.1, u.2.2.1, .write u.2.2.2, s.wall + 1 + Config.outsideDelay k, o.cmd.org, true, false, none⟩
        (s1.setCore o.core { c with gid := c.gid + 1, gacc := c.gacc ++ [g] }, st.2 ++ [c.gid])) (s, [])
    | _ => (units.foldl (fun st u => st.writeFor o u.1 u.2.1 u.2.2.1 u.2.2.2) s, [])

/-- An outcome is taken: the operation's own writes are made, STATUS ahead of a result, and both ahead of its completion word (R309, R318). -/
def State.opSettle (s : State) (o : FOp) (code bits : Nat) (pl : Place) : State :=
  let s1 := (o.fields code bits).zipIdx.foldl (fun st w => st.deposit o.core pl 3 (opGrp o.tag + w.2) false w.1.1 w.1.2 .none) s
  let (s2, ids) :=
    match o.cmd.op with
    | .read _ _ => if code = 0 then s1.readArrives o pl (o.replies.headD (0, 0, [])).2.2 else (s1, [])
    | _ => (s1, [])
  (s2.onFlue fun f => { f with
    ops := f.ops.map fun x => if x.tag = o.tag then { x with code := some code, writes := ids } else x
    groups := match o.cmd.op with
      | .barrier g _ => f.groups.map fun x =>
        if x.core == o.core && x.launch == o.launch && x.g == g && (o.group.any fun gr => gr.key == x.key) then { x with done := o.cmd.count } else x
      | _ => f.groups
    counters := match o.cmd.op with
      | .reduce _ _ _ _ _ => if code = 0 then (f.bump 7 1).counters else f.counters
      | _ => f.counters }).onFlue fun f => { f with
    arrivals := match o.cmd.op, o.group with
      | .barrier _ _, some gr => f.arrivalsLeft.filter fun a => !(a.1 == gr.key && !((gr.members.map (·.1)).contains a.2.2))
      | _, _ => f.arrivals }

/-- The completion word changes, once, and the command's pages are released (R308, R309). -/
def State.opFinish (s : State) (o : FOp) (code : Nat) (pl : Place) : State :=
  let s1 := s.onFlue fun f => { f with ops := f.ops.filter fun x => x.tag != o.tag }
  (s1.deposit o.core pl 3 (opGrp o.tag) false o.cmd.cw [] (.complete o.cmd.cw code)).onOwner o fun c =>
    { c.dropPlaces o.cmd.gid fun _ => true with eng := c.eng.unpin o.cmd.id }

/-- Word t of fstat (R321). -/
def State.fstatWord (s : State) (t : Nat) : W64 :=
  let f := s.mod.flue
  if f.away then 0
  else
    match t with
    | 0 => BitVec.ofNat 64 (f.self + fld f.coords.toNat 35 12 * 2 ^ 12)
    | 1 => BitVec.ofNat 64 (2 ^ 63 + b2n f.ord * 2 ^ 62 + ((List.range 6).map fun n => if f.linkUp n then 2 ^ (8 + n) else 0).sum + f.inc.toNat)
    | _ => BitVec.ofNat 64 (s.core.eng.fab.cmds.length)

/-- FAB_COMPLETE: an operation whose outcome is known makes its own writes, then changes its completion word; an fstat's reply reaches
its core (R309, R321). An operation whose task is gone ends without a trace. -/
def execFabComplete (cmd : Nat) (s : State) : Out :=
  match s.core.eng.fab.stats.find? fun x => x.2.2.1 == cmd && x.2.2.2 ≤ s.wall with
  | some (seq, sel, _, _) =>
    .next (s.onCore fun c =>
      { c with eng := { c.eng with fab := { c.eng.fab with stats := c.eng.fab.stats.filter fun x => x.2.2.1 != cmd } } }.deliver seq (s.fstatWord sel))
  | none =>
    match s.mod.flue.ops.find? fun o => o.tag == cmd with
    | none => .next s
    | some o =>
      match s.ownerOf o with
      | none => .next (s.onFlue fun f => { f with ops := f.ops.filter fun x => x.tag != cmd })
      | some (pl0, c) =>
        let pl := ownPlace pl0 c
        match o.code with
        | some code => .next (if c.gacc.any fun g => o.writes.contains g.id then s else s.opFinish o code pl)
        | none =>
          match s.opOutcome o with
          | some (code, bits) => .next ((s.opSettle o code bits pl).later [.fabComplete cmd])
          | none => .next s

/-! ## The steps of the island that are due -/

/-- Replies of fstat that have come to the core in focus. -/
def State.statEvents (s : State) : List Instr :=
  (s.core.eng.fab.stats.filter fun x => x.2.2.2 ≤ s.wall).map fun x => .fabComplete x.2.2.1

/-- Operations with an outcome, flags that may rise, and writes that were held (R309, R313, R440). -/
def State.islandEvents (s : State) : List Instr :=
  let f := s.mod.flue
  ((f.ops.filter fun o => o.code.isSome || (s.opOutcome o).isSome).map fun o => Instr.fabComplete o.tag) ++
  ((f.flags.filter fun h => s.flagReady h || s.flagStale h).map fun h => .remoteFlagRaise h.id) ++
  (((f.held.map HeldWrite.core) ++ (f.waiting.map fun (r : RemoteReq) => (r.addr.toNat - peerBase) / 2 ^ 30)).dedup.filter fun i => !s.saving i).map
    fun i => .heldWritesApply (BitVec.ofNat 10 i)

/-! ## The Flue reset (R444) -/

/-- The commands of every task that have not left their cores become operations that end with ISLAND_DOWN (R444). -/
def State.failPending (s : State) : State :=
  let live := (s.focus :: s.others.map (·.1)).map fun i => (i, s.coreAt i)
  let all := live ++ s.mod.images.map fun x => (x.idx, x.core)
  let strip := fun (c : Core) => { c with eng := { c.eng with fab := { c.eng.fab with cmds := [] } } }
  let s1 := all.foldl (fun st (i, c) => c.eng.fab.cmds.foldl (fun st' k => st'.islandTake i c.task.launchId k) st)
    (s.onFlue fun f => { f with state := 0 })
  { s1 with
    core := strip s1.core
    others := s1.others.map fun e => (e.1, strip e.2)
    mod := { s1.mod with images := s1.mod.images.map fun x => { x with core := strip x.core } } }

/-- FLUE_RESET. It begins: every FAB operation ends with ISLAND_DOWN, links go down, the island's tables clear; identity, key, ORD, ASIDMAP
and LONG come back from the hub's copy. It ends: the group forms as at GO (R444). After a cold reset the island comes to CONFIG (R432).
[DEDUCED, log 69; DESIGN CHOICE, log 114] -/
def execFlueReset (s : State) : Out :=
  if s.mod.flue.state = 0 then
    .next (if s.mod.flue.resetting then s.goForm else s.onFlue fun f => { f with state := 1 })
  else
    let s1 := s.failPending.logReset 5 0
    .next (s1.onFlue fun f =>
      { f with
        state := 0, err := 0, resetting := true, links := Vector.replicate 6 .down, counters := Vector.replicate 8 0
        endpts := (f.endpts.map fun e => (e.1, { Endpt.never with long := e.2.long })).filter fun e => e.2 != Endpt.never
        lostRel := [], groups := [], counts := [], flags := [], held := [], waiting := [], arrivals := [], far := [], outbox := []
        ops := f.ops.map fun o => { o with code := some (o.code.getD 4) } })

end Sys2Proof.Machine
end

