-- ==== Sys2Proof/Machine/TileRef.lean ====
section
/-! DEFINITION. Tiles of a tile instruction: their places in the operands, the checks of handles, formats, ranges and pages, the bytes that a
tile reads and writes (R370, R371, R379, R385). -/

namespace Sys2Proof.Machine

/-! ## Operands -/

/-- An operand in use: the words of its handle and of its side block, and whether it is stored transposed (R367, R371). -/
structure Opnd where
  h : Handle
  side : List Nat
  t : Bool
deriving DecidableEq, Repr

/-- A word of the side block (R371). -/
def Opnd.aux (o : Opnd) (k : Nat) : Nat := o.side.getD k 0

/-- The operand that stored words stand for. -/
def opndOf (ws : List Nat) (t : Bool) : Opnd := ⟨⟨ws.take 4⟩, (ws.drop 4).take 8, t⟩

/-- The address of an element by its stored row and column (R370). -/
def Handle.elemAt (h : Handle) (r c : Nat) : Nat :=
  let el := typeBytes h.type
  if h.layout = 0 then h.base + r * h.stride + c * el else h.base + c * h.stride + r * el

/-- The address of a logical element (R370, R373). -/
def Opnd.elemAt (o : Opnd) (r c : Nat) : Nat := if o.t then o.h.elemAt c r else o.h.elemAt r c

/-- The lines of memory that hold a logical block: address and length, in stored order. -/
def Opnd.lines (o : Opnd) (r0 c0 nr nc : Nat) : List (Nat × Nat) :=
  let el := typeBytes o.h.type
  let (r, c, n, m) := if o.t then (c0, r0, nc, nr) else (r0, c0, nr, nc)
  if n = 0 ∨ m = 0 then []
  else if o.h.layout = 0 then (List.range n).map fun i => (o.h.elemAt (r + i) c, m * el)
  else (List.range m).map fun j => (o.h.elemAt r (c + j), n * el)

/-- A range of bytes cut at 64-byte units. -/
def unitsOf (a len : Nat) : List (Nat × Nat) :=
  if len = 0 then []
  else (List.range ((a + len - 1) / 64 - a / 64 + 1)).map fun k =>
    let lo := max a ((a / 64 + k) * 64)
    (lo, min (a + len) ((a / 64 + k + 1) * 64) - lo)

/-! ## Tiles (R379) -/

/-- Side of a tile: 64, or 32 at L0. -/
def tileSide (w : List Nat) : Nat := if tileLevel w = 0 then 32 else 64

/-- Whether an operation divides by problem or field rather than by tiles of C. -/
def byProblem (opc : Nat) : Bool := opc == 7 || opc == 8 || opc == 9

/-- How many tiles, problems or fields there are. -/
def tileCount (w : List Nat) : Nat :=
  let d := tileSide w
  if 12 ≤ tileOpc w then 0
  else if byProblem (tileOpc w) then tileK w
  else ((tileM w + d - 1) / d) * ((tileN w + d - 1) / d)

/-- The rectangle of C that a tile covers: first row, first column, rows, columns. -/
def tileBox (w : List Nat) (t : Nat) : Nat × Nat × Nat × Nat :=
  let d := tileSide w
  let q := (tileN w + d - 1) / d
  let r0 := t / q * d
  let c0 := t % q * d
  (r0, c0, min d (tileM w - r0), min d (tileN w - c0))

/-- Steps of a chunk of K (R384). -/
def tileKc (w : List Nat) : Nat := min (tileLen w) (1024 / max 1 (max (typeBytes (tileAt w)) (typeBytes (tileBt w))))

/-- Number of chunks of K. -/
def tileChunks (w : List Nat) : Nat := if tileOpc w ≤ 2 then (tileLen w + tileKc w - 1) / max 1 (tileKc w) else if tileOpc w = 11 then 2 else 1

/-- The extent of an operand as the operation takes it, in logical rows and columns (R372, R374). [DEDUCED, log 123] -/
def tileExtent (w : List Nat) (o : Nat) (a : Handle) : Nat × Nat :=
  let m := tileM w
  let n := tileN w
  let k := tileK w
  match tileOpc w, o with
  | 5, 0 => (k * m, n)
  | 6, 0 => (a.rows, a.cols)
  | 7, 0 => (k, m)
  | 7, 1 => (k, n)
  | 7, _ => (k, m + n)
  | 8, 0 => if tileSel w = 1 then (k * n, m) else (k * m, m)
  | 8, 1 => (k * m, n)
  | 8, _ => (k * m, if 2 ≤ tileSel w then n else m)
  | 9, 0 => (1, 2048 / max 1 (typeBytes a.type))
  | 9, 1 => (k, 2048 / max 1 (typeBytes a.type))
  | 9, _ => (k, 3072 / max 1 (typeBytes a.type))
  | 11, 0 => (0, n)
  | 11, 1 => (1, m)
  | 0, 0 => (m, k)
  | 1, 0 => (m, k)
  | 2, 0 => (m, k)
  | 0, 1 => (k, n)
  | 1, 1 => (k, n)
  | 2, 1 => (k, n)
  | _, _ => (m, n)

/-- The block of an operand that a tile uses: first row, first column, rows, columns. -/
def tileBlock (w : List Nat) (t o : Nat) (a : Handle) : Nat × Nat × Nat × Nat :=
  let (r0, c0, nr, nc) := tileBox w t
  let (er, ec) := tileExtent w o a
  match tileOpc w, o with
  | 5, 0 => (r0, c0, (tileK w - 1) * tileM w + nr, nc)
  | 6, 0 => if a.rows = 1 then (0, c0, 1, nc) else (r0, 0, nr, 1)
  | 7, _ => (t, 0, 1, ec)
  | 8, _ => (t * (er / tileK w), 0, er / tileK w, ec)
  | 9, 0 => (0, 0, 1, ec)
  | 9, _ => (t, 0, 1, ec)
  | 11, 0 => (0, c0, 0, nc)
  | 11, 1 => (0, r0, 1, nr)
  | 0, 0 => (r0, 0, nr, tileK w)
  | 1, 0 => (r0, 0, nr, tileK w)
  | 2, 0 => (r0, 0, nr, tileK w)
  | 0, 1 => (0, c0, tileK w, nc)
  | 1, 1 => (0, c0, tileK w, nc)
  | 2, 1 => (0, c0, tileK w, nc)
  | _, _ => (r0, c0, nr, nc)

/-- The blocks of an operand whose elements a tile uses, all known before its first command: of the terms of treduce one each; tgather's
rows of A are known from its indices (R374). -/
def tileBlocks (w : List Nat) (t o : Nat) (a : Handle) : List (Nat × Nat × Nat × Nat) :=
  let (r0, c0, nr, nc) := tileBlock w t o a
  match tileOpc w, o with
  | 5, 0 => (List.range (tileK w)).map fun k => (k * tileM w + r0, c0, (tileBox w t).2.2.1, nc)
  | 11, 0 => []
  | _, _ => [(r0, c0, nr, nc)]

/-! ## What a tile finds wrong (R370, R371, R385, R386) -/

/-- What a check found: code, element, address. -/
abbrev TileBad := Nat × (Nat × Nat) × Nat

/-- A page reached without a fault, in the executing core's ASID. -/
def State.tilePage (s : State) (write : Bool) (va : Nat) : Except TileBad Leaf :=
  match regionOf va with
  | .global =>
    (match s.walkPage s.core.task.asid va (!write) write with
      | .ok l => .ok l
      | .error _ => .error (4, (0, 0), va))
  | .sp off => if s.core.task.spOk off 1 then .ok ⟨0, va, 1, 0, true, true, false⟩ else .error (4, (0, 0), va)
  | .acc off => if s.core.task.accOk off 1 then .ok ⟨0, va, 1, 0, true, true, false⟩ else .error (4, (0, 0), va)
  | _ => .error (4, (0, 0), va)

/-- Bytes read at once by the sequencer: handles, side blocks, bitmaps. [DEDUCED, log 119] -/
def State.tilePeek (s : State) (va n : Nat) : Except TileBad (List Byte) :=
  (unitsOf va n).foldlM (fun acc u => do
    let l ← s.tilePage false u.1
    return acc ++ (match regionOf u.1 with
      | .sp off => rdBytes s.core.sp off u.2
      | .acc off => rdBytes s.core.acc off u.2
      | _ => rdBytes s.mem (l.phys u.1 (coreDie s.focus)) u.2)) []

/-- Whether an operand goes with block scales: A and B of a product, and what the element unit converts from or to, under BSC and for a
type of R54 (R371, R465). [DEDUCED, log 122] -/
def blockScaled (w : List Nat) (o type : Nat) : Bool :=
  fmtBSC (tileFmt w) && 3 ≤ type && type ≤ 7 && (if tileOpc w ≤ 2 then o ≤ 1 else [3, 6, 10].contains (tileOpc w))

/-- Words of the side block that an operand needs (R371). [DEDUCED, log 122] -/
def sideNeeds (w : List Nat) (o : Nat) (h : Handle) : List Nat :=
  (if blockScaled w o h.type then [0] else []) ++
  (if h.spf = 4 then [1, 2, 3] else if h.spf != 0 then [4] else []) ++
  (if h.spf != 0 then [5] else []) ++
  (if tileOpc w = 8 && tileSel w = 1 && o = 0 then [6] else []) ++
  (if tileOpc w = 7 && o = 0 then [7] else [])

/-- Whether A's layout suits a product: a one-byte A of a one-product type is column-major (R384). -/
def aLayoutOk (w : List Nat) (h : Handle) : Bool := typeBytes h.type != 1 || fourLane (tileFmt w) (tileSr w) || h.layout == 1

/-- The layouts and sparse forms that an operation takes (R372, R375, R384). -/
def formatOk (w : List Nat) (o : Nat) (h : Handle) : Bool :=
  let sparse := fun (l : List Nat) => l.contains h.spf
  let sel := tileSel w
  h.type == tileType w o &&
  (match tileOpc w, o with
    | 1, 0 => sparse [1, 2, 3, 4]
    | 2, 0 => sparse [4]
    | 2, 1 => sparse [1, 2, 3]
    | _, _ => h.spf == 0) &&
  (match tileOpc w, o with
    | 0, 0 => aLayoutOk w h
    | 1, 0 => aLayoutOk w h
    | 2, 0 => aLayoutOk w h
    | 6, 0 => h.rows == 1 || h.cols == 1
    | 10, 0 => if sel = 0 then (1 ≤ h.type && h.type ≤ 8) || h.type == 10 else if sel = 10 then h.type == 9 else if sel = 11 then h.type == 8 else h.type == 0
    | 10, 1 => if sel = 10 then h.type == 9 else if sel = 11 then h.type == 8 else h.type == 0
    | 11, 1 => h.type == 9
    | 7, _ => h.type == 8
    | 8, _ => h.type == 0
    | _, _ => true)

/-- The first element of a block that lies beyond an operand, by stored row and column (R385, R386). [DEDUCED, log 123] -/
def beyond (h : Handle) (r0 c0 nr nc : Nat) : Option (Nat × Nat) :=
  if nr = 0 ∨ nc = 0 then none
  else if h.rows ≤ r0 then some (r0, c0)
  else if h.cols < c0 + nc then some (r0, max c0 h.cols)
  else if h.rows < r0 + nr then some (h.rows, c0)
  else none

/-- A handle and its side block, checked for validity and form (R370, R371). [DEDUCED, log 121; DEDUCED, log 122] -/
def State.tileOpnd (s : State) (w : List Nat) (o : Nat) : Except TileBad Opnd := do
  let tb := s.core.thbase.toNat
  let t := if o = 0 then tileTa w else if o = 1 then tileTb w else false
  if 2 ^ fld tb 4 0 ≤ tileHandle w o then .error (1, (0, 0), 0) else
  let hb ← s.tilePeek (fld tb 56 12 * 4096 + 32 * tileHandle w o) 32
  let h : Handle := ⟨wordsOf 8 hb 4⟩
  if !h.ok then .error (1, (0, 0), 0)
  else if !formatOk w o h then .error (2, (0, 0), 0)
  else
    let needs := sideNeeds w o h
    if h.aux = 0 then
      if needs.isEmpty then .ok ⟨h, [], t⟩ else .error (2, (0, 0), 0)
    else do
      let sb ← s.tilePeek h.aux 64
      let side := wordsOf 8 sb 8
      if (List.range 8).any fun k => side.getD k 0 != 0 && !needs.contains k then .error (2, (0, 0), 0)
      else if needs.contains 0 && side.getD 0 0 == 0 then .error (2, (0, 0), 0)
      else .ok ⟨h, side, t⟩

/-- The element of an operand's block at which an address lies, by stored row and column. -/
def Handle.whereIs (h : Handle) (va : Nat) : Nat × Nat :=
  let o := va - h.base
  let el := max 1 (typeBytes h.type)
  if h.stride = 0 then (0, o / el)
  else if h.layout = 0 then (o / h.stride, o % h.stride / el) else (o % h.stride / el, o / h.stride)

/-- The first element of a block beyond the operand, by stored row and column. [DEDUCED, log 123] -/
def Opnd.beyond (o : Opnd) (b : Nat × Nat × Nat × Nat) : Option (Nat × Nat) :=
  let (r0, c0, nr, nc) := b
  if o.t then Sys2Proof.Machine.beyond o.h c0 r0 nc nr else Sys2Proof.Machine.beyond o.h r0 c0 nr nc

/-- What stands at the pages of some lines that cannot be reached: of every line its first byte and the first of each page. -/
def State.pageFaults (s : State) (write : Bool) (ls : List (Nat × Nat)) : List TileBad :=
  (ls.flatMap fun l => (unitsOf l.1 l.2).filter fun u => u.1 == l.1 || u.1 % 65536 == 0).filterMap fun u =>
    match s.tilePage write u.1 with
    | .ok _ => none
    | .error e => some e

/-- The fault of the least element, row by row (R386). [DEDUCED, log 121] -/
def leastBad (h : Handle) (l : List TileBad) : Option TileBad :=
  ((l.map fun e => (e.1, h.whereIs e.2.2, e.2.2)).foldl (fun (b : Option TileBad) e =>
    match b with
    | none => some e
    | some m => if e.2.1.1 < m.2.1.1 || (e.2.1.1 == m.2.1.1 && e.2.1.2 < m.2.1.2) then some e else some m) none)

/-- The ranges and the pages of an operand's blocks (R385, R386). [DEDUCED, log 121] -/
def State.blocksOk (s : State) (o : Opnd) (write both : Bool) (bs : List (Nat × Nat × Nat × Nat)) : Except TileBad Unit :=
  match bs.findSome? o.beyond with
  | some e => .error (3, e, o.h.elemAt e.1 e.2)
  | none =>
    if o.h.spf != 0 then .ok ()
    else
      let ls := bs.flatMap fun b => o.lines b.1 b.2.1 b.2.2.1 b.2.2.2
      match leastBad o.h (s.pageFaults write ls ++ (if both then s.pageFaults (!write) ls else [])) with
      | some e => .error e
      | none => .ok ()

/-- Whether a tile uses an operand: FACTOR and ASSEMBLE read no B (R374). -/
def tileTakes (w : List Nat) (o : Nat) : Bool := tileUses w o && !(tileOpc w == 8 && o == 1 && tileSel w < 2)

/-- Every operand of a tile, or the first fault with its operand's number (R385). [DEDUCED, log 121] -/
def State.tileOpnds (s : State) (w : List Nat) (t : Nat) : Except (TileBad × Nat) (List Opnd) :=
  [0, 1, 2].foldlM (fun acc o =>
    if !tileTakes w o then .ok (acc ++ [⟨⟨[]⟩, [], false⟩])
    else
      match s.tileOpnd w o with
      | .error e => .error (e, o)
      | .ok x =>
        match s.blocksOk x (o == 2) (o == 2 && tileOpc w == 5 && tileAccum w) (tileBlocks w t o x.h) with
        | .error e => .error (e, o)
        | .ok _ => .ok (acc ++ [x])) []

/-! ## What a tile reads -/

/-- Chunk c of K: first step and steps. -/
def chunkOf (w : List Nat) (c : Nat) : Nat × Nat := (tileLo w + c * tileKc w, min (tileKc w) (tileLen w - c * tileKc w))

/-- The scale bytes of a chunk (R371). -/
def Opnd.scaleLines (o : Opnd) (w : List Nat) (first count c : Nat) : List (Nat × Nat) :=
  if o.aux 0 = 0 then []
  else
    let (k0, kn) := chunkOf w c
    let nb := (tileK w + 31) / 32
    (List.range count).map fun i => (o.aux 0 + (first + i) * nb + k0 / 32, (k0 + kn + 31) / 32 - k0 / 32)

/-- The scale bytes of a block that the element unit converts from or to, laid out along its rows (R371, R465). [DEDUCED, log 193] -/
def Opnd.blockScales (o : Opnd) (w : List Nat) (t n : Nat) : List (Nat × Nat) :=
  if !blockScaled w n o.h.type then []
  else
    let (r0, c0, nr, nc) := tileBlock w t n o.h
    let nb := ((tileExtent w n o.h).2 + 31) / 32
    (List.range nr).map fun i => (o.aux 0 + (r0 + i) * nb + c0 / 32, (c0 + nc + 31) / 32 - c0 / 32)

/-- The row bitmap of a reduction index for a block of 64 rows (R136, R371). -/
def State.bitmapRow (s : State) (o : Opnd) (w : List Nat) (blk k : Nat) : Nat :=
  match s.tilePeek (o.aux 1 + 8 * (tileK w * blk + k)) 8 with
  | .ok d => (wordsOf 8 d 1).headD 0
  | .error _ => 0

/-- The group map of a row block, an entry a beat, up to the one that carries END, at most one for each reduction index (R136, R371).
[DESIGN CHOICE, log 125] -/
def State.tileMap (s : State) (o : Opnd) (w : List Nat) (blk : Nat) : List Nat :=
  if o.h.spf != 4 then []
  else
    ((List.range (tileK w)).foldl (fun (acc : List Nat × Bool) b =>
      if acc.2 then acc
      else
        match s.tilePeek (o.aux 2 + o.aux 3 * blk + 8 * b) 8 with
        | .ok d => let e := (wordsOf 8 d 1).headD 0; (acc.1 ++ [e], bit e 63)
        | .error _ => (acc.1, true)) ([], false)).1

/-- Where the values of a block of 64 rows begin: at BASE for the first block; the manual does not say for the others. [DESIGN CHOICE, log 124] -/
def Opnd.valuesAt (o : Opnd) (blk : Nat) : Nat := if blk = 0 then o.h.base else Config.openValue 70 o.h.base blk / 64 * 64

/-- Groups of a pattern in steps of K. -/
def keptIn (spf k : Nat) : Nat := let (w, q) := selPattern spf; k / w * q

/-- The lines that chunk c of a product reads of A or B: dense, kept values (R133), or the values of set bits (R136). -/
def State.productLines (s : State) (w : List Nat) (t o : Nat) (x : Opnd) (c : Nat) : List (Nat × Nat) :=
  let (r0, c0, nr, nc) := tileBox w t
  let (k0, kn) := chunkOf w c
  if x.h.spf = 0 then (if o = 0 then x.lines r0 k0 nr kn else x.lines k0 c0 kn nc)
  else if x.h.spf = 4 then
    let cnt := fun (k : Nat) => popcount (s.bitmapRow x w (r0 / 64) k) 64
    let before := ((List.range k0).map cnt).sum
    [(x.valuesAt (r0 / 64) + before * typeBytes x.h.type, ((List.range kn).map fun k => cnt (k0 + k)).sum * typeBytes x.h.type)]
  else
    let f := keptIn x.h.spf k0
    let n := keptIn x.h.spf kn
    if o = 0 then x.lines r0 f nr n else x.lines f c0 n nc

/-- The lines that copy c of a tile brings in on a channel: A, and what treduce folds into, on channel 0, B on channel 1 (R384, R465). -/
def State.copyLines (s : State) (w : List Nat) (t c : Nat) (xs : List Opnd) (ch : Nat) : List (Nat × Nat) :=
  let x := fun o => xs.getD o ⟨⟨[]⟩, [], false⟩
  let blk := fun o => (tileBlocks w t o (x o).h).flatMap fun b => (x o).lines b.1 b.2.1 b.2.2.1 b.2.2.2
  if tileOpc w ≤ 2 then s.productLines w t ch (x ch) c
  else if tileOpc w = 11 && c ≠ 0 then []
  else (if tileTakes w ch then blk ch else []) ++ (if ch = 0 && tileOpc w = 5 && tileAccum w then blk 2 else [])

/-- The scale bytes that copy c of a tile brings in beside them. -/
def scaleReads (w : List Nat) (t c : Nat) (xs : List Opnd) : List (Nat × Nat) :=
  let x := fun o => xs.getD o ⟨⟨[]⟩, [], false⟩
  let (r0, c0, nr, nc) := tileBox w t
  if tileOpc w ≤ 2 then (x 0).scaleLines w r0 nr c ++ (x 1).scaleLines w c0 nc c else (x 0).blockScales w t 0 ++ (x 1).blockScales w t 1

/-- All the lines that copy c of a tile brings in. -/
def State.tileLines (s : State) (w : List Nat) (t c : Nat) (xs : List Opnd) : List (Nat × Nat) :=
  s.copyLines w t c xs 0 ++ s.copyLines w t c xs 1 ++ scaleReads w t c xs

/-- The bitmaps of a row block of A and its group map, with the entry that could not be read when no END was met (R136, R371). -/
def State.mapLines (s : State) (w : List Nat) (x : Opnd) (blk : Nat) : List (Nat × Nat) :=
  if x.h.spf != 4 then []
  else
    let m := s.tileMap x w blk
    let n := if m.length = tileK w || bit (m.getLast?.getD 0) 63 then m.length else m.length + 1
    [(x.aux 1 + 8 * tileK w * blk, 8 * tileK w), (x.aux 2 + x.aux 3 * blk, 8 * n)]

/-- The streams of a tile's operands beside the elements of a dense block: values, scales, bitmaps and map (R371). -/
def State.sideLines (s : State) (w : List Nat) (t : Nat) (xs : List Opnd) (o : Nat) : List (Nat × Nat) :=
  let x := xs.getD o ⟨⟨[]⟩, [], false⟩
  let (r0, c0, nr, nc) := tileBox w t
  if 2 < tileOpc w then x.blockScales w t o
  else
    s.mapLines w x (r0 / 64) ++
    (List.range (tileChunks w)).flatMap fun c =>
      (if x.h.spf = 0 then [] else s.productLines w t o x c) ++ (if o = 0 then x.scaleLines w r0 nr c else x.scaleLines w c0 nc c)

/-- A page of those streams that cannot be reached (R385, R386). -/
def State.streamPages (s : State) (w : List Nat) (t : Nat) (xs : List Opnd) : Except (TileBad × Nat) Unit :=
  [0, 1, 2].foldlM (fun _ o =>
    if !tileTakes w o || (o == 2 && tileOpc w ≤ 2) then .ok ()
    else
      match leastBad (xs.getD o ⟨⟨[]⟩, [], false⟩).h (s.pageFaults (o == 2) (s.sideLines w t xs o)) with
      | some e => .error (e, o)
      | none => .ok ()) ()

/-- The entry of the handle table and the side block that the checks of an operand read (R370, R371). -/
def State.entryLines (s : State) (w : List Nat) (o : Nat) : List (Nat × Nat) :=
  let tb := s.core.thbase.toNat
  let a := fld tb 56 12 * 4096 + 32 * tileHandle w o
  if !tileTakes w o || 2 ^ fld tb 4 0 ≤ tileHandle w o then []
  else
    (a, 32) :: match s.tilePeek a 32 with
      | .error _ => []
      | .ok d => let h : Handle := ⟨wordsOf 8 d 4⟩; if h.ok && formatOk w o h && h.aux != 0 then [(h.aux, 64)] else []

/-- The bytes that the sequencer reads at once for a tile: entries of the handle table, side blocks, bitmaps, map (R370, R371). [DEDUCED, log 119] -/
def State.peekLines (s : State) (w : List Nat) (t : Nat) (xs : List Opnd) : List (Nat × Nat) :=
  [0, 1, 2].flatMap fun o => s.entryLines w o ++ if tileTakes w o then s.mapLines w (xs.getD o ⟨⟨[]⟩, [], false⟩) ((tileBox w t).1 / 64) else []

/-- Those reads are checked and marked like every plain read of the core (R113, R115). [DEDUCED, log 119] -/
def State.markPeeks (s : State) (rs : List (Nat × Nat)) : State :=
  (rs.flatMap fun r => unitsOf r.1 r.2).foldl (fun st u =>
    if regionOf u.1 != .global then st
    else
      match st.tilePage false u.1 with
      | .error _ => st
      | .ok l =>
        let pa := l.phys u.1 0
        match raceCheck (st.tag pa) st.focus st.gen false with
        | .ok t => st.logMark pa t
        | .error cause =>
          (st.logMark pa (markOf st.focus st.gen false true)).onCore fun c => c.engineRace cause (tagCore (st.tag pa)) 10 u.1) s

end Sys2Proof.Machine
end

