-- ==== Sys2Proof/Machine/TileNum.lean ====
section
/-! DEFINITION. What the tiles of a tile instruction compute from the bytes they have read (R373 to R375, R465). -/

namespace Sys2Proof.Machine

/-- A logical element from the bytes read; the second run of a dual-pass tile keeps its own (R455). -/
def Opnd.elem (o : Opnd) (data : Mem) (shift r c : Nat) : Nat := rdLE data (o.elemAt r c + shift) (typeBytes o.h.type)

/-! ## Products (R373) -/

/-- A beat of a cell: the pair of each lane, none where an element is absent, and its reduction index. -/
structure TileBeat where
  pairs : List (Option (Nat × Nat))
  k : Nat
deriving DecidableEq, Repr

/-- What a product works on: the word, tile, operands, bytes read, which run of a dual pass, the bitmap rows and the group map of A, and
the core's Kiln with the first row and column of the cells. -/
structure TileSrc where
  w : List Nat
  tile : Nat
  xs : List Opnd
  data : Mem
  shift : Nat
  rows : List Nat
  map : List Nat
  imem : Mem
  kiln : Kiln
  org : Nat × Nat
deriving DecidableEq, Repr

def TileSrc.opnd (q : TileSrc) (o : Nat) : Opnd := q.xs.getD o ⟨⟨[]⟩, [], false⟩

/-- The select nibble of kept element x (counted over all of K) of line j of an operand (R134). The manual does not say where the stream
of a later block of 64 lines begins. [DESIGN CHOICE, log 124] -/
def TileSrc.nibble (q : TileSrc) (o j x : Nat) : Nat :=
  let nl := if fourLane (tileFmt q.w) (tileSr q.w) then 4 else 1
  let at0 := (q.opnd o).aux 4
  let base := if j / 64 = 0 then at0 else Config.openValue 74 at0 (j / 64)
  let n := x / nl * 64 * nl + nl * (j % 64) + x % nl
  fld (rdByte q.imem (base + n / 2)).toNat (4 * (n % 2) + 3) (4 * (n % 2))

/-- The kept element of a selected operand for a reduction index on line j, if any: its place among the kept ones. [DESIGN CHOICE, log 124] -/
def TileSrc.keptAt (q : TileSrc) (o j k : Nat) : Option Nat :=
  let (g, p) := selPattern (q.opnd o).h.spf
  ((List.range p).map fun i => k / g * p + i).find? fun x => q.nibble o j x == k % g

/-- The place of the nonzero (r, k) among the values of its block, from the start of its chunk's bytes (R136). -/
def TileSrc.rank (q : TileSrc) (r k : Nat) : Nat :=
  ((List.range k).map fun k' => popcount (q.rows.getD k' 0) 64).sum + popcount (q.rows.getD k 0 % 2 ^ (r % 64)) 64

/-- A(r, k), if present. -/
def TileSrc.left (q : TileSrc) (r k : Nat) : Option Nat :=
  let a := q.opnd 0
  match a.h.spf with
  | 0 => some (a.elem q.data q.shift r k)
  | 4 =>
    if bit (q.rows.getD k 0) (r % 64) then
      some (rdLE q.data (a.valuesAt (r / 64) + q.rank r k * typeBytes a.h.type + q.shift) (typeBytes a.h.type))
    else none
  | _ => (q.keptAt 0 r k).map fun x => a.elem q.data q.shift r x

/-- The first beat of the group map and the source in it that name a reduction index (R136). -/
def TileSrc.mapSpot (q : TileSrc) (k : Nat) : Option (Nat × Nat) :=
  q.map.zipIdx.findSome? fun (e, b) => ((List.range 4).find? fun t => fld e (14 * t + 13) (14 * t) == k).map fun t => (b, t)

/-- The kept element of a selected B beside a condensed A: the one that the nibble of the beat and lane of the reduction index names; a
nibble beyond the kept values, or an index that the map does not name, gives none (R137, R139). [DESIGN CHOICE, log 124] -/
def TileSrc.mapKept (q : TileSrc) (k c : Nat) : Option Nat :=
  let o := q.opnd 1
  let (g, p) := selPattern o.h.spf
  (q.mapSpot k).bind fun (b, t) =>
    let base := if c / 64 = 0 then o.aux 4 else Config.openValue 74 (o.aux 4) (c / 64)
    let n := b * 256 + 4 * (c % 64) + t
    let z := fld (rdByte q.imem (base + n / 2)).toNat (4 * (n % 2) + 3) (4 * (n % 2))
    if z < p then some (k / g * p + z) else none

/-- B(k, c), if present. -/
def TileSrc.right (q : TileSrc) (k c : Nat) : Option Nat :=
  let b := q.opnd 1
  if b.h.spf = 0 then some (b.elem q.data q.shift k c)
  else (if (q.opnd 0).h.spf = 4 then q.mapKept k c else q.keptAt 1 c k).map fun x => b.elem q.data q.shift x c

/-- The pair of a reduction index. -/
def TileSrc.pair (q : TileSrc) (r c k : Nat) : Option (Nat × Nat) :=
  match q.left r k, q.right k c with
  | some a, some b => some (a, b)
  | _, _ => none

/-- The pattern that selects the beats of a product, if any. -/
def TileSrc.sel (q : TileSrc) : Nat :=
  let s := fun o => let f := (q.opnd o).h.spf; if f = 4 then 0 else f
  if s 0 = 0 then s 1 else s 0

/-- The reduction index of kept element x on row r and column c. -/
def TileSrc.keptK (q : TileSrc) (r c x : Nat) : Option Nat :=
  let (g, p) := selPattern q.sel
  let n := if (q.opnd 0).h.spf != 0 then q.nibble 0 r x else q.nibble 1 c x
  if n < g then some (x / p * g + n) else none

/-- A scale byte of row or column i for a block of 32 (R371). -/
def TileSrc.scale (q : TileSrc) (o i blk : Nat) : Nat := (rdByte q.data ((q.opnd o).aux 0 + i * ((tileK q.w + 31) / 32) + blk + q.shift)).toNat

/-- Whether a block of a condensed product takes its step in a cell though no pair of it is present: the map has a beat for it, or a scale of it
is 0xFF (R135, R138). -/
def TileSrc.blockSteps (q : TileSrc) (r c blk : Nat) : Bool :=
  fmtBSC (tileFmt q.w) &&
  ((q.map.any fun e => let k := fld e 13 0; k < tileK q.w && k / 32 == blk) || q.scale 0 r blk == 255 || q.scale 1 c blk == 255)

/-- The beats of one cell over a chunk: of a condensed product one reduction index each, in increasing order, the absent ones left out where the
cells run a code 0 to 7 (R120, R133, R136, R373). -/
def TileSrc.beats (q : TileSrc) (r c chunk : Nat) : List TileBeat :=
  let (k0, kn) := chunkOf q.w chunk
  let nl := if fourLane (tileFmt q.w) (tileSr q.w) then 4 else 1
  if (q.opnd 0).h.spf = 4 then
    ((List.range kn).map fun i => (⟨[q.pair r c (k0 + i)], k0 + i⟩ : TileBeat)).filter fun b =>
      8 ≤ tileSr q.w || b.pairs != [none] || q.blockSteps r c (b.k / 32)
  else if q.sel != 0 then
    let x0 := keptIn q.sel k0
    let n := keptIn q.sel kn
    (List.range ((n + nl - 1) / nl)).map fun b =>
      ⟨(List.range nl).map fun l => if nl * b + l < n then (q.keptK r c (x0 + nl * b + l)).bind (q.pair r c) else none,
        (x0 + nl * b) / (selPattern q.sel).2 * (selPattern q.sel).1⟩
  else (List.range ((kn + nl - 1) / nl)).map fun b =>
    ⟨(List.range nl).map fun l => if nl * b + l < kn then q.pair r c (k0 + nl * b + l) else none, k0 + nl * b⟩

/-- A beat's step on the window and the accumulator of a cell (R65, R66, R373). -/
def TileSrc.beatStep (q : TileSrc) (r c : Nat) (acc : TVal × Nat × BitVec 7) (b : TileBeat) (opens closes : Bool) : TVal × Nat × BitVec 7 :=
  let f := tileFmt q.w
  let four := fourLane f (tileSr q.w)
  let lanes := (b.pairs.zipIdx.map fun (p, l) => if p.isSome then 2 ^ l else 0).sum
  if !four && lanes = 0 then acc
  else
    let word := fun (g : Nat × Nat → Nat) (wd : Nat) => (b.pairs.zipIdx.map fun (p, l) => (p.elim 0 g) * 2 ^ (8 * wd * l)).sum
    let x : BeatCtx :=
      { fmt := f, opens := opens, closes := closes, fresh := false, sa := q.scale 0 r (b.k / 32), sb := q.scale 1 c (b.k / 32), lanes := lanes,
        valid := true }
    let (t, v, fl) := fixedStep x (tileSr q.w) acc.1 acc.2.1 (word (·.1) (typeBytes (tileAt q.w))) (word (·.2) (typeBytes (tileBt q.w)))
    (t, v, acc.2.2 ||| fl)

/-- One element of C under a product of codes 0 to 7, as accumulator bits, with its flags (R138, R373). -/
def TileSrc.product (q : TileSrc) (r c : Nat) : Nat × BitVec 7 :=
  ((List.range (tileChunks q.w)).foldl (fun acc ch =>
    let bs := q.beats r c ch
    (bs.zipIdx).foldl (fun acc (b, i) =>
      let same := fun (j : Nat) => (bs[j]?).elim false fun o => o.k / 32 == b.k / 32
      q.beatStep r c acc b (i == 0 || !same (i - 1)) (!same (i + 1))) acc)
    (TVal.empty, identity (tileSr q.w) (tileCt q.w), 0)).2

/-! ## Products under a custom code (R119, R257 to R268, R373) -/

/-- The cells of a tile, row by row, with the flags of their steps. -/
abbrev TileCells := List (List Cell) × BitVec 7

/-- One cell's step under its own program, with WI and NI, on the first beat of a pass or not. -/
def TileSrc.cellStep (q : TileSrc) (first fresh valid : Bool) (i j wi ni : Nat) (c : Cell) : CellOut :=
  let g := q.kiln.cfgOf c
  let cls := cellClass g.map (q.org.1 + i) (q.org.2 + j)
  let x : BeatCtx := { fmt := tileFmt q.w, opens := true, closes := true, fresh := fresh, sa := 0, sb := 0, lanes := b2n valid, valid := valid }
  runMicro g cls x (if first then { c.absorb with u := g.sp.getD cls 0 } else c.absorb) wi ni

/-- The operands that a beat brings a cell of a sparse product: an absent element gives K1 of the cell's class, and no operand (R137, R139,
R258). -/
def TileSrc.cellPair (q : TileSrc) (b : TileBeat) (i j : Nat) (c : Cell) : Nat × Nat × Bool :=
  let g := q.kiln.cfgOf c
  match b.pairs.headD none with
  | some (x, y) => (enterForm 1 (tileAt q.w) x, enterForm 1 (tileBt q.w) y, true)
  | none => (0, g.k1.getD (cellClass g.map (q.org.1 + i) (q.org.2 + j)) 0, false)

/-- One beat through the cells of a tile: row by row from the north, west to east within a row. In a dense product each cell passes its outputs
on; in a sparse one every cell takes the pair chosen for it (R258, R267). -/
def TileSrc.arrayBeat (q : TileSrc) (r0 c0 chunk b : Nat) (st : TileCells) : TileCells :=
  let first := b == 0
  let fresh := first && chunk == 0
  let dense := (q.opnd 0).h.spf == 0 && (q.opnd 1).h.spf == 0
  let k := (chunkOf q.w chunk).1 + b
  let res := st.1.zipIdx.foldl (fun (acc : List (List Cell) × List Nat × BitVec 7) (row, i) =>
    let out := row.zipIdx.foldl (fun (a : List Cell × List Nat × Nat × BitVec 7) (c, j) =>
      let (wi, ni, valid) :=
        if dense then
          (if j = 0 then enterForm 1 (tileAt q.w) ((q.left (r0 + i) k).getD 0) else a.2.2.1,
            if i = 0 then enterForm 1 (tileBt q.w) ((q.right k (c0 + j)).getD 0) else acc.2.1.getD j 0, true)
        else q.cellPair ((q.beats (r0 + i) (c0 + j) chunk).getD b ⟨[], 0⟩) i j c
      let o := q.cellStep first fresh valid i j wi ni c
      (a.1 ++ [o.cell], a.2.1 ++ [o.south], o.east, a.2.2.2 ||| o.flags)) ([], [], 0, 0)
    (acc.1 ++ [out.1], out.2.1, acc.2.2 ||| out.2.2.2)) ([], [], st.2)
  (res.1, res.2.2)

/-- The accumulators of a tile after the resident programs have run over all of K, with the flags of all cells in the first one. -/
def TileSrc.customAccs (q : TileSrc) : List (List (Nat × BitVec 7)) :=
  let (r0, c0, nr, nc) := tileBox q.w q.tile
  let cells0 := (List.range nr).map fun i => (List.range nc).map fun j => sget Cell.zero q.kiln.cells (64 * (q.org.1 + i) + q.org.2 + j)
  let res := (List.range (tileChunks q.w)).foldl (fun st ch =>
    (List.range (q.beats r0 c0 ch).length).foldl (fun st b => q.arrayBeat r0 c0 ch b st) st) (cells0, (0 : BitVec 7))
  res.1.zipIdx.map fun (row, i) => row.zipIdx.map fun (c, j) => (c.absorb.c1.toNat, if i = 0 ∧ j = 0 then res.2 else 0)

/-- An accumulator as the drain writes it to C: from FP32 for a floating type, else its low bytes, a BOOL8 as 0 or 1 (R53, R286, R384). -/
def drainTo (w : List Nat) (v : Nat) : FRes :=
  if tileCt w ≤ 5 then drainFloat (tileCt w) (tileFmt w) v
  else if tileCt w = 10 then (b2n (v % 256 != 0), 0)
  else (v % 2 ^ (8 * typeBytes (tileCt w)), 0)

/-! ## Elementwise operations (R374, R375) -/

/-- A conversion between types: the same type keeps its bits, but LNS6 and BOOL8 are written in their own forms; one to a format of more bytes
cannot overflow, any other follows SAT (R50, R52, R53, R59 to R61). [DEDUCED, log 62; DEDUCED, log 63; DEDUCED, log 135; DESIGN CHOICE, log 178] -/
def convElem (src dst : Nat) (f : W32) (x : Nat) : FRes :=
  let v := decodeElem src (fmtFTZ f) x
  if src = dst then (if dst = 5 then x % 64 else if dst = 10 then b2n (x % 256 != 0) else x, 0)
  else
    match floatFmt dst with
    | some g => if dst = 0 ∨ typeBytes src < typeBytes dst then v.toFmt g (fmtRM f) (fmtFTZ f) else toType dst (fmtRM f) (fmtFTZ f) (fmtSAT f) v
    | none => toType dst (fmtRM f) (fmtFTZ f) (fmtSAT f) v

/-- A selector of tmap, and the type of its result (R375). -/
def mapElem (sel src : Nat) (f : W32) (a b : Nat) : FRes × Nat :=
  let z := fmtFTZ f
  match sel with
  | 0 => ((a, 0), src)
  | 1 => (fpAdd (fmtRM f) z a b, 0)
  | 2 => (fpSub (fmtRM f) z a b, 0)
  | 3 => (fpMul (fmtRM f) z a b, 0)
  | 4 => (fpMinMax true z a b, 0)
  | 5 => (fpMinMax false z a b, 0)
  | 6 => (fpMinMax true z a 0, 0)
  | 7 => (exp2Lane z a, 0)
  | 8 => (rcpLane z a, 0)
  | 9 => (rsqrtLane z a, 0)
  | 10 => (((a + b) % 2 ^ 32, 0), 9)
  | _ => ((satAdd 16 a b, 0), 8)

/-- An open result confined to the values that its type can write (R50, R53). [DESIGN CHOICE, log 65] -/
def openElem (ct v : Nat) : Nat := if ct = 5 then v % 64 else if ct = 10 then v % 2 else v % 2 ^ (8 * typeBytes ct)

/-- One step of treduce in CT (R69, R374). The manual gives no sum but those of the accumulators and no ⊕ for codes 8 to 15.
[DEDUCED, log 64; DESIGN CHOICE, log 65; DEDUCED, log 130; DESIGN CHOICE, log 180] -/
def reduceStep (sr ct : Nat) (f : W32) (p v : Nat) : FRes :=
  let free : FRes := (openElem ct (Config.openValue 72 p v), 0)
  let pick := fun (wantMax : Bool) => (pickForm (typeForm ct) wantMax p v % 2 ^ (8 * typeBytes ct), (0 : BitVec 7))
  match sr with
  | 0 =>
    if ct = 0 then
      let r := fpAdd (fmtRM f) (fmtFTZ f) p v
      (r.1, if (fp32.decode p).isNan || (fp32.decode v).isNan then 0 else r.2 &&& (flagOF ||| flagNV))
    else if ct = 8 ∨ ct = 9 then ((p + v) % 2 ^ (8 * typeBytes ct), 0)
    else free
  | 1 => pick false
  | 2 => pick true
  | 3 => pick true
  | 4 => if ct = 10 then (b2n (p % 256 != 0 || v % 256 != 0), 0) else free
  | 5 => pick true
  | 6 => pick false
  | 7 => pick true
  | _ => free

/-! ### Block scales of the element unit (R252, R253, R465) -/

/-- The address of the scale byte of an element by its logical row and column. [DEDUCED, log 193] -/
def TileSrc.scaleAt (q : TileSrc) (o r c : Nat) : Nat :=
  (q.opnd o).aux 0 + r * (((tileExtent q.w o (q.opnd o).h).2 + 31) / 32) + c / 32

/-- An element as the element unit reads it, with the type that the bits have: under a block scale it widens to FP32 as vunpack does (R253, R465). -/
def TileSrc.wide (q : TileSrc) (o r c : Nat) : FRes × Nat :=
  let f := tileFmt q.w
  let x := (q.opnd o).elem q.data q.shift r c
  let ty := tileType q.w o
  if blockScaled q.w o ty then
    let sc := (rdByte q.data (q.scaleAt o r c + q.shift)).toNat
    (if sc = 0xFF then (fp32.nan, 0) else ((decodeElem ty (fmtFTZ f) x).shift (scaleExp sc)).toFmt fp32 (fmtRM f) (fmtFTZ f), 0)
  else ((x, 0), ty)

/-- The value that tcopy, tbcast and tmap give an element of C before its conversion, with its type (R374, R375). -/
def TileSrc.source (q : TileSrc) (r c : Nat) : FRes × Nat :=
  match tileOpc q.w with
  | 6 => if (q.opnd 0).h.rows = 1 then q.wide 0 0 c else q.wide 0 r 0
  | 10 =>
    let a := q.wide 0 r c
    let v := mapElem (tileSel q.w) a.2 (tileFmt q.w) a.1.1 (if mapTwo (tileSel q.w) then (q.wide 1 r c).1.1 else 0)
    ((v.1.1, v.1.2 ||| a.1.2), v.2)
  | _ => q.wide 0 r c

/-- The value of an element before its conversion. -/
def TileSrc.sourceVal (q : TileSrc) (r c : Nat) : Fv := let x := q.source r c; decodeElem x.2 (fmtFTZ (tileFmt q.w)) x.1.1

/-- The scale that the element unit chooses for the block of 32 elements in which an element of C lies (R252, R465). [DEDUCED, log 193] -/
def TileSrc.scaleOf (q : TileSrc) (r c : Nat) : Nat :=
  blockScale (tileCt q.w) ((List.range (min 32 (tileN q.w - c / 32 * 32))).map fun i => q.sourceVal r (c / 32 * 32 + i))

/-- An element of C under tcopy, tbcast and tmap: converted, under block scales after the division by its block's (R252, R374, R465). -/
def TileSrc.converted (q : TileSrc) (r c : Nat) : FRes :=
  let f := tileFmt q.w
  let x := q.source r c
  let y :=
    if blockScaled q.w 2 (tileCt q.w) then
      let sc := q.scaleOf r c
      toType (tileCt q.w) (fmtRM f) (fmtFTZ f) (fmtSAT f) (if sc = 0xFF then .nan else (q.sourceVal r c).shift (-(scaleExp sc)))
    else convElem x.2 (tileCt q.w) f x.1.1
  (y.1, x.1.2 ||| y.2)

/-- An element of C under tcopy, tfill, treduce, tbcast, tmap and tgather (R374, R375). [DEDUCED, log 130] -/
def TileSrc.element (q : TileSrc) (r c : Nat) : FRes :=
  let w := q.w
  let f := tileFmt w
  let a := q.opnd 0
  let conv := fun (x : Nat) => convElem (tileAt w) (tileCt w) f x
  match tileOpc w with
  | 3 => q.converted r c
  | 4 => convElem (tileCt w) (tileCt w) f (tf w 1 31 0 % 2 ^ (8 * typeBytes (tileCt w)))
  | 5 =>
    let part := fun (k : Nat) => conv (a.elem q.data q.shift (k * tileM w + r) c)
    let step := fun (acc : FRes) (k : Nat) =>
      let x := part k
      let y := reduceStep (tileSr w) (tileCt w) f acc.1 x.1
      (y.1, acc.2 ||| x.2 ||| y.2)
    if tileAccum w then (List.range (tileK w)).foldl step ((q.opnd 2).elem q.data q.shift r c, 0)
    else (List.range (tileK w - 1)).foldl (fun acc k => step acc (k + 1)) (part 0)
  | 6 => q.converted r c
  | 10 => q.converted r c
  | _ => conv (a.elem q.data q.shift ((q.opnd 1).elem q.data q.shift 0 r) c)

/-! ## Problems and fields (R127, R128, R151, R374) -/

/-- The cells D(i, 0..N-1) of one row of a problem's table from the row above; the manual does not give the table's boundaries.
[DESIGN CHOICE, log 129] -/
def TileSrc.scanRow (q : TileSrc) (i : Nat) (up : List Nat) : List Nat :=
  let p := q.tile
  let edge := fun (j : Nat) => Config.openValue 73 p j % 2 ^ 16
  let a := (q.opnd 0).elem q.data q.shift p i
  let mx := tileSr q.w == 2 || tileSr q.w == 5
  (List.range (tileN q.w)).foldl (fun (row : List Nat) j =>
    let left := if j = 0 then edge (2 ^ 24 + i) else row.getD (j - 1) 0
    let above := if i = 0 then edge j else up.getD j 0
    let diag := if i = 0 then (if j = 0 then edge (2 ^ 25) else edge (j - 1)) else if j = 0 then edge (2 ^ 24 + i - 1) else up.getD (j - 1) 0
    let b := (q.opnd 1).elem q.data q.shift p j
    row ++ [(wfStep mx (diag * 2 ^ 32 + left * 2 ^ 16 + a % 2 ^ 16) (above * 2 ^ 16 + b % 2 ^ 16) ((q.opnd 0).aux 7)).1 % 2 ^ 16]) []

/-- Row p of C under tscan: the last row of the table, then its last column (R374). [DESIGN CHOICE, log 129] -/
def TileSrc.scan (q : TileSrc) : List Nat :=
  let r := (List.range (tileM q.w)).foldl (fun (acc : List Nat × List Nat) i =>
    let row := q.scanRow i acc.1
    (row, acc.2 ++ [row.getD (tileN q.w - 1) 0])) ([], [])
  r.1 ++ r.2

/-- A block of an operand of a problem as rows. [DEDUCED, log 128] -/
def TileSrc.matrix (q : TileSrc) (o rows cols : Nat) : List Row32 :=
  (List.range rows).map fun i => (List.range cols).map fun j => (q.opnd o).elem q.data q.shift (q.tile * rows + i) j

/-- The rows that tsolve writes for a problem, with flags; above the diagonal, and for the pivots' reciprocals that a solve starts from,
the manual gives no value (R128, R374). [DEDUCED, log 128] -/
def TileSrc.solve (q : TileSrc) : List Row32 × BitVec 7 :=
  let w := q.w
  let n := tileM w
  let x : BeatCtx := { fmt := tileFmt w, opens := true, closes := true, fresh := false, sa := 0, sb := 0, lanes := 1, valid := true }
  let lower := fun (l : List Row32) =>
    (List.range n).map fun i => (List.range n).map fun j => if j ≤ i then mat l i j else Config.openValue 75 q.tile (64 * i + j) % 2 ^ 32
  if tileSel w < 2 then
    let (m, f0) :=
      if tileSel w = 0 then ((q.matrix 0 n n).zipIdx.map fun r => r.1.take (r.2 + 1), (0 : BitVec 7))
      else assemble x n ((q.opnd 0).aux 6 % 2 ^ 32) (q.matrix 0 (tileN w) n)
    let (l, _, f1) := factor x n m
    (lower l, f0 ||| f1)
  else
    let l := q.matrix 0 n n
    let b := q.matrix 1 n (tileN w)
    let cols := (List.range (tileN w)).map fun h =>
      triSolve x n (tileSel w == 3) (mat l) (fun i => Config.openValue 76 (mat l i i) i % 2 ^ 32) ((List.range n).map fun i => mat b i h)
    ((List.range n).map fun i => cols.map fun c => c.1.getD i 0, cols.foldl (fun acc c => acc ||| c.2) 0)

/-- Doubleword i of an item of an operand: a row of as many elements as its bytes take (R370, R374). -/
def TileSrc.dword (q : TileSrc) (o item i : Nat) : Nat :=
  let el := max 1 (typeBytes (q.opnd o).h.type)
  ((List.range (8 / el)).map fun j => (q.opnd o).elem q.data q.shift item (8 / el * i + j) * 2 ^ (8 * el * j)).sum

/-- A field after its steps: patch table and image, then N counted steps of each selected domain (R151, R374). [DEDUCED, log 131] -/
def TileSrc.field (q : TileSrc) : Ember :=
  let cell := fun (i : Nat) => let x := q.dword 1 q.tile i; (⟨sInt 32 (x % 2 ^ 32), sInt 32 (x / 2 ^ 32), 0, 0⟩ : ECell)
  let e : Ember := { Ember.zero with
    patch := (List.range 256).foldl (fun m i => sset 0 m i (BitVec.ofNat 64 (q.dword 0 0 i))) []
    cells := (List.range 256).foldl (fun m i => sset .zero m i (cell i)) []
    doms := Vector.ofFn fun d => ⟨if bit (tileSel q.w) d.val then .counted (tileN q.w) else .stopped, 0⟩ }
  (List.range (tileN q.w)).foldl (fun (e : Ember) t =>
    if e.flt.getLsbD 63 then e
    else (List.range 4).foldl (fun (e : Ember) d => if bit (tileSel q.w) d && !e.flt.getLsbD 63 then e.stepDomain d (t + 1) else e) e) e

/-- What tinteg writes for a field: the image, then the counters (R151, R374). [DEDUCED, log 131] -/
def fieldBytes (e : Ember) : List Byte :=
  ((List.range 256).flatMap fun i => cellBytes (ofInt 32 (e.cell i).y) (ofInt 32 (e.cell i).r)) ++
  (List.range 256).flatMap fun i => leBytes (e.cell i).cnt.toNat 4

/-! ## The bytes of C -/

/-- A block of C as memory units, from its elements (R370). -/
def Opnd.writeBlock (o : Opnd) (r0 c0 nr nc : Nat) (f : Nat → Nat → List Byte) : List (Nat × List Byte) :=
  if o.h.layout = 0 then
    (List.range nr).flatMap fun i => piecesOf (o.h.elemAt (r0 + i) c0) ((List.range nc).flatMap fun j => f (r0 + i) (c0 + j))
  else
    (List.range nc).flatMap fun j => piecesOf (o.h.elemAt r0 (c0 + j)) ((List.range nr).flatMap fun i => f (r0 + i) (c0 + j))

/-- The units of C and the flags of an elementwise tile, of gathered rows, of a problem or of a field (R374, R465). -/
def TileSrc.results (q : TileSrc) : List (Nat × List Byte) × BitVec 7 :=
  let w := q.w
  let o := q.opnd 2
  let (r0, c0, nr, nc) := tileBlock w q.tile 2 o.h
  let el := typeBytes o.h.type
  match tileOpc w with
  | 7 => (o.writeBlock r0 c0 1 nc fun _ c => leBytes (q.scan.getD c 0) el, 0)
  | 8 =>
    let (rows, fl) := q.solve
    (o.writeBlock r0 c0 nr nc fun r c => leBytes (mat rows (r - r0) c) el, fl)
  | 9 =>
    let d := fieldBytes q.field
    (o.writeBlock r0 c0 1 nc fun _ c => (d.drop (c * el)).take el, 0)
  | _ =>
    let fl := (List.range nr).foldl (fun acc i => (List.range nc).foldl (fun acc j => acc ||| (q.element (r0 + i) (c0 + j)).2) acc) (0 : BitVec 7)
    let scales :=
      if !blockScaled w 2 o.h.type then []
      else (List.range nr).flatMap fun i => (List.range ((nc + 31) / 32)).map fun b =>
        (q.scaleAt 2 (r0 + i) (c0 + 32 * b), leBytes (q.scaleOf (r0 + i) (c0 + 32 * b)) 1)
    (o.writeBlock r0 c0 nr nc (fun r c => leBytes (q.element r c).1 el) ++ scales, fl)

/-- The accumulators of a product tile, row by row, with their flags. -/
def TileSrc.accs (q : TileSrc) : List (List (Nat × BitVec 7)) :=
  if 8 ≤ tileSr q.w then q.customAccs else
  let (r0, c0, nr, nc) := tileBox q.w q.tile
  (List.range nr).map fun i => (List.range nc).map fun j => q.product (r0 + i) (c0 + j)

end Sys2Proof.Machine
end

