-- ==== Sys2Proof/Machine/Tile.lean ====
section
/-! DEFINITION. Tile instructions at work: splitting, claims, parts and their schedules, faults and completion (R376 to R388, R455, R465). -/

namespace Sys2Proof.Machine

/-! ## Instructions and parts -/

/-- The tile instruction of a number. -/
def State.tileInstr (s : State) (id : Nat) : Option TileInstr := s.mod.tiles.find? fun x => x.id == id

/-- Change a tile instruction. -/
def State.onTile (s : State) (id : Nat) (f : TileInstr → TileInstr) : State :=
  s.onMod fun m => { m with tiles := m.tiles.map fun x => if x.id = id then f x else x }

/-- Change the part that runs on the core in focus. -/
def State.onPart (s : State) (f : TilePart → TilePart) : State :=
  s.onEng fun e => { e with parts := match e.parts with | p :: r => f p :: r | [] => [] }

/-- The record of the task of an instruction's issuer, wherever it stands. -/
def State.onIssuer (s : State) (x : TileInstr) (f : Core → Core) : State :=
  let c := s.coreAt x.core
  if c.mode ≠ .off ∧ c.task.launchId = x.launch then s.setCore x.core (f c)
  else { s with mod := { s.mod with images := s.mod.images.map fun i =>
      if i.idx = x.core ∧ i.core.task.launchId = x.launch then { i with core := f i.core } else i } }

/-- Where in a module a core stands: its number within its die (R386). -/
def dieCore (i : Nat) : Nat := 16 * (coreY i % 12) + coreX i % 16

/-- A fault joins those of an instruction (R385, R386). -/
def State.tileFault (s : State) (id code row col opnd addr level rank core clus : Nat) : State :=
  s.onTile id fun x => { x with faults := x.faults ++ [⟨code, row, col, opnd, addr, s.ts.toNat, level, rank, core, clus⟩] }

/-! ## Splitting (R376, R378 to R381) -/

/-- The scope at which an instruction's writes are ordered (R376). -/
def tileScope (w : List Nat) : Nat :=
  match tileLevel w with
  | 4 => 3
  | 3 => 2
  | 2 => 1
  | 1 => if (tileRect w).elim false fun r => 1 < r.w * r.h then 2 else 0
  | _ => 0

/-- Whether an item writes a local store when it performs. -/
def PendAct.stores : PendAct → Bool
  | .spWrite .. => true
  | .accWrite .. => true
  | .spLanes _ => true
  | .spAmo .. => true
  | .accAdd .. => true
  | _ => false

/-- Whether an engine command numbered below n has yet to write (R278). -/
def Core.engineWrites (c : Core) (n : Nat) : Bool :=
  let e := c.eng
  (e.copies.any fun x => x.id < n && !(x.written == x.count && x.raised)) || (e.kiln.drains.any fun d => d.id < n) ||
  (e.kiln.passes.any fun p => p.id < n && p.flow != 0 && p.flow != 4 && c.tcc ≤ p.fin) || (e.sps.any fun x => x.id < n && !x.counted) ||
  e.ember.cmds.any fun x => x.id < n

/-- Whether a FAB command writes its result in the core that issued it (R308). -/
def FabOp.localResult : FabOp → Bool
  | .read _ _ => true
  | .atomic _ _ _ _ => true
  | .reduce _ _ _ _ _ => true
  | _ => false

/-- Whether the result of a FAB command before a place in core order has yet to be written in its core, or bytes of the core's own commands wait
for their banks (R80, R300, R308). -/
def State.resultsOwed (s : State) (c : Core) (i gid : Nat) : Bool :=
  (c.opp.any fun r => r.rank == 3 || r.rank == 5) ||
  (s.mod.flue.ops.any fun o => o.core == i && o.launch == c.task.launchId && o.cmd.gid < gid && o.cmd.op.localResult) ||
  c.eng.fab.cmds.any fun k => k.gid < gid && k.op.localResult

/-- Whether every write of the issuer before the instruction has performed at its scope (R376). -/
def State.tileCovered (s : State) (x : TileInstr) : Bool :=
  let c := s.coreAt x.core
  let sc := tileScope x.word
  !(c.pend.any fun p => p.act.stores && p.org.tcc ≤ x.org.tcc) && !c.engineWrites x.nid && !s.resultsOwed c x.core x.gid &&
  !(c.gacc.any fun g => g.place < x.gid && g.act.writes) &&
  (sc = 0 || (!(s.mod.pushes.any fun p => p.src == x.core && p.launch == x.launch && p.gid < x.gid && (sc != 1 || coreDie p.tgt == coreDie x.core)) &&
    !c.peerOwed x.gid (fun i => sc != 1 || coreDie i == coreDie x.core))) &&
  (sc != 3 || s.remoteCovered x.core x.gid)

/-- Whether an instruction may start: it is its issuer's earliest, the issuer is at work, its writes have performed and its fences before the
instruction have ended (R101, R376). [DEDUCED, log 170] -/
def State.tileReady (s : State) (x : TileInstr) : Bool :=
  let c := s.coreAt x.core
  !x.started && (s.mod.tiles.find? fun y => y.core == x.core && y.launch == x.launch) == some x && c.task.launchId == x.launch &&
  (c.mode == .run || c.mode == .hold || c.mode == .halted) && !(c.fences.any fun f => f.id < x.gid) && s.tileCovered x

/-- The cores that execute an instruction, in rank order (R378, R379). -/
def State.tileCores (s : State) (x : TileInstr) : List Nat :=
  match tileLevel x.word with
  | 0 => [x.core]
  | 1 => (tileRect x.word).elim [] Rect.cores
  | 2 => (tileRect x.word).elim [] Rect.cores
  | _ => (s.coreAt x.core).task.rect.cores

/-- The clusters named at L0, ascending (R368). [DEDUCED, log 117] -/
def tileClusters (w : List Nat) : List Nat := (List.range 4).filter fun k => bit (tileTgt w) k

/-- The members of an L4 instruction other than this module that are absent, by rank (R380). [DEDUCED, log 133] -/
def State.tileAbsent (s : State) (w : List Nat) : List Nat :=
  if tileLevel w = 4 then
    (s.mod.flue.members.zipIdx.filter fun (m, _) => m != s.mod.flue.self && (s.mod.flue.refuse m).isSome).map (·.2)
  else []

/-- Whether an instruction's tiles are balanced by cost (R381). -/
def pooled (w : List Nat) : Bool := tileOpc w == 1 || tileOpc w == 2

/-- The operands whose nonzero counts the cost of a tile takes, with how many blocks of 64 each has (R381). -/
def nnzBlocks (w : List Nat) : List (Nat × Nat) :=
  (0, (tileM w + 63) / 64) :: if tileOpc w = 2 then [(1, (tileN w + 63) / 64)] else []

/-- The nonzero counts of an operand's blocks, or the fault that a Splitter finds as it reads them (R371, R381, R385). [DEDUCED, log 120] -/
def State.nnz (s : State) (w : List Nat) (o n : Nat) : Except (TileBad × Nat) (List Nat) :=
  match s.tileOpnd w o with
  | .error e => .error (e, o)
  | .ok x =>
    match s.tilePeek (x.aux 5) (4 * n) with
    | .ok d => .ok (wordsOf 4 d n)
    | .error e =>
      let blk := (e.2.2 - x.aux 5) / 4
      .error ((e.1, if o = 0 then (64 * blk, 0) else (0, 64 * blk), e.2.2), o)

/-- The bytes that the Splitter reads for the costs: entries of the handle table, side blocks, nonzero counts. -/
def State.nnzLines (s : State) (w : List Nat) : List (Nat × Nat) :=
  (nnzBlocks w).flatMap fun (o, n) =>
    s.entryLines w o ++ match s.tileOpnd w o with
      | .ok x => [(x.aux 5, 4 * n)]
      | .error _ => []

/-- The pool: tiles with costs, in descending cost, ties in ascending number (R381). [DEDUCED, log 120] -/
def State.tilePool (s : State) (w : List Nat) : Except (TileBad × Nat) (List (Nat × Nat)) := do
  let q := (tileN w + 63) / 64
  let a ← s.nnz w 0 ((tileM w + 63) / 64)
  let b ← if tileOpc w = 2 then s.nnz w 1 q else .ok []
  return sortBy (fun (a b : Nat × Nat) => b.2 ≤ a.2) ((List.range (tileCount w)).map fun t => (t, a.getD (t / q) 0 + b.getD (t % q) 0))

/-- The pool as entries: the die that a Splitter of L3 gives a tile to, plus one, times 2^40, plus the tile (R381). -/
def dealPool (dies : List (Nat × Nat)) (pool : List (Nat × Nat)) : List Nat :=
  (pool.foldl (fun (acc : List Nat × List (Nat × Nat)) p =>
    let load := fun (d : Nat × Nat) => (acc.2.lookup d.1).getD 0
    let best := dies.foldl (fun (b : Option (Nat × Nat)) d =>
      match b with
      | none => some d
      | some e => if load d * e.2 < load e * d.2 then some d else some e) none
    match best with
    | none => acc
    | some d => (acc.1 ++ [(d.1 + 1) * 2 ^ 40 + p.1], (d.1, load d + p.2) :: acc.2.filter fun x => x.1 != d.1)) ([], [])).1

/-- The pool of an instruction at its start. -/
def State.startPool (s : State) (w : List Nat) (cores : List Nat) : Except (TileBad × Nat) (List Nat) :=
  if !pooled w then .ok []
  else (s.tilePool w).map fun pool =>
    if tileLevel w < 3 then pool.map (·.1)
    else dealPool (((List.range 4).map fun d => (d, (cores.filter fun i => coreDie i == d).length)).filter fun d => d.2 != 0) pool

/-- The entry of a pool that a core claims next: the first that is its die's (R381). -/
def poolNext (pool : List Nat) (core : Nat) : Option Nat := pool.find? fun e => e / 2 ^ 40 == 0 || e / 2 ^ 40 == coreDie core + 1

/-- The tiles that the cores claim at the part's start, one each in rank order, and the pool that is left (R381). [DEDUCED, log 120] -/
def firstClaims (pool cores : List Nat) : List (Option Nat) × List Nat :=
  cores.foldl (fun acc i =>
    match poolNext acc.2 i with
    | some e => (acc.1 ++ [some (e % 2 ^ 40)], acc.2.erase e)
    | none => (acc.1 ++ [none], acc.2)) ([], pool)

/-- The tiles that fall to a rank (R379). At L0 the one core runs the tiles of all its clusters. -/
def tilesOfRank (w : List Nat) (rank size : Nat) : List Nat :=
  if pooled w then []
  else if tileLevel w = 0 then List.range (tileCount w)
  else (List.range (tileCount w)).filter fun t => t % size == rank

/-- The members of the group that an L4 instruction runs on. -/
def State.splitSize (s : State) (w : List Nat) : Nat := if tileLevel w = 4 then s.mod.flue.members.length else 1

/-- The range of K of rank r of an L4 product of g members (R380). -/
def kRange (w : List Nat) (g r : Nat) : Nat × Nat :=
  let kc := 64 * ((tileK w + 64 * g - 1) / (64 * g))
  (min (tileK w) (r * kc), min (tileK w) ((r + 1) * kc))

/-- The word that the Splitters hand on: that of an L4 product over several members carries this module's range of K (R378, R380). -/
def State.childWord (s : State) (w : List Nat) : List Nat :=
  let g := s.splitSize w
  if 1 < g ∧ tileOpc w ≤ 2 then
    let k := kRange w g ((s.mod.flue.members.idxOf s.mod.flue.self))
    w ++ [k.1, k.2]
  else w

/-- This module's rank in the group for an instruction of L4, else 0 (R380, R386). -/
def State.tileRank (s : State) (w : List Nat) : Nat := if tileLevel w = 4 then s.mod.flue.members.idxOf s.mod.flue.self else 0

/-- A part as it is handed to a core, with the tile that it has claimed at its start, if any. -/
def TileInstr.part (x : TileInstr) (w : List Nat) (rank size core : Nat) (first : Option Nat) : TilePart :=
  { instr := x.id, word := w, org := x.org, issuer := decide (core = x.core) && !x.record, rank := rank, size := size, t0 := none, cs := 0,
    ks := 0, todo := tilesOfRank x.word rank size ++ first.toList, pool := pooled x.word, runs := [], rings := [], quadCfg := [], shadow := .zero }

/-- TILE_SPLIT: an instruction whose turn has come publishes its issuer's write log and hands a part to each executor; an absent member
of an L4 group fails it, and so does what a Splitter finds wrong as it reads the costs (R376, R378 to R381, R385). [DEDUCED, log 133] -/
def execTileSplit (id : Nat) (s : State) : Out :=
  match s.tileInstr id with
  | none => .next s
  | some x =>
    if !s.tileReady x then .next s
    else
      let c := s.coreAt x.core
      let s1 := { s with tags := publishTags s.tags x.core c.writeLog }.setCore x.core { c with writeLog := [] }
      let s2 := s1.onTile id fun y => { y with started := true }
      if 12 ≤ tileOpc x.word then .next s2
      else
        match s.tileAbsent x.word with
        | r :: rs => .next ((r :: rs).foldl (fun st m => st.tileFault id 5 0 0 255 0 4 m 0 0) s2)
        | [] =>
          let cores := s1.tileCores x
          let view := { s2 with core := s2.coreAt x.core, focus := x.core }
          let marked := if pooled x.word then view.markPeeks (view.nnzLines x.word) else view
          let s3 := if pooled x.word then { marked with core := s2.core, focus := s2.focus }.setCore x.core marked.core else s2
          match view.startPool x.word cores with
          | .error ((code, (r, c), addr), o) => .next (s3.tileFault id code r c o addr (min 3 (tileLevel x.word)) (s.tileRank x.word) x.core 0)
          | .ok pool =>
            let (firsts, rest) := firstClaims pool cores
            let s4 := s3.onTile id fun y => { y with left := cores, pool := rest }
            .next (cores.zipIdx.foldl (fun st (i, r) =>
              let k := st.coreAt i
              st.setCore i { k with
                eng := { k.eng with parts := k.eng.parts ++ [x.part (s1.childWord x.word) r cores.length i (firsts.getD r none)] } }) s4)

/-! ## The start of a part (R383) -/

/-- Whether no command of units 9 to 12 is pending or running (R383). -/
def Core.unitsIdle (c : Core) : Bool :=
  let k := c.eng.kiln
  k.writes.isEmpty && k.tokens.isEmpty && k.drains.isEmpty && k.zeros.isEmpty && k.krings.isEmpty && !(c.eng.binds.any fun b => c.tcc < b.start) &&
  (k.passes.all fun p => p.fin < c.tcc && p.retire < c.tcc) && (c.eng.copies.all fun x => x.written == x.count && x.raised) &&
  c.eng.sps.all SpsCmd.counted && c.eng.ember.cmds.isEmpty

/-- A claim is recorded in the trace (R381, R427). -/
def State.traceClaim (s : State) (word : List Nat) (t : Nat) : State :=
  s.onCore fun c => c.traceRec s.ts s.focus 6 [BitVec.ofNat 64 t, BitVec.ofNat 64 (tileCw word)]

/-- Whether a part that claims from a pool may not run what it has claimed for its start: a fault of the instruction has been found (R385). -/
def State.claimBarred (s : State) (p : TilePart) : Bool := p.pool && (s.tileInstr p.instr).any fun x => !x.faults.isEmpty

/-- TILE_PART_START: in cycle T0 the sequencer takes the engines; the tile that a part has claimed for its start is recorded (R381, R383). -/
def execTilePartStart (s : State) : Out :=
  match s.core.eng.parts with
  | p :: _ =>
    if p.t0.isSome ∨ !s.core.unitsIdle then .next s
    else
      let e := s.core.eng
      let todo := if s.claimBarred p then [] else p.todo
      let s1 := if p.pool then todo.foldl (fun st t => st.traceClaim p.word t) s else s
      .next (s1.onPart fun p =>
        { p with
          t0 := some s.core.tcc, cs := s.core.tcc + 16, ks := 0, todo := todo, rings := e.rings.toList, quadCfg := e.kiln.quadCfg
          shadow := e.kiln.shadow })
  | [] => .next s

/-! ## Claims (R381, R385) -/

/-- Whether a part asks its pool for a tile. -/
def Core.claims (c : Core) : Bool :=
  match c.eng.parts with
  | p :: _ => p.t0.isSome && p.pool && p.todo.isEmpty && p.cs ≤ c.tcc + 16
  | [] => false

/-- TILE_CLAIM: the next tile of the pool; none once the pool is empty or a fault has been found (R381, R385). [DEDUCED, log 120] -/
def execTileClaim (s : State) : Out :=
  if !s.core.claims then .next s
  else
    match s.core.eng.parts.head?.bind fun p => s.tileInstr p.instr with
    | none => .next (s.onPart fun p => { p with pool := false })
    | some x =>
      match (if x.faults.isEmpty then poolNext x.pool s.focus else none) with
      | none => .next (s.onPart fun p => { p with pool := false })
      | some e =>
        let t := e % 2 ^ 40
        let s1 := (s.onTile x.id fun y => { y with pool := y.pool.erase e }).onPart fun p => { p with todo := [t] }
        .next (s1.traceClaim x.word t)

/-! ## Schedules (R384, R465) -/

/-- L of R292 for a copy of an operand to the staging tail; an instruction of L2 and above finds it in the die's local group, where its blocks have
been copied (R382). [DEDUCED, log 127] -/
def State.tileLat (s : State) (w : List Nat) (lines : List (Nat × Nat)) : Nat :=
  (lines.map fun l =>
    match regionOf l.1 with
    | .global =>
      (match s.tilePage false l.1 with
        | .ok f => if 2 ≤ tileLevel w || f.rpl || f.phys l.1 (coreDie s.focus) / groupSpan == coreDie s.focus then 240 else 300
        | .error _ => 300)
    | _ => 8).foldl max 0

/-- Units that the block of an operand fills in the staging tail, its rows rounded up (R465). -/
def blockUnits (w : List Nat) (t o : Nat) (x : Opnd) : Nat :=
  let (_, _, n, m) := tileBlock w t o x.h
  n * ((m * typeBytes x.h.type + 63) / 64)

/-- Beats of the pass of a chunk: of a condensed one, those of its group map, where the manual says which they are (R120, R133, R136).
[DESIGN CHOICE, log 125] -/
def chunkBeats (w : List Nat) (xs : List Opnd) (map : List Nat) (c : Nat) : Nat :=
  let spf := fun o => (xs.getD o ⟨⟨[]⟩, [], false⟩).h.spf
  let (_, kn) := chunkOf w c
  let nl := if fourLane (tileFmt w) (tileSr w) then 4 else 1
  if spf 0 = 4 then (if tileChunks w ≠ 1 ∨ tileLen w ≠ tileK w then Config.openValue 79 (xs.headD ⟨⟨[]⟩, [], false⟩).h.base c else map.length)
  else
    let sel := if spf 0 = 0 then spf 1 else spf 0
    ((if sel = 0 then kn else keptIn sel kn) + nl - 1) / nl

/-- A schedule under way: the commands, the next copy start, the end of the latest pass, the last D. -/
structure Sched where
  cmds : List (Nat × TileCmd)
  cs : Nat
  ks : Nat
deriving DecidableEq, Repr

/-- The chunks of one run of a product: A and B copies, then the pass (R384). -/
def productRun (w : List Nat) (xs : List Opnd) (map : List Nat) (la lb : Nat → Nat) (ua ub first : Nat) (q : Sched) : Sched :=
  (List.range (tileChunks w)).foldl (fun (q : Sched) c =>
    let st := max q.ks (q.cs + max (la c + ua) (lb c + ub))
    { cmds := q.cmds ++ [(q.cs, .copyIn (first + c)), (st, .pass (first + c))]
      cs := q.cs + max ua ub
      ks := st + beatPeriod (tileFmt w) (tileSr w) * chunkBeats w xs map c }) q

/-- The schedule of a product tile; a dual-pass tile runs twice before its output copy (R384, R455). -/
def State.productSched (s : State) (w : List Nat) (xs : List Opnd) (t cs ks : Nat) : Sched :=
  let a := xs.getD 0 ⟨⟨[]⟩, [], false⟩
  let ua := tileKc w * typeBytes (tileAt w)
  let ub := tileKc w * typeBytes (tileBt w)
  let la := fun c => s.tileLat w (s.productLines w t 0 a c) + (if a.h.layout = 1 || a.t then 0 else 64)
  let lb := fun c => s.tileLat w (s.productLines w t 1 (xs.getD 1 ⟨⟨[]⟩, [], false⟩) c)
  let map := s.tileMap a w ((tileBox w t).1 / 64)
  let q1 := productRun w xs map la lb ua ub 0 ⟨[], cs, ks⟩
  let q2 := if tileDual w then productRun w xs map la lb ua ub (tileChunks w) { q1 with cs := max (q1.ks + 70) q1.cs } else q1
  let o := max (q2.ks + 70) q2.cs
  ⟨q2.cmds ++ [(q2.ks + 64, .drain), (o, .copyOut), (o, .last)], o + 64 * typeBytes (tileCt w), q2.ks⟩

/-- The schedule of an elementwise tile (R465). -/
def State.elementSched (s : State) (w : List Nat) (xs : List Opnd) (t cs ks : Nat) : Sched :=
  let x := fun o => xs.getD o ⟨⟨[]⟩, [], false⟩
  let uc := blockUnits w t 2 (x 2)
  let wait := ([0, 1].filter (tileTakes w)).map fun o =>
    let (r, c, n, m) := tileBlock w t o (x o).h
    s.tileLat w ((x o).lines r c n m) + blockUnits w t o (x o) + (if (x o).t then 64 else 0)
  let e := cs + wait.foldl max 0
  ⟨(if wait.isEmpty then [] else [(cs, .copyIn 0)]) ++ ((List.range uc).map fun u => (e + u, .element u)) ++
    [(e + uc, .copyOut), (e + uc, .last)], e + uc + uc, ks⟩

/-- The schedule of the operations whose cycles the manual does not publish, and of L0: free (R384). [DEDUCED, log 117] -/
def State.freeSched (s : State) (w : List Nat) (xs : List Opnd) (t cs ks : Nat) : Sched :=
  let f := fun k => Config.openValue 78 (s.nReq + t) k
  let mid : List TileCmd := if tileOpc w ≤ 2 then [.drain] else [.element 0]
  let n := if tileOpc w ≤ 2 then (if tileDual w then 2 else 1) * tileChunks w else tileChunks w
  let ins := (List.range n).map fun c => (cs + f c, TileCmd.copyIn c)
  let e := cs + f n
  ⟨(if (s.tileLines w t 0 xs).isEmpty && tileOpc w != 11 then [] else ins) ++ mid.map (fun m => (e, m)) ++ [(e, .copyOut), (e, .last)], e, ks⟩

/-- Whether the manual publishes the cycles of an operation's part; not those of the leader's recombination at L4 (R380, R384, R465).
[DEDUCED, log 117] -/
def published (w : List Nat) : Bool := tileLevel w != 0 && w.length ≤ 4 && [0, 1, 2, 3, 4, 6, 10].contains (tileOpc w)

/-- The cluster that a tile falls to at L0 (R379). [DEDUCED, log 117] -/
def tileCluster (w : List Nat) (t : Nat) : Nat :=
  if tileLevel w = 0 then (tileClusters w).getD (t % max 1 (tileClusters w).length) 0 else 0

/-- The level at which a part finds a fault (R386). -/
def partLevel (w : List Nat) : Nat := if tileLevel w = 0 then 0 else 1

/-- The level of a fault in a tile's operand: the die Splitter of an instruction of L2 and above meets a range of A or B while it stages
what lies in another die's group (R382, R385). [DEDUCED, log 127] -/
def State.faultLevel (s : State) (w : List Nat) (o code : Nat) : Nat :=
  if 2 ≤ tileLevel w ∧ o < 2 ∧ code = 3 then
    match s.tileOpnd w o with
    | .ok x =>
      (match s.tilePage false x.h.base with
        | .ok l => if !l.rpl && regionOf x.h.base = .global && l.pa / groupSpan != coreDie s.focus then 2 else 1
        | .error _ => 1)
    | .error _ => 1
  else partLevel w

/-- A tile begins: it fails its checks, or gets its schedule (R384, R385). A failing part takes no further tile; at L0 the failing
cluster does not. -/
def State.tileBegin (s : State) (p : TilePart) (t : Nat) : State :=
  match (s.tileOpnds p.word t).bind fun xs => (s.streamPages p.word t xs).map fun _ => xs with
  | .error ((code, (r, c), addr), o) =>
    let cl := tileCluster p.word t
    let seen := s.markPeeks ((List.range (o + 1)).flatMap fun o => s.entryLines p.word o)
    (seen.tileFault p.instr code r c o addr (s.faultLevel p.word o code) (s.tileRank p.word) s.focus cl).onPart fun p =>
      { p with
        todo := if tileLevel p.word = 0 then p.todo.tail.filter fun x => tileCluster p.word x != cl else []
        pool := false }
  | .ok xs =>
    let q :=
      if !published p.word then s.freeSched p.word xs t p.cs p.ks
      else if tileOpc p.word ≤ 2 then s.productSched p.word xs t p.cs p.ks
      else s.elementSched p.word xs t p.cs p.ks
    (s.markPeeks (s.peekLines p.word t xs)).onPart fun p =>
      { p with
        cs := q.cs, ks := q.ks, todo := p.todo.tail
        runs := p.runs ++ [⟨t, xs.map fun x => (x.h.words ++ [0, 0, 0, 0]).take 4 ++ x.side, sortBy (fun a b => a.1 ≤ b.1) q.cmds, [], [], [], [], [],
          false, []⟩] }

/-! ## Commands -/

/-- Change a run of the part in focus. -/
def State.onRun (s : State) (t : Nat) (f : TileRun → TileRun) : State :=
  s.onPart fun p => { p with runs := p.runs.map fun r => if r.tile = t then f r else r }

/-- The operands of a run. -/
def TileRun.opnds (r : TileRun) (w : List Nat) : List Opnd :=
  r.ops.zipIdx.map fun (ws, o) => opndOf ws (if o = 0 then tileTa w else if o = 1 then tileTb w else false)

/-- The second run of a dual-pass tile keeps its bytes apart (R455). -/
def dualShift : Nat := 2 ^ 60

/-- The number of an operand read: tile, copy, place among the copy's reads. -/
def tileItem (t c j : Nat) : Nat := (t * 2 ^ 20 + c) * 2 ^ 40 + j

/-- Bytes that have come for a read of a tile. -/
def TileRun.got (r : TileRun) (item : Nat) (d : List Byte) : TileRun :=
  { r with
    data := wrBytes r.data ((r.reads.getD (item / 2 ^ 40 % 2 ^ 20) []).getD (item % 2 ^ 40) (0, 0)).1 d
    owed := r.owed.erase item }

/-- Bytes that have come for the sequencer join their tiles. -/
def Engines.absorbTile (e : Engines) : Engines :=
  let mine := e.delivered.filter fun d => d.1 == 15
  match e.parts with
  | p :: rest =>
    if mine.isEmpty then e
    else
      { e with
        delivered := e.delivered.filter fun d => d.1 != 15
        parts := { p with runs := p.runs.map fun r =>
          (mine.filter fun d => d.2.1 == p.instr && d.2.2.1 / 2 ^ 60 == r.tile).foldl (fun (r : TileRun) d => r.got d.2.2.1 d.2.2.2) r } :: rest }
  | [] => e

/-- The same for the core in focus. -/
def State.absorbTile (s : State) : State := s.onEng Engines.absorbTile

/-- The lines of tgather's second copy: the rows that the indices name (R374). -/
def TileRun.gatherLines (r : TileRun) (w : List Nat) : List (Nat × Nat) :=
  let xs := r.opnds w
  let a := xs.getD 0 ⟨⟨[]⟩, [], false⟩
  let (r0, c0, nr, nc) := tileBox w r.tile
  (List.range nr).flatMap fun i =>
    let x := (xs.getD 1 ⟨⟨[]⟩, [], false⟩).elem r.data 0 0 (r0 + i)
    if x < a.h.rows then a.lines x c0 1 nc else []

/-- One read of an operand: local bytes at once, global ones asked for (R292, R384). [DEDUCED, log 118] -/
def State.tileRead (s : State) (p : TilePart) (t : Nat) (a : TileAsk) : State :=
  let s1 := s.onRun t fun r => { r with asks := r.asks.erase a }
  let got := fun (d : List Byte) => s1.onRun t fun r => r.got a.item d
  match regionOf a.va with
  | .sp off => got (rdBytes s.core.sp off a.len)
  | .acc off => got (rdBytes s.core.acc off a.len)
  | _ =>
    match s.tilePage false a.va with
    | .ok l =>
      s1.sendGlobal 7 a.va (l.phys a.va (coreDie s.focus)) l.rpl (.read a.len (.engine 15 p.instr a.item)) { p.org with unit := 10, slot := 4 } true
    | .error _ => got ((List.range a.len).map fun k => Config.strayByte a.va k)

/-- The reads that a tile asks for in a cycle: a unit on each channel, and all the scale bytes, of channel 2 here (R292, R384). [DEDUCED, log 118] -/
def TileRun.asksNow (r : TileRun) : List TileAsk :=
  (r.asks.find? fun a => a.ch == 0).toList ++ (r.asks.find? fun a => a.ch == 1).toList ++ r.asks.filter fun a => a.ch == 2

/-- The copy write pointers rise by the units of a copy (R383, R384). -/
def State.tileCwp (s : State) (ch n : Nat) : State :=
  s.onEng fun e => { e with cwp := vset e.cwp ch (vget 0 e.cwp ch + BitVec.ofNat 48 n) }

/-- Units that copies of a tile move: A, B and C. -/
def tileUnits (w : List Nat) (r : TileRun) : Nat × Nat × Nat :=
  let x := fun o => (r.opnds w).getD o ⟨⟨[]⟩, [], false⟩
  if tileOpc w ≤ 2 then (tileKc w * typeBytes (tileAt w), tileKc w * typeBytes (tileBt w), 64 * typeBytes (tileCt w))
  else (if tileTakes w 0 then blockUnits w r.tile 0 (x 0) else 0, if tileTakes w 1 then blockUnits w r.tile 1 (x 1) else 0,
    blockUnits w r.tile 2 (x 2))

/-- A tile of the part in focus fails: it goes no further, and the part takes no other (R385). [DEDUCED, log 132] -/
def State.tileFails (s : State) (p : TilePart) (r : TileRun) (code row col opnd addr : Nat) : State :=
  (s.tileFault p.instr code row col opnd addr (partLevel p.word) (s.tileRank p.word) s.focus (tileCluster p.word r.tile)).onPart fun p =>
    { p with todo := [], pool := false, runs := p.runs.map fun x => if x.tile = r.tile then { x with cmds := [], asks := [], owed := [] } else x }

/-- What is wrong with a row that tgather takes: an index that is no row of the table fails at element (r, 0) of C, what lies beyond the table's columns or
on no page at its place in A (R374, R385). [DEDUCED, log 132] -/
def State.gatherBad (s : State) (w : List Nat) (r : TileRun) (i : Nat) : Option (TileBad × Nat) :=
  let xs := r.opnds w
  let a := xs.getD 0 ⟨⟨[]⟩, [], false⟩
  let (r0, c0, _, nc) := tileBox w r.tile
  let x := (xs.getD 1 ⟨⟨[]⟩, [], false⟩).elem r.data 0 0 (r0 + i)
  if a.h.rows ≤ x then some ((3, (r0 + i, 0), (xs.getD 2 ⟨⟨[]⟩, [], false⟩).elemAt (r0 + i) 0), 2)
  else
    match s.blocksOk a false false [(x, c0, 1, nc)] with
    | .error e => some (e, 0)
    | .ok _ => none

/-- Copy c of a tile starts: its reads stand to be asked for, a unit a cycle on each channel; the rows that tgather's indices name are checked
first (R292, R374, R384). [DEDUCED, log 118] -/
def State.tileCopyIn (s : State) (p : TilePart) (r : TileRun) (c : Nat) : State :=
  let n := tileChunks p.word
  let second := tileDual p.word && n ≤ c
  let k := if second then c - n else c
  let gather := tileOpc p.word = 11 && k = 1
  match if gather then (List.range (tileBox p.word r.tile).2.2.1).findSome? (s.gatherBad p.word r) else none with
  | some ((code, (row, col), addr), o) => s.tileFails p r code row col o addr
  | none =>
    let xs := r.opnds p.word
    let units := fun (ch : Nat) (ls : List (Nat × Nat)) => (ls.flatMap fun l => unitsOf l.1 l.2).map fun u => (ch, u)
    let us :=
      units 0 (if gather then r.gatherLines p.word else s.copyLines p.word r.tile k xs 0) ++ units 1 (s.copyLines p.word r.tile k xs 1) ++
      units 2 (scaleReads p.word r.tile k xs)
    let shift := if second then dualShift else 0
    let asks := us.zipIdx.map fun (u, j) => (⟨u.1, tileItem r.tile c j, u.2.1, u.2.2⟩ : TileAsk)
    let (ua, ub, _) := tileUnits p.word r
    ((s.onRun r.tile fun r => { r with
      reads := r.reads ++ [us.map fun u => (u.2.1 + shift, u.2.2)]
      asks := r.asks ++ asks
      owed := r.owed ++ asks.map (·.item) }).tileCwp 0 ua).tileCwp 1 ub

/-- Whether the reads of copies up to c have come. -/
def TileRun.whole (r : TileRun) (c : Nat) : Bool := !(r.owed.any fun i => i / 2 ^ 40 % 2 ^ 20 ≤ c)

/-- The first row and column of the cells that run a tile: at L0 those of its cluster's quadrant (R16). [DESIGN CHOICE, log 140] -/
def tileOrg (w : List Nat) (t : Nat) : Nat × Nat := quadOrg (if tileLevel w = 0 then some (tileCluster w t) else none)

/-- What a run computes from. -/
def State.tileSrc (s : State) (p : TilePart) (r : TileRun) (second : Bool) : TileSrc :=
  let xs := r.opnds p.word
  let a := xs.getD 0 ⟨⟨[]⟩, [], false⟩
  { w := p.word, tile := r.tile, xs := xs, data := r.data, shift := if second then dualShift else 0
    map := s.tileMap a p.word ((tileBox p.word r.tile).1 / 64), kiln := s.kiln, org := tileOrg p.word r.tile
    rows := if a.h.spf = 4 then (List.range (tileK p.word)).map fun k => s.bitmapRow a p.word ((tileBox p.word r.tile).1 / 64) k else []
    imem := s.core.imem }

/-- The cells of the array, or at L0 of the tile's quadrant, after a tile: c1 holds the accumulators, all else is as the passes left it, which
the manual does not state (R16). [DESIGN CHOICE, log 140] -/
def State.tileCells (s : State) (w : List Nat) (t : Nat) (accs : List (List Nat)) : State :=
  let (r, c) := tileOrg w t
  s.onKiln fun k => (List.range (tileSide w)).foldl (fun k i => (List.range (tileSide w)).foldl (fun (k : Kiln) j =>
    let o := fun n => BitVec.ofNat 64 (Config.openValue n (s.nReq + t) (64 * (r + i) + c + j))
    k.setCell (r + i) (c + j) { k.cell (r + i) (c + j) with
      c0 := o 80, c1 := ((accs.getD i [])[j]?).elim (o 81) (BitVec.ofNat 64 ·), t := .bits (o 82), wi := o 83, ni := o 84,
      due := none, blk := .empty }) k) k

/-- What the Briquette records of a condensed pass: elements that overlap in a beat, entries left unread, beats that mix blocks, blocks with
no beat (R137). [DESIGN CHOICE, log 125] -/
def TileSrc.briquette (q : TileSrc) (k : W64) : W64 :=
  let w := q.w
  let bsc := fmtBSC (tileFmt w)
  let named := fun (e : Nat) => (List.range 4).map fun t => let k := fld e (14 * t + 13) (14 * t); if k < tileK w then some k else none
  let block := fun (e : Nat) => ((named e).headD none).map (· / 32)
  let sources := fun (e : Nat) => (named e).map fun k => if bsc && k.map (· / 32) != block e then none else k
  let dropped := (q.map.map fun e => ((List.range 64).map fun i =>
    ((sources e).filter fun k => k.elim false fun k => bit (q.rows.getD k 0) i).length - 1).sum).sum
  let k1 := if dropped = 0 then k else kstatSet k 0 dropped
  let k2 := if bit (q.map.getLast?.getD 0) 63 then k1 else kstatSet k1 1 0
  let k3 := if bsc && q.map.any (fun e => sources e != named e) then kstatSet k2 2 0 else k2
  if bsc && (List.range ((tileK w + 31) / 32)).any (fun b => !(q.map.any fun e => block e == some b)) then kstatSet k3 3 0 else k3

/-- The pass of a chunk: what a condensed one leaves in KSTAT, judged once over the map of all of K (R137, R384). [DESIGN CHOICE, log 125] -/
def State.tilePass (s : State) (p : TilePart) (r : TileRun) (c : Nat) : State :=
  if ((r.opnds p.word).getD 0 ⟨⟨[]⟩, [], false⟩).h.spf = 4 && c % tileChunks p.word == 0 then
    s.onKiln fun k => { k with kstat := (s.tileSrc p r false).briquette k.kstat }
  else s

/-- An element of an L4 product over several members: the partials of the ranks that have a range of K, in rank order under ⊕ in CT; this module's
own is `v`, what lies in another module's memory is open (R374, R380). [DESIGN CHOICE, log 134] -/
def State.recombine (s : State) (w : List Nat) (r c : Nat) (v : FRes) : FRes :=
  let g := s.splitSize w
  if g ≤ 1 then v
  else
    let ranks := (List.range g).filter fun k => (kRange w g k).1 < (kRange w g k).2
    let part := fun (k : Nat) =>
      if k = s.mod.flue.members.idxOf s.mod.flue.self then v
      else (Config.openValue 77 (k * 2 ^ 20 + r) c % 2 ^ (8 * typeBytes (tileCt w)), (0 : BitVec 7))
    (ranks.drop 1).foldl (fun (acc : FRes) k =>
      let x := part k
      let y := reduceStep (tileSr w) (tileCt w) (tileFmt w) acc.1 x.1
      (y.1, acc.2 ||| x.2 ||| y.2)) (part (ranks.headD 0))

/-- The drain of a product tile: its elements of C, its flags, and under DUAL the comparison (R373, R377, R380, R455). -/
def State.tileDrain (s : State) (p : TilePart) (r : TileRun) : State :=
  let q := s.tileSrc p r false
  let (r0, c0, nr, nc) := tileBox p.word r.tile
  let accs := q.accs
  let other := if tileDual p.word then (s.tileSrc p r true).accs else accs
  let el := typeBytes (tileCt p.word)
  let drained := fun (l : List (List (Nat × BitVec 7))) => l.map fun row => row.map fun x => let d := drainTo p.word x.1; (d.1, x.2 ||| d.2)
  let at_ := fun (l : List (List (Nat × BitVec 7))) (x : Nat) => (l.getD (x / nc) []).getD (x % nc) (0, 0)
  let mine := drained accs
  let theirs := drained other
  let diff := (List.range (nr * nc)).find? fun x => (at_ mine x).1 != (at_ theirs x).1
  let whole := (List.range (nr * nc)).map fun x => s.recombine p.word (r0 + x / nc) (c0 + x % nc) (at_ mine x)
  let fl := (mine ++ theirs ++ [whole]).foldl (fun acc l => l.foldl (fun a x => a ||| x.2) acc) (0 : BitVec 7)
  let s1 := (s.onTile p.instr fun y => { y with flags := y.flags ||| fl }).tileCells p.word r.tile (other.map fun l => l.map (·.1))
  match diff with
  | some x =>
    let s2 := s1.tileFault p.instr 7 (r0 + x / nc) (c0 + x % nc) 2 0 (partLevel p.word) (s.tileRank p.word) s.focus (tileCluster p.word r.tile)
    (s2.countError 7 s.focus s.core.task.launchId.toNat true).onRun r.tile fun r => { r with outs := [] }
  | none =>
    s1.onRun r.tile fun r =>
      { r with outs := ((r.opnds p.word).getD 2 ⟨⟨[]⟩, [], false⟩).writeBlock r0 c0 nr nc fun i j => leBytes (whole.getD ((i - r0) * nc + (j - c0)) (0, 0)).1 el }

/-- The element unit's first unit: what the tile writes is formed, with its flags; an overrun fails it (R374, R465). -/
def State.tileElement (s : State) (p : TilePart) (r : TileRun) : State :=
  let q := s.tileSrc p r false
  if tileOpc p.word = 9 && q.field.flt.getLsbD 63 then s.tileFails p r 6 r.tile 0 255 0
  else
    let (outs, fl) := q.results
    (s.onTile p.instr fun y => { y with flags := y.flags ||| fl }).onRun r.tile fun r => { r with outs := outs }

/-- A unit of the tile leaves for C: to global memory by the memory system, to a local store when its bank is free (R80, R292, R384).
[DEDUCED, log 118] -/
def State.tileUnitOut (s : State) (p : TilePart) (r : TileRun) (u : Nat × List Byte) : State :=
  let s1 := s.onRun r.tile fun r => { r with outs := r.outs.tail }
  let put := fun (acc : Bool) (off : Nat) =>
    if s.core.bankFree (b2n acc) off then
      s1.onCore fun k => { k with oppUsed := k.oppUsed ++ [(b2n acc, bankOf (b2n acc) off)], engWrites := k.engWrites ++ [(acc, off, u.2)] }
    else s
  match regionOf u.1 with
  | .sp off => put false off
  | .acc off => put true off
  | _ =>
    match s.tilePage true u.1 with
    | .ok l =>
      let id := s.core.gid
      (s1.sendGlobal 7 u.1 (l.phys u.1 0) l.rpl (.write u.2) { p.org with unit := 10, slot := 4 } true).onRun r.tile fun r => { r with wids := r.wids ++ [id] }
    | .error _ => s1

/-- The tile's copy to C starts: its units leave one a cycle (R292, R384). [DEDUCED, log 118] -/
def State.tileCopyOut (s : State) (p : TilePart) (r : TileRun) : State :=
  (s.onRun r.tile fun r => { r with leaving := true }).tileCwp 0 (tileUnits p.word r).2.2

/-- The units that the copies of the tiles under way move in a cycle: the reads that are asked for, and one unit of the first tile that has units
leaving (R292, R384). [DEDUCED, log 118] -/
def State.tileFlow (s : State) : State :=
  match s.core.eng.parts with
  | [] => s
  | p :: _ =>
    let s1 := p.runs.foldl (fun (st : State) r => r.asksNow.foldl (fun st a => st.tileRead p r.tile a) st) s
    match p.runs.find? fun r => r.leaving && !r.outs.isEmpty with
    | none => s1
    | some r => r.outs.head?.elim s1 (s1.tileUnitOut p r)

/-- Whether a command of a run can be carried out. -/
def TileCmd.able (c : Core) (p : TilePart) (r : TileRun) : TileCmd → Bool
  | .copyIn k => tileOpc p.word != 11 || k == 0 || r.owed.isEmpty
  | .pass k => r.whole k
  | .drain => r.owed.isEmpty
  | .element _ => r.owed.isEmpty
  | .copyOut => true
  | .last => r.outs.isEmpty && !(c.gacc.any fun g => r.wids.contains g.id)

/-- The effect of a command. -/
def State.tileCmd (s : State) (p : TilePart) (r : TileRun) (k : TileCmd) : State :=
  match k with
  | .copyIn c => s.tileCopyIn p r c
  | .pass c => s.tilePass p r c
  | .drain => s.tileDrain p r
  | .element u => if u = 0 then s.tileElement p r else s
  | .copyOut => s.tileCopyOut p r
  | .last => s.onPart fun p => { p with runs := p.runs.filter fun x => x.tile != r.tile }

/-- The next command of a run, when it is due and can be carried out. -/
def TileRun.next (c : Core) (p : TilePart) (r : TileRun) : Option TileCmd :=
  match r.cmds with
  | (t, k) :: _ => if t ≤ c.tcc && k.able c p r then some k else none
  | [] => none

/-- Carry out the due commands of the kind wanted, run by run; `fuel` bounds their number. -/
def State.tileRunCmds (s : State) (elem : Bool) : Nat → State
  | 0 => s
  | fuel + 1 =>
    match s.core.eng.parts with
    | [] => s
    | p :: _ =>
      match p.runs.findSome? fun r => (r.next s.core p).bind fun k => if (match k with | .element _ => true | _ => false) = elem then some (r, k) else none with
      | none => s
      | some (r, k) =>
        let s1 := s.onRun r.tile fun x => { x with cmds := x.cmds.tail }
        (s1.tileCmd p r k).tileRunCmds elem fuel

/-- Whether the next tile of a part can begin. -/
def Core.tileDue (c : Core) : Option (TilePart × Nat) :=
  match c.eng.parts with
  | p :: _ =>
    (match p.todo with
      | t :: _ => if p.t0.isSome && p.cs ≤ c.tcc + 16 && (published p.word || p.runs.isEmpty) then some (p, t) else none
      | [] => none)
  | [] => none

/-- SEQUENCER_COMMAND_ISSUE: a tile begins 16 cycles before its first command, the commands that are due are carried out, and the copies under way
move their units (R292, R384). -/
def execSequencerCommandIssue (s : State) : Out :=
  let s1 := s.absorbTile
  let s2 := match s1.core.tileDue with
    | some (p, t) => s1.tileBegin p t
    | none => s1
  .next (s2.tileRunCmds false 64).tileFlow

/-- ELEMENT_UNIT_STEP: the element unit writes output unit u in cycle E + u (R465). -/
def execElementUnitStep (s : State) : Out := .next (s.absorbTile.tileRunCmds true 64)

/-! ## The end of a part (R383, R384) -/

/-- Whether the part on the core has ended: no tile is left or under way. -/
def Core.partOver (c : Core) : Bool :=
  match c.eng.parts with
  | p :: _ => p.t0.isSome && p.todo.isEmpty && !p.pool && p.runs.all fun r => r.cmds.isEmpty
  | [] => false

/-- The bytes of the staging tail, which the manual leaves open after a part (R382). [DESIGN CHOICE, log 126] -/
def Core.staging (c : Core) (k : Nat) : Nat × List Byte :=
  let top := 65536 * c.task.spUnits
  let n := min top (2 ^ 20)
  (top - n, (List.range n).map fun i => BitVec.ofNat 8 (Config.openValue 85 k i))

/-- TILE_PART_COMPLETE: the ring registers and configurations are as at T0, and the part counts as ended (R383, R384). The staging tail's
bytes are open after a part that began a tile (R382). [DESIGN CHOICE, log 126] -/
def execTilePartComplete (s : State) : Out :=
  if !s.core.partOver then .next s
  else
    match s.core.eng.parts with
    | [] => .next s
    | p :: _ =>
      let s1 := s.onEng fun e =>
        { e with
          parts := e.parts.tail
          rings := Vector.ofFn fun i => p.rings.getD i.val (vget .none e.rings i.val)
          kiln := { e.kiln with quadCfg := p.quadCfg, shadow := p.shadow } }
      let (k, s2) := s1.takeReq
      let used := tileOpc p.word < 12 && (!published p.word || p.t0 != some (p.cs - 16))
      let s3 := if used then s2.onCore fun c => { c with sp := wrBytes c.sp (c.staging k).1 (c.staging k).2 } else s2
      .next (s3.onTile p.instr fun x => { x with left := x.left.erase s.focus })

/-! ## Completion (R377, R386, R387) -/

/-- A fault's place among those of one time: RANK, DIE, DCORE and CLUS as one number (R387). -/
def TileFault.path (f : TileFault) : Nat := f.rank * 2 ^ 12 + coreDie f.core * 2 ^ 10 + dieCore f.core * 4 + f.clus

/-- The primary fault of several (R387). -/
def primaryFault (l : List TileFault) : Option TileFault :=
  (sortBy (fun (a b : TileFault) => a.ts < b.ts || (a.ts == b.ts && a.path ≤ b.path)) l).head?

/-- The words of a summary (R386). -/
def summaryWords (opc more : Nat) (f : TileFault) : List Nat :=
  [2 ^ 63 + f.code * 2 ^ 48 + f.level * 2 ^ 45 + f.rank * 2 ^ 28 + coreDie f.core * 2 ^ 26 + dieCore f.core * 2 ^ 18 + f.clus * 2 ^ 16 + opc * 2 ^ 8,
    f.col * 2 ^ 32 + f.row, f.addr, f.ts, f.opnd * 2 ^ 32 + satU 32 more]

/-- Bytes of the completion area, and the change of its first word, wherever the area stands (R377). [DEDUCED, log 137] -/
def State.tileArea (s : State) (x : TileInstr) (writes : List (Nat × Nat)) (code : Nat) : State :=
  match s.placeOf x.core fun t => t.launchId == x.launch with
  | none => s
  | some (pl0, c) =>
    let pl := ownPlace pl0 c
    match regionOf (tileCw x.word) with
    | .sp off =>
      let grp := 2 ^ 62 + 2 * x.id
      let s1 := writes.foldl (fun st w => st.deposit x.core pl 3 grp false (off + w.1) (leBytes w.2 8) .none) s
      s1.deposit x.core pl 3 grp false off [] (.complete off code)
    | _ =>
      let put := fun (st : State) (va v : Nat) =>
        match ((c.eng.pins.lookup (tilePin x.id)).getD []).find? fun l => l.va ≤ va && va < l.va + l.size with
        | some l =>
          if st.meetsPoison (l.phys va 0) l.rpl 8 true then (st.later [.uncorrectableError (errorAt 4 (l.phys va 0 / 64 * 64))])
          else st.memWrite (l.phys va 0) l.rpl (leBytes v 8)
        | none => st
      let get := fun (st : State) (va : Nat) =>
        match ((c.eng.pins.lookup (tilePin x.id)).getD []).find? fun l => l.va ≤ va && va < l.va + l.size with
        | some l => rdLE st.mem (l.phys va (coreDie x.core)) 8
        | none => 0
      let s1 := writes.foldl (fun st w => put st (tileCw x.word + w.1) w.2) s
      put s1 (tileCw x.word) (completeWord (get s1 (tileCw x.word)) code)

/-- An instruction completes: flag word, summary, completion word, in that order; its pages are released (R377, R387). -/
def State.tileFinish (s : State) (x : TileInstr) : State :=
  let f := primaryFault x.faults
  let words := (f.map (summaryWords (tileOpc x.word) (x.faults.length - 1))).getD []
  let code := (f.map TileFault.code).getD 0
  let s1 := s.tileArea x ((8, x.flags.toNat) :: words.zipIdx.map fun (v, k) => (16 + 8 * k, v)) code
  let s2 := s1.onIssuer x fun c =>
    { c with eng := { c.eng.unpin (tilePin x.id) with tileFail := if code = 0 then c.eng.tileFail else BitVec.ofNat 64 (words.headD 0) } }
  s2.onMod fun m => { m with
    tiles := m.tiles.filter fun y => y.id != x.id
    launches := m.launches.map fun l => if x.record ∧ l.id = x.launch ∧ code ≠ 0 then { l with result := code } else l }

/-- Whether every child has ended; when those on other members of an L4 group end is open (R377, R380, R385). [DESIGN CHOICE, log 134] -/
def State.tileEnded (s : State) (x : TileInstr) : Bool :=
  x.started && x.left.isEmpty && (s.splitSize x.word ≤ 1 || !x.faults.isEmpty || 12 ≤ tileOpc x.word || Config.openValue 99 s.wall x.id % 2 == 1)

/-- The marks that an instruction's parts have set count as published once it completes: its completion word is an acquire of its writes
(R113, R116, R377). [DEDUCED, log 136] -/
def State.publishTile (s : State) (x : TileInstr) : State :=
  (s.tileCores x).foldl (fun st i =>
    let c := st.coreAt i
    { st with tags := publishTags st.tags i c.writeLog }.setCore i { c with writeLog := [] }) s

/-- TILE_COMPLETE: every child has ended (R377, R385). [DEDUCED, log 136] -/
def execTileComplete (id : Nat) (s : State) : Out :=
  match s.tileInstr id with
  | some x => .next (if s.tileEnded x then (if tileOpc x.word < 12 then s.publishTile x else s).tileFinish x else s)
  | none => .next s

/-- An instruction of a launch that ends early completes with TILE_ABORT (R388). -/
def State.tileAbort (s : State) (x : TileInstr) : State :=
  s.tileFinish { x with faults := [⟨8, 0, 0, 255, 0, s.ts.toNat, tileLevel x.word, 0, x.core, 0⟩] }

/-! ## What is due -/

/-- A part whose pass, or whose element unit's start, needs units that have not come (R384, R355): lateness code. -/
def Core.tileLate (c : Core) : Option (TilePart × Nat) :=
  match c.eng.absorbTile.parts with
  | p :: _ =>
    if !published p.word then none
    else p.runs.findSome? fun r =>
      match r.cmds with
      | (t, .pass k) :: _ => if t ≤ c.tcc && !r.whole k then some (p, 3) else none
      | (t, .element 0) :: _ => if t ≤ c.tcc && !r.owed.isEmpty then some (p, 4) else none
      | _ => none
  | [] => none

/-- The steps of the sequencer in a cycle. -/
def Core.tileEvents (c : Core) : List Instr :=
  match c.eng.parts with
  | [] => []
  | p :: _ =>
    if p.t0.isNone then (if c.unitsIdle then [.tilePartStart] else [])
    else
      (if c.claims then [.tileClaim] else []) ++ [.sequencerCommandIssue] ++
      (if p.runs.any fun r => r.cmds.any fun k => k.1 ≤ c.tcc && (match k.2 with | .element _ => true | _ => false) then [.elementUnitStep, .sequencerCommandIssue] else []) ++
      (if c.partOver then [.tilePartComplete] else [])

/-- Whether a part keeps the task's stream from issuing at all: it runs on a core that did not issue it (R383). -/
def Core.tilePause (c : Core) : Bool :=
  match c.eng.parts with
  | p :: _ => p.t0.isSome && !p.issuer
  | [] => false

/-- The steps of the Splitters that are due (R376, R377). -/
def State.splitEvents (s : State) : List Instr :=
  ((s.mod.tiles.filter s.tileReady).map fun x => Instr.tileSplit x.id) ++
  ((s.mod.tiles.filter s.tileEnded).map fun x => .tileComplete x.id)

end Sys2Proof.Machine
end

