-- ==== Sys2Proof/Machine/Late.lean ====
section
/-! DEFINITION. Late items, holds and their records (R355 to R360). -/

namespace Sys2Proof.Machine

/-- A copy whose follow-on command's cycle it is, with units not yet written (R294). -/
def Core.followLate (c : Core) (k : Copy) : Bool := k.follow == some c.tcc && k.written < k.count

/-- The rings as they stand in the coming cycle: TAIL writes and HEAD moves that land at its start are made (R83, R289, R325). -/
def Core.ringsLanded (c : Core) : Core :=
  (sortBy landBefore (c.pend.filter c.landsNow)).foldl (fun k p =>
    match p.act with
    | .csr num v => if 0x048 ≤ num.toNat ∧ num.toNat ≤ 0x04F then k.ringTailWrite (BitVec.ofNat 3 (num.toNat - 0x048)) v else k
    | .ringHead _ _ => k.landOne p
    | _ => k) c

/-- The landing items of the coming cycle that are late: replies whose due cycle has come and whose value has not, ring tiles at a
pass start, units that a stream reads or a tile's command needs, the last unit of a follow-on copy (R230, R321, R140, R294, R355,
R383). [DEDUCED, log 33] -/
def Core.lateReplies (c : Core) : List Late :=
  (c.pend.filterMap fun p =>
    match p.act with
    | .scalar _ none => if p.tcc ≤ c.tcc then some ⟨if p.unit = 13 then 8 else 1, p.org, 0, .result p.seq, none⟩ else none
    | _ => none) ++
  ((c.eng.kiln.passes.filter fun p => p.start == c.tcc && c.ringsLanded.ringShort p).map fun p => ⟨3, p.org, 0, .ring p.id, none⟩) ++
  ((c.eng.kiln.passes.filter fun p => p.start ≤ c.tcc && c.tcc < p.retire && c.streamShort p).map fun p =>
    ⟨4, p.org, 0, .stream p.id, none⟩) ++
  (c.tileLate.toList.map fun (p, code) => ⟨code, p.org, 0, .tile p.instr, none⟩) ++
  ((c.eng.copies.filter c.followLate).map fun k => ⟨5, k.org, 0, .follow (BitVec.ofNat 1 k.ch), none⟩)

/-- Late items in the order of R358: by unit of origin, then in issue order. [DEDUCED, log 30] -/
def lateOrder (l : List Late) : List Late :=
  sortBy (fun a b => a.org.unit * 2 ^ 80 + a.org.tcc * 4 + a.org.slot ≤ b.org.unit * 2 ^ 80 + b.org.tcc * 4 + b.org.slot) l

/-- Whether an item has become available (R356). -/
def State.needMet (s : State) : Need → Bool
  | .result seq =>
    !(s.core.pend.any fun p => p.seq == seq && (match p.act with | .scalar _ none => true | _ => false))
  | .page va r w =>
    (s.core.tlb.any fun l => l.serves s.core.task.asid va r w) ||
    s.core.walks.any fun x => pageOf x.va == pageOf va && x.read == r && x.write == w && x.failed.isSome
  | .wbuf => s.core.writeRoom
  | .refetch t => t ≤ s.wall
  | .relock => (vget .reset s.mod.hub.isl (islandOf s.focus)).relock.isNone
  | .alarm => !s.mod.hub.held
  | .ring p => !(s.core.eng.kiln.passes.any fun x => x.id == p && s.core.ringsLanded.ringShort x)
  | .stream p => !(s.core.eng.kiln.passes.any fun x => x.id == p && s.core.streamShort x)
  | .follow ch => !(s.core.eng.copies.any fun k => k.ch == ch.toNat && s.core.followLate k)
  | .copyUnit id u => !(s.core.eng.copies.any fun k => k.id == id && k.written ≤ u)
  | .sps => !(s.core.eng.sps.any fun x => x.due ≤ s.core.tcc && !x.counted && !s.core.eng.spsWhole x)
  | .tile id => !(s.core.tileLate.any fun x => x.1.instr == id)
  | .handle va _ _ _ _ => (s.core.fetched va).isSome

/-- What holds every core of an island or of the module, whatever LATE is set to: a relock under way, and an alarm's hold (R20, R464).
[DEDUCED, log 32] -/
def State.imposed (s : State) : List Late :=
  (if (vget .reset s.mod.hub.isl (islandOf s.focus)).relock.isSome then [⟨11, ⟨15, 0, 0, s.core.tcc⟩, 0, .relock, none⟩] else []) ++
  (if s.mod.hub.held then [⟨0, .zero, 0, .alarm, none⟩] else [])

/-- A core is held by what is imposed on it. [DEDUCED, log 32] -/
def State.imposedHold (s : State) (items : List Late) : State :=
  { s with
    core := { s.core with mode := .hold, hold := some (s.core.newHold s.ts items s.core.mode), cycleOpen := false }
    agenda := [] }

/-- The start of a core cycle under a hold: items that have come since are marked with the cycles they took; with one still
missing the cycle is held (R356, R358). What is imposed meanwhile joins them (R20, R464). [DEDUCED, log 31] -/
def State.holdCycle (s : State) (h : Hold) : Hold :=
  let more := s.imposed.filter fun l => !(h.items.any fun x => x.need == l.need && x.arrived.isNone)
  let items := (h.items ++ more).map fun l => if l.arrived.isNone && s.needMet l.need then { l with arrived := some h.cycles } else l
  { h with items := items, cycles := h.cycles + (if items.all fun l => l.arrived.isSome then 0 else 1) }

/-- Landing items under FAULT: the task stops at the start of the cycle, and each item writes its record (R357 to R359). -/
def State.timingStop (s : State) (items : List Late) : State :=
  let c := items.foldl (fun (k : Core) l => k.lateRecord s.focus s.ts l true 0) s.core
  let code := (items.headD ⟨0, .zero, 0, .alarm, none⟩).code
  { s with
    core := c.beginStop
      { cause := some .timing, reason := code, slot := 0, done := 0, stallRem := 0, faddr := 0, finfo := 0,
        resumable := true, after := false, org := .zero }
    agenda := [] }

/-- SCHED_CTL in the coming cycle: a write that lands at its start is made (R325, R352). [DEDUCED, log 59] -/
def Core.schedNow (c : Core) : BitVec 4 :=
  (sortBy landBefore (c.pend.filter c.landsNow)).foldl (fun v p =>
    match p.act with
    | .csr num w => if num.toNat = 0x080 then w.setWidth 4 else v
    | _ => v) c.schedCtl

/-- Items that need the coming cycle and are late in it hold the core, or stop it (R355 to R357). [DEDUCED, log 59] -/
def State.lateLanding (s : State) (items : List Late) : State :=
  match lateOrder items with
  | [] => s
  | l :: ls =>
    if s.core.schedNow.getLsbD 0 then s.timingStop (l :: ls)
    else { s with
      core := { s.core with mode := .hold, hold := some (s.core.newHold s.ts (l :: ls) s.core.mode), cycleOpen := false }
      agenda := [] }

/-- The record of an item of a hold, which a refetch and an alarm do not write (R359, R453, R464). [DEDUCED, log 29] -/
def Core.heldRecord (c : Core) (src : Nat) (h : Hold) (l : Late) (lost : Nat) : Core :=
  match l.need with
  | .refetch _ => c
  | .alarm => c
  | _ => c.lateRecord src h.ts l false lost

/-- One cycle of a hold: the items that have come by its start write their records (R356, R358, R359). [DEDUCED, log 30] -/
def State.heldCycle (s : State) (h : Hold) : State :=
  let h1 := s.holdCycle h
  let come := h1.items.filter fun l => l.arrived == some h.cycles
  s.onCore fun c => { come.foldl (fun k l => k.heldRecord s.focus h l h.cycles) c with hold := some h1 }

/-- The hold cycles of the sampler after a hold, those of a hold that this one lengthens counted once (R429). -/
def Core.heldTrace (c : Core) (h : Hold) : Trace :=
  { c.trace with holdN := c.trace.holdN + (h.cycles - c.held.elim 0 (·.2)) }

/-- A stop takes the core out of a hold: the items that have not come write their records, and are judged again on resume (R358,
R359). [DEDUCED, log 29; DEDUCED, log 172] -/
def Core.leaveHold (c : Core) (src : Nat) : Core :=
  match c.hold with
  | some h =>
    { (h.items.filter fun l => l.arrived.isNone).foldl (fun k l => k.heldRecord src h l h.cycles) c with
      mode := h.back, hold := none, trace := c.heldTrace h }
  | none => c

/-- HOLD_END: every item has come; the held cycle goes on as scheduled. What turns out late in the same cycle lengthens the hold
(R356, R358). -/
def execHoldEnd (s : State) : Out :=
  match s.core.hold with
  | some h =>
    if h.items.all fun l => l.arrived.isSome then
      .next (s.onCore fun c => { c with
        mode := h.back, hold := none, held := some (h.ts, h.cycles), trace := c.heldTrace h })
    else .next s
  | none => .next s

end Sys2Proof.Machine
end

