-- ==== Sys2Proof/Machine/Cycle.lean ====
section
/-! DEFINITION. The cycle of a core: what falls due in it and in which order, and how one cycle follows another (R36, R41, R97, R237, R357, R416). -/

namespace Sys2Proof.Machine

/-! ## The end of a cycle -/

/-- Whether two bookings of one cycle conflict and belong to different requesters (R81). [DEDUCED, log 100] -/
def Booking.rivals (a b : Booking) : Bool :=
  a != b && !(a.unit == b.unit && a.slot == b.slot && a.bundle == b.bundle) && Booking.clash a b

/-- The bookings of the present cycle that conflict with that of another requester (R81). [DEDUCED, log 100] -/
def Core.conflicts (c : Core) : List Booking :=
  let now := c.banks.filter fun b => b.tcc == c.tcc
  now.filter fun a => now.any a.rivals

/-- The bank conflict that the record of the stop names: the first met in the present cycle (R81, R419). [DEDUCED, log 100] -/
def Core.conflict (c : Core) : Option (Booking × Booking) :=
  c.conflicts.findSome? fun a => (c.conflicts.find? a.rivals).map (a, ·)

/-- Whether a pending item is what a booking of the present cycle was made for: a write performs in it, a read was issued in it, or
samples one of its groups in it (R240, R364). -/
def Pend.booked (p : Pend) (b : Booking) (now : Nat) : Bool :=
  p.unit == b.unit && p.org.slot == b.slot &&
  (if b.write then p.act.onBytes && p.tcc == now
    else p.org.tcc == now || (match p.act with | .vgather _ _ => p.org.tcc ≤ now && now ≤ p.org.tcc + 3 | _ => false))

/-- The pending items of a conflicting slot are gone, and the result of an atomic among them (R81). -/
def Core.dropSlot (c : Core) (b : Booking) : Core :=
  let gone := c.pend.filter fun p => p.booked b c.tcc
  let orphan := fun (p : Pend) => p.act.open_ && gone.any fun g => (match g.act with | .spAmo _ _ r => r == some p.seq | _ => false)
  { c with pend := c.pend.filter fun p => !p.booked b c.tcc && !orphan p }

/-- What the engines' conflicting accesses of the present cycle have done is undone: the writes to a row, the bytes that a copy's unit or a
stream has read, and the Y that an eload has set (R81). What a Kiln pass or an erest reads reaches a cell in a later cycle, which the
stopped core never runs. -/
def Core.dropEngine (c : Core) (b : Booking) : Core :=
  let copy := c.eng.copies.find? fun k => b.unit == 10 && k.id == b.bundle
  let items := (copy.map fun k => if k.turnsLocal then (k.line (k.issued - 1)).2.map (·.1) else (List.range 64).map fun i => 64 * (k.issued - 1) + i).getD []
  let of := fun (cmd item : Nat) => cmd == b.bundle && items.contains item
  { c with
    engWrites := if b.write then c.engWrites.filter fun w => !(w.1 == (b.store == 1) && bankOf b.store w.2.1 == (b.bank, b.row)) else c.engWrites
    eng := { c.eng with
      delivered := c.eng.delivered.filter fun d =>
        !(!b.write && (d.1 == 10 && of d.2.1 d.2.2.1 || b.unit == 11 && d.1 == 11 && d.2.1 == b.bundle))
      copies := c.eng.copies.map fun k => { k with
        units := k.units.map fun x => if !b.write && items.any (fun i => k.id == b.bundle && i / 64 == x.u) then { x with parts := [], need := x.need + 1 } else x }
      ember := { c.eng.ember with
        cells := (c.eng.ember.loaded.filter fun x => b.unit == 12 && b.slot == 5 && !b.write && x.1 == b.tcc && x.2.1 == b.bundle).foldl
          (fun m x => sset .zero m x.2.2.1 { sget .zero m x.2.2.1 with y := x.2.2.2 }) c.eng.ember.cells } } }

/-- What a conflicting requester would have done does not happen (R81). [DEDUCED, log 27] -/
def Core.dropConflict (c : Core) (b : Booking) : Core := if b.slot < 4 then c.dropSlot b else c.dropEngine b

/-- The task ends on a bank conflict; it is not resumable. None of the conflicting accesses of the cycle performs (R81, R420). [DEDUCED, log 27] -/
def Core.conflictStop (c : Core) (a b : Booking) : Core :=
  { c.conflicts.foldl Core.dropConflict c with
    stopAsked := some
      { cause := some .bankConflict, reason := 0, slot := 0, done := 0, stallRem := 0, faddr := c.tcc, finfo := Booking.info a b,
        resumable := false, after := true, org := .zero } }

/-- Whether the next cycle is the walker's, in which SCC does not rise (R36, R41). -/
def Core.walksNext (c : Core) : Bool := c.theWalk.isSome && c.stall == 0 && c.wait.isNone

/-- The cycle ends: writes perform, and the counters rise (R36, R97). [DEDUCED, log 16; DEDUCED, log 27] -/
def Core.endCycle (c : Core) : Core :=
  let c0 := match c.conflict with
    | some (a, b) => c.conflictStop a b
    | none => c
  let c1 := c0.perform
  { c1 with
    cycleOpen := false
    held := none
    tcc := c1.tcc + 1
    scc := if c1.walksNext then c1.scc else c1.scc + 1
    banks := c1.banks.filter fun b => c1.tcc < b.tcc }

/-! ## The start of a cycle -/

/-- Whether a stop asked for takes the core now. A pre-emption that comes between a segend and the next segment waits for the delay bundles
and the walk, unless the task waits in a delay bundle or has halted in one (R42, R44); a debug stop waits for the walk alone, whose end is
the next bundle boundary (R424). [DEDUCED, log 37; DESIGN CHOICE, log 176] -/
def Core.stopNow (c : Core) (st : Stop) : Bool :=
  c.mode == .halted || c.wait.isSome || c.tilePause ||
  match st.cause with
  | none => c.walk.isNone && c.seg.ending.isNone
  | some .debugHalt => c.theWalk.isNone
  | some .step => c.theWalk.isNone
  | _ => true

/-- Accesses of the core that may perform now (R113). -/
def State.accessEvents (s : State) : List Instr :=
  (s.core.gacc.filter s.ready).map fun g =>
    if g.repl && g.act.writes then .replicatedStoreCommit g.id else .globalAccessPerform g.id

/-- Push stores that have come to the core (R78). -/
def State.pushEvents (s : State) : List Instr :=
  (s.mod.pushes.filter s.pushReady).map fun p => .pushStoreArrival p.id

/-- The steps of the memory system that are due at the core in focus. -/
def State.memoryEvents (s : State) : List Instr :=
  s.accessEvents ++ s.pushEvents ++ s.statEvents ++
  ((s.core.walks.filter fun w => w.arrive ≤ s.wall && w.failed.isNone).map fun _ => .translationWalk) ++
  (if s.core.fences.any s.fenceMet then [.fencePerform] else [])

/-- Whether the wait of a core is on a word of the register window, which is compared in every cycle (R237). [DEDUCED, log 173] -/
def Core.waitsOnCsr (c : Core) : Bool :=
  match c.wait with
  | some (.word _ ea _ _ _) => (match regionOf ea with | .csr _ => true | _ => false)
  | _ => false

/-- The step of the stream in this cycle: none while a stall runs or another core's tile instruction has the core; else the end of a
wait, a walk, or a position (R35, R41, R237, R383). A wait is watched in stall cycles too. [DEDUCED, log 51; DEDUCED, log 173] -/
def State.streamEvents (s : State) : List Instr :=
  let c := s.core
  let next : List Instr := if 0 < c.stall then [] else if c.theWalk.isSome then [.segmentWalk] else [c.positionEvent]
  if c.tilePause then []
  else if c.wait.isNone then next
  else if c.parked then (if c.waitsOnCsr || s.waitOver then [.waitEnd] else []) ++ (if 0 < c.stall then [] else [c.positionEvent])
  else if c.waitsOnCsr then [.waitEnd]
  else if s.waitOver then .waitEnd :: next
  else []

/-- The engines' steps in a cycle, after the stream's: a fault of a slot withholds them (R357). [DEDUCED, log 51] -/
def Core.engineEvents (c : Core) : List Instr :=
  c.eng.kiln.earlyEvents c.tcc ++
  ((c.eng.copies.filter fun k => k.follow == some c.tcc).map fun k => .followOnIssue (BitVec.ofNat 1 k.ch)) ++
  c.eng.kiln.passEvents c.tcc ++ c.eng.ember.events c.tcc ++ c.spsEvents ++
  ((List.range 2).flatMap fun ch => if (c.requesting ch).isSome then [.copyUnitRequest (BitVec.ofNat 1 ch)] else []) ++
  c.fabEvents ++ c.tileEvents

/-- What receives in every cycle, held cycles among them: copy units that have come, and opportunistic requests (R80, R356).
[DEDUCED, log 28; DEDUCED, log 51; DEDUCED, log 58] -/
def Core.receiveEvents (c : Core) : List Instr :=
  ((List.range 2).flatMap fun ch => if c.eng.copies.any fun k => k.ch == ch then [.copyUnitWritten (BitVec.ofNat 1 ch)] else []) ++
  (if c.opp.isEmpty then [] else [.opportunisticWrite])

/-- A cycle begins in which everything due happens. [DEDUCED, log 51] -/
def State.openCycle (s : State) (stream : List Instr) : State :=
  { s with
    core := { s.core with
      cycleOpen := true
      stall := s.core.stall - 1
      trace := { s.core.trace with
        stallN := s.core.trace.stallN + (if 0 < s.core.stall then 1 else 0)
        waitN := s.core.trace.waitN + (if s.core.wait.isSome then 1 else 0) } }
    agenda := [.resultLand] ++ s.core.spsEarly ++ stream ++ s.core.engineEvents ++ s.memoryEvents ++ s.core.receiveEvents }

/-- Whether a cause is that of a debug stop (R416). -/
def Cause.debug (c : Cause) : Bool := c == .debugHalt || c == .brk || c == .step

/-- Whether a member of a barrier will not arrive: it has halted, or stops on a fault or a trap (R39). [DEDUCED, log 18] -/
def State.lost (s : State) (i : Nat) : Bool :=
  let c := s.coreAt i
  let bad := fun (st : Stop) => st.cause.any fun x => !x.debug
  match c.mode with
  | .halted => true
  | .stopping => c.stop.any bad
  | .stopped => c.stop.any fun st => st.halted || bad st
  | _ => false

/-- The slot of a bar at which the core waits and whose barrier cannot complete, or has been dissolved (R39). [DEDUCED, log 18] -/
def State.orphaned (s : State) : Option Nat :=
  match s.core.wait with
  | some (.bar r slot none) =>
    (match s.mod.barriers.find? fun b => b.slot == s.core.task.slot && b.rect == r with
      | none => some slot
      | some b => if b.rect.cores.any fun i => !b.arrived.contains i && s.lost i then some slot else none)
  | _ => none

/-- The core takes BAR_ORPHAN, and the barrier is dissolved (R39). [DEDUCED, log 18] -/
def State.orphan (s : State) (slot : Nat) : State :=
  let s1 := match s.core.wait with
    | some (.bar r _ _) =>
      { s with mod := { s.mod with barriers := s.mod.barriers.filter fun b => !(b.slot == s.core.task.slot && b.rect == r) } }
    | _ => s
  s1.onCore fun c => c.orphanStop slot

/-- A core that runs, or has halted, starts its next cycle: a race, a stop asked for that takes it now, an orphaned barrier and an imposed
hold come first, then lateness (R20, R39, R41, R114, R357, R416, R464). [DEDUCED, log 32] -/
def State.beginRun (s : State) : State :=
  let stream := if s.core.mode = .halted then [] else s.streamEvents
  if s.core.gacc.any fun g => g.raced.isSome then { s with agenda := [.raceException] }
  else
    match s.core.stopAsked.filter s.core.stopNow, s.orphaned with
    | some st, _ => s.onCore fun c => c.beginStop st
    | none, some slot => s.orphan slot
    | none, none =>
      if !s.imposed.isEmpty && s.core.stall == 0 then s.imposedHold s.imposed
      else if s.core.lateReplies.isEmpty then s.openCycle stream
      else { s with agenda := [.lateItem] }

/-- LATE_ITEM (R355 to R357). -/
def execLateItem (s : State) : Out := .next (s.lateLanding s.core.lateReplies)

/-- Whether an access can still perform without a further step of the core; the word of a wait is read for as long as the wait lasts.
[DEDUCED, log 36] -/
def State.canPerform (s : State) (g : GAccess) : Bool :=
  g.act != .later && g.act != .read 8 .wait && g.raced.isNone && s.core.lets g

/-- Whether a channel still has to write, or to see written, a unit whose bytes have come; one that waits for a free ring slot does
not count (R84, R362). [DEDUCED, log 36; DEDUCED, log 58] -/
def State.unitOwed (s : State) (ch : Nat) : Bool :=
  let s0 := s.onEng Engines.absorbCopies
  match s0.core.eng.copies.find? fun c => c.ch == ch && (c.written < c.count || !c.raised) with
  | none => false
  | some c =>
    c.written == c.count || c.units.head?.any s0.unitDone ||
      (c.units.find? fun x => !x.sent).any fun x => x.parts.length == x.need && s0.core.slotFree c x.u

/-- Whether a stopping core has drained: every reply has come, but for a raced access and what stands behind it (R114, R362). [DEDUCED, log 36] -/
def State.drained (s : State) : Bool :=
  !(s.unitOwed 0) && !(s.unitOwed 1) &&
  !(s.core.gacc.any s.canPerform) && !(s.core.fences.any s.fenceMet) && s.core.opp.isEmpty && s.core.eng.fab.stats.isEmpty &&
  (s.core.walks.all fun w => w.failed.isSome) &&
  (s.core.fences.isEmpty || !(s.mod.pushes.any fun p => p.src == s.focus && !s.pushHeld p))

/-- A core starts its next cycle, by what it is doing (R41). -/
def State.beginCycle (s0 : State) : State :=
  let s := s0.onCore fun c => { c with oppUsed := [] }
  match s.core.mode with
  | .run => s.beginRun
  | .halted => s.beginRun
  | .hold =>
    match s.core.hold with
    | some h =>
      if s.core.gacc.any fun g => g.raced.isSome then { (s.onCore fun c => c.leaveHold s.focus) with agenda := [.raceException] }
      else
        match s.core.stopAsked.filter s.core.stopNow with
        | some st => s.onCore fun c => (c.leaveHold s.focus).beginStop st
        | none =>
          let s1 := s.heldCycle h
          { s1 with agenda := s1.memoryEvents ++ s1.core.receiveEvents ++
              (if s1.core.hold.any fun x => x.items.all fun l => l.arrived.isSome then [.holdEnd] else []) }
    | none => s
  | .stopping => { s with agenda := s.memoryEvents ++ s.core.receiveEvents ++ (if s.drained then [.coreStop] else []) }
  | .restoring => { s with agenda := [.contextResume] }
  | _ => { s with agenda := s.pushEvents }

/-- Whether a core takes cycles: it has a task that is not stopped, or a push store is on its way to it. -/
def State.working (s : State) (i : Nat) (c : Core) : Bool :=
  (c.mode != .off && c.mode != .stopped) || s.mod.pushes.any fun p => p.tgt == i

/-- The cores at work, by index. [DEDUCED, log 1] -/
def State.atWork (s : State) : List Nat :=
  let rest := s.others.filterMap fun e => if s.working e.1 e.2 then some e.1 else none
  if s.working s.focus s.core then s.focus :: rest else rest

/-- Bring another core into focus. -/
def State.refocus (s : State) (i : Nat) : State :=
  if i = s.focus then s
  else { s with
    core := sget .zero s.others i
    focus := i
    others := sset .zero (sset .zero s.others s.focus s.core) i .zero }

end Sys2Proof.Machine
end

