-- ==== Sys2Proof/Machine/Frame.lean ====
section
/-! DEFINITION. Context frames: writing a stopped core's image, its fault record and shadow buffer, and resuming from it (R416 to R425). -/

namespace Sys2Proof.Machine

/-! ## Small steps of the hub that stops share -/

/-- A launch's FAULTMAP bit becomes 1, which raises vector 64 (R395, R407, R416). -/
def State.setFaultmap (s : State) (slot : Nat) : State :=
  let w := vget 0 s.mod.host.faultmap (slot / 64)
  if w.getLsbD (slot % 64) then s
  else (s.onMod fun m => { m with
    host := { m.host with faultmap := vset m.host.faultmap (slot / 64) (w ||| BitVec.ofNat 64 (2 ^ (slot % 64))) } }).raiseMsix 64

/-- The address of the debug block of core i (R409, R424). -/
def debugBlock (i : Nat) : Nat := ctxBase + 0x50000 + 32 * i

/-- The address of the trace block of core i (R409, R427). -/
def traceBlock (i : Nat) : Nat := ctxBase + 0x60000 + 64 * i

/-- The address of the frame entry of a launch slot and a core (R409). -/
def frameEntry (slot i : Nat) : Nat := ctxBase + 0x100000 + 2048 * slot + 2 * i

/-- The state and frame number in STAT of a debug block, its RESULT kept (R424). [DEDUCED, log 47] -/
def State.debugState (s : State) (i st frame : Nat) : State :=
  let old := rdLE s.mem (debugBlock i + 16) 8
  { s with mem := wrLE s.mem (debugBlock i + 16) 8 (fld old 15 8 * 256 + st + frame * 2 ^ 32) }

/-- RESULT in STAT of a debug block (R424). -/
def State.debugResult (s : State) (i res : Nat) : State :=
  let old := rdLE s.mem (debugBlock i + 16) 8
  { s with mem := wrLE s.mem (debugBlock i + 16) 8 (old / 65536 * 65536 + res * 256 + old % 256) }

/-- A frame entry (R409). -/
def State.setFrameEntry (s : State) (slot i v : Nat) : State := { s with mem := wrLE s.mem (frameEntry slot i) 2 v }

/-! ## What an image holds (R418 to R422) -/

/-- The first three pending positions; none while the walker has still to find the next (R35, R419). [DEDUCED, log 40] -/
def Core.fqWord (c : Core) : Nat :=
  if c.theWalk.isSome then 0 else ((c.fq.take 3).zipIdx.map fun (p, k) => (2 ^ 15 + b2n p.null * 2 ^ 14 + p.idx.toNat) * 2 ^ (16 * k)).sum

/-- Whether a cause is a race (R114). -/
def isRace (c : Option Cause) : Bool := c == some .raceRw || c == some .raceWw || c == some .raceWr

/-- Word 0 of the fault record (R419). -/
def faultWord0 (st : Stop) : Nat :=
  b2n st.resumable * 2 ^ 63 + st.cause.elim 0 Cause.code * 2 ^ 48 + st.reason % 65536 * 2 ^ 32 + st.slot % 4 * 2 ^ 30
    + st.done.toNat * 2 ^ 26 + st.stallRem % 16

/-- Words 0 to 11 of the fault record, DIGEST apart (R419). -/
def Core.faultWords (c : Core) (st : Stop) : List Nat :=
  let r := isRace st.cause
  [faultWord0 st, c.tcc, c.fqWord, (stackWord c.pstack).toNat, c.stagePreds.toNat, st.faddr, st.finfo, c.mulBusy, c.fpsBusy, 0,
    if r then st.org.slot % 4 * 2 ^ 14 + st.org.bundle.toNat else 0, if r then st.org.tcc else 0]

/-- An entry of the shadow result buffer: KIND, UNIT, INDEX, LEN, TCC, ADDR, value (R422). -/
structure Shadow where
  kind : Nat
  unit : Nat
  index : Nat
  len : Nat
  tcc : Nat
  addr : Nat
  value : Nat
deriving DecidableEq, Repr

/-- The lanes of a scattered write in ascending address order. -/
def byAddress (cells : List (Nat × W32)) : List (Nat × W32) := sortBy (fun a b => a.1 ≤ b.1) cells

/-- The entry that stands for a pending item; items that are part of an engine's state have none (R422). [DEDUCED, log 38] -/
def Core.shadowOf (c : Core) (p : Pend) : Option Shadow :=
  let mk := fun (kind index len addr v : Nat) => some (⟨kind, p.unit, index, len, p.tcc, addr, v⟩ : Shadow)
  match p.act with
  | .csr num v => mk 10 num.toNat 0 0 v.toNat
  | .scalar _ (some v) => mk 0 0 0 0 v.toNat
  | .scalar _ none => none
  | .vector v => mk 1 0 0 0 v.toNat
  | .embVector _ _ => none
  | .vgather _ v => mk 1 0 0 0 (v % 2 ^ 2048)
  | .reg idx v => mk 2 idx.toNat 0 0 v.toNat
  | .vreg idx v => mk 2 (32 + idx.toNat) 0 0 v.toNat
  | .breg idx v => mk 7 idx.toNat 0 0 v.toNat
  | .pstack st => mk 5 0 0 0 (stackWord st).toNat
  | .level which l => mk 6 (if which then 4 else 0) 0 0 l.ctlWord.toNat
  | .lcnt which v => mk 6 (if which then 4 else 0) 0 0 v.toNat
  | .loopPend st f l =>
    let lo := { c.loops with
      pendStages := st.getD c.loops.pendStages
      pendFirst := f.getD c.loops.pendFirst
      pendLast := l.getD c.loops.pendLast }
    mk 6 8 0 0 lo.pendWord.toNat
  | .cond v => mk 8 0 0 0 v.toNat
  | .fmt v => mk 9 0 0 0 v.toNat
  | .spWrite a n v => mk 3 0 (n - 1) a (v % 2 ^ (8 * n))
  | .accWrite a n v => mk 4 0 (n - 1) a (v % 2 ^ (8 * n))
  | .spLanes cells =>
    let up := byAddress cells
    mk 3 0 (4 * up.length - 1) ((up.headD (0, 0)).1) (ofLanes (up.map (·.2)))
  | .spAmo a op _ => mk 3 0 (op.width - 1) a (amoNew op (rdLE c.sp a op.width))
  | .accAdd a v f => mk 4 0 255 a (accStep f (vecAt c.acc a) v).1.toNat
  | .ringHead _ _ => none
  | .cwpReset _ => none

/-- The pending items in the order of the buffer (R348, R422). -/
def Core.pendOrder (c : Core) : List Pend :=
  sortBy (fun a b => a.tcc < b.tcc || (a.tcc == b.tcc && landBefore a b)) c.pend

/-- The entries of items in the order of the buffer, each with the value it has when those before it have performed: an atomic's old word
is the value of its result's entry (R362). [DEDUCED, log 38] -/
def Core.shadowsFrom (c : Core) : List Pend → List (Shadow × Pend)
  | [] => []
  | p :: r =>
    let now := (c.pend.find? fun q => q.seq == p.seq).getD p
    let rest := (c.performOne now).shadowsFrom r
    match c.shadowOf now with
    | some e => (e, p) :: rest
    | none => rest

/-- The slot writes that perform before a cycle are made. -/
def Core.settled (c : Core) (t : Nat) : Core := (c.pendOrder.filter fun p => p.act.onBytes && p.tcc < t).foldl Core.performOne c

/-- An item with its value: a vldx whose later groups are still to be sampled has the bytes that the writes before their cycles leave
(R240, R362). [DEDUCED, log 38] -/
def Core.withGroups (c : Core) (p : Pend) : Pend :=
  match p.act with
  | .vgather addrs v =>
    { p with act := .vgather addrs ((List.range 3).foldl (fun v k =>
        if c.tcc ≤ p.org.tcc + k + 1 then v % 2 ^ (512 * (k + 1)) + gatherGroup (c.settled (p.org.tcc + k + 1)).sp addrs (k + 1) else v) v) }
  | _ => p

/-- The buffer's entries with the items they stand for. -/
def Core.shadows (c : Core) : List (Shadow × Pend) := { c with pend := c.pend.map c.withGroups }.shadowsFrom c.pendOrder

/-- Word 0 of an entry (R422). -/
def Shadow.word0 (e : Shadow) : Nat := e.kind + e.unit % 16 * 16 + e.index % 4096 * 2 ^ 8 + e.len % 512 * 2 ^ 20

/-- Words laid out from an offset. -/
def wordsAt (off : Nat) (ws : List Nat) : Nat × List Byte := (off, ws.flatMap fun w => leBytes w 8)

/-- Vectors laid out from an offset. -/
def vectorsAt (off : Nat) (vs : List VReg) : Nat × List Byte := (off, vs.flatMap fun v => leBytes v.toNat 256)

/-- The offset of entry k of the buffer (R418). [DEDUCED, log 39] -/
def shadowAt (k : Nat) : Nat := 0x1040 + 320 * k

/-- The 320 bytes of an entry (R422). -/
def Shadow.image (e : Shadow) : List Byte :=
  leBytes e.word0 8 ++ leBytes e.tcc 8 ++ leBytes e.addr 8 ++ List.replicate 40 0 ++ leBytes e.value 256

/-- The buffer's parts: the count, each entry, and zeros where no entry stands. [DEDUCED, log 39] -/
def Core.shadowParts (c : Core) : List (Nat × List Byte) :=
  let es := c.shadows.map fun e => e.1.image
  (0x1000, leBytes es.length 8 ++ List.replicate 56 0) ::
    (List.range 48).map fun k => (shadowAt k, es.getD k (List.replicate 320 0))

/-- The bytes of T (R418). A transient that is no plain word stands as the device encodes it. [DESIGN CHOICE, log 45] -/
def TVal.image (t : TVal) (now idx : Nat) : Nat :=
  match t with
  | .bits v => v.toNat
  | .raw v => v.toNat
  | _ => Config.openValue 61 now idx % 2 ^ 128

/-- A Kiln cell as the image lays it out, its opaque bytes apart (R418). [DESIGN CHOICE, log 45] -/
def Cell.image (x : Cell) (now idx : Nat) : List Byte :=
  leBytes x.c0.toNat 8 ++ leBytes x.c1.toNat 8 ++ leBytes (x.t.image now idx) 16 ++ leBytes x.wi.toNat 8 ++ leBytes x.ni.toNat 8 ++
    leBytes (x.u % 16 + b2n x.valid * 16) 1

/-- An Ember cell as the image lays it out (R418). -/
def ECell.image (x : ECell) : List Byte :=
  leBytes (ofInt 32 x.y) 4 ++ leBytes (ofInt 32 x.r) 4 ++ leBytes x.cnt.toNat 4 ++ leBytes (ofInt 32 x.z) 4

/-- The registers' parts of an image (R418). -/
def Core.registerParts (c : Core) : List (Nat × List Byte) :=
  let r := c.regs
  [wordsAt 0x5000 ((List.range 32).map fun i => (c.readN i).toNat),
   wordsAt 0x5100 (r.sq.toList.map BitVec.toNat),
   wordsAt 0x5180 (r.sLatch.toList.map BitVec.toNat),
   wordsAt 0x5200 ((r.b.toList ++ r.x.toList).map BitVec.toNat),
   wordsAt 0x5280 (r.sPort.toList.map BitVec.toNat),
   vectorsAt 0x6000 r.v.toList, vectorsAt 0x7000 r.vq.toList, vectorsAt 0x7800 r.vLatch.toList, vectorsAt 0x7C00 r.vPort.toList,
   wordsAt 0x8000 ((List.range 4096).map fun n => ((c.csrRead n).getD 0).toNat)]

/-- The sources kept for the slots not done; zero for the others (R418). -/
def Core.captureParts (c : Core) : List (Nat × List Byte) :=
  (List.range 4).map fun k => (0x400 + 256 * k, leBytes ((c.captured.lookup k).getD 0).toNat 256)

/-- The defined areas of the engines (R418). -/
def Core.engineParts (c : Core) : List (Nat × List Byte) :=
  ((List.range 4096).map fun k => (0x20000 + 64 * k, (sget Cell.zero c.eng.kiln.cells k).image c.tcc k)) ++
  ((List.range 256).map fun k => (0xF0000 + 16 * k, (sget ECell.zero c.eng.ember.cells k).image)) ++
  [wordsAt 0xF1000 ((List.range 256).map fun k => (sget (0 : W64) c.eng.ember.patch k).toNat)]

/-- The footprints and the task block (R416, R418). -/
def Core.storeParts (c : Core) : List (Nat × List Byte) :=
  [(0x400000, rdBytes c.sp 0 (65536 * c.task.spUnits)), (0x400000 + taskBlock, rdBytes c.sp taskBlock 128),
   (0x800000, rdBytes c.acc 0 (65536 * c.task.accUnits))]

/-- The opaque areas: offset and length (R418). -/
def opaqueAreas : List (Nat × Nat) :=
  [(0x10000, 0x10000)] ++ ((List.range 4096).map fun k => (0x20000 + 64 * k + 49, 15)) ++
  [(0x60000, 0x50000), (0xB0000, 0x10000), (0xC0000, 0x30000), (0xF1800, 0xE800)]

/-- The opaque areas as the device fills them: its own encoding, free here. [DESIGN CHOICE, log 45] -/
def opaqueParts (k : Nat) : List (Nat × List Byte) :=
  opaqueAreas.map fun (off, n) => (off, (List.range n).map fun i => BitVec.ofNat 8 (Config.openValue 60 k (off + i)))

/-- Parts written at a base. -/
def writeParts (m : Mem) (base : Nat) (ps : List (Nat × List Byte)) : Mem := ps.foldl (fun m p => wrBytes m (base + p.1) p.2) m

/-- The digest of an image: over its opaque areas, or for a suspended launch over all below 0x40_0000 but DIGEST (R418). [DEDUCED, log 46] -/
def imageDigest (m : Mem) (base : Nat) (whole : Bool) : W64 :=
  Config.digest (if whole then rdBytes m base 72 ++ rdBytes m (base + 80) (0x400000 - 80)
    else opaqueAreas.flatMap fun a => rdBytes m (base + a.1) a.2)

/-- The image of a core in its frame (R416, R418). -/
def Core.writeImage (c : Core) (st : Stop) (k : Nat) (m : Mem) : Mem :=
  let base := c.frameBase
  let m1 := writeParts m base (wordsAt 0 ((c.faultWords st ++ List.replicate 128 0).take 128) :: c.captureParts ++ c.shadowParts ++
    c.registerParts ++ c.engineParts ++ opaqueParts k ++ c.storeParts)
  wrLE m1 (base + 72) 8 (imageDigest m1 base st.cause.isNone).toNat

/-! ## Stopping (R416) -/

/-- The launch that holds a slot. -/
def State.launchAt (s : State) (slot : Nat) : Option Launch := s.mod.launches.find? fun l => l.slot == slot

/-- Change the launch that holds a slot. -/
def State.onLaunch (s : State) (slot : Nat) (f : Launch → Launch) : State :=
  s.onMod fun m => { m with launches := m.launches.map fun l => if l.slot = slot then f l else l }

/-- The frame reserved for a core of its launch (R417). -/
def State.frameOf (s : State) (slot i : Nat) : Nat := ((s.launchAt slot).bind fun l => l.frames.lookup i).getD 0

/-- CORE_STOP: a drained core writes its image into its frame, sets its frame entry, and tells the driver of any stop but a
pre-emption (R362, R395, R416, R424). [DEDUCED, log 47] -/
def execCoreStop (s : State) : Out :=
  match s.core.stop with
  | none => .next s
  | some st =>
    if s.core.mode ≠ .stopping ∨ !s.drained then .next s
    else
      let slot := s.core.task.slot
      let f := s.frameOf slot s.focus
      let (k, s1) := s.takeReq
      let c := { s1.core with mode := .stopped, frame := f, heldLeaves := [], held := none, bindRead := none, skipBrk := false, stepOne := false }
      let c1 := c.traceRec s.ts s.focus 4 [BitVec.ofNat 64 (faultWord0 st), (c.nextIdx.setWidth 64)]
      let s2 := { s1 with core := c1, mem := c.writeImage st k s1.mem }.setFrameEntry slot s.focus (f + 1)
      .next (if st.cause.isNone then s2 else (s2.debugState s.focus 1 f).setFaultmap slot)

/-! ## Reading an image back (R423, R425) -/

/-- A loop level with its control word replaced (R226). -/
def Level.loadCtl (l : Level) (v : Nat) : Level :=
  { l with
    active := bit v 63
    stages := BitVec.ofNat 3 (fld v 50 48)
    sp := BitVec.ofNat 8 (fld v 47 40)
    pend := if bit v 32 then some (BitVec.ofNat 32 v) else none
    count := if bit v 32 then l.count else BitVec.ofNat 32 v }

/-- A loop level with its range replaced (R226). -/
def Level.loadRange (l : Level) (v : Nat) : Level :=
  { l with first := BitVec.ofNat 14 v, last := BitVec.ofNat 14 (v / 65536) }

/-- A ring with its configuration replaced (R82). -/
def Ring.loadCfg (r : Ring) (v : Nat) : Ring :=
  { r with v := bit v 63, feed := fld v 59 58, tileU := fld v 57 48 + 1, slots := fld v 47 40 + 1, base := fld v 23 0 }

/-- A domain with its register replaced (R149); the phase of a periodic one stands. -/
def EDom.load (d : EDom) (v now : Nat) : EDom :=
  let p := fld v 55 39
  { mode := match fld v 62 61 with
      | 1 => .periodic (if p = 0 then 65536 else p) (match d.mode with | .periodic _ e => e | _ => now)
      | 2 => .counted p
      | _ => .stopped
    steps := BitVec.ofNat 39 v }

/-- A ring's pointers replaced (R82). -/
def Ring.loadPtr (r : Ring) (v : Nat) : Ring := { r with head := BitVec.ofNat 32 v, tail := BitVec.ofNat 32 (v / 2 ^ 32) }

/-- One ring replaced. -/
def Core.setRing (c : Core) (i : Nat) (r : Ring) : Core := { c with eng := { c.eng with rings := vset c.eng.rings i r } }

/-- One Ember domain replaced. -/
def Core.setDom (c : Core) (i : Nat) (d : EDom) : Core :=
  { c with eng := { c.eng with ember := { c.eng.ember with doms := vset c.eng.ember.doms i d } } }

/-- A control/status register takes a word from the image (R418, R425). -/
def Core.csrLoad (c : Core) (num : Nat) (v : W64) : Core :=
  let e := c.eng
  let n := v.toNat
  if 0x040 ≤ num ∧ num ≤ 0x047 then c.setRing (num - 0x040) ((c.ring (num - 0x040)).loadCfg n)
  else if 0x048 ≤ num ∧ num ≤ 0x04F then c.setRing (num - 0x048) ((c.ring (num - 0x048)).loadPtr n)
  else if 0x060 ≤ num ∧ num ≤ 0x063 then c.setDom (num - 0x060) ((vget ⟨.stopped, 0⟩ e.ember.doms (num - 0x060)).load n c.tcc)
  else if 0x084 ≤ num ∧ num ≤ 0x087 then { c with devLast := vset c.devLast (num - 0x084) v }
  else if 0x0A0 ≤ num ∧ num ≤ 0x0A3 then { c with bkpt := vset c.bkpt (num - 0x0A0) v }
  else
    match num with
    | 0x001 => { c with scc := v.setWidth 48 }
    | 0x002 => { c with fmt := v.setWidth 32 }
    | 0x003 => { c with fstat := v.setWidth 7 }
    | 0x004 => { c with cond := v }
    | 0x010 => { c with tcls := v.setWidth 3 }
    | 0x011 => { c with pflag := v.setWidth 24 }
    | 0x012 => { c with vpeer := v.setWidth 11 }
    | 0x013 => { c with vpscale := v.setWidth 32 }
    | 0x014 => { c with thbase := v }
    | 0x020 => { c with eng := { e with cwp := vset e.cwp 0 (v.setWidth 48) } }
    | 0x021 => { c with eng := { e with cwp := vset e.cwp 1 (v.setWidth 48) } }
    | 0x030 => { c with raceStat := v }
    | 0x031 => { c with raceAddr := v }
    | 0x050 => { c with eng := { e with kiln := { e.kiln with kstat := v } } }
    | 0x064 => { c with eng := { e with ember := { e.ember with flt := v } } }
    | 0x070 => { c with loops := { c.loops with outer := c.loops.outer.loadCtl n } }
    | 0x071 => { c with loops := { c.loops with outer := c.loops.outer.loadRange n } }
    | 0x074 => { c with loops := { c.loops with inner := c.loops.inner.loadCtl n } }
    | 0x075 => { c with loops := { c.loops with inner := c.loops.inner.loadRange n } }
    | 0x078 => { c with loops := { c.loops with
        pendStages := BitVec.ofNat 3 (fld n 34 32), pendFirst := BitVec.ofNat 14 n, pendLast := BitVec.ofNat 14 (n / 65536) } }
    | 0x080 => { c with schedCtl := v.setWidth 4 }
    | 0x081 => { c with devCnt := v.setWidth 32 }
    | 0x082 => { c with devLost := v }
    | _ => c

/-- Bits that may be nonzero in a register (R5, R56, R85, R115, R139, R154, R252, R295, R426). [DEDUCED, log 43] -/
def csrMask (num : Nat) : Nat :=
  if 0x0A0 ≤ num ∧ num ≤ 0x0A3 then 2 ^ 63 + 0x3FFF
  else
    match num with
    | 0x001 => 2 ^ 48 - 1
    | 0x002 => 2 ^ 18 - 1
    | 0x003 => 2 ^ 7 - 1
    | 0x010 => 7
    | 0x011 => 2 ^ 24 - 1
    | 0x012 => 2 ^ 11 - 1
    | 0x013 => 2 ^ 32 - 1
    | 0x014 => thbaseMask
    | 0x030 => 2 ^ 52 - 1 - 0xF * 2 ^ 32
    | 0x031 => 2 ^ 57 - 64
    | 0x050 => 0xFFFF00000F
    | 0x064 => 2 ^ 64 - 1 - 0xFF * 2 ^ 39
    | 0x080 => 15
    | 0x081 => 2 ^ 32 - 1
    | _ => 2 ^ 64 - 1

/-- One register of the image: unchanged, or loaded, or refused for a reserved bit (R425). TCC stands in word 1. [DEDUCED, log 43] -/
def Core.csrFrom (c : Core) (num : Nat) (v : W64) : Option Core :=
  match c.csrRead num with
  | none => some c
  | some old =>
    if num = 0x000 ∨ old = v then some c
    else
      let c1 := c.csrLoad num v
      if c1.csrRead num = some v ∧ Nat.land v.toNat (csrMask num) = v.toNat ∧ (num ≠ 0x002 ∨ !fmtBad v) then some c1 else none

/-- Every register of the image, two at a time where one is read through the other. [DEDUCED, log 43] -/
def Core.csrsFrom (c : Core) (rd : Nat → Nat → Nat) : Option Core :=
  (List.range 0x0A4).foldlM (fun k n => k.csrFrom n (BitVec.ofNat 64 (rd (0x8000 + 8 * n) 8))) c

/-- The registers of the image (R418, R425). -/
def Core.regsFrom (c : Core) (rd : Nat → Nat → Nat) : Core :=
  let w := fun (off : Nat) => BitVec.ofNat 64 (rd off 8)
  let v := fun (off : Nat) => BitVec.ofNat 2048 (rd off 256)
  { c with
    regs :=
      { n := Vector.ofFn fun i => w (0x5000 + 8 * i.val)
        sq := Vector.ofFn fun i => w (0x5100 + 8 * i.val)
        sLatch := Vector.ofFn fun i => w (0x5180 + 8 * i.val)
        b := Vector.ofFn fun i => w (0x5200 + 8 * i.val)
        x := Vector.ofFn fun i => w (0x5220 + 8 * i.val)
        sPort := Vector.ofFn fun i => w (0x5280 + 8 * i.val)
        v := Vector.ofFn fun i => v (0x6000 + 256 * i.val)
        vq := Vector.ofFn fun i => v (0x7000 + 256 * i.val)
        vLatch := Vector.ofFn fun i => v (0x7800 + 256 * i.val)
        vPort := Vector.ofFn fun i => v (0x7C00 + 256 * i.val) } }

/-- A Kiln cell from the image; what is unchanged stands (R425). [DESIGN CHOICE, log 45] -/
def Cell.fromImage (x : Cell) (rd : Nat → Nat → Nat) (off now idx : Nat) : Cell :=
  let t := rd (off + 16) 16
  { x with
    c0 := BitVec.ofNat 64 (rd off 8)
    c1 := BitVec.ofNat 64 (rd (off + 8) 8)
    t := if t = x.t.image now idx then x.t else if t < 2 ^ 64 then .bits (BitVec.ofNat 64 t) else .raw (BitVec.ofNat 128 t)
    wi := BitVec.ofNat 64 (rd (off + 32) 8)
    ni := BitVec.ofNat 64 (rd (off + 40) 8)
    u := if rd (off + 48) 1 % 16 = x.u % 16 then x.u else rd (off + 48) 1 % 16
    valid := bit (rd (off + 48) 1) 4 }

/-- An Ember cell from the image (R425). -/
def ECell.fromImage (rd : Nat → Nat → Nat) (off : Nat) : ECell :=
  ⟨sInt 32 (rd off 4), sInt 32 (rd (off + 4) 4), BitVec.ofNat 32 (rd (off + 8) 4), sInt 32 (rd (off + 12) 4)⟩

/-- The engines' defined areas and the stores from the image (R425). -/
def Core.storesFrom (c : Core) (rd : Nat → Nat → Nat) (m : Mem) (base : Nat) : Core :=
  let k := c.eng.kiln
  let e := c.eng.ember
  { c with
    eng := { c.eng with
      kiln := { k with cells := (List.range 4096).foldl (fun l i =>
        sset .zero l i ((sget .zero l i).fromImage rd (0x20000 + 64 * i) c.tcc i)) k.cells }
      ember := { e with
        cells := (List.range 256).foldl (fun l i => sset .zero l i (ECell.fromImage rd (0xF0000 + 16 * i))) e.cells
        patch := (List.range 256).foldl (fun l i => sset 0 l i (BitVec.ofNat 64 (rd (0xF1000 + 8 * i) 8))) e.patch } }
    sp := wrBytes (wrBytes c.sp 0 (rdBytes m (base + 0x400000) (65536 * c.task.spUnits))) taskBlock
      (rdBytes m (base + 0x400000 + taskBlock) 128)
    acc := wrBytes c.acc 0 (rdBytes m (base + 0x800000) (65536 * c.task.accUnits)) }

/-- An item whose entry has another value (R425). -/
def PendAct.withValue (a : PendAct) (v : Nat) : PendAct :=
  let w := BitVec.ofNat 64 v
  match a with
  | .csr n _ => .csr n w
  | .scalar l _ => .scalar l (some w)
  | .vector _ => .vector (BitVec.ofNat 2048 v)
  | .embVector _ _ => .vector (BitVec.ofNat 2048 v)
  | .vgather _ _ => .vector (BitVec.ofNat 2048 v)
  | .reg i _ => .reg i w
  | .vreg i _ => .vreg i (BitVec.ofNat 2048 v)
  | .breg i _ => .breg i w
  | .pstack _ => .pstack (stackOf v (fld v 20 16))
  | .level b l => .level b (l.loadCtl v)
  | .lcnt b _ => .lcnt b (BitVec.ofNat 32 v)
  | .loopPend _ _ _ => .loopPend (some (BitVec.ofNat 3 (fld v 34 32))) (some (BitVec.ofNat 14 v)) (some (BitVec.ofNat 14 (v / 65536)))
  | .cond _ => .cond w
  | .fmt _ => .fmt (BitVec.ofNat 32 v)
  | .spWrite a n _ => .spWrite a n v
  | .accWrite a n _ => .accWrite a n v
  | .spLanes cells => .spLanes ((byAddress cells).zipIdx.map fun (c, k) => (c.1, BitVec.ofNat 32 (v / 2 ^ (32 * k))))
  | .spAmo a op _ => .spWrite a op.width v
  | .accAdd a _ _ => .accWrite a 256 v
  | x => x

/-- Bytes of an entry's value (R422). -/
def Shadow.bytes (e : Shadow) : Nat :=
  if e.kind = 3 ∨ e.kind = 4 then e.len + 1 else if e.kind = 1 ∨ (e.kind = 2 ∧ 32 ≤ e.index) then 256 else 8

/-- Whether an edited value sets no reserved bit of what it is the value of, and is one that its register can hold (R5, R56, R212, R226,
R425). [DEDUCED, log 41] -/
def PendAct.valueOk (a : PendAct) (v : Nat) : Bool :=
  match a with
  | .csr n _ => Nat.land v (csrMask n.toNat) == v
  | .pstack _ => v < 2 ^ 21 && fld v 20 16 ≤ 16 && fld v 15 0 < 2 ^ fld v 20 16
  | .level _ _ => fld v 62 51 == 0 && fld v 39 33 == 0
  | .lcnt _ _ => v < 2 ^ 32
  | .loopPend _ _ _ => v < 2 ^ 35 && fld v 31 30 == 0 && fld v 15 14 == 0
  | .fmt _ => v < 2 ^ 18 && !fmtBad (BitVec.ofNat 64 v)
  | _ => true

/-- The entries of the image, their 64 bytes of fields and 256 of value, against the items they must stand for: values may differ, entries
may be missing, and nothing else (R425). The items kept, with their values; one whose entry is as it was stands as it was. [DEDUCED, log 41] -/
def matchShadows : List (Nat × Nat) → List (Shadow × Pend) → Option (List (Pend × Nat))
  | [], _ => some []
  | _ :: _, [] => none
  | (fields, v) :: ms, (e, p) :: r =>
    if fields = e.word0 + e.tcc * 2 ^ 64 + e.addr * 2 ^ 128 then
      if v = e.value then (matchShadows ms r).map fun l => (p, v) :: l
      else if v < 2 ^ (8 * e.bytes) ∧ p.act.valueOk v then (matchShadows ms r).map fun l => ({ p with act := p.act.withValue v }, v) :: l
      else none
    else matchShadows ((fields, v) :: ms) r

/-- Items kept; a result whose atomic is kept no more, or has another value, takes the value of its own entry. [DEDUCED, log 41] -/
def keepItems (l : List (Pend × Nat)) : List Pend :=
  l.map fun (p, v) =>
    let fed := l.any fun q => (match q.1.act with | .spAmo _ _ r => r == some p.seq | _ => false)
    if p.act.open_ && !fed then { p with act := p.act.withValue v } else p

/-- Whether the buffer holds no byte but its count and its entries: what follows those that were saved is still zero (R425). [DEDUCED, log 41] -/
def bufferClean (rd : Nat → Nat → Nat) (saved : Nat) : Bool :=
  rd 0x1008 56 == 0 && (List.range 48).all fun k => k < saved || rd (shadowAt k) 320 == 0

/-- The pending items from the image (R425). [DEDUCED, log 41] -/
def Core.pendFrom (c : Core) (rd : Nat → Nat → Nat) : Option Core :=
  let n := rd 0x1000 8
  if c.shadows.length < n || !bufferClean rd c.shadows.length then none
  else
    let es := (List.range n).map fun k => (rd (shadowAt k) 64, rd (shadowAt k + 64) 256)
    (matchShadows es c.shadows).map fun l =>
      { c with pend := (c.pend.filter fun p => !(c.shadows.any fun x => x.2.seq == p.seq)) ++ keepItems l }

/-- The positions of an FQ word (R419). [DEDUCED, log 40] -/
def positionsOf (w : Nat) : List Pos :=
  (List.range 3).filterMap fun k =>
    let p := fld w (16 * k + 15) (16 * k)
    if bit p 15 then some { Pos.plain (BitVec.ofNat 14 p) with null := bit p 14 } else none

/-- Whether the record's reserved bits are zero (R419, R425). [DEDUCED, log 43] -/
def recordClean (rd : Nat → Nat → Nat) : Bool :=
  fld (rd 0 8) 62 56 == 0 && fld (rd 0 8) 25 4 == 0 && rd 16 8 / 2 ^ 48 == 0 && rd 32 8 / 256 == 0 && rd 80 8 / 65536 == 0 &&
  ((List.range 116).all fun k => rd (96 + 8 * k) 8 == 0)

/-- Whether the reserved bits of the patch table are zero (R144, R425). [DEDUCED, log 43] -/
def patchClean (rd : Nat → Nat → Nat) : Bool := (List.range 256).all fun k => rd (0xF1000 + 8 * k) 8 < 2 ^ 62

/-- The stream from the record: the positions as saved, or as edited (R423, R425). [DEDUCED, log 40] -/
def Core.streamFrom (c : Core) (rd : Nat → Nat → Nat) : Option Core :=
  let w := rd 16 8
  if w = c.fqWord then some c
  else
    let ps := positionsOf w
    if ps.any fun p => p.idx < c.seg.first || c.seg.last < p.idx then none else some { c with fq := ps ++ c.fq.drop 3 }

/-- What the record's writable fields set: the done mask with the sources of the other slots, the stall, the predicate stack, the busy
windows (R419, R423). -/
def Core.recordFrom (c : Core) (st : Stop) (rd : Nat → Nat → Nat) : Option Core :=
  let done := BitVec.ofNat 4 (fld (rd 0 8) 29 26)
  let part := !c.captured.isEmpty || st.done != 0
  let ps := rd 24 8
  if 16 < fld ps 20 16 ∨ ps / 2 ^ 21 ≠ 0 then none
  else some { c with
    doneMask := done
    captured := if part then ((List.range 4).filter fun k => !done.getLsbD k).map fun k => (k, BitVec.ofNat 2048 (rd (0x400 + 256 * k) 256)) else []
    stall := rd 0 8 % 16
    pstack := stackOf ps (fld ps 20 16)
    mulBusy := rd 56 8
    fpsBusy := rd 64 8 }

/-- A core from its image; none when the image is refused (R418, R423, R425). -/
def Core.fromImage (c : Core) (st : Stop) (m : Mem) : Option Core :=
  let base := c.frameBase
  let rd := fun (off n : Nat) => rdLE m (base + off) n
  if imageDigest m base st.cause.isNone ≠ BitVec.ofNat 64 (rd 72 8) ∨ !recordClean rd ∨ !patchClean rd then none
  else do
    let c1 ← c.pendFrom rd
    let c2 ← c1.streamFrom rd
    let c3 ← c2.recordFrom st rd
    let c4 ← (c3.regsFrom rd).csrsFrom rd
    return c4.storesFrom rd m base

/-! ## Resuming (R423) -/

/-- Raced accesses are presented to their controllers anew (R114). [DEDUCED, log 172] -/
def State.presentAgain (s : State) : State :=
  let (k, s1) := s.takeReq
  s1.onCore fun c => { c with gacc := c.gacc.map fun g =>
    if g.raced.isSome then { g with raced := none, arrive := s.wall + 1 + Config.outsideDelay k } else g }

/-- An image refused at its resume: the task stays stopped with IMAGE_BAD, which is not resumable (R418, R420). -/
def State.imageBad (s : State) : State :=
  let st : Stop :=
    { cause := some .imageBad, reason := 0, slot := 0, done := 0, stallRem := 0, faddr := 0, finfo := 0, resumable := false,
      after := false, org := .zero }
  let s1 := s.onCore fun c => { c with mode := .stopped, stop := some st, skipBrk := false, stepOne := false }
  (({ s1 with mem := wrLE s1.mem s.core.frameBase 8 (faultWord0 st) }.setFrameEntry s.core.task.slot s.focus (s.core.frame + 1)).debugState
    s.focus 1 s.core.frame).setFaultmap s.core.task.slot

/-- The frame of a resumed task is free again, and the lowest free one is reserved for its next stop (R417). [DEDUCED, log 44] -/
def State.renewFrame (s : State) (slot i : Nat) : State :=
  let s1 := s.onLaunch slot fun l => { l with frames := l.frames.filter fun x => x.1 != i }
  let used := s1.mod.launches.flatMap fun l => l.frames.map (·.2)
  match (List.range s.mod.frames).find? fun f => !used.contains f with
  | some f => s1.onLaunch slot fun l => { l with frames := l.frames ++ [(i, f)] }
  | none => s1

/-- A launch being restored runs again once none of its cores is being restored (R43, R406). -/
def State.launchBack (s : State) (slot : Nat) : State :=
  match s.launchAt slot with
  | some l =>
    if l.state = .restoring ∧ !(l.rect.cores.any fun i => (s.coreAt i).mode == .restoring) then
      s.onLaunch slot fun x => { x with state := .running }
    else s
  | none => s

/-- CONTEXT_RESUME: the core restores its image and goes on at the cycle of word 1; a translation that failed is asked for anew (R414,
R423). A refused image leaves it stopped with
IMAGE_BAD. -/
def execContextResume (s : State) : Out :=
  match s.core.mode, s.core.stop with
  | .restoring, some st =>
    let slot := s.core.task.slot
    (match s.core.fromImage st s.mem with
      | none => .next (s.imageBad.launchBack slot)
      | some c =>
        let c1 := ({ c with
          mode := if st.halted then .halted else .run
          stop := none
          walks := c.walks.filter fun w => w.failed.isNone }).traceRec s.ts s.focus 5 [BitVec.ofNat 64 c.frame]
        let s1 := (({ s with core := c1 }.presentAgain).setFrameEntry slot s.focus 0).renewFrame slot s.focus
        .next ((if st.cause.isNone then s1 else s1.debugState s.focus 0 c.frame).launchBack slot))
  | _, _ => .next s

end Sys2Proof.Machine
end

