-- ==== Sys2Proof/Machine/Sched.lean ====
section
/-! DEFINITION. Launch queues, records, the scheduler, dispatch, pre-emption, retirement and aborts (R24 to R29, R40, R396 to R408). -/

namespace Sys2Proof.Machine

/-! ## Queues and records (R396 to R399) -/

/-- A queue; unlisted ones are as after a compute reset (R396). -/
def State.queue (s : State) (q : Nat) : Queue := sget .reset s.mod.queues q

/-- Change a queue. -/
def State.onQueue (s : State) (q : Nat) (f : Queue → Queue) : State :=
  s.onMod fun m => { m with queues := sset .reset m.queues q (f (sget .reset m.queues q)) }

/-- Word k of a record. -/
def rw (w : List Nat) (k : Nat) : Nat := w.getD k 0

def recKind (w : List Nat) : Nat := fld (rw w 0) 3 0
def recPin (w : List Nat) : Bool := bit (rw w 0) 4
def recPrio (w : List Nat) : Nat := fld (rw w 0) 10 8
def recPre (w : List Nat) : Bool := bit (rw w 0) 11
def recIrq (w : List Nat) : Bool := bit (rw w 0) 14
def recIgn (w : List Nat) : Bool := bit (rw w 0) 15
def recWaits (w : List Nat) : Nat := fld (rw w 0) 17 16
def recAsid (w : List Nat) : Nat := fld (rw w 0) 44 32
def recCw (w : List Nat) : Nat := rw w 12
def recSp (w : List Nat) : Nat := fld (rw w 2) 7 0
def recAcc (w : List Nat) : Nat := fld (rw w 2) 23 16

/-- The rectangle of a RECT word (R27). -/
def rectOf (v : Nat) : Rect := ⟨fld v 4 0, fld v 12 8, fld v 21 16, fld v 28 24⟩

/-- The rectangle that a record asks for; without PIN its position is not used. -/
def recRect (w : List Nat) : Rect := rectOf (rw w 1)

/-- The record at an index of a queue (R398). -/
def State.recordAt (s : State) (q i : Nat) : List Nat :=
  let k := s.queue q
  (List.range 16).map fun j => rdLE s.mem (k.base + 128 * (i % 2 ^ k.logn) + 8 * j) 8

/-- An aligned physical word in HBM (R399). -/
def wordOk (a : Nat) : Bool := a % 8 == 0 && a / 2 ^ 52 == 0 && hbmOk a 8

/-- Whether a record's fields obey R399, its shape R22, its footprints R24 (R400). -/
def recordOk (w : List Nat) : Bool :=
  let w0 := rw w 0
  let zero := fun (l : List Nat) => l.all fun k => rw w k == 0
  let waits := (List.range 2).all fun k =>
    if k < recWaits w then wordOk (rw w (13 + k)) else rw w (13 + k) == 0 && fld (rw w 15) (32 * k + 31) (32 * k) == 0
  let r := recRect w
  let shape := (if recPin w then r else { r with x0 := 0, y0 := 0 }).aligned && (recPin w || (r.x0 == 0 && r.y0 == 0)) &&
    rw w 1 / 2 ^ 29 == 0 && fld (rw w 1) 23 22 == 0 && fld (rw w 1) 15 13 == 0 && fld (rw w 1) 7 5 == 0
  let foot := fld (rw w 2) 31 24 == 0 && fld (rw w 2) 15 8 == 0 && recSp w ≤ 64 && recAcc w ≤ 128
  w0 / 2 ^ 45 == 0 && fld w0 31 18 == 0 && fld w0 7 5 == 0 && recWaits w ≤ 2 && waits &&
  (match recKind w with
    | 0 => zero [1, 2, 3, 4, 5, 6, 7, 8, 9, 10, 11]
    | 1 => shape && foot && rw w 2 / 2 ^ 47 == 0 && 1 ≤ fld (rw w 2) 46 32 && fld (rw w 2) 46 32 ≤ 16384 && rw w 3 % 64 == 0
    | 2 =>
      let t := (w.drop 4).take 4
      shape && foot && 16 ≤ recSp w && zero [3, 8, 9, 10, 11] && rw w 2 / 2 ^ 32 == 0 && tileFormOk t && tileComboOk t &&
        (tileLevel t == 3 || tileLevel t == 4) && tileTgt t == 0
    | _ => false)

/-- An error of a queue: the first is kept until it is cleared, and raises vector 65 (R395, R397). -/
def State.queueError (s : State) (q code idx : Nat) : State :=
  if (s.queue q).stat.getLsbD 63 then s
  else (s.onQueue q fun k => { k with stat := BitVec.ofNat 64 (2 ^ 63 + code * 2 ^ 48 + idx % 2 ^ 32) }).raiseMsix 65

/-- A record completes: its completion word changes once, and the queue's vector is raised if it asks for that (R395, R402). [DEDUCED, log 137] -/
def State.finishRecord (s : State) (q : Nat) (w : List Nat) (code : Nat) : State :=
  let s1 :=
    if s.poisoned (recCw w) 8 then (s.later [.uncorrectableError (errorAt 4 (recCw w / 64 * 64))])
    else { s with mem := wrLE s.mem (recCw w) 8 (completeWord (rdLE s.mem (recCw w) 8) code) }.setTag (recCw w) (markOf 0x3FF 0 true false)
  if recIrq w then s1.raiseMsix q else s1

/-- The head moves on; the next head has not been looked at (R398). -/
def State.popHead (s : State) (q : Nat) : State := s.onQueue q fun k => { k with head := k.head + 1, headSince := none, ready := false }

/-! ## The head of a queue (R400, R401) -/

/-- Whether wait word k is satisfied, blocked, or failed (R401). -/
def State.waitState (s : State) (w : List Nat) (k : Nat) : Option Bool :=
  let v := rdLE s.mem (rw w (13 + k)) 8
  if bit v 63 then (if recIgn w then some true else none)
  else some (fld (rw w 15) (32 * k + 31) (32 * k) ≤ v % 2 ^ 48)

/-- A granule that the scheduler meets in a record or its wait words and cannot read (R451). [DEDUCED, log 143] -/
def State.recordSpoilt (s : State) (q i : Nat) : Option Nat :=
  let k := s.queue q
  let a := k.base + 128 * (i % 2 ^ k.logn)
  if s.poisoned a 64 then some a
  else if s.poisoned (a + 64) 64 then some (a + 64)
  else
    let w := s.recordAt q i
    ((List.range (recWaits w)).map fun j => rw w (13 + j) / 64 * 64).find? fun g => s.poisoned g 64

/-- Whether a queue's head has been given a place (R404, R406). [DEDUCED, log 166] -/
def State.headTaken (s : State) (q : Nat) : Bool :=
  s.mod.launches.any (fun l => l.queue == q && l.state == .placed) || s.mod.placing.any fun p => p.queue == some q

/-- The head of a queue is checked, and its wait words are read; records that complete here make way for the next. A head that cannot be
read stands (R400 to R402, R451). -/
def State.headCheck (s : State) (q : Nat) : Nat → State
  | 0 => s
  | fuel + 1 =>
    let k := s.queue q
    if !k.en || k.rst || k.head == k.tail || k.ready || s.headTaken q then s
    else
      let w := s.recordAt q k.head.toNat
      match s.recordSpoilt q k.head.toNat with
      | some g => (s.later [.uncorrectableError (errorAt 4 g)])
      | none =>
      if !wordOk (recCw w) then ((s.queueError q 2 k.head.toNat).popHead q).headCheck q fuel
      else if !recordOk w then ((s.finishRecord q w 64).popHead q).headCheck q fuel
      else
        let s1 := if k.headSince.isNone then s.onQueue q fun k => { k with headSince := some s.ts.toNat } else s
        let waits := (List.range (recWaits w)).map (s.waitState w)
        if waits.any Option.isNone then ((s1.finishRecord q w 65).popHead q).headCheck q fuel
        else if waits.all fun x => x == some true then
          if recKind w = 0 then ((s1.finishRecord q w 0).popHead q).headCheck q fuel else s1.onQueue q fun k => { k with ready := true }
        else s1

/-! ## Candidates (R403, R404) -/

/-- A candidate: a queue's head, or the suspended launch in a slot. -/
structure Cand where
  level : Nat
  susp : Bool
  since : Nat
  queue : Nat
  slot : Nat
  words : List Nat
deriving DecidableEq, Repr

/-- The effective level of a candidate (R403). [DEDUCED, log 53] -/
def levelOf (prio age since now : Nat) : Nat :=
  if prio = 7 ∨ age = 0 then prio else max prio (min 6 (prio + (now - since) / 1000 / age))

/-- The candidates in the order in which they are taken (R404). [DEDUCED, log 53] -/
def State.candidates (s : State) : List Cand :=
  let now := s.ts.toNat
  let heads := (List.range 64).filterMap fun q =>
    let k := s.queue q
    if k.en && k.ready && k.head != k.tail && !s.headTaken q then
      let w := s.recordAt q k.head.toNat
      some (⟨levelOf (recPrio w) k.age (k.headSince.getD now) now, false, k.headSince.getD now, q, 0, w⟩ : Cand)
    else none
  let susp := s.mod.launches.filterMap fun l =>
    match l.state with
    | .suspended t =>
      if s.mod.placing.any fun p => p.queue.isNone && p.slot == l.slot then none
      else some (⟨levelOf (recPrio l.words) (s.queue l.queue).age t now, true, t, l.queue, l.slot, l.words⟩ : Cand)
    | _ => none
  sortBy (fun (a b : Cand) =>
    let ka := (7 - a.level, b2n !a.susp, a.since, a.queue)
    let kb := (7 - b.level, b2n !b.susp, b.since, b.queue)
    if ka.1 ≠ kb.1 then ka.1 < kb.1
    else if ka.2.1 ≠ kb.2.1 then ka.2.1 < kb.2.1
    else if ka.2.2.1 ≠ kb.2.2.1 then ka.2.2.1 < kb.2.2.1
    else ka.2.2.2 ≤ kb.2.2.2) (susp ++ heads)

/-! ## Placement (R405, R406) -/

/-- Whether a core has been retired from placement (R459). -/
def State.retired (s : State) (i : Nat) : Bool := (vget 0 s.mod.hub.retmap (i / 64)).getLsbD (i % 64)

/-- Whether a core is unavailable to a candidate: nothing is placed on an island unless it is on, but a suspended launch still resumes on one with
its gating pending (R405, R406, R461). -/
def State.unavailable (s : State) (susp : Bool) (i : Nat) : Bool :=
  let st := (vget .reset s.mod.hub.isl (islandOf i)).state
  s.retired i || (if susp then 2 ≤ st else st != 0) ||
  (s.mod.launches.any fun l => l.rect.has i && (l.state == .saving || l.state == .restoring)) ||
  s.mod.placing.any fun p => p.rect.has i

/-- Whether a core is free, but for a launch in a slot of its own (R405). -/
def State.freeFor (s : State) (own : Option Nat) (i : Nat) : Bool :=
  !s.unavailable own.isSome i && !(s.mod.launches.any fun l => l.rect.has i && some l.slot != own)

/-- The positions of a shape, row-major (R405). -/
def positionsOfShape (w h : Nat) : List Rect :=
  (List.range (24 / max 1 h)).flatMap fun y => (List.range (32 / max 1 w)).map fun x => ⟨x * w, y * h, w, h⟩

/-- The positions that a candidate may take. -/
def State.candPositions (s : State) (c : Cand) : List Rect :=
  if c.susp then ((s.launchAt c.slot).map fun l => l.rect).toList
  else if recPin c.words then [recRect c.words]
  else positionsOfShape (recRect c.words).w (recRect c.words).h

/-- A slot's own launch, when the candidate holds one. -/
def Cand.own (c : Cand) : Option Nat := if c.susp then some c.slot else none

/-- Whether a launch may be a victim of a candidate (R406). [DEDUCED, log 53] -/
def State.victimOk (s : State) (level : Nat) (l : Launch) : Bool :=
  l.state == .running && recPre l.words && recPrio l.words < level &&
  !(l.rect.cores.any fun i =>
    let c := s.coreAt i
    (c.mode == .stopping || c.mode == .stopped) && c.stop.any fun st => st.cause.any fun x => !(x == .debugHalt || x == .brk || x == .step))

/-- Whether a launch is suspended. -/
def Launch.suspended (l : Launch) : Bool := match l.state with | .suspended _ => true | _ => false

/-- The victims of a position, when it is eligible: each core free or held by a victim, suspended at it or not (R406). -/
def State.victimsAt (s : State) (c : Cand) (r : Rect) : Option (List Launch) :=
  let mine := s.mod.launches.filter fun l => some l.slot != c.own && l.rect.meets r && !l.suspended
  if mine.all (s.victimOk c.level) && r.cores.all (fun i => !s.unavailable c.susp i && (mine.any (·.rect.has i) || s.freeFor c.own i)) then some mine
  else none

/-- The eligible position with the fewest victims, then the fewest cores they hold, then the first (R406). -/
def State.preemptAt (s : State) (c : Cand) : Option (Rect × List Launch) :=
  let cost := fun (v : List Launch) => v.length * 2 ^ 20 + (v.map fun l => l.rect.w * l.rect.h).sum
  (s.candPositions c).foldl (fun best r =>
    match s.victimsAt c r with
    | none => best
    | some v =>
      match best with
      | some b => if cost v < cost b.2 then some (r, v) else best
      | none => some (r, v)) none

/-- The lowest free slot (R404). -/
def State.freeSlot (s : State) : Option Nat := (List.range 1024).find? fun k => (s.launchAt k).isNone

/-- Free frames for the cores of a rectangle (R417). [DEDUCED, log 44] -/
def State.freeFrames (s : State) (r : Rect) : Option (List (Nat × Nat)) :=
  let used := s.mod.launches.flatMap fun l => l.frames.map (·.2)
  let free := (List.range s.mod.frames).filter fun f => !used.contains f
  if free.length < r.w * r.h then none else some (r.cores.zip free)

/-- A candidate's victims begin to be saved, and its position is kept for it (R406). -/
def State.awaitVictims (s : State) (p : Placing) : State :=
  s.onMod fun m => { m with
    placing := m.placing ++ [p]
    launches := m.launches.map fun x => if p.victims.contains x.slot then { x with state := .saving, since := s.ts.toNat } else x }

/-- A queue's head takes the lowest free slot, its rectangle and frames, and is dispatched; without a free slot or frames it waits
(R404, R417). [DEDUCED, log 44; DEDUCED, log 166] -/
def State.takeSlot (s : State) (q : Nat) (words : List Nat) (r : Rect) : Option State :=
  match s.freeSlot, s.freeFrames r with
  | some slot, some frames =>
    let l : Launch :=
      { slot := slot, id := 0, queue := q, words := words, rect := r, asid := recAsid words, tile := recKind words == 2,
        state := .placed, frames := frames, barriers := [], since := s.ts.toNat, result := 0 }
    some ((s.onMod fun m => { m with launches := m.launches ++ [l] }).later [.launchDispatch (BitVec.ofNat 10 slot)])
  | _, _ => none

/-- A head takes its position: it is dispatched now, or when its victims are saved (R405, R406). [DEDUCED, log 166] -/
def State.placeHead (s : State) (c : Cand) (r : Rect) (victims : List Launch) : State :=
  if victims.isEmpty then (s.takeSlot c.queue c.words r).getD s else s.awaitVictims ⟨some c.queue, 0, r, victims.map (·.slot)⟩

/-- Every core of a suspended launch gets its context back; one that a debug stop holds stays stopped (R43, R406). [DEDUCED, log 160] -/
def State.restoreLaunch (s : State) (slot : Nat) : State :=
  match s.launchAt slot with
  | none => s
  | some l =>
    let mine := s.mod.images.filter fun x => l.rect.has x.idx && x.core.task.slot == slot
    let back := fun (st : State) (x : Image) =>
      let debug := x.core.stop.any fun p => p.cause.isSome
      st.setCore x.idx { x.core with mode := if debug then .stopped else .restoring, trace := (st.coreAt x.idx).trace }
    let s1 := mine.foldl back s
    let s2 := s1.onMod fun m => { m with images := m.images.filter fun x => !(l.rect.has x.idx && x.core.task.slot == slot) }
    ((s2.onLaunch slot fun x => { x with state := .restoring, barriers := [] }).onMod fun m => { m with barriers := m.barriers ++ l.barriers }).launchBack slot

/-- A suspended launch goes back to its rectangle, now or when its victims are saved. -/
def State.placeSuspended (s : State) (c : Cand) (r : Rect) (victims : List Launch) : State :=
  if victims.isEmpty then s.restoreLaunch c.slot
  else s.awaitVictims ⟨none, c.slot, r, victims.map (·.slot)⟩

/-- Whether a head can never be placed (R405). -/
def State.noPlace (s : State) (c : Cand) : Bool := !c.susp && (s.candPositions c).all fun r => r.cores.any s.retired

/-- A candidate takes its turn; the second component says that it waits. -/
def State.tryPlace (s : State) (c : Cand) : State × Bool :=
  let put := fun (r : Rect) (v : List Launch) =>
    if c.susp then (s.placeSuspended c r v, false)
    else if s.freeSlot.isNone || (s.freeFrames r).isNone then (s, true)
    else (s.placeHead c r v, false)
  if s.noPlace c then (((s.finishRecord c.queue c.words 71).popHead c.queue), false)
  else
    match (s.candPositions c).find? fun r => r.cores.all (s.freeFor c.own) with
    | some r => put r []
    | none =>
      match s.preemptAt c with
      | some (r, v) => put r v
      | none => (s, true)

/-- SCHEDULER_STEP: heads are checked and their waits read; then the candidates take their turns, none of a lower level while one
of level 7 waits. Under an alarm's hold nothing is placed (R400 to R406, R464). -/
def execSchedulerStep (s : State) : Out :=
  let s1 := (List.range 64).foldl (fun st q => st.headCheck q (((st.queue q).tail - (st.queue q).head).toNat + 1)) s
  if s1.mod.hub.held then .next s1
  else
    let r := s1.candidates.foldl (fun (acc : State × Bool) c =>
      if acc.2 && c.level < 7 then acc
      else
        let (s2, waits) := acc.1.tryPlace c
        (s2, acc.2 || (waits && c.level == 7))) (s1, false)
    .next (if r.1.mod.placing.isEmpty then r.1 else (r.1.later [.preemptVictims]))

/-! ## Dispatch (R26 to R29, R405) -/

/-- The pages that hold a kernel image, when they all translate (R405). -/
def State.imageLeaves (s : State) (asid va len : Nat) : Option (List Leaf) :=
  if peerBase < va + len then none
  else
    let p0 := va / 65536
    let p1 := (va + len - 1) / 65536
    ((List.range (p1 + 1 - p0)).map fun k => (p0 + k) * 65536).mapM fun a =>
      match s.walkPage asid a true false with
      | .ok l => some l
      | .error _ => none

/-- The bytes of an image as core i's die reads them. -/
def State.imageBytes (s : State) (ls : List Leaf) (va len die : Nat) : List Byte :=
  (List.range (len / 16)).flatMap fun k =>
    let a := va + 16 * k
    match ls.find? fun l => l.va ≤ a && a < l.va + l.size with
    | some l => rdBytes s.mem (l.phys a die) 16
    | none => List.replicate 16 0

/-- The task of a launch (R24). -/
def Launch.task (l : Launch) : Task :=
  { slot := l.slot, launchId := l.id, rect := l.rect, asid := l.asid, spUnits := recSp l.words, accUnits := recAcc l.words,
    prio := recPrio l.words, preemptible := recPre l.words, pkgGrant := bit (rw l.words 0) 12, grpGrant := bit (rw l.words 0) 13,
    image := rw l.words 3, imageLen := 16 * fld (rw l.words 2) 46 32 }

/-- The argument words of a launch; a tile record has none. -/
def Launch.args (l : Launch) : List Nat := if l.tile then List.replicate 8 0 else (l.words.drop 4).take 8

/-- The words of the task block (R27). -/
def Launch.blockWords (l : Launch) (ts : Nat) : List Nat :=
  let r := l.rect
  l.args ++ [l.id.toNat, r.h * 2 ^ 24 + r.w * 2 ^ 16 + r.y0 * 2 ^ 8 + r.x0,
    fld (rw l.words 0) 13 13 * 2 ^ 26 + fld (rw l.words 0) 12 12 * 2 ^ 25 + b2n (recPre l.words) * 2 ^ 20 + recPrio l.words * 2 ^ 16 + l.asid,
    recAcc l.words * 2 ^ 16 + recSp l.words, ts, rw l.words 3, 0, 0]

/-- The start state of a task on core i (R26 to R29). A tile record's cores run only their parts. [DEDUCED, log 6] -/
def Launch.startCore (l : Launch) (i : Nat) (image : List Byte) (th : W64) (ts : Nat) (trace : Trace) : Core :=
  let n := [0, coreX i - l.rect.x0, coreY i - l.rect.y0, l.rect.w, l.rect.h, spBase + taskBlock] ++ l.args
  { Core.zero with
    mode := if l.tile then .halted else .run
    task := l.task
    regs := { Regs.zero with n := Vector.ofFn fun k => BitVec.ofNat 64 (n.getD k.val 0) }
    sp := wrBytes [] taskBlock ((l.blockWords ts).flatMap fun v => leBytes v 8)
    imem := wrBytes [] 0 image
    thbase := th &&& BitVec.ofNat 64 thbaseMask
    walk := if l.tile then none else some ⟨0, 0⟩
    trace := trace }

/-- A break of a latency promise is counted and recorded (R456, R457). [DEDUCED, log 165] -/
def State.promiseBreak (s : State) (kind id ns : Nat) : State :=
  let bump := fun (v : W64) =>
    if kind = 0 then v.toNat / 2 ^ 32 * 2 ^ 32 + satU 32 (v.toNat % 2 ^ 32 + 1) else satU 32 (v.toNat / 2 ^ 32 + 1) * 2 ^ 32 + v.toNat % 2 ^ 32
  (s.onHub fun h => { h with prombrk := BitVec.ofNat 64 (bump h.prombrk) }).logEvent 12 [kind, id, ns]

/-- The launch's cores receive their tasks, and every one of them starts (R29). [DEDUCED, log 54] -/
def State.startCores (s : State) (l : Launch) (ls : List Leaf) : State :=
  let th := BitVec.ofNat 64 (s.asidWord l.asid 1)
  let len := 16 * fld (rw l.words 2) 46 32
  l.rect.cores.foldl (fun st i =>
    let image := if l.tile then [] else s.imageBytes ls (rw l.words 3) len (coreDie i)
    let st1 := st.setCore i (l.startCore i image th s.ts.toNat (st.coreAt i).trace)
    if bit (rdLE st.mem (traceBlock i) 8) 63 then (st1.later [.traceOpen (BitVec.ofNat 10 i)]) else st1) s

/-- The tile instruction of a record is handed to the hub Splitter, its completion area pinned (R377, R405). -/
def State.startTile (s : State) (l : Launch) (ls : List Leaf) : State :=
  let o := 32 * l.rect.y0 + l.rect.x0
  let (id, s1) := s.takeReq
  let x : TileInstr :=
    { id := id, word := (l.words.drop 4).take 4, core := o, record := true, org := .zero, slot := l.slot, launch := l.id, gid := 0, nid := 0,
      started := false, left := [], pool := [], flags := 0, faults := [] }
  let c := s1.coreAt o
  (s1.setCore o { c with eng := { c.eng with pins := if ls.isEmpty then c.eng.pins else c.eng.pins ++ [(tilePin id, ls)] } }).onMod
    fun m => { m with tiles := m.tiles ++ [x] }

/-- The pages a dispatch needs: the image's, or those of a tile record's completion area in global memory (R405). -/
def State.dispatchLeaves (s : State) (l : Launch) : Option (List Leaf) :=
  if l.tile then
    let cw := tileCw ((l.words.drop 4).take 4)
    match regionOf cw with
    | .sp _ => some []
    | _ => ((unitsOf cw 56).map (·.1)).mapM fun a =>
        match s.walkPage l.asid a false true with
        | .ok x => some x
        | .error _ => none
  else s.imageLeaves l.asid (rw l.words 3) (16 * fld (rw l.words 2) 46 32)

/-- A launch gives up its slot and its cores. -/
def State.dropLaunch (s : State) (slot : Nat) : State :=
  s.onMod fun m => { m with
    launches := m.launches.filter fun l => l.slot != slot
    placing := m.placing.filter fun p => p.queue.isSome || p.slot != slot }

/-- LAUNCH_DISPATCH: slot and LAUNCH_ID, image, footprints, task block, start pulse; a failed translation completes the record and frees
the cores (R27, R29, R112, R405). [DEDUCED, log 166] -/
def execLaunchDispatch (slot : BitVec 10) (s : State) : Out :=
  match s.launchAt slot.toNat with
  | none => .next s
  | some l =>
    if l.state ≠ .placed then .next s
    else
      let s0 := s.popHead l.queue
      match s.dispatchLeaves l with
      | none => .next ((s0.finishRecord l.queue l.words 66).dropLaunch l.slot)
      | some ls =>
        let l1 := { l with id := s.mod.lastId + 1, state := .running, since := s.ts.toNat }
        let s1 := ((s0.holdAsid l.asid).onLaunch l.slot fun _ => l1).onMod fun m => { m with
          lastId := m.lastId + 1
          lastGen := m.lastGen + 1
          gens := (l.slot, m.lastGen + 1) :: m.gens.filter fun g => g.1 != l.slot }
        let s2 := s1.startCores l1 ls
        let s3 := if l.tile then s2.startTile l1 ls else s2
        let took := s.ts.toNat - l.since
        .next (if 5000 < took then s3.promiseBreak 0 l1.id.toNat took else s3)

/-! ## Pre-emption (R44, R406, R416) -/

/-- The stop that a pre-emption asks for. -/
def Stop.preempt : Stop :=
  { cause := none, reason := 0, slot := 0, done := 0, stallRem := 0, faddr := 0, finfo := 0, resumable := true, after := false, org := .zero }

/-- Every core of a launch being saved that still runs is asked to stop. -/
def State.askStops (s : State) (l : Launch) : State :=
  l.rect.cores.foldl (fun st i =>
    let c := st.coreAt i
    if (c.mode == .run || c.mode == .hold || c.mode == .halted) && c.stopAsked.isNone then st.setCore i { c with stopAsked := some Stop.preempt } else st) s

/-- A launch whose contexts are all saved becomes suspended: its cores are free of it, its barriers go with it (R44, R406). -/
def State.suspend (s : State) (l : Launch) : State :=
  let take := fun (st : State) (i : Nat) =>
    let c := st.coreAt i
    (st.setCore i { Core.zero with trace := c.trace }).onMod fun m => { m with images := m.images ++ [⟨c.frame, i, { c with trace := .none }⟩] }
  let s1 := l.rect.cores.foldl take s
  let mine := s1.mod.barriers.filter fun b => b.slot == l.slot
  let s2 := (s1.onLaunch l.slot fun x => { x with state := .suspended s.ts.toNat, barriers := mine }).onMod fun m => { m with
    barriers := m.barriers.filter fun b => b.slot != l.slot }
  let (k, s3) := s2.takeReq
  let took := s.ts.toNat - l.since - Config.openValue 62 k l.since
  if 120000 < took then s3.promiseBreak 1 l.id.toNat took else s3

/-- A placement whose victims are all saved goes ahead: a head takes its slot now, one that finds none waits on, and one whose queue
has been disabled meanwhile is dropped (R404, R406). [DEDUCED, log 165] -/
def State.placingDone (s : State) (p : Placing) : State :=
  if p.victims.any fun v => (s.launchAt v).any fun l => l.state == .saving then s
  else
    let s1 := s.onMod fun m => { m with placing := m.placing.erase p }
    match p.queue with
    | some q => if (s.queue q).en && (s.queue q).ready then (s1.takeSlot q (s.recordAt q (s.queue q).head.toNat) p.rect).getD s else s1
    | none => s1.restoreLaunch p.slot

/-- PREEMPT_VICTIMS: victims stop and are saved; then the candidate is dispatched, or restored, at its position (R406). -/
def execPreemptVictims (s : State) : Out :=
  let saving := s.mod.launches.filter fun l => l.state == .saving
  let s1 := saving.foldl State.askStops s
  let s2 := saving.foldl (fun st l => if l.rect.cores.all fun i => (st.coreAt i).mode == .stopped then st.suspend l else st) s1
  .next (s2.mod.placing.foldl State.placingDone s2)

/-! ## Retirement and aborts (R40, R407, R408) -/

/-- Whether a core's engines are idle: no command, no part, no fabric command, no domain that still steps (R40). [DEDUCED, log 98] -/
def Core.enginesDone (c : Core) : Bool :=
  c.unitsIdle && c.eng.parts.isEmpty && c.eng.fab.cmds.isEmpty && c.eng.fab.stats.isEmpty &&
  (List.range 4).all fun d => match (vget ⟨.stopped, 0⟩ c.eng.ember.doms d).mode with
    | .periodic _ _ => false
    | .counted n => n == 0
    | .stopped => true

/-- Whether a launch may retire (R40). -/
def State.mayRetire (s : State) (l : Launch) : Bool :=
  l.state == .running &&
  (l.rect.cores.all fun i =>
    let c := s.coreAt i
    c.mode == .halted && c.enginesDone && c.pend.isEmpty && c.gacc.isEmpty && c.opp.isEmpty && c.engWrites.isEmpty && !(c.cycleOpen && c.banks.any fun b => b.tcc == c.tcc)) &&
  !(s.mod.pushes.any fun p => l.rect.has p.src || l.rect.has p.tgt) && !(s.mod.flue.ops.any fun o => o.launch == l.id) &&
  !(s.mod.tiles.any fun x => x.launch == l.id)

/-- The write logs of a launch's cores are published, live and suspended ones (R111). [DEDUCED, log 169] -/
def State.publishLaunch (s : State) (l : Launch) : State :=
  let live := l.rect.cores.filterMap fun i => if (s.coreAt i).task.launchId = l.id then some (i, (s.coreAt i).writeLog) else none
  let saved := (s.mod.images.filter fun x => x.core.task.launchId == l.id).map fun x => (x.idx, x.core.writeLog)
  { s with tags := (live ++ saved).foldl (fun t x => publishTags t x.1 x.2) s.tags }

/-- A launch leaves the module: its cores, images, frames entries, barriers, pushes, fabric operations and groups go; its trace sessions
close with a reason (R40, R407, R417, R427). [DEDUCED, log 44] -/
def State.clearLaunch (s : State) (l : Launch) (reason : Nat) : State :=
  let mine := fun (i : Nat) => (s.coreAt i).mode != .off && (s.coreAt i).task.launchId == l.id
  let s1 := l.rect.cores.foldl (fun st i =>
    let c := st.coreAt i
    let c1 := if c.trace.launch == l.id then c.closeTrace s.ts i reason else c
    let st1 := if mine i then st.setCore i { Core.zero with trace := c1.trace } else st.setCore i c1
    let st3 := st1.setFrameEntry l.slot i 0
    if mine i && c.mode == .stopped then st3.debugState i 0 0 else st3) s
  (s1.onMod fun m => { m with
    images := m.images.filter fun x => x.core.task.launchId != l.id
    barriers := m.barriers.filter fun b => b.slot != l.slot
    pushes := m.pushes.filter fun p => p.launch != l.id
    gens := m.gens.filter fun g => g.1 != l.slot
    flue := { m.flue with
      ops := m.flue.ops.filter fun o => o.launch != l.id
      groups := m.flue.groups.filter fun g => g.launch != l.id
      held := m.flue.held.filter fun h => h.launch != l.id } }).dropLaunch l.slot

/-- A launch ends early with a code: its tile instructions abort, its logs are published, its record completes, its slot and cores are
free (R111, R388, R407). [DEDUCED, log 169] -/
def State.endLaunch (s : State) (l : Launch) (code reason : Nat) : State :=
  if l.state = .placed then s.dropLaunch l.slot
  else
    let s1 := (s.mod.tiles.filter fun x => x.launch == l.id).foldl State.tileAbort s
    ((s1.publishLaunch l).finishRecord l.queue l.words code).clearLaunch l reason

/-- LAUNCH_RETIRE: the launch's logs are published and it leaves its cores; its record completes, as failed if its tile instruction
failed (R40, R111, R402). [DEDUCED, log 169] -/
def execLaunchRetire (slot : BitVec 10) (s : State) : Out :=
  match s.launchAt slot.toNat with
  | none => .next s
  | some l =>
    if !s.mayRetire l then .next s
    else .next (((s.publishLaunch l).finishRecord l.queue l.words (if l.result = 0 then 0 else 70)).clearLaunch l 0)

/-- ABORT: the launch in a slot is aborted when its LAUNCH_ID matches ABORTID (R407). -/
def execAbort (v : W64) (s : State) : Out :=
  if !v.getLsbD 63 ∨ s.mod.host.abortStat = 1 then .next s
  else
    let res := fun (st : State) (r : Nat) => st.onMod fun m => { m with host := { m.host with abortStat := r } }
    match s.launchAt (v.toNat % 1024) with
    | some l => if l.id = s.mod.host.abortId ∧ l.state ≠ .placed then .next (res (s.endLaunch l 67 2) 2) else .next (res s 3)
    | none => .next (res s 3)

/-- The records of a queue from HEAD on complete with QUEUE_RESET; one whose completion word is unusable records CW_BAD (R400, R408). -/
def State.flushQueue (s : State) (q code : Nat) : Nat → Nat → State
  | 0, _ => s
  | fuel + 1, i =>
    let w := s.recordAt q i
    (if wordOk (recCw w) then s.finishRecord q w code else s.queueError q 2 i).flushQueue q code fuel ((i + 1) % 2 ^ 32)

/-- A core whose trace session has closed with a terminal record that has yet to be written (R427). -/
def State.sessionCloses (s : State) (i : Nat) : Bool := (s.coreAt i).trace.closing.isSome

/-- QUEUE_RESET: the launches dispatched from the queue are aborted and their trace sessions closed; when the terminal records of those have been
written its records complete, and HEAD comes to TAIL (R408). -/
def execQueueReset (q : BitVec 6) (s : State) : Out :=
  let n := q.toNat
  if !(s.queue n).rst then .next s
  else
    let s0 := (s.onQueue n fun k => { k with en := false, headSince := none, ready := false }).onMod fun m => { m with
      placing := m.placing.filter fun p => p.queue != some n }
    let mine := s0.mod.launches.filter fun l => l.queue == n
    let s1 := mine.foldl (fun st l => st.endLaunch l 68 1) s0
    let open_ := ((s.queue n).draining ++ mine.flatMap fun l => l.rect.cores).filter s1.sessionCloses
    let k := s1.queue n
    if !open_.isEmpty then .next (s1.onQueue n fun k => { k with draining := open_ })
    else
      let s2 := (s1.flushQueue n 68 (k.tail - k.head).toNat k.head.toNat).onQueue n fun k => { k with head := k.tail, rst := false, draining := [] }
      .next (s2.logReset 4 n)

/-! ## The queue's registers (R396 to R398, R408) -/

/-- QTAIL_WRITE (R398). -/
def execQtailWrite (q : BitVec 6) (v : W64) (s : State) : Out :=
  let n := q.toNat
  let k := s.queue n
  let t : W32 := v.setWidth 32
  if !k.en ∨ k.rst then .next s
  else if 2 ^ k.logn < (t - k.head).toNat ∨ (t - k.head).toNat < (k.tail - k.head).toNat then .next (s.queueError n 1 t.toNat)
  else .next ((s.onQueue n fun k => { k with tail := t }).later [.schedulerStep])

/-- QCTL_WRITE (R397, R408). A write with a reserved bit set has no effect on it. -/
def execQctlWrite (q : BitVec 6) (v : W64) (s : State) : Out :=
  let n := q.toNat
  let k := s.queue n
  let x := v.toNat
  let logn := if k.en then k.logn else fld x 4 1
  let ok := 4 ≤ logn && logn ≤ 15 && hbmOk k.base 1
  let en := !k.rst && bit x 0 && (k.en || ok)
  let s1 := s.onQueue n fun k => { k with
    age := fld x 47 32
    logn := logn
    en := en
    headSince := if en then k.headSince else none
    ready := en && k.ready }
  let s2 := if bit x 0 && !k.en && !k.rst && !ok then s1.queueError n 3 0 else s1
  if bit x 8 && !k.rst then
    .next ((s2.onQueue n fun k => { k with rst := true, en := false }).later [.queueReset q])
  else .next s2

/-! ## What is due -/

/-- The steps of the scheduler in a cycle of the module (R404, R406, R40). -/
def State.schedEvents (s : State) : List Instr :=
  let m := s.mod
  ((m.launches.filter s.mayRetire).map fun l => Instr.launchRetire (BitVec.ofNat 10 l.slot)) ++
  (if m.placing.isEmpty && !(m.launches.any fun l => l.state == .saving) then [] else [.preemptVictims]) ++
  (if (m.queues.any fun k => k.2.en && k.2.head != k.2.tail) || m.launches.any (fun l => match l.state with | .suspended _ => true | _ => false)
    then [.schedulerStep] else []) ++
  (m.queues.filter fun k => k.2.rst).map fun k => .queueReset (BitVec.ofNat 6 k.1)

end Sys2Proof.Machine
end

