-- ==== Sys2Proof/Machine/Debug.lean ====
section
/-! DEFINITION. The debug and trace blocks of the cores, and the invalidation ring (R415, R424, R427 to R429). -/

namespace Sys2Proof.Machine

/-! ## Debug commands (R424) -/

/-- Word 0 of the debug block of core i. -/
def State.debugCtl (s : State) (i : Nat) : Nat := rdLE s.mem (debugBlock i) 8

/-- Whether a command word is well formed: CMD 1 to 3 and no other bit but GO, SKIPBRK and PERFORM (R424). -/
def debugCtlOk (v : Nat) : Bool := 1 ≤ v % 16 && v % 16 ≤ 3 && fld v 7 4 == 0 && fld v 62 10 == 0

/-- GO falls: the device takes the command (R424). -/
def State.debugTake (s : State) (i : Nat) : State := { s with mem := wrLE s.mem (debugBlock i) 8 (s.debugCtl i % 2 ^ 63) }

/-- Whether core i holds the launch that the command names, live or suspended (R424). -/
def State.debugMatch (s : State) (i : Nat) : Bool :=
  let id := BitVec.ofNat 64 (rdLE s.mem (debugBlock i + 8) 8)
  ((s.coreAt i).mode != .off && (s.coreAt i).task.launchId == id) || s.mod.images.any fun x => x.idx == i && x.core.task.launchId == id

/-- Whether the launch named is the one that runs on core i and that the scheduler has not taken off. -/
def State.debugLive (s : State) (i : Nat) : Bool :=
  (s.coreAt i).task.launchId == BitVec.ofNat 64 (rdLE s.mem (debugBlock i + 8) 8) &&
  (s.launchAt (s.coreAt i).task.slot).any fun l => l.state == .running

/-- A command with the number k that is well formed and whose launch matches is handed on; the others answer 4 or 1 (R424). -/
def State.debugCommand (s : State) (i k : Nat) (act : State → State) : State :=
  let v := s.debugCtl i
  if !bit v 63 ∨ (v % 16 ≠ k ∧ debugCtlOk v) then s
  else if !debugCtlOk v then (s.debugTake i).debugResult i 4
  else if !s.debugMatch i then (s.debugTake i).debugResult i 1
  else act (s.debugTake i)

/-- The stop that a debugger asks for (R424). [DEDUCED, log 160] -/
def Stop.debug : Stop := { Stop.preempt with cause := some .debugHalt }

/-- DEBUG_HALT: the running task stops at its next boundary (R424). [DEDUCED, log 159] -/
def execDebugHalt (core : BitVec 10) (s : State) : Out :=
  let i := core.toNat
  .next (s.debugCommand i 1 fun st =>
    let c := st.coreAt i
    let runs := st.debugLive i && (c.mode == .run || c.mode == .hold || c.mode == .halted)
    (if runs && c.stopAsked.isNone then st.setCore i { c with stopAsked := some Stop.debug } else st).debugResult i 0)

/-- A stopped task resumes: RESULT 2 for one that is not stopped or that the scheduler took off, 3 for one that is not resumable. SKIPBRK
as the command word says, and PERFORM for the access that the race stop names; `one` stops the task after a position (R424). [DEDUCED, log 159] -/
def State.debugGo (s : State) (i : Nat) (one : Bool) : State :=
  let v := s.debugCtl i
  let c := s.coreAt i
  match c.stop with
  | none => s.debugResult i 2
  | some st =>
    if c.mode ≠ .stopped ∨ st.cause.isNone ∨ !s.debugLive i then s.debugResult i 2
    else if !st.resumable then s.debugResult i 3
    else
      let c1 := { c with
        mode := .restoring
        skipBrk := bit v 8
        stepOne := one
        gacc := c.gacc.map fun g => if bit v 9 && isRace st.cause && g.org == st.org && g.raced.isSome then { g with perform := true } else g }
      ((s.setCore i c1).debugState i 2 c.frame).debugResult i 0

/-- DEBUG_RESUME (R424). -/
def execDebugResume (core : BitVec 10) (s : State) : Out := .next (s.debugCommand core.toNat 2 fun st => st.debugGo core.toNat false)

/-- DEBUG_STEP: as RESUME, for one issue position (R424). [DEDUCED, log 37] -/
def execDebugStep (core : BitVec 10) (s : State) : Out := .next (s.debugCommand core.toNat 3 fun st => st.debugGo core.toNat true)

/-- The step that takes the command in a debug block; a malformed one is answered by the first (R424). [DEDUCED, log 159] -/
def debugEvent (v i : Nat) : List Instr :=
  if !bit v 63 then []
  else
    match v % 16 with
    | 2 => [.debugResume (BitVec.ofNat 10 i)]
    | 3 => [.debugStep (BitVec.ofNat 10 i)]
    | _ => [.debugHalt (BitVec.ofNat 10 i)]

/-! ## Trace sessions (R427 to R429) -/

/-- Word k of the trace block of core i. -/
def State.traceWord (s : State) (i k : Nat) : Nat := rdLE s.mem (traceBlock i + 8 * k) 8

/-- A word that the device writes into a trace block. -/
def State.setTraceWord (s : State) (i k v : Nat) : State := { s with mem := wrLE s.mem (traceBlock i + 8 * k) 8 v }

/-- Change the trace session of core i. -/
def State.onTrace (s : State) (i : Nat) (f : Trace → Trace) : State := s.setCore i { s.coreAt i with trace := f (s.coreAt i).trace }

/-- The launch that a session would be for: the one named, when it holds the core; for 0 the one that has just been dispatched to it
(R427). [DEDUCED, log 161] -/
def State.traceTarget (s : State) (i : Nat) : Option W64 :=
  let id := BitVec.ofNat 64 (s.traceWord i 1)
  let c := s.coreAt i
  if id = 0 then (if c.mode ≠ .off ∧ c.tcc = 0 then some c.task.launchId else none)
  else if (c.mode ≠ .off ∧ c.task.launchId = id) ∨ (s.mod.images.any fun x => x.idx == i && x.core.task.launchId == id) then some id
  else none

/-- A session's settings from CTL; the sampler draws its first gap (R427, R429). -/
def Trace.opened (launch : W64) (v : Nat) : Trace :=
  let t : Trace := { Trace.none with isOpen := true, launch := launch, kinds := BitVec.ofNat 8 v, logp := fld v 20 16, seed := fld v 47 32 }
  if t.logp = 0 then t else { t with gap := t.nextGap, draws := 1 }

/-- TRACE_OPEN: OPEN is set and the named launch holds the core (R427). [DEDUCED, log 161] -/
def execTraceOpen (core : BitVec 10) (s : State) : Out :=
  let i := core.toNat
  let v := s.traceWord i 0
  match s.traceTarget i with
  | none => .next s
  | some l =>
    if !bit v 63 ∨ (s.coreAt i).trace.isOpen then .next s
    else .next (((s.onTrace i fun _ => .opened l v).setTraceWord i 4 0).setTraceWord i 6 0)

/-- A record's place in the trace area, when there is room for it (R427). -/
def State.traceRoom (s : State) (i : Nat) : Option Nat :=
  let t := (s.coreAt i).trace
  let size := s.traceWord i 3
  if size < (t.wptr + 64 - BitVec.ofNat 64 (s.traceWord i 5)).toNat then none else some (s.traceWord i 2 + t.wptr.toNat % size)

/-- A record is written to the trace area, and WPTR rises (R427). -/
def State.traceWrite (s : State) (i a : Nat) (rec8 : List W64) : State :=
  let s1 := { s with mem := wrBytes s.mem a (rec8.flatMap fun (w : W64) => leBytes w.toNat 8) }.onTrace i fun t => { t with wptr := t.wptr + 64 }
  s1.setTraceWord i 4 (s1.coreAt i).trace.wptr.toNat

/-- TRACE_DRAIN: the oldest record of the buffer goes to the trace area, or is dropped and counted; the terminal record follows the last
one, waits for room, and ends the session. DROPPED takes the count of the records dropped here and at the buffer (R427, R428). [DEDUCED, log 162] -/
def execTraceDrain (core : BitVec 10) (s : State) : Out :=
  let i := core.toNat
  let t := (s.coreAt i).trace
  if !t.isOpen then .next s
  else
    match t.buf, t.closing, s.traceRoom i with
    | r :: rs, _, some a => .next (((s.onTrace i fun t => { t with buf := rs }).setTraceWord i 6 t.dropped.toNat).traceWrite i a r)
    | _ :: rs, _, none =>
      let s1 := s.onTrace i fun t => { t with buf := rs, dropped := t.dropped + 1 }
      .next (s1.setTraceWord i 6 (t.dropped + 1).toNat)
    | [], some r, some a => .next (((s.traceWrite i a r).setTraceWord i 0 (s.traceWord i 0 % 2 ^ 63)).onTrace i fun _ => .none)
    | _, _, _ => .next s

/-- TRACE_CLOSE: the session closes with a reason; OPEN reads 1 until its terminal record has been written (R427). [DEDUCED, log 161] -/
def execTraceClose (core : BitVec 10) (reason : BitVec 2) (s : State) : Out :=
  let i := core.toNat
  if !(s.coreAt i).trace.isOpen then .next s
  else
    let s1 := s.setCore i ((s.coreAt i).closeTrace s.ts i reason.toNat)
    .next (s1.setTraceWord i 0 (s.traceWord i 0 % 2 ^ 63 + 2 ^ 63))

/-- The step that follows a write of CTL: a session opens, or an open one closes (R427). -/
def State.traceEvent (s : State) (i : Nat) : List Instr :=
  let isOpen := bit (s.traceWord i 0) 63
  let t := (s.coreAt i).trace
  if isOpen && !t.isOpen && s.traceWord i 1 ≠ 0 then [.traceOpen (BitVec.ofNat 10 i)]
  else if !isOpen && t.isOpen then [.traceClose (BitVec.ofNat 10 i) 3]
  else []

/-- Records that wait in the buffers (R427). [DEDUCED, log 162] -/
def State.traceEvents (s : State) : List Instr :=
  let due := fun (c : Core) => c.trace.isOpen && (!c.trace.buf.isEmpty || c.trace.closing.isSome)
  ((s.focus, s.core) :: s.others).filterMap fun e => if due e.2 then some (.traceDrain (BitVec.ofNat 10 e.1)) else none

/-! ## Invalidation (R415) -/

/-- IVTAIL and IVHEAD (R409). -/
def State.ivTail (s : State) : Nat := rdLE s.mem (ctxBase + 0x40000) 8
def State.ivHead (s : State) : Nat := rdLE s.mem (ctxBase + 0x40008) 8

/-- Where an entry of the ring stands (R409, R415). -/
def ivEntry (n : Nat) : Nat := ctxBase + 0x41000 + 32 * (n % 256)

/-- Whether a translation lies in the scope and range of an entry (R415). -/
def State.ivHit (s : State) (n : Nat) (l : Leaf) : Bool :=
  let w := rdLE s.mem (ivEntry n) 8
  let first := fld (rdLE s.mem (ivEntry n + 8) 8) 56 16 * 65536
  let len := rdLE s.mem (ivEntry n + 16) 4 * 65536
  (bit w 17 || l.asid == fld w 12 0) && (bit w 16 || (l.va < first + len && first < l.va + l.size))

/-- A core loses the translations that an entry names. [DEDUCED, log 164] -/
def Core.dropLeaves (c : Core) (hit : Leaf → Bool) : Core :=
  { c with tlb := c.tlb.filter fun l => !hit l, heldLeaves := c.heldLeaves.filter fun l => !hit l }

/-- An entry with ALL set brings what the ASID table says now into effect (R415). [DEDUCED, log 167] -/
def State.takeAsids (s : State) (n : Nat) : State :=
  let w := rdLE s.mem (ivEntry n) 8
  if !bit w 16 then s
  else s.onMod fun m => { m with
    asids := m.asids.map fun e => if bit w 17 || e.1 == fld w 12 0 then (e.1, s.asidTable e.1 0, s.asidTable e.1 1) else e }

/-- INVALIDATION_ENTRY: the next entry is taken; every core's cache loses what it names (R415). [DEDUCED, log 164] -/
def execInvalidationEntry (s : State) : Out :=
  if s.mod.ivWait.isSome ∨ s.ivTail = s.ivHead then .next s
  else
    let hit := s.ivHit s.ivHead
    let s := s.takeAsids s.ivHead
    .next { s with
      core := s.core.dropLeaves hit
      others := s.others.filterMap fun e => let c := e.2.dropLeaves hit; if c = .zero then none else some (e.1, c)
      mod := { s.mod with
        ivWait := some s.ivHead
        images := s.mod.images.map fun x => { x with core := x.core.dropLeaves hit } } }

/-- The pages that a core's commands keep pinned. -/
def Core.pinLeaves (c : Core) : List Leaf := c.eng.pins.flatMap (·.2)

/-- Whether a launch that runs holds a pin in the range of an entry (R415). -/
def State.ivHeld (s : State) (n : Nat) : Bool :=
  ((s.focus, s.core) :: s.others).any fun e => e.2.mode != .off && e.2.mode != .stopped && e.2.pinLeaves.any (s.ivHit n)

/-- The pages that stay pinned by launches that are stopped or suspended (R415). -/
def State.ivLeft (s : State) (n : Nat) : Nat :=
  let live := (((s.focus, s.core) :: s.others).filter fun e => e.2.mode == .stopped).flatMap fun e => e.2.pinLeaves
  (pagesOf ((live ++ s.mod.images.flatMap fun x => x.core.pinLeaves).filter (s.ivHit n))).length

/-- INVALIDATION_DONE: no running launch holds a pin in the range; word 3 is written, and IVHEAD rises (R415). -/
def execInvalidationDone (s : State) : Out :=
  match s.mod.ivWait with
  | none => .next s
  | some n =>
    if s.ivHeld n then .next s
    else
      let k := s.ivLeft n
      let m1 := wrLE s.mem (ivEntry n + 24) 8 (1 + (if k = 0 then 0 else 2) + k % 2 ^ 32 * 2 ^ 16)
      .next ({ s with mem := wrLE m1 (ctxBase + 0x40008) 8 (n + 1) }.onMod fun m => { m with ivWait := none })

/-- The steps of the ring that are due (R415). -/
def State.ivEvents (s : State) : List Instr :=
  match s.mod.ivWait with
  | some n => if s.ivHeld n then [] else [.invalidationDone]
  | none => if s.ivTail = s.ivHead then [] else [.invalidationEntry]

end Sys2Proof.Machine
end

