-- ==== Sys2Proof/Machine/Fleet.lean ====
section
/-! DEFINITION. Errors, retirement, power and alarms (R20, R450 to R464). -/

namespace Sys2Proof.Machine

/-! ## Retirement (R454, R459) -/

/-- The retirement map with the bit of a core set or cleared, in the hub and in flash (R459). [DEDUCED, log 147] -/
def State.setRetired (s : State) (i : Nat) (on : Bool) : State :=
  let set := fun (v : Vector W64 12) =>
    let w := vget 0 v (i / 64)
    let b := BitVec.ofNat 64 (2 ^ (i % 64))
    vset v (i / 64) (if on then w ||| b else w &&& ~~~b)
  s.onMod fun m => { m with hub := { m.hub with retmap := set m.hub.retmap }, retList := set m.retList }

/-- A core is retired for a cause: suspended launches that hold it are aborted; the map takes effect at the next scheduler step (R459). -/
def State.retireCore (s : State) (i cause : Nat) : State :=
  if s.retired i then s
  else
    let gone := s.mod.launches.filter fun l => l.rect.has i && (match l.state with | .suspended _ => true | _ => false)
    let s1 := gone.foldl (fun st l => st.endLaunch l 67 2) ((s.setRetired i true).logEvent 9 [i, 1, cause])
    (s1.later [.schedulerStep])

/-- A core returns to placement, unless its die's manager is silent (R459). -/
def State.returnCore (s : State) (i : Nat) : State :=
  if !s.retired i || s.mod.hub.silent.getLsbD (coreDie i) then s
  else
    let s1 := (s.setRetired i false).logEvent 9 [i, 0, 0]
    (s1.later [.schedulerStep])

/-- RETMAP_WRITE (R459). -/
def execRetmapWrite (idx : BitVec 4) (v : W64) (s : State) : Out :=
  if 12 ≤ idx.toNat then .next s
  else .next ((List.range 64).foldl (fun st b =>
    let i := 64 * idx.toNat + b
    if v.getLsbD b then st.retireCore i 0 else st.returnCore i) s)

/-! ## Errors (R450 to R454) -/

/-- The index and the location in an error event's operand. [DEDUCED, log 142] -/
def errorIndex (a : W64) : Nat := a.toNat / 2 ^ 60
/-- [DEDUCED, log 142] -/
def errorPlace (a : W64) : Nat := a.toNat % 2 ^ 60

/-- Whether an index counts errors in a core's own storage (R454). -/
def ownStorage (k : Nat) : Bool := k == 0 || k == 1 || k == 3

/-- Nanoseconds in 24 hours. -/
def dayNs : Nat := 86400000000000

/-- The corrected errors of a core within the last 24 hours (R454). [DEDUCED, log 148] -/
def State.recentErrs (s : State) (i : Nat) : Nat := (s.mod.hub.coreErrs.filter fun e => e.1 == i && s.ts.toNat < e.2 + dayNs).length

/-- With AUTORET set, a core that has reached RETTHR is retired (R454). [DEDUCED, log 148] -/
def State.autoRetire (s : State) (i : Nat) : State :=
  let c := s.mod.hub.errcfg.toNat
  if bit c 63 && c % 65536 ≠ 0 && c % 65536 ≤ s.recentErrs i then s.retireCore i 2 else s

/-- The LAUNCH_ID of the launch on a core, or 0. -/
def State.launchOn (s : State) (i : Nat) : Nat := if (s.coreAt i).mode = .off then 0 else (s.coreAt i).task.launchId.toNat

/-- CORRECTED_ERROR: a correctable error is counted and recorded; a core that reaches the threshold retires (R450, R452, R454). -/
def execCorrectedError (addr : W64) (s : State) : Out :=
  let k := errorIndex addr
  let loc := errorPlace addr
  if ownStorage k && loc < 768 then
    let s1 := (s.countError k loc (s.launchOn loc) true).onHub fun h => { h with
      coreErrs := (h.coreErrs.filter fun e => s.ts.toNat < e.2 + dayNs) ++ [(loc, s.ts.toNat)] }
    .next (s1.autoRetire loc)
  else if k == 4 || k == 6 then .next (s.countError k loc 0 true)
  else .next s

/-- The running launch on a core is aborted (R407, R451). -/
def State.abortOn (s : State) (i code : Nat) : State :=
  if (s.coreAt i).mode = .off then s
  else
    match s.launchAt (s.coreAt i).task.slot with
    | some l => s.endLaunch l code 2
    | none => s

/-- Whether the core in focus meets a granule that cannot be read. -/
def State.meetsGranule (s : State) (pa : Nat) : Bool :=
  (s.core.gacc.any fun g => s.ready g && g.pa / 64 == pa / 64) ||
  s.core.walks.any fun w => w.arrive ≤ s.wall &&
    (match s.walkPage s.core.task.asid w.va w.read w.write with | .error f => spoiltMark ≤ f.2 && (f.2 - spoiltMark) / 64 == pa / 64 | .ok _ => false)

/-- UNCORRECTABLE_ERROR: what reads bad data does not complete, the launches concerned are aborted, and the error is counted and
recorded. A granule of HBM is poisoned; an error in the hub's or the Flue island's memories resets compute or the island (R450, R451,
R453, R454). [DEDUCED, log 143] -/
def execUncorrectableError (addr : W64) (s : State) : Out :=
  let k := errorIndex addr
  let loc := errorPlace addr
  if (ownStorage k || k == 2 || k == 5) && loc < 768 then
    let id := s.launchOn loc
    let s1 := (s.abortOn loc 67).countError k loc id false
    .next (if ownStorage k && bit s.mod.hub.errcfg.toNat 63 then s1.retireCore loc 1 else s1)
  else if k == 4 then
    let s1 := s.onHub fun h => { h with poison := if h.poison.contains (loc / 64) then h.poison else h.poison ++ [loc / 64] }
    let id := s.launchOn s.focus
    .next (if s1.meetsGranule loc then (s1.abortOn s.focus 67).countError 4 loc id false else s1.countError 4 loc 0 false)
  else if k == 6 then
    let s1 := s.countError 6 loc 0 false
    .next (s1.later [if loc = 1 then Instr.flueReset else Instr.computeReset])
  else .next s

/-- PATROL_SCRUB: a granule is read; one that is poisoned answers as every read of it does (R451). -/
def execPatrolScrub (addr : W64) (s : State) : Out :=
  let pa := addr.toNat / 64 * 64
  if s.poisoned pa 64 then .next (s.later [.uncorrectableError (errorAt 4 pa)]) else .next s

/-- Sixteen bytes of a task's kernel image, when their page translates; zero beyond the image (R405, R453). [DEDUCED, log 146] -/
def State.imageBundle (s : State) (c : Core) (i idx : Nat) : Option (List Byte) :=
  if c.task.imageLen ≤ 16 * idx then some (List.replicate 16 0)
  else
    match s.walkPage c.task.asid (c.task.image + 16 * idx) true false with
    | .ok l => some (rdBytes s.mem (l.phys (c.task.image + 16 * idx) (coreDie i)) 16)
    | .error _ => none

/-- INSTRUCTION_REFETCH: the bundle that the core fetches next fails parity; it is fetched again from the kernel image and written back
while the core holds. A page that no longer translates ends the launch (R453). [DEDUCED, log 146] -/
def execInstructionRefetch (s : State) : Out :=
  if s.core.mode ≠ .run then .next s
  else
    let idx := s.core.nextIdx.toNat
    match s.imageBundle s.core s.focus idx with
    | none => .next (s.later [.uncorrectableError (errorAt 2 s.focus)])
    | some b =>
      let (k, s1) := (s.countError 2 s.focus (s.launchOn s.focus) true).takeReq
      let s2 := s1.onCore fun c => { (if c.cycleOpen then c.endCycle else c) with imem := wrBytes c.imem (16 * idx) b }
      .next { (s2.imposedHold [⟨0, .zero, 0, .refetch (s.wall + 1 + Config.outsideDelay k), none⟩]) with agenda := s.agenda }

/-! ## Power (R20, R460, R461) -/

/-- An island's control. -/
def State.island (s : State) (n : Nat) : Isl := vget .reset s.mod.hub.isl n

/-- The P-state that an island should be in: the larger of PSTATE and the throttle step (R460). -/
def Isl.want (x : Isl) : Nat := max x.pstate x.step

/-- A record of an island's change, when the P-state or STATE differs (R457). [DEDUCED, log 150] -/
def State.logIsland (s : State) (n : Nat) (x y : Isl) (cause : Nat) : State :=
  if x.want = y.want ∧ x.state = y.state then s else s.logEvent 10 [n, x.want, y.want, x.state, y.state, cause]

/-- An island's control changes; a change of the P-state in force is a relock (R20, R460). [DEDUCED, log 150] -/
def State.setIsland (s : State) (n : Nat) (f : Isl → Isl) (cause : Nat) : State :=
  let x := s.island n
  let y := f x
  let s1 := (s.onHub fun h => { h with isl := vset h.isl n y }).logIsland n x y cause
  if y.want = y.cur then s1 else (s1.later [.relock (BitVec.ofNat 4 n)])

/-- PSTATE_WRITE: states 0 to 4, compute islands only (R460). -/
def execPstateWrite (island : BitVec 5) (v : W64) (s : State) : Out :=
  let p := v.toNat % 16
  if 16 ≤ island.toNat ∨ 5 ≤ p then .next s else .next (s.setIsland island.toNat (fun x => { x with pstate := p }) 0)

/-- RELOCK: the island's clock changes; every core of it holds at its next boundary (R20, R460). -/
def execRelock (island : BitVec 4) (s : State) : Out :=
  let x := s.island island.toNat
  if x.relock.isSome ∨ x.cur = x.want then .next s
  else .next (s.onHub fun h => { h with isl := vset h.isl island.toNat { x with cur := x.want, relock := some s.ts } })

/-- Whether a core holds for the relock of its island, or has nothing to hold (R20). -/
def relockHeld (c : Core) : Bool :=
  match c.mode with
  | .run => false
  | .halted => false
  | .hold => c.hold.any fun h => h.items.any fun l => l.need == .relock
  | _ => true

/-- Whether every core of an island holds for its relock. [DESIGN CHOICE, log 141] -/
def State.relockReached (s : State) (n : Nat) : Bool := (List.range 768).all fun i => islandOf i != n || relockHeld (s.coreAt i)

/-- RELOCK_END: with every core of the island held, the new clock is in force and they go on; a change asked for meanwhile is the next
relock (R20, R460). [DESIGN CHOICE, log 141] -/
def execRelockEnd (island : BitVec 4) (s : State) : Out :=
  let n := island.toNat
  let x := s.island n
  if x.relock.isNone ∨ !s.relockReached n then .next s
  else
    let s1 := s.onHub fun h => { h with isl := vset h.isl n { x with relock := none } }
    .next (if x.want = x.cur then s1 else (s1.later [.relock island]))

/-- GATE_REQUEST: GATE := 1; no launch is placed on the island any more (R461). -/
def execGateRequest (island : BitVec 4) (s : State) : Out :=
  if (s.island island.toNat).gate then .next s else .next (s.setIsland island.toNat (fun x => { x with gate := true, state := 1 }) 0)

/-- Whether a core of an island holds a launch, running, stopped or suspended (R461). -/
def State.resident (s : State) (n : Nat) : Bool := s.mod.launches.any fun l => l.rect.cores.any fun i => islandOf i == n

/-- ISLAND_GATED (R461). -/
def execIslandGated (island : BitVec 4) (s : State) : Out :=
  if (s.island island.toNat).state ≠ 1 ∨ s.resident island.toNat then .next s
  else .next (s.setIsland island.toNat (fun x => { x with state := 2 }) 0)

/-- ISLAND_WAKE: GATE := 0; the island wakes (R461). -/
def execIslandWake (island : BitVec 4) (s : State) : Out :=
  if !(s.island island.toNat).gate then .next s else .next (s.setIsland island.toNat (fun x => { x with gate := false, state := 3 }) 0)

/-- WAKE_COMPLETE: the island is on, and placement resumes (R461). -/
def execWakeComplete (island : BitVec 4) (s : State) : Out :=
  if (s.island island.toNat).state ≠ 3 then .next s else .next (s.setIsland island.toNat (fun x => { x with state := 0 }) 0)

/-- THROTTLE_STEP: a check by the sensors or the power cap moves an island's throttle step by one, within 0 to 4 (R461). Which of the two it
was, the step does not say. [DESIGN CHOICE, log 149] -/
def execThrottleStep (island : BitVec 5) (up : Bool) (s : State) : Out :=
  if 16 ≤ island.toNat then .next s
  else
    let (k, s1) := s.takeReq
    .next (s1.setIsland island.toNat (fun x => { x with step := if up then min 4 (x.step + 1) else x.step - 1 }) (1 + Config.openValue 91 k 0 % 2))

/-- PCAP_WRITE: a value outside 1,000 to 3,200 leaves the cap unchanged (R461). -/
def execPcapWrite (v : W64) (s : State) : Out :=
  let w := v.toNat % 65536
  if w < 1000 ∨ 3200 < w then .next s else .next (s.onHub fun h => { h with pcap := w })

/-- A junction temperature register, in 1/16 °C: a sensor's reading, free (R462). [DESIGN CHOICE, log 149] -/
def State.temperature (s : State) (d : Nat) : Nat := Config.openValue 92 s.wall d % 65536

/-- Whether every sensor reads below 90 °C (R461). [DESIGN CHOICE, log 149] -/
def State.cool (s : State) : Bool := (List.range 6).all fun d => decide (sInt 16 (s.temperature d) < 1440)

/-! ## Alarms (R463, R464) -/

/-- The action of ALARMPOL for a sensor: 0 log, 1 hold, 2 erase (R463). [DEDUCED, log 156] -/
def alarmAction (k : Nat) : Nat := min 2 (fld Config.alarmPolicy.toNat (2 * k + 1) (2 * k))

/-- ALARMSTAT (R463). -/
def Hub.alarmStat (h : Hub) : Nat := b2n h.erased * 512 + b2n h.held * 256 + h.alarmActive.toNat * 16 + h.alarmSeen.toNat

/-- Sensors alarm together: the strongest action among theirs is taken (R464). [DEDUCED, log 142; DEDUCED, log 156] -/
def State.alarm (s : State) (sensors : BitVec 4) : State :=
  if sensors = 0 then s
  else
    let a := (((List.range 4).filter fun k => sensors.getLsbD k).map alarmAction).foldl max 0
    let s1 := s.onHub fun h => { h with
      alarmActive := h.alarmActive ||| sensors
      alarmSeen := h.alarmSeen ||| sensors
      held := h.held || decide (1 ≤ a)
      erased := h.erased || decide (2 ≤ a) }
    s1.logEvent 11 [s1.mod.hub.alarmStat, a]

/-- SECURITY_ALARM (R464). -/
def execSecurityAlarm (sensor : BitVec 4) (s : State) : Out := .next (s.alarm sensor)

/-- ALARM_SENSOR_CLEAR: sensors stop signalling (R463). -/
def execAlarmSensorClear (sensor : BitVec 4) (s : State) : Out :=
  .next (s.onHub fun h => { h with alarmActive := h.alarmActive &&& ~~~sensor })

/-- ALARM_RELEASE: with no sensor active the hold ends (R464). -/
def execAlarmRelease (s : State) : Out :=
  if s.mod.hub.alarmActive ≠ 0 then .next s else .next (s.onHub fun h => { h with held := false })

end Sys2Proof.Machine
end

