-- ==== Sys2Proof/Machine/Reset.lean ====
section
/-! DEFINITION. Boot, die managers, attestation, and the resets of the module (R393, R441 to R449). -/

namespace Sys2Proof.Machine

/-! ## The firmware image (R447) -/

/-- The largest image: 16 MiB. -/
def imageMax : Nat := 0x1000000

/-- Section k of an image's header: TARGET, offset, length, word 3. -/
def sectionOf (m : Mem) (k : Nat) : Nat × Nat × Nat × Nat :=
  (rdLE m (0x20 + 32 * k) 8, rdLE m (0x28 + 32 * k) 8, rdLE m (0x30 + 32 * k) 8, rdLE m (0x38 + 32 * k) 8)

/-- The second check of R447: lengths, sections and reserved bytes. -/
def headerOk (m : Mem) : Bool :=
  let len := rdLE m 0x10 8
  let n := rdLE m 0x18 8
  let secs := (List.range n).map (sectionOf m)
  0x200 ≤ len && len ≤ imageMax && 1 ≤ n && n ≤ 8 &&
  (secs.all fun x => x.1 ≤ 3 && x.2.2.2 == 0 && 0x200 ≤ x.2.1 && x.2.1 + x.2.2.1 ≤ len) &&
  ((List.range n).all fun i => (List.range i).all fun j =>
    let a := sectionOf m i
    let b := sectionOf m j
    !(a.2.1 < b.2.1 + b.2.2.1 && b.2.1 < a.2.1 + a.2.2.1)) &&
  rdLE m 0x1E0 32 == 0

/-- The public key and the signature in a header. -/
def imageKey (m : Mem) : List Byte := rdBytes m 0x120 96
def imageSig (m : Mem) : List Byte := rdBytes m 0x180 96

/-- The bytes that the signature covers: the image with the signature's bytes taken as zero (R447). -/
def signedBytes (m : Mem) : List Byte := rdBytes (clearRange m 0x180 96) 0 (rdLE m 0x10 8)

/-- The FAIL code of the first check that fails, 0 when the image is accepted (R447). -/
def imageFail (m : Mem) : Nat :=
  if rdLE m 0 8 ≠ 0x47524E31 then 1
  else if !headerOk m then 5
  else if Config.sha384 (imageKey m) ≠ Config.fusedKey then 2
  else if rdLE m 8 8 < Config.fusedVersion then 3
  else if !Config.ecdsaOk (imageKey m) (Config.sha384 (signedBytes m)) (imageSig m) then 4
  else 0

/-- The four measurement registers (R449). -/
def measure (m : Mem) : List Byte :=
  ((Config.romVersion ++ List.replicate 48 0).take 48) ++ (Config.sha384 (rdBytes m 0 (rdLE m 0x10 8)) ++ List.replicate 48 0).take 48 ++
    (Config.fusedKey ++ List.replicate 48 0).take 48 ++
    (Config.sha384 (Config.alarmPolicy :: Config.security) ++ List.replicate 48 0).take 48

/-- An image is checked: accepted, the die managers start from it and the retirement map is loaded; refused, the module is in recovery
mode (R447 to R449, R459). -/
def State.checkImage (s : State) (m : Mem) : State :=
  let fail := imageFail m
  if fail ≠ 0 then s.onHub fun h => { h with bootMode := 1, bootFail := fail }
  else s.onMod fun k => { k with hub := { k.hub with
    bootMode := 2
    bootFail := 0
    firmware := m
    version := rdLE m 8 8
    meas := measure m
    recovery := []
    mgrSince := s.ts.toNat
    retmap := k.retList } }

/-- FIRMWARE_BOOT: the boot ROM applies ALARMPOL to sensors that signal, reads the image from flash and checks it (R447, R464).
[DESIGN CHOICE, log 7] -/
def execFirmwareBoot (s : State) : Out :=
  if s.mod.hub.bootMode ≠ 0 then .next s
  else .next ((s.alarm s.mod.hub.alarmActive).checkImage (s.mod.flash.filter fun e => e.1 < imageMax))

/-- RECOVERY_LOAD: the image in the recovery buffer is checked under the same rules (R447). -/
def execRecoveryLoad (s : State) : Out :=
  if s.mod.hub.bootMode ≠ 1 then .next s else .next (s.checkImage s.mod.hub.recovery)

/-! ## Die managers (R442, R448) -/

/-- With every manager reported or given up, MODE becomes READY, firmware writes FRAMES and FL_EP.UP; a compute reset that a thermal
trip caused waits for cool sensors (R409, R442, R448, R461). [DEDUCED, log 154] -/
def State.managersDone (s : State) : State :=
  if !s.mod.hub.allReady then s
  else if s.mod.hub.bootMode = 2 then
    let s1 := { s with mem := wrLE s.mem (ctxBase + 0x40010) 8 s.mod.frames }.onHub fun h => { h with bootMode := 3 }
    (s1.later [.endpointUp])
  else if s.mod.hub.pending && (!s.mod.hub.hot || s.cool) then (s.later [.endpointUp])
  else s

/-- DIE_MANAGER_READY: the manager has trained its die's HBM and reports (R448). -/
def execDieManagerReady (die : BitVec 2) (s : State) : Out :=
  if s.mod.hub.bootMode < 2 ∨ s.mod.hub.dies.getLsbD die.toNat then .next s
  else .next (s.onHub fun h => { h with dies := h.dies ||| BitVec.ofNat 4 (2 ^ die.toNat) }).managersDone

/-- DIE_MANAGER_TIMEOUT: a die whose manager has not reported within 10 s has its cores retired, and the module goes on without it
(R448, R459). [DEDUCED, log 147] -/
def execDieManagerTimeout (die : BitVec 2) (s : State) : Out :=
  let h := s.mod.hub
  let d := die.toNat
  if h.bootMode < 2 ∨ h.dies.getLsbD d ∨ h.silent.getLsbD d ∨ s.ts.toNat < h.mgrSince + 10000000000 then .next s
  else
    let s1 := s.onHub fun h => { h with silent := h.silent ||| BitVec.ofNat 4 (2 ^ d) }
    .next (((List.range 768).filter fun i => coreDie i == d).foldl (fun st i => st.retireCore i 3) s1).managersDone

/-! ## Attestation (R449) -/

/-- The bytes of a report before its signature: status, serial, VERSION, the measurements, the nonce, the timestamp (R449). [DEDUCED, log 157] -/
def State.reportBody (s : State) : List Byte :=
  let h := s.mod.hub
  leBytes (b2n h.erased) 8 ++ Config.serial ++ leBytes h.version 8 ++ (h.meas ++ List.replicate 192 0).take 192 ++ rdBytes h.nonce 0 48 ++
    leBytes s.ts.toNat 8

/-- ATTESTATION_REQUEST: the report is written, and the request word reads 0 (R449). [DEDUCED, log 157] -/
def execAttestationRequest (s : State) : Out :=
  if !s.mod.hub.attest then .next s
  else
    let b := s.reportBody
    .next (s.onHub fun h => { h with report := wrBytes [] 0 (b ++ Config.attest b), attest := false })

/-! ## Resets (R441 to R446) -/

/-- Requests handed to compute and not yet answered receive ENDPOINT_DOWN (R442). [DEDUCED, log 152] -/
def State.refuseHeld (s : State) : State :=
  let f := s.mod.flue
  let s1 := s.onFlue fun f => { f with flags := [], held := [], waiting := [] }
  (f.flags.map HeldFlag.req ++ f.waiting).foldl (fun st r => st.answer r 1 []) s1

/-- Every record that holds a slot or stands in a queue completes with COMPUTE_RESET, its tasks stopped and their tile instructions
aborted (R442). -/
def State.flushAll (s : State) : State :=
  let s1 := s.mod.launches.foldl (fun st l => st.endLaunch l 69 2) s
  s1.mod.queues.foldl (fun st q => st.flushQueue q.1 69 (q.2.tail - q.2.head).toNat q.2.head.toNat) s1

/-- The dies and the hub scheduler reset, and the die managers start again. The trace sessions' records are still to drain (R427, R442).
[DEDUCED, log 152] -/
def State.resetDies (s : State) : State :=
  let clear := fun (c : Core) => { Core.zero with trace := c.trace }
  let s1 := { s with
    core := clear s.core
    others := s.others.filterMap fun (e : Nat × Core) => if clear e.2 = Core.zero then none else some (e.1, clear e.2) }
  s1.onMod fun m => { m with
    pushes := []
    barriers := []
    gens := []
    queues := []
    launches := []
    placing := []
    images := []
    tiles := []
    asids := []
    host := { HostRegs.reset with msix := m.host.msix, readData := m.host.readData }
    hub := { m.hub with dies := 0, mgrSince := s.ts.toNat, pending := true } }

/-- A compute reset: DOWN is announced, records complete, the dies reset; UP follows when the managers are ready (R442). [DEDUCED, log 152] -/
def State.resetCompute (s : State) : State := ((((s.onFlue Flue.goDown).refuseHeld).flushAll).resetDies).logReset 1 0

/-- COMPUTE_RESET (R442). -/
def execComputeReset (s : State) : Out := .next s.resetCompute

/-- FUNCTION_LEVEL_RESET takes a compute reset (R393). -/
def execFunctionLevelReset (s : State) : Out := .next s.resetCompute

/-- Launches that hold a core for which p holds are aborted; their records complete with COMPUTE_RESET (R443). -/
def State.resetLaunches (s : State) (p : Nat → Bool) : State :=
  (s.mod.launches.filter fun l => l.rect.cores.any p).foldl (fun st l => st.endLaunch l 69 2) s

/-- DIE_RESET: the die's launches end, and its manager starts again; its HBM keeps its contents (R443). [DEDUCED, log 153] -/
def execDieReset (die : BitVec 2) (s : State) : Out :=
  let d := die.toNat
  let s1 := s.resetLaunches fun i => coreDie i == d
  .next ((s1.onHub fun h => { h with dies := h.dies &&& ~~~(BitVec.ofNat 4 (2 ^ d)), mgrSince := s.ts.toNat }).logReset 2 d)

/-- CORE_RESET: the launches that hold the core end (R443). -/
def execCoreReset (core : BitVec 10) (s : State) : Out :=
  let i := core.toNat
  if 768 ≤ i then .next s else .next ((s.resetLaunches fun k => k == i).logReset 3 i)

/-- COLD_PACKAGE_RESET: everything resets, and the boot ROM starts. What stands in flash stays, the keys stay erased, and sensors go on
signalling (R441, R463). [DEDUCED, log 155] -/
def execColdPackageReset (s : State) : Out :=
  let s1 : State := { State.reset with inbox := s.inbox, wall := s.wall, nReq := s.nReq }
  .next ((s1.onMod fun m => { m with
    flash := s.mod.flash
    retList := s.mod.retList
    hub := { m.hub with erased := s.mod.hub.erased, alarmActive := s.mod.hub.alarmActive } }).logReset 0 0)

/-- THERMAL_TRIP: a sensor at 110 °C. A compute die's takes a compute reset, which UP follows only when every sensor reads below 90 °C;
one of the hub or the Flue island takes a cold package reset (R461). -/
def execThermalTrip (flue : Bool) (s : State) : Out :=
  if flue then execColdPackageReset s else .next (s.resetCompute.onHub fun h => { h with hot := true })

/-- RSTSTAT.BUSY: a compute reset has not reached its last step, or a die's manager has not come back (R442, R446). [DEDUCED, log 153] -/
def State.resetBusy (s : State) : Bool :=
  s.mod.hub.pending || (s.mod.hub.bootMode == 3 && !s.mod.hub.allReady)

/-! ## What is due in the hub -/

/-- Whether something that the module does by itself, at a time the manual bounds and does not fix, happens now: free. [DESIGN CHOICE, log 141] -/
def State.freeNow (s : State) (p k : Nat) : Bool := Config.openValue p s.wall k % 2 == 1

/-- Steps of the hub and of the Flue island that come by themselves: die managers report or are given up, relocks and wakings end, islands
gate, a compute reset reaches its last step, a Flue reset its formation (R20, R442, R444, R448, R461).
[DESIGN CHOICE, log 114; DESIGN CHOICE, log 141] -/
def State.hubEvents (s : State) : List Instr :=
  let h := s.mod.hub
  ((List.range 4).flatMap fun d =>
    if h.bootMode < 2 || h.dies.getLsbD d then []
    else (if s.freeNow 93 d then [Instr.dieManagerReady (BitVec.ofNat 2 d)] else []) ++ [.dieManagerTimeout (BitVec.ofNat 2 d)]) ++
  ((List.range 16).flatMap fun n =>
    let x := s.island n
    (if x.relock.any fun t => s.freeNow 94 n || 5000 ≤ (s.ts - t).toNat then [Instr.relockEnd (BitVec.ofNat 4 n)] else []) ++
    (if x.state == 1 then [.islandGated (BitVec.ofNat 4 n)] else []) ++
    (if x.state == 3 && s.freeNow 95 n then [.wakeComplete (BitVec.ofNat 4 n)] else [])) ++
  (if h.pending && h.allReady && (!h.hot || s.cool) then [.endpointUp] else []) ++
  (if s.mod.flue.state == 0 && s.freeNow 96 0 then [.flueReset] else [])

end Sys2Proof.Machine
end

