-- ==== Sys2Proof/Machine/Host.lean ====
section
/-! DEFINITION. What the host reaches: BAR0, the BAR2 window, the module control space (R393 to R397, R430 to R437, R446 to R463). -/

namespace Sys2Proof.Machine

/-- Change the host's registers. -/
def State.onHost (s : State) (f : HostRegs → HostRegs) : State := s.onMod fun m => { m with host := f m.host }

/-! ## BAR0 (R396, R397) -/

/-- A write of a queue's register: QBASE, QCTL, QTAIL or QSTAT (R396 to R398). -/
def State.queueWrite (s : State) (q r : Nat) (v : W64) : State :=
  match r with
  | 0 => if (s.queue q).en then s else s.onQueue q fun k => { k with base := fld v.toNat 51 12 * 4096 }
  | 8 => s.later [.qctlWrite (BitVec.ofNat 6 q) v]
  | 16 => s.later [.qtailWrite (BitVec.ofNat 6 q) v]
  | 32 => if v.getLsbD 63 then s.onQueue q fun k => { k with stat := BitVec.ofNat 64 (k.stat.toNat % 2 ^ 63) } else s
  | _ => s

/-- An aligned 8-byte write to BAR0; offsets not listed ignore it (R396). -/
def State.bar0Write (s : State) (off : Nat) (v : W64) : State :=
  if off % 8 ≠ 0 then s
  else if off = 0x8 then s.onHost fun h => { h with hwin := BitVec.ofNat 64 (fld v.toNat 51 36 * 2 ^ 36) }
  else if off = 0x10 then s.later [.abort v]
  else if off = 0x18 then s.onHost fun h => { h with abortId := v }
  else if 0x200 ≤ off ∧ off < 0x280 then
    s.onHost fun h => { h with faultmap := vset h.faultmap ((off - 0x200) / 8) (vget 0 h.faultmap ((off - 0x200) / 8) &&& ~~~v) }
  else if 0x1000 ≤ off ∧ off < 0x2000 then s.queueWrite ((off - 0x1000) / 64) (off % 64) v
  else if 0x8000 ≤ off ∧ off < 0x8000 + 66 * 16 then s.onHost fun h => h.writeMsix off v
  else s

/-- What a read of a queue's register gives (R396, R397). -/
def State.queueRead (s : State) (q r : Nat) : Nat :=
  let k := s.queue q
  match r with
  | 0 => k.base
  | 8 => k.age * 2 ^ 32 + b2n k.rst * 256 + k.logn * 2 + b2n k.en
  | 16 => k.tail.toNat
  | 24 => k.head.toNat
  | 32 => k.stat.toNat
  | _ => 0

/-- What an 8-byte read of BAR0 gives: a misaligned one all ones (R393, R396). -/
def State.bar0Read (s : State) (off : Nat) : Nat :=
  let h := s.mod.host
  if off % 8 ≠ 0 then 2 ^ 64 - 1
  else if off = 0x8 then h.hwin.toNat
  else if off = 0x18 then h.abortId.toNat
  else if off = 0x20 then h.abortStat
  else if 0x200 ≤ off ∧ off < 0x280 then (vget 0 h.faultmap ((off - 0x200) / 8)).toNat
  else if 0x1000 ≤ off ∧ off < 0x2000 then s.queueRead ((off - 0x1000) / 64) (off % 64)
  else if 0x4000 ≤ off ∧ off < 0x6000 then ((s.launchAt ((off - 0x4000) / 8)).elim 0 fun l => l.id.toNat)
  else if 0x8000 ≤ off ∧ off < 0x8000 + 66 * 16 then (h.msixWord off).toNat
  else if off = 0x9000 ∨ off = 0x9008 then (vget 0 h.pba ((off - 0x9000) / 8)).toNat
  else 0

/-! ## The hub block (R430, R446 to R463) -/

/-- RSTCTL: a GO starts the reset named, unless one is under way or it names none (R446). -/
def State.resetWrite (s : State) (v : Nat) : State :=
  let t := v % 1024
  if !bit v 63 ∨ s.resetBusy then s
  else
    match fld v 11 10 with
    | 0 => if t = 0 then s.later [.computeReset] else s
    | 1 => if t < 4 then s.later [.dieReset (BitVec.ofNat 2 t)] else s
    | 2 => if t < 768 then s.later [.coreReset (BitVec.ofNat 10 t)] else s
    | _ => s

/-- ERRCFG; AUTORET set now retires the cores that have reached the threshold (R454). -/
def State.errcfgWrite (s : State) (v : Nat) : State :=
  let s1 := s.onHub fun h => { h with errcfg := BitVec.ofNat 64 (fld v 63 63 * 2 ^ 63 + v % 65536) }
  (s1.mod.hub.coreErrs.map (·.1)).foldl (fun st i => st.autoRetire i) s1

/-- ISLCTL: PSTATE, and a change of GATE (R460, R461). -/
def State.islctlWrite (s : State) (n : Nat) (v : W64) : State :=
  if 16 ≤ n then s
  else
    let g := v.getLsbD 8
    s.later (.pstateWrite (BitVec.ofNat 5 n) v ::
      (if g && !(s.island n).gate then [.gateRequest (BitVec.ofNat 4 n)] else if !g && (s.island n).gate then [.islandWake (BitVec.ofNat 4 n)] else []))

/-- A write of a register of the hub block. -/
def State.hubWrite (s : State) (o : Nat) (v : W64) : State :=
  let n := v.toNat
  if o = 0x0 then (if bit n 8 && s.mod.hub.bootMode == 1 then s.later [.recoveryLoad] else s)
  else if o = 0x8 then s.resetWrite n
  else if 0x200 ≤ o ∧ o < 0x230 then s.onHub fun h => { h with nonce := wrLE h.nonce (o - 0x200) 8 n }
  else if o = 0x230 then (if n = 1 then (s.onHub fun h => { h with attest := true }).later [.attestationRequest] else s)
  else if 0x2000 ≤ o ∧ o < 0x2040 then s.onHub fun h => { h with errcnt := vset h.errcnt ((o - 0x2000) / 8) v }
  else if o = 0x2080 then s.errcfgWrite n
  else if 0x3000 ≤ o ∧ o < 0x3060 then s.later [.retmapWrite (BitVec.ofNat 4 ((o - 0x3000) / 8)) v]
  else if 0x3100 ≤ o ∧ o < 0x3190 then s.islctlWrite ((o - 0x3100) / 8) v
  else if o = 0x3300 then s.later [.pcapWrite v]
  else if o = 0x3408 then s.onHub fun h => { h with alarmSeen := h.alarmSeen &&& ~~~(BitVec.ofNat 4 n) }
  else if o = 0x3410 then (if bit n 0 then s.later [.alarmRelease] else s)
  else if o = 0x3500 then s.onHub fun h => { h with prombrk := v }
  else s

/-- Eight bytes of a list, from an offset. -/
def wordIn (l : List Byte) (off : Nat) : Nat := ((List.range 8).map fun i => (l.getD (off + i) 0).toNat * 256 ^ i).sum

/-- ISLCTL as read (R460). -/
def Isl.word (x : Isl) : Nat :=
  b2n (x.relock.isSome || x.state == 1 || x.state == 3) * 2 ^ 63 + x.state * 2 ^ 16 + b2n x.gate * 256 + x.cur * 16 + x.pstate

/-- What a register of the hub block reads as. Telemetry is what the sensors give; what the manual lists nowhere, and the chain once
erased, are free (R430, R446 to R463). [DESIGN CHOICE, log 145] -/
def State.hubRead (s : State) (o : Nat) : Nat :=
  let h := s.mod.hub
  let free := Config.openValue 97 s.wall o % 2 ^ 64
  if o = 0x0 then h.bootFail * 2 ^ 32 + h.dies.toNat * 16 + h.bootMode
  else if o = 0x8 then 0
  else if o = 0x10 then b2n s.resetBusy
  else if 0x100 ≤ o ∧ o < 0x1C0 then wordIn h.meas (o - 0x100)
  else if 0x200 ≤ o ∧ o < 0x230 then rdLE h.nonce (o - 0x200) 8
  else if o = 0x230 then b2n h.attest
  else if 0x300 ≤ o ∧ o < 0x1000 then rdLE h.report (o - 0x300) 8
  else if 0x1000 ≤ o ∧ o < 0x2000 then (if h.erased then free else wordIn ((List.range 4096).map Config.certChain) (o - 0x1000))
  else if 0x2000 ≤ o ∧ o < 0x2040 then (vget 0 h.errcnt ((o - 0x2000) / 8)).toNat
  else if o = 0x2080 then h.errcfg.toNat
  else if 0x3000 ≤ o ∧ o < 0x3060 then (vget 0 h.retmap ((o - 0x3000) / 8)).toNat
  else if 0x3100 ≤ o ∧ o < 0x3190 then (s.island ((o - 0x3100) / 8)).word
  else if 0x3200 ≤ o ∧ o < 0x3230 then s.temperature ((o - 0x3200) / 8)
  else if o = 0x3230 then free
  else if o = 0x3238 then free % 65536
  else if o = 0x3300 then h.pcap
  else if o = 0x3400 then Config.alarmPolicy.toNat
  else if o = 0x3408 then h.alarmStat
  else if o = 0x3410 then 0
  else if o = 0x3500 then h.prombrk.toNat
  else if o = 0x3600 then h.evw.toNat
  else if 0x80000 ≤ o ∧ o < 0x90000 then rdLE h.log (o - 0x80000) 8
  else free

/-! ## The Flue block (R431 to R437) -/

/-- FL_CTL: ORD in CONFIG, then GO, then FRESET (R432). [DEDUCED, log 158] -/
def State.flctlWrite (s : State) (v : Nat) : State :=
  let s1 := if s.mod.flue.state = 1 then s.onFlue fun f => { f with ord := bit v 7 } else s
  s1.later ((if bit v 8 then [Instr.flueGo] else []) ++ (if bit v 9 then [Instr.flueReset] else []))

/-- A write of a register of the Flue block; none takes effect during a Flue reset (R430, R431). -/
def State.flueWrite (s : State) (o : Nat) (v : W64) : State :=
  let n := v.toNat
  let config := s.mod.flue.state = 1
  if s.mod.flue.resetting then s
  else if o = 0x0 then s.flctlWrite n
  else if o = 0x8 then (if config then s.onFlue fun f => { f with coords := BitVec.ofNat 64 (fld n 35 12 * 2 ^ 12) } else s)
  else if o = 0x10 then (if config then s.onFlue fun f => { f with key := BitVec.ofNat 32 n } else s)
  else if o = 0x18 then
    (if bit n 63 && !s.mod.flue.up then s.later [.endpointUp]
    else if !bit n 63 && s.mod.flue.up then s.later [.endpointDown] else s)
  else if 0x100 ≤ o ∧ o < 0x130 then
    s.onFlue fun f => { f with
      links := vset f.links ((o - 0x100) / 8) { vget .down f.links ((o - 0x100) / 8) with retry := BitVec.ofNat 32 (n / 2 ^ 32) } }
  else if 0x200 ≤ o ∧ o < 0x240 then s.onFlue fun f => { f with counters := vset f.counters ((o - 0x200) / 8) v }
  else if 0x1000 ≤ o ∧ o < 0x9000 then
    let m := (o - 0x1000) / 8
    (s.onFlue fun f => { f with
      endpts := sset .never f.endpts m { sget .never f.endpts m with long := BitVec.ofNat 3 (fld n 13 11) } }).later
      [.routeRecompute s.mod.flue.far]
  else if 0x9000 ≤ o ∧ o < 0x19000 then
    s.onFlue fun f => { f with asidMap := sset 0 f.asidMap ((o - 0x9000) / 8) (BitVec.ofNat 64 (fld n 63 63 * 2 ^ 63 + n % 8192)) }
  else s

/-- What a register of the Flue block reads as; during a Flue reset all read zero, STATE being RESET (R430 to R437). [DESIGN CHOICE, log 145] -/
def State.flueRead (s : State) (o : Nat) : Nat :=
  let f := s.mod.flue
  if f.resetting then (if o = 0x0 then f.state else 0)
  else if o = 0x0 then f.err * 2 ^ 12 + b2n f.ord * 128 + f.state
  else if o = 0x8 then f.self + fld f.coords.toNat 35 12 * 2 ^ 12
  else if o = 0x10 then f.key.toNat
  else if o = 0x18 then b2n f.up * 2 ^ 63 + f.inc.toNat
  else if 0x100 ≤ o ∧ o < 0x130 then
    let n := (o - 0x100) / 8
    let l := vget .down f.links n
    let up := fun (p : Nat) => b2n (vget ⟨false, 0, false⟩ l.planes p).up
    l.retry.toNat * 2 ^ 32 + l.trains.toNat * 2 ^ 24 + up 1 * 32 + up 0 * 16 + f.linkState n
  else if 0x200 ≤ o ∧ o < 0x240 then (vget 0 f.counters ((o - 0x200) / 8)).toNat
  else if 0x1000 ≤ o ∧ o < 0x9000 then
    let e := f.entry ((o - 0x1000) / 8)
    b2n e.unreach * 2 ^ 15 + b2n e.down * 2 ^ 14 + e.long.toNat * 2 ^ 11 + e.inc.toNat
  else if 0x9000 ≤ o ∧ o < 0x19000 then (sget (0 : W64) f.asidMap ((o - 0x9000) / 8)).toNat
  else Config.openValue 97 s.wall (o + 0x100000) % 2 ^ 64

/-! ## The module control space (R430) -/

/-- The base and the length of the control space. -/
def ctlBase : Nat := 0xF0000000000
def ctlSize : Nat := 0x2000000

/-- An aligned 8-byte write in the control space; the recovery buffer is there in recovery mode only (R430, R447). -/
def State.ctlWrite (s : State) (o : Nat) (v : W64) : State :=
  if o < 0x100000 then s.hubWrite o v
  else if o < 0x1000000 then s.flueWrite (o - 0x100000) v
  else if s.mod.hub.bootMode = 1 then s.onHub fun h => { h with recovery := wrLE h.recovery (o - 0x1000000) 8 v.toNat }
  else s

/-- An aligned 8-byte read in the control space. -/
def State.ctlRead (s : State) (o : Nat) : Nat :=
  if o < 0x100000 then s.hubRead o
  else if o < 0x1000000 then s.flueRead (o - 0x100000)
  else if s.mod.hub.bootMode = 1 then rdLE s.mod.hub.recovery (o - 0x1000000) 8
  else 2 ^ 64 - 1

/-- HOST_REGISTER_WRITE: an aligned 8-byte write, at an offset of BAR0, or of the control space from 0x80_0000 on (R396, R430). [DEDUCED, log 142] -/
def execHostRegisterWrite (off : BitVec 24) (v : W64) (s : State) : Out :=
  if off.toNat < 0x800000 then .next (s.bar0Write off.toNat v)
  else if off.toNat % 8 = 0 then .next (s.ctlWrite (off.toNat - 0x800000) v)
  else .next s

/-! ## BAR2 (R393, R394) -/

/-- Whether BAR2 takes an access: 1 to 64 aligned bytes (R393). [DESIGN CHOICE, log 144] -/
def bar2Ok (o len : Nat) : Bool := [1, 2, 4, 8, 16, 32, 64].contains len && o % len == 0 && o / 2 ^ 36 == 0

/-- The physical address of a BAR2 offset; in recovery mode, the control space's (R396, R447). -/
def State.bar2Addr (s : State) (o : Nat) : Nat := if s.mod.hub.bootMode = 1 then ctlBase + o else s.mod.host.hwin.toNat + o

/-- What the device does once a write has reached the debug and trace blocks (R424, R427). -/
def State.blockEvents (s : State) (pa len : Nat) : List Instr :=
  let touches := fun (a : Nat) => pa < a + 8 && a < pa + len
  if pa < ctxBase + 0x50000 ∨ ctxBase + 0x60000 + 64 * 768 ≤ pa then []
  else
    ((List.range 768).flatMap fun i => if touches (debugBlock i) then debugEvent (s.debugCtl i) i else []) ++
    ((List.range 768).flatMap fun i => if touches (traceBlock i) then s.traceEvent i else [])

/-- A host write to HBM: marked as published; a part of a poisoned granule is not written (R110, R394, R451). [DESIGN CHOICE, log 144] -/
def State.hostMemWrite (s : State) (pa : Nat) (data : List Byte) : State :=
  if s.meetsPoison pa false data.length true then s.later [.uncorrectableError (errorAt 4 (pa / 64 * 64))]
  else
    let s1 := (s.memWrite pa false data).setTag pa (markOf 0x3FF 0 true false)
    s1.later (s1.blockEvents pa data.length)

/-- HOST_BAR2_WRITE: a posted write through the window: device memory, or a register of the control space (R394, R430). -/
def execHostBar2Write (off : BitVec 40) (data : List Byte) (s : State) : Out :=
  let o := off.toNat
  let pa := s.bar2Addr o
  if !bar2Ok o data.length then .next s
  else if ctlBase ≤ pa ∧ pa < ctlBase + ctlSize then
    .next (if data.length = 8 then s.ctlWrite (pa - ctlBase) (BitVec.ofNat 64 (wordIn data 0)) else s)
  else if hbmOk pa data.length then .next (s.hostMemWrite pa data)
  else .fault .noStorage

/-- The bytes a host read returns. -/
def State.hostData (s : State) (l : List Byte) : State := s.onHost fun h => { h with readData := l }

/-- HOST_BAR2_READ: device memory as performed at package scope, or a register of the control space; other accesses there read all ones. What
a read returns that the window does not take, or that meets a poisoned granule, is free (R394, R430, R451). [DESIGN CHOICE, log 144] -/
def execHostBar2Read (off : BitVec 40) (len : Nat) (s : State) : Out :=
  let o := off.toNat
  let pa := s.bar2Addr o
  let free := (List.range len).map fun i => BitVec.ofNat 8 (Config.openValue 98 s.wall (o + i))
  if o / 2 ^ 36 = 0 ∧ ctlBase ≤ pa ∧ pa < ctlBase + ctlSize then
    .next (s.hostData (if len = 8 ∧ o % 8 = 0 then leBytes (s.ctlRead (pa - ctlBase)) 8 else List.replicate len 0xFF))
  else if !bar2Ok o len then .next (s.hostData free)
  else if hbmOk pa len then
    .next (if s.poisoned pa len then (s.hostData free).later [.uncorrectableError (errorAt 4 (pa / 64 * 64))]
      else s.hostData (rdBytes s.mem pa len))
  else .fault .noStorage

end Sys2Proof.Machine
end

