-- ==== Sys2Proof/Machine/Clock.lean ====
section
/-! DEFINITION. How the module goes from one core cycle to the next (R19). -/

namespace Sys2Proof.Machine

/-- The steps of the module outside its cores that are due. [DEDUCED, log 168] -/
def State.moduleEvents (s : State) : List Instr :=
  s.islandEvents ++ s.splitEvents ++ s.schedEvents ++ s.traceEvents ++ s.ivEvents ++ s.hubEvents

/-- The next core cycle of the module: the core in focus ends its cycle, and a core at work, whichever, starts one; the steps
of the rest of the module that are due follow its own. Time outside the cores goes on (R19). [DEDUCED, log 1] -/
def State.advance (s : State) : State :=
  let s1 := if s.core.cycleOpen then s.onCore Core.endCycle else s.onCore Core.performEng
  let s2 := { s1 with wall := s1.wall + 1 }.tickTs (Config.tsAdvance s1.wall)
  let work := s2.atWork
  let s3 := (s2.refocus (work.getD (Config.nextCore s2.wall % work.length) s2.focus)).beginCycle
  s3.later s3.moduleEvents

end Sys2Proof.Machine
end

