-- ==== Sys2Proof/Machine/Dispatch.lean ====
section
/-! DEFINITION. The dispatch of every instruction and step to its meaning. -/

namespace Sys2Proof.Machine

/-- What an instruction or a step does. -/
def exec (i : Instr) (s : State) : Host.Outcome State Fault Refusal :=
  match i with
  | .bundleIssue => Sys2Proof.Machine.execBundleIssue s
  | .nullifiedPosition => Sys2Proof.Machine.execNullifiedPosition s
  | .breakpointHit => Sys2Proof.Machine.execBreakpointHit s
  | .loopPassBoundary => Sys2Proof.Machine.execLoopPassBoundary s
  | .waitEnd => Sys2Proof.Machine.execWaitEnd s
  | .ringTailWrite n v => Sys2Proof.Machine.execRingTailWrite n v s
  | .embfltClear v => Sys2Proof.Machine.execEmbfltClear v s
  | .ecauseRearm v => Sys2Proof.Machine.execEcauseRearm v s
  | .resultLand => Sys2Proof.Machine.execResultLand s
  | .segmentWalk => Sys2Proof.Machine.execSegmentWalk s
  | .opportunisticWrite => Sys2Proof.Machine.execOpportunisticWrite s
  | .fencePerform => Sys2Proof.Machine.execFencePerform s
  | .globalAccessPerform id => Sys2Proof.Machine.execGlobalAccessPerform id s
  | .raceException => Sys2Proof.Machine.execRaceException s
  | .replicatedStoreCommit id => Sys2Proof.Machine.execReplicatedStoreCommit id s
  | .pushStoreArrival id => Sys2Proof.Machine.execPushStoreArrival id s
  | .barrierComplete => Sys2Proof.Machine.execBarrierComplete s
  | .lateItem => Sys2Proof.Machine.execLateItem s
  | .holdEnd => Sys2Proof.Machine.execHoldEnd s
  | .relock island => Sys2Proof.Machine.execRelock island s
  | .relockEnd island => Sys2Proof.Machine.execRelockEnd island s
  | .instructionRefetch => Sys2Proof.Machine.execInstructionRefetch s
  | .coreStop => Sys2Proof.Machine.execCoreStop s
  | .contextResume => Sys2Proof.Machine.execContextResume s
  | .passStart n => Sys2Proof.Machine.execPassStart n s
  | .beatArrival n ci cj => Sys2Proof.Machine.execBeatArrival n ci cj s
  | .streamUnitCheck n => Sys2Proof.Machine.execStreamUnitCheck n s
  | .briquetteRead n => Sys2Proof.Machine.execBriquetteRead n s
  | .passRetire n => Sys2Proof.Machine.execPassRetire n s
  | .outputRingAdvance n => Sys2Proof.Machine.execOutputRingAdvance n s
  | .wsPartialWrite n => Sys2Proof.Machine.execWsPartialWrite n s
  | .wfOutputWrite n => Sys2Proof.Machine.execWfOutputWrite n s
  | .shadowConfigWrite cmd => Sys2Proof.Machine.execShadowConfigWrite cmd s
  | .switchTokenInject cmd => Sys2Proof.Machine.execSwitchTokenInject cmd s
  | .switchTokenArrival ci cj => Sys2Proof.Machine.execSwitchTokenArrival ci cj s
  | .drainRow cmd => Sys2Proof.Machine.execDrainRow cmd s
  | .kzeroApply cmd => Sys2Proof.Machine.execKzeroApply cmd s
  | .kringApply cmd => Sys2Proof.Machine.execKringApply cmd s
  | .followOnIssue ch => Sys2Proof.Machine.execFollowOnIssue ch s
  | .copyUnitRequest ch => Sys2Proof.Machine.execCopyUnitRequest ch s
  | .copyUnitWritten ch => Sys2Proof.Machine.execCopyUnitWritten ch s
  | .spsDue => Sys2Proof.Machine.execSpsDue s
  | .windowBindingSwitch cmd => Sys2Proof.Machine.execWindowBindingSwitch cmd s
  | .emberCommandStart => Sys2Proof.Machine.execEmberCommandStart s
  | .domainStep d => Sys2Proof.Machine.execDomainStep d s
  | .esaveRow cmd => Sys2Proof.Machine.execEsaveRow cmd s
  | .erestApply cmd => Sys2Proof.Machine.execErestApply cmd s
  | .fabSend cmd => Sys2Proof.Machine.execFabSend cmd s
  | .fabComplete cmd => Sys2Proof.Machine.execFabComplete cmd s
  | .inboundRemoteRequest r => Sys2Proof.Machine.execInboundRemoteRequest r s
  | .remoteFlagRaise id => Sys2Proof.Machine.execRemoteFlagRaise id s
  | .remoteReply r => Sys2Proof.Machine.execRemoteReply r s
  | .fbarArrival key seq m => Sys2Proof.Machine.execFbarArrival key seq m s
  | .heldWritesApply core => Sys2Proof.Machine.execHeldWritesApply core s
  | .tileSplit id => Sys2Proof.Machine.execTileSplit id s
  | .tilePartStart => Sys2Proof.Machine.execTilePartStart s
  | .tileClaim => Sys2Proof.Machine.execTileClaim s
  | .tilePartComplete => Sys2Proof.Machine.execTilePartComplete s
  | .tileComplete id => Sys2Proof.Machine.execTileComplete id s
  | .translationWalk => Sys2Proof.Machine.execTranslationWalk s
  | .launchRetire slot => Sys2Proof.Machine.execLaunchRetire slot s
  | .schedulerStep => Sys2Proof.Machine.execSchedulerStep s
  | .launchDispatch slot => Sys2Proof.Machine.execLaunchDispatch slot s
  | .preemptVictims => Sys2Proof.Machine.execPreemptVictims s
  | .qtailWrite q v => Sys2Proof.Machine.execQtailWrite q v s
  | .qctlWrite q v => Sys2Proof.Machine.execQctlWrite q v s
  | .queueReset q => Sys2Proof.Machine.execQueueReset q s
  | .abort v => Sys2Proof.Machine.execAbort v s
  | .hostRegisterWrite off v => Sys2Proof.Machine.execHostRegisterWrite off v s
  | .hostBar2Write off data => Sys2Proof.Machine.execHostBar2Write off data s
  | .hostBar2Read off len => Sys2Proof.Machine.execHostBar2Read off len s
  | .invalidationEntry => Sys2Proof.Machine.execInvalidationEntry s
  | .invalidationDone => Sys2Proof.Machine.execInvalidationDone s
  | .debugHalt core => Sys2Proof.Machine.execDebugHalt core s
  | .debugResume core => Sys2Proof.Machine.execDebugResume core s
  | .debugStep core => Sys2Proof.Machine.execDebugStep core s
  | .traceOpen core => Sys2Proof.Machine.execTraceOpen core s
  | .traceDrain core => Sys2Proof.Machine.execTraceDrain core s
  | .traceClose core reason => Sys2Proof.Machine.execTraceClose core reason s
  | .flueGo => Sys2Proof.Machine.execFlueGo s
  | .linkTrained link plane ok peer key ord => Sys2Proof.Machine.execLinkTrained link plane ok peer key ord s
  | .groupFormed => Sys2Proof.Machine.execGroupFormed s
  | .planeLoss link plane => Sys2Proof.Machine.execPlaneLoss link plane s
  | .flitReplay link plane => Sys2Proof.Machine.execFlitReplay link plane s
  | .routeRecompute far => Sys2Proof.Machine.execRouteRecompute far s
  | .timestampFlit ts => Sys2Proof.Machine.execTimestampFlit ts s
  | .endpointUp => Sys2Proof.Machine.execEndpointUp s
  | .endpointDown => Sys2Proof.Machine.execEndpointDown s
  | .announcementReceived m join inc => Sys2Proof.Machine.execAnnouncementReceived m join inc s
  | .neighbourLost m => Sys2Proof.Machine.execNeighbourLost m s
  | .flueReset => Sys2Proof.Machine.execFlueReset s
  | .coldPackageReset => Sys2Proof.Machine.execColdPackageReset s
  | .functionLevelReset => Sys2Proof.Machine.execFunctionLevelReset s
  | .computeReset => Sys2Proof.Machine.execComputeReset s
  | .dieReset die => Sys2Proof.Machine.execDieReset die s
  | .coreReset core => Sys2Proof.Machine.execCoreReset core s
  | .firmwareBoot => Sys2Proof.Machine.execFirmwareBoot s
  | .recoveryLoad => Sys2Proof.Machine.execRecoveryLoad s
  | .dieManagerReady die => Sys2Proof.Machine.execDieManagerReady die s
  | .dieManagerTimeout die => Sys2Proof.Machine.execDieManagerTimeout die s
  | .attestationRequest => Sys2Proof.Machine.execAttestationRequest s
  | .pstateWrite island v => Sys2Proof.Machine.execPstateWrite island v s
  | .gateRequest island => Sys2Proof.Machine.execGateRequest island s
  | .islandGated island => Sys2Proof.Machine.execIslandGated island s
  | .islandWake island => Sys2Proof.Machine.execIslandWake island s
  | .wakeComplete island => Sys2Proof.Machine.execWakeComplete island s
  | .throttleStep island up => Sys2Proof.Machine.execThrottleStep island up s
  | .thermalTrip flue => Sys2Proof.Machine.execThermalTrip flue s
  | .pcapWrite v => Sys2Proof.Machine.execPcapWrite v s
  | .retmapWrite idx v => Sys2Proof.Machine.execRetmapWrite idx v s
  | .correctedError addr => Sys2Proof.Machine.execCorrectedError addr s
  | .uncorrectableError addr => Sys2Proof.Machine.execUncorrectableError addr s
  | .patrolScrub addr => Sys2Proof.Machine.execPatrolScrub addr s
  | .securityAlarm sensor => Sys2Proof.Machine.execSecurityAlarm sensor s
  | .alarmRelease => Sys2Proof.Machine.execAlarmRelease s
  | .transitForward tgt r => Sys2Proof.Machine.execTransitForward tgt r s
  | .triSolutionWrite n => Sys2Proof.Machine.execTriSolutionWrite n s
  | .spsCommandStart => Sys2Proof.Machine.execSpsCommandStart s
  | .sequencerCommandIssue => Sys2Proof.Machine.execSequencerCommandIssue s
  | .elementUnitStep => Sys2Proof.Machine.execElementUnitStep s
  | .alarmSensorClear sensor => Sys2Proof.Machine.execAlarmSensorClear sensor s
  | .port0Discard u m => Sys2Proof.Machine.execPort0Discard u m s
  | .operandPortMove u p m => Sys2Proof.Machine.execOperandPortMove u p m s
  | .nregWrite p m => Sys2Proof.Machine.execNregWrite p m s
  | .mov u m => Sys2Proof.Machine.execMov u m s
  | .add u m => Sys2Proof.Machine.execAdd u m s
  | .sub u m => Sys2Proof.Machine.execSub u m s
  | .and u m => Sys2Proof.Machine.execAnd u m s
  | .or u m => Sys2Proof.Machine.execOr u m s
  | .xor u m => Sys2Proof.Machine.execXor u m s
  | .andn u m => Sys2Proof.Machine.execAndn u m s
  | .shl u m => Sys2Proof.Machine.execShl u m s
  | .shr u m => Sys2Proof.Machine.execShr u m s
  | .sar u m => Sys2Proof.Machine.execSar u m s
  | .rotl u m => Sys2Proof.Machine.execRotl u m s
  | .min u m => Sys2Proof.Machine.execMin u m s
  | .max u m => Sys2Proof.Machine.execMax u m s
  | .minu u m => Sys2Proof.Machine.execMinu u m s
  | .maxu u m => Sys2Proof.Machine.execMaxu u m s
  | .seteq u m => Sys2Proof.Machine.execSeteq u m s
  | .setne u m => Sys2Proof.Machine.execSetne u m s
  | .setlt u m => Sys2Proof.Machine.execSetlt u m s
  | .setltu u m => Sys2Proof.Machine.execSetltu u m s
  | .setle u m => Sys2Proof.Machine.execSetle u m s
  | .setleu u m => Sys2Proof.Machine.execSetleu u m s
  | .sel u m => Sys2Proof.Machine.execSel u m s
  | .clz u m => Sys2Proof.Machine.execClz u m s
  | .popc u m => Sys2Proof.Machine.execPopc u m s
  | .sext u m => Sys2Proof.Machine.execSext u m s
  | .zext u m => Sys2Proof.Machine.execZext u m s
  | .bfx u m => Sys2Proof.Machine.execBfx u m s
  | .bfi u m => Sys2Proof.Machine.execBfi u m s
  | .addw u m => Sys2Proof.Machine.execAddw u m s
  | .subw u m => Sys2Proof.Machine.execSubw u m s
  | .adds u m => Sys2Proof.Machine.execAdds u m s
  | .subs u m => Sys2Proof.Machine.execSubs u m s
  | .adds16 u m => Sys2Proof.Machine.execAdds16 u m s
  | .lea u m => Sys2Proof.Machine.execLea u m s
  | .mul m => Sys2Proof.Machine.execMul m s
  | .mulhs m => Sys2Proof.Machine.execMulhs m s
  | .mulhu m => Sys2Proof.Machine.execMulhu m s
  | .mulw m => Sys2Proof.Machine.execMulw m s
  | .madd m => Sys2Proof.Machine.execMadd m s
  | .div m => Sys2Proof.Machine.execDiv m s
  | .divu m => Sys2Proof.Machine.execDivu m s
  | .rem m => Sys2Proof.Machine.execRem m s
  | .remu m => Sys2Proof.Machine.execRemu m s
  | .fadd m => Sys2Proof.Machine.execFadd m s
  | .fsub m => Sys2Proof.Machine.execFsub m s
  | .fmul m => Sys2Proof.Machine.execFmul m s
  | .ffma m => Sys2Proof.Machine.execFfma m s
  | .fmin m => Sys2Proof.Machine.execFmin m s
  | .fmax m => Sys2Proof.Machine.execFmax m s
  | .fminnum m => Sys2Proof.Machine.execFminnum m s
  | .fmaxnum m => Sys2Proof.Machine.execFmaxnum m s
  | .fabs m => Sys2Proof.Machine.execFabs m s
  | .fneg m => Sys2Proof.Machine.execFneg m s
  | .fdiv m => Sys2Proof.Machine.execFdiv m s
  | .fsqrt m => Sys2Proof.Machine.execFsqrt m s
  | .fcmpeq m => Sys2Proof.Machine.execFcmpeq m s
  | .fcmplt m => Sys2Proof.Machine.execFcmplt m s
  | .fcmple m => Sys2Proof.Machine.execFcmple m s
  | .cvtif m => Sys2Proof.Machine.execCvtif m s
  | .cvtfi m => Sys2Proof.Machine.execCvtfi m s
  | .cvtfb m => Sys2Proof.Machine.execCvtfb m s
  | .cvtbf m => Sys2Proof.Machine.execCvtbf m s
  | .fclass m => Sys2Proof.Machine.execFclass m s
  | .ld8 m => Sys2Proof.Machine.execLd8 m s
  | .ld8s m => Sys2Proof.Machine.execLd8s m s
  | .ld16 m => Sys2Proof.Machine.execLd16 m s
  | .ld16s m => Sys2Proof.Machine.execLd16s m s
  | .ld32 m => Sys2Proof.Machine.execLd32 m s
  | .ld32s m => Sys2Proof.Machine.execLd32s m s
  | .ld64 m => Sys2Proof.Machine.execLd64 m s
  | .st8 m => Sys2Proof.Machine.execSt8 m s
  | .st16 m => Sys2Proof.Machine.execSt16 m s
  | .st32 m => Sys2Proof.Machine.execSt32 m s
  | .st64 m => Sys2Proof.Machine.execSt64 m s
  | .amoadd m => Sys2Proof.Machine.execAmoadd m s
  | .amomin m => Sys2Proof.Machine.execAmomin m s
  | .amomax m => Sys2Proof.Machine.execAmomax m s
  | .amominu m => Sys2Proof.Machine.execAmominu m s
  | .amomaxu m => Sys2Proof.Machine.execAmomaxu m s
  | .amoand m => Sys2Proof.Machine.execAmoand m s
  | .amoor m => Sys2Proof.Machine.execAmoor m s
  | .amoxor m => Sys2Proof.Machine.execAmoxor m s
  | .amoswap m => Sys2Proof.Machine.execAmoswap m s
  | .amocas m => Sys2Proof.Machine.execAmocas m s
  | .amofadd m => Sys2Proof.Machine.execAmofadd m s
  | .amofmax m => Sys2Proof.Machine.execAmofmax m s
  | .amofmin m => Sys2Proof.Machine.execAmofmin m s
  | .amoadd64 m => Sys2Proof.Machine.execAmoadd64 m s
  | .amoswap64 m => Sys2Proof.Machine.execAmoswap64 m s
  | .amocas64 m => Sys2Proof.Machine.execAmocas64 m s
  | .redadd m => Sys2Proof.Machine.execRedadd m s
  | .redmin m => Sys2Proof.Machine.execRedmin m s
  | .redmax m => Sys2Proof.Machine.execRedmax m s
  | .redminu m => Sys2Proof.Machine.execRedminu m s
  | .redmaxu m => Sys2Proof.Machine.execRedmaxu m s
  | .redand m => Sys2Proof.Machine.execRedand m s
  | .redor m => Sys2Proof.Machine.execRedor m s
  | .redxor m => Sys2Proof.Machine.execRedxor m s
  | .redfadd m => Sys2Proof.Machine.execRedfadd m s
  | .redfmax m => Sys2Proof.Machine.execRedfmax m s
  | .redfmin m => Sys2Proof.Machine.execRedfmin m s
  | .redadd64 m => Sys2Proof.Machine.execRedadd64 m s
  | .wge m => Sys2Proof.Machine.execWge m s
  | .wne m => Sys2Proof.Machine.execWne m s
  | .tgt n m => Sys2Proof.Machine.execTgt n m s
  | .peq m => Sys2Proof.Machine.execPeq m s
  | .pne m => Sys2Proof.Machine.execPne m s
  | .plt m => Sys2Proof.Machine.execPlt m s
  | .pltu m => Sys2Proof.Machine.execPltu m s
  | .ple m => Sys2Proof.Machine.execPle m s
  | .pleu m => Sys2Proof.Machine.execPleu m s
  | .pnot m => Sys2Proof.Machine.execPnot m s
  | .pand m => Sys2Proof.Machine.execPand m s
  | .por m => Sys2Proof.Machine.execPor m s
  | .pdup m => Sys2Proof.Machine.execPdup m s
  | .ppop m => Sys2Proof.Machine.execPpop m s
  | .jmp m => Sys2Proof.Machine.execJmp m s
  | .jt m => Sys2Proof.Machine.execJt m s
  | .jf m => Sys2Proof.Machine.execJf m s
  | .jtn m => Sys2Proof.Machine.execJtn m s
  | .jfn m => Sys2Proof.Machine.execJfn m s
  | .call m => Sys2Proof.Machine.execCall m s
  | .ret m => Sys2Proof.Machine.execRet m s
  | .loop m => Sys2Proof.Machine.execLoop m s
  | .lstages m => Sys2Proof.Machine.execLstages m s
  | .lcnt m => Sys2Proof.Machine.execLcnt m s
  | .lstart m => Sys2Proof.Machine.execLstart m s
  | .lend m => Sys2Proof.Machine.execLend m s
  | .vany m => Sys2Proof.Machine.execVany m s
  | .vall m => Sys2Proof.Machine.execVall m s
  | .rdps m => Sys2Proof.Machine.execRdps m s
  | .wrps m => Sys2Proof.Machine.execWrps m s
  | .vmov m => Sys2Proof.Machine.execVmov m s
  | .vadd m => Sys2Proof.Machine.execVadd m s
  | .vsub m => Sys2Proof.Machine.execVsub m s
  | .vmul m => Sys2Proof.Machine.execVmul m s
  | .vmin m => Sys2Proof.Machine.execVmin m s
  | .vmax m => Sys2Proof.Machine.execVmax m s
  | .vminu m => Sys2Proof.Machine.execVminu m s
  | .vmaxu m => Sys2Proof.Machine.execVmaxu m s
  | .vand m => Sys2Proof.Machine.execVand m s
  | .vor m => Sys2Proof.Machine.execVor m s
  | .vxor m => Sys2Proof.Machine.execVxor m s
  | .vshl m => Sys2Proof.Machine.execVshl m s
  | .vshr m => Sys2Proof.Machine.execVshr m s
  | .vsar m => Sys2Proof.Machine.execVsar m s
  | .vadds16 m => Sys2Proof.Machine.execVadds16 m s
  | .vmin16 m => Sys2Proof.Machine.execVmin16 m s
  | .vmax16 m => Sys2Proof.Machine.execVmax16 m s
  | .vfadd m => Sys2Proof.Machine.execVfadd m s
  | .vfsub m => Sys2Proof.Machine.execVfsub m s
  | .vfmul m => Sys2Proof.Machine.execVfmul m s
  | .vffma m => Sys2Proof.Machine.execVffma m s
  | .vfmin m => Sys2Proof.Machine.execVfmin m s
  | .vfmax m => Sys2Proof.Machine.execVfmax m s
  | .vfexp2 m => Sys2Proof.Machine.execVfexp2 m s
  | .vflog2 m => Sys2Proof.Machine.execVflog2 m s
  | .vfrcp m => Sys2Proof.Machine.execVfrcp m s
  | .vfrsqrt m => Sys2Proof.Machine.execVfrsqrt m s
  | .vcvtf m => Sys2Proof.Machine.execVcvtf m s
  | .vcvti m => Sys2Proof.Machine.execVcvti m s
  | .vpack m => Sys2Proof.Machine.execVpack m s
  | .vunpack m => Sys2Proof.Machine.execVunpack m s
  | .vcmpeq m => Sys2Proof.Machine.execVcmpeq m s
  | .vcmplt m => Sys2Proof.Machine.execVcmplt m s
  | .vcmple m => Sys2Proof.Machine.execVcmple m s
  | .vfcmpeq m => Sys2Proof.Machine.execVfcmpeq m s
  | .vfcmplt m => Sys2Proof.Machine.execVfcmplt m s
  | .vfcmple m => Sys2Proof.Machine.execVfcmple m s
  | .vsel m => Sys2Proof.Machine.execVsel m s
  | .vperm m => Sys2Proof.Machine.execVperm m s
  | .vbcast m => Sys2Proof.Machine.execVbcast m s
  | .vextr m => Sys2Proof.Machine.execVextr m s
  | .vins m => Sys2Proof.Machine.execVins m s
  | .vredadd m => Sys2Proof.Machine.execVredadd m s
  | .vredmin m => Sys2Proof.Machine.execVredmin m s
  | .vredmax m => Sys2Proof.Machine.execVredmax m s
  | .vfredadd m => Sys2Proof.Machine.execVfredadd m s
  | .vfredmax m => Sys2Proof.Machine.execVfredmax m s
  | .vscan m => Sys2Proof.Machine.execVscan m s
  | .vmand m => Sys2Proof.Machine.execVmand m s
  | .vmor m => Sys2Proof.Machine.execVmor m s
  | .vmnot m => Sys2Proof.Machine.execVmnot m s
  | .vmpopc m => Sys2Proof.Machine.execVmpopc m s
  | .vld m => Sys2Proof.Machine.execVld m s
  | .vst m => Sys2Proof.Machine.execVst m s
  | .vldx m => Sys2Proof.Machine.execVldx m s
  | .vstx m => Sys2Proof.Machine.execVstx m s
  | .vldr m => Sys2Proof.Machine.execVldr m s
  | .vstr m => Sys2Proof.Machine.execVstr m s
  | .vlda m => Sys2Proof.Machine.execVlda m s
  | .vsta m => Sys2Proof.Machine.execVsta m s
  | .vacc m => Sys2Proof.Machine.execVacc m s
  | .vld8 m => Sys2Proof.Machine.execVld8 m s
  | .kcfg m => Sys2Proof.Machine.execKcfg m s
  | .kflow m => Sys2Proof.Machine.execKflow m s
  | .kswitch m => Sys2Proof.Machine.execKswitch m s
  | .kstart m => Sys2Proof.Machine.execKstart m s
  | .kdrain m => Sys2Proof.Machine.execKdrain m s
  | .kzero m => Sys2Proof.Machine.execKzero m s
  | .ksel m => Sys2Proof.Machine.execKsel m s
  | .kring m => Sys2Proof.Machine.execKring m s
  | .kpop m => Sys2Proof.Machine.execKpop m s
  | .cpy m => Sys2Proof.Machine.execCpy m s
  | .cpyt m => Sys2Proof.Machine.execCpyt m s
  | .cpyf m => Sys2Proof.Machine.execCpyf m s
  | .cfetch m => Sys2Proof.Machine.execCfetch m s
  | .cwp m => Sys2Proof.Machine.execCwp m s
  | .creset m => Sys2Proof.Machine.execCreset m s
  | .sopen m => Sys2Proof.Machine.execSopen m s
  | .sisect m => Sys2Proof.Machine.execSisect m s
  | .sisectc m => Sys2Proof.Machine.execSisectc m s
  | .smerge m => Sys2Proof.Machine.execSmerge m s
  | .sdiff m => Sys2Proof.Machine.execSdiff m s
  | .sread m => Sys2Proof.Machine.execSread m s
  | .swbind m => Sys2Proof.Machine.execSwbind m s
  | .swfree m => Sys2Proof.Machine.execSwfree m s
  | .epatch m => Sys2Proof.Machine.execEpatch m s
  | .eload m => Sys2Proof.Machine.execEload m s
  | .erd m => Sys2Proof.Machine.execErd m s
  | .esave m => Sys2Proof.Machine.execEsave m s
  | .erest m => Sys2Proof.Machine.execErest m s
  | .estep m => Sys2Proof.Machine.execEstep m s
  | .eclk m => Sys2Proof.Machine.execEclk m s
  | .einc m => Sys2Proof.Machine.execEinc m s
  | .ecnt m => Sys2Proof.Machine.execEcnt m s
  | .frd m => Sys2Proof.Machine.execFrd m s
  | .fwr m => Sys2Proof.Machine.execFwr m s
  | .fwrrel m => Sys2Proof.Machine.execFwrrel m s
  | .fatom m => Sys2Proof.Machine.execFatom m s
  | .fmcred m => Sys2Proof.Machine.execFmcred m s
  | .fmcst m => Sys2Proof.Machine.execFmcst m s
  | .fgrp m => Sys2Proof.Machine.execFgrp m s
  | .fbar m => Sys2Proof.Machine.execFbar m s
  | .fstat m => Sys2Proof.Machine.execFstat m s
  | .nop m => Sys2Proof.Machine.execNop m s
  | .fmt m => Sys2Proof.Machine.execFmt m s
  | .csrr m => Sys2Proof.Machine.execCsrr m s
  | .csrw m => Sys2Proof.Machine.execCsrw m s
  | .fence m => Sys2Proof.Machine.execFence m s
  | .bar m => Sys2Proof.Machine.execBar m s
  | .trap m => Sys2Proof.Machine.execTrap m s
  | .halt m => Sys2Proof.Machine.execHalt m s
  | .cond m => Sys2Proof.Machine.execCond m s
  | .segend m => Sys2Proof.Machine.execSegend m s
  | .tissue m => Sys2Proof.Machine.execTissue m s
  | .tstat m => Sys2Proof.Machine.execTstat m s
  | .tsc m => Sys2Proof.Machine.execTsc m s
  | .mark m => Sys2Proof.Machine.execMark m s

end Sys2Proof.Machine
end

