-- ==== Sys2Proof/Machine/Step.lean ====
section
/-! DEFINITION. One step of the module, and the placing of an instruction where the next step fetches it. -/

namespace Sys2Proof.Machine

/-- One step: a step that is due in the core in focus, then one of the rest of the module, an input from outside, or the next core cycle.
[DEDUCED, log 168] -/
def step (s : State) : Host.Outcome State Fault Refusal :=
  match s.agenda with
  | e :: rest => exec e { s with agenda := rest }
  | [] =>
    match s.due with
    | e :: rest => exec e { s with due := rest }
    | [] =>
      match s.inbox with
      | e :: rest => exec e { s with inbox := rest }
      | [] => .next s.advance

/-- The core in focus runs a one-core launch whose segment is bundles 4 to 15, at bundle 4. [DESIGN CHOICE, log 7] -/
def Core.probe (c : Core) (i w : Nat) : Core :=
  { c with
    mode := .run
    task := { Task.none with rect := ⟨coreX i, coreY i, 1, 1⟩, spUnits := 64, accUnits := 128, launchId := 1 }
    imem := wrLE c.imem 64 16 w
    seg := ⟨1, 4, 15, none⟩
    fq := [Pos.plain 4]
    cur := Pos.plain 3 }

/-- The machine with a slot word in slot 0 of the bundle that the next step fetches; the other slots are zero. [DESIGN CHOICE, log 7] -/
def State.withFetchWord (s : State) (nbits w : Nat) : State :=
  { s with core := s.core.probe s.focus (w % 2 ^ (min nbits 128)), agenda := [.bundleIssue] }

end Sys2Proof.Machine
end

