-- ==== Sys2Proof/Safety.lean ====
section
/-! DEFINITION. The terms in which statements speak: when a slot move acts, what it puts in flight, what a stop keeps, which bytes
a store covers, and the invariants of storage. -/

namespace Sys2Proof.Machine

/-! ## Slot moves -/

/-- A slot move acts: its source is legal on a port of the class (R171, R173), its guard passes (R170), and the scoreboard finds
nothing against it (R353). -/
structure Fires (s : State) (cls : PortClass) (fmtUser : Bool) (m : Move) : Prop where
  legal : m.src.bad cls = none
  guard : s.core.guardPass m.guard = true
  clear : s.core.scoreboard cls m.src fmtUser = none

/-- There is room for n more items in flight: at most 48 are pending (R361). -/
def Room (s : State) (n : Nat) : Prop := inFlight s.core.tcc s.core.pend + n ≤ 48

/-- The scalar value that a slot's source supplies (R171, R172, R423). -/
def State.operand (s : State) (m : Move) : W64 := s.core.takeScalar m.src

/-- The vector value that a slot's source supplies (R171, R172, R423). -/
def State.voperand (s : State) (m : Move) : VReg := s.core.takeVector m.src

/-- The state after a trigger of `unit` put results in flight: each with its latency, its action and its flags, numbered in issue
order, and nothing else changed (R347, R361). -/
def State.sent (s : State) (unit : Nat) (items : List (Nat × PendAct × BitVec 7)) : State :=
  s.onCore fun c => { c with
    pend := c.pend ++ items.mapIdx fun i x =>
      { tcc := c.tcc + x.1, seq := c.seq + i, unit := unit, act := x.2.1, flags := x.2.2,
        org := { unit := unit, slot := c.slot, bundle := c.cur.idx, tcc := c.tcc } }
    seq := c.seq + items.length }

/-- A scalar result in flight: it will reach the unit's latch and the scalar queue (R14, R347). -/
def State.sentScalar (s : State) (unit lat : Nat) (v : W64) (fl : BitVec 7 := 0) : State :=
  s.sent unit [(lat, .scalar true (some v), fl)]

/-- A scalar result of VEC in flight: it will reach the scalar queue alone (R14). -/
def State.sentQueue (s : State) (unit lat : Nat) (v : W64) (fl : BitVec 7 := 0) : State :=
  s.sent unit [(lat, .scalar false (some v), fl)]

/-- A vector result in flight: it will reach the unit's vector latch and the vector queue (R14). -/
def State.sentVector (s : State) (unit lat : Nat) (v : VReg) (fl : BitVec 7 := 0) : State :=
  s.sent unit [(lat, .vector v, fl)]

/-- Rows are free for the slot being executed: no other slot of the same bundle uses in the same cycle another row of one of
their banks, or writes one of their rows with it (R81, R364). -/
def BanksFree (s : State) (store lat : Nat) (write : Bool) (offs : List Nat) : Prop :=
  ∀ o ∈ s.core.banks, ∀ off ∈ offs,
    o.bundle = s.core.bundle → o.slot ≠ s.core.slot → o.slot < 4 → o.tcc = s.core.tcc + lat → o.store = store →
    o.bank = (bankOf store off).1 → o.row = (bankOf store off).2 ∧ (o.write && write) = false

/-- The state after the slot being executed booked the rows of some offsets (R364). -/
def State.booked (s : State) (unit store lat : Nat) (write : Bool) (offs : List Nat) : State :=
  s.onCore fun c => { c with
    banks := c.banks ++ (offs.map (bankOf store)).dedup.map fun b =>
      { tcc := c.tcc + lat, store := store, bank := b.1, row := b.2, write := write, unit := unit, slot := c.slot, bundle := c.bundle } }

/-- Local bytes that a slot may read now: no copy unit that is due over them is unwritten (R355), and the scoreboard finds no
write of a slot and no copy unit on its way to them (R353). -/
structure Quiet (s : State) (store : Nat) (rs : List (Nat × Nat)) : Prop where
  copy : s.core.copyLate (coreDie s.focus) store rs = none
  shadow : s.sbmRanges store rs = .ok ()

/-! ## Stops -/

/-- The slot being executed stops the task with a precise fault: the task drains, the slots below are done, the position stands
first in the stream again, results in flight and registers are as before, and nothing more of the cycle happens (R229, R357,
R416, R419). -/
def StopsWith (s t : State) (cause : Cause) (reason faddr finfo : Nat) : Prop :=
  t = { s with
    agenda := []
    core := { s.core with
      mode := .stopping
      cycleOpen := false
      fq := s.core.cur :: s.core.fq
      walks := s.core.walks.filter fun w => w.failed.isNone
      stop := some
        { cause := some cause, reason := reason, slot := s.core.slot,
          done := s.core.doneMask ||| doneBelow s.core.slot s.core.curHdr, stallRem := 0, faddr := faddr, finfo := finfo,
          resumable := !cause.graph, after := false, org := .zero } } }

/-! ## Storage -/

/-- The storage of the module stands in its canonical form. -/
abbrev State.MemWf (s : State) : Prop := s.mem.wf = true

/-- Every byte outside n bytes from a reads as before. -/
def SameOutside (m m' : Mem) (a n : Nat) : Prop := ∀ x, (x < a ∨ a + n ≤ x) → rdByte m' x = rdByte m x

/-- The registers that bundles name, the latches and the queues, with the sticky flags and the format register (R17, R62, R56). -/
def SameRegs (c c' : Core) : Prop :=
  c'.regs.n = c.regs.n ∧ c'.regs.v = c.regs.v ∧ c'.regs.x = c.regs.x ∧ c'.regs.b = c.regs.b ∧ c'.regs.sq = c.regs.sq ∧
  c'.regs.vq = c.regs.vq ∧ c'.regs.sLatch = c.regs.sLatch ∧ c'.regs.vLatch = c.regs.vLatch ∧ c'.pstack = c.pstack ∧
  c'.fstat = c.fstat ∧ c'.fmt = c.fmt ∧ c'.cond = c.cond ∧ c'.tcc = c.tcc ∧ c'.scc = c.scc

/-- The local stores of a core (R17). -/
def SameStores (c c' : Core) : Prop := c'.sp = c.sp ∧ c'.acc = c.acc ∧ c'.imem = c.imem

/-- Everything outside the core in focus, but for the shared units of the module. -/
def SameOthers (s t : State) : Prop :=
  t.focus = s.focus ∧ t.others = s.others ∧ t.mem = s.mem ∧ t.wall = s.wall ∧ t.ts = s.ts ∧ t.inbox = s.inbox

/-! ## Running slots one after another (R179) -/

/-- The slots of a bundle, as instructions, act in order and none of them stops or waits: from s to t. -/
def Acts : List (Nat × Instr) → State → State → Prop
  | [], s, t => t = s
  | (k, i) :: rest, s, t =>
    ∃ u, exec i (s.onCore fun c => { c with slot := k }) = .next u ∧ u.core.mode ≠ .stopping ∧ u.core.mode ≠ .hold ∧ Acts rest u t

end Sys2Proof.Machine
end

