-- ==== Sys2Proof/Manual/Scalar.lean ====
section
/-! DEFINITION. The result tables of units 0 to 3 and 5 as the manual writes them, for statements to compare the model with:
exact integers and single bits, apart from the model's own definitions (R199 to R213). -/

namespace Sys2Proof.Manual
open Sys2Proof.Machine

/-- sh := t[5:0] (R199). -/
def sh (t : W64) : Nat := t.toNat % 64

/-- A truth value as a result. -/
def truth (p : Prop) [Decidable p] : W64 := if p then 1 else 0

/-- The low bits of x, read as signed with n bits. -/
def signed (n x : Nat) : Int := (x : Int).bmod (2 ^ n)

/-- sat_add16 of R67, on signed values. -/
def satAdd16 (a b : Int) : Int :=
  if a = 32767 ∨ b = 32767 then 32767
  else if a = -32768 ∨ b = -32768 then -32768
  else if 32766 < a + b then 32767
  else if a + b ≤ -32768 then -32768
  else a + b

/-- The ALU operations whose result the table of R199 states as one expression in a, b and t: the unit, the move, the result. -/
def aluForm : Instr → Option (BitVec 1 × Move × (W64 → W64 → W64 → W64))
  | .mov u m => some (u, m, fun _ _ t => t)
  | .add u m => some (u, m, fun a _ t => BitVec.ofNat 64 (a.toNat + t.toNat))
  | .sub u m => some (u, m, fun a _ t => BitVec.ofInt 64 (a.toInt - t.toInt))
  | .and u m => some (u, m, fun a _ t => a &&& t)
  | .or u m => some (u, m, fun a _ t => a ||| t)
  | .xor u m => some (u, m, fun a _ t => a ^^^ t)
  | .andn u m => some (u, m, fun a _ t => a &&& ~~~t)
  | .shl u m => some (u, m, fun a _ t => BitVec.ofNat 64 (a.toNat * 2 ^ sh t))
  | .shr u m => some (u, m, fun a _ t => BitVec.ofNat 64 (a.toNat / 2 ^ sh t))
  | .sar u m => some (u, m, fun a _ t => BitVec.ofInt 64 (a.toInt / 2 ^ sh t))
  | .rotl u m => some (u, m, fun a _ t => if sh t = 0 then a else (a <<< sh t) ||| (a >>> (64 - sh t)))
  | .min u m => some (u, m, fun a _ t => if a.toInt ≤ t.toInt then a else t)
  | .max u m => some (u, m, fun a _ t => if a.toInt ≤ t.toInt then t else a)
  | .minu u m => some (u, m, fun a _ t => if a.toNat ≤ t.toNat then a else t)
  | .maxu u m => some (u, m, fun a _ t => if a.toNat ≤ t.toNat then t else a)
  | .seteq u m => some (u, m, fun a _ t => truth (a = t))
  | .setne u m => some (u, m, fun a _ t => truth (a ≠ t))
  | .setlt u m => some (u, m, fun a _ t => truth (a.toInt < t.toInt))
  | .setltu u m => some (u, m, fun a _ t => truth (a.toNat < t.toNat))
  | .setle u m => some (u, m, fun a _ t => truth (a.toInt ≤ t.toInt))
  | .setleu u m => some (u, m, fun a _ t => truth (a.toNat ≤ t.toNat))
  | .sel u m => some (u, m, fun a b t => if t ≠ 0 then a else b)
  | .sext u m => some (u, m, fun a _ t => BitVec.ofInt 64 (signed (sh t + 1) a.toNat))
  | .zext u m => some (u, m, fun a _ t => BitVec.ofNat 64 (a.toNat % 2 ^ (sh t + 1)))
  | .addw u m => some (u, m, fun a _ t => BitVec.ofInt 64 (signed 32 (a.toNat + t.toNat)))
  | .subw u m => some (u, m, fun a _ t => BitVec.ofInt 64 (((a.toNat : Int) - t.toNat).bmod (2 ^ 32)))
  | .adds u m => some (u, m, fun a _ t => BitVec.ofInt 64 (max (-2 ^ 63) (min (2 ^ 63 - 1) (a.toInt + t.toInt))))
  | .subs u m => some (u, m, fun a _ t => BitVec.ofInt 64 (max (-2 ^ 63) (min (2 ^ 63 - 1) (a.toInt - t.toInt))))
  | .adds16 u m => some (u, m, fun a _ t => BitVec.ofInt 64 (satAdd16 (signed 16 a.toNat) (signed 16 t.toNat)))
  | .lea u m => some (u, m, fun a b t => BitVec.ofNat 64 (a.toNat + t.toNat * 2 ^ (b.toNat % 8)))
  | _ => none

/-- What R199 and R200 say of r, the result of a count or of a field operation on a, b and t, bit by bit. -/
def bitForm : Instr → Option (BitVec 1 × Move × (W64 → W64 → W64 → W64 → Prop))
  | .clz u m => some (u, m, fun _ _ t r =>
      r.toNat ≤ 64 ∧ (∀ k < r.toNat, t.getLsbD (63 - k) = false) ∧ (r.toNat < 64 → t.getLsbD (63 - r.toNat) = true))
  | .popc u m => some (u, m, fun _ _ t r => r.toNat = ((List.range 64).filter fun k => t.getLsbD k).length)
  | .bfx u m => some (u, m, fun a _ t r =>
      ∀ i < 64, r.getLsbD i = (decide (i < t.toNat / 64 % 64 + 1) && a.getLsbD (sh t + i)))
  | .bfi u m => some (u, m, fun a b t r =>
      ∀ i < 64, r.getLsbD i =
        if sh t ≤ i ∧ i < sh t + (t.toNat / 64 % 64 + 1) then b.getLsbD (i - sh t) else a.getLsbD i)
  | _ => none

/-- The multiplies of R201. -/
def mulForm : Instr → Option (Move × (W64 → W64 → W64 → W64))
  | .mul m => some (m, fun a _ t => BitVec.ofNat 64 (a.toNat * t.toNat))
  | .mulhs m => some (m, fun a _ t => BitVec.ofInt 64 (a.toInt * t.toInt / 2 ^ 64))
  | .mulhu m => some (m, fun a _ t => BitVec.ofNat 64 (a.toNat * t.toNat / 2 ^ 64))
  | .mulw m => some (m, fun a _ t => BitVec.ofInt 64 (signed 32 a.toNat * signed 32 t.toNat))
  | .madd m => some (m, fun a b t => BitVec.ofNat 64 (a.toNat * t.toNat + b.toNat))
  | _ => none

/-- The divides of R202, with the special cases that it lists. -/
def divForm : Instr → Option (Move × (W64 → W64 → W64))
  | .div m => some (m, fun a t =>
      if t = 0 then BitVec.ofNat 64 (2 ^ 64 - 1)
      else if a.toInt = -2 ^ 63 ∧ t.toInt = -1 then BitVec.ofNat 64 (2 ^ 63)
      else BitVec.ofInt 64 (a.toInt.tdiv t.toInt))
  | .divu m => some (m, fun a t => if t = 0 then BitVec.ofNat 64 (2 ^ 64 - 1) else BitVec.ofNat 64 (a.toNat / t.toNat))
  | .rem m => some (m, fun a t =>
      if t = 0 then a
      else if a.toInt = -2 ^ 63 ∧ t.toInt = -1 then 0
      else BitVec.ofInt 64 (a.toInt - a.toInt.tdiv t.toInt * t.toInt))
  | .remu m => some (m, fun a t => if t = 0 then a else BitVec.ofNat 64 (a.toNat - a.toNat / t.toNat * t.toNat))
  | _ => none

end Sys2Proof.Manual
end

