-- ==== Sys2Proof/Manual/Vector.lean ====
section
/-! DEFINITION. The result tables of FPS and VEC as the manual writes them, for statements to compare the model with: lanes and
mask bits as exact integers and single bits (R203 to R208, R246 to R256). -/

namespace Sys2Proof.Manual
open Sys2Proof.Machine

/-! ## FPS (R203 to R208) -/

/-- The FPS operations of latency 4 that use FMT: the result with its flags from FMT, a, b and t. The encodings of a, b and t
are their low 32 bits (R203); integers are 64 bits (R206, R207). -/
def fpsForm : Instr → Option (Move × (W32 → W64 → W64 → W64 → W64 × BitVec 7))
  | .fadd m => some (m, fun f a _ t => fpsRes (fpAdd (fmtRM f) (fmtFTZ f) (lo32 a) (lo32 t)))
  | .fsub m => some (m, fun f a _ t => fpsRes (fpSub (fmtRM f) (fmtFTZ f) (lo32 a) (lo32 t)))
  | .fmul m => some (m, fun f a _ t => fpsRes (fpMul (fmtRM f) (fmtFTZ f) (lo32 a) (lo32 t)))
  | .ffma m => some (m, fun f a b t => fpsRes (fpFma (fmtRM f) (fmtFTZ f) (lo32 a) (lo32 t) (lo32 b)))
  | .fmin m => some (m, fun f a _ t => fpsRes (fpMinMax false (fmtFTZ f) (lo32 a) (lo32 t)))
  | .fmax m => some (m, fun f a _ t => fpsRes (fpMinMax true (fmtFTZ f) (lo32 a) (lo32 t)))
  | .fminnum m => some (m, fun f a _ t => fpsRes (fpMinMaxNum false (fmtFTZ f) (lo32 a) (lo32 t)))
  | .fmaxnum m => some (m, fun f a _ t => fpsRes (fpMinMaxNum true (fmtFTZ f) (lo32 a) (lo32 t)))
  | .fcmpeq m => some (m, fun f a _ t => cmpRes (fpCmp (fmtFTZ f) 0 (lo32 a) (lo32 t)))
  | .fcmplt m => some (m, fun f a _ t => cmpRes (fpCmp (fmtFTZ f) 1 (lo32 a) (lo32 t)))
  | .fcmple m => some (m, fun f a _ t => cmpRes (fpCmp (fmtFTZ f) 2 (lo32 a) (lo32 t)))
  | .cvtif m => some (m, fun f _ _ t => fpsRes ((Fv.ofInt t.toInt).toFmt fp32 (fmtRM f) (fmtFTZ f)))
  | .cvtfi m => some (m, fun f _ _ t =>
      let r := toIntRange (fmtRM f) (-2 ^ 31) (2 ^ 31 - 1) (fp32.read (fmtFTZ f) (lo32 t))
      (BitVec.ofInt 64 r.1, r.2))
  | .cvtfb m => some (m, fun f _ _ t =>
      fpsRes (toNarrow bf16 (fmtRM f) (fmtFTZ f) (fmtSAT f) (fp32.read (fmtFTZ f) (lo32 t))))
  | .cvtbf m => some (m, fun f _ _ t => fpsRes ((bf16.read (fmtFTZ f) (t.toNat % 2 ^ 16)).toFmt fp32 (fmtRM f) false))
  | _ => none

/-- The FPS operations that read bits as they stand (R204, R208). -/
def fpsBitForm : Instr → Option (Move × (Nat → Nat))
  | .fabs m => some (m, fun t => t % 2 ^ 31)
  | .fneg m => some (m, fun t => (t + 2 ^ 31) % 2 ^ 32)
  | .fclass m => some (m, fun t =>
      let neg := 2 ^ 31 ≤ t
      let e := t / 2 ^ 23 % 256
      let f := t % 2 ^ 23
      if e = 255 ∧ f ≠ 0 then 256
      else if e = 255 then (if neg then 1 else 128)
      else if e ≠ 0 then (if neg then 2 else 64)
      else if f ≠ 0 then (if neg then 4 else 32)
      else if neg then 8 else 16)
  | _ => none

/-- fdiv and fsqrt, of latency 16 (R204). -/
def fpsLongForm : Instr → Option (Move × (W32 → W64 → W64 → W64 × BitVec 7))
  | .fdiv m => some (m, fun f a t => fpsRes (fpDiv (fmtRM f) (fmtFTZ f) (lo32 a) (lo32 t)))
  | .fsqrt m => some (m, fun f _ t => fpsRes (fpSqrt (fmtRM f) (fmtFTZ f) (lo32 t)))
  | _ => none

/-! ## Lanes (R247) -/

/-- The two 16-bit halves of a lane, each as a signed number, under an operation (R247). -/
def pair16 (f : Int → Int → Int) (a t : W32) : W32 :=
  BitVec.ofNat 32
    (((f (signed 16 (a.toNat / 65536)) (signed 16 (t.toNat / 65536))) % 65536).toNat * 65536 +
      ((f (signed 16 a.toNat) (signed 16 t.toNat)) % 65536).toNat)

/-- The lane-by-lane operations of R247: lane l of the result from lane l of a and of t. -/
def laneForm : Instr → Option (Move × (W32 → W32 → W32))
  | .vmov m => some (m, fun _ t => t)
  | .vadd m => some (m, fun a t => BitVec.ofNat 32 (a.toNat + t.toNat))
  | .vsub m => some (m, fun a t => BitVec.ofInt 32 (a.toInt - t.toInt))
  | .vmul m => some (m, fun a t => BitVec.ofNat 32 (a.toNat * t.toNat))
  | .vmin m => some (m, fun a t => if a.toInt ≤ t.toInt then a else t)
  | .vmax m => some (m, fun a t => if a.toInt ≤ t.toInt then t else a)
  | .vminu m => some (m, fun a t => if a.toNat ≤ t.toNat then a else t)
  | .vmaxu m => some (m, fun a t => if a.toNat ≤ t.toNat then t else a)
  | .vand m => some (m, fun a t => a &&& t)
  | .vor m => some (m, fun a t => a ||| t)
  | .vxor m => some (m, fun a t => a ^^^ t)
  | .vshl m => some (m, fun a t => BitVec.ofNat 32 (a.toNat * 2 ^ (t.toNat % 32)))
  | .vshr m => some (m, fun a t => BitVec.ofNat 32 (a.toNat / 2 ^ (t.toNat % 32)))
  | .vsar m => some (m, fun a t => BitVec.ofInt 32 (a.toInt / 2 ^ (t.toNat % 32)))
  | .vadds16 m => some (m, pair16 satAdd16)
  | .vmin16 m => some (m, pair16 min)
  | .vmax16 m => some (m, pair16 max)
  | _ => none

/-! ## Floating lanes (R248 to R250) -/

/-- The flags that the lanes of an operation raise, together (R246). -/
def laneFlags (r : Nat → FRes) : BitVec 7 := (List.range 64).foldl (fun acc l => acc ||| (r l).2) 0

/-- The lane-by-lane floating operations: the latency, and the result of a lane from FMT and the encodings of a, b and t
(R248, R249). -/
def floatForm : Instr → Option (Move × Nat × (W32 → Nat → Nat → Nat → FRes))
  | .vfadd m => some (m, 4, fun f a _ t => fpAdd (fmtRM f) (fmtFTZ f) a t)
  | .vfsub m => some (m, 4, fun f a _ t => fpSub (fmtRM f) (fmtFTZ f) a t)
  | .vfmul m => some (m, 4, fun f a _ t => fpMul (fmtRM f) (fmtFTZ f) a t)
  | .vffma m => some (m, 4, fun f a b t => fpFma (fmtRM f) (fmtFTZ f) a t b)
  | .vfmin m => some (m, 4, fun f a _ t => fpMinMax false (fmtFTZ f) a t)
  | .vfmax m => some (m, 4, fun f a _ t => fpMinMax true (fmtFTZ f) a t)
  | .vfexp2 m => some (m, 8, fun f _ _ t => exp2Lane (fmtFTZ f) t)
  | .vflog2 m => some (m, 8, fun f _ _ t => log2Lane (fmtFTZ f) t)
  | .vfrcp m => some (m, 8, fun f _ _ t => rcpLane (fmtFTZ f) t)
  | .vfrsqrt m => some (m, 8, fun f _ _ t => rsqrtLane (fmtFTZ f) t)
  | _ => none

/-- The conversions by a type code of FMT: the code, whether it is allowed, and the result of a lane from FMT, k and t
(R250, R253). The places of a vunpack's elements are those of its register t, so it takes the whole vector. -/
def convForm : Instr → Option (Move × (W32 → Bool) × (W32 → W64 → VReg → Nat → FRes))
  | .vcvtf m => some (m, (fun f => decide (fmtAT f ∈ [6, 7, 8, 9, 10])), fun f _ t l => cvtfLane f (lane t l).toNat)
  | .vcvti m => some (m, (fun f => decide (fmtBT f ∈ [6, 7, 8, 9, 10])), fun f _ t l => cvtiLane f (lane t l).toNat)
  | .vunpack m => some (m, (fun f => decide (fmtAT f ∈ [1, 2, 3, 4, 5, 6, 7, 8, 10])), fun f k t l => unpackLane f k t l)
  | _ => none

/-! ## Scalars out of vectors (R254 to R256) -/

/-- The compares of R254: bit l of the mask. -/
def cmpForm : Instr → Option (Move × (W32 → W32 → Bool))
  | .vcmpeq m => some (m, fun a t => decide (a = t))
  | .vcmplt m => some (m, fun a t => decide (a.toInt < t.toInt))
  | .vcmple m => some (m, fun a t => decide (a.toInt ≤ t.toInt))
  | _ => none

/-- The floating compares of R254: bit l of the mask and the lane's flags, from FTZ and the encodings. -/
def fcmpForm : Instr → Option (Move × (Bool → Nat → Nat → Bool × BitVec 7))
  | .vfcmpeq m => some (m, fun z a t => fpCmp z 0 a t)
  | .vfcmplt m => some (m, fun z a t => fpCmp z 1 a t)
  | .vfcmple m => some (m, fun z a t => fpCmp z 2 a t)
  | _ => none

/-- The lanes that k lets take part, as signed numbers. -/
def lanesIn (k : W64) (t : VReg) : List Int := ((List.range 64).filter fun l => k.getLsbD l).map fun l => (lane t l).toInt

/-- The integer reductions of R255: a number from the lanes that take part. -/
def reduceForm : Instr → Option (Move × (List Int → Int))
  | .vredadd m => some (m, fun xs => xs.sum.bmod (2 ^ 32))
  | .vredmin m => some (m, fun xs => xs.foldl min (2 ^ 31 - 1))
  | .vredmax m => some (m, fun xs => xs.foldl max (-2 ^ 31))
  | _ => none

/-- The operations on masks (R254): the result from k and t. -/
def maskForm : Instr → Option (Move × (W64 → W64 → W64))
  | .vmand m => some (m, fun k t => k &&& t)
  | .vmor m => some (m, fun k t => k ||| t)
  | .vmnot m => some (m, fun _ t => ~~~t)
  | .vmpopc m => some (m, fun _ t => BitVec.ofNat 64 ((List.range 64).filter fun l => t.getLsbD l).length)
  | _ => none

/-- The moves of lanes with a vector trigger (R254, R256): the latency, and lane l of the result from a, k and t. -/
def moveForm : Instr → Option (Move × Nat × (VReg → W64 → VReg → Nat → W32))
  | .vsel m => some (m, 2, fun a k t l => if k.getLsbD l then lane t l else lane a l)
  | .vperm m => some (m, 3, fun a _ t l => if (lane t l).getLsbD 6 then 0 else lane a ((lane t l).toNat % 64))
  | .vscan m => some (m, 6, fun _ k t l =>
      BitVec.ofNat 32 (((List.range (l + 1)).filter fun j => k.getLsbD j).map fun j => (lane t j).toNat).sum)
  | _ => none

/-- The moves of lanes with a scalar trigger and a vector result (R254): lane l from a, k and t. -/
def spreadForm : Instr → Option (Move × (VReg → W64 → W64 → Nat → W32))
  | .vbcast m => some (m, fun _ _ t _ => t.setWidth 32)
  | .vins m => some (m, fun a k t l => if l = t.toNat % 64 then k.setWidth 32 else lane a l)
  | _ => none

end Sys2Proof.Manual
end

