-- ==== Sys2Proof/Manual/Memory.lean ====
section
/-! DEFINITION. The memory forms of AGU and VMEM as the manual's tables list them, for statements to quantify over
(R228, R233, R234, R236, R237, R239 to R242). -/

namespace Sys2Proof.Manual
open Sys2Proof.Machine

/-! ## AGU (R227, R233 to R237) -/

/-- EA = (a + t) mod 2^64 of an AGU slot (R227). -/
def aguEA (s : State) (m : Move) : Nat := ((s.core.port 4 1).toNat + (s.operand m).toNat) % 2 ^ 64

/-- EA of a VMEM slot (R238). -/
def vmemEA (s : State) (m : Move) : Nat := ((s.core.port 7 1).toNat + (s.operand m).toNat) % 2 ^ 64

/-- The loads: bytes read, and whether the word is sign-extended (R233). -/
def loadForm : Instr → Option (Move × Nat × Ext)
  | .ld8 m => some (m, 1, .zero)
  | .ld8s m => some (m, 1, .sign)
  | .ld16 m => some (m, 2, .zero)
  | .ld16s m => some (m, 2, .sign)
  | .ld32 m => some (m, 4, .zero)
  | .ld32s m => some (m, 4, .sign)
  | .ld64 m => some (m, 8, .zero)
  | _ => none

/-- A word of w bytes as a 64-bit result. -/
def extended (e : Ext) (w v : Nat) : W64 :=
  match e with
  | .zero => BitVec.ofNat 64 (v % 2 ^ (8 * w))
  | .sign => BitVec.ofInt 64 (signed (8 * w) v)

/-- The stores: bytes written (R233). -/
def storeForm : Instr → Option (Move × Nat)
  | .st8 m => some (m, 1)
  | .st16 m => some (m, 2)
  | .st32 m => some (m, 4)
  | .st64 m => some (m, 8)
  | _ => none

/-- The atomics and the red forms: the operation, the bytes of its word, how the old word is extended, and whether it is
returned (R234, R236). -/
def atomForm : Instr → Option (Move × AmoOp × Nat × Ext × Bool)
  | .amoadd m => some (m, .add, 4, .sign, true)
  | .amomin m => some (m, .min, 4, .sign, true)
  | .amomax m => some (m, .max, 4, .sign, true)
  | .amominu m => some (m, .minu, 4, .zero, true)
  | .amomaxu m => some (m, .maxu, 4, .zero, true)
  | .amoand m => some (m, .and, 4, .zero, true)
  | .amoor m => some (m, .or, 4, .zero, true)
  | .amoxor m => some (m, .xor, 4, .zero, true)
  | .amoswap m => some (m, .swap, 4, .zero, true)
  | .amocas m => some (m, .cas, 4, .zero, true)
  | .amofadd m => some (m, .fadd, 4, .zero, true)
  | .amofmax m => some (m, .fmax, 4, .zero, true)
  | .amofmin m => some (m, .fmin, 4, .zero, true)
  | .amoadd64 m => some (m, .add, 8, .zero, true)
  | .amoswap64 m => some (m, .swap, 8, .zero, true)
  | .amocas64 m => some (m, .cas, 8, .zero, true)
  | .redadd m => some (m, .add, 4, .sign, false)
  | .redmin m => some (m, .min, 4, .sign, false)
  | .redmax m => some (m, .max, 4, .sign, false)
  | .redminu m => some (m, .minu, 4, .zero, false)
  | .redmaxu m => some (m, .maxu, 4, .zero, false)
  | .redand m => some (m, .and, 4, .zero, false)
  | .redor m => some (m, .or, 4, .zero, false)
  | .redxor m => some (m, .xor, 4, .zero, false)
  | .redfadd m => some (m, .fadd, 4, .zero, false)
  | .redfmax m => some (m, .fmax, 4, .zero, false)
  | .redfmin m => some (m, .fmin, 4, .zero, false)
  | .redadd64 m => some (m, .add, 8, .zero, false)
  | _ => none

/-- The new word of an integer atomic from its old one, d and c, all of n bits (R234); none for the floating forms. -/
def atomWord (op : AmoOp) (n old d c : Nat) : Option Nat :=
  match op with
  | .add => some ((old + d) % 2 ^ n)
  | .min => some (if signed n old ≤ signed n d then old else d)
  | .max => some (if signed n old ≤ signed n d then d else old)
  | .minu => some (min old d)
  | .maxu => some (max old d)
  | .and => some (old &&& d)
  | .or => some (old ||| d)
  | .xor => some (old ^^^ d)
  | .swap => some d
  | .cas => some (if old = c then d else old)
  | _ => none

/-- The waits: whether the word satisfies them, given c (R237). -/
def waitForm : Instr → Option (Move × Bool × (W64 → W64 → Bool))
  | .wge m => some (m, false, fun c v => decide (c.toNat ≤ v.toNat))
  | .wne m => some (m, true, fun c v => decide (v ≠ c))
  | _ => none

/-! ## VMEM (R239 to R242) -/

/-- The vector loads at an address: the store, the bytes read, the latency, and lane l from the offset (R239, R242). -/
def vloadForm : Instr → Option (Move × Nat × Nat × Nat × (Mem → Nat → Nat → W32))
  | .vld m => some (m, 0, 256, 6, fun b o l => BitVec.ofNat 32 (rdLE b (o + 4 * l) 4))
  | .vld8 m => some (m, 0, 64, 6, fun b o l => (rdByte b (o + l)).setWidth 32)
  | .vlda m => some (m, 1, 256, 8, fun b o l => BitVec.ofNat 32 (rdLE b (o + 4 * l) 4))
  | _ => none

/-- The virtual address of a local store's offset. -/
def storeBase (store : Nat) : Nat := if store = 0 then spBase else accBase

/-- The bytes of a local store. -/
def storeOf (c : Core) (store : Nat) : Mem := if store = 0 then c.sp else c.acc

/-- The size of a local store (R17). -/
def storeSize (store : Nat) : Nat := if store = 0 then 0x400000 else 0x800000

/-- Bytes lie in the footprint of the task, or in its task block (R25). -/
def inFootprint (t : Task) (store off n : Nat) : Bool := if store = 0 then t.spOk off n else t.accOk off n

/-- The rows of 64 bytes of n bytes (R79). -/
def rows (off n : Nat) : List Nat := (List.range (n / 64)).map fun r => off + 64 * r

/-- The leaf that a global access finds held is the first that serves it (R231). -/
def heldLeaf (s : State) (va : Nat) (read write : Bool) : Option Leaf :=
  (s.core.tlb ++ s.core.heldLeaves).find? fun l => l.serves s.core.task.asid va read write

/-- The address of lane l of an indexed access (R240). -/
def laneAt (s : State) (m : Move) (l : Nat) : Nat := vmemEA s m + 4 * (lane (s.core.vport 7 3) l).toNat

/-- The scratchpad offsets of lane group g (R240). -/
def groupAt (s : State) (m : Move) (g : Nat) : List Nat := (List.range 16).map fun i => laneAt s m (16 * g + i) - spBase

/-- What vldx and vstx ask of their addresses: every lane in the scratchpad and the footprint, EA aligned, and no two lanes of a
group in different rows of one bank (R240). -/
structure LanesLegal (s : State) (m : Move) : Prop where
  inside : ∀ l < 64, spBase ≤ laneAt s m l ∧ laneAt s m l < spBase + 0x400000
  aligned : vmemEA s m % 4 = 0
  foot : ∀ l < 64, s.core.task.spOk (laneAt s m l - spBase) 4 = true
  rows : ∀ g < 4, ∀ a ∈ groupAt s m g, ∀ b ∈ groupAt s m g, (bankOf 0 a).1 = (bankOf 0 b).1 → (bankOf 0 a).2 = (bankOf 0 b).2

/-- ring_row of R241, with the fields of R224. -/
def ringOffset (a t : W64) (r : Nat) : Int :=
  let size : Nat := a.toNat / 2 ^ 40
  let off : Nat := a.toNat % 2 ^ 24
  let m : Nat := 2 ^ Nat.log 2 size
  if size = 0 then (off : Int) + t.toInt + 64 * (r : Int)
  else Int.ofNat (off - off % m) + (Int.ofNat (off % m) + t.toInt + 64 * (r : Int)) % (m : Int)

/-- The four rows of a ring access stand at these offsets, and the access passes its checks (R241, R244). -/
def RingRows (a t : W64) (foot : Nat → Bool) (rs : List Nat) : Prop :=
  (a.toNat / 2 ^ 40 = 0 ∨ 64 ≤ a.toNat / 2 ^ 40) ∧
  ∃ r0 r1 r2 r3 : Nat, rs = [r0, r1, r2, r3] ∧ ringOffset a t 0 = r0 ∧ ringOffset a t 1 = r1 ∧ ringOffset a t 2 = r2 ∧
    ringOffset a t 3 = r3 ∧ r0 % 64 = 0 ∧ ∀ r ∈ rs, foot r = true

/-- The state after the slot booked the rows of each lane group in the cycles that R240 gives. -/
def bookedGroups (s : State) (m : Move) (first : Nat) (write : Bool) : State :=
  (List.range 4).foldl (fun st g => st.booked 7 0 (first + g) write (groupAt s m g)) s

end Sys2Proof.Manual
end

