-- ==== Sys2Proof/Manual/Control.lean ====
section
/-! DEFINITION. The predicate stack, the transfers, the loops and the stream as the manual writes them, for statements to compare
the model with (R210 to R225). -/

namespace Sys2Proof.Manual
open Sys2Proof.Machine

/-! ## The predicate stack (R210 to R213); the top stands first -/

/-- A push, or PSTACK_OVER (R211). -/
def pushed (b : Bool) (st : List Bool) : Except Cause (List Bool) := if st.length < 16 then .ok (b :: st) else .error .pstackOver

/-- The stack of depth t[20:16] whose entry i above the bottom is bit i of t, or PSTACK_BAD (R212). -/
def stackFrom (t : W64) : Except Cause (List Bool) :=
  if t.toNat < 2 ^ 21 ∧ t.toNat / 2 ^ 16 ≤ 16 then .ok ((List.range (t.toNat / 2 ^ 16)).map fun i => t.getLsbD i).reverse
  else .error .pstackBad

/-- The predicate operations with a scalar trigger: the new stack, or the cause, from a, t and the stack (R210 to R212). -/
def stackForm : Instr → Option (Move × (W64 → W64 → List Bool → Except Cause (List Bool)))
  | .peq m => some (m, fun a t => pushed (decide (a = t)))
  | .pne m => some (m, fun a t => pushed (decide (a ≠ t)))
  | .plt m => some (m, fun a t => pushed (decide (a.toInt < t.toInt)))
  | .pltu m => some (m, fun a t => pushed (decide (a.toNat < t.toNat)))
  | .ple m => some (m, fun a t => pushed (decide (a.toInt ≤ t.toInt)))
  | .pleu m => some (m, fun a t => pushed (decide (a.toNat ≤ t.toNat)))
  | .pnot m => some (m, fun _ _ st => match st with | x :: r => .ok ((!x) :: r) | [] => .error .pstackUnder)
  | .pand m => some (m, fun _ _ st => match st with | x :: y :: r => .ok ((x && y) :: r) | _ => .error .pstackUnder)
  | .por m => some (m, fun _ _ st => match st with | x :: y :: r => .ok ((x || y) :: r) | _ => .error .pstackUnder)
  | .pdup m => some (m, fun _ _ st => match st with | x :: _ => pushed x st | [] => .error .pstackUnder)
  | .ppop m => some (m, fun _ _ st => match st with | _ :: r => .ok r | [] => .error .pstackUnder)
  | .wrps m => some (m, fun _ t _ => stackFrom t)
  | _ => none

/-- The votes: the lane mask, the vector and the vote pushed (R213). -/
def voteForm : Instr → Option (Move × (W64 → VReg → Bool))
  | .vany m => some (m, fun k t => decide (∃ l ∈ List.range 64, k.getLsbD l = true ∧ lane t l ≠ 0))
  | .vall m => some (m, fun k t => decide (∀ l ∈ List.range 64, k.getLsbD l = true → lane t l ≠ 0))
  | _ => none

/-! ## Transfers (R214 to R218) -/

/-- The unconditional transfers: whether the target is n31 rather than b[t[1:0]], and whether n31 is written (R214, R218). -/
def jumpForm : Instr → Option (Move × Bool × Bool)
  | .jmp m => some (m, false, false)
  | .call m => some (m, false, true)
  | .ret m => some (m, true, false)
  | _ => none

/-- The conditional transfers: the top for which they are taken, and whether they nullify (R215). -/
def condForm : Instr → Option (Move × Bool × Bool)
  | .jt m => some (m, true, false)
  | .jf m => some (m, false, false)
  | .jtn m => some (m, true, true)
  | .jfn m => some (m, false, true)
  | _ => none

/-- The position at issue is a delay bundle of a segend, whose own bundle is none: fewer than three bundles of the segment are left (R35). -/
def EndDelay (s : State) : Prop := ∃ k < 3, s.core.seg.ending = some k

/-- The two positions after the one at issue: those the stream names, and beyond them address order (R216). -/
def nextTwo (c : Core) : Pos × Pos :=
  match c.fq with
  | p :: q :: _ => (p, q)
  | [p] => (p, Pos.plain (p.idx + 1))
  | [] => (Pos.plain (c.cur.idx + 1), Pos.plain (c.cur.idx + 2))

/-- What the stream holds after the two positions that follow (R216). -/
def afterTwo (c : Core) : List Pos := c.fq.drop 2

/-- The stream after a taken transfer to a bundle: two delay positions, then the target (R216). -/
def redirected (c : Core) (g : BitVec 14) : List Pos :=
  [{ (nextTwo c).1 with xferDelay := true }, { (nextTwo c).2 with xferDelay := true }, { Pos.plain g with target := true }]

/-- The stream after an untaken jtn or jfn: the next two positions are nullified (R216). -/
def nullified (c : Core) : List Pos :=
  { (nextTwo c).1 with null := true } :: { (nextTwo c).2 with null := true } :: afterTwo c

/-- A branch target that R214 allows, and its bundle. -/
def GoodTarget (x : W64) (g : BitVec 14) : Prop := x.toNat = 16 * g.toNat

/-! ## Loops (R220 to R224) -/

/-- What the loop trigger asks besides its count (R221, R225): no delay bundle of a segend, of a loop or of a transfer, a free level, the body inside the
segment and, under an active level, inside that level's body with its end before it. -/
structure LoopLegal (s : State) : Prop where
  open_ : ¬ EndDelay s
  noDelay : s.core.cur.loopDelay = false ∧ s.core.cur.xferDelay = false
  free : s.core.loops.inner.active = false
  body : s.core.loops.pendFirst ≤ s.core.loops.pendLast ∧ s.core.seg.first ≤ s.core.loops.pendFirst ∧
    s.core.loops.pendLast ≤ s.core.seg.last
  nest : s.core.loops.outer.active = true →
    s.core.loops.outer.first ≤ s.core.loops.pendFirst ∧ s.core.loops.pendLast < s.core.loops.outer.last

/-- The stage predicates at the start of a pass: SP_k takes SP_(k-1) below the stage count, SP_0 tells whether LCNT > 0 (R222). -/
def nextStages (l : Level) (sp : BitVec 8) : Prop :=
  ∀ k < 8, sp.getLsbD k =
    if k = 0 then decide (l.count ≠ 0) else if k ≤ l.stages.toNat then l.sp.getLsbD (k - 1) else false

/-- rotate of R224: only OFF changes, within the ring of the largest power of two not above SIZE. -/
def rotated (x : W64) : W64 :=
  let size : Nat := x.toNat / 2 ^ 40
  let off : Nat := x.toNat % 2 ^ 24
  let m : Nat := 2 ^ Nat.log 2 size
  let moved : Int := (Int.ofNat off + signed 16 (x.toNat / 2 ^ 24)) % (m : Int)
  if size = 0 then x else BitVec.ofNat 64 (x.toNat / 2 ^ 24 * 2 ^ 24 + (off - off % m + moved.toNat) % 2 ^ 24)

end Sys2Proof.Manual
end

