-- ==== Sys2Proof/Manual/Engine.lean ====
section
/-! DEFINITION. What the commands of units 9 to 13 ask at issue, in the words of R275 to R278 and R308, for statements to quantify over. -/

namespace Sys2Proof.Manual
open Sys2Proof.Machine

/-- Bits hi to lo of a number. -/
def bits (x hi lo : Nat) : Nat := x / 2 ^ lo % 2 ^ (hi + 1 - lo)

/-- Word k of a descriptor. -/
def word (d : List Nat) (k : Nat) : Nat := d.getD k 0

/-- START of a descriptor, on SCC, and as the TCC cycle it becomes at issue (R275, R277). -/
def scStart (d : List Nat) : Nat := word d 0 / 2 ^ 16
def startAt (s : State) (d : List Nat) : Nat := s.core.tcc + scStart d - s.core.scc.toNat

/-- A descriptor command of a unit and port reads d at its trigger value: the row is inside the footprint, aligned, not due from a
copy, its bank free; TAG is the port, the reserved bits of word 0 are 0, TC too where the unit takes none, and every other word keeps
to the bits that its command defines (R275, R276). -/
structure Reads (s : State) (unit port : Nat) (defined : List Nat) (t : W64) (d : List Nat) : Prop where
  inside : t.toNat < 0x400000
  aligned : t.toNat % 64 = 0
  foot : s.core.task.spOk t.toNat 64 = true
  copy : s.core.copyLate (coreDie s.focus) 0 [(t.toNat, 64)] = none
  bank : BanksFree s 0 0 false [t.toNat]
  row : d = (List.range 8).map fun w => rdLE s.core.sp (t.toNat + 8 * w) 8
  tag : word d 0 % 2 ^ 8 = port
  zero : bits (word d 0) 15 11 = 0
  tc : unit = 9 ∨ unit = 12 → bits (word d 0) 10 8 = 0
  rest : ∀ k < 7, Nat.land (word d (k + 1)) (defined.getD k 0) = word d (k + 1)

/-- The lead rule: issue at least 16 cycles before START, and at most 2^32 (R277). -/
def Leads (scc : Nat) (d : List Nat) : Prop := scc + 16 ≤ scStart d ∧ scStart d ≤ scc + 2 ^ 32

/-- The pages of the live commands and of a new one stay within the limit (R414). -/
def PinsFit (s : State) (ls : List Leaf) : Prop := (pagesOf (s.core.eng.pins.flatMap (·.2) ++ ls)).length ≤ 4096

/-- Every global range of a command is translated: these leaves cover what it reads and what it writes (R276, R299). -/
def Covered (s : State) (reads writes : List (Nat × Nat)) (ls : List Leaf) : Prop :=
  ∃ l1 l2, s.coverRanges true false reads [] = .ok l1 ∧ s.coverRanges false true writes [] = .ok l2 ∧ ls = l1 ++ l2

/-- A command that pins no page may enter: the lead rule holds, and its queue has room (R276 to R278). -/
structure Enters (s : State) (d : List Nat) (room : Prop) : Prop where
  pins : PinsFit s []
  lead : Leads s.core.scc.toNat d
  room : room

/-- A command with global ranges may enter, with the leaves it pins (R276 to R278, R414). -/
structure EntersWith (s : State) (d : List Nat) (reads writes : List (Nat × Nat)) (room : Prop) (ls : List Leaf) : Prop where
  pages : Covered s reads writes ls
  pins : PinsFit s ls
  lead : Leads s.core.scc.toNat d
  room : room

/-- The state after a command of a unit read its row and took the next number; the rest of its entry follows. -/
def commanded (s : State) (unit : Nat) (t : W64) (f : Engines → Engines) : State :=
  (s.booked unit 0 0 false [t.toNat]).onEng fun e => f { e with nid := e.nid + 1 }

/-- The Kiln takes a shadow write of a latency (R132, R279 to R281). -/
def shadowed (s : State) (t : W64) (d : List Nat) (lat : Nat) (a : ShadowAct) : State :=
  commanded s 9 t fun e => { e with kiln := { e.kiln with
    writes := e.kiln.writes ++ [⟨s.core.eng.nid, startAt s d, startAt s d + lat, a⟩] } }

/-- No switch token runs through the array in a cycle (R132). -/
def NoToken (s : State) (t : Nat) : Prop := ∀ x ∈ s.core.eng.kiln.tokens, t < x.w ∨ x.w + 129 < t

/-- The Kiln's queue holds fewer than eight commands (R278). -/
def KilnRoom (s : State) : Prop := s.core.eng.kiln.pending s.core.tcc < 8

/-- A 32-bit field in two's complement. -/
def stride (x : Nat) : Int := signed 32 x

/-- The copy that a descriptor of R290 describes, on a channel. -/
def copyOf (s : State) (ch : Nat) (d : List Nat) : Copy :=
  let rows := bits (word d 3) 33 18 + 1
  let rlu := bits (word d 3) 17 0 + 1
  { id := s.core.eng.nid, ch := ch, start := startAt s d, cls := BitVec.ofNat 3 (bits (word d 0) 10 8), rows := rows, rlu := rlu, src := word d 1,
    sstride := stride (bits (word d 4) 31 0),
    dst := if bits (word d 2) 60 60 = 1 then .ring (bits (word d 2) 59 57) (s.core.ring (bits (word d 2) 59 57)).fill
      else .addr (bits (word d 2) 56 0) (stride (bits (word d 4) 63 32))
    esz := 2 * word d 5, leaves := [],
    binds := (s.core.srcBinds ((List.range rows).map fun (r : Nat) =>
      ((word d 1 : Int) + stride (bits (word d 4) 31 0) * r, 64 * rlu))).map fun x => (x.1, x.2.2)
    pflag := s.core.pflag.toNat,
    first := 0, issued := 0, written := 0, units := [], raised := false, follow := none, org := s.core.here 10 }

/-- The fields of a copy's descriptor are legal: strides of 64, addresses aligned, nothing beside a ring destination (R290). -/
structure CopyFields (d : List Nat) : Prop where
  sstride : bits (word d 4) 31 0 % 64 = 0
  dstride : bits (word d 4) 63 32 % 64 = 0
  src : word d 1 % 64 = 0
  dst : bits (word d 2) 56 0 % 64 = 0
  ring : bits (word d 2) 60 60 = 1 → bits (word d 2) 56 0 = 0 ∧ bits (word d 4) 63 32 = 0
  plain : bits (word d 2) 60 60 = 0 → bits (word d 2) 59 57 = 0

/-- The bits that R290 defines in words 1 to 7. -/
def copyWords : List Nat := [2 ^ 57 - 1, 2 ^ 61 - 1, 2 ^ 34 - 1, 2 ^ 64 - 1, 3, 2 ^ 24 - 1, 0]

/-- The global ranges that a copy reads, and those it writes (R291). -/
def copyReads (c : Copy) : List (Nat × Nat) := globalParts c.srcRows
def copyWrites (s : State) (c : Copy) : List (Nat × Nat) :=
  match c.dst with
  | .addr _ _ => globalParts (s.core.dstRows c)
  | .ring _ _ => []

/-- A channel holds fewer than four copies that have not started (R278). -/
def CopyRoom (s : State) (ch : Nat) : Prop := (s.core.eng.copies.filter fun k => k.ch == ch && s.core.tcc < k.start).length < 4

/-- The channel that cpy.a names (R274). -/
def Channel (s : State) (ch : Nat) : Prop := (s.core.port 10 1).toNat = ch ∧ ch ≤ 1

/-- Completion word and operands of a FAB command (R307, R308). -/
def fabA (s : State) : Nat := (s.core.port 13 1).toNat
def fabB (s : State) : W64 := s.core.port 13 2
def fabCw (s : State) : Nat := (s.core.port 13 3).toNat

/-- The completion word is an 8-byte aligned word of the footprint or the task block (R308). -/
def CwOk (s : State) : Prop := fabCw s % 8 = 0 ∧ fabCw s < 0x400000 ∧ s.core.task.spOk (fabCw s) 8 = true

/-- A local block of a FAB command: 64-byte aligned, in the footprint of the scratchpad or the accumulator store or in global memory
(R308). -/
def LocalOk (s : State) (a len : Nat) : Prop :=
  a % 64 = 0 ∧ a + len ≤ 2 ^ 57 ∧
  ((∃ off, regionOf a = .sp off ∧ off + len ≤ 0x400000 ∧ s.core.task.spOk off len = true) ∨
    (∃ off, regionOf a = .acc off ∧ off + len ≤ 0x800000 ∧ s.core.task.accOk off len = true) ∨
    (regionOf a = .global ∧ a + len ≤ peerBase))

/-- The global part of a local block. -/
def pagesAt (a len : Nat) : List (Nat × Nat) := if regionOf a = .global ∧ len ≠ 0 then [(a, len)] else []

/-- The state after a FAB command entered its queue, in core order (R100, R308). -/
def fabbed (s : State) (t : W64) (d : List Nat) (op : FabOp) (a : Nat) (b : W64) (count : Nat) (ls : List Leaf) (f : Fab → Fab) : State :=
  let id := s.core.eng.nid
  let cmd : FabCmd :=
    { id := id, start := startAt s d, cls := BitVec.ofNat 3 (bits (word d 0) 10 8), op := op, a := a, b := b, cw := fabCw s,
      gid := s.core.gid, count := count, leaves := ls, asked := 0, src := [], org := s.core.here 13 }
  (commanded s 13 t fun e => { e with
    fab := f { e.fab with cmds := e.fab.cmds ++ [cmd] }
    pins := if ls.isEmpty then e.pins else e.pins ++ [(id, ls)] }).onCore fun c => { c with gid := c.gid + 1 }

/-- The places in core order that the global writes of the command just entered take, after the command's own (R98, R100). -/
def placed (d : List Nat) (ls : List Leaf) (pages : List (Nat × Nat)) (t : State) : State :=
  let g := t.core.gid - 1
  let at_ := pages.flatMap fun w => (List.range (w.2 / 64)).map fun k => w.1 + 64 * k
  t.onCore fun c => { c with
    gid := c.gid + (pages.map fun w => w.2 / 64).sum
    gacc := c.gacc ++ at_.zipIdx.filterMap fun (va, k) => (ls.find? fun l => l.va ≤ va && va < l.va + l.size).map fun l =>
      { id := g + 1 + k, place := g, cls := BitVec.ofNat 3 (bits (word d 0) 10 8), va := va, pa := l.phys va 0, repl := l.rpl, act := .later
        arrive := 0, org := t.core.here 13, engine := true, perform := false, raced := none } }

/-- The FAB queue holds fewer than 16 commands (R308). -/
def FabRoom (s : State) : Prop := s.core.eng.fab.cmds.length < 16

/-- The state after an Ember command entered its queue (R303). -/
def embered (s : State) (t : W64) (d : List Nat) (a : EAct) : State :=
  commanded s 12 t fun e => { e with ember := { e.ember with
    cmds := e.ember.cmds ++ [⟨s.core.eng.nid, startAt s d, a, false, [], [], s.core.here 12⟩] } }

/-- Ember's queue holds fewer than eight commands that have not started (R278). -/
def EmberRoom (s : State) : Prop := (s.core.eng.ember.cmds.filter fun x => s.core.tcc < x.start).length < 8

end Sys2Proof.Manual
end

