-- ==== Sys2Proof/Manual/Command.lean ====
section
/-! DEFINITION. What SPS, FAB and CTL's tile instructions ask of a command, in the words of R297 to R321 and R369, and the entries that
they make. -/

namespace Sys2Proof.Manual
open Sys2Proof.Machine

/-! ## Sparse streams (R297 to R300) -/

/-- Bytes that a stream may name: in global memory, or in the footprint of the scratchpad; an output keeps off active index vectors
(R88, R297). -/
def StreamOk (s : State) (write : Bool) (a n : Nat) : Prop :=
  (regionOf a = .global ∧ a + n ≤ peerBase) ∨
  ∃ off, regionOf a = .sp off ∧ off + n ≤ 0x400000 ∧ s.core.task.spOk off n = true ∧ (write = true → s.core.indexHit off n = false)

/-- The global part of a stream. -/
def streamPages (a n : Nat) : List (Nat × Nat) := if n ≠ 0 ∧ regionOf a = .global then [(a, n)] else []

/-- The keys that OUTCAP must hold (R298). -/
def keysBound (op : SpsOp) (ns : List Nat) : Nat :=
  match op with
  | .isect => min (ns.getD 0 0) (ns.getD 1 0)
  | .isectc => 0
  | .diff => ns.getD 0 0
  | .merge _ => ns.sum

/-- The inputs' global ranges, and the output's (R299). -/
def spsReads (ins : List SSlot) : List (Nat × Nat) := ins.flatMap fun i => streamPages i.base (4 * i.n)
def spsWrites (op : SpsOp) (d : List Nat) : List (Nat × Nat) := if op = .isectc then [] else streamPages (word d 2) (4 * word d 3)

/-- Whether a leaf covers a byte of some ranges. -/
def touches (l : Leaf) (rs : List (Nat × Nat)) : Bool := rs.any fun r => decide (l.va < r.1 + r.2) && decide (r.1 < l.va + l.size)

/-- The due cycle of a command (R300): 8 cycles after START when every input lies in the scratchpad, 240 when every global one lies in
the local group or on a replicated page, 300 otherwise; then one cycle a key, and 8, or 24 for smerge. -/
def spsDueAt (s : State) (d : List Nat) (op : SpsOp) (ins : List SSlot) (ls : List Leaf) : Nat :=
  let far := ∃ l ∈ ls, touches l (spsReads ins) = true ∧ l.rpl = false ∧ l.pa / 0x6000000000 ≠ coreDie s.focus
  startAt s d + (if spsReads ins = [] then 8 else if far then 300 else 240) + (ins.map (·.n)).sum +
    (if ∃ dd, op = .merge dd then 24 else 8)

/-- What a stream command asks: a legal output of the capacity R298 requires, a start no earlier than the latest command's due cycle,
its pages translated, the lead rule, and room among four pending commands (R276, R298 to R300). -/
structure SpsFits (s : State) (d : List Nat) (op : SpsOp) (ins : List SSlot) (ls : List Leaf) : Prop where
  count : op = .isectc → word d 2 = 0 ∧ word d 3 = 0
  aligned : op ≠ .isectc → word d 2 % 4 = 0
  cap : op ≠ .isectc → keysBound op (ins.map (·.n)) ≤ word d 3
  out : op ≠ .isectc → word d 3 ≠ 0 → StreamOk s true (word d 2) (4 * word d 3)
  after : s.core.eng.spsEnd ≤ startAt s d
  enters : EntersWith s d (spsReads ins) (spsWrites op d) (s.core.spsPending < 4) ls

/-- The state after a stream command entered. -/
def streamed (s : State) (t : W64) (d : List Nat) (op : SpsOp) (ins : List SSlot) (ls : List Leaf) : State :=
  let id := s.core.eng.nid
  commanded s 11 t fun e => { e with
    sps := e.sps ++ [⟨id, startAt s d, spsDueAt s d op ins ls, BitVec.ofNat 3 (bits (word d 0) 10 8), op, ins, word d 2, [], false, 0, false,
      s.core.here 11⟩]
    spsEnd := spsDueAt s d op ins ls
    pins := if ls.isEmpty then e.pins else e.pins ++ [(id, ls)] }

/-- The parameters of swbind (R86, R302). -/
def bindingOf (d : List Nat) : Binding :=
  { tbase := word d 2, rows := bits (word d 3) 31 0, rsize := 64 * bits (word d 3) 38 32, rstride := word d 4,
    idx := bits (word d 5) 23 0, count := bits (word d 5) 63 32 }

/-- What R87 asks of a binding. -/
structure BindingOk (s : State) (b : Binding) : Prop where
  size : 64 ≤ b.rsize ∧ b.rsize ≤ 4096
  aligned : b.tbase % 64 = 0 ∧ b.rstride % 64 = 0 ∧ b.idx % 4 = 0
  count : 1 ≤ b.count ∧ b.count * b.rsize ≤ 0x4000000
  table : 1 ≤ b.rows ∧ b.tbase + b.rows * b.rstride ≤ peerBase
  foot : s.core.task.spOk b.idx (4 * b.count) = true

/-- The bits that R302 defines in words 1 to 7 of a swbind. -/
def bindWords : List Nat := [3, 2 ^ 57 - 1, 2 ^ 39 - 1, 2 ^ 40 - 1, 0xFFFFFFFF00FFFFFF, 0, 0]

/-! ## FAB (R307 to R320) -/

/-- A scratchpad field of 8 bytes that a FAB command names by its offset. -/
def FieldOk (s : State) (off : Nat) : Prop := off % 8 = 0 ∧ s.core.task.spOk off 8 = true

/-- A remote address of the alignment its form requires, within 57 bits. -/
def RemoteOk (a al : Nat) : Prop := a % al = 0 ∧ a < 2 ^ 57

/-- A group that this core has set up (R308). -/
def GroupUp (s : State) (g : Nat) : Prop := ∃ x ∈ s.core.eng.fab.groups, x.1 = g

/-- The bytes of an element of fmcred, and of its result (R318). -/
def elemIn (op type : Nat) : Nat := if op = 5 ∨ op = 6 then 8 else if type = 0 ∨ type = 9 then 4 else 2
def elemOut (op type : Nat) : Nat := if op = 5 ∨ op = 6 then 8 else if type = 8 then 2 else 4

/-- The pairs that R318 allows. -/
def RedPair (op type : Nat) : Prop :=
  (op = 0 ∧ type ∈ [0, 1, 8, 9]) ∨ (op ∈ [1, 2] ∧ type ∈ [0, 8, 9]) ∨ (op ∈ [3, 4] ∧ type ∈ [8, 9]) ∨ (op ∈ [5, 6] ∧ type ∈ [8, 9])

/-- The width of fatom's operation (R316). -/
def atomWidth (aop : Nat) : Nat := if aop ≤ 12 then 4 else 8

/-! ## Tile instructions (R330, R369) -/

/-- The four words of a tile instruction at a scratchpad offset. -/
def tileWords (s : State) (t : W64) : List Nat := (List.range 4).map fun k => rdLE s.core.sp (t.toNat + 8 * k) 8

/-- The completion area lies in the footprint, or its pages are translated and may be pinned (R369). -/
def AreaOk (s : State) (w : List Nat) (ls : List Leaf) : Prop :=
  (∃ off, regionOf (tileCw w) = .sp off ∧ s.core.task.spOk off 56 = true ∧ ls = []) ∨
  ((∀ off, regionOf (tileCw w) ≠ .sp off) ∧ s.coverRanges false true [(tileCw w, 56)] [] = .ok ls ∧ PinsFit s ls)

/-- What tissue asks of a word, in the order of R330 and R369. -/
structure TileOk (s : State) (w : List Nat) : Prop where
  word : tileWordOk w = true
  combo : 2 < tileOpc w ∨ (fmtCombo (tileFmt w) (tileSr w) = true ∧ (tileOpc w = 0 ∨ tileSr w ≠ 3))
  stage : 1 < tileLevel w ∨ 12 ≤ tileOpc w ∨ 16 ≤ s.core.task.spUnits
  granted : s.core.task.mayTarget w = true
  room : s.tilesOf.length < 4

end Sys2Proof.Manual
end

