-- ==== Sys2Proof/Manual/Event.lean ====
section
/-! DEFINITION. What the steps that no slot names act on, for statements to quantify over: the tag table, accesses at their controller,
Ember cells. -/

namespace Sys2Proof.Manual
open Sys2Proof.Machine

/-- The one entry of a list that bears its number. -/
def Only {α : Type} (f : α → Nat) (l : List α) (x : α) : Prop := x ∈ l ∧ ∀ y ∈ l, f y = f x → y = x

/-- The table of R113: the tag that a plain access by core c in generation g leaves, or the race it meets. -/
def tagRow (t c g : Nat) (write : Bool) : Except Cause Nat :=
  let mark := fun (frd : Nat) => c * 256 + g % 64 * 4 + frd
  let fresh := mark (if write then 0 else 1)
  let pub := bits t 1 1 = 1
  let frd := bits t 0 0 = 1
  if bits t 17 8 = 0x3FF ∨ bits t 7 2 ≠ g % 64 then .ok fresh
  else if bits t 17 8 = c then
    (if frd then (if write then .ok (mark 0) else .ok (mark 1)) else if write then .ok (mark 0) else .ok t)
  else if pub then .ok fresh
  else if frd then (if write then .error .raceWr else .ok fresh)
  else .error (if write then .raceWw else .raceRw)

/-- An access may perform: it has come to its controller, no fence of its core and no acquire that the core waits at holds it back, no
earlier access of the core that it must follow is outstanding, its die is not in reset, and its granule can be read (R101, R103, R105,
R232, R300, R443, R451). -/
structure MayPerform (s : State) (g : GAccess) : Prop where
  one : Only (·.id) s.core.gacc g
  here : g.arrive ≤ s.wall
  clean : g.raced = none
  known : g.act ≠ .later
  fences : ∀ f ∈ s.core.fences, f.holds g = false
  order : ∀ a ∈ s.core.gacc, a.place < g.place ∨ (a.place = g.place ∧ a.id < g.id) →
    (a.tagPa / 64 ≠ g.tagPa / 64 ∨ a.act = .read 8 .wait) ∧
    (a.org.unit = 11 → g.org.unit = 11 → a.act.writes = true → g.act.writes = false)
  acquired : s.core.wait = none ∨ g.engine = false ∨ g.place < s.core.waitFrom
  awake : s.atReset g = false
  good : s.spoilt g = false

/-- An access leaves the memory interface. -/
def gone (s : State) (g : GAccess) : List GAccess := s.core.gacc.filter fun a => a.id != g.id

/-- The opportunistic requests that bytes at an offset make: one for each row (R80). -/
def rowWrites (rank grp : Nat) (p : Nat × List Byte) : List OppReq :=
  (piecesOf p.1 p.2).map fun x => ⟨rank, grp, false, x.1, 0, x.2, .none⟩

/-- The value of source s of an Ember entry p: a cell's Z, or an external line (R143, R147). -/
def sourceOf (e : Ember) (now p k : Nat) : Int :=
  if bits p (13 * k + 8) (13 * k) < 256 then (sget ECell.zero e.cells (bits p (13 * k + 8) (13 * k))).z
  else e.line (bits p (13 * k + 8) (13 * k) - 256) now

/-- A sign code (R143). -/
def signOf (c : Nat) : Int := if c = 1 then 1 else if c = 3 then -1 else 0

/-- N and M of a cell's step (R143). -/
def sumN (e : Ember) (now p : Nat) : Int := ((List.range 4).map fun k => signOf (bits p (13 * k + 10) (13 * k + 9)) * sourceOf e now p k).sum
def sumM (e : Ember) (now p : Nat) : Int := ((List.range 4).map fun k => signOf (bits p (13 * k + 12) (13 * k + 11)) * sourceOf e now p k).sum

/-- What a cell's step comes to (R143): its new Y, residue, counter and Z. -/
def nextCell (e : Ember) (now p : Nat) (x : ECell) : ECell :=
  let u := x.r + sumN e now p * x.y
  let z := (u + 2 ^ 31) / (2 : Int) ^ 32
  ⟨x.y + sumM e now p * 2 ^ bits p 56 52, u - z * 2 ^ 32, x.cnt + BitVec.ofInt 32 z, z⟩

/-- The overruns of R153: |N| above LIM, |Z| above 1, Y beyond 32 bits. -/
def overruns (e : Ember) (now p : Nat) (x : ECell) : Prop :=
  bits p 61 59 < (sumN e now p).natAbs ∨ 1 < (nextCell e now p x).z.natAbs ∨
    (nextCell e now p x).y < -(2 : Int) ^ 31 ∨ (2 : Int) ^ 31 - 1 < (nextCell e now p x).y

/-- Whether an Ember domain steps in a cycle (R148). -/
def stepsAt (m : EMode) (now : Nat) : Prop :=
  (∃ o, m = .counted o ∧ o ≠ 0) ∨ ∃ n e, m = .periodic n e ∧ e < now ∧ (now - e) % n = 0

end Sys2Proof.Manual
end

