-- ==== Sys2Proof/Manual/Fabric.lean ====
section
/-! DEFINITION. The Flue island for statements to quantify over: neighbours that fit, targets that can be sent to, replies. -/

namespace Sys2Proof.Manual
open Sys2Proof.Machine

/-- The coordinate that a neighbour reports for dimension k, and this module's own (R431, R321). -/
def coordOf (id : W64) (k : Nat) : Nat := bits id.toNat (15 + 4 * k) (12 + 4 * k)

/-- The extents, as FL_ID holds them. -/
def extentsOf (id : W64) : Nat := bits id.toNat 35 24

/-- A neighbour on link n stands where the link's direction requires, in a group of the same extents (R433). -/
def InPlace (f : Flue) (n : Nat) (peer : W64) : Prop :=
  (∀ k < 3, k ≠ n / 2 → coordOf peer k = coordOf f.coords k) ∧ extentsOf peer = extentsOf f.coords ∧
  (n % 2 = 0 → coordOf peer (n / 2) = (coordOf f.coords (n / 2) + 1) % f.ext (n / 2)) ∧
  (n % 2 = 1 → coordOf peer (n / 2) = (coordOf f.coords (n / 2) + f.ext (n / 2) - 1) % f.ext (n / 2))

/-- The first link on the way to a module carries traffic (R434). -/
def Way (f : Flue) (m : Nat) : Prop := ∃ n next, f.hop f.self f.self m (f.entry m).long = some (n, next) ∧ f.linkUp n = true

/-- The island is in service: neither in RESET nor in a Flue reset (R445). -/
def InService (f : Flue) : Prop := f.state ≠ 0 ∧ f.resetting = false

/-- Incarnation a came before b, counted 1 to 255 and around; 0 is none (R437). -/
def Older (a b : BitVec 8) : Prop := b.toNat ≠ 0 ∧ a ≠ b ∧ (b.toNat + 255 - a.toNat) % 255 < 128

/-- A target that this module can send to: in the group, reachable, up, not this module, behind a link that carries traffic (R434, R438). -/
structure Sendable (f : Flue) (m : Nat) : Prop where
  way : Way f m
  grp : f.inGroup m = true
  reach : (f.entry m).unreach = false
  up : (f.entry m).down = false
  other : m ≠ f.self

/-- A reply went out for a request of another module (R438). -/
def Replied (s t : State) (r : RemoteReq) (code : Nat) (data : List Byte) : Prop :=
  t.mod.flue.outbox = s.mod.flue.outbox ++
    [.reply r.srcMod.toNat { tag := r.tag, srcMod := BitVec.ofNat 12 s.mod.flue.self, tgtInc := r.srcInc, code := code, data := data }]

/-- The local address space under which a remote request is translated (R311, R431). -/
def lasidOf (s : State) (r : RemoteReq) : Nat := bits (sget 0 s.mod.flue.asidMap r.srcAsid.toNat).toNat 12 0

/-- An inbound request that is served: the island is up, both incarnations fit, the endpoint is up, nothing waits ahead of it, its
ASID maps to one that is usable (R410, R438, R439). -/
structure Served (s : State) (r : RemoteReq) : Prop where
  on : InService s.mod.flue
  inc : r.tgtInc = s.mod.flue.inc
  up : s.mod.flue.up = true
  lane : s.mod.flue.waiting = []
  mapped : (sget 0 s.mod.flue.asidMap r.srcAsid.toNat).getLsbD 63 = true
  usable : bits (s.asidWord (lasidOf s r) 0) 63 63 = 1

/-- A scratchpad place of a running core that a remote address names (R311). -/
structure LiveAt (s : State) (r : RemoteReq) (i off len : Nat) : Prop where
  region : regionOf r.addr.toNat = .peer i off
  running : (s.coreAt i).mode = .run
  asid : (s.coreAt i).task.asid = lasidOf s r
  foot : (s.coreAt i).task.spOk off len = true

/-- The requests that bytes at an offset make at a core, one for each row, in a rank of R80's list and a group. -/
def rowsFor (rank grp off : Nat) (data : List Byte) : List OppReq :=
  (piecesOf off data).map fun p => ⟨rank, grp, false, p.1, 0, p.2, .none⟩

/-- An announcement with a state and an incarnation went out to every reachable member of the group (R432, R437). -/
def Announced (f g : Flue) (join : Bool) (inc : Nat) : Prop :=
  ∃ ms : List Nat, ms.Nodup ∧ (∀ m, m ∈ ms ↔ g.inGroup m = true ∧ m ≠ g.self ∧ g.reaches m = true) ∧
    g.outbox = f.outbox ++ ms.map fun m => .announce f.self m join inc

/-- The plane p of link n. -/
def planeAt (f : Flue) (n p : Nat) : Plane := vget ⟨false, 0, false⟩ (vget .down f.links n).planes p

/-- A counter that rises by one and saturates (R431). -/
def risesBy1 (f g : Flue) (k : Nat) : Prop := (vget 0 g.counters k).toNat = min ((vget 0 f.counters k).toNat + 1) (2 ^ 64 - 1)

end Sys2Proof.Manual
end

