-- ==== Sys2Proof/Manual/Launch.lean ====
section
/-! DEFINITION. Launches, tile instructions and the host's blocks, for statements to quantify over. -/

namespace Sys2Proof.Manual
open Sys2Proof.Machine

/-- One enabled queue alone, with one record at its head that nothing has looked at and that can be read (R397 to R401). -/
structure OneRecord (s : State) (q : Nat) (k : Queue) (w : List Nat) : Prop where
  alone : s.mod.queues = [(q, k)]
  queue : q < 64
  on : k.en = true ∧ k.rst = false ∧ k.ready = false ∧ k.headSince = none
  one : k.tail = k.head + 1
  words : w = s.recordAt q k.head.toNat
  clean : s.recordSpoilt q k.head.toNat = none
  noLaunch : s.mod.launches = [] ∧ s.mod.placing = []
  free : s.mod.hub.held = false

/-- A record's completion word can be written, and lies below the context area (R399, R400). -/
structure CwFree (s : State) (w : List Nat) : Prop where
  word : wordOk (recCw w) = true
  clean : s.poisoned (recCw w) 8 = false
  low : recCw w + 8 ≤ ctxBase

/-- The completion word of a record changed once, with a code (R402, R309). -/
def Completed (s t : State) (w : List Nat) (code : Nat) : Prop := rdLE t.mem (recCw w) 8 = completeWord (rdLE s.mem (recCw w) 8) code

/-- A part stands alone on the core in focus, and no bytes have come back for it. -/
structure PartAlone (s : State) (p : TilePart) : Prop where
  alone : s.core.eng.parts = [p]
  quiet : ∀ d ∈ s.core.eng.delivered, d.1 ≠ 15

/-- A core runs a launch that the scheduler has not taken off (R424). -/
structure RunsLaunch (s : State) (i : Nat) (l : Launch) : Prop where
  task : (s.coreAt i).task.launchId = l.id ∧ (s.coreAt i).task.slot = l.slot
  held : s.launchAt l.slot = some l
  running : l.state = .running
  named : rdLE s.mem (debugBlock i + 8) 8 = l.id.toNat

/-- RESULT of a debug block (R424). -/
def resultOf (s : State) (i : Nat) : Nat := bits (rdLE s.mem (debugBlock i + 16) 8) 15 8

end Sys2Proof.Manual
end

