-- ==== Sys2Proof/Certificates/Slice0/Obligations.lean ====
section
/-! DEFINITION. The statements for the provers. -/

open Sys2Proof Sys2Proof.Machine Sys2Proof.Manual

/-! ## ALU, MUL and FPS (R195 to R208) -/

/-- The ALU delivers the result that R199 gives for its operation to its latch and the queue one cycle later and changes nothing else at
issue: the operations that R199 writes as one expression, lea among them, and clz, popc, bfx and bfi by the bits of their word (R199,
R200). -/
def Obligations.AluResults : Prop :=
  (∀ (i : Instr) (u : BitVec 1) (m : Move) (f : W64 → W64 → W64 → W64) (s : State),
    aluForm i = some (u, m, f) → Fires s .scalar false m → Room s 1 →
    exec i s = .next (s.sentScalar u.toNat 1 (f (s.core.port u.toNat 1) (s.core.port u.toNat 2) (s.operand m)))) ∧
  (∀ (i : Instr) (u : BitVec 1) (m : Move) (p : W64 → W64 → W64 → W64 → Prop) (s : State),
    bitForm i = some (u, m, p) → Fires s .scalar false m → Room s 1 →
    ∃ r, p (s.core.port u.toNat 1) (s.core.port u.toNat 2) (s.operand m) r ∧ exec i s = .next (s.sentScalar u.toNat 1 r))

/-- The multiplies of R201 deliver three cycles later, also in the divider's window; the divides of R202 deliver quotient or remainder, with
the special cases of a zero divisor and of -2^63 by -1, after 34 cycles, and the divider is busy to the 32nd cycle after issue (R194). -/
def Obligations.MulResults : Prop :=
  (∀ (i : Instr) (m : Move) (f : W64 → W64 → W64 → W64) (s : State),
    mulForm i = some (m, f) → Fires s .scalar false m → Room s 1 →
    exec i s = .next (s.sentScalar 2 3 (f (s.core.port 2 1) (s.core.port 2 2) (s.operand m)))) ∧
  (∀ (i : Instr) (m : Move) (f : W64 → W64 → W64) (s : State),
    divForm i = some (m, f) → Fires s .scalar false m → Room s 1 → s.core.mulBusy = 0 ∨ s.core.mulBusy < s.core.tcc →
    exec i s = .next ((s.sentScalar 2 34 (f (s.core.port 2 1) (s.operand m))).onCore fun c => { c with mulBusy := c.tcc + 32 }))

/-- The FPS operations deliver the result of R204 to R207 with its flags after four cycles, rounding mode and FTZ taken from FMT at issue;
fabs, fneg and fclass read bits as they stand and set no flag; fdiv and fsqrt deliver after 16 cycles and keep the unit busy to the 14th
(R58, R194, R203 to R208). -/
def Obligations.FpsResults : Prop :=
  (∀ (i : Instr) (m : Move) (f : W32 → W64 → W64 → W64 → W64 × BitVec 7) (s : State),
    fpsForm i = some (m, f) → Fires s .scalar true m → Room s 1 →
    exec i s = .next
      (let r := f s.core.fmt (s.core.port 3 1) (s.core.port 3 2) (s.operand m)
       s.sentScalar 3 4 r.1 r.2)) ∧
  (∀ (i : Instr) (m : Move) (f : Nat → Nat) (s : State),
    fpsBitForm i = some (m, f) → Fires s .scalar false m → Room s 1 →
    exec i s = .next (s.sentScalar 3 4 (BitVec.ofNat 64 (f ((s.operand m).toNat % 2 ^ 32))))) ∧
  (∀ (i : Instr) (m : Move) (f : W32 → W64 → W64 → W64 × BitVec 7) (s : State),
    fpsLongForm i = some (m, f) → Fires s .scalar true m → Room s 1 → s.core.fpsBusy = 0 ∨ s.core.fpsBusy < s.core.tcc →
    exec i s = .next
      (let r := f s.core.fmt (s.core.port 3 1) (s.operand m)
       (s.sentScalar 3 16 r.1 r.2).onCore fun c => { c with fpsBusy := c.tcc + 14 }))

/-- In the window of R194 every divide form of MUL, and fdiv and fsqrt of FPS, stop with UNIT_BUSY on their slot. -/
def Obligations.LongUnitsBusy : Prop :=
  ∀ (i : Instr) (m : Move) (s : State),
    m.src.bad .scalar = none → s.core.guardPass m.guard = true →
    ((∃ f, divForm i = some (m, f)) ∧ 0 < s.core.mulBusy ∧ s.core.tcc ≤ s.core.mulBusy ∨
     (∃ f, fpsLongForm i = some (m, f)) ∧ 0 < s.core.fpsBusy ∧ s.core.tcc ≤ s.core.fpsBusy) →
    ∃ t, exec i s = .next t ∧ StopsWith s t .unitBusy 0 0 0

/-! ## VEC (R245 to R256) -/

/-- The operations of R247 act on each of the 64 lanes apart and deliver the vector after two cycles. -/
def Obligations.LaneResults : Prop :=
  ∀ (i : Instr) (m : Move) (f : W32 → W32 → W32) (s : State),
    laneForm i = some (m, f) → Fires s .vector false m → Room s 1 →
    exec i s = .next (s.sentVector 6 2 (vgen fun l => f (lane (s.core.vport 6 1) l) (lane (s.voperand m) l)))

/-- The floating operations and table functions of R248 and R249 act on each lane as FP32 with FMT as at issue, deliver after four
or eight cycles, and set the flags of all lanes together (R246). -/
def Obligations.FloatLaneResults : Prop :=
  ∀ (i : Instr) (m : Move) (lat : Nat) (f : W32 → Nat → Nat → Nat → FRes) (s : State),
    floatForm i = some (m, lat, f) → Fires s .vector true m → Room s 1 →
    exec i s = .next
      (let r := fun l => f s.core.fmt (lane (s.core.vport 6 1) l).toNat (lane (s.core.vport 6 2) l).toNat (lane (s.voperand m) l).toNat
       s.sentVector 6 lat (vgen fun l => BitVec.ofNat 32 (r l).1) (laneFlags r))

/-- vcvtf, vcvti and vunpack convert every lane by the type code of FMT and deliver after four cycles; a code they do not allow
stops with VFMT (R250, R253). -/
def Obligations.ConversionResults : Prop :=
  ∀ (i : Instr) (m : Move) (ok : W32 → Bool) (f : W32 → W64 → VReg → Nat → FRes) (s : State),
    convForm i = some (m, ok, f) →
    (Fires s .vector true m → Room s 1 → ok s.core.fmt = true →
      exec i s = .next
        (let r := f s.core.fmt (s.core.port 6 3) (s.voperand m)
         s.sentVector 6 4 (vgen fun l => BitVec.ofNat 32 (r l).1) (laneFlags r))) ∧
    (m.src.bad .vector = none → s.core.guardPass m.guard = true → ok s.core.fmt = false →
      ∃ t, exec i s = .next t ∧ StopsWith s t .vfmt 0 0 0)

/-- vpack delivers 128 converted elements after four cycles with the flags of all of them; where it chooses block scales they reach
VPSCALE with the result, scale j in byte j, and otherwise VPSCALE is left (R251, R252). -/
def Obligations.PackResult : Prop :=
  ∀ (m : Move) (s : State), Fires s .vector true m → fmtBT s.core.fmt ∈ [1, 2, 3, 4, 5, 6, 7, 8, 10] →
    let p := packAll s.core.fmt (s.core.vport 6 1) (s.voperand m)
    let result : Nat × PendAct × BitVec 7 :=
      (4, .vector (packVec s.core.fmt (s.core.vport 6 2) (s.core.port 6 3) p.1), p.1.foldl (fun acc r => acc ||| r.2) 0)
    let vpscale := fun (sc : List Nat) => BitVec.ofNat 64 (((List.range 4).map fun j => sc.getD j 0 % 256 * 256 ^ j).sum)
    Room s (if p.2 = none then 1 else 2) →
    exec (.vpack m) s = .next (s.sent 6
      (match p.2 with
        | none => [result]
        | some sc => [result, (4, .csr 0x013 (vpscale sc), 0)]))

/-- The compares of R254 deliver to the scalar queue alone the mask whose bit l compares lane l of a with lane l of t. -/
def Obligations.CompareMasks : Prop :=
  ∀ (i : Instr) (m : Move) (s : State), Room s 1 →
    (∀ p, cmpForm i = some (m, p) → Fires s .vector false m →
      ∃ r : W64, (∀ l < 64, r.getLsbD l = p (lane (s.core.vport 6 1) l) (lane (s.voperand m) l)) ∧
        exec i s = .next (s.sentQueue 6 2 r)) ∧
    (∀ p, fcmpForm i = some (m, p) → Fires s .vector true m →
      ∃ r : W64, (∀ l < 64, r.getLsbD l = (p (fmtFTZ s.core.fmt) (lane (s.core.vport 6 1) l).toNat (lane (s.voperand m) l).toNat).1) ∧
        exec i s = .next (s.sentQueue 6 4 r
          ((List.range 64).foldl (fun acc l =>
            acc ||| (p (fmtFTZ s.core.fmt) (lane (s.core.vport 6 1) l).toNat (lane (s.voperand m) l).toNat).2) 0)))

/-- The reductions of R255 run over the lanes that k lets take part and deliver after six cycles: the integer ones a sign-extended number,
absent lanes counting for nothing; vfredadd and vfredmax by the tree of R71 with the flags of every node, and with no lane +0.0 and the
canonical NaN. -/
def Obligations.Reductions : Prop :=
  (∀ (i : Instr) (m : Move) (f : List Int → Int) (s : State),
    reduceForm i = some (m, f) → Fires s .vector false m → Room s 1 →
    exec i s = .next (s.sentQueue 6 6 (BitVec.ofInt 64 (f (lanesIn (s.core.port 6 3) (s.voperand m)))))) ∧
  (∀ (m : Move) (s : State), Fires s .vector true m → Room s 1 →
    let f := s.core.fmt
    let leaves : List (Option FRes) :=
      (List.range 64).map fun l => if (s.core.port 6 3).getLsbD l then some ((lane (s.voperand m) l).toNat, 0) else none
    let tree := fun (g : Nat → Nat → FRes) (absent : Nat) =>
      (treeReduce (fun (x y : FRes) => let r := g x.1 y.1; (r.1, x.2 ||| y.2 ||| r.2)) leaves).getD (absent, 0)
    let add := tree (fpAdd (fmtRM f) (fmtFTZ f)) 0
    let max := tree (fpMinMax true (fmtFTZ f)) 0x7FC00000
    exec (.vfredadd m) s = .next (s.sentQueue 6 6 (BitVec.ofNat 64 add.1) add.2) ∧
    exec (.vfredmax m) s = .next (s.sentQueue 6 6 (BitVec.ofNat 64 max.1) max.2))

/-- The moves of lanes, the running sums, and the operations on masks of R254 and R256. -/
def Obligations.LaneMoves : Prop :=
  ∀ (i : Instr) (m : Move) (s : State), Room s 1 →
    (∀ lat f, moveForm i = some (m, lat, f) → Fires s .vector false m →
      exec i s = .next (s.sentVector 6 lat (vgen (f (s.core.vport 6 1) (s.core.port 6 3) (s.voperand m))))) ∧
    (∀ f, spreadForm i = some (m, f) → Fires s .scalar false m →
      exec i s = .next (s.sentVector 6 2 (vgen (f (s.core.vport 6 1) (s.core.port 6 3) (s.operand m))))) ∧
    (∀ f, maskForm i = some (m, f) → Fires s .scalar false m →
      exec i s = .next (s.sentQueue 6 2 (f (s.core.port 6 3) (s.operand m)))) ∧
    (i = .vextr m → Fires s .scalar false m →
      exec i s = .next (s.sentQueue 6 2 ((lane (s.core.vport 6 1) ((s.operand m).toNat % 64)).setWidth 64)))

/-! ## AGU (R227 to R237) -/

/-- A load delivers the bytes visible at issue, extended as its row says: from the scratchpad after 5 cycles and from the
accumulator store after 7, booking their bank at issue, and from the instruction store after 5 (R228, R230, R233). -/
def Obligations.LoadLocal : Prop :=
  ∀ (i : Instr) (m : Move) (w : Nat) (e : Ext) (s : State) (off : Nat),
    loadForm i = some (m, w, e) → Fires s .scalar false m → Room s 1 → aguEA s m % w = 0 →
    (∀ store ≤ 1, aguEA s m = storeBase store + off → off < storeSize store → inFootprint s.core.task store off w = true →
      Quiet s store [(off, w)] → BanksFree s store 0 false [off] →
      exec i s = .next ((s.booked 4 store 0 false [off]).sentScalar 4 (if store = 0 then 5 else 7)
        (extended e w (rdLE (storeOf s.core store) off w)))) ∧
    (aguEA s m = imemBase + off → off < 0x40000 →
      exec i s = .next (s.sentScalar 4 5 (extended e w (rdLE s.core.imem off w))))

/-- A global load whose translation is held sends its access to the memory interface in core order, and its result is due after 300
cycles from the local group or a replicated page and after 360 from another die's (R89, R230, R231). -/
def Obligations.LoadGlobal : Prop :=
  ∀ (i : Instr) (m : Move) (w : Nat) (e : Ext) (s : State) (leaf : Leaf),
    loadForm i = some (m, w, e) → Fires s .scalar false m → Room s 1 → aguEA s m % w = 0 → aguEA s m < peerBase →
    heldLeaf s (aguEA s m) true false = some leaf →
    exec i s = .next
      (let pa := leaf.pa + (aguEA s m - leaf.va)
       let near := leaf.rpl ∨ pa / 0x6000000000 = coreDie s.focus
       (s.sent 4 [(if near then 300 else 360, .scalar true none, 0)]).sendGlobal s.core.tcls (aguEA s m)
         (pa + if leaf.rpl then 0x6000000000 * coreDie s.focus else 0) leaf.rpl
         (.read w (.slot s.core.seq e)) (s.core.here 4) false)

/-- A store to a local store writes the low bytes of b two cycles later and books its bank then; a global store whose translation
is held goes to the memory interface, and a store to a peer leaves as a push store with the flag of PFLAG (R78, R228, R230, R233). -/
def Obligations.StoreResults : Prop :=
  ∀ (i : Instr) (m : Move) (w : Nat) (s : State) (off : Nat),
    storeForm i = some (m, w) → Fires s .scalar false m → aguEA s m % w = 0 →
    let v := (s.core.port 4 2).toNat % 2 ^ (8 * w)
    (∀ store ≤ 1, aguEA s m = storeBase store + off → off < storeSize store → inFootprint s.core.task store off w = true →
      (store = 0 → s.core.indexHit off w = false) → BanksFree s store 2 true [off] → Room s 1 →
      exec i s = .next ((s.booked 4 store 2 true [off]).sent 4
        [(2, if store = 0 then .spWrite off w v else .accWrite off w v, 0)])) ∧
    (∀ leaf, aguEA s m < peerBase → heldLeaf s (aguEA s m) false true = some leaf →
      (s.core.gacc.filter fun g => g.act.writes && g.act != .later).length < 64 →
      exec i s = .next (s.sendGlobal s.core.tcls (aguEA s m) (leaf.phys (aguEA s m) 0) leaf.rpl (.write (leBytes v w))
        (s.core.here 4) false)) ∧
    (∀ core < 768, aguEA s m = peerBase + core * 2 ^ 30 + off → off < 2 ^ 30 → s.core.task.rect.has core = true →
      s.core.task.spOk off w = true → s.core.pflag.toNat % 8 = 0 → s.core.pflag.toNat + 8 ≤ 65536 * s.core.task.spUnits →
      exec i s = .next (s.sendPushRows core [(off, leBytes v w)]))

/-- ld64 and st64 reach the register window: a read delivers the register after five cycles, a write lands in the next (R77, R228). -/
def Obligations.RegisterWindow : Prop :=
  ∀ (m : Move) (s : State) (n : Nat), Fires s .scalar false m → Room s 1 → n < 0x1000 → aguEA s m = csrBase + 8 * n →
    (∀ v, s.core.csrRead n = some v → (n = 2 → s.core.schedCtl.getLsbD 3 = true → s.core.fmtShadow = none) →
      exec (.ld64 m) s = .next (s.sentScalar 4 5 v)) ∧
    (s.core.csrwBad n (s.core.port 4 2) = none →
      exec (.st64 m) s = .next (s.sent 4 [(1, .csr (BitVec.ofNat 12 n) (s.core.port 4 2), 0)]))

/-- An atomic or a red form on the scratchpad makes its step two cycles later, booking its bank then, an atomic's old word being due after
eight; a global one goes to the memory interface, its old word due after 420; the word that an integer atomic leaves is that of R234
(R228, R230, R234, R236). -/
def Obligations.AtomicResults : Prop :=
  (∀ (i : Instr) (m : Move) (op : AmoOp) (w : Nat) (e : Ext) (ret : Bool) (s : State) (off : Nat),
    atomForm i = some (m, op, w, e, ret) → Fires s .scalar false m → aguEA s m % w = 0 →
    let a : Amo := ⟨op, w, s.core.port 4 2, s.core.port 4 3, e⟩
    (aguEA s m = spBase + off → off < 0x400000 → s.core.task.spOk off w = true → s.core.indexHit off w = false →
      Quiet s 0 [(off, w)] → BanksFree s 0 2 true [off] → Room s (if ret then 2 else 1) →
      exec i s = .next ((s.booked 4 0 2 true [off]).sent 4
        ((if ret then [(8, .scalar true none, 0)] else []) ++ [(2, .spAmo off a (if ret then some s.core.seq else none), 0)]))) ∧
    (∀ leaf, aguEA s m < peerBase → heldLeaf s (aguEA s m) ret true = some leaf → leaf.rpl = false →
      (s.core.gacc.filter fun g => g.act.writes && g.act != .later).length < 64 → Room s 1 →
      exec i s = .next ((if ret then s.sent 4 [(420, .scalar true none, 0)] else s).sendGlobal s.core.tcls (aguEA s m)
        (leaf.pa + (aguEA s m - leaf.va)) false (.amo a (if ret then .slot s.core.seq e else .none)) (s.core.here 4) false))) ∧
  (∀ (op : AmoOp) (w old : Nat) (b c : W64) (e : Ext) (r : Nat), w = 4 ∨ w = 8 → old < 2 ^ (8 * w) →
    atomWord op (8 * w) old (b.toNat % 2 ^ (8 * w)) (c.toNat % 2 ^ (8 * w)) = some r → amoNew ⟨op, w, b, c, e⟩ old = r)

/-- A wait whose word satisfies it at issue ends at once, and any other pauses issue on its word; a global word that cannot be read in the issue
cycle, or does not satisfy the wait then, is read at its home controller (R237). -/
def Obligations.WaitResults : Prop :=
  ∀ (i : Instr) (m : Move) (ne : Bool) (p : W64 → W64 → Bool) (s : State) (off : Nat),
    waitForm i = some (m, ne, p) → Fires s .scalar false m → aguEA s m % 8 = 0 →
    let c := s.core.port 4 3
    let pause := fun (t : State) => t.onCore fun k => { k with wait := some (.word ne (aguEA s m) c s.core.slot none), waitFrom := k.gid }
    (aguEA s m = spBase + off → off < 0x400000 → s.core.task.spOk off 8 = true → BanksFree s 0 0 false [off] →
      exec i s = .next (if p c (BitVec.ofNat 64 (rdLE s.core.sp off 8)) then s.booked 4 0 0 false [off]
        else pause (s.booked 4 0 0 false [off]))) ∧
    (∀ n v, n < 0x1000 → aguEA s m = csrBase + 8 * n → s.core.csrRead n = some v →
      exec i s = .next (if p c v then s else pause s)) ∧
    (∀ leaf, aguEA s m < peerBase → heldLeaf s (aguEA s m) true false = some leaf → leaf.rpl = false →
      let pa := leaf.pa + (aguEA s m - leaf.va)
      exec i s = .next (if s.wordFree pa = true ∧ p c (BitVec.ofNat 64 (rdLE s.mem pa 8)) = true then s
        else (pause s).sendGlobal s.core.tcls (aguEA s m) pa false (.read 8 .wait) (s.core.here 4) false))

/-- The checks of an AGU slot in the order of R229, as far as they name the address alone: above bit 56, in a gap, in a region that
refuses the form (R228), misaligned, outside the footprint. Each stops with its cause and names the address. -/
def Obligations.AguRefusals : Prop :=
  ∀ (i : Instr) (m : Move) (s : State), m.src.bad .scalar = none → s.core.guardPass m.guard = true →
    let ea := aguEA s m
    let stops := fun (c : Cause) => ∃ t, exec i s = .next t ∧ StopsWith s t c 0 ea 0
    ((∃ x, loadForm i = some (m, x)) ∨ (∃ w, storeForm i = some (m, w)) ∨ (∃ x, atomForm i = some (m, x)) ∨
      (∃ x, waitForm i = some (m, x)) →
      (2 ^ 57 ≤ ea → stops .addrRange) ∧ (ea < 2 ^ 57 → regionOf ea = .gap → stops .windowGap)) ∧
    (∀ w e, loadForm i = some (m, w, e) →
      (∀ k o, ea < 2 ^ 57 → regionOf ea = .peer k o ∨ regionOf ea = .gather k o → stops .windowAccess) ∧
      (∀ o, regionOf ea = .csr o → w ≠ 8 ∨ ea % 8 ≠ 0 → stops .windowAccess) ∧
      (∀ o, ea < 2 ^ 57 → regionOf ea = .global ∨ regionOf ea = .sp o ∨ regionOf ea = .acc o ∨ regionOf ea = .imem o →
        ea % w ≠ 0 → stops .align) ∧
      (∀ o, regionOf ea = .sp o → ea % w = 0 → s.core.task.spOk o w = false → stops .footprint)) ∧
    (∀ w, storeForm i = some (m, w) →
      (∀ k o, ea < 2 ^ 57 → regionOf ea = .imem o ∨ regionOf ea = .gather k o → stops .windowWrite) ∧
      (∀ o, regionOf ea = .csr o → w ≠ 8 ∨ ea % 8 ≠ 0 → stops .windowAccess) ∧
      (∀ k o, ea < 2 ^ 57 → regionOf ea = .global ∨ regionOf ea = .sp o ∨ regionOf ea = .acc o ∨ regionOf ea = .peer k o →
        ea % w ≠ 0 → stops .align) ∧
      (∀ o, regionOf ea = .acc o → ea % w = 0 → s.core.task.accOk o w = false → stops .footprint)) ∧
    (∀ op w e ret, atomForm i = some (m, op, w, e, ret) →
      (∀ k o, ea < 2 ^ 57 → regionOf ea = .imem o ∨ regionOf ea = .gather k o → stops .windowWrite) ∧
      (∀ k o, ea < 2 ^ 57 → regionOf ea = .acc o ∨ regionOf ea = .csr o ∨ regionOf ea = .peer k o → stops .windowAccess) ∧
      (∀ leaf, regionOf ea = .global → ea % w = 0 → heldLeaf s ea ret true = some leaf → leaf.rpl = true → stops .replAtomic)) ∧
    (∀ x, waitForm i = some (m, x) →
      (∀ k o, ea < 2 ^ 57 → regionOf ea = .imem o ∨ regionOf ea = .acc o ∨ regionOf ea = .gather k o ∨ regionOf ea = .peer k o →
        stops .windowAccess) ∧
      (∀ o, regionOf ea = .csr o → ea % 8 ≠ 0 → stops .windowAccess))

/-! ## VMEM (R238 to R244) -/

/-- vld, vld8 and vlda deliver their lanes as visible at issue, booking the rows of their bytes then: after 6 cycles from the
scratchpad and after 8 from the accumulator store (R239, R242). -/
def Obligations.VectorLoads : Prop :=
  ∀ (i : Instr) (m : Move) (store n lat : Nat) (f : Mem → Nat → Nat → W32) (s : State) (off : Nat),
    vloadForm i = some (m, store, n, lat, f) → Fires s .scalar false m → Room s 1 → vmemEA s m = storeBase store + off →
    off < storeSize store → off % 64 = 0 → inFootprint s.core.task store off n = true → Quiet s store [(off, n)] →
    BanksFree s store 0 false (rows off n) →
    exec i s = .next ((s.booked 7 store 0 false (rows off n)).sentVector 7 lat (vgen (f (storeOf s.core store) off)))

/-- vst, vsta and vacc act on the 256 bytes at their address: b is written two cycles later, vacc's sum with FMT as at issue is made
three cycles later, and the four rows are booked for that cycle; a vst to a peer leaves as a push store (R239, R242). -/
def Obligations.VectorStores : Prop :=
  ∀ (m : Move) (s : State) (off : Nat), off % 64 = 0 →
    let b := s.core.vport 7 2
    (vmemEA s m = spBase + off → off < 0x400000 → Fires s .scalar false m → Room s 1 → s.core.task.spOk off 256 = true →
      s.core.indexHit off 256 = false → BanksFree s 0 2 true (rows off 256) →
      exec (.vst m) s = .next ((s.booked 7 0 2 true (rows off 256)).sent 7 [(2, .spWrite off 256 b.toNat, 0)])) ∧
    (∀ core < 768, vmemEA s m = peerBase + core * 2 ^ 30 + off → off < 2 ^ 30 → Fires s .scalar false m →
      s.core.task.rect.has core = true → s.core.task.spOk off 256 = true → s.core.pflag.toNat % 8 = 0 →
      s.core.pflag.toNat + 8 ≤ 65536 * s.core.task.spUnits →
      exec (.vst m) s = .next (s.sendPushRows core [(off, leBytes b.toNat 256)])) ∧
    (vmemEA s m = accBase + off → off < 0x800000 → Room s 1 → s.core.task.accOk off 256 = true →
      (Fires s .scalar false m → BanksFree s 1 2 true (rows off 256) →
        exec (.vsta m) s = .next ((s.booked 7 1 2 true (rows off 256)).sent 7 [(2, .accWrite off 256 b.toNat, 0)])) ∧
      (Fires s .scalar true m → BanksFree s 1 3 true (rows off 256) → fmtACC s.core.fmt = 0 ∨ fmtACC s.core.fmt = 9 →
        exec (.vacc m) s = .next ((s.booked 7 1 3 true (rows off 256)).sent 7 [(3, .accAdd off b s.core.fmt, 0)])))

/-- vldx samples the first lane group at issue and books each group's rows for its cycle, its result due after ten; vstx writes
group g of b in the cycle 2 + g, each lane in its place (R240). -/
def Obligations.IndexedVectors : Prop :=
  ∀ (m : Move) (s : State), Fires s .scalar false m → LanesLegal s m →
    let offs := (List.range 64).map fun l => laneAt s m l - spBase
    (Room s 1 → Quiet s 0 (offs.map fun o => (o, 4)) → (∀ g < 4, BanksFree s 0 g false (groupAt s m g)) →
      exec (.vldx m) s = .next ((bookedGroups s m 0 false).sent 7
        [(10, .vgather offs (ofLanes ((groupAt s m 0).map fun o => BitVec.ofNat 32 (rdLE s.core.sp o 4))), 0)])) ∧
    (Room s 4 → (∀ o ∈ offs, s.core.indexHit o 4 = false) → (∀ g < 4, BanksFree s 0 (2 + g) true (groupAt s m g)) →
      exec (.vstx m) s = .next ((bookedGroups s m 2 true).sent 7 ((List.range 4).map fun g =>
        (2 + g, .spLanes ((List.range 16).map fun i => (laneAt s m (16 * g + i) - spBase, lane (s.core.vport 7 2) (16 * g + i))), 0))))

/-- vldr and vstr take four rows of the ring that port a describes, wrapped as R241 says; vstr writes them two cycles later, or
pushes them to core VPEER.CORE when VPEER.EN is set. -/
def Obligations.RingVectors : Prop :=
  ∀ (m : Move) (s : State) (rs : List Nat), Fires s .scalar false m →
    (RingRows (s.core.port 7 1) (s.operand m) (fun r => s.core.task.spOk r 64) rs →
      (Room s 1 → Quiet s 0 (rs.map fun r => (r, 64)) → BanksFree s 0 0 false rs →
        exec (.vldr m) s = .next ((s.booked 7 0 0 false rs).sentVector 7 6
          (vgen fun l => BitVec.ofNat 32 (rdLE s.core.sp (rs.getD (l / 16) 0 + 4 * (l % 16)) 4)))) ∧
      (Room s 1 → s.core.vpeer.getLsbD 10 = false → (∀ r ∈ rs, s.core.indexHit r 64 = false) → BanksFree s 0 2 true rs →
        exec (.vstr m) s = .next ((s.booked 7 0 2 true rs).sent 7
          [(2, .spLanes ((List.range 64).map fun l => (rs.getD (l / 16) 0 + 4 * (l % 16), lane (s.core.vport 7 2) l)), 0)]))) ∧
    (RingRows (s.core.port 7 1) (s.operand m) (fun r => s.core.task.spOk r 64) rs → s.core.vpeer.getLsbD 10 = true →
      s.core.task.rect.has (s.core.vpeer.toNat % 1024) = true → s.core.pflag.toNat % 8 = 0 →
      s.core.pflag.toNat + 8 ≤ 65536 * s.core.task.spUnits →
      exec (.vstr m) s = .next (s.sendPushRows (s.core.vpeer.toNat % 1024)
        (rs.mapIdx fun k r => (r, leBytes ((s.core.vport 7 2).toNat / 2 ^ (512 * k) % 2 ^ 512) 64))))

/-! ## Ports and guards (R170 to R174, R191) -/

/-- A move to port 0 has no effect; a move to an operand port latches its value there at once; a write through NREG lands one cycle
later in its register, n0 discarding it (R173, R174, R191). -/
def Obligations.PortMoves : Prop :=
  (∀ (u : BitVec 4) (m : Move) (s : State), Fires s .any false m → exec (.port0Discard u m) s = .next s) ∧
  (∀ (u : BitVec 4) (p : BitVec 3) (m : Move) (s : State), operandClass u.toNat p.toNat = .scalar → Fires s .scalar false m →
    exec (.operandPortMove u p m) s = .next (s.onCore fun c =>
      { c with regs := { c.regs with sPort := vset c.regs.sPort (8 * u.toNat + p.toNat) (s.operand m) } })) ∧
  (∀ (p : BitVec 3) (m : Move) (s : State), Fires s .vector false m →
    (p = 1 ∨ p = 2 → exec (.operandPortMove 6 p m) s = .next (s.onCore fun c =>
      { c with regs := { c.regs with vPort := vset c.regs.vPort (p.toNat - 1) (s.voperand m) } })) ∧
    (p = 2 ∨ p = 3 → exec (.operandPortMove 7 p m) s = .next (s.onCore fun c =>
      { c with regs := { c.regs with vPort := vset c.regs.vPort p.toNat (s.voperand m) } }))) ∧
  (∀ (m : Move) (s : State), Fires s .any false m → exec (.nregWrite 0 m) s = .next s) ∧
  (∀ (p : BitVec 6) (m : Move) (s : State), Room s 1 →
    ((1 ≤ p.toNat ∧ p.toNat ≤ 31 ∨ 56 ≤ p.toNat) → Fires s .scalar false m →
      exec (.nregWrite p m) s = .next (s.sent 8 [(1, .reg p (s.operand m), 0)])) ∧
    (32 ≤ p.toNat ∧ p.toNat ≤ 47 → Fires s .vector false m →
      exec (.nregWrite p m) s = .next (s.sent 8 [(1, .vreg (BitVec.ofNat 4 (p.toNat - 32)) (s.voperand m), 0)])))

/-- A move whose guard fails has no effect, whatever instruction its slot names; its checks still apply: a source that R171 or R173
refuses stops with ILLEGAL_SLOT and its reason, whatever the guard (R170, R181, R182). -/
def Obligations.GuardsAndSources : Prop :=
  ∀ (i : Instr) (u p : Nat) (m : Move) (s : State), i.slot = some (u, p, m) → i.portOk = true →
    (m.src.bad (portClass u p) = none → s.core.guardPass m.guard = false → exec i s = .next s) ∧
    (∀ r, m.src.bad (portClass u p) = some r → ∃ t, exec i s = .next t ∧ StopsWith s t .illegalSlot r.code 0 0)

/-! ## BRU (R209 to R226) -/

/-- tgt writes b[n], and every predicate operation and vote puts the stack of R211 to R213 in its place, visible in the next cycle;
a full or too shallow stack stops with its cause, and rdps returns the stack in the layout of R212. -/
def Obligations.Predicates : Prop :=
  ∀ (i : Instr) (m : Move) (s : State), Room s 1 →
    (∀ n, i = .tgt n m → Fires s .scalar false m → exec i s = .next (s.sent 5 [(1, .breg n (s.operand m), 0)])) ∧
    (∀ f st, stackForm i = some (m, f) → f (s.core.port 5 1) (s.operand m) s.core.pstack = .ok st → Fires s .scalar false m →
      exec i s = .next (s.sent 5 [(1, .pstack st, 0)])) ∧
    (∀ f c, stackForm i = some (m, f) → f (s.core.port 5 1) (s.operand m) s.core.pstack = .error c →
      m.src.bad .scalar = none → s.core.guardPass m.guard = true → ∃ t, exec i s = .next t ∧ StopsWith s t c 0 0 0) ∧
    (∀ f, voteForm i = some (m, f) → s.core.pstack.length < 16 → Fires s .vector false m →
      exec i s = .next (s.sent 5 [(1, .pstack (f (s.core.port 5 1) (s.voperand m) :: s.core.pstack), 0)])) ∧
    (∀ f, voteForm i = some (m, f) → 16 ≤ s.core.pstack.length → m.src.bad .vector = none → s.core.guardPass m.guard = true →
      ∃ t, exec i s = .next t ∧ StopsWith s t .pstackOver 0 0 0) ∧
    (i = .rdps m → Fires s .scalar false m →
      exec i s = .next (s.sentScalar 5 1 (BitVec.ofNat 64 (s.core.pstack.length * 2 ^ 16 +
        ((List.range s.core.pstack.length).map fun k =>
          if s.core.pstack.reverse.getD k false then 2 ^ k else 0).sum))))

/-- jmp, call and ret are taken: the next two positions of the stream issue, then the target; call writes n31 with its own offset
plus 48, ret reads it (R214 to R216, R218). -/
def Obligations.Jumps : Prop :=
  ∀ (i : Instr) (m : Move) (ret link : Bool) (s : State) (g : BitVec 14),
    jumpForm i = some (m, ret, link) → Fires s .scalar false m → Room s 1 →
    s.core.seg.ending = none → s.core.cur.loopDelay = false →
    GoodTarget (if ret then s.core.readN 31 else vget 0 s.core.regs.b ((s.operand m).toNat % 4)) g →
    let t := s.onCore fun c => { c with fq := redirected c g }
    exec i s = .next (if link then t.sent 5 [(1, .reg 31 (BitVec.ofNat 64 (16 * s.core.cur.idx.toNat + 48)), 0)] else t)

/-- jt, jf, jtn and jfn pop the stack and are taken when the top is the one they name; untaken, jtn and jfn nullify the next two
positions and jt and jf leave the stream (R215, R216). -/
def Obligations.Branches : Prop :=
  ∀ (i : Instr) (m : Move) (want nul top : Bool) (rest : List Bool) (s : State) (g : BitVec 14),
    condForm i = some (m, want, nul) → Fires s .scalar false m → Room s 1 →
    ¬ EndDelay s → (top = want → s.core.seg.ending = none) → s.core.cur.loopDelay = false → s.core.pstack = top :: rest →
    GoodTarget (vget 0 s.core.regs.b ((s.operand m).toNat % 4)) g →
    exec i s = .next ((s.sent 5 [(1, .pstack rest, 0)]).onCore fun c =>
      { c with fq := if top = want then redirected c g else if nul then nullified c else c.fq })

/-- What stops a transfer: a place among the delay bundles of a segend (BAD_END) or of a loop (LOOP_XFER), a target that is no
multiple of 16 below 262,144 (BRANCH_TARGET, taken or not), for the conditional forms an empty stack, and a taken one that stands in a
slot above the segend of its own bundle (BAD_END: the model's reading, log entry 25); and what loop and its registers
refuse (R35, R211, R214, R220, R221, R223, R225). -/
def Obligations.FlowFaults : Prop :=
  (∀ (i : Instr) (m : Move) (s : State), m.src.bad .scalar = none → s.core.guardPass m.guard = true →
    let target := if i = .ret m then s.core.readN 31 else vget 0 s.core.regs.b ((s.operand m).toNat % 4)
    ((∃ x, jumpForm i = some (m, x)) ∨ (∃ x, condForm i = some (m, x)) →
      (EndDelay s → ∃ t, exec i s = .next t ∧ StopsWith s t .badEnd 0 s.core.seg.node 0) ∧
      (¬ EndDelay s → s.core.cur.loopDelay = true → ∃ t, exec i s = .next t ∧ StopsWith s t .loopXfer 0 0 0) ∧
      (¬ EndDelay s → s.core.cur.loopDelay = false → target.toNat % 16 ≠ 0 ∨ 262144 ≤ target.toNat →
        ∃ t, exec i s = .next t ∧ StopsWith s t .branchTarget 0 0 0)) ∧
    ((∃ x, condForm i = some (m, x)) → ¬ EndDelay s → s.core.cur.loopDelay = false →
      target.toNat % 16 = 0 → target.toNat < 262144 → s.core.pstack = [] →
      ∃ t, exec i s = .next t ∧ StopsWith s t .pstackUnder 0 0 0) ∧
    ((∃ x, jumpForm i = some (m, x)) ∨ (∃ want nul rest, condForm i = some (m, want, nul) ∧ s.core.pstack = want :: rest ∧ Room s 1) →
      ¬ EndDelay s → s.core.seg.ending ≠ none → s.core.cur.loopDelay = false → target.toNat % 16 = 0 → target.toNat < 262144 →
      ∃ t, exec i s = .next t ∧ StopsWith s t .badEnd 0 s.core.seg.node 0)) ∧
  (∀ (m : Move) (s : State), m.src.bad .scalar = none → s.core.guardPass m.guard = true →
    let t := s.operand m
    let l := s.core.loops
    let stops := fun (i : Instr) (c : Cause) => ∃ u, exec i s = .next u ∧ StopsWith s u c 0 0 0
    (t.toNat % 16 ≠ 0 ∨ 262144 ≤ t.toNat → stops (.lstart m) .loopRange ∧ stops (.lend m) .loopRange) ∧
    (t.toNat = 0 ∨ 8 < t.toNat → stops (.lstages m) .loopRange) ∧
    (2 ^ 32 ≤ t.toNat → stops (.lcnt m) .loopRange) ∧
    (t.toNat < 2 ^ 32 → l.inner.active = false → l.outer.active = false → stops (.lcnt m) .loopState) ∧
    (EndDelay s → ∃ u, exec (.loop m) s = .next u ∧ StopsWith s u .badEnd 0 s.core.seg.node 0) ∧
    (¬ EndDelay s →
      (s.core.cur.loopDelay = true ∨ s.core.cur.xferDelay = true → stops (.loop m) .loopXfer) ∧
      (s.core.cur.loopDelay = false → s.core.cur.xferDelay = false →
        (2 ^ 32 ≤ t.toNat → stops (.loop m) .loopRange) ∧
        (t.toNat < 2 ^ 32 → l.inner.active = true → stops (.loop m) .loopDepth) ∧
        (t.toNat < 2 ^ 32 → l.inner.active = false →
          l.pendLast < l.pendFirst ∨ l.pendFirst < s.core.seg.first ∨ s.core.seg.last < l.pendLast → stops (.loop m) .loopRange) ∧
        (t.toNat < 2 ^ 32 → l.inner.active = false → l.pendFirst ≤ l.pendLast → s.core.seg.first ≤ l.pendFirst →
          l.pendLast ≤ s.core.seg.last → l.outer.active = true → l.pendFirst < l.outer.first ∨ l.outer.last ≤ l.pendLast →
          stops (.loop m) .loopNest))))

/-- lstart, lend, lstages and lcnt leave their value pending, and loop makes a new innermost level of the pending values: two delay
bundles issue, then the body, or with N = 0 the bundle after it without a level (R220, R221, R223). -/
def Obligations.LoopSetup : Prop :=
  ∀ (m : Move) (s : State), Fires s .scalar false m → Room s 1 →
    let t := s.operand m
    (∀ g, GoodTarget t g →
      exec (.lstart m) s = .next (s.sent 5 [(1, .loopPend none (some g) none, 0)]) ∧
      exec (.lend m) s = .next (s.sent 5 [(1, .loopPend none none (some g), 0)])) ∧
    (1 ≤ t.toNat ∧ t.toNat ≤ 8 →
      exec (.lstages m) s = .next (s.sent 5 [(1, .loopPend (some (BitVec.ofNat 3 (t.toNat - 1))) none none, 0)])) ∧
    (t.toNat < 2 ^ 32 → s.core.loops.inner.active = true ∨ s.core.loops.outer.active = true →
      exec (.lcnt m) s = .next (s.sent 5 [(1, .lcnt s.core.loops.inner.active (t.setWidth 32), 0)])) ∧
    (t.toNat < 2 ^ 32 → LoopLegal s →
      let l := s.core.loops
      let delays : List Pos := 
        [{ Pos.plain (s.core.cur.idx + 1) with loopDelay := true }, { Pos.plain (s.core.cur.idx + 2) with loopDelay := true }]
      exec (.loop m) s = .next
        (if t = 0 then s.onCore fun c => { c with fq := delays ++ [Pos.plain (l.pendLast + 1)] }
         else (s.onCore fun c => { c with fq := delays ++ [Pos.plain l.pendFirst] }).sent 5
           [(1, .level l.outer.active ⟨true, true, l.pendStages, 0, none, t.setWidth 32, l.pendFirst, l.pendLast⟩, 0)]))

/-- LOOP_PASS_BOUNDARY, as the bundle at LEND of the innermost level issues: a pending lcnt replaces LCNT, then the test of R222 goes
back to LSTART for a pass whose stage predicates are those of R222, or leaves the level; every rotating base with a SIZE advances;
all of it stands before the next cycle, in which results of the LEND bundle land over it (R222 to R224). -/
def Obligations.LoopPass : Prop :=
  ∀ (s : State) (which : Bool) (l : Level), s.core.loops.innermost = some (which, l) → s.core.cur.idx = l.last →
    ∃ (n : Level) (again : Bool) (xs : Vector W64 8),
      let count := l.pend.getD l.count
      (again = true ↔ count ≠ 0 ∨ ∃ k < l.stages.toNat, l.sp.getLsbD k = true) ∧
      (again = true → n.active = true ∧ nextStages { l with count := count } n.sp ∧
        n.count = (if count = 0 then 0 else count - 1) ∧ n.stages = l.stages ∧ n.first = l.first ∧ n.last = l.last ∧
        n.pend = none) ∧
      (again = false → n.active = false ∧ n.sp = 0) ∧
      (∀ k < 8, vget 0 xs k = rotated (vget 0 s.core.regs.x k)) ∧
      exec .loopPassBoundary s = .next (s.onCore fun c => { c with
        fq := [Pos.plain (if again then l.first else l.last + 1)]
        loops := c.loops.set which n
        regs := { c.regs with x := xs } })

/-! ## CTL (R323 to R329, R331) -/

/-- nop does nothing; fmt, cond and csrw land their value, csrr and tsc deliver theirs, each at its latency; trap and halt take hold
after their bundle; a trace mark enters the buffer of an open session, or is counted as dropped when its 64 KiB are full (R17, R33, R56, R324, R325, R329, R331). -/
def Obligations.ControlSimple : Prop :=
  ∀ (m : Move) (s : State),
    let t := s.operand m
    (Fires s .scalar false m →
      exec (.nop m) s = .next s ∧
      exec (.trap m) s = .next (s.onCore fun c => { c with trapped := some (t.toNat % 2 ^ 16) }) ∧
      (s.core.eng.ember.flt.getLsbD 63 = false → exec (.halt m) s = .next (s.onCore fun c => { c with halt := true })) ∧
      (s.core.trace.isOpen = false → exec (.mark m) s = .next s) ∧
      (s.core.trace.isOpen = true → s.core.trace.launch = s.core.task.launchId → s.core.trace.closing = none →
        s.core.trace.kinds.getLsbD 1 = true →
        (s.core.trace.buf.length < 1024 →
          exec (.mark m) s = .next (s.onCore fun c => { c with trace := { c.trace with buf := c.trace.buf ++
            [[s.ts, BitVec.ofNat 64 (2 * 2 ^ 56 + s.focus % 4096 * 2 ^ 44 + c.tcc % 2 ^ 44), BitVec.ofNat 64 (t.toNat % 2 ^ 32),
              0, 0, 0, 0, 0]] } })) ∧
        (1024 ≤ s.core.trace.buf.length →
          exec (.mark m) s = .next (s.onCore fun c => { c with trace := { c.trace with dropped := c.trace.dropped + 1 } }))) ∧
      (Room s 1 →
        (t.toNat < 2 ^ 18 → t.toNat % 16 ≤ 10 → t.toNat / 16 % 16 ≤ 10 → t.toNat / 256 % 16 ≤ 10 → t.toNat / 65536 ≠ 3 →
          exec (.fmt m) s = .next (s.sent 14 [(4, .fmt (t.setWidth 32), 0)])) ∧
        exec (.cond m) s = .next (s.sent 14 [(1, .cond t, 0)]) ∧
        exec (.tsc m) s = .next (s.sentScalar 14 2 s.ts) ∧
        (∀ n < 4096, (s.core.port 14 1).toNat = n → s.core.csrwBad n t = none →
          exec (.csrw m) s = .next (s.sent 14 [(1, .csr (BitVec.ofNat 12 n) t, 0)])))) ∧
    (Fires s .scalar (t == 2) m → Room s 1 → ∀ v, t.toNat < 4096 → s.core.csrRead t.toNat = some v →
      exec (.csrr m) s = .next (s.sentScalar 14 2 v))

/-- What CTL refuses: a malformed FMT value, a register number that is undefined (CSR_BAD) or read-only (CSR_RO), a fence kind 0 or
reserved bits, a halt under EMBFLT.V (R56, R155, R325, R327). -/
def Obligations.ControlFaults : Prop :=
  ∀ (m : Move) (s : State), m.src.bad .scalar = none → s.core.guardPass m.guard = true →
    let t := s.operand m
    let a := s.core.port 14 1
    let stops := fun (i : Instr) (c : Cause) => ∃ u, exec i s = .next u ∧ StopsWith s u c 0 0 0
    (2 ^ 18 ≤ t.toNat ∨ 10 < t.toNat % 16 ∨ 10 < t.toNat / 16 % 16 ∨ 10 < t.toNat / 256 % 16 ∨ t.toNat / 65536 = 3 →
      stops (.fmt m) .fmtBad) ∧
    (4096 ≤ t.toNat ∨ s.core.csrRead t.toNat = none → stops (.csrr m) .csrBad) ∧
    (4096 ≤ a.toNat ∨ s.core.csrRead a.toNat = none → stops (.csrw m) .csrBad) ∧
    (∀ v, a.toNat < 4096 → s.core.csrRead a.toNat = some v →
      a.toNat ∈ [0x000, 0x001, 0x002, 0x004, 0x013, 0x014, 0x020, 0x021, 0x031, 0x060, 0x061, 0x062, 0x063, 0x070, 0x071, 0x074,
        0x075, 0x078] ∨ (0x040 ≤ a.toNat ∧ a.toNat ≤ 0x047) ∨ (0x084 ≤ a.toNat ∧ a.toNat ≤ 0x087) → stops (.csrw m) .csrRo) ∧
    (16 ≤ t.toNat ∨ t.toNat / 4 % 4 = 0 → stops (.fence m) .fenceBad) ∧
    (s.core.eng.ember.flt.getLsbD 63 = true →
      ∃ u, exec (.halt m) s = .next u ∧ StopsWith s u .embOverrun 0 0 s.core.eng.ember.flt.toNat)

/-- fence enters the memory interface in core order, but for scope 0, which acts at once (R101, R327); segend lets two delay bundles
issue before the walk (R35); bar publishes the write log and waits at the rectangle it names (R38, R103, R111, R328). -/
def Obligations.ControlOrder : Prop :=
  ∀ (m : Move) (s : State), Fires s .scalar false m →
    let t := s.operand m
    (∀ (k : Nat) (kind : FenceKind) (scope : BitVec 2), t.toNat = 4 * k + scope.toNat →
      (k = 1 ∧ kind = .release ∨ k = 2 ∧ kind = .acquire ∨ k = 3 ∧ kind = .full) →
      exec (.fence m) s = .next (if scope = 0 then s
        else s.onCore fun c => { c with fences := c.fences ++ [⟨c.gid, kind, scope⟩], gid := c.gid + 1 })) ∧
    (s.core.loops.innermost = none → s.core.cur.xferDelay = false → s.core.seg.ending = none →
      (∀ p ∈ s.core.fq, p.xferDelay = false) → s.core.cur.idx.toNat + 2 ≤ s.core.seg.last.toNat →
      exec (.segend m) s = .next (s.onCore fun c =>
        { c with seg := { c.seg with ending := some 3 }, fq := [(nextTwo c).1, (nextTwo c).2] })) ∧
    (∀ r : Rect, (t = 0x10000 ∧ r = s.core.task.rect ∨
        ∃ x y lw hc h, x < 32 ∧ y < 32 ∧ lw ≤ 5 ∧ [1, 2, 3, 6, 12, 24][hc]? = some h ∧
          t.toNat = x + 32 * y + 1024 * lw + 8192 * hc ∧ r = ⟨x, y, 2 ^ lw, h⟩) →
      r.aligned = true → r.has s.focus = true → r.inside s.core.task.rect = true →
      (∀ b ∈ s.mod.barriers, b.slot = s.core.task.slot → b.rect.meets r = true → b.rect = r) →
      exec (.bar m) s = .next { s with
        tags := publishTags s.tags s.focus s.core.writeLog
        core := { s.core with
          writeLog := [], wait := some (.bar r s.core.slot none), waitFrom := s.core.gid, barKept := (0, [(s.core.slot, t.setWidth 2048)]) }
        mod := { s.mod with barriers := arriveAt s.mod.barriers s.core.task.slot r s.focus }
        due := s.due ++ [.barrierComplete] })

/-! ## KLN (R279 to R289) -/

/-- kcfg, kflow and ksel send their values to the shadow configuration, complete 16 or 4 cycles after START; kswitch injects a token
at START; none of them may meet a token that runs or, for kswitch, a write that is not complete (R132, R269, R279 to R282). -/
def Obligations.KilnConfiguration : Prop :=
  ∀ (m : Move) (s : State) (d : List Nat), Fires s .scalar true m →
    let t := s.operand m
    let w := word d 1
    let k := s.core.eng.kiln
    let st := startAt s d
    Enters s d (KilnRoom s) →
    (Reads s 9 8 [2 ^ 18 - 1, 0, 0, 0, 0, 0, 0] t d → w % 16 = 0 → w ≤ 262144 - 176 → NoToken s (st + 16) →
      let b := fun a n => rdLE s.core.imem (w + a) n
      let hdr := b 0 8
      let ub := (List.range 16).map fun e => b (72 + 6 * e) 6
      blockBad hdr ub (b 168 8) = false →
      exec (.kcfg m) s = .next (shadowed s t d 16
        (.block [bits hdr 3 0, bits hdr 11 8, bits hdr 19 16, bits hdr 27 24]
          [bits hdr 7 4 + 1, bits hdr 15 12 + 1, bits hdr 23 20 + 1, bits hdr 31 28 + 1]
          [b 8 8, b 24 8, b 40 8, b 56 8] [b 16 8, b 32 8, b 48 8, b 64 8] (bits hdr 33 32) ub))) ∧
    (Reads s 9 9 [0xFFFFFF0FFF, 0, 0, 0, 0, 0, 0] t d → bits w 3 0 ≤ 4 → NoToken s (st + 4) →
      (bits w 4 4 = 0 → bits w 11 5 ≤ 64 → bits w 39 16 = 0 →
        exec (.kflow m) s = .next (shadowed s t d 4 (.flow (bits w 3 0) none (bits w 11 5)))) ∧
      (∀ off table, bits w 4 4 = 1 → bits w 11 5 = 0 → off = bits w 39 16 → off % 64 = 0 → s.core.task.spOk off 128 = true →
        s.core.copyLate (coreDie s.focus) 0 [(off, 128)] = none → BanksFree s 0 0 false [off, off + 64] →
        table = (List.range 128).map (fun i => (rdByte s.core.sp (off + i)).toNat) → (∀ x ∈ table, x < 128) →
        exec (.kflow m) s = .next ((shadowed s t d 4 (.flow (bits w 3 0) (some table) 0)).booked 9 0 0 false [off, off + 64]))) ∧
    (Reads s 9 14 [15, 2 ^ 64 - 1, 2 ^ 64 - 1, 0, 0, 0, 0] t d → w ≠ 0 → NoToken s (st + 4) →
      exec (.ksel m) s = .next (shadowed s t d 4 (.consts w (word d 2) (word d 3)))) ∧
    (∀ quad, Reads s 9 10 [7, 0, 0, 0, 0, 0, 0] t d →
      (bits w 2 2 = 0 ∧ bits w 1 0 = 0 ∧ quad = none ∨
        bits w 2 2 = 1 ∧ quad = some (bits w 1 0) ∧ (k.activeAt quad st).flow = 4 ∧ (k.shadowAt st).flow = 4) →
      (∀ x ∈ k.writes, st < x.done → ∃ c a b, x.act = .consts c a b) →
      (((k.activeAt quad st).flow = 4 ↔ (k.shadowAt st).flow = 4) ∨ ∀ p ∈ k.passes, p.start < st → p.retire ≤ st) →
      exec (.kswitch m) s = .next (commanded s 9 t fun e =>
        { e with kiln := { e.kiln with tokens := e.kiln.tokens ++ [⟨s.core.eng.nid, st, quad, none⟩] } }))

/-- kzero, kdrain, kring and kstart enter the queue with the fields of their descriptors and with FMT as at issue; kpop moves HEAD
of its ring on from the next cycle (R283 to R289). -/
def Obligations.KilnCommands : Prop :=
  ∀ (m : Move) (s : State) (d : List Nat), Fires s .scalar true m →
    let t := s.operand m
    let w := word d 1
    let k := s.core.eng.kiln
    let st := startAt s d
    let split := (k.activeAt none st).flow = 4
    (Enters s d (KilnRoom s) →
      (∀ quad, Reads s 9 13 [0x3F, 0, 0, 0, 0, 0, 0] t d →
        (bits w 5 5 = 0 ∧ bits w 4 3 = 0 ∧ quad = none ∨ bits w 5 5 = 1 ∧ split ∧ quad = some (bits w 4 3)) →
        exec (.kzero m) s = .next (commanded s 9 t fun e =>
          { e with kiln := { e.kiln with zeros := e.kiln.zeros ++ [⟨e.nid, st, bits w 2 0, quad⟩] } })) ∧
      (∀ n quad row, Reads s 9 12 [0xFFFFFFFFFFFF0F, 0, 0, 0, 0, 0, 0] t d →
        (split ∧ n = 32 ∧ quad = some (bits w 3 2) ∨ ¬split ∧ n = 64 ∧ bits w 3 2 = 0 ∧ quad = none) →
        (bits w 11 8 = 0 ∧ bits w 15 12 ≤ 5 ∨ bits w 11 8 ∈ [8, 9, 10, 15] ∧ bits w 15 12 = bits w 11 8) →
        row = n * (if bits w 15 12 = 15 then 8 else typeBytes (bits w 15 12)) →
        bits w 39 16 % 64 = 0 → bits w 55 40 % 64 = 0 → row ≤ bits w 55 40 →
        (∀ i < n, inFootprint s.core.task (bits w 1 1) (bits w 39 16 + i * bits w 55 40) row = true) →
        exec (.kdrain m) s = .next (commanded s 9 t fun e => { e with kiln := { e.kiln with drains := e.kiln.drains ++
          [⟨e.nid, st, decide (bits w 0 0 = 1), decide (bits w 1 1 = 1), quad, bits w 11 8, bits w 15 12, bits w 39 16, bits w 55 40,
            s.core.fmt, s.core.here 9, []⟩] } })) ∧
      (Reads s 9 15 [2 ^ 48 - 1, 0, 0, 0, 0, 0, 0] t d → bits w 5 4 ≠ 3 → bits w 47 24 % 64 = 0 →
        (bits w 3 3 = 1 → s.core.task.spOk (bits w 47 24) ((bits w 23 16 + 1) * (bits w 15 6 + 1) * 64) = true) →
        k.ringBusy (bits w 2 0) st = false →
        (∀ c ∈ s.core.eng.copies, ∀ pos, c.dst = .ring (bits w 2 0) pos → c.count ≤ c.written ∨ c.lastBound (coreDie s.focus) ≤ st) →
        exec (.kring m) s = .next (commanded s 9 t fun e => { e with kiln := { e.kiln with krings := e.kiln.krings ++
          [⟨s.core.eng.nid, st, bits w 2 0, if bits w 3 3 = 1 then
              ⟨true, bits w 5 4, bits w 15 6 + 1, bits w 23 16 + 1, bits w 47 24, 0, 0, 0, []⟩ else Ring.none⟩] } })) ∧
      (Reads s 9 11 kstartMasks t d → s.passBad d (s.mkPass d st) = none →
        exec (.kstart m) s = .next (commanded s 9 t fun e => { e with kiln := { e.kiln with
          passes := e.kiln.passes ++ [{ s.mkPass d st with id := e.nid }], ends := k.endsAfter (s.mkPass d st) } }))) ∧
    (∀ n cnt, t.toNat = cnt * 65536 + n → n < 8 → 1 ≤ cnt → cnt ≤ 256 → (s.core.ring n).v = true →
      cnt ≤ ((s.core.ring n).tail - (s.core.ring n).head).toNat → k.ringBusy n s.core.tcc = false →
      inFlight s.core.tcc s.core.pend ≤ 48 →
      exec (.kpop m) s = .next (s.sent 9 [(1, .ringHead (BitVec.ofNat 3 n) cnt, 0)]))

/-- What a kstart of an OS pass with one product a beat asks of its fields comes to the pass that R283 describes: its code, extent,
beat period and beat count, and the roles marked USED with their rings and declared tiles. -/
def Obligations.PassFields : Prop :=
  ∀ (s : State) (d : List Nat) (st : Nat),
    let p := s.mkPass d st
    let w := word d 1
    (s.core.eng.kiln.activeAt none st).flow = 0 → bits w 11 10 = 0 → bits w 12 12 = 0 → fourLane s.core.fmt (bits w 3 0) = false →
    p.start = st ∧ p.code = bits w 3 0 ∧ p.ext = bits w 54 37 + 1 ∧ p.quad = none ∧ p.fmt = s.core.fmt ∧ p.beatN = p.ext ∧
    (p.fresh = true ↔ bits w 4 4 = 1) ∧
    p.s = (if 8 ≤ bits w 3 0 then 1 else if fmtAT s.core.fmt = 0 then 4 else if fmtAT s.core.fmt = 9 then 2 else 1) ∧
    (∀ r < 8, (∃ x ∈ p.roles, x.r = r) ↔ bits (word d 2) (8 * r + 7) (8 * r + 7) = 1) ∧
    (∀ x ∈ p.roles, x.r < 8 ∧ x.ring = bits (word d 2) (8 * x.r + 2) (8 * x.r) ∧ x.tiles = bits (word d 3) (8 * x.r + 7) (8 * x.r) + 1)

/-! ## CPY (R290 to R296) -/

/-- cpy, cpyt, cpyf and cfetch enter their channel with the copy that their descriptor, or the tile handle, describes, and pin its
global pages; cpyf also enters its follow-on command, to start at the bound of the copy's last unit (R274, R290 to R295). -/
def Obligations.CopyCommands : Prop :=
  ∀ (m : Move) (s : State) (d : List Nat) (ch : Nat) (ls : List Leaf), Channel s ch →
    let t := s.operand m
    let c := copyOf s ch d
    let enter := fun (c : Copy) (f : Option Nat) =>
      (s.booked 10 0 0 false [t.toNat]).enterCopy c (ls ++ s.bindLeaves c.srcRows) f
    (Fires s .scalar false m → CopyFields d → EntersWith s d (copyReads c) (copyWrites s c) (CopyRoom s ch) ls → s.copyBad c = none →
      word d 6 = 0 →
      (Reads s 10 8 copyWords t d → word d 5 = 0 → exec (.cpy m) s = .next (enter c none)) ∧
      (Reads s 10 9 copyWords t d → word d 5 = 1 ∨ word d 5 = 2 → exec (.cpyt m) s = .next (enter c none))) ∧
    (∀ follow, Fires s .scalar true m → CopyFields d → Reads s 10 10 copyWords t d → word d 5 = 0 → s.copyBad c = none →
      BanksFree s 0 0 false [word d 6] →
      EntersWith s d (copyReads c) (copyWrites s c) (CopyRoom s ch ∧ KilnRoom s) ls →
      let f := ({ c with leaves := s.lastLeaves c } : Copy).lastBound (coreDie s.focus)
      s.followOf (word d 6) f = .ok follow →
      exec (.cpyf m) s = .next (follow ((((s.booked 10 0 0 false [t.toNat]).booked 10 0 0 false [word d 6]).enterCopy c
        (ls ++ s.bindLeaves c.srcRows) (some f)).onEng fun e => { e with nid := e.nid + 1 }))) ∧
    (∀ (h : Handle) (data : List Byte) (row col nr nc el : Nat), Fires s .scalar false m →
      Reads s 10 11 [2 ^ 24 - 1, 2 ^ 61 - 1, 2 ^ 64 - 1, 2 ^ 32 - 1, 0, 0, 0] t d →
      bits (word d 2) 56 0 % 64 = 0 → (bits (word d 2) 60 60 = 1 → bits (word d 2) 56 0 = 0) →
      (bits (word d 2) 60 60 = 0 → bits (word d 2) 59 57 = 0) →
      word d 1 < 2 ^ bits s.core.thbase.toNat 4 0 → s.core.handle = some (bits s.core.thbase.toNat 56 12 * 4096 + 32 * word d 1, data) →
      h = ⟨wordsOf 8 data 4⟩ → h.ok = true →
      h.spf = 0 → h.layout = 0 →
      row = bits (word d 3) 31 0 → col = bits (word d 3) 63 32 → nr = bits (word d 4) 15 0 + 1 → nc = bits (word d 4) 31 16 + 1 →
      el = typeBytes h.type → row + nr ≤ h.rows → col + nc ≤ h.cols → nc * el % 64 = 0 →
      (h.base + row * h.stride + col * el) % 64 = 0 →
      let c : Copy := { copyOf s ch d with
        rows := nr, rlu := nc * el / 64, src := h.base + row * h.stride + col * el, sstride := h.stride
        binds := (s.core.srcBinds ((List.range nr).map fun (r : Nat) =>
          (((h.base + row * h.stride + col * el : Nat) : Int) + (h.stride : Int) * r, 64 * (nc * el / 64)))).map fun x => (x.1, x.2.2)
        dst := if bits (word d 2) 60 60 = 1 then .ring (bits (word d 2) 59 57) (s.core.ring (bits (word d 2) 59 57)).fill
          else .addr (bits (word d 2) 56 0) (nc * el : Nat)
        esz := 0 }
      s.copyBad c = none → EntersWith s d (copyReads c) (copyWrites s c) (CopyRoom s ch) ls →
      exec (.cfetch m) s = .next (enter c none))

/-- cwp delivers the channel's write pointer after two cycles and creset clears that of an idle channel from the next; a channel
number above 1 stops every command with CPY_CHAN, once its descriptor has passed, a creset of anything but 0 stops with ENG_DESC and one of a
busy channel with CPY_BUSY (R274, R276, R296). -/
def Obligations.CopyPointers : Prop :=
  ∀ (m : Move) (s : State) (ch : Nat), m.src.bad .scalar = none → s.core.guardPass m.guard = true →
    (Channel s ch → Fires s .scalar false m →
      (Room s 1 → exec (.cwp m) s = .next (s.sentScalar 10 2 ((vget 0 s.core.eng.cwp ch).setWidth 64))) ∧
      (s.operand m = 0 → (∀ c ∈ s.core.eng.copies, c.ch = ch → c.count ≤ c.written) → inFlight s.core.tcc s.core.pend ≤ 48 →
        exec (.creset m) s = .next (s.sent 10 [(1, .cwpReset (BitVec.ofNat 1 ch), 0)]))) ∧
    (1 < (s.core.port 10 1).toNat →
      let stops := fun (i : Instr) => ∃ u, exec i s = .next u ∧ StopsWith s u .cpyChan 0 0 0
      stops (.cwp m) ∧ (s.operand m = 0 → stops (.creset m)) ∧
      (∀ d : List Nat, CopyFields d →
        (Reads s 10 8 copyWords (s.operand m) d → word d 5 = 0 → word d 6 = 0 → stops (.cpy m)) ∧
        (Reads s 10 9 copyWords (s.operand m) d → word d 5 = 1 ∨ word d 5 = 2 → word d 6 = 0 → stops (.cpyt m)) ∧
        (Reads s 10 10 copyWords (s.operand m) d → word d 5 = 0 → stops (.cpyf m))) ∧
      (∀ d : List Nat, Reads s 10 11 [2 ^ 24 - 1, 2 ^ 61 - 1, 2 ^ 64 - 1, 2 ^ 32 - 1, 0, 0, 0] (s.operand m) d →
        (bits (word d 2) 60 60 = 1 → bits (word d 2) 56 0 = 0) → (bits (word d 2) 60 60 = 0 → bits (word d 2) 59 57 = 0) →
        stops (.cfetch m))) ∧
    (Channel s ch → s.operand m ≠ 0 → ∃ u, exec (.creset m) s = .next u ∧ StopsWith s u .engDesc 0 0 0) ∧
    (Channel s ch → s.operand m = 0 → (∃ c ∈ s.core.eng.copies, c.ch = ch ∧ c.written < c.count) →
      ∃ u, exec (.creset m) s = .next u ∧ StopsWith s u .cpyBusy 0 0 0)

/-! ## SPS (R297 to R302) -/

/-- sopen sets a stream slot in the issue cycle; sisect, sisectc, sdiff and smerge enter with the slots as they stand and their due cycle;
sread returns COUNT or TOTAL after four cycles; a bundle with a swbind waits at issue for ceil(COUNT/16) cycles, in each of which the indices of one row are read; then swbind
pins its table and switches its window at START, as swfree ends it there (R86, R87, R297 to R302). -/
def Obligations.SparseStreams : Prop :=
  (∀ (m : Move) (s : State) (d : List Nat), Fires s .scalar false m →
    let t := s.operand m
    let w := word d 1
    let e := s.core.eng
    let slot := fun n => sget ⟨0, 0⟩ e.slots n
    let words := [0x1FFFF, 2 ^ 57 - 1, 2 ^ 24 - 1, 0, 0, 0, 0]
    (Reads s 11 8 [7, 2 ^ 57 - 1, 2 ^ 24 - 1, 0, 0, 0, 0] t d → scStart d = 0 → word d 2 % 4 = 0 →
      StreamOk s false (word d 2) (4 * word d 3) →
      exec (.sopen m) s = .next ((s.booked 11 0 0 false [t.toNat]).onEng fun e =>
        { e with slots := sset ⟨0, 0⟩ e.slots w ⟨word d 2, word d 3⟩ })) ∧
    (∀ (i : Instr) (port : Nat) (op : SpsOp) (ls : List Leaf),
      (i = .sisect m ∧ port = 9 ∧ op = .isect) ∨ (i = .sisectc m ∧ port = 10 ∧ op = .isectc) ∨ (i = .sdiff m ∧ port = 12 ∧ op = .diff) →
      Reads s 11 port words t d → bits w 7 6 = 0 → bits w 16 8 = 0 → SpsFits s d op [slot (bits w 2 0), slot (bits w 5 3)] ls →
      exec i s = .next (streamed s t d op [slot (bits w 2 0), slot (bits w 5 3)] ls)) ∧
    (∀ (ins : List SSlot) (ls : List Leaf), Reads s 11 11 words t d → bits w 7 0 = 0 → bits w 15 8 ≠ 0 →
      ins = ((List.range 8).filter fun k => bits w (8 + k) (8 + k) = 1).map slot → SpsFits s d (.merge (decide (bits w 16 16 = 1))) ins ls →
      exec (.smerge m) s = .next (streamed s t d (.merge (decide (bits w 16 16 = 1))) ins ls)) ∧
    ((∀ x ∈ e.sps, x.due ≤ s.core.tcc → x.counted = true) → Room s 1 →
      (t = 0 → exec (.sread m) s = .next (s.sentScalar 11 4 e.spsCount)) ∧ (t = 1 → exec (.sread m) s = .next (s.sentScalar 11 4 e.spsTotal))) ∧
    (1 < t.toNat → ∃ u, exec (.sread m) s = .next u ∧ StopsWith s u .spsSel 0 0 0)) ∧
  (∀ (s : State) (b : Bundle) (k : Nat) (r : RawMove) (d : List Nat) (got : List Nat),
    let s0 := s.onCore fun c => c.popPos.enterTarget
    let todo := b.moves.filter fun x => !s0.core.doneMask.getLsbD x.1
    let s1 := s0.onCore fun c => { c with curHdr := b.hdr }
    let sk := s1.onCore fun c => { c with slot := k }
    let t := sk.operand r.move
    let g := bindingOf d
    let off := g.idx + 4 * got.length
    let n := min (16 - off % 64 / 4) (g.count - got.length)
    let more := (List.range n).map fun j => rdLE s.core.sp (off + 4 * j) 4
    let reads := fun (st : State) => exec .bundleIssue s = .next (s.onCore fun c =>
      { c with bindRead := some ⟨d, got ++ more⟩, banks := (st.booked 11 0 0 false (rowsIn off (4 * n))).core.banks })
    s0.core.seg.first ≤ s0.core.cur.idx → s0.core.cur.idx ≤ s0.core.seg.last → checkBundle s0.core.fetch = .ok b →
    s0.core.lendBad b = false → s0.core.hasBar b.moves = false → (s1.portWrites todo).core.tileHolds todo = false →
    (todo.find? fun x => x.2.unit == 11 && x.2.port == 14 && s1.core.guardPass x.2.move.guard) = some (k, r) →
    s.core.copyLate (coreDie s.focus) 0 [(off, 4 * n)] = none → BanksFree sk 0 0 false (rowsIn off (4 * n)) →
    (s.core.bindRead = none → got = [] → Reads sk 11 14 bindWords t d → BindingOk sk g → reads (sk.booked 11 0 0 false [t.toNat])) ∧
    (s.core.bindRead = some ⟨d, got⟩ → got.length < g.count → (got.length + g.idx % 64 / 4) / 16 < (g.count + 15) / 16 → reads sk)) ∧
  (∀ (m : Move) (s : State) (d : List Nat) (ls : List Leaf), Fires s .scalar false m →
    let t := s.operand m
    let b := bindingOf d
    (∀ got, s.core.bindRead = some ⟨d, got⟩ →
      let off := b.idx + 4 * got.length
      let left := b.count - got.length
      (left ≠ 0 → s.core.copyLate (coreDie s.focus) 0 [(off, 4 * left)] = none ∧ BanksFree s 0 0 false (rowsIn off (4 * left))) →
      (∀ r ∈ got, r < b.rows) → (∀ j < left, rdLE s.core.sp (off + 4 * j) 4 < b.rows) →
      s.coverRanges true false [(b.tbase, b.rows * b.rstride)] [] = .ok ls → PinsFit s ls → Leads s.core.scc.toNat d →
      s.core.spsPending < 4 →
      exec (.swbind m) s = .next ((if left = 0 then s else s.booked 11 0 0 false (rowsIn off (4 * left))).onEng fun e => { e with
        nid := e.nid + 1, binds := e.binds ++ [⟨e.nid, word d 1, startAt s d, some b⟩]
        pins := if ls.isEmpty then e.pins else e.pins ++ [(e.nid, ls)] })) ∧
    (Reads s 11 15 [3, 0, 0, 0, 0, 0, 0] t d → Enters s d (s.core.spsPending < 4) →
      exec (.swfree m) s = .next (commanded s 11 t fun e => { e with binds := e.binds ++ [⟨s.core.eng.nid, word d 1, startAt s d, none⟩] })))

/-! ## EMB (R142 to R155, R303 to R305) -/

/-- The Ember commands enter with the fields of R303: epatch's entries and einc's vector are read and checked at issue, erd and ecnt leave
a vector result that lands four cycles after START; while EMBFLT.V is set every one of them that passes its other checks stops with
EMB_OVERRUN. -/
def Obligations.EmberCommands : Prop :=
  ∀ (m : Move) (s : State) (d : List Nat), Fires s .scalar false m →
    let t := s.operand m
    let w := word d 1
    let e := s.core.eng.ember
    let st := startAt s d
    let off := bits w 47 24
    let mine := fun (len : Nat) => s.core.task.spOk off len = true
    let ends := fun (i : Instr) (u : State) =>
      (e.flt.getLsbD 63 = false → Enters s d (EmberRoom s) → exec i s = .next u) ∧
      (e.flt.getLsbD 63 = true → ∃ v, exec i s = .next v ∧ StopsWith s v .embOverrun 0 0 e.flt.toNat)
    ((∀ (es : List (Nat × W64)), Reads s 12 8 [0xFFFFFF01FFFF, 0, 0, 0, 0, 0, 0] t d →
        let n := bits w 15 8 + 1
        bits w 7 0 + n ≤ 256 → off % 8 = 0 → patchBad e.plan es = none →
        e.patched ≤ st →
        let enter := fun (u : State) => u.onEmb fun e => { e with plan := patchWrite e.plan es, patched := st }
        (bits w 16 16 = 1 → off + 8 * n ≤ 0x40000 → es = ((List.range n).map fun k => (bits w 7 0 + k, BitVec.ofNat 64 (rdLE s.core.imem (off + 8 * k) 8))) →
          ends (.epatch m) (enter (embered s t d (.patch es)))) ∧
        (bits w 16 16 = 0 → mine (8 * n) → s.core.copyLate (coreDie s.focus) 0 [(off, 8 * n)] = none →
          BanksFree s 0 0 false (rowsIn off (8 * n)) →
          es = ((List.range n).map fun k => (bits w 7 0 + k, BitVec.ofNat 64 (rdLE s.core.sp (off + 8 * k) 8))) →
          ends (.epatch m) ((enter (embered s t d (.patch es))).booked 12 0 0 false (rowsIn off (8 * n))))) ∧
      (Reads s 12 9 [0xFFFFFF000003, 2 ^ 64 - 1, 0, 0, 0, 0, 0] t d → off % 64 = 0 → mine 256 →
        ends (.eload m) (embered s t d (.load (bits w 1 0) off (BitVec.ofNat 64 (word d 2))))) ∧
      (∀ lanes, Reads s 12 15 [0xFFFFFF000003, 0, 0, 0, 0, 0, 0] t d → off % 64 = 0 → mine 256 →
        s.core.copyLate (coreDie s.focus) 0 [(off, 256)] = none → BanksFree s 0 0 false (rowsIn off 256) →
        lanes = ((List.range 64).map fun l => rdLE s.core.sp (off + 4 * l) 4 % 8) → (∀ x ∈ lanes, x % 4 ≠ 2) →
        ends (.einc m) ((embered s t d (.inc (bits w 1 0) lanes)).booked 12 0 0 false (rowsIn off 256))) ∧
      (Room s 1 → ∀ (i : Instr) (port : Nat) (cnt : Bool), (i = .erd m ∧ port = 10 ∧ cnt = false) ∨ (i = .ecnt m ∧ port = 16 ∧ cnt = true) →
        Reads s 12 port [3, 0, 0, 0, 0, 0, 0] t d →
        ends i ((embered s t d (.read (bits w 1 0) cnt)).sent 12 [(st + 4 - s.core.tcc, .embVector s.core.eng.nid none, 0)])) ∧
      (Reads s 12 11 [0xFFFFFF00000F, 0, 0, 0, 0, 0, 0] t d → bits w 3 0 ≠ 0 → off % 64 = 0 → mine 2048 →
        ends (.esave m) (embered s t d (.save (bits w 3 0) off))) ∧
      (Reads s 12 12 [0xFFFFFF00000F, 0, 0, 0, 0, 0, 0] t d → bits w 3 0 ≠ 0 → off % 64 = 0 → mine 2048 →
        (∀ k < 4, bits w k k = 1 → e.stepsIn k s.core.tcc st (st + 32) = false) →
        ends (.erest m) (embered s t d (.rest (bits w 3 0) off))) ∧
      (Reads s 12 13 [0x1FFFF00000003, 0, 0, 0, 0, 0, 0] t d →
        let e' := s.withCmd d (.step (bits w 1 0) (bits w 48 32))
        bits w 48 32 ≠ 0 → (∃ o, e'.modeAt (bits w 1 0) s.core.tcc st = .counted o) → e'.mostOwed (bits w 1 0) s.core.tcc ≤ 131071 →
        e'.restBusy s.core.tcc = false →
        ends (.estep m) (embered s t d (.step (bits w 1 0) (bits w 48 32)))) ∧
      (Reads s 12 14 [0xFFFF000F, 0, 0, 0, 0, 0, 0] t d →
        let a : EAct := .clk (bits w 1 0) (bits w 3 2) (bits w 31 16)
        bits w 3 2 ≤ 2 → (bits w 3 2 ≠ 1 → bits w 31 16 = 0) → (s.withCmd d a).restBusy s.core.tcc = false →
        ends (.eclk m) (embered s t d a)))

/-! ## FAB (R307 to R321) -/

/-- fwr, fwrrel, frd and fatom enter FAB's queue in core order with their operands and the fields of their descriptors; in counted release
fwr counts a store to its target, and fwrrel carries the count and clears it (R308, R313 to R316). -/
def Obligations.RemoteCommands : Prop :=
  ∀ (m : Move) (s : State) (d : List Nat) (ls : List Leaf), Fires s .scalar false m → CwOk s →
    let t := s.operand m
    let w := word d 1
    let a := fabA s
    let b := (fabB s).toNat
    let tmod := bits w 11 0
    let len := bits w 28 16
    let count := sget 0 s.core.eng.fab.rel tmod
    let put := fun (n : Nat) (f : Fab) => if s.mod.flue.ord then f else { f with rel := sset 0 f.rel tmod n }
    (len ≤ 4096 → (len ≠ 0 → LocalOk s b (64 * len)) → RemoteOk a (if len = 0 then 8 else 64) → RemoteOk (word d 2) 8 →
      EntersWith s d (if len = 0 then [] else pagesAt b (64 * len)) [] (FabRoom s) ls →
      (Reads s 13 9 [0x1FFF1FFF, 2 ^ 57 - 1, 0, 0, 0, 0, 0] t d →
        (s.mod.flue.ord = true ∨ count ≠ 0 ∨ s.core.eng.fab.rel.length < 64) →
        exec (.fwr m) s = .next (fabbed s t d (.store false (decide (bits w 12 12 = 1)) tmod len (word d 2)) a (fabB s) 0 ls (put (count + 1)))) ∧
      (Reads s 13 10 [0x1FFF1FFF, 2 ^ 57 - 1, 0, 0, 0, 0, 0] t d →
        exec (.fwrrel m) s = .next (fabbed s t d (.store true (decide (bits w 12 12 = 1)) tmod len (word d 2)) a (fabB s) count ls (put 0)))) ∧
    (Reads s 13 8 [0x1FFF0FFF, 0, 0, 0, 0, 0, 0] t d → 1 ≤ len → len ≤ 4096 → LocalOk s b (64 * len) → RemoteOk a 64 →
      EntersWith s d [] (pagesAt b (64 * len)) (FabRoom s) ls →
      exec (.frd m) s = .next (placed d ls (pagesAt b (64 * len)) (fabbed s t d (.read tmod len) a (fabB s) 0 ls id))) ∧
    (Reads s 13 11 [0xF0FFF, 2 ^ 64 - 1, 2 ^ 63 + 0xFFFFFF, 0, 0, 0, 0] t d →
      let en := bits (word d 3) 63 63
      (en = 1 → FieldOk s (bits (word d 3) 23 0)) → RemoteOk a (atomWidth (bits w 19 16)) → Enters s d (FabRoom s) →
      exec (.fatom m) s = .next (fabbed s t d (.atomic tmod (bits w 19 16) (BitVec.ofNat 64 (word d 2))
        (if en = 1 then some (bits (word d 3) 23 0) else none)) a (fabB s) 0 [] id))

/-- fmcred, fmcst, fgrp and fbar enter FAB's queue; fgrp sets its group up or frees it and reads the member table at issue, and fbar counts
its operations on the group; fstat reads the fabric's state at issue + 200 (R308, R317 to R321). -/
def Obligations.GroupCommands : Prop :=
  ∀ (m : Move) (s : State) (d : List Nat) (ls : List Leaf), Fires s .scalar false m →
    let t := s.operand m
    let w := word d 1
    let a := fabA s
    let b := (fabB s).toNat
    let g := bits w 3 0
    (CwOk s →
      (Reads s 13 12 [0x3FFF0FFF, 0xFFFFFF, 0, 0, 0, 0, 0] t d → RedPair (bits w 7 4) (bits w 11 8) → bits w 29 16 ≠ 0 →
        b % 64 = 0 → b < 0x400000 → s.core.task.spOk b (bits w 29 16 * elemOut (bits w 7 4) (bits w 11 8)) = true → FieldOk s (word d 2) →
        RemoteOk a (elemIn (bits w 7 4) (bits w 11 8)) → GroupUp s g → Enters s d (FabRoom s) →
        exec (.fmcred m) s = .next (fabbed s t d (.reduce g (bits w 7 4) (bits w 11 8) (bits w 29 16) (word d 2)) a (fabB s) 0 [] id)) ∧
      (Reads s 13 13 [0x1FFF100F, 2 ^ 57 - 1, 0xFFFFFF, 0, 0, 0, 0] t d → 1 ≤ bits w 28 16 → bits w 28 16 ≤ 4096 →
        LocalOk s b (64 * bits w 28 16) → FieldOk s (word d 3) → RemoteOk a 64 → RemoteOk (word d 2) 8 → GroupUp s g →
        EntersWith s d (pagesAt b (64 * bits w 28 16)) [] (FabRoom s) ls →
        exec (.fmcst m) s = .next (fabbed s t d (.cast g (bits w 28 16) (word d 2) (decide (bits w 12 12 = 1)) (word d 3)) a (fabB s) 0 ls id)) ∧
      (Reads s 13 14 [0x3F1F, 0xFFFFFFFF, 0xFFFFFF, 0, 0, 0, 0] t d → Enters s d (FabRoom s) →
        (bits w 4 4 = 1 → w / 32 = 0 → word d 2 = 0 → word d 3 = 0 → GroupUp s g →
          exec (.fgrp m) s = .next (fabbed s t d (.group g true 0 []) 0 0 0 [] fun f => { f with groups := f.groups.filter (·.1 != g) })) ∧
        (∀ tbl, bits w 4 4 = 0 → word d 3 % 16 = 0 → s.core.task.spOk (word d 3) (16 * (bits w 13 8 + 1)) = true →
          s.core.copyLate (coreDie s.focus) 0 [(word d 3, 16 * (bits w 13 8 + 1))] = none →
          BanksFree s 0 0 false (rowsIn (word d 3) (16 * (bits w 13 8 + 1))) →
          tbl = ((List.range (bits w 13 8 + 1)).map fun r => (rdLE s.core.sp (word d 3 + 16 * r) 8, rdLE s.core.sp (word d 3 + 16 * r + 8) 8)) →
          (tbl.map (·.1)).Pairwise (· < ·) → (∀ x ∈ tbl, x.1 < 4096 ∧ x.2 < 2 ^ 57) →
          exec (.fgrp m) s = .next ((fabbed s t d (.group g false (word d 2) tbl) 0 0 0 [] fun f =>
            { f with groups := f.groups.filter (·.1 != g) ++ [(g, 0)] }).booked 13 0 0 false
              (rowsIn (word d 3) (16 * (bits w 13 8 + 1)))))) ∧
      (∀ n, Reads s 13 15 [0xF, 0xFFFFFF, 0, 0, 0, 0, 0] t d → FieldOk s (word d 2) → GroupUp s g → Enters s d (FabRoom s) →
        s.core.eng.fab.groups.lookup g = some n →
        exec (.fbar m) s = .next (fabbed s t d (.barrier g (word d 2)) 0 0 (n + 1) [] fun f =>
          { f with groups := f.groups.map fun x => if x.1 = g then (g, n + 1) else x }))) ∧
    (t.toNat ≤ 2 → Room s 1 →
      exec (.fstat m) s = .next { ((s.sent 13 [(200, .scalar true none, 0)]).onEng fun e => { e with fab := { e.fab with
        stats := e.fab.stats ++ [(s.core.seq, t.toNat, s.nReq, s.wall + 1 + Config.outsideDelay s.nReq)] } }) with nReq := s.nReq + 1 })

/-! ## Tile instructions (R330, R367, R369) -/

/-- tissue reads its word in the issue cycle, checks it and queues it in core order; a core holds at most four; tstat tells how many it
holds with the grants of its launch, or word 0 of the latest failure (R330, R369, R387). -/
def Obligations.TileIssue : Prop :=
  ∀ (m : Move) (s : State), Fires s .scalar false m →
    let t := s.operand m
    let w := tileWords s t
    let stops := fun (c : Cause) => ∃ u, exec (.tissue m) s = .next u ∧ StopsWith s u c 0 0 0
    (t.toNat % 32 = 0 → t.toNat < 0x400000 → s.core.task.spOk t.toNat 32 = true → s.core.copyLate (coreDie s.focus) 0 [(t.toNat, 32)] = none →
      BanksFree s 0 0 false [t.toNat] →
      (∀ ls, TileOk s w → AreaOk s w ls → ∃ u, exec (.tissue m) s = .next u ∧
        u.mod = { s.mod with tiles := s.mod.tiles ++
          [⟨s.nReq, w, s.focus, false, s.core.here 14, s.core.task.slot, s.core.task.launchId, s.core.gid, s.core.eng.nid, false, [], [], 0, []⟩] } ∧
        u.core.gid = s.core.gid + 1 ∧ u.nReq = s.nReq + 1 ∧
        u.core.eng = { s.core.eng with pins := if ls.isEmpty then s.core.eng.pins else s.core.eng.pins ++ [(2 ^ 62 + s.nReq, ls)] } ∧
        SameRegs s.core u.core ∧ SameStores s.core u.core ∧ SameOthers s u ∧ u.core.pend = s.core.pend) ∧
      (tileWordOk w = false → stops .tileWord) ∧
      (tileWordOk w = true → tileOpc w ≤ 2 → fmtCombo (tileFmt w) (tileSr w) = false ∨ (tileOpc w ≠ 0 ∧ tileSr w = 3) → stops .fmtCombo) ∧
      (tileWordOk w = true → 12 ≤ tileOpc w → s.core.task.mayTarget w = false → stops .tileDenied) ∧
      (tileWordOk w = true → 12 ≤ tileOpc w → s.core.task.mayTarget w = true → 4 ≤ s.tilesOf.length → stops .tileQueue)) ∧
    (Room s 1 →
      (t = 0 → exec (.tstat m) s = .next (s.sentScalar 14 2 (BitVec.ofNat 64 (s.tilesOf.length +
        (if s.core.task.pkgGrant then 256 else 0) + (if s.core.task.grpGrant then 512 else 0))))) ∧
      (t = 1 → exec (.tstat m) s = .next (s.sentScalar 14 2 s.core.eng.tileFail))) ∧
    (t.toNat % 32 ≠ 0 → ∃ u, exec (.tissue m) s = .next u ∧ StopsWith s u .align 0 (spBase + t.toNat) 0) ∧
    (1 < t.toNat → ∃ u, exec (.tstat m) s = .next u ∧ StopsWith s u .ctlSel 0 0 0)

/-! ## Words and bundles (R167 to R182) -/

/-- Slot words that the manual writes out read as the moves it writes beside them. -/
def Obligations.HandWordsDecode : Prop :=
  decodeTableWord 32 0x18180021 = some (.operandPortMove 6 1 ⟨.always, .named 33⟩) ∧
  decodeTableWord 32 0x18940002 = some (.vadd ⟨.always, .queue 2⟩) ∧
  decodeTableWord 32 0x62300006 = some (.nregWrite 35 ⟨.ifTrue, .latch 6⟩) ∧
  decodeTableWord 32 0x388C0000 = some (.nop ⟨.always, .imm 0⟩) ∧
  decodeTableWord 32 0x1A580026 = some (.vpack ⟨.always, .named 38⟩) ∧
  decodeTableWord 32 0x34180008 = some (.operandPortMove 13 1 ⟨.always, .named 8⟩) ∧
  decodeTableWord 32 0x3498000A = some (.fwr ⟨.always, .named 10⟩)

/-- Decoding is the inverse of encoding: every well-formed slot instruction is read back from its word and extension, and without a header
from its word alone when it needs no extension; and every word that decodes is the encoding of the instruction it decodes to. -/
def Obligations.DecodeEncode : Prop :=
  (∀ (i : Instr) (w : BitVec 32) (e : BitVec 7), i.wellFormed = true → encode i = some (w, e) →
    decodeSlot true e w = .ok i ∧
    (∀ u p m, i.slot = some (u, p, m) → (∀ v, m.src = .imm v → (v.setWidth 18).signExtend 25 = v) → (∀ k, m.guard = .stage k → k = 0) →
      decodeSlot false 0 w = .ok i)) ∧
  (∀ (i : Instr) (w : BitVec 32) (e : BitVec 7),
    (decodeSlot true e w = .ok i → i.wellFormed = true ∧ encode i = some (w, e)) ∧
    (decodeSlot false 0 w = .ok i → i.wellFormed = true ∧ ∃ x, encode i = some (w, x)))

/-- A step runs the instruction that is due: first those of the core's cycle, then those of the rest of the module, then what comes from
outside; with none due the next cycle begins. -/
def Obligations.StepRuns : Prop :=
  ∀ (s : State) (i : Instr) (rest : List Instr),
    (s.agenda = i :: rest → step s = exec i { s with agenda := rest }) ∧
    (s.agenda = [] → s.due = i :: rest → step s = exec i { s with due := rest }) ∧
    (s.agenda = [] → s.due = [] → s.inbox = i :: rest → step s = exec i { s with inbox := rest }) ∧
    (s.agenda = [] → s.due = [] → s.inbox = [] → step s = .next s.advance)

/-- The slots of a bundle that issues are the instructions that its words decode to: operand ports take their values first, then the slots
act in slot order as exec has them act, the positions that follow are those they leave, and STALL cycles pass before the next one.
A bundle's issue always answers a next state: one whose only acting slot is an ALU operation
puts that result in flight (R168, R174, R178, R179, R181). -/
def Obligations.BundleActs : Prop :=
  (∀ s : State, ∃ t, exec .bundleIssue s = .next t) ∧
  (∀ (s : State) (b : Bundle) (i : Instr) (u : BitVec 1) (m : Move) (f : W64 → W64 → W64 → W64) (k : Nat) (r : RawMove)
    (before after : List (Nat × RawMove)),
    let s0 := s.onCore fun c => { c.popPos.enterTarget with curHdr := b.hdr, slot := k }
    s0.core.seg.first ≤ s0.core.cur.idx → s0.core.cur.idx ≤ s0.core.seg.last → checkBundle s0.core.fetch = .ok b →
    s.core.popPos.lendBad b = false → s0.core.cur.loopDelay = false → s.core.mode = .run → s.core.halt = false →
    (b.moves.filter fun x => !s0.core.doneMask.getLsbD x.1) = before ++ (k, r) :: after →
    (∀ x ∈ before ++ after,
      x.2.unit = 14 ∧ x.2.port = 8 ∧ x.2.move.src.bad .scalar = none ∧ s0.core.guardPass x.2.move.guard = false ∨
      x.2.port = 0 ∧ x.2.unit ≠ 8 ∧ x.2.move.src.bad .any = none ∧ s0.core.schedCtl = 0) →
    r.unit = u.toNat → 8 ≤ r.port → r.instr = some i → aluForm i = some (u, m, f) → Fires s0 .scalar false m → Room s0 1 →
    ∃ t, exec .bundleIssue s = .next t ∧
      t.core.pend = (s0.sentScalar u.toNat 1 (f (s0.core.port u.toNat 1) (s0.core.port u.toNat 2) (s0.operand m))).core.pend ∧
      t.core.stall = b.stall ∧
      t.core.fq = (if s0.core.fq = [] then [Pos.plain (s0.core.cur.idx + 1)] else s0.core.fq) ∧
      SameRegs s.core t.core ∧ SameStores s.core t.core ∧ SameOthers s t ∧ t.mod = s.mod ∧ t.core.eng = s.core.eng ∧
      t.core.mode = .run) ∧
  (∀ (r : RawMove) (i : Instr) (s : State), r.instr = some i → runSlot r s = exec i s) ∧
  (∀ (s : State) (b : Bundle) (is : List (Nat × Instr)) (u : State),
    let s0 := s.onCore fun c => c.popPos.enterTarget
    let todo := b.moves.filter fun x => !s0.core.doneMask.getLsbD x.1
    let s1 := (s0.onCore fun c => { c with curHdr := b.hdr }).portWrites todo
    s0.core.seg.first ≤ s0.core.cur.idx → s0.core.cur.idx ≤ s0.core.seg.last → checkBundle s0.core.fetch = .ok b →
    s.core.popPos.lendBad b = false → (s0.core.hasBar b.moves = true → s.barCovered = false) → s1.core.tileHolds todo = false →
    (s0.onCore fun c => { c with curHdr := b.hdr }).bindWaits todo = none →
    todo.mapM (fun x => x.2.instr.map fun i => (x.1, i)) = some is → Acts is s1 u →
    ∃ t, exec .bundleIssue s = .next t ∧
      t.core.stall = b.stall ∧ t.core.fq = (if u.core.fq = [] then [Pos.plain (u.core.cur.idx + 1)] else u.core.fq) ∧
      SameRegs u.core t.core ∧ SameStores u.core t.core ∧ SameOthers u t ∧ t.mod = u.mod ∧ t.core.eng = u.core.eng ∧
      t.core.wait = u.core.wait ∧ t.core.halt = false ∧ t.core.mode = (if u.core.halt then .halted else u.core.mode) ∧
      t.core.pend = u.core.pend ∧ (u.core.cur.loopDelay = false → t.core.loops = u.core.loops) ∧
      t.agenda = u.core.boundaryEvent ++ u.agenda) ∧
  (∀ (s : State) (todo : List (Nat × RawMove)) (k : Nat) (r : RawMove), (k, r) ∈ todo → s.core.mode = .run →
    (∀ k' r', (k', r') ∈ todo → r'.unit = r.unit → r'.port = r.port → (k', r') = (k, r)) → r.unit < 15 → 1 ≤ r.port → r.port ≤ 7 →
    (operandClass r.unit r.port = .scalar → Fires (s.onCore fun c => { c with slot := k }) .scalar false r.move →
      (s.portWrites todo).core.port r.unit r.port = (s.onCore fun c => { c with slot := k }).operand r.move) ∧
    (operandClass r.unit r.port = .vector → Fires (s.onCore fun c => { c with slot := k }) .vector false r.move →
      (s.portWrites todo).core.vport r.unit r.port = (s.onCore fun c => { c with slot := k }).voperand r.move))

/-- Positions of the stream. NULLIFIED_POSITION always completes: its bundle's checks are made, and it passes with no slot acting and its
stall to come. BREAKPOINT_HIT always completes: the task stops before its position with cause BREAK and an empty done mask, and nothing of
the position is done. What a position comes to before any slot acts: a malformed slot or a broken pair rule faults on its slot with nothing
done, and a position outside the segment is OVERRUN or, for a target, OUT_OF_SEGMENT (R34, R180 to R182, R217, R426). -/
def Obligations.Positions : Prop :=
  (∀ s : State, ∃ t, exec .nullifiedPosition s = .next t) ∧
  (∀ s : State, exec .breakpointHit s = .next { s with
    agenda := []
    core := { s.core.popPos with
      mode := .stopping, cycleOpen := false, fq := s.core.popPos.cur :: s.core.popPos.fq
      walks := s.core.walks.filter fun w => w.failed.isNone
      doneMask := 0, captured := []
      stop := some ⟨some .brk, 0, 0, 0, 0, 0, 0, true, false, .zero, false⟩ } }) ∧
  ∀ (s : State),
    let c0 := s.core.popPos
    let stops := fun (i : Instr) (k : Nat) (cause : Cause) (reason faddr finfo : Nat) => ∃ t, exec i s = .next t ∧
      t.core.mode = .stopping ∧ t.agenda = [] ∧ t.core.fq = c0.cur :: c0.fq ∧ SameRegs s.core t.core ∧ SameStores s.core t.core ∧
      SameOthers s t ∧ t.mod = s.mod ∧ t.core.pend = s.core.pend ∧
      t.core.stop = some ⟨some cause, reason, k, 0, 0, faddr, finfo, !cause.graph, false, .zero, false⟩ ∧ t.core.doneMask = 0 ∧
      t.core.loops = s.core.loops
    (∀ i, i = .bundleIssue ∨ i = .nullifiedPosition →
      (c0.cur.idx < c0.seg.first ∨ c0.seg.last < c0.cur.idx →
        stops i 0 (if c0.cur.target then .outOfSegment else .overrun) 0 c0.seg.node 0) ∧
      (c0.seg.first ≤ c0.cur.idx → c0.cur.idx ≤ c0.seg.last →
        (∀ k r, checkBundle c0.fetch = .error (.slot k r) → stops i k .illegalSlot r.code 0
          ((slotUnit (bundleSlot c0.fetch k)).toNat * 64 + (slotPort (bundleSlot c0.fetch k)).toNat)) ∧
        (∀ k, checkBundle c0.fetch = .error (.pair k) → stops i k .illegalBundle 0 0
          ((slotUnit (bundleSlot c0.fetch k)).toNat * 64 + (slotPort (bundleSlot c0.fetch k)).toNat)))) ∧
    (∀ b, c0.seg.first ≤ c0.cur.idx → c0.cur.idx ≤ c0.seg.last → checkBundle c0.fetch = .ok b → c0.lendBad b = false → s.core.halt = false →
      ∃ t, exec .nullifiedPosition s = .next t ∧ t.core.stall = b.stall ∧ t.core.mode = s.core.mode ∧ SameRegs s.core t.core ∧
        SameStores s.core t.core ∧ SameOthers s t ∧ t.mod = s.mod ∧ t.core.eng = s.core.eng ∧ t.core.pend = s.core.pend ∧
        t.core.fq = (if c0.fq = [] then [Pos.plain (c0.cur.idx + 1)] else c0.fq))

/-- Between positions: a wait that is over ends, its bundle's other slots kept for their issue where it stopped with them undone; the walker takes the node it has reached as R32 says, one node a cycle; and a csrw of a
ring's TAIL, of ECAUSE and of EMBFLT has its effect (R30 to R35, R83, R115, R154, R237). -/
def Obligations.StreamSteps : Prop :=
  (∀ (s : State) (w : Wait), s.core.wait = some w →
    let ended := fun (k : Nat) => s.onCore fun c =>
      if c.doneMask.getLsbD k then { c with wait := none } else { c with wait := none, doneMask := 0, captured := [] }
    (∀ ne ea v k n, w = .word ne ea v k (some n) → n ≤ s.wall → exec .waitEnd s = .next (ended k)) ∧
    (∀ ne off v k hit, w = .word ne (spBase + off) v k hit → off < 0x400000 →
      waitHolds ne v (BitVec.ofNat 64 (rdLE s.core.sp off 8)) = true → exec .waitEnd s = .next (ended k)) ∧
    (∀ ne off v k hit x, w = .word ne (csrBase + off) v k hit → off < 0x8000 → s.core.csrRead (off / 8) = some x →
      waitHolds ne v x = true → exec .waitEnd s = .next (ended k)) ∧
    (∀ r k n, w = .bar r k (some n) → (s.ts - n).toNat < 2 ^ 63 → exec .waitEnd s = .next (s.onCore fun c => { c with wait := none })) ∧
    (((∃ r k, w = .bar r k none) ∨ (∃ r k n, w = .bar r k (some n) ∧ 2 ^ 63 ≤ (s.ts - n).toNat) ∨
      ∃ ne ea v k, w = .word ne ea v k none ∧ regionOf ea = .global) → exec .waitEnd s = .next s)) ∧
  (∀ (s : State) (w : Walk), s.core.theWalk = some w →
    let n := s.core.node w.node
    let count := sget 0 s.core.counts w.node
    let goes := fun (next : Nat) (counts : List (Nat × Nat)) => exec .segmentWalk s = .next (s.onCore fun c =>
      { c with walk := some ⟨next, w.passed + 1⟩, counts := counts, seg := { c.seg with ending := none } })
    let stops := fun (cause : Cause) => ∃ t, exec .segmentWalk s = .next t ∧ t.core.mode = .stopping ∧ t.core.fq = [] ∧
      SameRegs s.core t.core ∧ SameStores s.core t.core ∧ SameOthers s t ∧
      ∃ st, t.core.stop = some st ∧ st.cause = some cause ∧ st.faddr = w.node ∧ st.resumable = false
    (n.bad w.node s.core.nodeCount = true → stops .nodeBad) ∧
    (n.bad w.node s.core.nodeCount = false →
      (n.kind = 0 → s.core.stopAsked = none → ∃ t, exec .segmentWalk s = .next t ∧ t.core.scc = 0 ∧ t.core.tcc = s.core.tcc ∧ t.core.walk = none ∧
        t.core.seg = ⟨w.node, BitVec.ofNat 14 n.start, BitVec.ofNat 14 n.last, none⟩ ∧ t.core.fq = [Pos.plain (BitVec.ofNat 14 n.start)] ∧
        t.core.regs = s.core.regs ∧ t.core.pend = s.core.pend ∧ SameStores s.core t.core ∧
        ((∀ k < 4, (vget 0 s.core.bkpt k).getLsbD 63 = false) → t.agenda = .bundleIssue :: s.agenda)) ∧
      (n.kind = 1 → w.passed < 16 → goes (if s.core.cond.getLsbD 0 then n.succ1 else n.succ0) s.core.counts) ∧
      (n.kind = 2 → w.passed < 16 →
        (s.core.cond = 0 → goes n.succ1 (sset 0 s.core.counts w.node 0)) ∧
        (s.core.cond ≠ 0 → n.limit = 0 ∨ count < n.limit → goes n.succ0 (sset 0 s.core.counts w.node (count + 1))) ∧
        (s.core.cond ≠ 0 → n.limit ≠ 0 → n.limit ≤ count → stops .limit)) ∧
      (n.kind = 3 → s.core.eng.ember.flt.getLsbD 63 = false → exec .segmentWalk s = .next (s.onCore fun c =>
        { c with mode := .halted, walk := none, seg := { c.seg with ending := none } })) ∧
      (n.kind = 1 ∨ n.kind = 2 → w.passed = 16 → stops .walkLimit))) ∧
  (∀ (s : State) (n : BitVec 3) (v : W64),
    ((s.core.ring n.toNat).v = true → (s.core.ring n.toNat).feed = 0 → (s.core.ring n.toNat).ptrBad v = false →
      exec (.ringTailWrite n v) s = .next (s.onCore fun c =>
        { c with eng := { c.eng with rings := vset c.eng.rings n.toNat { c.ring n.toNat with tail := v.extractLsb' 32 32 } } })) ∧
    (v.extractLsb' 40 2 = 0 → ∃ r : W64, (∀ k < 64, r.getLsbD k = (s.core.raceStat.getLsbD k && k != 40 && k != 41)) ∧
      exec (.ecauseRearm v) s = .next (s.onCore fun c => { c with raceStat := r })) ∧
    (v.getLsbD 63 = true → exec (.embfltClear v) s = .next (s.onCore fun c =>
      { c with eng := { c.eng with ember := { c.eng.ember with flt := 0 } } })) ∧
    (v.getLsbD 63 = false → exec (.embfltClear v) s = .next s))

/-- RESULT_LAND: every result that is due lands, and none that is not; scalar results enter the queue in the order of R348, each in its
unit's latch too, and move the older entries up; other items reach their registers, a csrw its own; and what performs on bytes does so at
the cycle's end (R14, R97, R347, R348). -/
def Obligations.ResultsLand : Prop :=
  (∀ s : State, ∃ t, exec .resultLand s = .next t ∧ (∀ p ∈ t.core.pend, t.core.landsNow p = false) ∧
    (∀ p ∈ s.core.pend, s.core.tcc < p.tcc → (∀ a v, p.act ≠ .vgather a v) → p ∈ t.core.pend) ∧
    SameStores s.core t.core ∧ SameOthers s t ∧ t.core.tcc = s.core.tcc ∧ t.core.scc = s.core.scc) ∧
  (∀ (s : State) (ps : List (Pend × W64)),
    (ps.map (·.1)).Perm (s.core.pend.filter s.core.landsNow) →
    (∀ x ∈ ps, x.1.act = .scalar true (some x.2) ∧ x.1.unit < 16) →
    ps.Pairwise (fun a b => a.1.unit < b.1.unit ∨ a.1.unit = b.1.unit ∧ a.1.seq < b.1.seq) →
    ∃ t, exec .resultLand s = .next t ∧ t.agenda = s.agenda ∧
      (∀ k < 16, vget 0 t.core.regs.sq k = ((ps.map (·.2)).reverse ++ s.core.regs.sq.toList).getD k 0) ∧
      (∀ u < 16, vget 0 t.core.regs.sLatch u = (((ps.filter fun x => x.1.unit == u).map (·.2)).getLast?).getD (vget 0 s.core.regs.sLatch u)) ∧
      t.core.regs.n = s.core.regs.n ∧ t.core.regs.vq = s.core.regs.vq) ∧
  (∀ (s : State) (p : Pend), s.core.pend = [p] → p.tcc ≤ s.core.tcc → ∃ t, exec .resultLand s = .next t ∧
    (∀ v, p.act = .vector v → vget 0 t.core.regs.vq 0 = v ∧ vget 0 t.core.regs.vLatch (vLatchIdx p.unit) = v ∧
      ∀ k < 7, vget 0 t.core.regs.vq (k + 1) = vget 0 s.core.regs.vq k) ∧
    (∀ n v, p.act = .reg n v → 1 ≤ n.toNat → n.toNat < 32 → vget 0 t.core.regs.n n.toNat = v) ∧
    (∀ n v, p.act = .vreg n v → vget 0 t.core.regs.v n.toNat = v) ∧
    (∀ n v, p.act = .breg n v → vget 0 t.core.regs.b n.toNat = v) ∧
    (∀ st, p.act = .pstack st → t.core.pstack = st) ∧ (∀ v, p.act = .cond v → t.core.cond = v) ∧ (∀ v, p.act = .fmt v → t.core.fmt = v) ∧
    (∀ v, p.act = .csr 0x003 v → p.flags = 0 → s.core.eng.kiln.flagsAt s.core.tcc = 0 →
      ∀ k < 7, t.core.fstat.getLsbD k = (s.core.fstat.getLsbD k && !v.getLsbD k))) ∧
  (∀ (c : Core) (p : Pend) (off n v : Nat), c.pend = [p] → p.tcc ≤ c.tcc → c.engWrites = [] →
    (p.act = .spWrite off n v → c.perform.sp = wrLE c.sp off n v ∧ c.perform.acc = c.acc) ∧
    (p.act = .accWrite off n v → c.perform.acc = wrLE c.acc off n v ∧ c.perform.sp = c.sp))

/-- No slot changes at issue what its results, its writes and its commands change later: registers, latches, queues, flags, local stores,
global memory and other cores stand as before, whether it takes effect, is skipped, waits or stops (R97, R347). -/
def Obligations.SlotFrame : Prop :=
  ∀ (i : Instr) (s t : State), i.slot ≠ none → exec i s = .next t →
    SameRegs s.core t.core ∧ SameStores s.core t.core ∧ SameOthers s t

/-! ## Invariants and reset -/

/-- Every step keeps the module's storage in its canonical form. -/
def Obligations.StorageStaysCanonical : Prop := ∀ (s t : State), s.MemWf → step s = .next t → t.MemWf

/-- After a cold package reset the boot ROM is about to read the firmware image, no core runs, nothing is stored, and the Flue island
stands in RESET with no link up; a core's registers stand at the values of the start pulse, which are the model's choice for want of
others (log entry 4; R28, R441, R447). -/
def Obligations.ResetState : Prop :=
  State.reset.MemWf ∧ State.reset.due = [.firmwareBoot] ∧ State.reset.agenda = [] ∧
  (∀ i, (State.reset.coreAt i).mode = .off ∧ (State.reset.coreAt i).fmt = 0 ∧ (State.reset.coreAt i).tcls = 7 ∧
    (State.reset.coreAt i).pstack = [] ∧ (State.reset.coreAt i).tcc = 0 ∧ ∀ k, (State.reset.coreAt i).readN k = 0) ∧
  State.reset.mod.flue.state = 0 ∧ State.reset.mod.flue.up = false ∧ State.reset.mod.flue.inc = 0 ∧ State.reset.mod.launches = [] ∧
  State.reset.mod.hub.dies = 0 ∧ State.reset.ts = 0

/-! ## The memory system (R78 to R115) -/

/-- The memory system's steps: an access performs at its controller, checked by the table of R113 and leaving its tag, or keeps the race
it meets and stops its core; a replicated store writes four replicas at once; a push store brings its bytes and then its flag; fences,
barriers, walks and requests for a bank end as R38, R80, R101 and R414 say. -/
def Obligations.MemorySystem : Prop :=
  (∀ (t : BitVec 18) (core gen : Nat) (write : Bool), core < 768 →
    (raceCheck t core gen write).map BitVec.toNat = tagRow t.toNat core gen write) ∧
  (∀ (s : State) (g : GAccess), MayPerform s g → (∀ x ∈ s.core.gacc, x.act ≠ .read 8 .wait) →
    (g.perform = true ∨ g.act.plain = true → ∀ tag, (g.perform = false → raceCheck (s.tag g.tagPa) s.focus s.gen g.act.writes = .ok tag) →
      (∀ len seq e, g.act = .read len (.slot seq e) → ∃ t, exec (.globalAccessPerform g.id) s = .next t ∧ t.mem = s.mem ∧
        t.core.pend = (s.core.deliver seq (extWord e len (rdLE s.mem g.pa len))).pend ∧ t.core.gacc = gone s g ∧
        (g.perform = false → t.tag g.tagPa = tag ∨ t.tag g.tagPa = tag ||| 2)) ∧
      (∀ data, g.act = .write data →
        (g.repl = false → ∃ t, exec (.globalAccessPerform g.id) s = .next t ∧ t.core.gacc = gone s g ∧ t.core.pend = s.core.pend ∧
          SameOutside s.mem t.mem g.pa data.length ∧ ∀ k < data.length, rdByte t.mem (g.pa + k) = data.getD k 0) ∧
        (g.repl = true → g.pa < 0x6000000000 → g.pa + data.length ≤ 0x6000000000 → ∃ t, exec (.replicatedStoreCommit g.id) s = .next t ∧
          t.core.gacc = gone s g ∧ ∀ d < 4, ∀ k < data.length, rdByte t.mem (g.pa + 0x6000000000 * d + k) = data.getD k 0))) ∧
    (∀ a seq, g.act = .amo a (.slot seq a.ext) → g.repl = false → ∃ t, exec (.globalAccessPerform g.id) s = .next t ∧ t.tags = s.tags ∧
      t.core.gacc = gone s g ∧ rdLE t.mem g.pa a.width = amoNew a (rdLE s.mem g.pa a.width) % 256 ^ a.width ∧
      SameOutside s.mem t.mem g.pa a.width ∧ t.core.pend = (s.core.deliver seq (extWord a.ext a.width (rdLE s.mem g.pa a.width))).pend) ∧
    (∀ c, g.act.plain = true → g.perform = false → raceCheck (s.tag g.tagPa) s.focus s.gen g.act.writes = .error c → g.engine = false →
      exec (.globalAccessPerform g.id) s = .next (s.onCore fun k => { k with gacc := k.gacc.map fun a =>
        if a.id = g.id then { a with raced := some (c, tagCore (s.tag g.tagPa)) } else a }))) ∧
  (∀ (s : State) (g : GAccess) (c : Cause) (other : Nat), s.core.gacc = [g] → g.raced = some (c, other) → s.core.wait = none →
    ∃ t, exec .raceException s = .next t ∧ t.agenda = [] ∧ t.core.mode = .stopping ∧ t.core.gacc = [g] ∧ t.mem = s.mem ∧
      t.core.stop = some ⟨some c, 0, 0, s.core.doneMask, s.core.stall, g.va / 64 * 64, other, true, false, g.org, decide (s.core.mode = .halted)⟩) ∧
  (∀ (s : State) (r : OppReq), s.core.opp = [r] →
    (∀ b ∈ s.core.banks, b.tcc = s.core.tcc → b.store = (if r.acc then 1 else 0) → b.bank ≠ (bankOf (if r.acc then 1 else 0) r.off).1) →
    (∀ u ∈ s.core.oppUsed, u.1 = (if r.acc then 1 else 0) → u.2.1 ≠ (bankOf (if r.acc then 1 else 0) r.off).1) →
    ∃ t, exec .opportunisticWrite s = .next t ∧ t.core.opp = [] ∧
      t.mod.pushes = (s.mod.pushes.filter fun p => !(p.got && p.tgt == s.focus)) ∧
      (r.after = .none → t.core.engWrites = s.core.engWrites ++ [(r.acc, r.off, r.data)]) ∧
      (s.core.engWrites = [] →
        (∀ o, r.after = .raise o → t.core.engWrites = [(r.acc, r.off, leBytes (rdLE s.core.sp o 8 + 1) 8)]) ∧
        (∀ o, r.after = .complete o 0 →
          t.core.engWrites = [(r.acc, r.off, leBytes (let w := rdLE s.core.sp o 8; w / 2 ^ 48 * 2 ^ 48 + (w + 1) % 2 ^ 48) 8)]) ∧
        (∀ o a q, r.after = .atomic o a q →
          t.core.engWrites = [(r.acc, r.off, leBytes (amoNew a (rdLE s.core.sp o a.width)) a.width)] ∧
          t.core.eng.delivered = s.core.eng.delivered ++
            [(15, q, 0, leBytes (extWord a.ext a.width (rdLE s.core.sp o a.width)).toNat 8)])) ∧
      (∀ u c i, r.after = .engine u c i → r.data = [] → t.core.eng.delivered = s.core.eng.delivered ++
        [(u, c, i, rdBytes (if r.acc then s.core.acc else s.core.sp) r.off r.len)])) ∧
  (∀ (s : State) (f : Fence) (rest : List Fence), s.core.fences = f :: rest →
    (∀ g ∈ s.core.gacc, g.place < f.id → f.kind = .acquire ∧ g.act.reads = false) → s.readsCovered s.focus f.id = true →
    (f.kind ≠ .acquire → (∀ p ∈ s.mod.pushes, p.src = s.focus → p.launch = s.core.task.launchId → p.gid < f.id → f.takes s.focus p.tgt = false) ∧
      s.core.peerOwed f.id (f.takes s.focus) = false ∧ (f.scope = 3 → s.remoteCovered s.focus f.id = true)) →
    exec .fencePerform s = .next
      (let t := s.onCore fun c => { c with fences := rest }
       if f.kind ≠ .acquire ∧ f.scope ≠ 0 then
         { t with tags := publishTags s.tags s.focus s.core.writeLog, core := { t.core with writeLog := [] } } else t)) ∧
  (∀ (s : State) (p : Push), Only (·.id) s.mod.pushes p → s.pushReady p = true → s.core.task.launchId = p.launch →
    let refused := (∃ x ∈ p.parts, s.core.indexHit x.1 x.2.length = true) ∨ (p.flag ≠ none ∧ (p.grp, p.tgt) ∈ s.mod.refused)
    let place := fun (off : Nat) => ctxBase + 2 ^ 24 * (s.core.frame + 1) + 0x400000 + off
    ∃ t, exec (.pushStoreArrival p.id) s = .next t ∧
      (s.core.mode ∈ [.run, .hold, .halted, .stopping] → t.mem = s.mem ∧
        (refused → t.core.opp = s.core.opp ∧ t.mod.pushes = s.mod.pushes.erase p) ∧
        (¬ refused → t.mod.pushes = s.mod.pushes.map (fun x => if x.id = p.id then { x with got := true } else x) ∧
          t.core.opp = s.core.opp ++ p.parts.flatMap (rowWrites 1 (2 * p.id)) ++
            (match p.flag with | some f => [⟨1, 2 * p.id, false, f, 8, [], .raise f⟩] | none => []))) ∧
      (s.core.mode ∈ [.stopped, .restoring] → t.core = s.core ∧ t.mod.pushes = s.mod.pushes.erase p ∧
        (refused → t.mem = s.mem) ∧
        (¬ refused → ∀ o d, p.parts = [(o, d)] →
          let m := wrBytes s.mem (place o) d
          t.mem = (match p.flag with | some f => wrLE m (place f) 8 (rdLE m (place f) 8 + 1) | none => m)))) ∧
  (∀ (s : State) (b : Barrier), b ∈ s.mod.barriers → b.slot = s.core.task.slot → (∀ x ∈ s.mod.barriers, x.slot = b.slot → x ≠ b →
      ∃ i ∈ x.rect.cores, i ∉ x.arrived) → (∀ i ∈ b.rect.cores, i ∈ b.arrived) →
    ∃ t, exec .barrierComplete s = .next t ∧ t.mod.barriers = s.mod.barriers.erase b ∧
      t.mod.gens = (if b.rect = s.core.task.rect then s.mod.gens.map fun x => if x.1 = b.slot then (x.1, x.2 + 1) else x else s.mod.gens) ∧
      (∀ i ∈ b.rect.cores, ∀ k, (s.coreAt i).wait = some (.bar b.rect k none) →
        ∃ n < 250, (t.coreAt i).wait = some (.bar b.rect k (some (s.ts + BitVec.ofNat 64 n)))) ∧
      (∀ i, i ∉ b.rect.cores → t.coreAt i = s.coreAt i)) ∧
  (∀ (s : State) (w : PageWalk), s.core.walks = [w] → w.arrive ≤ s.wall → w.failed = none →
    (∀ l, s.walkPage s.core.task.asid w.va w.read w.write = .ok l → ∃ t, exec .translationWalk s = .next t ∧
      t.core.walks = [] ∧ t.core.tlb = (l :: s.core.tlb).take 512 ∧ SameRegs s.core t.core) ∧
    (∀ c n, s.walkPage s.core.task.asid w.va w.read w.write = .error (c, n) → n < 16 →
      exec .translationWalk s = .next (s.onCore fun k => { k with walks := [{ w with failed := some (c, n) }] })))

/-! ## Holds, stops and resumption (R20, R355 to R360, R416 to R423, R453) -/

/-- A late item holds the core, or with LATE set stops it with TIMING; when every item has come the hold ends with its record; a drained
core writes its image and stops, and resumes from it; a relock and a bundle fetched again hold their cores. -/
def Obligations.HoldsAndStops : Prop :=
  (∀ (s : State) (l : Late) (ls : List Late), lateOrder s.core.lateReplies = l :: ls → s.core.held = none →
    (s.core.schedNow.getLsbD 0 = false → exec .lateItem s = .next { s with
      core := { s.core with mode := .hold, hold := some ⟨s.ts, 1, l :: ls, s.core.mode⟩, cycleOpen := false }, agenda := [] }) ∧
    (s.core.schedNow.getLsbD 0 = true → ∃ t, exec .lateItem s = .next t ∧ t.agenda = [] ∧ t.core.mode = .stopping ∧
      (∃ st, t.core.stop = some st ∧ st.cause = some .timing ∧ st.reason = l.code ∧ st.resumable = true) ∧
      (s.core.devCnt.toNat + ls.length + 1 < 2 ^ 32 → t.core.devCnt.toNat = s.core.devCnt.toNat + ls.length + 1))) ∧
  (∀ (s : State) (h : Hold), s.core.hold = some h →
    ((∃ l ∈ h.items, l.arrived = none) → exec .holdEnd s = .next s) ∧
    ((∀ l ∈ h.items, l.arrived ≠ none) → ∃ t, exec .holdEnd s = .next t ∧ t.core.mode = h.back ∧ t.core.hold = none ∧
      t.core.held = some (h.ts, h.cycles) ∧ t.core.devCnt = s.core.devCnt ∧ SameRegs s.core t.core ∧ SameStores s.core t.core) ∧
    (∀ l, s.core.mode = .hold → h.items = [l] → l.arrived = none → s.imposed = [] → s.core.stopAsked = none → (∀ g ∈ s.core.gacc, g.raced = none) →
      let t := s.beginCycle
      (s.needMet l.need = false → t.core.hold = some { h with cycles := h.cycles + 1 } ∧ t.core.devCnt = s.core.devCnt ∧ .holdEnd ∉ t.agenda) ∧
      (s.needMet l.need = true → (∀ k, l.need ≠ .refetch k) → l.need ≠ .alarm →
        .holdEnd ∈ t.agenda ∧ t.core.hold = some { h with items := [{ l with arrived := some h.cycles }] } ∧
        t.core.devCnt.toNat = min (s.core.devCnt.toNat + 1) (2 ^ 32 - 1) ∧
        (s.core.devLost.toNat + h.cycles < 2 ^ 64 → t.core.devLost.toNat = s.core.devLost.toNat + h.cycles) ∧
        vget 0 t.core.devLast 0 = h.ts ∧ vget 0 t.core.devLast 2 = BitVec.ofNat 64 s.core.tcc))) ∧
  (∀ (s : State) (n : BitVec 4), let x := s.island n.toNat
    (x.relock = none → x.cur ≠ max x.pstate x.step → exec (.relock n) s = .next (s.onHub fun h =>
      { h with isl := vset h.isl n.toNat { x with cur := max x.pstate x.step, relock := some s.ts } })) ∧
    (x.relock ≠ none → (∀ i < 768, islandOf i = n.toNat → relockHeld (s.coreAt i) = true) → x.cur = max x.pstate x.step →
      exec (.relockEnd n) s = .next (s.onHub fun h => { h with isl := vset h.isl n.toNat { x with relock := none } }))) ∧
  (∀ (s : State) (b : List Byte), s.core.mode = .run → s.core.cycleOpen = false → s.core.held = none → s.imageBundle s.core s.focus s.core.nextIdx.toNat = some b →
    ∃ t n, exec .instructionRefetch s = .next t ∧ s.wall < n ∧ t.core.imem = wrBytes s.core.imem (16 * s.core.nextIdx.toNat) b ∧
      t.core.mode = .hold ∧ t.core.hold = some ⟨s.ts, 1, [⟨0, .zero, 0, .refetch n, none⟩], .run⟩ ∧ SameRegs s.core t.core ∧
      vget 0 t.mod.hub.errcnt 2 = countField (vget 0 s.mod.hub.errcnt 2) false) ∧
  (∀ (s : State) (st : Stop), s.core.mode = .stopping → s.core.stop = some st → s.drained = true →
    ∃ t, exec .coreStop s = .next t ∧ t.core.mode = .stopped ∧ t.core.stop = some st ∧ t.core.regs = s.core.regs ∧ SameStores s.core t.core ∧
      t.core.frame = s.frameOf s.core.task.slot s.focus ∧ t.core.pend = s.core.pend ∧ t.core.eng = s.core.eng ∧
      (st.cause ≠ none → s.core.task.slot < 1024 →
        (vget 0 t.mod.host.faultmap (s.core.task.slot / 64)).getLsbD (s.core.task.slot % 64) = true)) ∧
  (∀ (s : State) (st : Stop), s.core.mode = .restoring → s.core.stop = some st →
    (∀ c, s.core.fromImage st s.mem = some c → (∀ g ∈ c.gacc, g.raced = none) → ∃ t, exec .contextResume s = .next t ∧
      t.core.mode = (if st.halted then .halted else .run) ∧ t.core.stop = none ∧ t.core.regs = c.regs ∧ SameStores c t.core ∧
      t.core.pend = c.pend ∧ t.core.fq = c.fq ∧ t.core.gacc = c.gacc) ∧
    (s.core.fromImage st s.mem = none → ∃ t, exec .contextResume s = .next t ∧ t.core.mode = .stopped ∧
      ∃ x, t.core.stop = some x ∧ x.cause = some .imageBad ∧ x.resumable = false))

/-! ## The Kiln's steps (R117 to R141, R283 to R289) -/

/-- The Kiln's steps: writes of the shadow, switch tokens, ring definitions, drains and zeroing; a pass fixes its streams at its start,
reads a beat in its read cycles, has its cells act on it, writes what it sets on its way, and gives up its rings' tiles. -/
def Obligations.KilnSteps : Prop :=
  ∀ (s : State),
    let k := s.core.eng.kiln
    let now := s.core.tcc
    let onK := fun (f : Kiln → Kiln) => s.onEng fun e => { e with kiln := f e.kiln }
    (∀ w, Only (·.id) k.writes w → w.done ≤ now → ∃ g, exec (.shadowConfigWrite w.id) s = .next (onK fun k =>
        { k with shadow := g, writes := k.writes.filter fun x => x.id != w.id }) ∧
      (∀ f sk c, w.act = .flow f sk c → g = { k.shadow with flow := f, skews := sk, c := c }) ∧
      (∀ sp lp k0 k1 map ub, w.act = .block sp lp k0 k1 map ub → g = ⟨sp, lp, k0, k1, map, ub, k.shadow.flow, k.shadow.skews, k.shadow.c⟩) ∧
      (∀ m a b, w.act = .consts m a b → k.shadow.k0.length = 4 → ∀ p < 4, g.k0.getD p 0 = (if bits m p p = 1 then a else k.shadow.k0.getD p 0))) ∧
    (∀ x, Only (·.id) k.tokens x → x.cfg = none → x.w ≤ now →
      (∃ q ∈ (match x.quad with | some q => [q] | none => [0, 1, 2, 3]), k.cfgs.getD (k.quadCfg.getD q 0) .zero ≠ k.shadow) →
      ∃ t, exec (.switchTokenInject x.id) s = .next t ∧ t.core.eng.kiln.cfgs = k.cfgs ++ [k.shadow] ∧ t.core.eng.kiln.cells = k.cells ∧
        ∃ y ∈ t.core.eng.kiln.tokens, y.id = x.id ∧ y.w = x.w ∧ y.quad = x.quad ∧ y.cfg = some k.cfgs.length) ∧
    (∀ x n i j, k.tokens = [x] → x.cfg = some n → x.quad = none → now = x.w + 3 + i + j → i < 64 → j < 64 →
      let g := k.cfgs.getD n .zero
      exec (.switchTokenArrival (BitVec.ofNat 6 i) (BitVec.ofNat 6 j)) s = .next (onK fun k =>
        k.setCell i j { k.cell i j with cfg := n, u := g.sp.getD (cellClass g.map i j) 0 })) ∧
    (∀ r, Only (·.id) k.krings r → r.start ≤ now → exec (.kringApply r.id) s = .next (s.onEng fun e =>
      { e with rings := vset e.rings r.n r.ring, kiln := { e.kiln with krings := e.kiln.krings.filter fun x => x.id != r.id } })) ∧
    (∀ z i j, Only (·.id) k.zeros z → z.start ≤ now → z.quad = none → i < 64 → j < 64 → (k.cells.map (·.1)).Nodup →
      ∃ t, exec (.kzeroApply z.id) s = .next t ∧
        (bits z.regs 0 0 = 1 → (t.core.eng.kiln.cell i j).c0 = 0) ∧ (bits z.regs 1 1 = 1 → (t.core.eng.kiln.cell i j).c1 = 0) ∧
        (bits z.regs 2 2 = 1 → (t.core.eng.kiln.cell i j).t = .bits 0) ∧
        (bits z.regs 0 0 = 0 → (t.core.eng.kiln.cell i j).c0 = (k.cell i j).c0)) ∧
    (∀ d, Only (·.id) k.drains d → d.quad = none →
      (∀ i < 64, now = d.start + 2 + i → i < 3 → exec (.drainRow d.id) s = .next (onK fun k => { k with drains := k.drains.map fun x =>
        if x.id = d.id then { x with held := x.held ++ [(i, (List.range 64).map fun j =>
          if d.reg1 then ((k.cell i j).settle now).c1 else ((k.cell i j).settle now).c0)] } else x })) ∧
      (∀ i row, now = d.start + 5 + i → 61 ≤ i → i < 64 → d.held.lookup i = some row → d.st ≠ 0 → ∃ t, exec (.drainRow d.id) s = .next t ∧
        t.core.engWrites = s.core.engWrites ++ [(d.acc, d.off + i * d.rstr, row.flatMap fun v => leBytes v.toNat (drainBytes d.dt))])) ∧
    (∀ p post, k.passes = p :: post → (∀ q ∈ post, q.id ≠ p.id) →
      (p.start ≤ now → (∀ r ∈ p.roles, r.pos = none) → ∃ q, exec (.passStart p.id) s = .next (onK fun k => { k with passes := q :: post }) ∧
        (let g := k.metAt (p.quad.getD 0) p.start
         q.flow = g.flow ∧ q.skews = g.skews ∧ q.c = if g.skews = none then g.c else 0) ∧
        q.id = p.id ∧ q.start = p.start ∧ q.code = p.code ∧ q.fmt = p.fmt ∧
        q.roles = p.roles.map fun r =>
          { r with pos := some (if q.isOut r.r then (s.core.ring r.ring).tail.toNat else (s.core.ring r.ring).head.toNat) }) ∧
      (p.retire = now → (p.roles.map (·.ring)).Nodup → ∃ t, exec (.passRetire p.id) s = .next t ∧
        (∀ r ∈ p.roles, p.isOut r.r = false → r.ring < 8 →
          (vget Ring.none t.core.eng.rings r.ring).head = (s.core.ring r.ring).head + BitVec.ofNat 32 r.tiles ∧
          (vget Ring.none t.core.eng.rings r.ring).tail = (s.core.ring r.ring).tail)) ∧
      (p.lastOut = now → (p.roles.map (·.ring)).Nodup → ∃ t, exec (.outputRingAdvance p.id) s = .next t ∧
        (∀ r ∈ p.roles, p.isOut r.r = true → r.ring < 8 →
          (vget Ring.none t.core.eng.rings r.ring).tail = (s.core.ring r.ring).tail + BitVec.ofNat 32 r.tiles)) ∧
      (∀ b, p.base + p.s * b = now → 0 < p.s → b < p.beatN →
        (p.flow = 0 → p.sel = 0 → p.cnd = false → ∃ t e, exec (.streamUnitCheck p.id) s = .next t ∧
          t.core.eng.kiln.passes = { p with edges := p.edges ++ [e] } :: post ∧ e.b = b ∧ e.null = false ∧
          e.rows = ((List.range p.side).map fun i => [p.enter (fmtAT p.fmt) (s.core.streamNum p 0 (b * p.unitBytes 0 + i * (p.wA * p.nl)) (p.wA * p.nl))]) ∧
          e.cols = ((List.range p.side).map fun j => [p.enter (fmtBT p.fmt) (s.core.streamNum p 1 (b * p.unitBytes 1 + j * (p.wB * p.nl)) (p.wB * p.nl))])) ∧
        (p.cnd = true → ∃ t q, exec (.briquetteRead p.id) s = .next t ∧ t.core.eng.kiln.passes = q :: post ∧ q.id = p.id ∧
          q.edges.length = p.edges.length + 1 ∧ (q.edges.getLast?.map (·.b)) = some b ∧ (p.ended = true → q.ended = true))) ∧
      (p.flow = 1 → p.pre = false → ∃ t, exec (.wsPartialWrite p.id) s = .next t ∧
        t.core.engWrites = s.core.engWrites ++ ((p.outs.filter fun o => o.1 == now).map fun o => (o.2.1, o.2.2.1, o.2.2.2)) ∧
        ∀ j b, j < 64 → p.accum = true → fmtACC p.fmt = 0 → now = p.base + 2 + p.lineSkew true j + p.s * b → 0 < p.s → b < p.beatN →
          (t.core.eng.kiln.cell 0 j).ni = BitVec.ofNat 64 (rdLE s.core.acc (p.wordOff b j) 4)) ∧
      (p.flow = 2 → ∃ t more, exec (.wfOutputWrite p.id) s = .next t ∧
        t.core.engWrites = s.core.engWrites ++ ((p.outs.filter fun o => o.1 == now).map fun o => (o.2.1, o.2.2.1, o.2.2.2)) ++ more ∧
        (p.dirs = false → more = [])) ∧
      (∀ h x, p.flow = 3 → p.trim = 2 ∨ p.trim = 3 → p.triAt h = now → (∀ q < p.triCount, p.triAt q = now → q = h) → h < p.triCount →
        p.role 7 = some x → ∃ (t : State) (words : List Nat), exec (.triSolutionWrite p.id) s = .next t ∧ words.length = 64 ∧
          (p.std = true → p.triZeroed h = false → ∀ i < min p.n 64,
            (t.core.eng.kiln.cell i i).t = .bits (BitVec.ofNat 64 (words.getD i 0)) ∧ words.getD i 0 = ((triSolve p.triCtx p.n (p.trim == 3)
            (fun i j => ((k.cell i j).settle now).c1.toNat % 2 ^ 32) (fun i => ((k.cell i i).settle now).c0.toNat % 2 ^ 32)
            ((p.rowsIn.getD h []).take p.n)).1).getD i 0) ∧
          t.core.engWrites = s.core.engWrites ++ (List.range 4).map fun u => (false, s.core.streamOff p x (256 * h + 64 * u),
            ((words.drop (16 * u)).take 16).flatMap fun w => leBytes w 4)) ∧
      (∀ h, p.flow = 3 → p.trim = 0 → p.triAt h = now → (∀ q < p.triCount, p.triAt q = now → q = h) → h < p.triCount → p.n ≤ 64 →
        p.std = true → p.triZeroed h = false → ∃ t, exec (.triSolutionWrite p.id) s = .next t ∧ t.core.engWrites = s.core.engWrites ∧
          ∀ i < p.n, ∀ j ≤ i, (t.core.eng.kiln.cell i j).c1 = BitVec.ofNat 64 (mat (factor p.triCtx p.n
            (((p.rowsIn.drop (h * p.triBeats)).take p.n).zipIdx.map fun r => r.1.take (r.2 + 1))).1 i j)) ∧
      (∀ i j b e, p.flow = 0 → p.sel = 0 → p.cnd = false → p.quad = none → p.skews = none → p.code = 1 → p.nl = 1 → p.fresh = false →
        fmtACC p.fmt = 8 → fmtBSC p.fmt = false → i < 64 → j < 64 → now = p.base + 3 + i + j + p.s * b → 0 < p.s → b < p.beatN →
        p.edges.find? (fun x => x.b == b) = some e → e.nanR = [] → e.nanC = [] → e.null = false → b < p.ext →
        let c := k.cell i j
        let wi := if j = 0 then (e.rows.getD i []).headD 0 else c.wi.toNat
        let ni := if i = 0 then (e.cols.getD j []).headD 0 else c.ni.toNat
        let acc := (match c.due with | some d => d.2 | none => c.c1).toNat
        ∃ t v, exec (.beatArrival p.id (BitVec.ofNat 6 i) (BitVec.ofNat 6 j)) s = .next t ∧
          (t.core.eng.kiln.cell i j).due = some (now + p.s - 1, v) ∧
          signed 16 v.toNat = min (signed 16 acc) (satAdd16 (signed 16 wi) (signed 16 ni)) ∧
          (j < 63 → (t.core.eng.kiln.cell i (j + 1)).wi = BitVec.ofNat 64 wi) ∧
          (i < 63 → (t.core.eng.kiln.cell (i + 1) j).ni = BitVec.ofNat 64 ni)))

/-! ## Copies, sparse streams and the Ember field in their cycles (R85, R143 to R154, R292 to R304) -/

/-- The other engines' steps: a channel asks for its next unit, or reads the source row that a transposition out of a local store gives that
cycle, and writes units in order, moving its pointer; sparse streams read, form
their keys and count them; a binding switches; Ember commands take effect at START, domains step as R143 says, and esave and erest move
their rows. -/
def Obligations.EngineSteps : Prop :=
  (∀ (as bs : List Nat), as.Pairwise (· < ·) → bs.Pairwise (· < ·) →
    pairKeys false (as.length + bs.length + 1) as bs = as.filter (fun x => bs.contains x) ∧
    pairKeys true (as.length + bs.length + 1) as bs = as.filter (fun x => !bs.contains x)) ∧
  (∀ (s : State) (ch : BitVec 1) (c : Copy), (∀ d ∈ s.core.eng.delivered, d.1 ≠ 10) →
    (s.core.requesting ch.toNat = some c →
      let asked := fun (t : State) => ∃ due, exec (.copyUnitRequest ch) s = .next t ∧ s.wall < due ∧ t.core.gid = s.core.gid + 1 ∧
        t.core.eng.copies = (s.core.eng.copies.map fun x => if x.id = c.id then { x with
          issued := c.issued + 1, units := x.units ++ [⟨c.issued, [], (c.srcPieces c.issued).length, due, s.core.gid, false⟩] } else x)
      (c.turnsLocal = false → (∀ p ∈ c.srcPieces c.issued, ∃ off, regionOf p.1 = .sp off) → ∃ t, asked t ∧
        t.core.eng.delivered.map (fun d => (d.1, d.2.1)) = s.core.eng.delivered.map (fun d => (d.1, d.2.1)) ++
          (c.srcPieces c.issued).map fun _ => (10, c.id)) ∧
      (let n := 64 / c.esz
       let row := 64 * (c.issued / (64 * c.esz) / (c.rlu / c.esz)) + c.issued % 64
       let col := 64 * (c.issued / (64 * c.esz) % (c.rlu / c.esz)) * c.esz + 64 * (c.issued % (64 * c.esz) / 64)
       c.turnsLocal = true → ∀ off, regionOf (strideAt c.src c.sstride row + col) = .sp off → ∃ t, asked t ∧
        t.core.eng.delivered = s.core.eng.delivered ++ (List.range n).map fun e =>
          (10, c.id, 64 * (64 * c.esz * (c.issued / (64 * c.esz)) + c.esz * (c.issued % (64 * c.esz) / 64 * n + e) + c.issued % 64 / n) + c.issued % 64 % n,
            rdBytes s.core.sp (off + c.esz * e) c.esz))) ∧
    (∀ x rest off, s.core.eng.copies.find? (fun k => k.ch == ch.toNat && (k.written < k.count || !k.raised)) = some c →
      c.written < c.count → c.units = x :: rest → x.sent = false → x.parts.length = x.need → x.due ≤ s.wall →
      regionOf (s.core.copyDst c x.u) = .sp off → s.core.slotFree c x.u = true → s.core.bankFree 0 off = true → s.outranked c false off = false →
      ∃ t, exec (.copyUnitWritten ch) s = .next t ∧ t.core.engWrites = s.core.engWrites ++ [(false, off, x.bytes)] ∧
        (c.ch < 2 → vget 0 t.core.eng.cwp c.ch = vget 0 s.core.eng.cwp c.ch + 1)) ∧
    exec (.followOnIssue ch) s = .next (s.onEng fun e =>
      { e with copies := e.copies.map fun c => if c.ch = ch.toNat ∧ c.follow = some s.core.tcc then { c with follow := none } else c })) ∧
  (∀ (s : State) (c : SpsCmd), s.core.eng.sps = [c] → (∀ d ∈ s.core.eng.delivered, d.1 ≠ 11) →
    (c.formed = true → c.counted = false → c.due ≤ s.core.tcc → ∃ t, exec .spsDue s = .next t ∧ t.core.eng.sps = [] ∧
      t.core.eng.spsCount = BitVec.ofNat 64 c.count ∧ t.core.eng.spsTotal = s.core.eng.spsTotal + BitVec.ofNat 64 c.count ∧
      ∀ p ∈ t.core.eng.pins, p.1 ≠ c.id) ∧
    (∀ p off, c.start < s.core.tcc → c.localPieces[s.core.tcc - c.start - 1]? = some p → p.2.1 = spBase + off →
      exec .spsCommandStart s = .next ((s.onCore fun k => k.bookEng 11 4 c.id 0 false [off]).toEngine 11 c.id p.1 (rdBytes s.core.sp off p.2.2)))) ∧
  (∀ (s : State) (b : BindSwitch), Only (·.id) s.core.eng.binds b → (s.core.eng.binds.map (·.id)).Nodup → b.start ≤ s.core.tcc →
    ∃ t, exec (.windowBindingSwitch b.id) s = .next t ∧
      t.core.eng.binds = s.core.eng.binds.filter fun x =>
        !(x.w == b.w && (decide (x.start < b.start) || (x.start == b.start && decide (x.id < b.id)))) && !(x.id == b.id && b.bind.isNone)) ∧
  (∀ (s : State) (c : ECmd), s.core.eng.ember.cmds = [c] → c.start ≤ s.core.tcc → c.begun = false →
    let e := s.core.eng.ember
    ∃ t, exec .emberCommandStart s = .next t ∧
      let f := t.core.eng.ember
      (∀ d mode div, c.act = .clk d mode div → d < 4 → vget ⟨.stopped, 0⟩ f.doms d =
        ⟨if mode = 1 then .periodic (if div = 0 then 65536 else div) s.core.tcc else if mode = 2 then .counted 0 else .stopped, 0⟩) ∧
      (∀ es, c.act = .patch es → (es.map (·.1)).Nodup → ∀ x ∈ es, sget 0 f.patch x.1 = x.2) ∧
      (∀ d n o, c.act = .step d n → d < 4 → (vget ⟨.stopped, 0⟩ e.doms d).mode = .counted o →
        (vget ⟨.stopped, 0⟩ f.doms d).mode = .counted (o + n)) ∧
      (∀ g lanes, c.act = .inc g lanes → lanes.length = 64 → ∀ l < 64, sget ELine.zero f.lines (64 * g + l) =
        ⟨signOf (lanes.getD l 0 % 4), decide (bits (lanes.getD l 0) 2 2 = 1), s.core.tcc⟩) ∧
      (∀ g off mask, c.act = .load g off mask → ∀ l < 64, (sget ECell.zero f.cells (64 * g + l)).y =
        (if mask.getLsbD l then signed 32 (rdLE s.core.sp (off + 4 * l) 4) else (sget ECell.zero e.cells (64 * g + l)).y)) ∧
      (∀ g cnt p, c.act = .read g cnt → s.core.pend = [p] → p.act = .embVector c.id none →
        let cell := fun (l : Nat) => sget ECell.zero e.cells (64 * g + l)
        let v : VReg := vgen fun l => if cnt then (cell l).cnt else BitVec.ofInt 32 (cell l).y
        t.core.pend = [{ p with act := .embVector c.id (some v) }]) ∧
      (∀ m off, c.act = .save m off ∨ c.act = .rest m off → ∃ x, f.cmds = [x] ∧ x.begun = true ∧ x.snap.map (·.1) =
        (List.range 256).filter fun k => bits m (bits (sget 0 e.patch k).toNat 58 57) (bits (sget 0 e.patch k).toNat 58 57) = 1) ∧
      (∀ m off, c.act = .save m off → ∀ x ∈ f.cmds, ∀ y ∈ x.snap,
        y.2 = ((BitVec.ofInt 32 (sget ECell.zero e.cells y.1).y).toNat, (BitVec.ofInt 32 (sget ECell.zero e.cells y.1).r).toNat))) ∧
  (∀ (s : State) (d : BitVec 2),
    let e := s.core.eng.ember.markStep s.core.tcc
    let now := s.core.tcc
    let entry := fun (c : Nat) => (sget 0 e.patch c).toNat
    let mine := fun (c : Nat) => bits (entry c) 58 57 = d.toNat
    let dom := vget ⟨.stopped, 0⟩ e.doms d.toNat
    (¬ stepsAt dom.mode now → exec (.domainStep d) s = .next s) ∧
    (stepsAt dom.mode now → (∀ c < 256, mine c → ¬ overruns e now (entry c) (sget ECell.zero e.cells c)) →
      ∃ t, exec (.domainStep d) s = .next t ∧ t.core.eng.ember.flt = s.core.eng.ember.flt ∧
        (∀ c < 256, mine c → sget ECell.zero t.core.eng.ember.cells c = nextCell e now (entry c) (sget ECell.zero e.cells c)) ∧
        (∀ c < 256, ¬ mine c → sget ECell.zero t.core.eng.ember.cells c = sget ECell.zero e.cells c) ∧
        (vget ⟨.stopped, 0⟩ t.core.eng.ember.doms d.toNat).steps = dom.steps + 1) ∧
    (stepsAt dom.mode now → (∃ c < 256, mine c ∧ overruns e now (entry c) (sget ECell.zero e.cells c)) →
      ∃ t, exec (.domainStep d) s = .next t ∧ t.core.eng.ember.cells = s.core.eng.ember.cells ∧
        vget ⟨.stopped, 0⟩ t.core.eng.ember.doms d.toNat = ⟨.stopped, dom.steps⟩ ∧ t.core.eng.ember.flt.getLsbD 63 = true)) ∧
  (∀ (s : State) (c : ECmd) (m off : Nat), s.core.eng.ember.cmds = [c] → c.begun = true →
    (∀ r < 32, c.act = .save m off → s.core.tcc = c.start + 1 + r → ∃ t, exec (.esaveRow c.id) s = .next t ∧
      t.core.engWrites = s.core.engWrites ++ (c.snap.filter fun x => x.1 / 8 == r).map fun x =>
        (false, off + 8 * x.1, leBytes x.2.1 4 ++ leBytes x.2.2 4)) ∧
    (∀ r < 32, c.act = .rest m off → s.core.tcc = c.start + r → ∃ t, exec (.erestApply c.id) s = .next t ∧
      t.core.eng.ember.cells = s.core.eng.ember.cells ∧
      t.core.eng.ember.cmds = [{ c with rows := c.rows ++ [(r, rdBytes s.core.sp (off + 64 * r) 64)] }]) ∧
    (c.act = .rest m off → s.core.tcc = c.start + 32 → ∃ t, exec (.erestApply c.id) s = .next t ∧ t.core.eng.ember.cmds = [] ∧
      ∀ x ∈ c.snap, (sget ECell.zero t.core.eng.ember.cells x.1).cnt = 0 ∧ (sget ECell.zero t.core.eng.ember.cells x.1).z = 0))

/-! ## The fabric and the Flue island (R308 to R320, R430 to R445) -/

/-- A command reads its source and reaches the island, which sends it or ends it; the target serves a request by the state of what it
names and raises the flag after its data; replies, arrivals and completions are noted; the group forms, and the island follows its links,
its members' endpoints and its own reset. -/
def Obligations.FabricSteps : Prop :=
  (∀ (s : State) (c : FabCmd), s.core.eng.fab.cmds = [c] → c.start ≤ s.core.tcc → s.core.eng.delivered = [] →
    let f := s.mod.flue
    let total := fun (m : Nat) => c.count + sget 0 f.lostRel (4096 * s.focus + m)
    let left := fun (code : Option Nat) (t : State) => t.core.eng.fab.cmds = [] ∧
      ∃ o, t.mod.flue.ops = f.ops ++ [o] ∧
        o.cmd = (match c.op with | .store true _ m _ _ => if f.away || f.ord then c else { c with count := total m } | _ => c) ∧ o.core = s.focus ∧ o.launch = s.core.task.launchId ∧ o.code = code
    (∀ off, c.asked < c.units → regionOf (c.b.toNat + 64 * c.asked) = .sp off → exec (.fabSend c.id) s = .next
      ((s.onEng fun e => { e with fab := { e.fab with cmds := [{ c with asked := c.asked + 1 }] } }).onCore
        fun k => { k with opp := k.opp ++ [⟨4, 2 * c.id + 1, false, off, 64, [], .engine 13 c.id c.asked⟩] })) ∧
    (c.units ≤ c.asked → c.src.length = c.units → s.core.fences = [] → s.readBehind c = false → (c.release = true → s.groupCovered c.gid = true) →
      (¬ InService f → ∃ t, exec (.fabSend c.id) s = .next t ∧ left (some 4) t) ∧
      (∀ rel rlx m len flag, c.op = .store rel rlx m len flag → InService f →
        (f.inGroup m = false ∨ (f.entry m).unreach = true → ∃ t, exec (.fabSend c.id) s = .next t ∧ left (some 5) t ∧
          ((∀ x ∈ f.ops, x.cmd.id < c.id) → t.mod.flue.outbox = f.outbox)) ∧
        (f.inGroup m = true → (f.entry m).unreach = false → (f.entry m).down = true →
          ∃ t, exec (.fabSend c.id) s = .next t ∧ left (some 1) t ∧ ((∀ x ∈ f.ops, x.cmd.id < c.id) → t.mod.flue.outbox = f.outbox)) ∧
        (Sendable f m → ∃ t r, exec (.fabSend c.id) s = .next t ∧ left none t ∧ t.mod.flue.outbox = f.outbox ++ [.request m r] ∧
          r.addr.toNat = c.a % 2 ^ 57 ∧ r.srcInc = f.inc ∧ r.tgtInc = (f.entry m).inc ∧ r.op = .store c.data (BitVec.ofNat 57 flag)
            (if f.ord then (if rel = true ∨ rlx = false then .order else .own false) else if rel then .count (total m) else .own true) ∧
          t.core.writeLog = [] ∧ t.tags = publishTags s.tags s.focus s.core.writeLog)))) ∧
  (∀ (s : State) (o : FOp), Only (·.tag) s.mod.flue.ops o → o.core = s.focus → s.core.mode = .run → s.core.task.launchId = o.launch →
    s.core.eng.fab.stats = [] →
    (∀ code, o.code = some code → (∀ g ∈ s.core.gacc, g.id ∉ o.writes) → ∃ t, exec (.fabComplete o.tag) s = .next t ∧
      t.mod.flue.ops = (s.mod.flue.ops.filter fun x => x.tag != o.tag) ∧
      t.core.opp = s.core.opp ++ [⟨3, opGrp o.tag, false, o.cmd.cw, 8, [], .complete o.cmd.cw code⟩]) ∧
    (∀ m aop cmp res x, o.code = none → o.cmd.op = .atomic m aop cmp (some res) → o.owed = [] → o.replies = [x] → x.2.1 = 0 →
      ∃ t, exec (.fabComplete o.tag) s = .next t ∧ t.core.opp = s.core.opp ++ rowsFor 3 (opGrp o.tag) res x.2.2 ∧
        { o with code := some 0, writes := [] } ∈ t.mod.flue.ops ∧ Instr.fabComplete o.tag ∈ t.due) ∧
    (∀ g st gr, o.code = none → o.cmd.op = .barrier g st → o.group = some gr →
      (∀ a ∈ s.mod.flue.arrivals, a.1 = gr.key → ∃ x ∈ gr.members, x.1 = a.2.2) → (∀ x ∈ gr.members, (gr.key, o.cmd.count, x.1) ∈ s.mod.flue.arrivals) →
      ∃ t, exec (.fabComplete o.tag) s = .next t ∧ { o with code := some 0, writes := [] } ∈ t.mod.flue.ops)) ∧
  (∀ (s : State) (x : Nat × Nat × Nat × Nat), s.core.eng.fab.stats = [x] → x.2.2.2 ≤ s.wall → ¬ InService s.mod.flue →
    ∃ t, exec (.fabComplete x.2.2.1) s = .next t ∧ t.core.eng.fab.stats = [] ∧ t.core.pend = (s.core.deliver x.1 0).pend) ∧
  (∀ (s : State) (r : OppReq) (cw code : Nat), s.core.opp = [r] → r.after = .complete cw code → s.core.engWrites = [] → s.core.oppUsed = [] →
    (∀ b ∈ s.core.banks, b.tcc = s.core.tcc → b.store = (if r.acc then 1 else 0) → b.bank ≠ (bankOf (if r.acc then 1 else 0) r.off).1) →
    let w := rdLE s.core.sp cw 8
    ∃ t v, exec .opportunisticWrite s = .next t ∧ t.core.opp = [] ∧ t.core.engWrites = [(r.acc, r.off, leBytes v 8)] ∧
      (code = 0 → v = w / 2 ^ 48 * 2 ^ 48 + (bits w 47 0 + 1) % 2 ^ 48) ∧ (code ≠ 0 → bits w 63 63 = 1 → v = w) ∧
      (code ≠ 0 → bits w 63 63 = 0 → bits v 63 63 = 1 ∧ bits v 62 48 = code % 2 ^ 15 ∧ bits v 47 0 = bits w 47 0)) ∧
  (∀ (s : State) (r : RemoteReq), (¬ InService s.mod.flue → exec (.inboundRemoteRequest r) s = .next s) ∧
    (InService s.mod.flue → r.srcMod.toNat ≠ s.mod.flue.self → Way s.mod.flue r.srcMod.toNat → (∀ n, r.op ≠ .dropped n) →
      let answered := fun (code : Nat) (data : List Byte) => ∃ t, exec (.inboundRemoteRequest r) s = .next t ∧ Replied s t r code data ∧ t.mem = s.mem
      (r.tgtInc ≠ s.mod.flue.inc → answered 2 []) ∧
      (r.tgtInc = s.mod.flue.inc → s.mod.flue.up = false → answered 1 []) ∧
      (r.tgtInc = s.mod.flue.inc → s.mod.flue.up = true → s.mod.flue.waiting = [] →
        (sget 0 s.mod.flue.asidMap r.srcAsid.toNat).getLsbD 63 = false ∨ bits (s.asidWord (lasidOf s r) 0) 63 63 = 0 → answered 6 []) ∧
      (Served s r →
        (∀ i off len, r.op = .read len → LiveAt s r i off len → answered 0 (rdBytes (s.coreAt i).sp off len)) ∧
        (∀ i off len, r.op = .read len → regionOf r.addr.toNat = .peer i off → (s.coreAt i).mode = .run → (s.coreAt i).task.asid ≠ lasidOf s r →
          s.mod.images = [] → answered 7 []) ∧
        (∀ i off aop d c, r.op = .atomic aop d c → LiveAt s r i off (atomWidth aop.toNat) →
          let a := fabAmo aop.toNat d c
          ∃ t, exec (.inboundRemoteRequest r) s = .next t ∧
            (t.coreAt i).opp = (s.coreAt i).opp ++ [⟨1, wordGrp s.nReq, false, off, a.width, [], .atomic off a s.nReq⟩] ∧
            t.mod.flue.flags = s.mod.flue.flags ++ [⟨s.nReq, r, some (i, (s.coreAt i).task.launchId), true⟩] ∧ t.mod.flue.outbox = s.mod.flue.outbox) ∧
        (∀ i off data flag rule, r.op = .store data flag rule → LiveAt s r i off data.length → (s.coreAt i).indexHit off data.length = false →
          ∃ t, exec (.inboundRemoteRequest r) s = .next t ∧ (t.coreAt i).opp = (s.coreAt i).opp ++ rowsFor 1 (reqGrp s.nReq) off data ∧
            t.mod.flue.flags = s.mod.flue.flags ++ [⟨s.nReq, r, some (i, (s.coreAt i).task.launchId), false⟩] ∧ t.mod.flue.outbox = s.mod.flue.outbox)))) ∧
  (∀ (s : State) (h : HeldFlag), Only (·.id) s.mod.flue.flags h → h.req.srcMod.toNat ≠ s.mod.flue.self →
    let mine := fun (x : HeldFlag) => reqSource x.req = reqSource h.req
    let done := fun (x : HeldFlag) => (∀ w ∈ s.mod.flue.held, w.grp ≠ reqGrp x.id) ∧ ∀ i l, x.core = some (i, l) → ∀ o ∈ (s.coreOf i l).opp, o.grp ≠ reqGrp x.id
    (∀ n, h.count = some n → Older h.req.srcInc (s.mod.flue.entry h.req.srcMod.toNat).inc → Way s.mod.flue h.req.srcMod.toNat →
      ∃ t, exec (.remoteFlagRaise h.id) s = .next t ∧ Replied s t h.req 2 [] ∧ t.mod.flue.flags = s.mod.flue.flags.filter fun x => x.id != h.id) ∧
    (h.rising = true → (h.count ≠ none → ¬ Older h.req.srcInc (s.mod.flue.entry h.req.srcMod.toNat).inc) → ∀ i l, h.core = some (i, l) →
      ((∃ o ∈ (s.coreOf i l).opp, o.grp = wordGrp h.id) → exec (.remoteFlagRaise h.id) s = .next s) ∧
      (Way s.mod.flue h.req.srcMod.toNat → (∀ o ∈ (s.coreOf i l).opp, o.grp ≠ wordGrp h.id) →
        (∀ data flag rule, h.req.op = .store data flag rule → ∃ t, exec (.remoteFlagRaise h.id) s = .next t ∧ Replied s t h.req 0 [] ∧
          t.mod.flue.flags = s.mod.flue.flags.filter fun x => x.id != h.id) ∧
        (∀ aop d c e, h.req.op = .atomic aop d c → (s.coreOf i l).eng.delivered.find? (fun e => e.1 == 15 && e.2.1 == h.id) = some e →
          ∃ t, exec (.remoteFlagRaise h.id) s = .next t ∧ Replied s t h.req 0 e.2.2.2 ∧
            t.mod.flue.flags = s.mod.flue.flags.filter fun x => x.id != h.id))) ∧
    (∀ data flag rule i off c, h.rising = false → h.req.op = .store data flag rule →
      (h.count ≠ none → ¬ Older h.req.srcInc (s.mod.flue.entry h.req.srcMod.toNat).inc) →
      s.target (lasidOf s h.req) flag.toNat 8 true true = .core i off .live c →
      (¬ done h → exec (.remoteFlagRaise h.id) s = .next s) ∧
      (∀ n, rule = .count n → sget 0 s.mod.flue.counts (reqSource h.req) < n → exec (.remoteFlagRaise h.id) s = .next s) ∧
      (rule = .order → (∃ x ∈ s.mod.flue.flags, mine x ∧ x.id < h.id ∧ ¬ done x) → exec (.remoteFlagRaise h.id) s = .next s) ∧
      (done h → (∀ n, rule = .count n → n ≤ sget 0 s.mod.flue.counts (reqSource h.req)) →
        ((∃ b, rule = .own b) ∨ (rule = .order ∧ ∀ x ∈ s.mod.flue.flags, mine x → x.id < h.id → done x) ∨ ∀ x ∈ s.mod.flue.flags, mine x → done x) →
        ∃ t, exec (.remoteFlagRaise h.id) s = .next t ∧ t.mod.flue.outbox = s.mod.flue.outbox ∧
          t.mod.flue.flags = (s.mod.flue.flags.filter fun x => x.id != h.id) ++ [{ h with core := some (i, c.task.launchId), rising := true }] ∧
          (t.coreAt i).opp = (s.coreAt i).opp ++ [⟨1, wordGrp h.id, false, off, 8, [], .raise off⟩]))) ∧
  (∀ (s : State) (r : RemoteRes), InService s.mod.flue →
    (r.tgtInc ≠ s.mod.flue.inc ∨ s.mod.hub.pending = true → ∃ t, exec (.remoteReply r) s = .next t ∧ risesBy1 s.mod.flue t.mod.flue 4 ∧ t.mod.flue.ops = s.mod.flue.ops) ∧
    (r.tgtInc = s.mod.flue.inc → s.mod.hub.pending = false →
      let heard := s.mod.flue.ops.map fun o =>
        if o.tag = r.tag ∧ r.srcMod.toNat ∈ o.owed then
          { o with owed := o.owed.erase r.srcMod.toNat, replies := o.replies ++ [(r.srcMod.toNat, r.code, r.data)] } else o
      (∃ t, exec (.remoteReply r) s = .next t ∧ t.mod.flue.ops = heard) ∧
      (r.code ≠ 5 → ∃ cs, exec (.remoteReply r) s = .next (s.onFlue fun f => { f with ops := heard, counters := cs }) ∧
        (r.srcMod.toNat = s.mod.flue.self → cs = s.mod.flue.counters)))) ∧
  (∀ (s : State) (key : W32) (seq : Nat) (m : BitVec 12), InService s.mod.flue → ∃ cs, exec (.fbarArrival key seq m) s =
    .next (s.onFlue fun f => { f with arrivals := f.arrivals ++ [(key.toNat, seq, m.toNat)], counters := cs }) ∧
      (m.toNat = s.mod.flue.self → cs = s.mod.flue.counters)) ∧
  (∀ (s : State) (i : BitVec 10), ((s.coreAt i.toNat).mode = .stopping ∨ (s.coreAt i.toNat).mode = .restoring → exec (.heldWritesApply i) s = .next s) ∧
    (∀ h, s.mod.flue.held = [h] → h.core = i.toNat → (s.coreAt i.toNat).mode = .run → (s.coreAt i.toNat).task.launchId = h.launch →
      s.mod.flue.waiting = [] → ∃ t, exec (.heldWritesApply i) s = .next t ∧ t.mod.flue.held = [] ∧ t.mod.flue.waiting = [] ∧
        (t.coreAt i.toNat).opp = (s.coreAt i.toNat).opp ++ rowsFor 1 h.grp h.off h.data) ∧
    (∀ r, s.mod.flue.held = [] → s.mod.flue.waiting = [r] → InService s.mod.flue → r.srcMod.toNat = s.mod.flue.self →
      r.tgtInc = s.mod.flue.inc → s.mod.flue.up = true → (s.coreAt i.toNat).mode = .run →
      exec (.heldWritesApply i) s = exec (.inboundRemoteRequest r) (s.onFlue fun f => { f with waiting := [] }))) ∧
  (∀ (f : Flue) (src cur dest : Nat) (long : BitVec 3),
    let e := f.ext 0
    let d := (dest % 16 + e - src % 16) % e
    d ≠ 0 → (dest % 16 + e - cur % 16) % e ≠ 0 → (long.getLsbD 0 = false → f.hop src cur dest long =
        some (if d ≤ e - d then (0, cur - cur % 16 + (cur % 16 + 1) % e) else (1, cur - cur % 16 + (cur % 16 + e - 1) % e))) ∧
      (long.getLsbD 0 = true → f.hop src cur dest long =
        some (if d ≤ e - d then (1, cur - cur % 16 + (cur % 16 + e - 1) % e) else (0, cur - cur % 16 + (cur % 16 + 1) % e)))) ∧
  (∀ (s : State) (m : BitVec 12) (p : Packet), let f := s.mod.flue
    f.state = 3 →
    let hop := f.hop ((packetSource p).getD f.self) f.self m.toNat (f.entry m.toNat).long
    (∀ n next, hop = some (n, next) → ∃ t, exec (.transitForward m p) s = .next t ∧ t.mod.flue.ops = f.ops ∧
      (f.linkUp n = true → t.mod.flue.outbox = f.outbox ++ [p]) ∧
      (f.linkUp n = false →
        (∀ a r, p = .request a r → Way f r.srcMod.toNat → t.mod.flue.outbox = f.outbox ++
          [.reply r.srcMod.toNat { tag := r.tag, srcMod := m, tgtInc := r.srcInc, code := 5, data := [] }]) ∧
        ((∀ a r, p ≠ .request a r) → t.mod.flue.outbox = f.outbox))) ∧
    (hop = none → ∃ t, exec (.transitForward m p) s = .next t ∧ t.mod = s.mod ∧
      (∀ a r, p = .request a r → t.due = s.due ++ [.inboundRemoteRequest r]) ∧ (∀ a r, p = .reply a r → t.due = s.due ++ [.remoteReply r]) ∧
      (∀ a b key seq, p = .arrival a b key seq → t.due = s.due ++ [.fbarArrival (BitVec.ofNat 32 key) seq (BitVec.ofNat 12 a)]) ∧
      (∀ a b join inc, p = .announce a b join inc → t.due = s.due ++ [.announcementReceived (BitVec.ofNat 12 a) join (BitVec.ofNat 8 inc)]))) ∧
  (∀ (s : State), let f := s.mod.flue
    (f.state ≠ 1 → exec .flueGo s = .next (s.onFlue fun f => { f with err := 0 })) ∧
    (f.state = 1 → f.resetting = false → f.ord = false → 64 < f.ext 0 * f.ext 1 * f.ext 2 → exec .flueGo s = .next (s.onFlue fun f => { f with err := 1 })) ∧
    (f.state = 1 → f.ord = true ∨ f.ext 0 * f.ext 1 * f.ext 2 ≤ 64 → ∃ t, exec .flueGo s = .next t ∧ t.mod.flue.state = 2 ∧ t.mod.flue.err = 0 ∧
      t.mod.flue.inc = f.inc ∧ (∀ n < 6, vget .down t.mod.flue.links n = { Link.down with
        retry := (vget .down f.links n).retry, seq := (vget .down f.links n).seq }) ∧
      ((∀ d < 3, f.ext d = 1) → Instr.groupFormed ∈ t.due)) ∧
    (f.state = 2 → (∀ n < 6, 1 < f.ext (n / 2) → f.linkState n ∈ [2, 3, 4]) → ∃ t, exec .groupFormed s = .next t ∧ t.mod.flue.state = 3 ∧
      t.mod.flue.inc = (if f.resetting = true ∧ f.up = true then nextInc f.inc else f.inc) ∧
      Announced f t.mod.flue f.up t.mod.flue.inc.toNat)) ∧
  (∀ (s : State) (l : BitVec 3) (p : BitVec 1) (ok : Bool) (peer : W64) (key : W32) (ord : Bool), let f := s.mod.flue
    2 ≤ f.state → l.toNat < 6 → 1 < f.ext (l.toNat / 2) → (planeAt f l.toNat p.toNat).up = false → (planeAt f l.toNat p.toNat).dead = false →
    ∃ t, exec (.linkTrained l p ok peer key ord) s = .next t ∧ Instr.routeRecompute f.far ∈ t.due ∧
      let g := t.mod.flue
      let q := planeAt g l.toNat p.toNat
      let first := fun (e : Nat) => g.err = if f.err = 0 then e else f.err
      (vget .down g.links l.toNat).trains.toNat = min ((vget .down f.links l.toNat).trains.toNat + 1) 255 ∧
      (ok = true → InPlace f l.toNat peer → key = f.key → ord = f.ord → q = ⟨true, 0, false⟩ ∧ g.err = f.err) ∧
      (ok = true → InPlace f l.toNat peer → key ≠ f.key ∨ ord ≠ f.ord → q.up = false ∧ q.dead = true ∧ first 3) ∧
      (ok = true → ¬ InPlace f l.toNat peer → q.up = false ∧ q.dead = true ∧ first 2) ∧
      (ok = false → q.up = false ∧ q.fails = (planeAt f l.toNat p.toNat).fails + 1 ∧ (8 ≤ q.fails → q.dead = true ∧ first 4) ∧
        (q.fails < 8 → q.dead = false ∧ g.err = f.err))) ∧
  (∀ (s : State) (l : BitVec 3) (p : BitVec 1), let f := s.mod.flue
    (2 ≤ f.state → l.toNat < 6 → ∃ t, exec (.planeLoss l p) s = .next t ∧ Instr.routeRecompute f.far ∈ t.due ∧
      planeAt t.mod.flue l.toNat p.toNat = ⟨false, 0, (planeAt f l.toNat p.toNat).dead⟩) ∧
    (l.toNat < 6 → ∃ t, exec (.flitReplay l p) s = .next t ∧ risesBy1 f t.mod.flue 2 ∧
      (vget .down t.mod.flue.links l.toNat).retry.toNat = min ((vget .down f.links l.toNat).retry.toNat + 1) (2 ^ 32 - 1))) ∧
  (∀ (s : State) (far : List (Nat × Nat)), let f := { s.mod.flue with far := far }
    ∃ t, exec (.routeRecompute far) s = .next t ∧ ∀ m, f.inGroup m = true → m ≠ f.self →
      (f.reaches m = true → sget .never t.mod.flue.endpts m = { sget .never f.endpts m with unreach := false }) ∧
      (f.reaches m = false → sget .never t.mod.flue.endpts m = { sget .never f.endpts m with unreach := true, inc := 0 })) ∧
  (∀ (s : State) (ts : W64) (m : Nat), s.mod.flue.state = 3 → m < s.mod.flue.self → s.mod.flue.inGroup m = true → s.mod.flue.reaches m = true →
    ∃ t, exec (.timestampFlit ts) s = .next t ∧ (s.ts.toNat ≤ ts.toNat → t.ts = ts) ∧ (ts.toNat < s.ts.toNat → t.ts = s.ts)) ∧
  (∀ (s : State), let f := s.mod.flue
    (f.up = false → ∃ t, exec .endpointUp s = .next t ∧ t.mod.flue.up = true ∧ t.mod.flue.inc.toNat = f.inc.toNat % 255 + 1 ∧
      (f.state = 3 → Announced f t.mod.flue true (f.inc.toNat % 255 + 1)) ∧ (f.state ≠ 3 → t.mod.flue.outbox = f.outbox)) ∧
    (f.up = true → ∃ t, exec .endpointDown s = .next t ∧ t.mod.flue.up = false ∧ t.mod.flue.inc = f.inc ∧
      (f.state = 3 → Announced f t.mod.flue false f.inc.toNat) ∧ (f.state ≠ 3 → t.mod.flue.outbox = f.outbox))) ∧
  (∀ (s : State) (m : BitVec 12) (join : Bool) (inc : BitVec 8), let f := s.mod.flue
    (InService f → f.inGroup m.toNat = true → m.toNat ≠ f.self → ∃ t, exec (.announcementReceived m join inc) s = .next t ∧
      sget .never t.mod.flue.endpts m.toNat = { sget .never f.endpts m.toNat with down := !join, inc := inc } ∧
      t.mod.flue.counts = (if join then f.counts.filter fun c => c.1 / 1024 != m.toNat else f.counts)) ∧
    (∃ t, exec (.neighbourLost m) s = .next t ∧ sget .never t.mod.flue.endpts m.toNat = { sget .never f.endpts m.toNat with down := true, inc := 0 })) ∧
  (∀ (s : State), let f := s.mod.flue
    (f.state ≠ 0 → (f.endpts.map (·.1)).Nodup → ∃ t, exec .flueReset s = .next t ∧ let g := t.mod.flue
      g.state = 0 ∧ g.err = 0 ∧ g.groups = [] ∧ g.links = Vector.replicate 6 .down ∧ (∀ o ∈ g.ops, o.code ≠ none) ∧ t.core.eng.fab.cmds = [] ∧
      g.coords = f.coords ∧ g.key = f.key ∧ g.ord = f.ord ∧ g.asidMap = f.asidMap ∧ g.up = f.up ∧ g.inc = f.inc ∧
      (∀ m, sget .never g.endpts m = { Endpt.never with long := (sget .never f.endpts m).long })) ∧
    (f.state = 0 → f.resetting = false → exec .flueReset s = .next (s.onFlue fun f => { f with state := 1 })) ∧
    (f.state = 0 → f.resetting = true → (f.ord = true ∨ f.ext 0 * f.ext 1 * f.ext 2 ≤ 64 →
        ∃ t, exec .flueReset s = .next t ∧ t.mod.flue.state = 2 ∧ t.mod.flue.inc = f.inc) ∧
      (f.ord = false → 64 < f.ext 0 * f.ext 1 * f.ext 2 → f.err = 0 → ∃ t, exec .flueReset s = .next t ∧ t.mod.flue.state = 1 ∧ t.mod.flue.err = 1)))

/-! ## Tile instructions, launches, the host and the debugger (R376 to R387, R396 to R408, R415, R424, R427, R465) -/

/-- The Splitter hands out parts, a core's sequencer begins, claims, schedules and ends its tiles, and the instruction completes; queues
take their records, which the scheduler checks, places, dispatches, saves, retires, aborts or flushes; the host writes registers and
memory; debug, trace and invalidation commands act. -/
def Obligations.LaunchSteps : Prop :=
  (∀ (s : State) (x : TileInstr), Only (·.id) s.mod.tiles x → s.tileReady x = true →
    let cores := if tileLevel x.word = 0 then [x.core] else if tileLevel x.word ≤ 2 then (tileRect x.word).elim [] Rect.cores
      else (s.coreAt x.core).task.rect.cores
    let c := s.coreAt x.core
    let s2 := ({ s with tags := publishTags s.tags x.core c.writeLog }.setCore x.core { c with writeLog := [] }).onTile x.id fun y =>
      { y with started := true }
    let view := { s2 with core := s2.coreAt x.core, focus := x.core }
    (tileLevel x.word < 4 → tileOpc x.word < 12 → tileOpc x.word ≠ 1 → tileOpc x.word ≠ 2 →
      ∃ t y, exec (.tileSplit x.id) s = .next t ∧ y ∈ t.mod.tiles ∧ y.id = x.id ∧ y.started = true ∧
        y.left = cores ∧ t.tags = publishTags s.tags x.core c.writeLog ∧
        ∀ i r, cores[r]? = some i → ∃ p, (t.coreAt i).eng.parts = (s.coreAt i).eng.parts ++ [p] ∧ p.instr = x.id ∧ p.word = x.word ∧ p.t0 = none ∧
          p.todo = (List.range (tileCount x.word)).filter fun k => k % cores.length == r) ∧
    (tileLevel x.word < 3 → tileOpc x.word = 1 ∨ tileOpc x.word = 2 →
      (∀ ts : List Nat, view.startPool x.word cores = .ok ts → ∃ t y, exec (.tileSplit x.id) s = .next t ∧ y ∈ t.mod.tiles ∧ y.id = x.id ∧ y.started = true ∧
        y.left = cores ∧ y.pool = ts.drop cores.length ∧
        ∀ i r : Nat, cores[r]? = some i → ∃ p, (t.coreAt i).eng.parts = (s.coreAt i).eng.parts ++ [p] ∧ p.instr = x.id ∧ p.word = x.word ∧ p.t0 = none ∧
          p.pool = true ∧ p.todo = (ts[r]?).toList) ∧
      (∀ code r k addr o, view.startPool x.word cores = .error ((code, (r, k), addr), o) → ∃ t y f, exec (.tileSplit x.id) s = .next t ∧ y ∈ t.mod.tiles ∧
        y.id = x.id ∧ y.started = true ∧ y.left = x.left ∧ y.faults = x.faults ++ [f] ∧ f.code = code ∧ f.row = r ∧ f.col = k ∧ f.opnd = o ∧
        f.addr = addr ∧ f.level = tileLevel x.word)) ∧
    (12 ≤ tileOpc x.word → ∃ t y, exec (.tileSplit x.id) s = .next t ∧ y ∈ t.mod.tiles ∧ y = { x with started := true }) ∧
    (∀ r rs, tileOpc x.word < 12 → s.tileAbsent x.word = r :: rs → ∃ t y, exec (.tileSplit x.id) s = .next t ∧ y ∈ t.mod.tiles ∧ y.id = x.id ∧ y.started = true ∧
      y.left = x.left ∧ y.faults.map (·.code) = x.faults.map (·.code) ++ (r :: rs).map (fun _ => 5) ∧
      y.faults.map (·.rank) = x.faults.map (·.rank) ++ (r :: rs))) ∧
  (∀ (s : State) (p : TilePart) (rest : List TilePart), s.core.eng.parts = p :: rest → p.t0 = none →
    (s.core.unitsIdle = false → exec .tilePartStart s = .next s) ∧
    (s.core.unitsIdle = true → ∃ t q, exec .tilePartStart s = .next t ∧ t.core.eng.parts = q :: rest ∧ q.t0 = some s.core.tcc ∧ q.cs = s.core.tcc + 16 ∧
      q.ks = 0 ∧ (p.pool = false → q.todo = p.todo) ∧
      (∀ x, p.pool = true → Only (·.id) s.mod.tiles x → x.id = p.instr → q.todo = if x.faults = [] then p.todo else []) ∧
      q.rings = s.core.eng.rings.toList ∧ q.quadCfg = s.core.eng.kiln.quadCfg ∧ q.shadow = s.core.eng.kiln.shadow)) ∧
  (∀ (s : State) (p : TilePart) (x : TileInstr), s.core.eng.parts = [p] → s.core.claims = true → Only (·.id) s.mod.tiles x → x.id = p.instr →
    (∀ e es, x.pool = e :: es → e < 2 ^ 40 → x.faults = [] → ∃ t y, exec .tileClaim s = .next t ∧ t.core.eng.parts = [{ p with todo := [e] }] ∧
      y ∈ t.mod.tiles ∧ y = { x with pool := es }) ∧
    (x.pool = [] ∨ x.faults ≠ [] → ∃ t, exec .tileClaim s = .next t ∧ t.core.eng.parts = [{ p with pool := false }] ∧ t.mod = s.mod)) ∧
  (∀ (s : State) (p : TilePart), PartAlone s p →
    (∀ t ts, p.t0 ≠ none → p.runs = [] → p.todo = t :: ts → s.core.tcc < p.cs → p.cs ≤ s.core.tcc + 16 → tileLevel p.word ≠ 0 →
      (∀ code r c addr o x, s.tileOpnds p.word t = .error ((code, (r, c), addr), o) → Only (·.id) s.mod.tiles x → x.id = p.instr →
        ∃ u y f, exec .sequencerCommandIssue s = .next u ∧ u.core.eng.parts = [{ p with todo := [], pool := false }] ∧ y ∈ u.mod.tiles ∧ y.id = x.id ∧
          y.faults = x.faults ++ [f] ∧ f.code = code ∧ f.row = r ∧ f.col = c ∧ f.opnd = o ∧ f.addr = addr ∧ f.ts = s.ts.toNat ∧ f.core = s.focus) ∧
      (∀ xs a b, s.tileOpnds p.word t = .ok xs → s.streamPages p.word t xs = .ok () → xs[0]? = some a → xs[1]? = some b → p.word.length ≤ 4 →
        tileOpc p.word ≤ 2 → tileDual p.word = false → tileChunks p.word = 1 →
        let ua := tileKc p.word * typeBytes (tileAt p.word)
        let ub := tileKc p.word * typeBytes (tileBt p.word)
        let la := s.tileLat p.word (s.productLines p.word t 0 a 0) + (if a.h.layout = 1 ∨ a.t = true then 0 else 64)
        let lb := s.tileLat p.word (s.productLines p.word t 1 b 0)
        let st := max p.ks (p.cs + max (la + ua) (lb + ub))
        let map := s.tileMap a p.word ((tileBox p.word t).1 / 64)
        let ks := st + beatPeriod (tileFmt p.word) (tileSr p.word) * chunkBeats p.word xs map 0
        let o := max (ks + 64 + 6) (p.cs + max ua ub)
        ∃ u run, exec .sequencerCommandIssue s = .next u ∧ run.tile = t ∧
          run.cmds = [(p.cs, .copyIn 0), (st, .pass 0), (ks + 64, .drain), (o, .copyOut), (o, .last)] ∧
          u.core.eng.parts = [{ p with todo := ts, runs := [run], ks := ks, cs := o + 64 * typeBytes (tileCt p.word) }]) ∧
      (∀ xs code r c addr o x, s.tileOpnds p.word t = .ok xs → s.streamPages p.word t xs = .error ((code, (r, c), addr), o) → Only (·.id) s.mod.tiles x →
        x.id = p.instr → ∃ u y f, exec .sequencerCommandIssue s = .next u ∧ u.core.eng.parts = [{ p with todo := [], pool := false }] ∧ y ∈ u.mod.tiles ∧
          y.id = x.id ∧ y.faults = x.faults ++ [f] ∧ f.code = code ∧ f.row = r ∧ f.col = c ∧ f.opnd = o ∧ f.addr = addr ∧ f.core = s.focus) ∧
      (∀ xs c, s.tileOpnds p.word t = .ok xs → s.streamPages p.word t xs = .ok () → xs[2]? = some c → p.word.length ≤ 4 → tileOpc p.word ∈ [3, 4, 6, 10] →
        let uc := blockUnits p.word t 2 c
        ∃ u run e, exec .sequencerCommandIssue s = .next u ∧ run.tile = t ∧ p.cs ≤ e ∧ (tileTakes p.word 0 = false → tileTakes p.word 1 = false → e = p.cs) ∧
          run.cmds = (if tileTakes p.word 0 = false ∧ tileTakes p.word 1 = false then [] else [(p.cs, .copyIn 0)]) ++
            (List.range uc).map (fun k => (e + k, .element k)) ++ [(e + uc, .copyOut), (e + uc, .last)] ∧
          u.core.eng.parts = [{ p with todo := ts, runs := [run], cs := e + uc + uc }])) ∧
    (∀ r c0 off d, p.todo = [] → p.runs = [r] → r.cmds = [(c0, .copyOut), (c0, .last)] → c0 ≤ s.core.tcc → r.outs = [(spBase + off, d)] → off < spSize →
      r.asks = [] → s.core.bankFree 0 off = true → ∃ u, exec .sequencerCommandIssue s = .next u ∧
        u.core.eng.parts = [{ p with runs := [{ r with cmds := [(c0, .last)], outs := [], leaving := true }] }] ∧
        u.core.engWrites = s.core.engWrites ++ [(false, off, d)]) ∧
    (∀ r c0, p.todo = [] → p.runs = [r] → r.cmds = [(c0, .last)] → c0 ≤ s.core.tcc → r.outs = [] → r.asks = [] → r.wids = [] →
      ∃ u, exec .sequencerCommandIssue s = .next u ∧ u.core.eng.parts = [{ p with runs := [] }]) ∧
    (∀ r c0 k rest, p.runs = [r] → r.cmds = (c0, .element k) :: rest → c0 ≤ s.core.tcc → (∀ y ∈ rest, s.core.tcc < y.1) → r.owed = [] →
      (k ≠ 0 → ∃ u, exec .elementUnitStep s = .next u ∧ u.core.eng.parts = [{ p with runs := [{ r with cmds := rest }] }]) ∧
      (k = 0 → tileOpc p.word ≠ 9 → ∃ u, exec .elementUnitStep s = .next u ∧
        u.core.eng.parts = [{ p with runs := [{ r with cmds := rest, outs := ((s.tileSrc p r false).results).1 }] }])) ∧
    (∀ x, p.t0 ≠ none → p.todo = [] → p.pool = false → p.runs = [] → Only (·.id) s.mod.tiles x → x.id = p.instr →
      ∃ u y, exec .tilePartComplete s = .next u ∧ u.core.eng.parts = [] ∧ y ∈ u.mod.tiles ∧ y = { x with left := x.left.erase s.focus } ∧
        u.core.eng.kiln.shadow = p.shadow ∧ u.core.eng.kiln.quadCfg = p.quadCfg ∧ (p.rings.length = 8 → u.core.eng.rings.toList = p.rings))) ∧
  (∀ (s : State) (x : TileInstr) (off : Nat), Only (·.id) s.mod.tiles x → x.started = true → x.left = [] → regionOf (tileCw x.word) = .sp off →
    (s.coreAt x.core).mode = .run → (s.coreAt x.core).task.launchId = x.launch →
    let grp := 2 ^ 62 + 2 * x.id
    let put := fun (code : Nat) (words : List Nat) (t : State) => t.mod.tiles = (s.mod.tiles.filter fun y => y.id != x.id) ∧
      (t.coreAt x.core).opp = (s.coreAt x.core).opp ++ ((x.flags.toNat :: words).zipIdx.flatMap fun v => rowsFor 3 grp (off + (8 + 8 * v.2)) (leBytes v.1 8)) ++
        [⟨3, grp, false, off, 8, [], .complete off code⟩]
    (x.faults = [] → tileLevel x.word < 4 ∨ s.mod.flue.members.length ≤ 1 ∨ 12 ≤ tileOpc x.word → ∃ t, exec (.tileComplete x.id) s = .next t ∧ put 0 [] t ∧ (t.coreAt x.core).eng.tileFail = (s.coreAt x.core).eng.tileFail) ∧
    (∀ f, x.faults = [f] → f.code ≠ 0 → ∃ t, exec (.tileComplete x.id) s = .next t ∧
      let w0 := 2 ^ 63 + f.code * 2 ^ 48 + f.level * 2 ^ 45 + f.rank * 2 ^ 28 + coreDie f.core * 2 ^ 26 + dieCore f.core * 2 ^ 18 + f.clus * 2 ^ 16 +
        tileOpc x.word * 2 ^ 8
      put f.code [w0, f.col * 2 ^ 32 + f.row, f.addr, f.ts, f.opnd * 2 ^ 32] t ∧ (t.coreAt x.core).eng.tileFail = BitVec.ofNat 64 w0)) ∧
  (∀ (s : State) (q : Nat) (k : Queue) (w : List Nat), OneRecord s q k w → CwFree s w →
    let ends := fun (code : Nat) => ∃ t, exec .schedulerStep s = .next t ∧ Completed s t w code ∧ (t.queue q).head = k.head + 1 ∧ t.mod.launches = [] ∧
      t.mod.host.msix = s.mod.host.msix ++ (if bits (rw w 0) 14 14 = 1 ∧ s.mod.host.masked q = false then [q] else []) ∧
      (bits (rw w 0) 14 14 = 1 → s.mod.host.masked q = true → (vget 0 t.mod.host.pba 0).getLsbD q = true)
    (recordOk w = false → ends 64) ∧
    (recordOk w = true → recKind w = 0 → recWaits w = 0 → ends 0) ∧
    (recordOk w = true → recWaits w = 1 →
      let v := rdLE s.mem (rw w 13) 8
      (bits v 63 63 = 1 → bits (rw w 0) 15 15 = 0 → ends 65) ∧
      (bits v 63 63 = 0 → bits v 47 0 < bits (rw w 15) 31 0 → ∃ t, exec .schedulerStep s = .next t ∧ t.mem = s.mem ∧ (t.queue q).head = k.head ∧
        t.mod.launches = []) ∧
      (bits v 63 63 = 0 → bits (rw w 15) 31 0 ≤ bits v 47 0 → recKind w = 0 → ends 0)) ∧
    (recordOk w = true → recKind w = 1 → recWaits w = 0 → bits (rw w 0) 4 4 = 0 →
      (∀ i < 768, s.retired i = false ∧ (vget .reset s.mod.hub.isl (islandOf i)).state = 0) → (recRect w).w * (recRect w).h ≤ s.mod.frames →
      ∃ t l, exec .schedulerStep s = .next t ∧ t.mod.launches = [l] ∧ l.slot = 0 ∧ l.state = .placed ∧ l.queue = q ∧ l.words = w ∧
        l.rect = ⟨0, 0, (recRect w).w, (recRect w).h⟩ ∧ Instr.launchDispatch 0 ∈ t.due ∧ (t.queue q).head = k.head)) ∧
  (∀ (s : State) (n : BitVec 10) (l : Launch), s.launchAt n.toNat = some l →
    (l.state = .placed → l.tile = false → l.words.length = 16 → CwFree s l.words →
      let va := rw l.words 3
      let len := 16 * bits (rw l.words 2) 46 32
      (s.imageLeaves l.asid va len = none → ∃ t, exec (.launchDispatch n) s = .next t ∧ Completed s t l.words 66 ∧ t.launchAt n.toNat = none ∧
        t.core = s.core ∧ t.others = s.others) ∧
      (∀ ls, s.imageLeaves l.asid va len = some ls → ∃ t l', exec (.launchDispatch n) s = .next t ∧ t.launchAt n.toNat = some l' ∧ l'.state = .running ∧
        l'.id = s.mod.lastId + 1 ∧ t.mod.lastId = s.mod.lastId + 1 ∧ t.mod.gens.lookup l.slot = some (s.mod.lastGen + 1) ∧ t.mem = s.mem ∧
        (∀ i ∈ l.rect.cores, let c := t.coreAt i
          c.mode = .run ∧ c.walk = some ⟨0, 0⟩ ∧ c.task.launchId = l'.id ∧ c.task.rect = l.rect ∧ c.task.asid = l.asid ∧
          c.readN 1 = BitVec.ofNat 64 (coreX i - l.rect.x0) ∧ c.readN 2 = BitVec.ofNat 64 (coreY i - l.rect.y0) ∧
          c.readN 3 = BitVec.ofNat 64 l.rect.w ∧ c.readN 4 = BitVec.ofNat 64 l.rect.h ∧ c.readN 5 = BitVec.ofNat 64 (spBase + taskBlock) ∧
          (∀ k < 8, c.readN (6 + k) = BitVec.ofNat 64 (rw l.words (4 + k))) ∧ rdLE c.sp (taskBlock + 64) 8 = l'.id.toNat) ∧
        (∀ i, i ∉ l.rect.cores → t.coreAt i = s.coreAt i))) ∧
    (s.mayRetire l = true → CwFree s l.words → (∀ i ∈ l.rect.cores, (s.coreAt i).task.launchId = l.id) → l.slot = n.toNat →
      ∃ t, exec (.launchRetire n) s = .next t ∧ Completed s t l.words (if l.result = 0 then 0 else 70) ∧ t.launchAt n.toNat = none ∧
        (∀ i ∈ l.rect.cores, (t.coreAt i).mode = .off) ∧ ∀ i, i ∉ l.rect.cores → t.coreAt i = s.coreAt i) ∧
    (∀ v : W64, v.getLsbD 63 = true → v.toNat % 1024 = n.toNat → s.mod.host.abortStat ≠ 1 →
      (l.id = s.mod.host.abortId → l.state = .running → s.mod.tiles = [] → CwFree s l.words → ∃ t, exec (.abort v) s = .next t ∧
        t.mod.host.abortStat = 2 ∧ Completed s t l.words 67 ∧ t.launchAt n.toNat = none ∧
        ∀ i ∈ l.rect.cores, (s.coreAt i).task.launchId = l.id → (t.coreAt i).mode = .off) ∧
      (l.id ≠ s.mod.host.abortId → ∃ t, exec (.abort v) s = .next t ∧ t.mod.host.abortStat = 3 ∧ t.mod.launches = s.mod.launches ∧ t.mem = s.mem))) ∧
  (∀ (s : State) (l : Launch), s.mod.launches = [l] → l.state = .saving → s.mod.placing = [] →
    ((∃ i ∈ l.rect.cores, (s.coreAt i).mode ≠ .stopped) → ∃ t, exec .preemptVictims s = .next t ∧ t.mod = s.mod ∧
      ∀ i ∈ l.rect.cores, (s.coreAt i).stopAsked = none → (s.coreAt i).mode ∈ [.run, .hold, .halted] →
        ∃ st, (t.coreAt i).stopAsked = some st ∧ st.cause = none ∧ st.resumable = true) ∧
    ((∀ i ∈ l.rect.cores, (s.coreAt i).mode = .stopped) → ∃ t, exec .preemptVictims s = .next t ∧
      t.mod.launches.map (·.state) = [.suspended s.ts.toNat] ∧ (∀ i ∈ l.rect.cores, (t.coreAt i).mode = .off) ∧
      t.mod.images = s.mod.images ++ l.rect.cores.map fun i => ⟨(s.coreAt i).frame, i, { s.coreAt i with trace := .none }⟩)) ∧
  (∀ (s : State) (q : BitVec 6) (v : W64), let k := s.queue q.toNat
    let tail : W32 := v.setWidth 32
    let failed := fun (t : State) (code idx : Nat) => (t.queue q.toNat).stat.toNat = 2 ^ 63 + code * 2 ^ 48 + idx ∧
      t.mod.host.msix = s.mod.host.msix ++ (if s.mod.host.masked 65 then [] else [65])
    (k.en = false ∨ k.rst = true → exec (.qtailWrite q v) s = .next s) ∧
    (k.en = true → k.rst = false → (tail - k.head).toNat ≤ 2 ^ k.logn → (k.tail - k.head).toNat ≤ (tail - k.head).toNat →
      ∃ t, exec (.qtailWrite q v) s = .next t ∧ t.queue q.toNat = { k with tail := tail } ∧ Instr.schedulerStep ∈ t.due) ∧
    (k.en = true → k.rst = false → k.stat.getLsbD 63 = false → 2 ^ k.logn < (tail - k.head).toNat ∨ (tail - k.head).toNat < (k.tail - k.head).toNat →
      ∃ t, exec (.qtailWrite q v) s = .next t ∧ (t.queue q.toNat).tail = k.tail ∧ failed t 1 tail.toNat) ∧
    (k.en = false → k.rst = false → v.getLsbD 0 = true → v.getLsbD 8 = false →
      let logn := bits v.toNat 4 1
      (4 ≤ logn → logn ≤ 15 → hbmOk k.base 1 = true → exec (.qctlWrite q v) s = .next (s.onQueue q.toNat fun k =>
        { k with en := true, logn := logn, age := bits v.toNat 47 32 })) ∧
      (¬ (4 ≤ logn ∧ logn ≤ 15 ∧ hbmOk k.base 1 = true) → k.stat.getLsbD 63 = false → ∃ t, exec (.qctlWrite q v) s = .next t ∧
        (t.queue q.toNat).en = false ∧ failed t 3 0)) ∧
    (k.rst = false → v.getLsbD 8 = true → ∃ t, exec (.qctlWrite q v) s = .next t ∧ (t.queue q.toNat).rst = true ∧ (t.queue q.toNat).en = false ∧
      Instr.queueReset q ∈ t.due) ∧
    (k.rst = false → exec (.queueReset q) s = .next s) ∧
    (k.rst = true → s.mod.launches = [] → (∃ i ∈ k.draining, (s.coreAt i).trace.closing ≠ none) → ∃ t, exec (.queueReset q) s = .next t ∧
      (t.queue q.toNat).rst = true ∧ (t.queue q.toNat).head = k.head ∧ t.mem = s.mem) ∧
    (∀ w, k.rst = true → k.tail = k.head + 1 → w = s.recordAt q.toNat k.head.toNat → CwFree s w → s.mod.launches = [] →
      (∀ i ∈ k.draining, (s.coreAt i).trace.closing = none) → ∃ t, exec (.queueReset q) s = .next t ∧ Completed s t w 68 ∧ (t.queue q.toNat).head = k.tail ∧ (t.queue q.toNat).rst = false ∧ (t.queue q.toNat).en = false)) ∧
  (∀ (s : State) (v : W64),
    exec (.hostRegisterWrite 0x8 v) s = .next (s.onHost fun h => { h with hwin := BitVec.ofNat 64 (bits v.toNat 51 36 * 2 ^ 36) }) ∧
    exec (.hostRegisterWrite 0x10 v) s = .next (s.later [.abort v]) ∧
    exec (.hostRegisterWrite 0x18 v) s = .next (s.onHost fun h => { h with abortId := v }) ∧
    (∀ k < 16, exec (.hostRegisterWrite (BitVec.ofNat 24 (0x200 + 8 * k)) v) s =
      .next (s.onHost fun h => { h with faultmap := vset h.faultmap k (vget 0 h.faultmap k &&& ~~~v) })) ∧
    (∀ q : BitVec 6, exec (.hostRegisterWrite (BitVec.ofNat 24 (0x1000 + 64 * q.toNat + 16)) v) s = .next (s.later [.qtailWrite q v]) ∧
      exec (.hostRegisterWrite (BitVec.ofNat 24 (0x1000 + 64 * q.toNat + 8)) v) s = .next (s.later [.qctlWrite q v])) ∧
    (∀ off : BitVec 24, off.toNat % 8 ≠ 0 → exec (.hostRegisterWrite off v) s = .next s)) ∧
  (∀ (s : State) (off : BitVec 40) (data : List Byte), s.mod.hub.bootMode ≠ 1 → off.toNat < 2 ^ 36 →
    let pa := s.mod.host.hwin.toNat + off.toNat
    (data.length ∈ [1, 2, 4, 8, 16, 32, 64] → off.toNat % data.length = 0 → hbmOk pa data.length = true → s.poisoned pa data.length = false →
      (∃ t, exec (.hostBar2Write off data) s = .next t ∧ SameOutside s.mem t.mem pa data.length ∧ (∀ k < data.length, rdByte t.mem (pa + k) = data.getD k 0) ∧
        (t.tag pa).toNat = 0x3FF * 256 + 2) ∧
      exec (.hostBar2Read off data.length) s = .next (s.onHost fun h => { h with readData := rdBytes s.mem pa data.length })) ∧
    (data.length ∈ [1, 2, 4, 8, 16, 32, 64] → off.toNat % data.length = 0 → hbmOk pa data.length = false → pa < ctlBase ∨ ctlBase + ctlSize ≤ pa →
      exec (.hostBar2Write off data) s = .fault .noStorage ∧ exec (.hostBar2Read off data.length) s = .fault .noStorage)) ∧
  (∀ (s : State), (s.mod.ivWait = none → s.ivTail ≠ s.ivHead → ∃ t, exec .invalidationEntry s = .next t ∧ t.mod.ivWait = some s.ivHead ∧ t.mem = s.mem ∧
      t.core.tlb = (s.core.tlb.filter fun l => !s.ivHit s.ivHead l) ∧ t.core.eng = s.core.eng) ∧
    (∀ n, s.mod.ivWait = some n → s.ivHeld n = true → exec .invalidationDone s = .next s) ∧
    (∀ n, s.mod.ivWait = some n → s.ivHeld n = false → ∃ t, exec .invalidationDone s = .next t ∧ t.mod.ivWait = none ∧ t.ivHead = (n + 1) % 2 ^ 64 ∧
      let w := rdLE t.mem (ctxBase + 0x41000 + 32 * (n % 256) + 24) 8
      bits w 0 0 = 1 ∧ bits w 1 1 = (if s.ivLeft n = 0 then 0 else 1) ∧ bits w 47 16 = s.ivLeft n % 2 ^ 32)) ∧
  (∀ (s : State) (i : BitVec 10) (l : Launch), RunsLaunch s i.toNat l → (s.coreAt i.toNat).mode ≠ .off →
    let n := i.toNat
    let v := s.debugCtl n
    (v = 2 ^ 63 + 1 → (s.coreAt n).mode ∈ [.run, .hold, .halted] → (s.coreAt n).stopAsked = none → ∃ t st, exec (.debugHalt i) s = .next t ∧
      (t.coreAt n).stopAsked = some st ∧ st.cause = some .debugHalt ∧ st.resumable = true ∧ t.debugCtl n = 1 ∧ resultOf t n = 0) ∧
    (∀ st c skip, (s.coreAt n).mode = .stopped → (s.coreAt n).stop = some st → st.cause = some c →
      (v = 2 ^ 63 + 2 + skip * 2 ^ 8 → skip < 2 → st.resumable = true → ∃ t, exec (.debugResume i) s = .next t ∧ (t.coreAt n).mode = .restoring ∧
        (t.coreAt n).skipBrk = decide (skip = 1) ∧ (t.coreAt n).stepOne = false ∧ resultOf t n = 0) ∧
      (v = 2 ^ 63 + 2 → st.resumable = false → ∃ t, exec (.debugResume i) s = .next t ∧ (t.coreAt n).mode = .stopped ∧ resultOf t n = 3) ∧
      (v = 2 ^ 63 + 3 → st.resumable = true → ∃ t, exec (.debugStep i) s = .next t ∧ (t.coreAt n).mode = .restoring ∧
        (t.coreAt n).stepOne = true ∧ resultOf t n = 0)) ∧
    (v = 2 ^ 63 + 2 → (s.coreAt n).mode = .run → ∃ t, exec (.debugResume i) s = .next t ∧ t.coreAt n = s.coreAt n ∧ resultOf t n = 2) ∧
    (v = 2 ^ 63 + 4 → ∃ t, exec (.debugHalt i) s = .next t ∧ t.coreAt n = s.coreAt n ∧ resultOf t n = 4)) ∧
  (∀ (s : State) (i : BitVec 10), let n := i.toNat
    let tr := (s.coreAt n).trace
    let word := fun (st : State) (k : Nat) => rdLE st.mem (traceBlock n + 8 * k) 8
    (bits (word s 0) 63 63 = 1 → tr.isOpen = false → (s.coreAt n).mode ≠ .off → (s.coreAt n).task.launchId.toNat = word s 1 → word s 1 ≠ 0 →
      ∃ t, exec (.traceOpen i) s = .next t ∧ (t.coreAt n).trace.isOpen = true ∧ (t.coreAt n).trace.launch = (s.coreAt n).task.launchId ∧
        (t.coreAt n).trace.kinds = BitVec.ofNat 8 (word s 0) ∧ word t 4 = 0 ∧ word t 6 = 0) ∧
    (∀ r rs, tr.isOpen = true → tr.buf = r :: rs →
      ((tr.wptr + 64 - BitVec.ofNat 64 (word s 5)).toNat ≤ word s 3 → ∃ t, exec (.traceDrain i) s = .next t ∧ (t.coreAt n).trace.buf = rs ∧
        (t.coreAt n).trace.wptr = tr.wptr + 64 ∧ word t 4 = (tr.wptr + 64).toNat ∧
        (let a := word s 2 + tr.wptr.toNat % word s 3
         a + 8 * r.length ≤ ctxBase → ∀ k x, r[k]? = some x → rdLE t.mem (a + 8 * k) 8 = x.toNat)) ∧
      (word s 3 < (tr.wptr + 64 - BitVec.ofNat 64 (word s 5)).toNat → ∃ t, exec (.traceDrain i) s = .next t ∧ (t.coreAt n).trace.buf = rs ∧
        (t.coreAt n).trace.dropped = tr.dropped + 1 ∧ word t 6 = (tr.dropped + 1).toNat)) ∧
    (∀ reason, tr.isOpen = true → tr.closing = none → ∃ t r, exec (.traceClose i reason) s = .next t ∧ (t.coreAt n).trace.closing = some r ∧
      (t.coreAt n).trace.buf = tr.buf ∧ bits (word t 0) 63 63 = 1))

/-! ## Resets, boot, errors, power and alarms (R393, R441 to R449, R450 to R464) -/

/-- Each reset resets what R441 gives it, and records it ends complete with COMPUTE_RESET; the boot ROM checks an image and its managers
report or are given up; an attestation report is written; islands, the cap and the retirement map follow their writes; errors are counted,
abort what met them, poison a granule or reset; alarms hold or erase. -/
def Obligations.ModuleSteps : Prop :=
  (∀ s : State, (∃ t, exec .coldPackageReset s = .next t ∧ t.core = State.reset.core ∧ t.others = [] ∧ t.mem = State.reset.mem ∧ t.tags = [] ∧
      t.due = [.firmwareBoot] ∧ t.mod.flue = .reset ∧ t.mod.launches = [] ∧ t.mod.queues = [] ∧ t.mod.host = .reset ∧ t.mod.hub.bootMode = 0 ∧
      t.mod.hub.errcfg = 0 ∧ t.mod.flash = s.mod.flash ∧ t.mod.retList = s.mod.retList ∧ t.mod.hub.erased = s.mod.hub.erased) ∧
    exec (.thermalTrip true) s = exec .coldPackageReset s) ∧
  (∀ (s : State) (i : Instr), i = .computeReset ∨ i = .functionLevelReset ∨ i = .thermalTrip false →
    ∃ t, exec i s = .next t ∧ t.mod.launches = [] ∧ t.mod.queues = [] ∧ t.mod.tiles = [] ∧ t.mod.images = [] ∧ t.mod.barriers = [] ∧ t.core.mode = .off ∧
      (∀ e ∈ t.others, e.2.mode = .off) ∧ t.mod.host.hwin = 0 ∧ t.mod.host.faultmap = Vector.replicate 16 0 ∧ t.mod.flue.up = false ∧
      t.mod.flue.inc = s.mod.flue.inc ∧ t.mod.flue.state = s.mod.flue.state ∧ t.mod.hub.dies = 0 ∧ t.mod.hub.pending = true ∧
      t.mod.hub.firmware = s.mod.hub.firmware ∧ (i = .thermalTrip false → t.mod.hub.hot = true) ∧
      (s.mod.launches = [] → s.mod.queues = [] → t.mem = s.mem) ∧
      (∀ l, s.mod.launches = [l] → s.mod.queues = [] → l.state = .running → s.mod.tiles = [] → CwFree s l.words → Completed s t l.words 69)) ∧
  (∀ (s : State) (i : Instr) (p : Nat → Bool), (∃ d, i = .dieReset d ∧ p = fun k => coreDie k == d.toNat) ∨
      (∃ c : BitVec 10, i = .coreReset c ∧ c.toNat < 768 ∧ p = fun k => k == c.toNat) →
    ∃ t, exec i s = .next t ∧ t.mod.flue.inc = s.mod.flue.inc ∧ (∀ d, i = .dieReset d → t.mod.hub.dies.getLsbD d.toNat = false) ∧
      (∀ c, i = .coreReset c → t.mod.hub.dies = s.mod.hub.dies) ∧
      (∀ l, s.mod.launches = [l] → l.state = .running → s.mod.tiles = [] →
        (l.rect.cores.any p = false → t.mod.launches = [l] ∧ t.mem = s.mem ∧ t.core = s.core ∧ t.others = s.others) ∧
        (l.rect.cores.any p = true → CwFree s l.words → t.mod.launches = [] ∧ Completed s t l.words 69 ∧
          ∀ k ∈ l.rect.cores, (s.coreAt k).task.launchId = l.id → (t.coreAt k).mode = .off))) ∧
  (∀ (s : State) (i : Instr) (m : Mem), (i = .firmwareBoot ∧ s.mod.hub.bootMode = 0 ∧ s.mod.hub.alarmActive = 0 ∧ m = s.mod.flash.filter fun e => e.1 < 2 ^ 24) ∨
      (i = .recoveryLoad ∧ s.mod.hub.bootMode = 1 ∧ m = s.mod.hub.recovery) →
    let len := rdLE m 0x10 8
    let secs := rdLE m 0x18 8
    let fails := fun (code : Nat) => exec i s = .next (s.onHub fun h => { h with bootMode := 1, bootFail := code })
    (rdLE m 0 8 ≠ 0x47524E31 → fails 1) ∧
    (rdLE m 0 8 = 0x47524E31 → len < 0x200 ∨ 2 ^ 24 < len ∨ secs = 0 ∨ 8 < secs ∨ rdLE m 0x1E0 32 ≠ 0 ∨
      (∃ k < secs, 3 < rdLE m (0x20 + 32 * k) 8 ∨ rdLE m (0x38 + 32 * k) 8 ≠ 0 ∨ rdLE m (0x28 + 32 * k) 8 < 0x200 ∨
        len < rdLE m (0x28 + 32 * k) 8 + rdLE m (0x30 + 32 * k) 8) ∨
      (∃ i < secs, ∃ j < i, rdLE m (0x28 + 32 * i) 8 < rdLE m (0x28 + 32 * j) 8 + rdLE m (0x30 + 32 * j) 8 ∧
        rdLE m (0x28 + 32 * j) 8 < rdLE m (0x28 + 32 * i) 8 + rdLE m (0x30 + 32 * i) 8) → fails 5) ∧
    (rdLE m 0 8 = 0x47524E31 → headerOk m = true → Config.sha384 (rdBytes m 0x120 96) ≠ Config.fusedKey → fails 2) ∧
    (rdLE m 0 8 = 0x47524E31 → headerOk m = true → Config.sha384 (rdBytes m 0x120 96) = Config.fusedKey →
      (rdLE m 8 8 < Config.fusedVersion → fails 3) ∧
      (Config.fusedVersion ≤ rdLE m 8 8 →
        (Config.ecdsaOk (rdBytes m 0x120 96) (Config.sha384 (signedBytes m)) (rdBytes m 0x180 96) = false → fails 4) ∧
        (Config.ecdsaOk (rdBytes m 0x120 96) (Config.sha384 (signedBytes m)) (rdBytes m 0x180 96) = true →
          ∃ t, exec i s = .next t ∧ t.mod.hub.bootMode = 2 ∧ t.mod.hub.bootFail = 0 ∧ t.mod.hub.version = rdLE m 8 8 ∧ t.mod.hub.firmware = m ∧
            t.mod.hub.meas = measure m ∧ t.mod.hub.retmap = s.mod.retList)))) ∧
  (∀ (s : State) (d : BitVec 2), let h := s.mod.hub
    let dies := h.dies ||| BitVec.ofNat 4 (2 ^ d.toNat)
    (h.bootMode = 2 → h.dies.getLsbD d.toNat = false →
      (dies ||| h.silent ≠ 15 → exec (.dieManagerReady d) s = .next (s.onHub fun h => { h with dies := dies })) ∧
      (dies ||| h.silent = 15 → ∃ t, exec (.dieManagerReady d) s = .next t ∧ t.mod.hub.dies = dies ∧ t.mod.hub.bootMode = 3 ∧ Instr.endpointUp ∈ t.due ∧
        rdLE t.mem (ctxBase + 0x40010) 8 = s.mod.frames % 2 ^ 64)) ∧
    (s.ts.toNat < h.mgrSince + 10000000000 → exec (.dieManagerTimeout d) s = .next s) ∧
    (2 ≤ h.bootMode → h.dies.getLsbD d.toNat = false → h.silent.getLsbD d.toNat = false → h.mgrSince + 10000000000 ≤ s.ts.toNat → s.mod.launches = [] →
      ∃ t, exec (.dieManagerTimeout d) s = .next t ∧ t.mod.hub.silent.getLsbD d.toNat = true ∧ ∀ i < 768,
        (coreDie i = d.toNat → t.retired i = true) ∧ (coreDie i ≠ d.toNat → t.retired i = s.retired i))) ∧
  (∀ s : State, (s.mod.hub.attest = false → exec .attestationRequest s = .next s) ∧
    (s.mod.hub.attest = true → ∃ t, exec .attestationRequest s = .next t ∧ t.mod.hub.attest = false ∧
      rdLE t.mod.hub.report 0 8 = (if s.mod.hub.erased then 1 else 0) ∧ t.mod.hub.nonce = s.mod.hub.nonce)) ∧
  (∀ (s : State) (n : BitVec 4), let x := s.island n.toNat
    (∀ v : W64, (v.toNat % 16 < 5 → ∃ t, exec (.pstateWrite (BitVec.ofNat 5 n.toNat) v) s = .next t ∧ (t.island n.toNat).pstate = v.toNat % 16 ∧
        (t.island n.toNat).step = x.step ∧ (max (v.toNat % 16) x.step ≠ x.cur → Instr.relock n ∈ t.due)) ∧
      (5 ≤ v.toNat % 16 → exec (.pstateWrite (BitVec.ofNat 5 n.toNat) v) s = .next s)) ∧
    (∀ up, ∃ t, exec (.throttleStep (BitVec.ofNat 5 n.toNat) up) s = .next t ∧ (t.island n.toNat).step = (if up then min 4 (x.step + 1) else x.step - 1) ∧
      (t.island n.toNat).pstate = x.pstate) ∧
    (x.gate = false → ∃ t, exec (.gateRequest n) s = .next t ∧ (t.island n.toNat).gate = true ∧ (t.island n.toNat).state = 1) ∧
    (x.state = 1 → (s.resident n.toNat = true → exec (.islandGated n) s = .next s) ∧
      (s.resident n.toNat = false → ∃ t, exec (.islandGated n) s = .next t ∧ (t.island n.toNat).state = 2)) ∧
    (x.gate = true → ∃ t, exec (.islandWake n) s = .next t ∧ (t.island n.toNat).gate = false ∧ (t.island n.toNat).state = 3) ∧
    (x.state = 3 → ∃ t, exec (.wakeComplete n) s = .next t ∧ (t.island n.toNat).state = 0)) ∧
  (∀ (s : State) (v : W64),
    (1000 ≤ v.toNat % 65536 → v.toNat % 65536 ≤ 3200 → exec (.pcapWrite v) s = .next (s.onHub fun h => { h with pcap := v.toNat % 65536 })) ∧
    (v.toNat % 65536 < 1000 ∨ 3200 < v.toNat % 65536 → exec (.pcapWrite v) s = .next s) ∧
    (∀ k : BitVec 4, k.toNat < 12 → s.mod.launches = [] → ∃ t, exec (.retmapWrite k v) s = .next t ∧ ∀ i < 768,
      (i / 64 = k.toNat → v.getLsbD (i % 64) = true → t.retired i = true) ∧
      (i / 64 = k.toNat → v.getLsbD (i % 64) = false → s.mod.hub.silent.getLsbD (coreDie i) = false → t.retired i = false) ∧
      (i / 64 ≠ k.toNat → t.retired i = s.retired i))) ∧
  (∀ (s : State) (addr : W64), let k := addr.toNat / 2 ^ 60
    let loc := addr.toNat % 2 ^ 60
    let old := (vget 0 s.mod.hub.errcnt k).toNat
    let counted := fun (t : State) (corr uncorr : Nat) => (vget 0 t.mod.hub.errcnt k).toNat =
      min (old / 2 ^ 32 + uncorr) (2 ^ 32 - 1) * 2 ^ 32 + min (old % 2 ^ 32 + corr) (2 ^ 32 - 1)
    (k = 4 ∨ k = 6 → ∃ t, exec (.correctedError addr) s = .next t ∧ counted t 1 0 ∧ t.mod.hub.poison = s.mod.hub.poison) ∧
    (k = 0 ∨ k = 1 ∨ k = 3 → loc < 768 → s.mod.launches = [] → ∃ t, exec (.correctedError addr) s = .next t ∧ counted t 1 0 ∧
      (bits s.mod.hub.errcfg.toNat 63 63 = 0 → t.retired loc = s.retired loc) ∧
      (bits s.mod.hub.errcfg.toNat 63 63 = 1 → bits s.mod.hub.errcfg.toNat 15 0 ≠ 0 → bits s.mod.hub.errcfg.toNat 15 0 ≤ s.recentErrs loc + 1 →
        t.retired loc = true)) ∧
    (k ∈ [0, 1, 2, 3, 5] → loc < 768 → ∃ t, exec (.uncorrectableError addr) s = .next t ∧
      (∀ l, s.mod.launches = [l] → l.state = .running → s.mod.tiles = [] → CwFree s l.words → (s.coreAt loc).mode ≠ .off → (s.coreAt loc).task.slot = l.slot →
        t.mod.launches = [] ∧ Completed s t l.words 67 ∧ counted t 0 1) ∧
      (k ∈ [0, 1, 3] → s.mod.launches = [] → bits s.mod.hub.errcfg.toNat 63 63 = 1 → t.retired loc = true)) ∧
    (k = 4 → s.core.gacc = [] → s.core.walks = [] → ∃ t, exec (.uncorrectableError addr) s = .next t ∧ counted t 0 1 ∧ loc / 64 ∈ t.mod.hub.poison ∧
      t.mod.launches = s.mod.launches) ∧
    (k = 6 → ∃ t, exec (.uncorrectableError addr) s = .next t ∧ counted t 0 1 ∧ (if loc = 1 then Instr.flueReset else Instr.computeReset) ∈ t.due) ∧
    (s.poisoned (addr.toNat / 64 * 64) 64 = false → exec (.patrolScrub addr) s = .next s) ∧
    (s.poisoned (addr.toNat / 64 * 64) 64 = true → loc / 64 * 64 = addr.toNat / 64 * 64 →
      exec (.patrolScrub addr) s = .next (s.later [.uncorrectableError (BitVec.ofNat 64 (4 * 2 ^ 60 + loc / 64 * 64))]))) ∧
  (∀ (s : State) (a : BitVec 4), let act := fun (k : Nat) => bits Config.alarmPolicy.toNat (2 * k + 1) (2 * k)
    (a ≠ 0 → ∃ t, exec (.securityAlarm a) s = .next t ∧ t.mod.hub.alarmActive = s.mod.hub.alarmActive ||| a ∧ t.mod.hub.alarmSeen = s.mod.hub.alarmSeen ||| a ∧
      ((∃ k < 4, a.getLsbD k = true ∧ 1 ≤ act k) → t.mod.hub.held = true) ∧ ((∃ k < 4, a.getLsbD k = true ∧ act k = 2) → t.mod.hub.erased = true) ∧
      ((∀ k < 4, a.getLsbD k = true → act k = 0) → t.mod.hub.held = s.mod.hub.held ∧ t.mod.hub.erased = s.mod.hub.erased)) ∧
    exec (.alarmSensorClear a) s = .next (s.onHub fun h => { h with alarmActive := h.alarmActive &&& ~~~a }) ∧
    (s.mod.hub.alarmActive ≠ 0 → exec .alarmRelease s = .next s) ∧
    (s.mod.hub.alarmActive = 0 → exec .alarmRelease s = .next (s.onHub fun h => { h with held := false })))
end

