-- ==== Sys2Proof/Laws/Memory.lean ====
section
/-! SUPPORT. Sparse storage: read after write, the canonical form, and what every operation on it keeps. -/

namespace Sys2Proof.Machine

section Storage

variable {α : Type}

/-- Every key of the list lies above a bound. -/
def above (n : Nat) (m : List (Nat × α)) : Prop := ∀ e ∈ m, n < e.1

@[simp] theorem above_nil (n : Nat) : above n ([] : List (Nat × α)) := by simp [above]

@[simp] theorem above_cons (n : Nat) (e : Nat × α) (m : List (Nat × α)) : above n (e :: m) ↔ n < e.1 ∧ above n m := by simp [above]

theorem above_mono {n k : Nat} {m : List (Nat × α)} (h : k ≤ n) (hm : above n m) : above k m :=
  fun e he => Nat.lt_of_le_of_lt h (hm e he)

theorem above_filter {n : Nat} {m : List (Nat × α)} (p : Nat × α → Bool) (hm : above n m) : above n (m.filter p) :=
  fun e he => hm e (List.mem_of_mem_filter he)

/-- Reading where nothing is listed gives the default. -/
theorem sget_above (d : α) {n : Nat} {m : List (Nat × α)} (hm : above n m) : sget d m n = d := by
  induction m with
  | nil => rfl
  | cons e m ih =>
    obtain ⟨k, v⟩ := e
    simp only [above_cons] at hm
    have hk : n ≠ k := Nat.ne_of_lt hm.1
    simp [sget, hk, ih hm.2]

theorem sget_put_same (d : α) (m : List (Nat × α)) (a : Nat) (x : α) : sget d (sput m a x) a = x := by
  induction m with
  | nil => simp [sput, sget]
  | cons e m ih =>
    obtain ⟨k, v⟩ := e
    simp only [sput]
    split
    · simp [sget]
    · split
      · simp [sget]
      · rename_i h1 h2; simp [sget, h2, ih]

theorem sget_put_ne (d : α) (m : List (Nat × α)) {a b : Nat} (x : α) (h : b ≠ a) : sget d (sput m a x) b = sget d m b := by
  induction m with
  | nil => simp [sput, sget, h]
  | cons e m ih =>
    obtain ⟨k, v⟩ := e
    simp only [sput]
    split
    · simp [sget, h]
    · split
      · rename_i _ hk; subst hk; simp [sget, h]
      · by_cases hb : b = k <;> simp [sget, hb, ih]

theorem sget_drop_same (d : α) (m : List (Nat × α)) (a : Nat) : sget d (m.filter fun e => e.1 != a) a = d := by
  induction m with
  | nil => rfl
  | cons e m ih =>
    obtain ⟨k, v⟩ := e
    by_cases hk : k = a
    · simp [hk, ih]
    · have : a ≠ k := fun h => hk h.symm
      simp [hk, sget, this, ih]

theorem sget_drop_ne (d : α) (m : List (Nat × α)) {a b : Nat} (h : b ≠ a) :
    sget d (m.filter fun e => e.1 != a) b = sget d m b := by
  induction m with
  | nil => rfl
  | cons e m ih =>
    obtain ⟨k, v⟩ := e
    by_cases hk : k = a
    · subst hk; simp [sget, h, ih]
    · by_cases hb : b = k <;> simp [hk, sget, hb, ih]

theorem above_put {n : Nat} {m : List (Nat × α)} {a : Nat} {x : α} (ha : n < a) (hm : above n m) : above n (sput m a x) := by
  induction m with
  | nil => simpa [sput] using ha
  | cons e m ih =>
    obtain ⟨k, v⟩ := e
    simp only [above_cons] at hm
    simp only [sput]
    split
    · simpa using ⟨ha, hm⟩
    · split
      · simpa using ⟨ha, hm.2⟩
      · simpa using ⟨hm.1, ih hm.2⟩

variable [DecidableEq α]

/-- A read at the index just written gives the value written. -/
@[simp] theorem sget_sset_same (d : α) (m : List (Nat × α)) (a : Nat) (x : α) : sget d (sset d m a x) a = x := by
  simp only [sset]
  split
  · rename_i h; rw [sget_drop_same, h]
  · exact sget_put_same d m a x

/-- A write leaves every other index alone. -/
theorem sget_sset_ne (d : α) (m : List (Nat × α)) {a b : Nat} (x : α) (h : b ≠ a) : sget d (sset d m a x) b = sget d m b := by
  simp only [sset]
  split
  · exact sget_drop_ne d m h
  · exact sget_put_ne d m x h

/-- The canonical form of a longer list: its head is no default, lies below the rest, and the rest is canonical. -/
theorem swf_cons (d : α) (k : Nat) (v : α) (m : List (Nat × α)) :
    swf d ((k, v) :: m) = true ↔ v ≠ d ∧ above k m ∧ swf d m = true := by
  induction m generalizing k v with
  | nil => simp [swf]
  | cons e m ih =>
    obtain ⟨k', v'⟩ := e
    simp only [swf, Bool.and_eq_true, bne_iff_ne, ne_eq, decide_eq_true_eq, above_cons]
    constructor
    · rintro ⟨⟨h1, h2⟩, h3⟩
      exact ⟨h1, ⟨h2, above_mono (Nat.le_of_lt h2) ((ih k' v').mp h3).2.1⟩, h3⟩
    · rintro ⟨h1, ⟨h2, _⟩, h3⟩
      exact ⟨⟨h1, h2⟩, h3⟩

@[simp] theorem swf_nil (d : α) : swf d ([] : List (Nat × α)) = true := rfl

/-- Dropping entries keeps the canonical form. -/
theorem swf_filter (d : α) {m : List (Nat × α)} (p : Nat × α → Bool) (h : swf d m = true) : swf d (m.filter p) = true := by
  induction m with
  | nil => rfl
  | cons e m ih =>
    obtain ⟨k, v⟩ := e
    rw [swf_cons] at h
    by_cases hp : p (k, v)
    · rw [List.filter_cons_of_pos hp, swf_cons]
      exact ⟨h.1, above_filter p h.2.1, ih h.2.2⟩
    · rw [List.filter_cons_of_neg hp]
      exact ih h.2.2

theorem swf_put (d : α) {m : List (Nat × α)} {a : Nat} {x : α} (hx : x ≠ d) (h : swf d m = true) : swf d (sput m a x) = true := by
  induction m with
  | nil => simp [sput, swf, hx]
  | cons e m ih =>
    obtain ⟨k, v⟩ := e
    have hc := (swf_cons d k v m).mp h
    simp only [sput]
    split
    · rename_i hak
      rw [swf_cons]
      exact ⟨hx, by simpa using ⟨hak, above_mono (Nat.le_of_lt hak) hc.2.1⟩, h⟩
    · split
      · rename_i _ hak
        subst hak
        exact (swf_cons d a x m).mpr ⟨hx, hc.2.1, hc.2.2⟩
      · rename_i h1 h2
        exact (swf_cons d k v _).mpr ⟨hc.1, above_put (by omega) hc.2.1, ih hc.2.2⟩

/-- A write keeps the canonical form. -/
theorem swf_sset (d : α) {m : List (Nat × α)} (a : Nat) (x : α) (h : swf d m = true) : swf d (sset d m a x) = true := by
  simp only [sset]
  split
  · exact swf_filter d _ h
  · rename_i hx; exact swf_put d hx h

end Storage

/-! ## Byte storage -/

@[simp] theorem rdByte_wrByte_same (m : Mem) (a : Nat) (b : Byte) : rdByte (wrByte m a b) a = b := sget_sset_same 0 m a b

theorem rdByte_wrByte_ne (m : Mem) {a c : Nat} (b : Byte) (h : c ≠ a) : rdByte (wrByte m a b) c = rdByte m c :=
  sget_sset_ne 0 m b h

theorem wf_wrByte {m : Mem} (a : Nat) (b : Byte) (h : Mem.wf m = true) : Mem.wf (wrByte m a b) = true := swf_sset 0 a b h

/-- A little-endian write keeps the canonical form. -/
theorem wf_wrLE {m : Mem} (a n v : Nat) (h : Mem.wf m = true) : Mem.wf (wrLE m a n v) = true := by
  induction n generalizing m a v with
  | zero => exact h
  | succ n ih => exact ih _ _ (wf_wrByte a _ h)

/-- A write of bytes keeps the canonical form. -/
theorem wf_wrBytes {m : Mem} (a : Nat) (l : List Byte) (h : Mem.wf m = true) : Mem.wf (wrBytes m a l) = true := by
  induction l generalizing m a with
  | nil => exact h
  | cons b l ih => exact ih _ (wf_wrByte a b h)

/-- Clearing a range keeps the canonical form. -/
theorem wf_clearRange {m : Mem} (a n : Nat) (h : Mem.wf m = true) : Mem.wf (clearRange m a n) = true := swf_filter 0 _ h

/-- A write of bytes leaves every byte outside them alone. -/
theorem rdByte_wrBytes_out (m : Mem) (a : Nat) (l : List Byte) {c : Nat} (h : c < a ∨ a + l.length ≤ c) :
    rdByte (wrBytes m a l) c = rdByte m c := by
  induction l generalizing m a with
  | nil => rfl
  | cons b l ih =>
    simp only [List.length_cons] at h
    rw [wrBytes, ih _ _ (by omega), rdByte_wrByte_ne _ _ (by omega)]

/-- A read in the bytes just written gives the byte written. -/
theorem rdByte_wrBytes_in (m : Mem) (a : Nat) (l : List Byte) (i : Nat) (h : i < l.length) :
    rdByte (wrBytes m a l) (a + i) = l[i] := by
  induction l generalizing m a i with
  | nil => simp at h
  | cons b l ih =>
    cases i with
    | zero => rw [wrBytes, rdByte_wrBytes_out _ _ _ (by omega)]; simp
    | succ i =>
      simp only [List.length_cons] at h
      have := ih (wrByte m a b) (a + 1) i (by omega)
      rw [wrBytes, show a + (i + 1) = a + 1 + i by omega, this]
      rfl

/-- A little-endian write leaves every byte outside it alone. -/
theorem rdByte_wrLE_out (m : Mem) (a n v : Nat) {c : Nat} (h : c < a ∨ a + n ≤ c) : rdByte (wrLE m a n v) c = rdByte m c := by
  induction n generalizing m a v with
  | zero => rfl
  | succ n ih => rw [wrLE, ih _ _ _ (by omega), rdByte_wrByte_ne _ _ (by omega)]

/-- A little-endian read back of a little-endian write gives the low bytes written. -/
theorem rdLE_wrLE (m : Mem) (a n v : Nat) : rdLE (wrLE m a n v) a n = v % 256 ^ n := by
  induction n generalizing m a v with
  | zero => simp [rdLE, Nat.mod_one]
  | succ n ih =>
    have e : 256 ^ (n + 1) = 256 * 256 ^ n := Nat.pow_succ'
    rw [wrLE, rdLE, ih, rdByte_wrLE_out _ _ _ _ (by omega), rdByte_wrByte_same, BitVec.toNat_ofNat, e, Nat.mod_mul]

end Sys2Proof.Machine
end

