-- ==== Sys2Proof/Laws/PerInstr.lean ====
section
/-! SUPPORT. The place of each slot instruction reads back as that instruction, constructor by constructor (R183 to R193). -/

namespace Sys2Proof.Laws.SlotBack

/-- The unit, port and move of a well-placed slot instruction name that instruction again. -/
def Statement (i : Instr) : Prop :=
  match i.slot with
  | none => True
  | some (u, p, m) => i.portOk = true → RawMove.instr ⟨u, p, m⟩ = some i

/-- A unit number of one bit is 0 or 1. -/
theorem bit_cases (u : BitVec 1) : u = 0 ∨ u = 1 := by
  have := u.isLt
  rcases Nat.lt_or_ge u.toNat 1 with h | h
  · exact .inl (BitVec.eq_of_toNat_eq (by simp; omega))
  · exact .inr (BitVec.eq_of_toNat_eq (by simp; omega))

theorem bundleIssue : Statement .bundleIssue := trivial
theorem nullifiedPosition : Statement .nullifiedPosition := trivial
theorem breakpointHit : Statement .breakpointHit := trivial
theorem loopPassBoundary : Statement .loopPassBoundary := trivial
theorem waitEnd : Statement .waitEnd := trivial
theorem ringTailWrite (n : BitVec 3) (v : W64) : Statement (.ringTailWrite n v) := trivial
theorem embfltClear (v : W64) : Statement (.embfltClear v) := trivial
theorem ecauseRearm (v : W64) : Statement (.ecauseRearm v) := trivial
theorem resultLand : Statement .resultLand := trivial
theorem segmentWalk : Statement .segmentWalk := trivial
theorem opportunisticWrite : Statement .opportunisticWrite := trivial
theorem fencePerform : Statement .fencePerform := trivial
theorem globalAccessPerform (id : Nat) : Statement (.globalAccessPerform id) := trivial
theorem raceException : Statement .raceException := trivial
theorem replicatedStoreCommit (id : Nat) : Statement (.replicatedStoreCommit id) := trivial
theorem pushStoreArrival (id : Nat) : Statement (.pushStoreArrival id) := trivial
theorem barrierComplete : Statement .barrierComplete := trivial
theorem lateItem : Statement .lateItem := trivial
theorem holdEnd : Statement .holdEnd := trivial
theorem relock (island : BitVec 4) : Statement (.relock island) := trivial
theorem relockEnd (island : BitVec 4) : Statement (.relockEnd island) := trivial
theorem instructionRefetch : Statement .instructionRefetch := trivial
theorem coreStop : Statement .coreStop := trivial
theorem contextResume : Statement .contextResume := trivial
theorem passStart (pass : Nat) : Statement (.passStart pass) := trivial
theorem beatArrival (pass : Nat) (i j : BitVec 6) : Statement (.beatArrival pass i j) := trivial
theorem streamUnitCheck (pass : Nat) : Statement (.streamUnitCheck pass) := trivial
theorem briquetteRead (pass : Nat) : Statement (.briquetteRead pass) := trivial
theorem passRetire (pass : Nat) : Statement (.passRetire pass) := trivial
theorem outputRingAdvance (pass : Nat) : Statement (.outputRingAdvance pass) := trivial
theorem wsPartialWrite (pass : Nat) : Statement (.wsPartialWrite pass) := trivial
theorem wfOutputWrite (pass : Nat) : Statement (.wfOutputWrite pass) := trivial
theorem shadowConfigWrite (cmd : Nat) : Statement (.shadowConfigWrite cmd) := trivial
theorem switchTokenInject (cmd : Nat) : Statement (.switchTokenInject cmd) := trivial
theorem switchTokenArrival (i j : BitVec 6) : Statement (.switchTokenArrival i j) := trivial
theorem drainRow (cmd : Nat) : Statement (.drainRow cmd) := trivial
theorem kzeroApply (cmd : Nat) : Statement (.kzeroApply cmd) := trivial
theorem kringApply (cmd : Nat) : Statement (.kringApply cmd) := trivial
theorem followOnIssue (ch : BitVec 1) : Statement (.followOnIssue ch) := trivial
theorem copyUnitRequest (ch : BitVec 1) : Statement (.copyUnitRequest ch) := trivial
theorem copyUnitWritten (ch : BitVec 1) : Statement (.copyUnitWritten ch) := trivial
theorem spsDue : Statement .spsDue := trivial
theorem windowBindingSwitch (cmd : Nat) : Statement (.windowBindingSwitch cmd) := trivial
theorem emberCommandStart : Statement .emberCommandStart := trivial
theorem domainStep (d : BitVec 2) : Statement (.domainStep d) := trivial
theorem esaveRow (cmd : Nat) : Statement (.esaveRow cmd) := trivial
theorem erestApply (cmd : Nat) : Statement (.erestApply cmd) := trivial
theorem fabSend (cmd : Nat) : Statement (.fabSend cmd) := trivial
theorem fabComplete (cmd : Nat) : Statement (.fabComplete cmd) := trivial
theorem inboundRemoteRequest (r : RemoteReq) : Statement (.inboundRemoteRequest r) := trivial
theorem remoteFlagRaise (id : Nat) : Statement (.remoteFlagRaise id) := trivial
theorem remoteReply (r : RemoteRes) : Statement (.remoteReply r) := trivial
theorem fbarArrival (key : W32) (seq : Nat) (m : BitVec 12) : Statement (.fbarArrival key seq m) := trivial
theorem heldWritesApply (core : BitVec 10) : Statement (.heldWritesApply core) := trivial
theorem tileSplit (id : Nat) : Statement (.tileSplit id) := trivial
theorem tilePartStart : Statement .tilePartStart := trivial
theorem tileClaim : Statement .tileClaim := trivial
theorem tilePartComplete : Statement .tilePartComplete := trivial
theorem tileComplete (id : Nat) : Statement (.tileComplete id) := trivial
theorem translationWalk : Statement .translationWalk := trivial
theorem launchRetire (slot : BitVec 10) : Statement (.launchRetire slot) := trivial
theorem schedulerStep : Statement .schedulerStep := trivial
theorem launchDispatch (slot : BitVec 10) : Statement (.launchDispatch slot) := trivial
theorem preemptVictims : Statement .preemptVictims := trivial
theorem qtailWrite (q : BitVec 6) (v : W64) : Statement (.qtailWrite q v) := trivial
theorem qctlWrite (q : BitVec 6) (v : W64) : Statement (.qctlWrite q v) := trivial
theorem queueReset (q : BitVec 6) : Statement (.queueReset q) := trivial
theorem abort (v : W64) : Statement (.abort v) := trivial
theorem hostRegisterWrite (off : BitVec 24) (v : W64) : Statement (.hostRegisterWrite off v) := trivial
theorem hostBar2Write (off : BitVec 40) (data : List Byte) : Statement (.hostBar2Write off data) := trivial
theorem hostBar2Read (off : BitVec 40) (len : Nat) : Statement (.hostBar2Read off len) := trivial
theorem invalidationEntry : Statement .invalidationEntry := trivial
theorem invalidationDone : Statement .invalidationDone := trivial
theorem debugHalt (core : BitVec 10) : Statement (.debugHalt core) := trivial
theorem debugResume (core : BitVec 10) : Statement (.debugResume core) := trivial
theorem debugStep (core : BitVec 10) : Statement (.debugStep core) := trivial
theorem traceOpen (core : BitVec 10) : Statement (.traceOpen core) := trivial
theorem traceDrain (core : BitVec 10) : Statement (.traceDrain core) := trivial
theorem traceClose (core : BitVec 10) (reason : BitVec 2) : Statement (.traceClose core reason) := trivial
theorem flueGo : Statement .flueGo := trivial
theorem linkTrained (link : BitVec 3) (plane : BitVec 1) (ok : Bool) (peer : W64) (key : W32) (ord : Bool) : Statement (.linkTrained link plane ok peer key ord) := trivial
theorem groupFormed : Statement .groupFormed := trivial
theorem planeLoss (link : BitVec 3) (plane : BitVec 1) : Statement (.planeLoss link plane) := trivial
theorem flitReplay (link : BitVec 3) (plane : BitVec 1) : Statement (.flitReplay link plane) := trivial
theorem routeRecompute (far : List (Nat × Nat)) : Statement (.routeRecompute far) := trivial
theorem timestampFlit (ts : W64) : Statement (.timestampFlit ts) := trivial
theorem endpointUp : Statement .endpointUp := trivial
theorem endpointDown : Statement .endpointDown := trivial
theorem announcementReceived (m : BitVec 12) (join : Bool) (inc : BitVec 8) : Statement (.announcementReceived m join inc) := trivial
theorem neighbourLost (m : BitVec 12) : Statement (.neighbourLost m) := trivial
theorem flueReset : Statement .flueReset := trivial
theorem coldPackageReset : Statement .coldPackageReset := trivial
theorem functionLevelReset : Statement .functionLevelReset := trivial
theorem computeReset : Statement .computeReset := trivial
theorem dieReset (die : BitVec 2) : Statement (.dieReset die) := trivial
theorem coreReset (core : BitVec 10) : Statement (.coreReset core) := trivial
theorem firmwareBoot : Statement .firmwareBoot := trivial
theorem recoveryLoad : Statement .recoveryLoad := trivial
theorem dieManagerReady (die : BitVec 2) : Statement (.dieManagerReady die) := trivial
theorem dieManagerTimeout (die : BitVec 2) : Statement (.dieManagerTimeout die) := trivial
theorem attestationRequest : Statement .attestationRequest := trivial
theorem pstateWrite (island : BitVec 5) (v : W64) : Statement (.pstateWrite island v) := trivial
theorem gateRequest (island : BitVec 4) : Statement (.gateRequest island) := trivial
theorem islandGated (island : BitVec 4) : Statement (.islandGated island) := trivial
theorem islandWake (island : BitVec 4) : Statement (.islandWake island) := trivial
theorem wakeComplete (island : BitVec 4) : Statement (.wakeComplete island) := trivial
theorem throttleStep (island : BitVec 5) (up : Bool) : Statement (.throttleStep island up) := trivial
theorem thermalTrip (flue : Bool) : Statement (.thermalTrip flue) := trivial
theorem pcapWrite (v : W64) : Statement (.pcapWrite v) := trivial
theorem retmapWrite (idx : BitVec 4) (v : W64) : Statement (.retmapWrite idx v) := trivial
theorem correctedError (addr : W64) : Statement (.correctedError addr) := trivial
theorem uncorrectableError (addr : W64) : Statement (.uncorrectableError addr) := trivial
theorem patrolScrub (addr : W64) : Statement (.patrolScrub addr) := trivial
theorem securityAlarm (sensor : BitVec 4) : Statement (.securityAlarm sensor) := trivial
theorem alarmRelease : Statement .alarmRelease := trivial
theorem transitForward (tgt : BitVec 12) (p : Packet) : Statement (.transitForward tgt p) := trivial
theorem triSolutionWrite (pass : Nat) : Statement (.triSolutionWrite pass) := trivial
theorem spsCommandStart : Statement .spsCommandStart := trivial
theorem sequencerCommandIssue : Statement .sequencerCommandIssue := trivial
theorem elementUnitStep : Statement .elementUnitStep := trivial
theorem alarmSensorClear (sensor : BitVec 4) : Statement (.alarmSensorClear sensor) := trivial
theorem port0Discard (unit : BitVec 4) (m : Move) : Statement (.port0Discard unit m) := by
  intro h
  have h8 : unit.toNat ≠ 8 := fun e => by
    have : unit = 8 := BitVec.eq_of_toNat_eq e
    subst this; exact absurd (show ((8 : BitVec 4) != 8 && (8 : BitVec 4) != 15) = true from h) (by decide)
  show (if unit.toNat = 8 then _ else _) = _
  rw [if_neg h8]
  show (if (0 : Nat) = 0 then some (Instr.port0Discard (BitVec.ofNat 4 unit.toNat) m) else _) = _
  rw [if_pos rfl, BitVec.ofNat_toNat, BitVec.setWidth_eq]
theorem operandPortMove (unit : BitVec 4) (port : BitVec 3) (m : Move) : Statement (.operandPortMove unit port m) := by
  intro h
  have hc : (operandClass unit.toNat port.toNat != .undefined) = true := h
  have h8 : unit.toNat ≠ 8 := fun e => by
    rw [e] at hc; revert hc; generalize port.toNat = p; intro hc; simp [operandClass] at hc
  have h0 : port.toNat ≠ 0 := fun e => by
    rw [e] at hc; revert hc; generalize unit.toNat = p; intro hc; simp [operandClass] at hc
  have h7 : port.toNat ≤ 7 := by have := port.isLt; omega
  show (if unit.toNat = 8 then _ else if port.toNat = 0 then _ else if port.toNat ≤ 7 then
    some (Instr.operandPortMove (BitVec.ofNat 4 unit.toNat) (BitVec.ofNat 3 port.toNat) m) else _) = _
  rw [if_neg h8, if_neg h0, if_pos h7, BitVec.ofNat_toNat, BitVec.setWidth_eq, BitVec.ofNat_toNat, BitVec.setWidth_eq]
theorem nregWrite (port : BitVec 6) (m : Move) : Statement (.nregWrite port m) := by
  intro _
  show (if (8 : Nat) = 8 then some (Instr.nregWrite (BitVec.ofNat 6 port.toNat) m) else _) = _
  rw [if_pos rfl, BitVec.ofNat_toNat, BitVec.setWidth_eq]
theorem mov (unit : BitVec 1) (m : Move) : Statement (.mov unit m) := fun _ => by rcases bit_cases unit with rfl | rfl <;> rfl
theorem add (unit : BitVec 1) (m : Move) : Statement (.add unit m) := fun _ => by rcases bit_cases unit with rfl | rfl <;> rfl
theorem sub (unit : BitVec 1) (m : Move) : Statement (.sub unit m) := fun _ => by rcases bit_cases unit with rfl | rfl <;> rfl
theorem and (unit : BitVec 1) (m : Move) : Statement (.and unit m) := fun _ => by rcases bit_cases unit with rfl | rfl <;> rfl
theorem or (unit : BitVec 1) (m : Move) : Statement (.or unit m) := fun _ => by rcases bit_cases unit with rfl | rfl <;> rfl
theorem xor (unit : BitVec 1) (m : Move) : Statement (.xor unit m) := fun _ => by rcases bit_cases unit with rfl | rfl <;> rfl
theorem andn (unit : BitVec 1) (m : Move) : Statement (.andn unit m) := fun _ => by rcases bit_cases unit with rfl | rfl <;> rfl
theorem shl (unit : BitVec 1) (m : Move) : Statement (.shl unit m) := fun _ => by rcases bit_cases unit with rfl | rfl <;> rfl
theorem shr (unit : BitVec 1) (m : Move) : Statement (.shr unit m) := fun _ => by rcases bit_cases unit with rfl | rfl <;> rfl
theorem sar (unit : BitVec 1) (m : Move) : Statement (.sar unit m) := fun _ => by rcases bit_cases unit with rfl | rfl <;> rfl
theorem rotl (unit : BitVec 1) (m : Move) : Statement (.rotl unit m) := fun _ => by rcases bit_cases unit with rfl | rfl <;> rfl
theorem min (unit : BitVec 1) (m : Move) : Statement (.min unit m) := fun _ => by rcases bit_cases unit with rfl | rfl <;> rfl
theorem max (unit : BitVec 1) (m : Move) : Statement (.max unit m) := fun _ => by rcases bit_cases unit with rfl | rfl <;> rfl
theorem minu (unit : BitVec 1) (m : Move) : Statement (.minu unit m) := fun _ => by rcases bit_cases unit with rfl | rfl <;> rfl
theorem maxu (unit : BitVec 1) (m : Move) : Statement (.maxu unit m) := fun _ => by rcases bit_cases unit with rfl | rfl <;> rfl
theorem seteq (unit : BitVec 1) (m : Move) : Statement (.seteq unit m) := fun _ => by rcases bit_cases unit with rfl | rfl <;> rfl
theorem setne (unit : BitVec 1) (m : Move) : Statement (.setne unit m) := fun _ => by rcases bit_cases unit with rfl | rfl <;> rfl
theorem setlt (unit : BitVec 1) (m : Move) : Statement (.setlt unit m) := fun _ => by rcases bit_cases unit with rfl | rfl <;> rfl
theorem setltu (unit : BitVec 1) (m : Move) : Statement (.setltu unit m) := fun _ => by rcases bit_cases unit with rfl | rfl <;> rfl
theorem setle (unit : BitVec 1) (m : Move) : Statement (.setle unit m) := fun _ => by rcases bit_cases unit with rfl | rfl <;> rfl
theorem setleu (unit : BitVec 1) (m : Move) : Statement (.setleu unit m) := fun _ => by rcases bit_cases unit with rfl | rfl <;> rfl
theorem sel (unit : BitVec 1) (m : Move) : Statement (.sel unit m) := fun _ => by rcases bit_cases unit with rfl | rfl <;> rfl
theorem clz (unit : BitVec 1) (m : Move) : Statement (.clz unit m) := fun _ => by rcases bit_cases unit with rfl | rfl <;> rfl
theorem popc (unit : BitVec 1) (m : Move) : Statement (.popc unit m) := fun _ => by rcases bit_cases unit with rfl | rfl <;> rfl
theorem sext (unit : BitVec 1) (m : Move) : Statement (.sext unit m) := fun _ => by rcases bit_cases unit with rfl | rfl <;> rfl
theorem zext (unit : BitVec 1) (m : Move) : Statement (.zext unit m) := fun _ => by rcases bit_cases unit with rfl | rfl <;> rfl
theorem bfx (unit : BitVec 1) (m : Move) : Statement (.bfx unit m) := fun _ => by rcases bit_cases unit with rfl | rfl <;> rfl
theorem bfi (unit : BitVec 1) (m : Move) : Statement (.bfi unit m) := fun _ => by rcases bit_cases unit with rfl | rfl <;> rfl
theorem addw (unit : BitVec 1) (m : Move) : Statement (.addw unit m) := fun _ => by rcases bit_cases unit with rfl | rfl <;> rfl
theorem subw (unit : BitVec 1) (m : Move) : Statement (.subw unit m) := fun _ => by rcases bit_cases unit with rfl | rfl <;> rfl
theorem adds (unit : BitVec 1) (m : Move) : Statement (.adds unit m) := fun _ => by rcases bit_cases unit with rfl | rfl <;> rfl
theorem subs (unit : BitVec 1) (m : Move) : Statement (.subs unit m) := fun _ => by rcases bit_cases unit with rfl | rfl <;> rfl
theorem adds16 (unit : BitVec 1) (m : Move) : Statement (.adds16 unit m) := fun _ => by rcases bit_cases unit with rfl | rfl <;> rfl
theorem lea (unit : BitVec 1) (m : Move) : Statement (.lea unit m) := fun _ => by rcases bit_cases unit with rfl | rfl <;> rfl
theorem mul (m : Move) : Statement (.mul m) := fun _ => rfl
theorem mulhs (m : Move) : Statement (.mulhs m) := fun _ => rfl
theorem mulhu (m : Move) : Statement (.mulhu m) := fun _ => rfl
theorem mulw (m : Move) : Statement (.mulw m) := fun _ => rfl
theorem madd (m : Move) : Statement (.madd m) := fun _ => rfl
theorem div (m : Move) : Statement (.div m) := fun _ => rfl
theorem divu (m : Move) : Statement (.divu m) := fun _ => rfl
theorem rem (m : Move) : Statement (.rem m) := fun _ => rfl
theorem remu (m : Move) : Statement (.remu m) := fun _ => rfl
theorem fadd (m : Move) : Statement (.fadd m) := fun _ => rfl
theorem fsub (m : Move) : Statement (.fsub m) := fun _ => rfl
theorem fmul (m : Move) : Statement (.fmul m) := fun _ => rfl
theorem ffma (m : Move) : Statement (.ffma m) := fun _ => rfl
theorem fmin (m : Move) : Statement (.fmin m) := fun _ => rfl
theorem fmax (m : Move) : Statement (.fmax m) := fun _ => rfl
theorem fminnum (m : Move) : Statement (.fminnum m) := fun _ => rfl
theorem fmaxnum (m : Move) : Statement (.fmaxnum m) := fun _ => rfl
theorem fabs (m : Move) : Statement (.fabs m) := fun _ => rfl
theorem fneg (m : Move) : Statement (.fneg m) := fun _ => rfl
theorem fdiv (m : Move) : Statement (.fdiv m) := fun _ => rfl
theorem fsqrt (m : Move) : Statement (.fsqrt m) := fun _ => rfl
theorem fcmpeq (m : Move) : Statement (.fcmpeq m) := fun _ => rfl
theorem fcmplt (m : Move) : Statement (.fcmplt m) := fun _ => rfl
theorem fcmple (m : Move) : Statement (.fcmple m) := fun _ => rfl
theorem cvtif (m : Move) : Statement (.cvtif m) := fun _ => rfl
theorem cvtfi (m : Move) : Statement (.cvtfi m) := fun _ => rfl
theorem cvtfb (m : Move) : Statement (.cvtfb m) := fun _ => rfl
theorem cvtbf (m : Move) : Statement (.cvtbf m) := fun _ => rfl
theorem fclass (m : Move) : Statement (.fclass m) := fun _ => rfl
theorem ld8 (m : Move) : Statement (.ld8 m) := fun _ => rfl
theorem ld8s (m : Move) : Statement (.ld8s m) := fun _ => rfl
theorem ld16 (m : Move) : Statement (.ld16 m) := fun _ => rfl
theorem ld16s (m : Move) : Statement (.ld16s m) := fun _ => rfl
theorem ld32 (m : Move) : Statement (.ld32 m) := fun _ => rfl
theorem ld32s (m : Move) : Statement (.ld32s m) := fun _ => rfl
theorem ld64 (m : Move) : Statement (.ld64 m) := fun _ => rfl
theorem st8 (m : Move) : Statement (.st8 m) := fun _ => rfl
theorem st16 (m : Move) : Statement (.st16 m) := fun _ => rfl
theorem st32 (m : Move) : Statement (.st32 m) := fun _ => rfl
theorem st64 (m : Move) : Statement (.st64 m) := fun _ => rfl
theorem amoadd (m : Move) : Statement (.amoadd m) := fun _ => rfl
theorem amomin (m : Move) : Statement (.amomin m) := fun _ => rfl
theorem amomax (m : Move) : Statement (.amomax m) := fun _ => rfl
theorem amominu (m : Move) : Statement (.amominu m) := fun _ => rfl
theorem amomaxu (m : Move) : Statement (.amomaxu m) := fun _ => rfl
theorem amoand (m : Move) : Statement (.amoand m) := fun _ => rfl
theorem amoor (m : Move) : Statement (.amoor m) := fun _ => rfl
theorem amoxor (m : Move) : Statement (.amoxor m) := fun _ => rfl
theorem amoswap (m : Move) : Statement (.amoswap m) := fun _ => rfl
theorem amocas (m : Move) : Statement (.amocas m) := fun _ => rfl
theorem amofadd (m : Move) : Statement (.amofadd m) := fun _ => rfl
theorem amofmax (m : Move) : Statement (.amofmax m) := fun _ => rfl
theorem amofmin (m : Move) : Statement (.amofmin m) := fun _ => rfl
theorem amoadd64 (m : Move) : Statement (.amoadd64 m) := fun _ => rfl
theorem amoswap64 (m : Move) : Statement (.amoswap64 m) := fun _ => rfl
theorem amocas64 (m : Move) : Statement (.amocas64 m) := fun _ => rfl
theorem redadd (m : Move) : Statement (.redadd m) := fun _ => rfl
theorem redmin (m : Move) : Statement (.redmin m) := fun _ => rfl
theorem redmax (m : Move) : Statement (.redmax m) := fun _ => rfl
theorem redminu (m : Move) : Statement (.redminu m) := fun _ => rfl
theorem redmaxu (m : Move) : Statement (.redmaxu m) := fun _ => rfl
theorem redand (m : Move) : Statement (.redand m) := fun _ => rfl
theorem redor (m : Move) : Statement (.redor m) := fun _ => rfl
theorem redxor (m : Move) : Statement (.redxor m) := fun _ => rfl
theorem redfadd (m : Move) : Statement (.redfadd m) := fun _ => rfl
theorem redfmax (m : Move) : Statement (.redfmax m) := fun _ => rfl
theorem redfmin (m : Move) : Statement (.redfmin m) := fun _ => rfl
theorem redadd64 (m : Move) : Statement (.redadd64 m) := fun _ => rfl
theorem wge (m : Move) : Statement (.wge m) := fun _ => rfl
theorem wne (m : Move) : Statement (.wne m) := fun _ => rfl
theorem tgt (n : BitVec 2) (m : Move) : Statement (.tgt n m) := by
  intro _
  have h : ∀ k : BitVec 2, k = 0 ∨ k = 1 ∨ k = 2 ∨ k = 3 := by decide
  rcases h n with rfl | rfl | rfl | rfl <;> rfl
theorem peq (m : Move) : Statement (.peq m) := fun _ => rfl
theorem pne (m : Move) : Statement (.pne m) := fun _ => rfl
theorem plt (m : Move) : Statement (.plt m) := fun _ => rfl
theorem pltu (m : Move) : Statement (.pltu m) := fun _ => rfl
theorem ple (m : Move) : Statement (.ple m) := fun _ => rfl
theorem pleu (m : Move) : Statement (.pleu m) := fun _ => rfl
theorem pnot (m : Move) : Statement (.pnot m) := fun _ => rfl
theorem pand (m : Move) : Statement (.pand m) := fun _ => rfl
theorem por (m : Move) : Statement (.por m) := fun _ => rfl
theorem pdup (m : Move) : Statement (.pdup m) := fun _ => rfl
theorem ppop (m : Move) : Statement (.ppop m) := fun _ => rfl
theorem jmp (m : Move) : Statement (.jmp m) := fun _ => rfl
theorem jt (m : Move) : Statement (.jt m) := fun _ => rfl
theorem jf (m : Move) : Statement (.jf m) := fun _ => rfl
theorem jtn (m : Move) : Statement (.jtn m) := fun _ => rfl
theorem jfn (m : Move) : Statement (.jfn m) := fun _ => rfl
theorem call (m : Move) : Statement (.call m) := fun _ => rfl
theorem ret (m : Move) : Statement (.ret m) := fun _ => rfl
theorem loop (m : Move) : Statement (.loop m) := fun _ => rfl
theorem lstages (m : Move) : Statement (.lstages m) := fun _ => rfl
theorem lcnt (m : Move) : Statement (.lcnt m) := fun _ => rfl
theorem lstart (m : Move) : Statement (.lstart m) := fun _ => rfl
theorem lend (m : Move) : Statement (.lend m) := fun _ => rfl
theorem vany (m : Move) : Statement (.vany m) := fun _ => rfl
theorem vall (m : Move) : Statement (.vall m) := fun _ => rfl
theorem rdps (m : Move) : Statement (.rdps m) := fun _ => rfl
theorem wrps (m : Move) : Statement (.wrps m) := fun _ => rfl
theorem vmov (m : Move) : Statement (.vmov m) := fun _ => rfl
theorem vadd (m : Move) : Statement (.vadd m) := fun _ => rfl
theorem vsub (m : Move) : Statement (.vsub m) := fun _ => rfl
theorem vmul (m : Move) : Statement (.vmul m) := fun _ => rfl
theorem vmin (m : Move) : Statement (.vmin m) := fun _ => rfl
theorem vmax (m : Move) : Statement (.vmax m) := fun _ => rfl
theorem vminu (m : Move) : Statement (.vminu m) := fun _ => rfl
theorem vmaxu (m : Move) : Statement (.vmaxu m) := fun _ => rfl
theorem vand (m : Move) : Statement (.vand m) := fun _ => rfl
theorem vor (m : Move) : Statement (.vor m) := fun _ => rfl
theorem vxor (m : Move) : Statement (.vxor m) := fun _ => rfl
theorem vshl (m : Move) : Statement (.vshl m) := fun _ => rfl
theorem vshr (m : Move) : Statement (.vshr m) := fun _ => rfl
theorem vsar (m : Move) : Statement (.vsar m) := fun _ => rfl
theorem vadds16 (m : Move) : Statement (.vadds16 m) := fun _ => rfl
theorem vmin16 (m : Move) : Statement (.vmin16 m) := fun _ => rfl
theorem vmax16 (m : Move) : Statement (.vmax16 m) := fun _ => rfl
theorem vfadd (m : Move) : Statement (.vfadd m) := fun _ => rfl
theorem vfsub (m : Move) : Statement (.vfsub m) := fun _ => rfl
theorem vfmul (m : Move) : Statement (.vfmul m) := fun _ => rfl
theorem vffma (m : Move) : Statement (.vffma m) := fun _ => rfl
theorem vfmin (m : Move) : Statement (.vfmin m) := fun _ => rfl
theorem vfmax (m : Move) : Statement (.vfmax m) := fun _ => rfl
theorem vfexp2 (m : Move) : Statement (.vfexp2 m) := fun _ => rfl
theorem vflog2 (m : Move) : Statement (.vflog2 m) := fun _ => rfl
theorem vfrcp (m : Move) : Statement (.vfrcp m) := fun _ => rfl
theorem vfrsqrt (m : Move) : Statement (.vfrsqrt m) := fun _ => rfl
theorem vcvtf (m : Move) : Statement (.vcvtf m) := fun _ => rfl
theorem vcvti (m : Move) : Statement (.vcvti m) := fun _ => rfl
theorem vpack (m : Move) : Statement (.vpack m) := fun _ => rfl
theorem vunpack (m : Move) : Statement (.vunpack m) := fun _ => rfl
theorem vcmpeq (m : Move) : Statement (.vcmpeq m) := fun _ => rfl
theorem vcmplt (m : Move) : Statement (.vcmplt m) := fun _ => rfl
theorem vcmple (m : Move) : Statement (.vcmple m) := fun _ => rfl
theorem vfcmpeq (m : Move) : Statement (.vfcmpeq m) := fun _ => rfl
theorem vfcmplt (m : Move) : Statement (.vfcmplt m) := fun _ => rfl
theorem vfcmple (m : Move) : Statement (.vfcmple m) := fun _ => rfl
theorem vsel (m : Move) : Statement (.vsel m) := fun _ => rfl
theorem vperm (m : Move) : Statement (.vperm m) := fun _ => rfl
theorem vbcast (m : Move) : Statement (.vbcast m) := fun _ => rfl
theorem vextr (m : Move) : Statement (.vextr m) := fun _ => rfl
theorem vins (m : Move) : Statement (.vins m) := fun _ => rfl
theorem vredadd (m : Move) : Statement (.vredadd m) := fun _ => rfl
theorem vredmin (m : Move) : Statement (.vredmin m) := fun _ => rfl
theorem vredmax (m : Move) : Statement (.vredmax m) := fun _ => rfl
theorem vfredadd (m : Move) : Statement (.vfredadd m) := fun _ => rfl
theorem vfredmax (m : Move) : Statement (.vfredmax m) := fun _ => rfl
theorem vscan (m : Move) : Statement (.vscan m) := fun _ => rfl
theorem vmand (m : Move) : Statement (.vmand m) := fun _ => rfl
theorem vmor (m : Move) : Statement (.vmor m) := fun _ => rfl
theorem vmnot (m : Move) : Statement (.vmnot m) := fun _ => rfl
theorem vmpopc (m : Move) : Statement (.vmpopc m) := fun _ => rfl
theorem vld (m : Move) : Statement (.vld m) := fun _ => rfl
theorem vst (m : Move) : Statement (.vst m) := fun _ => rfl
theorem vldx (m : Move) : Statement (.vldx m) := fun _ => rfl
theorem vstx (m : Move) : Statement (.vstx m) := fun _ => rfl
theorem vldr (m : Move) : Statement (.vldr m) := fun _ => rfl
theorem vstr (m : Move) : Statement (.vstr m) := fun _ => rfl
theorem vlda (m : Move) : Statement (.vlda m) := fun _ => rfl
theorem vsta (m : Move) : Statement (.vsta m) := fun _ => rfl
theorem vacc (m : Move) : Statement (.vacc m) := fun _ => rfl
theorem vld8 (m : Move) : Statement (.vld8 m) := fun _ => rfl
theorem kcfg (m : Move) : Statement (.kcfg m) := fun _ => rfl
theorem kflow (m : Move) : Statement (.kflow m) := fun _ => rfl
theorem kswitch (m : Move) : Statement (.kswitch m) := fun _ => rfl
theorem kstart (m : Move) : Statement (.kstart m) := fun _ => rfl
theorem kdrain (m : Move) : Statement (.kdrain m) := fun _ => rfl
theorem kzero (m : Move) : Statement (.kzero m) := fun _ => rfl
theorem ksel (m : Move) : Statement (.ksel m) := fun _ => rfl
theorem kring (m : Move) : Statement (.kring m) := fun _ => rfl
theorem kpop (m : Move) : Statement (.kpop m) := fun _ => rfl
theorem cpy (m : Move) : Statement (.cpy m) := fun _ => rfl
theorem cpyt (m : Move) : Statement (.cpyt m) := fun _ => rfl
theorem cpyf (m : Move) : Statement (.cpyf m) := fun _ => rfl
theorem cfetch (m : Move) : Statement (.cfetch m) := fun _ => rfl
theorem cwp (m : Move) : Statement (.cwp m) := fun _ => rfl
theorem creset (m : Move) : Statement (.creset m) := fun _ => rfl
theorem sopen (m : Move) : Statement (.sopen m) := fun _ => rfl
theorem sisect (m : Move) : Statement (.sisect m) := fun _ => rfl
theorem sisectc (m : Move) : Statement (.sisectc m) := fun _ => rfl
theorem smerge (m : Move) : Statement (.smerge m) := fun _ => rfl
theorem sdiff (m : Move) : Statement (.sdiff m) := fun _ => rfl
theorem sread (m : Move) : Statement (.sread m) := fun _ => rfl
theorem swbind (m : Move) : Statement (.swbind m) := fun _ => rfl
theorem swfree (m : Move) : Statement (.swfree m) := fun _ => rfl
theorem epatch (m : Move) : Statement (.epatch m) := fun _ => rfl
theorem eload (m : Move) : Statement (.eload m) := fun _ => rfl
theorem erd (m : Move) : Statement (.erd m) := fun _ => rfl
theorem esave (m : Move) : Statement (.esave m) := fun _ => rfl
theorem erest (m : Move) : Statement (.erest m) := fun _ => rfl
theorem estep (m : Move) : Statement (.estep m) := fun _ => rfl
theorem eclk (m : Move) : Statement (.eclk m) := fun _ => rfl
theorem einc (m : Move) : Statement (.einc m) := fun _ => rfl
theorem ecnt (m : Move) : Statement (.ecnt m) := fun _ => rfl
theorem frd (m : Move) : Statement (.frd m) := fun _ => rfl
theorem fwr (m : Move) : Statement (.fwr m) := fun _ => rfl
theorem fwrrel (m : Move) : Statement (.fwrrel m) := fun _ => rfl
theorem fatom (m : Move) : Statement (.fatom m) := fun _ => rfl
theorem fmcred (m : Move) : Statement (.fmcred m) := fun _ => rfl
theorem fmcst (m : Move) : Statement (.fmcst m) := fun _ => rfl
theorem fgrp (m : Move) : Statement (.fgrp m) := fun _ => rfl
theorem fbar (m : Move) : Statement (.fbar m) := fun _ => rfl
theorem fstat (m : Move) : Statement (.fstat m) := fun _ => rfl
theorem nop (m : Move) : Statement (.nop m) := fun _ => rfl
theorem fmt (m : Move) : Statement (.fmt m) := fun _ => rfl
theorem csrr (m : Move) : Statement (.csrr m) := fun _ => rfl
theorem csrw (m : Move) : Statement (.csrw m) := fun _ => rfl
theorem fence (m : Move) : Statement (.fence m) := fun _ => rfl
theorem bar (m : Move) : Statement (.bar m) := fun _ => rfl
theorem trap (m : Move) : Statement (.trap m) := fun _ => rfl
theorem halt (m : Move) : Statement (.halt m) := fun _ => rfl
theorem cond (m : Move) : Statement (.cond m) := fun _ => rfl
theorem segend (m : Move) : Statement (.segend m) := fun _ => rfl
theorem tissue (m : Move) : Statement (.tissue m) := fun _ => rfl
theorem tstat (m : Move) : Statement (.tstat m) := fun _ => rfl
theorem tsc (m : Move) : Statement (.tsc m) := fun _ => rfl
theorem mark (m : Move) : Statement (.mark m) := fun _ => rfl

end Sys2Proof.Laws.SlotBack
end

