-- ==== Sys2Proof/Laws/State.lean ====
section
/-! SUPPORT. What each named update of the state leaves and what it sets, one lemma for each field. -/

namespace Sys2Proof.Machine

/-! ## A change of the core in focus -/

@[simp] theorem onCore_core (s : State) (f : Core → Core) : (s.onCore f).core = f s.core := rfl
@[simp] theorem onCore_focus (s : State) (f : Core → Core) : (s.onCore f).focus = s.focus := rfl
@[simp] theorem onCore_others (s : State) (f : Core → Core) : (s.onCore f).others = s.others := rfl
@[simp] theorem onCore_agenda (s : State) (f : Core → Core) : (s.onCore f).agenda = s.agenda := rfl
@[simp] theorem onCore_due (s : State) (f : Core → Core) : (s.onCore f).due = s.due := rfl
@[simp] theorem onCore_inbox (s : State) (f : Core → Core) : (s.onCore f).inbox = s.inbox := rfl
@[simp] theorem onCore_wall (s : State) (f : Core → Core) : (s.onCore f).wall = s.wall := rfl
@[simp] theorem onCore_ts (s : State) (f : Core → Core) : (s.onCore f).ts = s.ts := rfl
@[simp] theorem onCore_nReq (s : State) (f : Core → Core) : (s.onCore f).nReq = s.nReq := rfl
@[simp] theorem onCore_mem (s : State) (f : Core → Core) : (s.onCore f).mem = s.mem := rfl
@[simp] theorem onCore_tags (s : State) (f : Core → Core) : (s.onCore f).tags = s.tags := rfl
@[simp] theorem onCore_mod (s : State) (f : Core → Core) : (s.onCore f).mod = s.mod := rfl

/-! ## A change of the module -/

@[simp] theorem onMod_core (s : State) (f : Module → Module) : (s.onMod f).core = s.core := rfl
@[simp] theorem onMod_focus (s : State) (f : Module → Module) : (s.onMod f).focus = s.focus := rfl
@[simp] theorem onMod_others (s : State) (f : Module → Module) : (s.onMod f).others = s.others := rfl
@[simp] theorem onMod_agenda (s : State) (f : Module → Module) : (s.onMod f).agenda = s.agenda := rfl
@[simp] theorem onMod_due (s : State) (f : Module → Module) : (s.onMod f).due = s.due := rfl
@[simp] theorem onMod_inbox (s : State) (f : Module → Module) : (s.onMod f).inbox = s.inbox := rfl
@[simp] theorem onMod_wall (s : State) (f : Module → Module) : (s.onMod f).wall = s.wall := rfl
@[simp] theorem onMod_ts (s : State) (f : Module → Module) : (s.onMod f).ts = s.ts := rfl
@[simp] theorem onMod_nReq (s : State) (f : Module → Module) : (s.onMod f).nReq = s.nReq := rfl
@[simp] theorem onMod_mem (s : State) (f : Module → Module) : (s.onMod f).mem = s.mem := rfl
@[simp] theorem onMod_tags (s : State) (f : Module → Module) : (s.onMod f).tags = s.tags := rfl
@[simp] theorem onMod_mod (s : State) (f : Module → Module) : (s.onMod f).mod = f s.mod := rfl

/-! ## A change of the hub -/

@[simp] theorem onHub_core (s : State) (f : Hub → Hub) : (s.onHub f).core = s.core := rfl
@[simp] theorem onHub_focus (s : State) (f : Hub → Hub) : (s.onHub f).focus = s.focus := rfl
@[simp] theorem onHub_others (s : State) (f : Hub → Hub) : (s.onHub f).others = s.others := rfl
@[simp] theorem onHub_agenda (s : State) (f : Hub → Hub) : (s.onHub f).agenda = s.agenda := rfl
@[simp] theorem onHub_due (s : State) (f : Hub → Hub) : (s.onHub f).due = s.due := rfl
@[simp] theorem onHub_inbox (s : State) (f : Hub → Hub) : (s.onHub f).inbox = s.inbox := rfl
@[simp] theorem onHub_wall (s : State) (f : Hub → Hub) : (s.onHub f).wall = s.wall := rfl
@[simp] theorem onHub_ts (s : State) (f : Hub → Hub) : (s.onHub f).ts = s.ts := rfl
@[simp] theorem onHub_nReq (s : State) (f : Hub → Hub) : (s.onHub f).nReq = s.nReq := rfl
@[simp] theorem onHub_mem (s : State) (f : Hub → Hub) : (s.onHub f).mem = s.mem := rfl
@[simp] theorem onHub_tags (s : State) (f : Hub → Hub) : (s.onHub f).tags = s.tags := rfl
@[simp] theorem onHub_mod (s : State) (f : Hub → Hub) : (s.onHub f).mod = { s.mod with hub := f s.mod.hub } := rfl

/-! ## A change of the Flue island -/

@[simp] theorem onFlue_core (s : State) (f : Flue → Flue) : (s.onFlue f).core = s.core := rfl
@[simp] theorem onFlue_focus (s : State) (f : Flue → Flue) : (s.onFlue f).focus = s.focus := rfl
@[simp] theorem onFlue_others (s : State) (f : Flue → Flue) : (s.onFlue f).others = s.others := rfl
@[simp] theorem onFlue_agenda (s : State) (f : Flue → Flue) : (s.onFlue f).agenda = s.agenda := rfl
@[simp] theorem onFlue_due (s : State) (f : Flue → Flue) : (s.onFlue f).due = s.due := rfl
@[simp] theorem onFlue_inbox (s : State) (f : Flue → Flue) : (s.onFlue f).inbox = s.inbox := rfl
@[simp] theorem onFlue_wall (s : State) (f : Flue → Flue) : (s.onFlue f).wall = s.wall := rfl
@[simp] theorem onFlue_ts (s : State) (f : Flue → Flue) : (s.onFlue f).ts = s.ts := rfl
@[simp] theorem onFlue_nReq (s : State) (f : Flue → Flue) : (s.onFlue f).nReq = s.nReq := rfl
@[simp] theorem onFlue_mem (s : State) (f : Flue → Flue) : (s.onFlue f).mem = s.mem := rfl
@[simp] theorem onFlue_tags (s : State) (f : Flue → Flue) : (s.onFlue f).tags = s.tags := rfl
@[simp] theorem onFlue_mod (s : State) (f : Flue → Flue) : (s.onFlue f).mod = { s.mod with flue := f s.mod.flue } := rfl

/-! ## A change of the engines -/

@[simp] theorem onEng_core (s : State) (f : Engines → Engines) : (s.onEng f).core = { s.core with eng := f s.core.eng } := rfl
@[simp] theorem onEng_focus (s : State) (f : Engines → Engines) : (s.onEng f).focus = s.focus := rfl
@[simp] theorem onEng_others (s : State) (f : Engines → Engines) : (s.onEng f).others = s.others := rfl
@[simp] theorem onEng_agenda (s : State) (f : Engines → Engines) : (s.onEng f).agenda = s.agenda := rfl
@[simp] theorem onEng_due (s : State) (f : Engines → Engines) : (s.onEng f).due = s.due := rfl
@[simp] theorem onEng_inbox (s : State) (f : Engines → Engines) : (s.onEng f).inbox = s.inbox := rfl
@[simp] theorem onEng_wall (s : State) (f : Engines → Engines) : (s.onEng f).wall = s.wall := rfl
@[simp] theorem onEng_ts (s : State) (f : Engines → Engines) : (s.onEng f).ts = s.ts := rfl
@[simp] theorem onEng_nReq (s : State) (f : Engines → Engines) : (s.onEng f).nReq = s.nReq := rfl
@[simp] theorem onEng_mem (s : State) (f : Engines → Engines) : (s.onEng f).mem = s.mem := rfl
@[simp] theorem onEng_tags (s : State) (f : Engines → Engines) : (s.onEng f).tags = s.tags := rfl
@[simp] theorem onEng_mod (s : State) (f : Engines → Engines) : (s.onEng f).mod = s.mod := rfl

/-! ## Steps that become due -/

@[simp] theorem later_core (s : State) (l : List Instr) : (s.later l).core = s.core := rfl
@[simp] theorem later_focus (s : State) (l : List Instr) : (s.later l).focus = s.focus := rfl
@[simp] theorem later_others (s : State) (l : List Instr) : (s.later l).others = s.others := rfl
@[simp] theorem later_agenda (s : State) (l : List Instr) : (s.later l).agenda = s.agenda := rfl
@[simp] theorem later_due (s : State) (l : List Instr) : (s.later l).due = s.due ++ l := rfl
@[simp] theorem later_inbox (s : State) (l : List Instr) : (s.later l).inbox = s.inbox := rfl
@[simp] theorem later_wall (s : State) (l : List Instr) : (s.later l).wall = s.wall := rfl
@[simp] theorem later_ts (s : State) (l : List Instr) : (s.later l).ts = s.ts := rfl
@[simp] theorem later_nReq (s : State) (l : List Instr) : (s.later l).nReq = s.nReq := rfl
@[simp] theorem later_mem (s : State) (l : List Instr) : (s.later l).mem = s.mem := rfl
@[simp] theorem later_tags (s : State) (l : List Instr) : (s.later l).tags = s.tags := rfl
@[simp] theorem later_mod (s : State) (l : List Instr) : (s.later l).mod = s.mod := rfl

/-! ## A free value is drawn -/

@[simp] theorem takeReq_core (s : State) : (s.takeReq.2).core = s.core := rfl
@[simp] theorem takeReq_focus (s : State) : (s.takeReq.2).focus = s.focus := rfl
@[simp] theorem takeReq_others (s : State) : (s.takeReq.2).others = s.others := rfl
@[simp] theorem takeReq_agenda (s : State) : (s.takeReq.2).agenda = s.agenda := rfl
@[simp] theorem takeReq_due (s : State) : (s.takeReq.2).due = s.due := rfl
@[simp] theorem takeReq_inbox (s : State) : (s.takeReq.2).inbox = s.inbox := rfl
@[simp] theorem takeReq_wall (s : State) : (s.takeReq.2).wall = s.wall := rfl
@[simp] theorem takeReq_ts (s : State) : (s.takeReq.2).ts = s.ts := rfl
@[simp] theorem takeReq_nReq (s : State) : (s.takeReq.2).nReq = s.nReq + 1 := rfl
@[simp] theorem takeReq_mem (s : State) : (s.takeReq.2).mem = s.mem := rfl
@[simp] theorem takeReq_tags (s : State) : (s.takeReq.2).tags = s.tags := rfl
@[simp] theorem takeReq_mod (s : State) : (s.takeReq.2).mod = s.mod := rfl

@[simp] theorem takeReq_fst (s : State) : s.takeReq.1 = s.nReq := rfl

/-! ## A message to the host -/

@[simp] theorem raiseMsix_core (s : State) (v : Nat) : (s.raiseMsix v).core = s.core := rfl
@[simp] theorem raiseMsix_focus (s : State) (v : Nat) : (s.raiseMsix v).focus = s.focus := rfl
@[simp] theorem raiseMsix_others (s : State) (v : Nat) : (s.raiseMsix v).others = s.others := rfl
@[simp] theorem raiseMsix_agenda (s : State) (v : Nat) : (s.raiseMsix v).agenda = s.agenda := rfl
@[simp] theorem raiseMsix_due (s : State) (v : Nat) : (s.raiseMsix v).due = s.due := rfl
@[simp] theorem raiseMsix_inbox (s : State) (v : Nat) : (s.raiseMsix v).inbox = s.inbox := rfl
@[simp] theorem raiseMsix_wall (s : State) (v : Nat) : (s.raiseMsix v).wall = s.wall := rfl
@[simp] theorem raiseMsix_ts (s : State) (v : Nat) : (s.raiseMsix v).ts = s.ts := rfl
@[simp] theorem raiseMsix_nReq (s : State) (v : Nat) : (s.raiseMsix v).nReq = s.nReq := rfl
@[simp] theorem raiseMsix_mem (s : State) (v : Nat) : (s.raiseMsix v).mem = s.mem := rfl
@[simp] theorem raiseMsix_tags (s : State) (v : Nat) : (s.raiseMsix v).tags = s.tags := rfl
@[simp] theorem raiseMsix_mod (s : State) (v : Nat) : (s.raiseMsix v).mod = { s.mod with host := s.mod.host.raise v } := rfl

/-! ## The event log -/

@[simp] theorem logEvent_core (s : State) (k : Nat) (p : List Nat) : (s.logEvent k p).core = s.core := rfl
@[simp] theorem logEvent_mem (s : State) (k : Nat) (p : List Nat) : (s.logEvent k p).mem = s.mem := rfl
@[simp] theorem logEvent_others (s : State) (k : Nat) (p : List Nat) : (s.logEvent k p).others = s.others := rfl
@[simp] theorem logEvent_tags (s : State) (k : Nat) (p : List Nat) : (s.logEvent k p).tags = s.tags := rfl
@[simp] theorem logEvent_due (s : State) (k : Nat) (p : List Nat) : (s.logEvent k p).due = s.due := rfl
@[simp] theorem logEvent_evw (s : State) (k : Nat) (p : List Nat) : (s.logEvent k p).mod.hub.evw = s.mod.hub.evw + 1 := rfl

/-! ## Cores by index -/

@[simp] theorem coreAt_focus (s : State) : s.coreAt s.focus = s.core := by simp [State.coreAt]

/-- A core that is not in focus keeps its place in the list of the others. -/
theorem setCore_focus (s : State) (c : Core) : s.setCore s.focus c = { s with core := c } := by simp [State.setCore]

@[simp] theorem setCore_mem (s : State) (i : Nat) (c : Core) : (s.setCore i c).mem = s.mem := by
  unfold State.setCore; split <;> rfl

@[simp] theorem setCore_mod (s : State) (i : Nat) (c : Core) : (s.setCore i c).mod = s.mod := by
  unfold State.setCore; split <;> rfl

@[simp] theorem setCore_tags (s : State) (i : Nat) (c : Core) : (s.setCore i c).tags = s.tags := by
  unfold State.setCore; split <;> rfl

@[simp] theorem setCore_focusIdx (s : State) (i : Nat) (c : Core) : (s.setCore i c).focus = s.focus := by
  unfold State.setCore; split <;> rfl

end Sys2Proof.Machine
end

