-- ==== Sys2Proof/Laws/Slot.lean ====
section
/-! SUPPORT. The shared operations behind slot moves: each says once what it can do. -/

namespace Sys2Proof.Machine

/-! ## The frame of a slot move -/

/-- What a slot move can come to (R170, R181, R354). -/
theorem slotMove_cases (unit : Nat) (cls : PortClass) (fu : Bool) (m : Move) (s : State) (body : Except Exc State) :
    (∃ r, m.src.bad cls = some r ∧ slotMove unit cls fu m s body = .next (s.take (.fault .illegalSlot r.code 0 0) unit)) ∨
    (m.src.bad cls = none ∧ s.core.guardPass m.guard = false ∧ slotMove unit cls fu m s body = .next s) ∨
    (m.src.bad cls = none ∧ s.core.guardPass m.guard = true ∧ ∃ e, body = .error e ∧ slotMove unit cls fu m s body = .next (s.take e unit)) ∨
    (m.src.bad cls = none ∧ s.core.guardPass m.guard = true ∧ (∃ t, body = .ok t) ∧ ∃ e, s.core.scoreboard cls m.src fu = some e ∧
      slotMove unit cls fu m s body = .next (s.take e unit)) ∨
    (Fires s cls fu m ∧ ∃ t, body = .ok t ∧ slotMove unit cls fu m s body = .next t) := by
  unfold slotMove
  cases hl : m.src.bad cls with
  | some r => exact .inl ⟨r, rfl, rfl⟩
  | none =>
    cases hg : s.core.guardPass m.guard with
    | false => exact .inr (.inl ⟨rfl, rfl, by simp⟩)
    | true =>
      cases hb : body with
      | error e => exact .inr (.inr (.inl ⟨rfl, rfl, e, rfl, by simp⟩))
      | ok t =>
        cases hc : s.core.scoreboard cls m.src fu with
        | some e => exact .inr (.inr (.inr (.inl ⟨rfl, rfl, ⟨t, rfl⟩, e, rfl, by simp⟩)))
        | none => exact .inr (.inr (.inr (.inr ⟨⟨hl, hg, hc⟩, t, rfl, by simp⟩)))

/-- A move that fires takes its effect. -/
theorem slotMove_acts {unit : Nat} {cls : PortClass} {fu : Bool} {m : Move} {s t : State} {body : Except Exc State}
    (h : Fires s cls fu m) (hb : body = .ok t) : slotMove unit cls fu m s body = .next t := by
  simp [slotMove, h.legal, h.guard, h.clear, hb]

/-- A move whose guard fails leaves everything (R170). -/
theorem slotMove_skips {unit : Nat} {cls : PortClass} {fu : Bool} {m : Move} {s : State} {body : Except Exc State}
    (hl : m.src.bad cls = none) (hg : s.core.guardPass m.guard = false) : slotMove unit cls fu m s body = .next s := by
  simp [slotMove, hl, hg]

/-- A move with an illegal source faults whatever its guard (R181). -/
theorem slotMove_illegal {unit : Nat} {cls : PortClass} {fu : Bool} {m : Move} {s : State} {body : Except Exc State} {r : Malformed}
    (hl : m.src.bad cls = some r) : slotMove unit cls fu m s body = .next (s.take (.fault .illegalSlot r.code 0 0) unit) := by
  simp [slotMove, hl]

/-- A move whose trigger ends in an exception takes it. -/
theorem slotMove_takes {unit : Nat} {cls : PortClass} {fu : Bool} {m : Move} {s : State} {body : Except Exc State} {e : Exc}
    (hl : m.src.bad cls = none) (hg : s.core.guardPass m.guard = true) (hb : body = .error e) :
    slotMove unit cls fu m s body = .next (s.take e unit) := by
  simp [slotMove, hl, hg, hb]

/-- A precise fault stops with its record. -/
theorem take_fault_stops (s : State) (cause : Cause) (reason faddr finfo unit : Nat) :
    StopsWith s (s.take (.fault cause reason faddr finfo) unit) cause reason faddr finfo := rfl

/-! ## Results in flight -/

theorem inFlight_append (now : Nat) (l k : List Pend) : inFlight now (l ++ k) = inFlight now l + inFlight now k := by
  simp [inFlight, List.map_append, List.sum_append]

/-- One result enters when there is room. -/
theorem issue1_room {s : State} {unit lat : Nat} {act : PendAct} {fl : BitVec 7} (hl : 0 < lat) (h : Room s act.weight) :
    s.issue1 unit lat act fl = .ok (s.sent unit [(lat, act, fl)]) := by
  have hn : ¬ 48 < inFlight s.core.tcc s.core.pend + act.weight := by unfold Room at h; omega
  simp [State.issue1, State.issue, inFlight_append, State.sent, Core.here, State.onCore]
  have : inFlight s.core.tcc [(⟨s.core.tcc + lat, s.core.seq, unit, act, fl, ⟨unit, s.core.slot, s.core.cur.idx, s.core.tcc⟩⟩ : Pend)] = act.weight := by
    simp [inFlight, hl]
  rw [this]
  simpa using hn

theorem result_room {s : State} {unit lat : Nat} {v : W64} {fl : BitVec 7} (hl : 0 < lat) (h : Room s 1) :
    s.result unit lat v fl = .ok (s.sentScalar unit lat v fl) := issue1_room hl h

theorem queueResult_room {s : State} {unit lat : Nat} {v : W64} {fl : BitVec 7} (hl : 0 < lat) (h : Room s 1) :
    s.queueResult unit lat v fl = .ok (s.sentQueue unit lat v fl) := issue1_room hl h

theorem vectorResult_room {s : State} {unit lat : Nat} {v : VReg} {fl : BitVec 7} (hl : 0 < lat) (h : Room s 1) :
    s.vectorResult unit lat v fl = .ok (s.sentVector unit lat v fl) := issue1_room hl h

/-- With the queue of results full a result faults with INFLIGHT (R361). -/
theorem issue1_full {s : State} {unit lat : Nat} {act : PendAct} {fl : BitVec 7} (hl : 0 < lat) (h : ¬ Room s act.weight) :
    s.issue1 unit lat act fl = .error (.of .inflight) := by
  have hn : 48 < inFlight s.core.tcc s.core.pend + act.weight := by unfold Room at h; omega
  simp [State.issue1, State.issue, inFlight_append, Core.here]
  have : inFlight s.core.tcc [(⟨s.core.tcc + lat, s.core.seq, unit, act, fl, ⟨unit, s.core.slot, s.core.cur.idx, s.core.tcc⟩⟩ : Pend)] = act.weight := by
    simp [inFlight, hl]
  rw [this]
  simp [hn]

/-! ## Banks -/

/-- Free rows are booked. -/
theorem book_free {s : State} {unit store lat : Nat} {write : Bool} {offs : List Nat} (h : BanksFree s store lat write offs) :
    s.book unit store lat write offs = .ok (s.booked unit store lat write offs) := by
  unfold State.book
  have hn : ((offs.map (bankOf store)).dedup.map fun (x : Nat × Nat) =>
      (⟨s.core.tcc + lat, store, x.1, x.2, write, unit, s.core.slot, s.core.bundle⟩ : Booking)).findSome? (fun b =>
        (s.core.banks.find? fun o => o.bundle == s.core.bundle && o.slot != s.core.slot && o.slot < 4 && Booking.clash o b).map fun o => (o, b)) = none := by
    rw [List.findSome?_eq_none_iff]
    intro b hb
    simp only [List.mem_map, List.mem_dedup] at hb
    obtain ⟨x, ⟨off, hoff, rfl⟩, rfl⟩ := hb
    simp only [Option.map_eq_none_iff, List.find?_eq_none]
    intro o ho
    simp only [Booking.clash, Bool.and_eq_true, beq_iff_eq, bne_iff_ne, decide_eq_true_eq, Bool.or_eq_true, not_and, not_or, Bool.not_eq_true]
    intro h1
    obtain ⟨⟨hbu, hsl⟩, h4⟩ := h1
    intro h2
    obtain ⟨⟨ht, hst⟩, hbk⟩ := h2
    have := h o ho off hoff hbu hsl h4 ht hst hbk
    exact ⟨not_not.mpr this.1, by simpa using this.2⟩
  simp only [hn]
  rfl

/-- Quiet bytes pass both checks of a read. -/
theorem copyCheck_quiet {s : State} {store : Nat} {rs : List (Nat × Nat)} (h : Quiet s store rs) : s.copyCheck store rs = .ok () := by
  simp [State.copyCheck, h.copy]

end Sys2Proof.Machine
end

