-- ==== Sys2Proof/Tests/Slice0.lean ====
section
/-! SUPPORT. Tests of the model, and a witness for the hypotheses of each statement. The words of the decode tests are written out from
R167 to R177 and the port tables; expected results are worked out from the rule that a test's comment names. -/

namespace Sys2Proof.Tests
set_option Elab.async false
open Sys2Proof.Machine Sys2Proof.Manual

/-! ## Small states -/

/-- A move of an immediate. -/
def im (v : BitVec 25) : Move := ⟨.always, .imm v⟩
/-- A move of the newest queue entry. -/
def qu : Move := ⟨.always, .queue 0⟩

/-- A core that runs a one-core task in bundles 4 to 15, at bundle 5 of cycle 100. -/
def core0 : Core :=
  { Core.zero with
    mode := .run, task := { Task.none with spUnits := 64, accUnits := 128, launchId := 1 }
    seg := ⟨1, 4, 15, none⟩,
    cur := Pos.plain 5, tcc := 100, scc := 100, cycleOpen := true }
/-- The module after boot with one core, nothing due. -/
def on (c : Core) : State :=
  { State.reset with core := c, due := [], mod := { Module.reset with hub := { Hub.reset with dies := 15, bootMode := 3 } } }
/-- The module with `core0`. -/
def base : State := on core0

/-- The core with operand ports of a unit. -/
def ports (u : Nat) (xs : List (Nat × W64)) (c : Core) : Core :=
  { c with regs := { c.regs with sPort := xs.foldl (fun v x => vset v (8 * u + x.1) x.2) c.regs.sPort } }
/-- The core with its newest queue entry. -/
def top (v : W64) (c : Core) : Core := { c with regs := { c.regs with sq := vset c.regs.sq 0 v } }
/-- The core with bytes in its scratchpad. -/
def words (off : Nat) (ws : List Nat) (c : Core) : Core :=
  { c with sp := ws.zipIdx.foldl (fun m x => wrLE m (off + 8 * x.2) 8 x.1) c.sp }

/-- A fact about the next state. -/
def next (o : Out) (p : State → Bool) : Bool :=
  match o with
  | .next t => p t
  | _ => false

theorem banksFree_nil {s : State} {store lat : Nat} {w : Bool} {offs : List Nat} (h : s.core.banks = []) : BanksFree s store lat w offs := by
  intro o ho; rw [h] at ho; cases ho

/-- What Fires asks, as one check. -/
def fires (s : State) (cls : PortClass) (f : Bool) (m : Move) : Bool :=
  m.src.bad cls == none && s.core.guardPass m.guard && (s.core.scoreboard cls m.src f).isNone

theorem fires_of {s : State} {cls : PortClass} {f : Bool} {m : Move} (h : fires s cls f m = true) : Fires s cls f m := by
  simp only [fires, Bool.and_eq_true, beq_iff_eq, Option.isNone_iff_eq_none] at h
  exact ⟨h.1.1, h.1.2, h.2⟩

/-! ## Well-formedness: a term that each check refuses (R14, R171, R173, R177, R191) -/

theorem test_ill_formed_port0 : (Instr.port0Discard 8 (im 0)).wellFormed = false ∧ (Instr.port0Discard 15 (im 0)).wellFormed = false := by decide
theorem test_ill_formed_operand_port : (Instr.operandPortMove 5 3 (im 0)).wellFormed = false := by decide
theorem test_ill_formed_nreg : (Instr.nregWrite 48 (im 0)).wellFormed = false := by decide
theorem test_ill_formed_latch : (Instr.add 0 ⟨.always, .latch 6⟩).wellFormed = false ∧ (Instr.vadd ⟨.always, .latch 0⟩).wellFormed = false := by decide
theorem test_ill_formed_queue : (Instr.vadd ⟨.always, .queue 8⟩).wellFormed = false ∧ (Instr.vadd ⟨.always, .queue 7⟩).wellFormed = true := by decide
theorem test_ill_formed_named : (Instr.add 0 ⟨.always, .named 48⟩).wellFormed = false ∧ (Instr.add 0 ⟨.always, .named 64⟩).wellFormed = false := by decide
theorem test_ill_formed_class : (Instr.add 0 ⟨.always, .named 32⟩).wellFormed = false ∧ (Instr.vadd ⟨.always, .named 31⟩).wellFormed = false := by decide
theorem test_ill_formed_guard : (Instr.add 0 ⟨.stage 1, .imm 5⟩).wellFormed = false ∧ (Instr.add 0 ⟨.stage 1, .queue 0⟩).wellFormed = true := by decide

/-! ## Decoding: guard, unit, port, level, payload, bit by bit (R169, R171) and the port maps -/

theorem test_decode_add : decodeTableWord 32 0b00_0001_001001_11_000000000000000101 = some (.add 1 (im 5)) := by decide +kernel
theorem test_decode_div : decodeTableWord 32 0b01_0010_001101_01_000000000000000011 = some (.div ⟨.ifTrue, .queue 3⟩) := by decide +kernel
theorem test_decode_fadd : decodeTableWord 32 0b10_0011_001000_00_000000000000000010 = some (.fadd ⟨.ifFalse, .latch 2⟩) := by decide +kernel
theorem test_decode_ld8 : decodeTableWord 32 0b00_0100_001000_10_000000000000000111 = some (.ld8 ⟨.always, .named 7⟩) := by decide +kernel
theorem test_decode_ret : decodeTableWord 32 0b00_0101_011101_00_000000000000000000 = some (.ret ⟨.always, .latch 0⟩) := by decide +kernel
theorem test_decode_vadd : decodeTableWord 32 0b11_0110_001001_10_000000000000100011 = some (.vadd ⟨.stage 0, .named 35⟩) := by decide +kernel
theorem test_decode_vld : decodeTableWord 32 0b00_0111_001000_11_111111111111000000 = some (.vld (im 0x1FFFFC0)) := by decide +kernel
theorem test_decode_nreg : decodeTableWord 32 0b00_1000_111000_01_000000000000001111 = some (.nregWrite 56 ⟨.always, .queue 15⟩) := by decide +kernel
theorem test_decode_kcfg : decodeTableWord 32 0b00_1001_001000_11_000001000000000000 = some (.kcfg (im 0x1000)) := by decide +kernel
theorem test_decode_cpy : decodeTableWord 32 0b00_1010_001000_11_000001000000000000 = some (.cpy (im 0x1000)) := by decide +kernel
theorem test_decode_sopen : decodeTableWord 32 0b00_1011_001000_11_000001000000000000 = some (.sopen (im 0x1000)) := by decide +kernel
theorem test_decode_eload : decodeTableWord 32 0b00_1100_001001_11_000001000000000000 = some (.eload (im 0x1000)) := by decide +kernel
theorem test_decode_frd : decodeTableWord 32 0b00_1101_001000_11_000001000000000000 = some (.frd (im 0x1000)) := by decide +kernel
theorem test_decode_fence : decodeTableWord 32 0b00_1110_001100_11_000000000000001110 = some (.fence (im 14)) := by decide +kernel
theorem test_decode_operand : decodeTableWord 32 0b00_0000_000001_10_000000000000000110 = some (.operandPortMove 0 1 ⟨.always, .named 6⟩) := by decide +kernel
theorem test_decode_zero_word : decodeTableWord 32 0 = some (.port0Discard 0 ⟨.always, .latch 0⟩) := by decide +kernel
theorem test_decode_refused : decodeTableWord 32 0b00_0000_111111_00_000000000000000000 = none ∧
    decodeTableWord 32 0b00_0000_001001_00_000000000000010000 = none ∧ decodeTableWord 32 0b00_1111_000000_00_000000000000000000 = none := by decide +kernel
/-- The bundle that R167's listing decodes as `n6 -> alu0.a | #STEP -> alu0.add | ?s3 q1 -> n7`: STEP needs the extension 3. -/
theorem test_decode_extended : decodeSlot true 3 0b00_0000_001001_11_110100001001000000 = .ok (.add 0 (im 1000000)) ∧
    decodeSlot true 3 0b11_1000_000111_01_000000000000000001 = .ok (.nregWrite 7 ⟨.stage 3, .queue 1⟩) := by decide +kernel

/-! ## One step: results worked out from the rules -/

/-- What the step put in flight: latency, action, flags. -/
def sends (o : Out) (l : List (Nat × PendAct × BitVec 7)) : Bool :=
  next o fun t => (t.core.pend.map fun p => (p.tcc - t.core.tcc, p.act, p.flags)) == l

/-- The step stops its slot with a cause. -/
def stopped (o : Out) (c : Cause) : Bool :=
  next o fun t => t.core.mode == .stopping && (t.core.stop.map (·.cause)) == some (some c)

/-- R199: the sum wraps at 2^64. -/
theorem test_add_wraps : sends (exec (.add 0 (im 1)) (on (ports 0 [(1, 0xFFFFFFFFFFFFFFFF)] core0))) [(1, .scalar true (some 0), 0)] := by decide +kernel
/-- R199: sh is t[5:0], so a shift by 64 moves nothing. -/
theorem test_shl_masks : sends (exec (.shl 1 (im 64)) (on (ports 1 [(1, 3)] core0))) [(1, .scalar true (some 3), 0)] := by decide +kernel
/-- R199: -5 shifted right by 1 rounds toward minus infinity. -/
theorem test_sar_sign : sends (exec (.sar 0 (im 1)) (on (ports 0 [(1, -5)] core0))) [(1, .scalar true (some (-3)), 0)] := by decide +kernel
/-- R200: bits 11:6 of t hold the width minus 1. -/
theorem test_bfx_field : sends (exec (.bfx 0 (im 0b000011_000100)) (on (ports 0 [(1, 0xABCD)] core0))) [(1, .scalar true (some 0xC), 0)] := by decide +kernel
/-- R199: clz of 0 is 64. -/
theorem test_clz_zero : sends (exec (.clz 0 (im 0)) base) [(1, .scalar true (some 64), 0)] := by decide +kernel
/-- R199: the signed sum saturates at 2^63 - 1. -/
theorem test_adds_saturates : sends (exec (.adds 0 (im 1)) (on (ports 0 [(1, 0x7FFFFFFFFFFFFFFF)] core0)))
    [(1, .scalar true (some 0x7FFFFFFFFFFFFFFF), 0)] := by decide +kernel
/-- R202: -2^63 divided by -1 gives -2^63, and the unit is busy to the 32nd cycle. -/
theorem test_div_corner : let o := exec (.div (im (-1))) (on (ports 2 [(1, 0x8000000000000000)] core0))
    sends o [(34, .scalar true (some 0x8000000000000000), 0)] ∧ next o (fun t => t.core.mulBusy == 132) := by decide +kernel
/-- R202: a remainder by 0 is the dividend. -/
theorem test_rem_zero : sends (exec (.rem (im 0)) (on (ports 2 [(1, 7)] core0))) [(34, .scalar true (some 7), 0)] := by decide +kernel
/-- R201: the high half of (2^64 - 1)^2 is 2^64 - 2. -/
theorem test_mulhu_high : sends (exec (.mulhu (im (-1))) (on (ports 2 [(1, -1)] core0))) [(3, .scalar true (some 0xFFFFFFFFFFFFFFFE), 0)] := by decide +kernel
/-- R204, IEEE 754: 1.0 + 2^-24 is a tie that goes to the even 1.0, inexact. -/
theorem test_fadd_tie : sends (exec (.fadd qu) (on (top 0x33800000 (ports 3 [(1, 0x3F800000)] core0)))) [(4, .scalar true (some 0x3F800000), 1)] := by decide +kernel
/-- R204: 1/0 is infinite, with DZ. -/
theorem test_fdiv_zero : sends (exec (.fdiv (im 0)) (on (ports 3 [(1, 0x3F800000)] core0))) [(16, .scalar true (some 0x7F800000), 8)] := by decide +kernel
/-- R208: the class of minus zero is bit 3. -/
theorem test_fclass_zero : sends (exec (.fclass qu) (on (top 0x80000000 core0))) [(4, .scalar true (some 8), 0)] := by decide +kernel
/-- R233: ld16s extends the sign of bytes 80 FF, lowest first. -/
theorem test_ld16s_sign : sends (exec (.ld16s qu) (on (top (BitVec.ofNat 64 (spBase + 0x1000)) (words 0x1000 [0xFF80] core0))))
    [(5, .scalar true (some (-128)), 0)] := by decide +kernel
/-- R229: a 4-byte store at an odd address is misaligned. -/
theorem test_st32_align : stopped (exec (.st32 qu) (on (top (BitVec.ofNat 64 (spBase + 0x1001)) core0))) .align := by decide +kernel
/-- R237: the word 5 is not below 5. -/
theorem test_wge_equal : next (exec (.wge qu) (on (top (BitVec.ofNat 64 (spBase + 0x1000)) (ports 4 [(3, 5)] (words 0x1000 [5] core0)))))
    (fun t => t.core.wait == none) := by decide +kernel
/-- R216: a taken jmp issues the next two positions, then its target, bundle 4. -/
theorem test_jmp_delay : next (exec (.jmp (im 0)) (on { core0 with regs := { core0.regs with b := vset core0.regs.b 0 64 } }))
    (fun t => (t.core.fq.map (·.idx)) == [6, 7, 4]) := by decide +kernel
/-- R211: a seventeenth push overflows. -/
theorem test_peq_overflow : stopped (exec (.peq (im 0)) (on { core0 with pstack := List.replicate 16 true })) .pstackOver := by decide +kernel
/-- R221: a zero count makes no level: the bundle after the body follows the two delay bundles. -/
theorem test_loop_zero : next (exec (.loop (im 0)) (on { core0 with loops := { core0.loops with pendFirst := 8, pendLast := 9 } }))
    (fun t => (t.core.fq.map (·.idx)) == [6, 7, 10] && t.core.pend.isEmpty) := by decide +kernel
/-- R247: lanes wrap one by one: 0xFFFFFFFF + 1. -/
theorem test_vadd_wraps : sends (exec (.vadd (im 1)) (on { core0 with regs := { core0.regs with vPort := vset core0.regs.vPort 0 (vsplat 0xFFFFFFFF) } }))
    [(2, .vector 0, 0)] := by decide +kernel
/-- R247: 32767 + 1 saturates in the low half, 0 + 0 in the high half. -/
theorem test_vadds16_saturates : sends (exec (.vadds16 (im 1)) (on { core0 with regs := { core0.regs with vPort := vset core0.regs.vPort 0 (vsplat 0x7FFF) } }))
    [(2, .vector (vsplat 0x7FFF), 0)] := by decide +kernel
/-- R254: lanes equal to 0 set their bit; the result reaches the queue alone. -/
theorem test_vcmpeq_mask : sends (exec (.vcmpeq (im 0)) base) [(2, .scalar false (some (-1)), 0)] := by decide +kernel
/-- R255: two of three lanes take part: 5 + 5. -/
theorem test_vredadd_mask : sends (exec (.vredadd (im 5)) (on (ports 6 [(3, 3)] core0))) [(6, .scalar false (some 10), 0)] := by decide +kernel
/-- R239: lane 1 of a vector load is the second word. -/
theorem test_vld_lane : next (exec (.vld qu) (on (top (BitVec.ofNat 64 (spBase + 0x1000)) (words 0x1000 [0x700000003] core0))))
    (fun t => (t.core.pend.map fun p => (p.tcc - t.core.tcc, match p.act with | .vector v => (lane v 0, lane v 1) | _ => (0, 0))) == [(6, 3, 7)]) := by
  decide +kernel
/-- R191: a write of n0 goes nowhere. -/
theorem test_nreg_zero : sends (exec (.nregWrite 0 (im 7)) base) [] := by decide +kernel
/-- R325: a read-only register. -/
theorem test_csrw_readonly : stopped (exec (.csrw (im 1)) base) .csrRo := by decide +kernel
/-- R327: a fence of kind 0. -/
theorem test_fence_bad : stopped (exec (.fence (im 2)) base) .fenceBad := by decide +kernel
/-- R277: START 15 cycles after issue is too late: TIMING. -/
theorem test_kzero_lead : stopped (exec (.kzero (im 0x1000)) (on (words 0x1000 [115 * 65536 + 13, 1] core0))) .timing := by decide +kernel
/-- R287: 16 cycles after issue is not. -/
theorem test_kzero_enters : next (exec (.kzero (im 0x1000)) (on (words 0x1000 [116 * 65536 + 13, 1] core0)))
    (fun t => (t.core.eng.kiln.zeros.map fun z => (z.start, z.regs, z.quad)) == [(116, 1, none)]) := by decide +kernel
/-- R296: channel 2 does not exist. -/
theorem test_cwp_channel : stopped (exec (.cwp (im 0)) (on (ports 10 [(1, 2)] core0))) .cpyChan := by decide +kernel
/-- R297: sopen sets its slot at once. -/
theorem test_sopen_sets : next (exec (.sopen (im 0x1000)) (on (words 0x1000 [8, 3, spBase + 0x2000, 5] core0)))
    (fun t => t.core.eng.slots == [(3, ⟨spBase + 0x2000, 5⟩)]) := by decide +kernel
/-- R143: Y = 2^31 on a source with N = 1 carries the residue to Z = 1 at R = -2^31. -/
theorem test_domain_step : next (exec (.domainStep 0) (on { core0 with
    eng := { Engines.zero with ember := { Ember.zero with
      cells := [(0, ⟨2 ^ 30, 2 ^ 30, 0, 0⟩)], patch := [(0, BitVec.ofNat 64 (256 + 1 * 2 ^ 9 + 1 * 2 ^ 59))], lines := [(0, ⟨1, true, 0⟩)]
      doms := Vector.replicate 4 ⟨.counted 1, 0⟩ } } }))
    (fun t => t.core.eng.ember.cells == [(0, ⟨2 ^ 30, -2 ^ 31, 1, 1⟩)]) := by decide +kernel
/-- R309: a failure sets bit 63 and the code, and keeps the count. -/
theorem test_completion_word : completeWord 5 3 = 2 ^ 63 + 3 * 2 ^ 48 + 5 ∧ completeWord 5 0 = 6 ∧ completeWord (2 ^ 63 + 5) 3 = 2 ^ 63 + 5 := by decide
/-- R113: a read of what another core wrote in the same generation and has not published is a race. -/
theorem test_race_row : raceCheck (BitVec.ofNat 18 (7 * 256 + 4 * 1)) 8 1 false = .error .raceRw ∧
    raceCheck (BitVec.ofNat 18 (7 * 256 + 4 * 1 + 2)) 8 1 false = .ok (BitVec.ofNat 18 (8 * 256 + 4 * 1 + 1)) := by decide +kernel
/-- A word placed for fetch runs on the very next step. -/
theorem test_fetch_runs : next (step (State.reset.withFetchWord 32 0b00_1110_010000_11_000000000000000101))
    (fun t => (t.core.pend.map (·.act)) == [.cond 5]) := by decide +kernel

/-! ## Witnesses: states and operands that meet the hypotheses of the statements, clause by clause -/

theorem fires_im {c : Core} (cls : PortClass) (f : Bool) (v : BitVec 25) (h : c.schedCtl = 0) : Fires (on c) cls f (im v) :=
  ⟨rfl, rfl, by simp [Core.scoreboard, on, h]⟩

theorem fires_qu {c : Core} (f : Bool) (h : c.schedCtl = 0) : Fires (on c) .scalar f qu :=
  ⟨rfl, rfl, by simp [Core.scoreboard, on, h]⟩

theorem room_on {c : Core} {n : Nat} (h : c.pend = []) (hn : n ≤ 48) : Room (on c) n := by
  simp [Room, on, h, inFlight]; exact hn

theorem quiet_of {s : State} {store : Nat} {rs : List (Nat × Nat)} (h1 : (s.core.copyLate (coreDie s.focus) store rs).isNone = true)
    (h2 : (match s.sbmRanges store rs with | .ok _ => true | .error _ => false) = true) : Quiet s store rs := by
  refine ⟨Option.isNone_iff_eq_none.mp h1, ?_⟩
  revert h2; cases s.sbmRanges store rs <;> simp

/-- A core whose slot `qu` names an address. -/
def at_ (a : Nat) (c : Core) : State := on (top (BitVec.ofNat 64 a) c)
/-- A leaf over global memory. -/
def leaf0 : Leaf := ⟨0, 0, 0x200000, 0x100000, true, true, false⟩

/-! ### Commands -/

/-- The core with a descriptor at 0x1000. -/
def withDesc (d : List Nat) (c : Core) : State := on (words 0x1000 d c)

/-- What Reads asks beside the bank, as one check. -/
def reads (s : State) (unit port : Nat) (defined : List Nat) (t : W64) (d : List Nat) : Bool :=
  decide (t.toNat < 0x400000) && decide (t.toNat % 64 = 0) && s.core.task.spOk t.toNat 64 &&
  (s.core.copyLate (coreDie s.focus) 0 [(t.toNat, 64)]).isNone && (d == (List.range 8).map fun w => rdLE s.core.sp (t.toNat + 8 * w) 8) &&
  decide (word d 0 % 2 ^ 8 = port) && decide (bits (word d 0) 15 11 = 0) && decide (unit = 9 ∨ unit = 12 → bits (word d 0) 10 8 = 0) &&
  (List.range 7).all fun k => Nat.land (word d (k + 1)) (defined.getD k 0) == word d (k + 1)

theorem reads_of {s : State} {unit port : Nat} {defined : List Nat} {t : W64} {d : List Nat} (hb : s.core.banks = [])
    (h : reads s unit port defined t d = true) : Reads s unit port defined t d := by
  simp only [reads, Bool.and_eq_true, decide_eq_true_eq, beq_iff_eq, Option.isNone_iff_eq_none, List.all_eq_true, List.mem_range] at h
  obtain ⟨⟨⟨⟨⟨⟨⟨⟨h1, h2⟩, h3⟩, h4⟩, h5⟩, h6⟩, h7⟩, h8⟩, h9⟩ := h
  exact ⟨h1, h2, h3, h4, banksFree_nil hb, h5, h6, h7, h8, h9⟩

theorem pins_nil {s : State} (h : s.core.eng.pins = []) : PinsFit s [] := by simp [PinsFit, h, pagesOf]

theorem covered_nil {s : State} {rs ws : List (Nat × Nat)} (h1 : rs = []) (h2 : ws = []) : Covered s rs ws [] := by
  subst h1 h2; exact ⟨[], [], rfl, rfl, rfl⟩

theorem ok_of {ε α : Type} {x : Except ε α} (h : x.isOk = true) : ∃ a, x = .ok a := by
  cases x with
  | ok a => exact ⟨a, rfl⟩
  | error e => cases h

/-- Whether a result is a value. -/
def gives {ε α : Type} [DecidableEq α] (x : Except ε α) (a : α) : Bool :=
  match x with
  | .ok b => b == a
  | .error _ => false

theorem ok_eq {ε α : Type} [DecidableEq α] {x : Except ε α} {a : α} (h : gives x a = true) : x = .ok a := by
  cases x with
  | ok b => simp only [gives, beq_iff_eq] at h; rw [h]
  | error e => cases h

theorem ok_is {ε α : Type} [DecidableEq α] {x : Except ε α} {a : α} (h : gives x a = true) : ∃ b, x = .ok b ∧ b = a := ⟨a, ok_eq h, rfl⟩

/-- Whether a result is an error. -/
def fails {ε α : Type} [DecidableEq ε] (x : Except ε α) (e : ε) : Bool :=
  match x with
  | .ok _ => false
  | .error d => d == e

theorem err_eq {ε α : Type} [DecidableEq ε] {x : Except ε α} {e : ε} (h : fails x e = true) : x = .error e := by
  cases x with
  | ok b => cases h
  | error d => simp only [fails, beq_iff_eq] at h; rw [h]

theorem witness_AluResults : (∃ f, aluForm (.add 0 (im 1)) = some (0, im 1, f)) ∧ (∃ p, bitForm (.bfi 1 (im 1)) = some (1, im 1, p)) ∧
    Fires base .scalar false (im 1) ∧ Room base 1 := ⟨⟨_, rfl⟩, ⟨_, rfl⟩, fires_im _ _ _ rfl, room_on rfl (by decide)⟩

theorem witness_MulResults : (∃ f, mulForm (.madd (im 1)) = some (im 1, f)) ∧ (∃ f, divForm (.remu (im 0)) = some (im 0, f)) ∧
    Fires base .scalar false (im 1) ∧ Room base 1 ∧ (base.core.mulBusy = 0 ∨ base.core.mulBusy < base.core.tcc) :=
  ⟨⟨_, rfl⟩, ⟨_, rfl⟩, fires_im _ _ _ rfl, room_on rfl (by decide), .inl rfl⟩

theorem witness_FpsResults : (∃ f, fpsForm (.fadd (im 1)) = some (im 1, f)) ∧ (∃ f, fpsBitForm (.fclass (im 1)) = some (im 1, f)) ∧
    (∃ f, fpsLongForm (.fsqrt (im 1)) = some (im 1, f)) ∧ Fires base .scalar true (im 1) ∧ Room base 1 ∧ base.core.fpsBusy = 0 :=
  ⟨⟨_, rfl⟩, ⟨_, rfl⟩, ⟨_, rfl⟩, fires_im _ _ _ rfl, room_on rfl (by decide), rfl⟩

/-- The last cycle of each window. -/
theorem witness_LongUnitsBusy : (∃ f, divForm (.div (im 1)) = some (im 1, f)) ∧ (∃ f, fpsLongForm (.fdiv (im 1)) = some (im 1, f)) ∧
    let s := on { core0 with mulBusy := 100, fpsBusy := 100 }
    s.core.guardPass .always = true ∧ 0 < s.core.mulBusy ∧ s.core.tcc ≤ s.core.mulBusy ∧ s.core.tcc ≤ s.core.fpsBusy :=
  ⟨⟨_, rfl⟩, ⟨_, rfl⟩, rfl, by decide, by decide, by decide⟩

theorem witness_LaneResults : (∃ f, laneForm (.vshl (im 1)) = some (im 1, f)) ∧ Fires base .vector false (im 1) ∧ Room base 1 :=
  ⟨⟨_, rfl⟩, fires_im _ _ _ rfl, room_on rfl (by decide)⟩

theorem witness_FloatLaneResults : (∃ f, floatForm (.vfexp2 (im 1)) = some (im 1, 8, f)) ∧ Fires base .vector true (im 1) ∧ Room base 1 :=
  ⟨⟨_, rfl⟩, fires_im _ _ _ rfl, room_on rfl (by decide)⟩

theorem witness_ConversionResults : ∃ ok f, convForm (.vcvtf (im 1)) = some (im 1, ok, f) ∧ ok 6 = true ∧ ok 5 = false ∧
    Fires (on { core0 with fmt := 6 }) .vector true (im 1) := ⟨_, _, rfl, by decide, by decide, fires_im _ _ _ rfl⟩

/-- A plain type, and one whose block scales vpack chooses. -/
theorem witness_PackResult : fmtBT 0x80 ∈ [1, 2, 3, 4, 5, 6, 7, 8, 10] ∧ (packAll 0x80 0 0).2 = none ∧
    fmtBT 0x8030 ∈ [1, 2, 3, 4, 5, 6, 7, 8, 10] ∧ (packAll 0x8030 0 0).2 = some [127, 127, 127, 127] ∧
    Fires (on { core0 with fmt := 0x8030 }) .vector true (im 1) ∧ Room base 2 := by
  refine ⟨by decide, by decide +kernel, by decide, by decide +kernel, fires_im _ _ _ rfl, room_on rfl (by decide)⟩

theorem witness_CompareMasks : (∃ p, cmpForm (.vcmplt (im 1)) = some (im 1, p)) ∧ (∃ p, fcmpForm (.vfcmple (im 1)) = some (im 1, p)) ∧
    Fires base .vector false (im 1) ∧ Fires base .vector true (im 1) ∧ Room base 1 :=
  ⟨⟨_, rfl⟩, ⟨_, rfl⟩, fires_im _ _ _ rfl, fires_im _ _ _ rfl, room_on rfl (by decide)⟩

theorem witness_Reductions : (∃ f, reduceForm (.vredmin (im 1)) = some (im 1, f)) ∧ Fires base .vector false (im 1) ∧
    Fires base .vector true (im 1) ∧ Room base 1 := ⟨⟨_, rfl⟩, fires_im _ _ _ rfl, fires_im _ _ _ rfl, room_on rfl (by decide)⟩

theorem witness_LaneMoves : (∃ f, moveForm (.vperm (im 64)) = some (im 64, 3, f)) ∧ (∃ f, spreadForm (.vins (im 63)) = some (im 63, f)) ∧
    (∃ f, maskForm (.vmpopc (im 1)) = some (im 1, f)) ∧ Fires base .vector false (im 64) ∧ Fires base .scalar false (im 63) ∧ Room base 1 :=
  ⟨⟨_, rfl⟩, ⟨_, rfl⟩, ⟨_, rfl⟩, fires_im _ _ _ rfl, fires_im _ _ _ rfl, room_on rfl (by decide)⟩

/-! ### Memory -/

/-- The last word of the footprint in each store, and a word of the instruction store. -/
theorem witness_LoadLocal : loadForm (.ld64 qu) = some (qu, 8, .zero) ∧
    (let s := at_ (spBase + 0x3FFFF8) core0
     Fires s .scalar false qu ∧ Room s 1 ∧ aguEA s qu % 8 = 0 ∧ aguEA s qu = storeBase 0 + 0x3FFFF8 ∧ 0x3FFFF8 < storeSize 0 ∧
       inFootprint s.core.task 0 0x3FFFF8 8 = true ∧ Quiet s 0 [(0x3FFFF8, 8)] ∧ BanksFree s 0 0 false [0x3FFFF8]) ∧
    (let s := at_ (accBase + 0x7FFFF8) core0
     aguEA s qu = storeBase 1 + 0x7FFFF8 ∧ 0x7FFFF8 < storeSize 1 ∧ inFootprint s.core.task 1 0x7FFFF8 8 = true ∧ Quiet s 1 [(0x7FFFF8, 8)] ∧
       BanksFree s 1 0 false [0x7FFFF8]) ∧
    aguEA (at_ (imemBase + 0x3FFF8) core0) qu = imemBase + 0x3FFF8 ∧ 0x3FFF8 < 0x40000 := by
  refine ⟨rfl, ⟨fires_qu _ rfl, room_on rfl (by decide), by decide +kernel, by decide +kernel, by decide +kernel, by decide +kernel,
    quiet_of (by decide +kernel) (by decide +kernel), banksFree_nil rfl⟩, ⟨by decide +kernel, by decide +kernel, by decide +kernel,
    quiet_of (by decide +kernel) (by decide +kernel), banksFree_nil rfl⟩, by decide +kernel, by decide⟩

theorem witness_LoadGlobal : loadForm (.ld8s qu) = some (qu, 1, .sign) ∧ let s := at_ 0x1FFFFF { core0 with tlb := [leaf0] }
    Fires s .scalar false qu ∧ Room s 1 ∧ aguEA s qu % 1 = 0 ∧ aguEA s qu < peerBase ∧ heldLeaf s (aguEA s qu) true false = some leaf0 :=
  ⟨rfl, fires_qu _ rfl, room_on rfl (by decide), by decide +kernel, by decide +kernel, by decide +kernel⟩

/-- A local store, a global one, one to a peer (the core itself). -/
theorem witness_StoreResults : storeForm (.st8 qu) = some (qu, 1) ∧
    (let s := at_ (spBase + 0x3FFFFF) core0
     Fires s .scalar false qu ∧ aguEA s qu = storeBase 0 + 0x3FFFFF ∧ inFootprint s.core.task 0 0x3FFFFF 1 = true ∧
       s.core.indexHit 0x3FFFFF 1 = false ∧ BanksFree s 0 2 true [0x3FFFFF] ∧ Room s 1) ∧
    (let s := at_ 0x1FFFFF { core0 with tlb := [leaf0] }
     aguEA s qu < peerBase ∧ heldLeaf s (aguEA s qu) false true = some leaf0 ∧ (s.core.gacc.filter fun g => g.act.writes).length < 64) ∧
    (let s := at_ (peerBase + 0 * 2 ^ 30 + 0x1001) { core0 with pflag := 0x3FFFF8 }
     aguEA s qu = peerBase + 0 * 2 ^ 30 + 0x1001 ∧ s.core.task.rect.has 0 = true ∧ s.core.task.spOk 0x1001 1 = true ∧
       s.core.pflag.toNat % 8 = 0 ∧ s.core.pflag.toNat + 8 ≤ 65536 * s.core.task.spUnits) := by
  refine ⟨rfl, ⟨fires_qu _ rfl, by decide +kernel, by decide +kernel, by decide +kernel, banksFree_nil rfl, room_on rfl (by decide)⟩,
    ⟨by decide +kernel, by decide +kernel, by decide +kernel⟩, by decide +kernel, by decide +kernel, by decide +kernel, by decide +kernel,
    by decide +kernel⟩

theorem witness_RegisterWindow : let s := at_ (csrBase + 8 * 0x10) core0
    Fires s .scalar false qu ∧ Room s 1 ∧ aguEA s qu = csrBase + 8 * 0x10 ∧ s.core.csrRead 0x10 = some 7 ∧ s.core.csrwBad 0x10 (s.core.port 4 2) = none :=
  ⟨fires_qu _ rfl, room_on rfl (by decide), by decide +kernel, by decide +kernel, by decide +kernel⟩

theorem witness_AtomicResults : atomForm (.amocas64 qu) = some (qu, .cas, 8, .zero, true) ∧
    (let s := at_ (spBase + 0x3FFFF8) core0
     Fires s .scalar false qu ∧ aguEA s qu % 8 = 0 ∧ aguEA s qu = spBase + 0x3FFFF8 ∧ s.core.task.spOk 0x3FFFF8 8 = true ∧
       s.core.indexHit 0x3FFFF8 8 = false ∧ Quiet s 0 [(0x3FFFF8, 8)] ∧ BanksFree s 0 2 true [0x3FFFF8] ∧ Room s 2) ∧
    (let s := at_ 0x1FFFF8 { core0 with tlb := [leaf0] }
     aguEA s qu < peerBase ∧ heldLeaf s (aguEA s qu) true true = some leaf0 ∧ heldLeaf s (aguEA s qu) false true = some leaf0 ∧ leaf0.rpl = false ∧ s.core.gacc = []) ∧
    (255 < 2 ^ (8 * 4) ∧ ∃ r, atomWord .add (8 * 4) (2 ^ 32 - 1) 1 0 = some r) := by
  refine ⟨rfl, ⟨fires_qu _ rfl, by decide +kernel, by decide +kernel, by decide +kernel, by decide +kernel, quiet_of (by decide +kernel)
    (by decide +kernel), banksFree_nil rfl, room_on rfl (by decide)⟩, ⟨by decide +kernel, by decide +kernel, by decide +kernel, rfl, rfl⟩, by decide, _, rfl⟩

theorem witness_WaitResults : (∃ p, waitForm (.wne qu) = some (qu, true, p)) ∧
    (let s := at_ (spBase + 0x3FFFF8) core0
     Fires s .scalar false qu ∧ aguEA s qu % 8 = 0 ∧ aguEA s qu = spBase + 0x3FFFF8 ∧ s.core.task.spOk 0x3FFFF8 8 = true ∧ BanksFree s 0 0 false [0x3FFFF8]) ∧
    (let s := at_ (csrBase + 8 * 0x10) core0
     aguEA s qu = csrBase + 8 * 0x10 ∧ s.core.csrRead 0x10 = some 7) ∧
    (let s := at_ 0x1FFFF8 { core0 with tlb := [leaf0] }
     heldLeaf s (aguEA s qu) true false = some leaf0) := by
  refine ⟨⟨_, rfl⟩, ⟨fires_qu _ rfl, by decide +kernel, by decide +kernel, by decide +kernel, banksFree_nil rfl⟩, ⟨by decide +kernel,
    by decide +kernel⟩, by decide +kernel⟩

/-- The first address of each refusal: bit 57, a gap, each window, a misaligned byte, a byte above the footprint. -/
theorem witness_AguRefusals : qu.src.bad .scalar = none ∧ 2 ^ 57 ≤ aguEA (at_ (2 ^ 57) core0) qu ∧
    regionOf (spBase + 0x400000) = .gap ∧ regionOf peerBase = .peer 0 0 ∧ regionOf gatherBase = .gather 0 0 ∧ regionOf imemBase = .imem 0 ∧
    regionOf (csrBase + 8) = .csr 8 ∧ regionOf (spBase + 1) = .sp 1 ∧ (spBase + 1) % 2 ≠ 0 ∧ regionOf accBase = .acc 0 ∧ regionOf 1 = .global ∧
    (on { core0 with task := { core0.task with spUnits := 1 } }).core.task.spOk 0x10000 8 = false ∧
    (on { core0 with task := { core0.task with accUnits := 1 } }).core.task.accOk 0x10000 8 = false ∧
    heldLeaf (at_ 8 { core0 with tlb := [{ leaf0 with rpl := true }] }) 8 true true = some { leaf0 with rpl := true } := by
  refine ⟨rfl, ?_, ?_, ?_, ?_, ?_, ?_, ?_, ?_, ?_, ?_, ?_, ?_, ?_⟩ <;> decide +kernel

/-- The first row of a footprint. -/
theorem witness_VectorLoads : (∃ f, vloadForm (.vlda qu) = some (qu, 1, 256, 8, f)) ∧ let s := on (ports 7 [(1, BitVec.ofNat 64 accBase)] core0)
    Fires s .scalar false qu ∧ Room s 1 ∧ vmemEA s qu = storeBase 1 + 0 ∧ 0 < storeSize 1 ∧ inFootprint s.core.task 1 0 256 = true ∧
      Quiet s 1 [(0, 256)] ∧ BanksFree s 1 0 false (rows 0 256) := by
  refine ⟨⟨_, rfl⟩, fires_qu _ rfl, room_on rfl (by decide), by decide +kernel, by decide, by decide +kernel, quiet_of (by decide +kernel)
    (by decide +kernel), banksFree_nil rfl⟩

theorem witness_VectorStores : (let s := at_ (spBase + 0x1000) core0
     vmemEA s qu = spBase + 0x1000 ∧ Fires s .scalar false qu ∧ Room s 1 ∧ s.core.task.spOk 0x1000 256 = true ∧ s.core.indexHit 0x1000 256 = false ∧
       BanksFree s 0 2 true (rows 0x1000 256)) ∧
    (let s := at_ (peerBase + 0 * 2 ^ 30 + 0x1000) core0
     vmemEA s qu = peerBase + 0 * 2 ^ 30 + 0x1000 ∧ s.core.task.rect.has 0 = true ∧ s.core.pflag.toNat % 8 = 0 ∧ s.core.pflag.toNat + 8 ≤ 65536 * s.core.task.spUnits) ∧
    (let s := at_ (accBase + 0x7FFF00) core0
     vmemEA s qu = accBase + 0x7FFF00 ∧ s.core.task.accOk 0x7FFF00 256 = true ∧ Fires s .scalar true qu ∧ BanksFree s 1 3 true (rows 0x7FFF00 256) ∧
       fmtACC s.core.fmt = 0) ∧ fmtACC 0x900 = 9 := by
  refine ⟨⟨by decide +kernel, fires_qu _ rfl, room_on rfl (by decide), by decide +kernel, by decide +kernel, banksFree_nil rfl⟩,
    ⟨by decide +kernel, by decide +kernel, by decide +kernel, by decide +kernel⟩,
    ⟨by decide +kernel, by decide +kernel, fires_qu _ rfl, banksFree_nil rfl, by decide +kernel⟩, by decide +kernel⟩

/-- Every lane at one address. -/
theorem witness_IndexedVectors : let s := at_ (spBase + 0x1000) core0
    Fires s .scalar false qu ∧ LanesLegal s qu ∧ Room s 4 ∧ Quiet s 0 ((List.range 64).map fun l => (laneAt s qu l - spBase, 4)) ∧
      (∀ g < 4, BanksFree s 0 g false (groupAt s qu g)) ∧ (∀ g < 4, BanksFree s 0 (2 + g) true (groupAt s qu g)) := by
  refine ⟨fires_qu _ rfl, ⟨by decide +kernel, by decide +kernel, by decide +kernel, by decide +kernel⟩, room_on rfl (by decide),
    quiet_of (by decide +kernel) (by decide +kernel), fun _ _ => banksFree_nil rfl, fun _ _ => banksFree_nil rfl⟩

/-- A ring of 128 bytes at offset 0x1000 from its row 1, so that rows wrap; and the smallest plain access. -/
theorem witness_RingVectors : let s := on (top 64 (ports 7 [(1, BitVec.ofNat 64 (128 * 2 ^ 40 + 0x1000))] core0))
    Fires s .scalar false qu ∧ RingRows (s.core.port 7 1) (s.operand qu) (fun r => s.core.task.spOk r 64) [0x1040, 0x1000, 0x1040, 0x1000] ∧
      Room s 1 ∧ Quiet s 0 [(0x1040, 64), (0x1000, 64), (0x1040, 64), (0x1000, 64)] ∧ BanksFree s 0 0 false [0x1040, 0x1000] ∧
      s.core.vpeer.getLsbD 10 = false ∧ s.core.indexHit 0x1040 64 = false ∧
      (on { s.core with vpeer := 0x400 }).core.vpeer.getLsbD 10 = true ∧ s.core.task.rect.has 0 = true ∧ s.core.pflag.toNat % 8 = 0 ∧
      s.core.pflag.toNat + 8 ≤ 65536 * s.core.task.spUnits := by
  refine ⟨fires_qu _ rfl, ⟨.inr (by decide +kernel), 0x1040, 0x1000, 0x1040, 0x1000, rfl, by decide +kernel, by decide +kernel, by decide +kernel,
    by decide +kernel, by decide, by decide +kernel⟩, room_on rfl (by decide), quiet_of (by decide +kernel) (by decide +kernel),
    banksFree_nil rfl, by decide +kernel, by decide +kernel, by decide +kernel, by decide +kernel, by decide +kernel, by decide +kernel⟩

/-! ### Ports, guards, control flow -/

theorem witness_PortMoves : Fires base .any false (im 1) ∧ operandClass 14 1 = .scalar ∧ Fires base .scalar false (im 1) ∧
    Fires base .vector false (im 1) ∧ Room base 1 :=
  ⟨fires_im _ _ _ rfl, by decide, fires_im _ _ _ rfl, fires_im _ _ _ rfl, room_on rfl (by decide)⟩

theorem witness_GuardsAndSources : (∃ m, (Instr.add 0 m).slot = some (0, 9, m) ∧ (Instr.add 0 m).portOk = true ∧ m.src.bad (portClass 0 9) = none ∧
      base.core.guardPass m.guard = false) ∧ (∃ m, (Instr.add 0 m).slot = some (0, 9, m) ∧ m.src.bad (portClass 0 9) = some .namedReserved) :=
  ⟨⟨⟨.ifTrue, .imm 0⟩, rfl, rfl, by decide, by decide⟩, ⟨.ifTrue, .named 48⟩, rfl, by decide⟩

/-- The fullest stack that takes a push, and the one that does not; the deepest stack that wrps makes. -/
theorem witness_Predicates : Room base 1 ∧ Fires base .scalar false (im 1) ∧ Fires base .vector false (im 1) ∧
    (∃ f, stackForm (.pdup (im 1)) = some (im 1, f) ∧ f 0 0 (List.replicate 15 true) = .ok (List.replicate 16 true) ∧
      f 0 0 (List.replicate 16 true) = .error .pstackOver ∧ f 0 0 [] = .error .pstackUnder) ∧
    (∃ f, stackForm (.wrps (im 1)) = some (im 1, f) ∧ f 0 0x100000 [] = .ok (List.replicate 16 false) ∧ f 0 0x110000 [] = .error .pstackBad) ∧
    (∃ f, voteForm (.vall (im 1)) = some (im 1, f)) ∧ (List.replicate 15 true).length < 16 ∧ 16 ≤ (on { core0 with pstack := List.replicate 16 true }).core.pstack.length :=
  ⟨room_on rfl (by decide), fires_im _ _ _ rfl, fires_im _ _ _ rfl, ⟨_, rfl, rfl, rfl, rfl⟩, ⟨_, rfl, rfl, rfl⟩, ⟨_, rfl⟩, by decide, by decide⟩

/-- The last bundle as target. -/
def atLast : Core := { core0 with
  regs := { core0.regs with b := vset core0.regs.b 0 262128, n := vset core0.regs.n 31 262128 }
  pstack := [true] }

theorem witness_Jumps : jumpForm (.call (im 0)) = some (im 0, false, true) ∧ jumpForm (.ret (im 0)) = some (im 0, true, false) ∧ let s := on atLast
    Fires s .scalar false (im 0) ∧ Room s 1 ∧ s.core.seg.ending = none ∧ s.core.cur.loopDelay = false ∧
      GoodTarget (vget 0 s.core.regs.b ((s.operand (im 0)).toNat % 4)) 16383 ∧ GoodTarget (s.core.readN 31) 16383 :=
  ⟨rfl, rfl, fires_im _ _ _ rfl, room_on rfl (by decide), rfl, rfl, by unfold GoodTarget; decide +kernel, by unfold GoodTarget; decide +kernel⟩

theorem witness_Branches : condForm (.jfn (im 0)) = some (im 0, false, true) ∧ let s := on atLast
    Fires s .scalar false (im 0) ∧ Room s 1 ∧ ¬ EndDelay s ∧ s.core.seg.ending = none ∧ s.core.cur.loopDelay = false ∧ s.core.pstack = true :: [] ∧
      GoodTarget (vget 0 s.core.regs.b ((s.operand (im 0)).toNat % 4)) 16383 :=
  ⟨rfl, fires_im _ _ _ rfl, room_on rfl (by decide), (by rintro ⟨k, _, h⟩; cases h), rfl, rfl, rfl, by unfold GoodTarget; decide +kernel⟩

theorem witness_FlowFaults : (im 0).src.bad .scalar = none ∧ base.core.guardPass .always = true ∧ jumpForm (.jmp (im 0)) = some (im 0, false, false) ∧
    EndDelay (on { core0 with seg := ⟨1, 4, 15, some 0⟩ }) ∧ (on { core0 with seg := ⟨1, 4, 15, some 3⟩ }).core.seg.ending ≠ none ∧
    ¬ EndDelay (on { core0 with seg := ⟨1, 4, 15, some 3⟩ }) ∧
    (on { core0 with cur := { Pos.plain 5 with loopDelay := true } }).core.cur.loopDelay = true ∧
    (262144 : Nat) ≤ (262144 : W64).toNat ∧ (8 : W64).toNat % 16 ≠ 0 ∧
    (let s := on { core0 with regs := atLast.regs }
     condForm (.jt (im 0)) = some (im 0, true, false) ∧ (vget 0 s.core.regs.b ((s.operand (im 0)).toNat % 4)).toNat < 262144 ∧ s.core.pstack = []) ∧
    (8 < (on (top 9 core0)).core.regs.sq.toList.head!.toNat ∧ 2 ^ 32 ≤ ((0x100000000 : W64)).toNat) ∧
    (base.core.loops.inner.active = false ∧ base.core.loops.outer.active = false) ∧
    (on { core0 with loops := { core0.loops with inner := { Level.zero with active := true } } }).core.loops.inner.active = true ∧
    (let s := on { core0 with loops := { core0.loops with pendFirst := 5, pendLast := 4 } }
     s.core.loops.pendLast < s.core.loops.pendFirst) ∧
    (let s := on { core0 with loops := { core0.loops with outer := { Level.zero with active := true, first := 6, last := 9 }, pendFirst := 6, pendLast := 9 } }
     s.core.loops.outer.active = true ∧ s.core.loops.inner.active = false ∧ s.core.loops.pendFirst ≤ s.core.loops.pendLast ∧
       s.core.seg.first ≤ s.core.loops.pendFirst ∧ s.core.loops.pendLast ≤ s.core.seg.last ∧ s.core.loops.outer.last ≤ s.core.loops.pendLast) := by
  refine ⟨rfl, rfl, rfl, ⟨0, by decide, rfl⟩, ?_, ?_, rfl, ?_, ?_, ⟨rfl, ?_, rfl⟩, ?_, ⟨rfl, rfl⟩, rfl, ?_, ?_⟩
  case refine_2 => rintro ⟨k, hk, h⟩; simp [on] at h; omega
  all_goals decide +kernel

/-- A body of one bundle that ends just before the outer level does. -/
theorem witness_LoopSetup : Fires base .scalar false (im 8) ∧ Room base 1 ∧ GoodTarget 262128 16383 ∧ 1 ≤ (8 : W64).toNat ∧ (8 : W64).toNat ≤ 8 ∧
    ((0xFFFFFFFF : W64)).toNat < 2 ^ 32 ∧
    (let s := on { core0 with loops := { core0.loops with outer := { Level.zero with active := true, first := 6, last := 9 }, pendFirst := 8, pendLast := 8 } }
     s.core.loops.outer.active = true ∧ LoopLegal s) :=
  ⟨fires_im _ _ _ rfl, room_on rfl (by decide), by unfold GoodTarget; decide, by decide, by decide, by decide, rfl,
    ⟨(by rintro ⟨k, _, h⟩; cases h), ⟨rfl, rfl⟩, rfl, by decide, by decide⟩⟩

/-- A last pass without stages left, at LEND. -/
theorem witness_LoopPass : let l : Level := ⟨true, false, 1, 0, none, 0, 4, 5⟩
    let s := on { core0 with loops := { core0.loops with inner := l } }
    s.core.loops.innermost = some (true, l) ∧ s.core.cur.idx = l.last := ⟨rfl, rfl⟩

theorem witness_ControlSimple : Fires base .scalar false (im 1) ∧ base.core.eng.ember.flt.getLsbD 63 = false ∧ base.core.trace.isOpen = false ∧
    (let s := on { core0 with trace := { Trace.none with isOpen := true, launch := 1, kinds := 2 } }
     s.core.trace.isOpen = true ∧ s.core.trace.launch = s.core.task.launchId ∧ s.core.trace.closing = none ∧ s.core.trace.kinds.getLsbD 1 = true) ∧
    Room base 1 ∧ ((0x2FAAA : W64)).toNat < 2 ^ 18 ∧ (0x2FAAA : W64).toNat % 16 ≤ 10 ∧ (0x2FAAA : W64).toNat / 65536 ≠ 3 ∧
    base.core.csrwBad 0x12 1 = none ∧ (Fires base .scalar (base.operand (im 2) == 2) (im 2) ∧ (∃ v, base.core.csrRead 2 = some v)) := by
  refine ⟨fires_im _ _ _ rfl, rfl, rfl, ⟨rfl, rfl, rfl, rfl⟩, room_on rfl (by decide), by decide, by decide, by decide, by decide +kernel,
    fires_im _ _ _ rfl, _, rfl⟩

theorem witness_ControlFaults : (im 0).src.bad .scalar = none ∧ base.core.guardPass .always = true ∧ 2 ^ 18 ≤ (0x40000 : W64).toNat ∧
    10 < (11 : W64).toNat % 16 ∧ (0x30000 : W64).toNat / 65536 = 3 ∧ 4096 ≤ (0x1000 : W64).toNat ∧ base.core.csrRead 0x32 = none ∧
    (∃ v, base.core.csrRead 0x87 = some v) ∧ 16 ≤ (16 : W64).toNat ∧ (3 : W64).toNat / 4 % 4 = 0 ∧
    (on { core0 with eng := { Engines.zero with ember := { Ember.zero with flt := 0x8000000000000000 } } }).core.eng.ember.flt.getLsbD 63 = true := by
  refine ⟨rfl, rfl, by decide, by decide, by decide, by decide, by decide +kernel, ⟨_, rfl⟩, by decide, by decide, by decide +kernel⟩

/-- segend with its two delay bundles at the end of the segment; a bar on the task's rectangle, and on a named one. -/
theorem witness_ControlOrder : Fires base .scalar false (im 15) ∧ (15 : W64).toNat = 4 * 3 + (3 : BitVec 2).toNat ∧
    (let s := on { core0 with cur := Pos.plain 13 }
     s.core.loops.innermost = none ∧ s.core.cur.xferDelay = false ∧ s.core.seg.ending = none ∧ (∀ p ∈ s.core.fq, p.xferDelay = false) ∧
       s.core.cur.idx.toNat + 2 ≤ s.core.seg.last.toNat) ∧
    (let r : Rect := ⟨0, 0, 1, 1⟩
     r = base.core.task.rect ∧ [1, 2, 3, 6, 12, 24][0]? = some 1 ∧ (0 : W64).toNat = 0 + 32 * 0 + 1024 * 0 + 8192 * 0 ∧ r = ⟨0, 0, 2 ^ 0, 1⟩ ∧
     r.aligned = true ∧ r.has base.focus = true ∧ r.inside base.core.task.rect = true ∧
     ∀ b ∈ base.mod.barriers, b.slot = base.core.task.slot → b.rect.meets r = true → b.rect = r) := by
  refine ⟨fires_im _ _ _ rfl, by decide, ⟨rfl, rfl, rfl, by decide, by decide⟩, rfl, rfl, rfl, rfl, by decide, by decide, by decide, ?_⟩
  intro b hb; cases hb

/-! ### Kiln commands -/

/-- START 116 for a tag: the first cycle that the lead rule allows. -/
def w0 (tag : Nat) : Nat := 116 * 65536 + tag

theorem witness_KilnConfiguration :
    (let d := [w0 8, 261968, 0, 0, 0, 0, 0, 0]
     let s := withDesc d core0
     Fires s .scalar true (im 0x1000) ∧ Enters s d (KilnRoom s) ∧ Reads s 9 8 [2 ^ 18 - 1, 0, 0, 0, 0, 0, 0] (s.operand (im 0x1000)) d ∧
       word d 1 % 16 = 0 ∧ word d 1 ≤ 262144 - 176 ∧ NoToken s 132 ∧
       blockBad (rdLE s.core.imem 261968 8) ((List.range 16).map fun e => rdLE s.core.imem (261968 + 72 + 6 * e) 6) (rdLE s.core.imem (261968 + 168) 8) = false) ∧
    (let d := [w0 9, 4 + 64 * 32, 0, 0, 0, 0, 0, 0]
     Reads (withDesc d core0) 9 9 [0xFFFFFF0FFF, 0, 0, 0, 0, 0, 0] 0x1000 d ∧ bits (word d 1) 3 0 ≤ 4 ∧ bits (word d 1) 4 4 = 0 ∧
       bits (word d 1) 11 5 ≤ 64 ∧ bits (word d 1) 39 16 = 0) ∧
    (let d := [w0 9, 16 + 0x2000 * 65536, 0, 0, 0, 0, 0, 0]
     let s := withDesc d core0
     Reads s 9 9 [0xFFFFFF0FFF, 0, 0, 0, 0, 0, 0] 0x1000 d ∧ bits (word d 1) 4 4 = 1 ∧ bits (word d 1) 39 16 = 0x2000 ∧
       s.core.task.spOk 0x2000 128 = true ∧ s.core.copyLate 0 0 [(0x2000, 128)] = none ∧ BanksFree s 0 0 false [0x2000, 0x2040] ∧
       ∀ i < 128, (rdByte s.core.sp (0x2000 + i)).toNat < 128) ∧
    (let d := [w0 14, 15, 1, 2, 0, 0, 0, 0]
     Reads (withDesc d core0) 9 14 [15, 2 ^ 64 - 1, 2 ^ 64 - 1, 0, 0, 0, 0] 0x1000 d ∧ word d 1 ≠ 0) ∧
    (let d := [w0 10, 0, 0, 0, 0, 0, 0, 0]
     let s := withDesc d core0
     Reads s 9 10 [7, 0, 0, 0, 0, 0, 0] 0x1000 d ∧ (∀ x ∈ s.core.eng.kiln.writes, x.done ≤ 116) ∧ ∀ p ∈ s.core.eng.kiln.passes, p.retire ≤ 116) ∧
    (let d := [w0 10, 7, 0, 0, 0, 0, 0, 0]
     let s := withDesc d { core0 with eng := { Engines.zero with kiln := { Kiln.zero with cfgs := [{ KCfg.zero with flow := 4 }], shadow := { KCfg.zero with flow := 4 } } } }
     Reads s 9 10 [7, 0, 0, 0, 0, 0, 0] 0x1000 d ∧ bits (word d 1) 2 2 = 1 ∧ (s.core.eng.kiln.activeAt (some 3) 116).flow = 4 ∧
       (s.core.eng.kiln.shadowAt 116).flow = 4) := by
  refine ⟨⟨fires_im _ _ _ rfl, ⟨pins_nil rfl, by unfold Leads; decide +kernel, by unfold KilnRoom; decide +kernel⟩, reads_of rfl (by decide +kernel), by decide,
    by decide, (by intro x hx; cases hx), by decide +kernel⟩, ⟨reads_of rfl (by decide +kernel), by decide, by decide, by decide, by decide⟩,
    ⟨reads_of rfl (by decide +kernel), by decide, by decide, by decide +kernel, by decide +kernel, banksFree_nil rfl, by decide +kernel⟩,
    ⟨reads_of rfl (by decide +kernel), by decide⟩, ⟨reads_of rfl (by decide +kernel), (by intro x hx; cases hx), (by intro x hx; cases hx)⟩,
    reads_of rfl (by decide +kernel), by decide, by decide +kernel, by decide +kernel⟩

/-- Two rings of one tile of 256 bytes. -/
def ringed : Core := { core0 with eng := { Engines.zero with
  rings := vset (vset Engines.zero.rings 0 { Ring.none with v := true, tileU := 4, base := 0x4000, tail := 1 }) 1
    { Ring.none with v := true, tileU := 4, base := 0x5000 } } }
/-- A pass of one beat of FP32 on rings 0 and 1. -/
def passDesc : List Nat := [w0 11, 0, 0x8180, 0, 0, 0, 0, 0]

theorem witness_KilnCommands :
    (let d := [w0 13, 7, 0, 0, 0, 0, 0, 0]
     let s := withDesc d core0
     Fires s .scalar true (im 0x1000) ∧ Enters s d (KilnRoom s) ∧ Reads s 9 13 [0x3F, 0, 0, 0, 0, 0, 0] (s.operand (im 0x1000)) d ∧
       bits (word d 1) 5 5 = 0 ∧ bits (word d 1) 4 3 = 0) ∧
    (let d := [w0 13, 63, 0, 0, 0, 0, 0, 0]
     let s := withDesc d { core0 with eng := { Engines.zero with kiln := { Kiln.zero with cfgs := [{ KCfg.zero with flow := 4 }] } } }
     Reads s 9 13 [0x3F, 0, 0, 0, 0, 0, 0] 0x1000 d ∧ bits (word d 1) 5 5 = 1 ∧ (s.core.eng.kiln.activeAt none 116).flow = 4) ∧
    (let d := [w0 12, 256 * 2 ^ 40 + 0x2000 * 2 ^ 16, 0, 0, 0, 0, 0, 0]
     let s := withDesc d core0
     Reads s 9 12 [0xFFFFFFFFFFFF0F, 0, 0, 0, 0, 0, 0] 0x1000 d ∧ ¬(s.core.eng.kiln.activeAt none 116).flow = 4 ∧ bits (word d 1) 3 2 = 0 ∧
       bits (word d 1) 11 8 = 0 ∧ bits (word d 1) 15 12 ≤ 5 ∧ 64 * typeBytes 0 = 256 ∧ bits (word d 1) 39 16 % 64 = 0 ∧
       bits (word d 1) 55 40 = 256 ∧ ∀ i < 64, inFootprint s.core.task 0 (0x2000 + i * 256) 256 = true) ∧
    (let d := [w0 15, 8 + 0x3FFFC0 * 2 ^ 24, 0, 0, 0, 0, 0, 0]
     let s := withDesc d core0
     Reads s 9 15 [2 ^ 48 - 1, 0, 0, 0, 0, 0, 0] 0x1000 d ∧ bits (word d 1) 5 4 ≠ 3 ∧ bits (word d 1) 47 24 = 0x3FFFC0 ∧
       s.core.task.spOk 0x3FFFC0 ((0 + 1) * (0 + 1) * 64) = true ∧ s.core.eng.kiln.ringBusy 0 116 = false ∧ s.core.eng.copies = []) ∧
    (let s := withDesc passDesc ringed
     Reads s 9 11 kstartMasks 0x1000 passDesc ∧ Enters s passDesc (KilnRoom s) ∧ s.passBad passDesc (s.mkPass passDesc 116) = none) ∧
    (let s := on ringed
     (0x10000 : W64).toNat = 1 * 65536 + 0 ∧ (s.core.ring 0).v = true ∧ 1 ≤ ((s.core.ring 0).tail - (s.core.ring 0).head).toNat ∧
       s.core.eng.kiln.ringBusy 0 100 = false ∧ inFlight 100 s.core.pend ≤ 48) := by
  refine ⟨⟨fires_im _ _ _ rfl, ⟨pins_nil rfl, by unfold Leads; decide +kernel, by unfold KilnRoom; decide +kernel⟩, reads_of rfl (by decide +kernel), by decide,
    by decide⟩, ⟨reads_of rfl (by decide +kernel), by decide, by decide +kernel⟩, ⟨reads_of rfl (by decide +kernel), by decide +kernel, by decide, by decide,
    by decide, by decide +kernel, by decide, by decide, by decide +kernel⟩, ⟨reads_of rfl (by decide +kernel), by decide, by decide, by decide,
    by decide +kernel, rfl⟩, ⟨reads_of rfl (by decide +kernel), ⟨pins_nil rfl, by unfold Leads; decide +kernel, by unfold KilnRoom; decide +kernel⟩,
    by decide +kernel⟩, by decide, by decide +kernel, by decide +kernel, by decide +kernel, by decide +kernel⟩

theorem witness_PassFields : ((withDesc passDesc ringed).core.eng.kiln.activeAt none 116).flow = 0 ∧ bits (word passDesc 1) 11 10 = 0 ∧
    bits (word passDesc 1) 12 12 = 0 ∧ fourLane (withDesc passDesc ringed).core.fmt (bits (word passDesc 1) 3 0) = false := by
  refine ⟨by decide +kernel, by decide, by decide, by decide +kernel⟩

/-! ### Copies -/

/-- A copy of one unit from scratchpad to scratchpad on channel 1. -/
def chan1 (c : Core) : Core := ports 10 [(1, 1)] c
def copyDesc (tag e follow : Nat) : List Nat := [w0 tag, spBase + 0x2000, spBase + 0x3000, 0, 64 + 64 * 2 ^ 32, e, follow, 0]

theorem witness_CopyCommands :
    (let d := copyDesc 8 0 0
     let s := withDesc d (chan1 core0)
     Channel s 1 ∧ Fires s .scalar false (im 0x1000) ∧ CopyFields d ∧ s.copyBad (copyOf s 1 d) = none ∧ word d 6 = 0 ∧
       EntersWith s d (copyReads (copyOf s 1 d)) (copyWrites s (copyOf s 1 d)) (CopyRoom s 1) [] ∧
       Reads s 10 8 copyWords (s.operand (im 0x1000)) d ∧ word d 5 = 0) ∧
    (let d := [w0 9, spBase + 0x4000, spBase + 0x8000, 63 * 2 ^ 18 + 3, 256 + 256 * 2 ^ 32, 2, 0, 0]
     let s := withDesc d (chan1 core0)
     Reads s 10 9 copyWords 0x1000 d ∧ CopyFields d ∧ word d 5 = 2 ∧ s.copyBad (copyOf s 1 d) = none) ∧
    (let d := copyDesc 10 0 0x1040
     let s := on (words 0x1040 [13, 7] (words 0x1000 d (chan1 core0)))
     Fires s .scalar true (im 0x1000) ∧ CopyFields d ∧ Reads s 10 10 copyWords 0x1000 d ∧ s.copyBad (copyOf s 1 d) = none ∧
       BanksFree s 0 0 false [word d 6] ∧
       EntersWith s d (copyReads (copyOf s 1 d)) (copyWrites s (copyOf s 1 d)) (CopyRoom s 1 ∧ KilnRoom s) [] ∧
       ∃ follow, s.followOf (word d 6) (({ copyOf s 1 d with leaves := [] } : Copy).lastBound 0) = .ok follow) := by
  refine ⟨⟨⟨by decide +kernel, by decide⟩, fires_im _ _ _ rfl, ⟨by decide +kernel, by decide +kernel, by decide +kernel, by decide +kernel, by decide +kernel,
    by decide +kernel⟩, by decide +kernel, rfl, ⟨covered_nil (by decide +kernel) (by decide +kernel), pins_nil rfl, by unfold Leads; decide +kernel, by unfold CopyRoom; decide +kernel⟩,
    reads_of rfl (by decide +kernel), rfl⟩, ⟨reads_of rfl (by decide +kernel), ⟨by decide +kernel, by decide +kernel, by decide +kernel, by decide +kernel, by decide +kernel,
    by decide +kernel⟩, rfl, by decide +kernel⟩,
    fires_im _ _ _ rfl, ⟨by decide +kernel, by decide +kernel, by decide +kernel, by decide +kernel, by decide +kernel,
    by decide +kernel⟩, reads_of rfl (by decide +kernel), by decide +kernel, banksFree_nil rfl, ⟨covered_nil (by decide +kernel) (by decide +kernel), pins_nil rfl, by unfold Leads; decide +kernel,
    by unfold CopyRoom; decide +kernel, by unfold KilnRoom; decide +kernel⟩, ok_of (by decide +kernel)⟩

/-- A fetch of a row of 16 FP32 elements through handle 0, which stands at address 0. -/
theorem witness_CopyCommands_cfetch :
    let d := [w0 11, 0, spBase + 0x3000, 0, 15 * 65536, 0, 0, 0]
    let hw := [2 ^ 63 + 0x1000, 16 * 2 ^ 32 + 1, 64, 0]
    let data := hw.flatMap fun v => leBytes v 8
    let s := withDesc d (chan1 { core0 with tlb := [leaf0], handle := some (0, data) })
    let h : Handle := ⟨wordsOf 8 data 4⟩
    let c : Copy := { copyOf s 1 d with
      rows := 1, rlu := 1, src := 0x1000, sstride := 64, binds := [], dst := .addr (spBase + 0x3000) (64 : Nat), esz := 0 }
    Channel s 1 ∧ Reads s 10 11 [2 ^ 24 - 1, 2 ^ 61 - 1, 2 ^ 64 - 1, 2 ^ 32 - 1, 0, 0, 0] 0x1000 d ∧ bits (word d 2) 60 60 = 0 ∧ bits (word d 2) 59 57 = 0 ∧
      bits (word d 2) 56 0 % 64 = 0 ∧ word d 1 < 2 ^ bits s.core.thbase.toNat 4 0 ∧
      s.core.handle = some (bits s.core.thbase.toNat 56 12 * 4096 + 32 * word d 1, data) ∧ h.ok = true ∧ h.spf = 0 ∧ h.layout = 0 ∧ 0 + 1 ≤ h.rows ∧ 0 + 16 ≤ h.cols ∧
      16 * typeBytes h.type = 64 ∧ s.copyBad c = none ∧ EntersWith s d (copyReads c) (copyWrites s c) (CopyRoom s 1) [leaf0] := by
  refine ⟨⟨by decide +kernel, by decide⟩, reads_of rfl (by decide +kernel), by decide, by decide, by decide, by decide +kernel, rfl, by decide +kernel, by decide +kernel,
    by decide +kernel, by decide +kernel, by decide +kernel, by decide +kernel, by decide +kernel, ⟨⟨[leaf0], [], ?_, ?_, rfl⟩, ?_,
    by unfold Leads; decide +kernel, by unfold CopyRoom; decide +kernel⟩⟩
  · exact ok_eq (by decide +kernel)
  · exact ok_eq (by decide +kernel)
  · unfold PinsFit; decide +kernel

/-- What CopyFields asks, as one check. -/
def copyFields (d : List Nat) : Bool :=
  decide (bits (word d 4) 31 0 % 64 = 0) && decide (bits (word d 4) 63 32 % 64 = 0) && decide (word d 1 % 64 = 0) &&
  decide (bits (word d 2) 56 0 % 64 = 0) && decide (bits (word d 2) 60 60 = 1 → bits (word d 2) 56 0 = 0 ∧ bits (word d 4) 63 32 = 0) &&
  decide (bits (word d 2) 60 60 = 0 → bits (word d 2) 59 57 = 0)

theorem copyFields_of {d : List Nat} (h : copyFields d = true) : CopyFields d := by
  simp only [copyFields, Bool.and_eq_true, decide_eq_true_eq] at h
  obtain ⟨⟨⟨⟨⟨h1, h2⟩, h3⟩, h4⟩, h5⟩, h6⟩ := h
  exact ⟨h1, h2, h3, h4, h5, h6⟩

theorem witness_CopyPointers : qu.src.bad .scalar = none ∧ base.core.guardPass .always = true ∧
    (let s := on (chan1 core0)
     Channel s 1 ∧ Fires s .scalar false qu ∧ Room s 1 ∧ s.operand qu = 0 ∧ s.core.eng.copies = [] ∧ inFlight s.core.tcc s.core.pend ≤ 48) ∧
    (∀ tag ∈ [8, 10], let d := copyDesc tag 0 0
     let s := withDesc d (ports 10 [(1, 2)] core0)
     1 < (s.core.port 10 1).toNat ∧ CopyFields d ∧ Reads s 10 tag copyWords (s.operand (im 0x1000)) d ∧ word d 5 = 0 ∧ word d 6 = 0) ∧
    (let d := copyDesc 9 2 0
     let s := withDesc d (ports 10 [(1, 2)] core0)
     1 < (s.core.port 10 1).toNat ∧ CopyFields d ∧ Reads s 10 9 copyWords (s.operand (im 0x1000)) d ∧ word d 5 = 2) ∧
    (let d := [w0 11, 0, spBase + 0x3000, 0, 15 * 65536, 0, 0, 0]
     Reads (withDesc d (ports 10 [(1, 2)] core0)) 10 11 [2 ^ 24 - 1, 2 ^ 61 - 1, 2 ^ 64 - 1, 2 ^ 32 - 1, 0, 0, 0] 0x1000 d ∧
       (bits (word d 2) 60 60 = 1 → bits (word d 2) 56 0 = 0) ∧ (bits (word d 2) 60 60 = 0 → bits (word d 2) 59 57 = 0)) ∧
    (let s := on (chan1 { core0 with eng := { Engines.zero with copies := [copyOf base 1 (copyDesc 8 0 0)] } })
     Channel s 1 ∧ s.operand qu = 0 ∧ s.operand (im 1) ≠ 0 ∧ ∃ c ∈ s.core.eng.copies, c.ch = 1 ∧ c.written < c.count) := by
  refine ⟨rfl, rfl, ⟨⟨by decide +kernel, by decide⟩, fires_qu _ rfl, room_on rfl (by decide), by decide +kernel, rfl, by decide +kernel⟩, ?_,
    ⟨by decide +kernel, copyFields_of (by decide +kernel), reads_of rfl (by decide +kernel), rfl⟩,
    ⟨reads_of rfl (by decide +kernel), by decide, by decide⟩,
    ⟨by decide +kernel, by decide⟩, by decide +kernel, by decide +kernel, _, List.mem_singleton.mpr rfl, rfl, by decide +kernel⟩
  intro tag h
  simp only [List.mem_cons, List.not_mem_nil, or_false] at h
  rcases h with rfl | rfl <;>
    exact ⟨by decide +kernel, copyFields_of (by decide +kernel), reads_of rfl (by decide +kernel), rfl, rfl⟩

/-! ### Sparse streams, Ember, fabric, tiles -/

/-- Two stream slots of two keys each in the scratchpad. -/
def slotted : Core := { core0 with eng := { Engines.zero with slots := [(0, ⟨spBase + 0x2000, 2⟩), (1, ⟨spBase + 0x2040, 2⟩)] } }
def in0 : SSlot := ⟨spBase + 0x2000, 2⟩
def in1 : SSlot := ⟨spBase + 0x2040, 2⟩

/-- A binding of window 3 to four rows of 64 bytes with one index, START 117; the bundle whose slot 0 asks for it. -/
def bindDesc : List Nat := [117 * 65536 + 14, 3, 0x10000, 2 ^ 32 + 4, 64, 2 ^ 32 + 0x2000, 0, 0]
def swMove : RawMove := ⟨11, 14, im 0x1000⟩
def swBundle : Bundle := ⟨false, 0, [(0, swMove), (1, ⟨0, 0, ⟨.always, .latch 0⟩⟩), (2, ⟨0, 0, ⟨.always, .latch 0⟩⟩), (3, ⟨0, 0, ⟨.always, .latch 0⟩⟩)]⟩
def swbCore : Core := { core0 with tlb := [leaf0], imem := wrLE [] 96 4 0b00_1011_001110_11_000001000000000000 }

theorem witness_SparseStreams :
    (let d := [8, 7, spBase + 0x3FFFFC, 1, 0, 0, 0, 0]
     let s := withDesc d core0
     Fires s .scalar false (im 0x1000) ∧ Reads s 11 8 [7, 2 ^ 57 - 1, 2 ^ 24 - 1, 0, 0, 0, 0] 0x1000 d ∧ scStart d = 0 ∧ word d 2 % 4 = 0 ∧
       StreamOk s false (word d 2) (4 * word d 3)) ∧
    (let d := [w0 9, 8, spBase + 0x3000, 2, 0, 0, 0, 0]
     let s := withDesc d slotted
     Reads s 11 9 [0x1FFFF, 2 ^ 57 - 1, 2 ^ 24 - 1, 0, 0, 0, 0] 0x1000 d ∧ bits (word d 1) 7 6 = 0 ∧ bits (word d 1) 16 8 = 0 ∧
       sget ⟨0, 0⟩ s.core.eng.slots (bits (word d 1) 2 0) = in0 ∧ sget ⟨0, 0⟩ s.core.eng.slots (bits (word d 1) 5 3) = in1 ∧
       SpsFits s d .isect [in0, in1] []) ∧
    (let d := [w0 10, 8, 0, 0, 0, 0, 0, 0]
     SpsFits (withDesc d slotted) d .isectc [in0, in1] []) ∧
    (let d := [w0 11, 0x10300, spBase + 0x3000, 4, 0, 0, 0, 0]
     let s := withDesc d slotted
     Reads s 11 11 [0x1FFFF, 2 ^ 57 - 1, 2 ^ 24 - 1, 0, 0, 0, 0] 0x1000 d ∧ bits (word d 1) 7 0 = 0 ∧ bits (word d 1) 15 8 ≠ 0 ∧
       ((List.range 8).filter fun k => bits (word d 1) (8 + k) (8 + k) = 1).map (sget ⟨0, 0⟩ s.core.eng.slots) = [in0, in1] ∧
       SpsFits s d (.merge true) [in0, in1] []) ∧
    (Fires (on (top 1 core0)) .scalar false qu ∧ Room base 1 ∧ base.core.eng.sps = [] ∧ (on (top 1 core0)).operand qu = 1 ∧ 1 < (2 : W64).toNat) ∧
    (let s := withDesc bindDesc swbCore
     let s0 := s.onCore fun c => c.popPos.enterTarget
     let todo := swBundle.moves.filter fun x => !s0.core.doneMask.getLsbD x.1
     let s1 := s0.onCore fun c => { c with curHdr := swBundle.hdr }
     let sk := s1.onCore fun c => { c with slot := 0 }
     let g := bindingOf bindDesc
     s0.core.seg.first ≤ s0.core.cur.idx ∧ s0.core.cur.idx ≤ s0.core.seg.last ∧ checkBundle s0.core.fetch = .ok swBundle ∧
       s0.core.lendBad swBundle = false ∧ s0.core.hasBar swBundle.moves = false ∧ (s1.portWrites todo).core.tileHolds todo = false ∧
       (todo.find? fun x => x.2.unit == 11 && x.2.port == 14 && s1.core.guardPass x.2.move.guard) = some (0, swMove) ∧
       s.core.copyLate (coreDie s.focus) 0 [(g.idx, 4 * min 16 g.count)] = none ∧ BanksFree sk 0 0 false (rowsIn g.idx (4 * min 16 g.count)) ∧
       s.core.bindRead = none ∧ 0 < g.count ∧ Reads sk 11 14 bindWords 0x1000 bindDesc ∧ BindingOk sk g) ∧
    (let s := withDesc bindDesc { core0 with tlb := [leaf0], bindRead := some ⟨bindDesc, [3]⟩ }
     let b := bindingOf bindDesc
     Fires s .scalar false (im 0x1000) ∧ s.core.bindRead = some ⟨bindDesc, [3]⟩ ∧ b.count - [3].length = 0 ∧ 3 < b.rows ∧
       s.coverRanges true false [(b.tbase, b.rows * b.rstride)] [] = .ok [leaf0] ∧ PinsFit s [leaf0] ∧
       Leads s.core.scc.toNat bindDesc ∧ s.core.spsPending < 4) ∧
    (let d := bindDesc.set 5 (17 * 2 ^ 32 + 0x203C)
     let g := bindingOf d
     g.count - [3].length = 16 ∧ ([3].length + g.idx % 64 / 4) / 16 < (g.count + 15) / 16 ∧ min (16 - (g.idx + 4) % 64 / 4) (g.count - 1) = 16 ∧
       (let s := on { core0 with tlb := [leaf0], bindRead := some ⟨d, List.replicate 15 3⟩ }
        g.count - (List.replicate 15 3).length = 2 ∧ s.core.copyLate (coreDie s.focus) 0 [(g.idx + 60, 8)] = none ∧
          BanksFree s 0 0 false (rowsIn (g.idx + 60) 8) ∧ ∀ j < 2, rdLE s.core.sp (g.idx + 60 + 4 * j) 4 < g.rows)) ∧
    (let d := [w0 15, 3, 0, 0, 0, 0, 0, 0]
     let s := withDesc d core0
     Reads s 11 15 [3, 0, 0, 0, 0, 0, 0] 0x1000 d ∧ Enters s d (s.core.spsPending < 4)) := by
  refine ⟨⟨fires_im _ _ _ rfl, reads_of rfl (by decide +kernel), by decide, by decide +kernel, .inr ⟨0x3FFFFC, by decide +kernel, by decide, by decide +kernel, by decide⟩⟩,
    ⟨reads_of rfl (by decide +kernel), by decide, by decide, by decide +kernel, by decide +kernel,
      ⟨by decide, by decide +kernel, by decide +kernel, fun _ _ => .inr ⟨0x3000, by decide +kernel, by decide, by decide +kernel, by decide +kernel⟩, by decide +kernel,
        ⟨covered_nil (by decide +kernel) (by decide +kernel), pins_nil rfl, by unfold Leads; decide +kernel, by decide +kernel⟩⟩⟩,
    ⟨fun _ => ⟨rfl, rfl⟩, by decide, by decide, fun h => absurd rfl h, by decide +kernel,
      ⟨covered_nil (by decide +kernel) (by decide +kernel), pins_nil rfl, by unfold Leads; decide +kernel, by decide +kernel⟩⟩,
    ⟨reads_of rfl (by decide +kernel), by decide, by decide, by decide +kernel,
      ⟨by decide, by decide +kernel, by decide +kernel, fun _ _ => .inr ⟨0x3000, by decide +kernel, by decide, by decide +kernel, by decide +kernel⟩, by decide +kernel,
        ⟨covered_nil (by decide +kernel) (by decide +kernel), pins_nil rfl, by unfold Leads; decide +kernel, by decide +kernel⟩⟩⟩,
    ⟨fires_qu _ rfl, room_on rfl (by decide), rfl, by decide +kernel, by decide⟩,
    ⟨by decide +kernel, by decide +kernel, ok_eq (by decide +kernel), by decide +kernel, by decide +kernel, by decide +kernel, by decide +kernel,
      by decide +kernel, banksFree_nil rfl, rfl, by decide +kernel, reads_of rfl (by decide +kernel), ⟨by decide +kernel, by decide +kernel, by decide +kernel,
      by decide +kernel, by decide +kernel⟩⟩,
    ⟨fires_im _ _ _ rfl, rfl, by decide +kernel, by decide +kernel, ok_eq (by decide +kernel), by unfold PinsFit; decide +kernel, by unfold Leads; decide +kernel,
      by decide +kernel⟩,
    ⟨by decide +kernel, by decide +kernel, by decide +kernel, by decide +kernel, by decide +kernel, banksFree_nil rfl, by decide +kernel⟩,
    reads_of rfl (by decide +kernel), pins_nil rfl, by unfold Leads; decide +kernel, by decide +kernel⟩

/-- Commands that touch the last bytes that they may: the last entry, the last row of the footprint, all domains. -/
theorem witness_EmberCommands :
    (let d := [w0 8, 0x2000 * 2 ^ 24 + 255, 0, 0, 0, 0, 0, 0]
     let s := withDesc d core0
     Fires s .scalar false (im 0x1000) ∧ s.core.eng.ember.flt.getLsbD 63 = false ∧ Enters s d (EmberRoom s) ∧
       Reads s 12 8 [0xFFFFFF01FFFF, 0, 0, 0, 0, 0, 0] 0x1000 d ∧ bits (word d 1) 7 0 + (bits (word d 1) 15 8 + 1) ≤ 256 ∧ bits (word d 1) 47 24 % 8 = 0 ∧
       patchBad s.core.eng.ember.plan [(255, 0)] = none ∧ s.core.eng.ember.patched ≤ 116 ∧ bits (word d 1) 16 16 = 0 ∧ s.core.task.spOk 0x2000 8 = true ∧
       s.core.copyLate (coreDie s.focus) 0 [(0x2000, 8)] = none ∧ BanksFree s 0 0 false (rowsIn 0x2000 8) ∧ rdLE s.core.sp 0x2000 8 = 0) ∧
    (let d := [w0 8, 0x3FFF8 * 2 ^ 24 + 0x100FF, 0, 0, 0, 0, 0, 0]
     Reads (withDesc d core0) 12 8 [0xFFFFFF01FFFF, 0, 0, 0, 0, 0, 0] 0x1000 d ∧ bits (word d 1) 16 16 = 1 ∧ 0x3FFF8 + 8 * 1 ≤ 0x40000) ∧
    (let d := [w0 9, 0x3FFF00 * 2 ^ 24 + 3, 2 ^ 64 - 1, 0, 0, 0, 0, 0]
     let s := withDesc d core0
     Reads s 12 9 [0xFFFFFF000003, 2 ^ 64 - 1, 0, 0, 0, 0, 0] 0x1000 d ∧ bits (word d 1) 47 24 % 64 = 0 ∧ s.core.task.spOk 0x3FFF00 256 = true) ∧
    (let d := [w0 15, 0x3FFF00 * 2 ^ 24 + 3, 0, 0, 0, 0, 0, 0]
     let s := withDesc d core0
     Reads s 12 15 [0xFFFFFF000003, 0, 0, 0, 0, 0, 0] 0x1000 d ∧ s.core.copyLate (coreDie s.focus) 0 [(0x3FFF00, 256)] = none ∧
       BanksFree s 0 0 false (rowsIn 0x3FFF00 256) ∧ ∀ x ∈ (List.range 64).map fun l => rdLE s.core.sp (0x3FFF00 + 4 * l) 4 % 8, x % 4 ≠ 2) ∧
    (Room base 1 ∧ (let d := [w0 10, 3, 0, 0, 0, 0, 0, 0]; Reads (withDesc d core0) 12 10 [3, 0, 0, 0, 0, 0, 0] 0x1000 d) ∧
      (let d := [w0 16, 3, 0, 0, 0, 0, 0, 0]; Reads (withDesc d core0) 12 16 [3, 0, 0, 0, 0, 0, 0] 0x1000 d)) ∧
    (let d := [w0 11, 0x3FF800 * 2 ^ 24 + 15, 0, 0, 0, 0, 0, 0]
     let s := withDesc d core0
     Reads s 12 11 [0xFFFFFF00000F, 0, 0, 0, 0, 0, 0] 0x1000 d ∧ bits (word d 1) 3 0 ≠ 0 ∧ s.core.task.spOk 0x3FF800 2048 = true) ∧
    (let d := [w0 12, 0x3FF800 * 2 ^ 24 + 15, 0, 0, 0, 0, 0, 0]
     let s := withDesc d core0
     Reads s 12 12 [0xFFFFFF00000F, 0, 0, 0, 0, 0, 0] 0x1000 d ∧ ∀ k < 4, s.core.eng.ember.stepsIn k s.core.tcc 116 (116 + 32) = false) ∧
    (let d := [w0 13, 2 ^ 48 + 3, 0, 0, 0, 0, 0, 0]
     let s := withDesc d { core0 with eng := { Engines.zero with ember := { Ember.zero with doms := Vector.replicate 4 ⟨.counted 0, 0⟩ } } }
     let e' := s.withCmd d (.step 3 65536)
     Reads s 12 13 [0x1FFFF00000003, 0, 0, 0, 0, 0, 0] 0x1000 d ∧ bits (word d 1) 48 32 = 65536 ∧ bits (word d 1) 1 0 = 3 ∧
       e'.modeAt 3 s.core.tcc 116 = .counted 0 ∧ e'.mostOwed 3 s.core.tcc ≤ 131071 ∧ e'.restBusy s.core.tcc = false) ∧
    (let d := [w0 14, 1 * 65536 + 4 + 3, 0, 0, 0, 0, 0, 0]
     let s := withDesc d core0
     Reads s 12 14 [0xFFFF000F, 0, 0, 0, 0, 0, 0] 0x1000 d ∧ bits (word d 1) 3 2 = 1 ∧ (s.withCmd d (.clk 3 1 1)).restBusy s.core.tcc = false) ∧
    (on { core0 with eng := { Engines.zero with ember := { Ember.zero with flt := 0x8000000000000000 } } }).core.eng.ember.flt.getLsbD 63 = true := by
  refine ⟨⟨fires_im _ _ _ rfl, rfl, ⟨pins_nil rfl, by unfold Leads; decide +kernel, by unfold EmberRoom; decide +kernel⟩, reads_of rfl (by decide +kernel), by decide,
      by decide, by decide +kernel, by decide +kernel, by decide, by decide +kernel, by decide +kernel, banksFree_nil rfl, by decide +kernel⟩,
    ⟨reads_of rfl (by decide +kernel), by decide, by decide⟩, ⟨reads_of rfl (by decide +kernel), by decide, by decide +kernel⟩,
    ⟨reads_of rfl (by decide +kernel), by decide +kernel, banksFree_nil rfl, by decide +kernel⟩,
    ⟨room_on rfl (by decide), reads_of rfl (by decide +kernel), reads_of rfl (by decide +kernel)⟩,
    ⟨reads_of rfl (by decide +kernel), by decide, by decide +kernel⟩, ⟨reads_of rfl (by decide +kernel), by decide +kernel⟩,
    ⟨reads_of rfl (by decide +kernel), by decide, by decide, by decide +kernel, by decide +kernel, by decide +kernel⟩,
    ⟨reads_of rfl (by decide +kernel), by decide, by decide +kernel⟩, by decide +kernel⟩

/-- The operands of a fabric command: remote address 0x1000 of a peer, local row 0x2000, completion word 0x3000. -/
def fabbing (c : Core) : Core := ports 13 [(1, BitVec.ofNat 64 (peerBase + 0x1000)), (2, BitVec.ofNat 64 (spBase + 0x2000)), (3, 0x3000)] c

theorem witness_RemoteCommands :
    (let d := [w0 9, 64 * 65536 + 5, peerBase + 0x1008, 0, 0, 0, 0, 0]
     let s := withDesc d (fabbing core0)
     Fires s .scalar false (im 0x1000) ∧ CwOk s ∧ bits (word d 1) 28 16 = 64 ∧ LocalOk s (fabB s).toNat (64 * 64) ∧ RemoteOk (fabA s) 64 ∧
       RemoteOk (word d 2) 8 ∧ EntersWith s d (pagesAt (fabB s).toNat (64 * 64)) [] (FabRoom s) [] ∧
       Reads s 13 9 [0x1FFF1FFF, 2 ^ 57 - 1, 0, 0, 0, 0, 0] 0x1000 d ∧ s.core.eng.fab.rel.length < 64) ∧
    (let d := [w0 10, 5, peerBase + 0x1008, 0, 0, 0, 0, 0]
     Reads (withDesc d (fabbing core0)) 13 10 [0x1FFF1FFF, 2 ^ 57 - 1, 0, 0, 0, 0, 0] 0x1000 d ∧ bits (word d 1) 28 16 = 0) ∧
    (let d := [w0 8, 64 * 65536 + 5, 0, 0, 0, 0, 0, 0]
     let s := withDesc d (fabbing core0)
     Reads s 13 8 [0x1FFF0FFF, 0, 0, 0, 0, 0, 0] 0x1000 d ∧ EntersWith s d [] (pagesAt (fabB s).toNat (64 * 64)) (FabRoom s) []) ∧
    (let d := [w0 11, 15 * 65536 + 5, 1, 2 ^ 63 + 0x3FFFF8, 0, 0, 0, 0]
     let s := withDesc d (fabbing core0)
     Reads s 13 11 [0xF0FFF, 2 ^ 64 - 1, 2 ^ 63 + 0xFFFFFF, 0, 0, 0, 0] 0x1000 d ∧ bits (word d 3) 63 63 = 1 ∧ FieldOk s (bits (word d 3) 23 0) ∧
       RemoteOk (fabA s) (atomWidth (bits (word d 1) 19 16)) ∧ Enters s d (FabRoom s)) := by
  refine ⟨⟨fires_im _ _ _ rfl, by unfold CwOk; decide +kernel, by decide,
      ⟨by decide +kernel, by decide +kernel, .inl ⟨0x2000, by decide +kernel, by decide +kernel⟩⟩, by unfold RemoteOk; decide +kernel,
      by unfold RemoteOk; decide +kernel, ⟨covered_nil (by decide +kernel) rfl, pins_nil rfl, by unfold Leads; decide +kernel, by unfold FabRoom; decide +kernel⟩,
      reads_of rfl (by decide +kernel), by decide +kernel⟩,
    ⟨reads_of rfl (by decide +kernel), by decide⟩,
    ⟨reads_of rfl (by decide +kernel), covered_nil rfl (by decide +kernel), pins_nil rfl, by unfold Leads; decide +kernel, by unfold FabRoom; decide +kernel⟩,
    reads_of rfl (by decide +kernel), by decide, by unfold FieldOk; decide +kernel, by unfold RemoteOk; decide +kernel, pins_nil rfl,
    by unfold Leads; decide +kernel, by unfold FabRoom; decide +kernel⟩

/-- The core with group 15 set up, port b naming a field. -/
def grouped (b : W64) : Core :=
  { fabbing core0 with
    regs := (ports 13 [(2, b)] (fabbing core0)).regs
    eng := { Engines.zero with fab := ⟨[], [(15, 2)], [], []⟩ } }

theorem witness_GroupCommands :
    (let d := [w0 12, 0x3FFF * 65536 + 15 + 0 * 16, 0x3000, 0, 0, 0, 0, 0]
     let s := withDesc d (grouped 0x10000)
     Fires s .scalar false (im 0x1000) ∧ CwOk s ∧ Reads s 13 12 [0x3FFF0FFF, 0xFFFFFF, 0, 0, 0, 0, 0] 0x1000 d ∧
       RedPair (bits (word d 1) 7 4) (bits (word d 1) 11 8) ∧ bits (word d 1) 29 16 ≠ 0 ∧ (fabB s).toNat % 64 = 0 ∧
       s.core.task.spOk (fabB s).toNat (0x3FFF * elemOut 0 0) = true ∧ FieldOk s (word d 2) ∧ RemoteOk (fabA s) (elemIn 0 0) ∧ GroupUp s 15 ∧ Enters s d (FabRoom s)) ∧
    (let d := [w0 13, 64 * 65536 + 15, peerBase + 0x1008, 0x3000, 0, 0, 0, 0]
     let s := withDesc d (grouped (BitVec.ofNat 64 (spBase + 0x2000)))
     Reads s 13 13 [0x1FFF100F, 2 ^ 57 - 1, 0xFFFFFF, 0, 0, 0, 0] 0x1000 d ∧ 1 ≤ bits (word d 1) 28 16 ∧ LocalOk s (fabB s).toNat (64 * 64) ∧
       FieldOk s (word d 3) ∧ RemoteOk (word d 2) 8 ∧ EntersWith s d (pagesAt (fabB s).toNat (64 * 64)) [] (FabRoom s) []) ∧
    (let d := [w0 14, 31, 0, 0, 0, 0, 0, 0]
     let s := withDesc d (grouped 0)
     Reads s 13 14 [0x3F1F, 0xFFFFFFFF, 0xFFFFFF, 0, 0, 0, 0] 0x1000 d ∧ bits (word d 1) 4 4 = 1 ∧ word d 1 / 32 = 0) ∧
    (let d := [w0 14, 256 + 15, 77, 0x2000, 0, 0, 0, 0]
     let s := on (words 0x2000 [4, 0x1000, 5, 0x2000] (words 0x1000 d (grouped 0)))
     let tbl := (List.range 2).map fun r => (rdLE s.core.sp (0x2000 + 16 * r) 8, rdLE s.core.sp (0x2000 + 16 * r + 8) 8)
     Reads s 13 14 [0x3F1F, 0xFFFFFFFF, 0xFFFFFF, 0, 0, 0, 0] 0x1000 d ∧ bits (word d 1) 4 4 = 0 ∧ word d 3 % 16 = 0 ∧ s.core.task.spOk (word d 3) 32 = true ∧
       s.core.copyLate (coreDie s.focus) 0 [(word d 3, 32)] = none ∧ BanksFree s 0 0 false (rowsIn (word d 3) 32) ∧
       (tbl.map (·.1)).Pairwise (· < ·) ∧ ∀ x ∈ tbl, x.1 < 4096 ∧ x.2 < 2 ^ 57) ∧
    (let d := [w0 15, 15, 0x3000, 0, 0, 0, 0, 0]
     let s := withDesc d (grouped 0)
     Reads s 13 15 [0xF, 0xFFFFFF, 0, 0, 0, 0, 0] 0x1000 d ∧ FieldOk s (word d 2) ∧ GroupUp s 15 ∧ s.core.eng.fab.groups.lookup 15 = some 2) ∧
    (2 : W64).toNat ≤ 2 ∧ Room base 1 := by
  refine ⟨⟨fires_im _ _ _ rfl, by unfold CwOk; decide +kernel, reads_of rfl (by decide +kernel), .inl (by decide +kernel), by decide, by decide +kernel,
      by decide +kernel, by unfold FieldOk; decide +kernel, by unfold RemoteOk; decide +kernel, ⟨_, List.mem_singleton.mpr rfl, rfl⟩, pins_nil rfl,
      by unfold Leads; decide +kernel, by unfold FabRoom; decide +kernel⟩,
    ⟨reads_of rfl (by decide +kernel), by decide, ⟨by decide +kernel, by decide +kernel, .inl ⟨0x2000, by decide +kernel, by decide +kernel⟩⟩,
      by unfold FieldOk; decide +kernel, by unfold RemoteOk; decide +kernel,
      ⟨covered_nil (by decide +kernel) rfl, pins_nil rfl, by unfold Leads; decide +kernel, by unfold FabRoom; decide +kernel⟩⟩,
    ⟨reads_of rfl (by decide +kernel), by decide, by decide⟩,
    ⟨reads_of rfl (by decide +kernel), by decide, by decide, by decide +kernel, by decide +kernel, banksFree_nil rfl, by decide +kernel, by decide +kernel⟩,
    ⟨reads_of rfl (by decide +kernel), by unfold FieldOk; decide +kernel, ⟨_, List.mem_singleton.mpr rfl, rfl⟩, by decide +kernel⟩, by decide,
    room_on rfl (by decide)⟩

/-! ### The stream -/

/-- A product of one FP32 element on part 1 at L0, its completion area at 0x3000. -/
def tileWord : List Nat := [2 ^ 48, 2 ^ 24, 2, spBase + 0x3000]

theorem witness_TileIssue :
    (let s := on (words 0x2000 tileWord core0)
     Fires s .scalar false (im 0x2000) ∧ (s.operand (im 0x2000)).toNat = 0x2000 ∧ s.core.task.spOk 0x2000 32 = true ∧
       s.core.copyLate (coreDie s.focus) 0 [(0x2000, 32)] = none ∧ BanksFree s 0 0 false [0x2000] ∧ tileWords s 0x2000 = tileWord ∧ TileOk s tileWord ∧
       AreaOk s tileWord []) ∧
    (let s := on (words 0x2000 tileWord { core0 with tlb := [leaf0] })
     AreaOk s [2 ^ 48, 2 ^ 24, 2, 0x1FFFC8] [leaf0]) ∧
    tileWordOk [2 ^ 48 + 14, 2 ^ 24, 2, spBase + 0x3000] = false ∧
    (let w := [2 ^ 48 + 10 * 65536, 2 ^ 24, 2, spBase + 0x3000]
     tileWordOk w = true ∧ tileOpc w ≤ 2 ∧ fmtCombo (tileFmt w) (tileSr w) = false) ∧
    (let w := [3 * 256 + 12, 0, 0, spBase + 0x3000]
     tileWordOk w = true ∧ tileOpc w = 12 ∧ base.core.task.mayTarget w = false) ∧
    (let w := [2 ^ 48 + 12, 0, 0, spBase + 0x3000]
     tileWordOk w = true ∧ base.core.task.mayTarget w = true ∧
       ({ base with mod := { base.mod with tiles := List.replicate 4 ⟨9, w, 0, false, ⟨14, 0, 5, 90⟩, 0, 1, 0, 0, false, [], [], 0, []⟩ } } : State).tilesOf.length = 4) ∧
    Room base 1 ∧ (on (top 1 core0)).operand qu = 1 ∧ 1 < (2 : W64).toNat ∧ (0x1FF0 : W64).toNat % 32 ≠ 0 := by
  refine ⟨⟨fires_im _ _ _ rfl, by decide +kernel, by decide +kernel, by decide +kernel, banksFree_nil rfl, by decide +kernel,
      ⟨by decide +kernel, .inr (by decide +kernel), by decide +kernel, by decide +kernel, by decide +kernel⟩,
      .inl ⟨0x3000, by decide +kernel, by decide +kernel, rfl⟩⟩,
    .inr ⟨fun off h => ?_, ok_eq (by decide +kernel), by unfold PinsFit; decide +kernel⟩, by decide +kernel,
    ⟨by decide +kernel, by decide +kernel, by decide +kernel⟩, by decide +kernel, by decide +kernel, room_on rfl (by decide), by decide +kernel, by decide, by decide⟩
  have : regionOf (tileCw [2 ^ 48, 2 ^ 24, 2, 0x1FFFC8]) = .global := by decide +kernel
  rw [this] at h; cases h

theorem witness_DecodeEncode : (Instr.fence (im 14)).wellFormed = true ∧ encode (.fence (im 14)) = some (0x38CC000E, 0) := by decide +kernel

theorem witness_StepRuns : State.reset.agenda = [] ∧ State.reset.due = [.firmwareBoot] ∧
    ({ base with agenda := [.resultLand] }).agenda = [.resultLand] ∧ ({ base with inbox := [.computeReset] }).inbox = [.computeReset] ∧ base.inbox = [] :=
  ⟨rfl, rfl, rfl, rfl, rfl⟩

def zeroMove : RawMove := ⟨0, 0, ⟨.always, .latch 0⟩⟩
def zeroSlot : Instr := .port0Discard 0 ⟨.always, .latch 0⟩
/-- A bundle of four moves to port 0, as the four words 0 read. -/
def zeroBundle : Bundle := ⟨false, 0, (List.range 4).map fun k => (k, zeroMove)⟩

/-- An add whose bundle holds nothing else that passes its guard, and its words. -/
def addMove : RawMove := ⟨0, 9, im 5⟩
def nopMove : RawMove := ⟨14, 8, ⟨.ifTrue, .imm 0⟩⟩
def addBundle : Bundle := ⟨false, 0, [(0, nopMove), (1, addMove), (2, zeroMove), (3, zeroMove)]⟩
def addImem : Mem := [(96, 0x788C0000), (100, 0b00_0000_001001_11_000000000000000101)].foldl (fun m x => wrLE m x.1 4 x.2) []

theorem witness_BundleActs : zeroMove.instr = some zeroSlot ∧
    (let s0 := base.onCore fun c => c.popPos.enterTarget
     let todo := zeroBundle.moves.filter fun x => !s0.core.doneMask.getLsbD x.1
     let s1 := (s0.onCore fun c => { c with curHdr := zeroBundle.hdr }).portWrites todo
     s0.core.seg.first ≤ s0.core.cur.idx ∧ s0.core.cur.idx ≤ s0.core.seg.last ∧ checkBundle s0.core.fetch = .ok zeroBundle ∧
       s0.core.lendBad zeroBundle = false ∧ s0.core.hasBar zeroBundle.moves = false ∧ s1.core.tileHolds todo = false ∧
       todo.mapM (fun x => x.2.instr.map fun i => (x.1, i)) = some ((List.range 4).map fun k => (k, zeroSlot)) ∧
       (s0.onCore fun c => { c with curHdr := zeroBundle.hdr }).bindWaits todo = none ∧ ∃ u, Acts ((List.range 4).map fun k => (k, zeroSlot)) s1 u) ∧
    (let s := on { core0 with imem := addImem }
     let s0 := s.onCore fun c => { c.popPos.enterTarget with curHdr := addBundle.hdr, slot := 1 }
     s0.core.seg.first ≤ s0.core.cur.idx ∧ s0.core.cur.idx ≤ s0.core.seg.last ∧ checkBundle s0.core.fetch = .ok addBundle ∧
       s0.core.lendBad addBundle = false ∧ s0.core.cur.loopDelay = false ∧ s.core.mode = .run ∧ s.core.halt = false ∧
       (addBundle.moves.filter fun x => !s0.core.doneMask.getLsbD x.1) = [(0, nopMove)] ++ (1, addMove) :: [(2, zeroMove), (3, zeroMove)] ∧
       (∀ x ∈ [(0, nopMove)] ++ [(2, zeroMove), (3, zeroMove)],
         x.2.unit = 14 ∧ x.2.port = 8 ∧ x.2.move.src.bad .scalar = none ∧ s0.core.guardPass x.2.move.guard = false ∨
         x.2.port = 0 ∧ x.2.unit ≠ 8 ∧ x.2.move.src.bad .any = none ∧ s0.core.schedCtl = 0) ∧
       addMove.instr = some (.add 0 (im 5)) ∧ (∃ f, aluForm (.add 0 (im 5)) = some (0, im 5, f)) ∧ Fires s0 .scalar false (im 5) ∧ Room s0 1) ∧
    (let r : RawMove := ⟨6, 1, im 5⟩
     (0, r) ∈ [(0, r)] ∧ operandClass r.unit r.port = .vector ∧ Fires (base.onCore fun c => { c with slot := 0 }) .vector false r.move ∧ base.core.mode = .run) := by
  refine ⟨by decide +kernel, ⟨by decide +kernel, by decide +kernel, ok_eq (by decide +kernel), by decide +kernel, by decide +kernel, by decide +kernel,
    by decide +kernel, by decide +kernel, _, ⟨_, rfl, ?_, ?_, _, rfl, ?_, ?_, _, rfl, ?_, ?_, _, rfl, ?_, ?_, rfl⟩⟩,
    ⟨by decide +kernel, by decide +kernel, ok_eq (by decide +kernel), by decide +kernel, rfl, rfl, rfl, by decide +kernel, by decide +kernel, by decide +kernel,
      ⟨_, rfl⟩, fires_of (by decide +kernel), by unfold Room; decide +kernel⟩, List.mem_singleton.mpr rfl, by decide,
    fires_im (c := { core0 with slot := 0 }) _ _ _ rfl, rfl⟩ <;> decide +kernel

/-- A stream that leaves its segment, a header in slot 1, two slots on one port, a nullified position, a breakpoint. -/
theorem witness_Positions :
    (let c0 := (on { core0 with cur := Pos.plain 15 }).core.popPos.enterTarget
     c0.seg.last < c0.cur.idx) ∧
    (let c0 := ({ core0 with imem := wrLE [] 100 4 0x3C000000 }).popPos.enterTarget
     c0.seg.first ≤ c0.cur.idx ∧ c0.cur.idx ≤ c0.seg.last ∧ checkBundle c0.fetch = .error (.slot 1 .hdrPlace)) ∧
    (let c0 := ({ core0 with imem := wrLE [] 96 8 (0x00100000 + 2 ^ 32 * 0x00100000) }).popPos.enterTarget
     checkBundle c0.fetch = .error (.pair 1)) ∧
    (let c0 := core0.popPos.enterTarget
     checkBundle c0.fetch = .ok zeroBundle ∧ c0.lendBad zeroBundle = false ∧ core0.halt = false) := by
  refine ⟨by decide +kernel, ⟨by decide +kernel, by decide +kernel, err_eq (by decide +kernel)⟩, err_eq (by decide +kernel), ok_eq (by decide +kernel),
    by decide +kernel, rfl⟩

/-- A core that walks from node 0 of an instruction store with one entry of two words at byte 0, and a last entry at node 1. -/
def walking (passed lo hi : Nat) : Core :=
  { core0 with walk := some ⟨0, passed⟩, imem := wrLE (wrLE (wrLE [] 0 8 lo) 8 8 hi) 16 8 3 }
def two : Nat := 2 ^ 33

theorem witness_StreamSteps :
    (let w : Wait := .word false (spBase + 0x1000) 5 0 none
     (on (words 0x1000 [5] { core0 with wait := some w })).core.wait = some w ∧ (0x1000 : Nat) < 0x400000 ∧
       waitHolds false 5 (BitVec.ofNat 64 (rdLE (words 0x1000 [5] core0).sp 0x1000 8)) = true) ∧
    (let w : Wait := .word true 0x100040 5 0 (some 0)
     (on { core0 with wait := some w }).core.wait = some w ∧ 0 ≤ base.wall) ∧
    (let w : Wait := .word false (csrBase + 8 * 0x10) 7 0 none
     let s := on { core0 with wait := some w }
     s.core.wait = some w ∧ 8 * 0x10 < 0x8000 ∧ s.core.csrRead (8 * 0x10 / 8) = some 7 ∧ waitHolds false 7 7 = true) ∧
    (let w : Wait := .bar ⟨0, 0, 1, 1⟩ 0 (some 0)
     (on { core0 with wait := some w }).core.wait = some w ∧ (base.ts - 0).toNat < 2 ^ 63) ∧
    (let w : Wait := .bar ⟨0, 0, 1, 1⟩ 0 none
     (on { core0 with wait := some w }).core.wait = some w) ∧
    (let w : Wait := .bar ⟨0, 0, 1, 1⟩ 0 (some 1)
     (on { core0 with wait := some w }).core.wait = some w ∧ 2 ^ 63 ≤ (base.ts - 1).toNat) ∧
    (let w : Wait := .word true 0x100040 5 0 none
     (on { core0 with wait := some w }).core.wait = some w ∧ regionOf 0x100040 = .global) ∧
    (let c := walking 0 7 two
     c.theWalk = some ⟨0, 0⟩ ∧ (c.node 0).bad 0 c.nodeCount = true) ∧
    (let c := walking 0 (2 * 256 + 5 * 2 ^ 22 + 2 ^ 36) two
     c.theWalk = some ⟨0, 0⟩ ∧ (c.node 0).bad 0 c.nodeCount = false ∧ (c.node 0).kind = 0 ∧ c.stopAsked = none ∧ ∀ k < 4, (vget 0 c.bkpt k).getLsbD 63 = false) ∧
    (let c := walking 15 (1 + 2 ^ 36 + 2 ^ 48) two
     c.theWalk = some ⟨0, 15⟩ ∧ (c.node 0).bad 0 c.nodeCount = false ∧ (c.node 0).kind = 1) ∧
    (let c := walking 0 (2 + 2 ^ 36 + 2 ^ 48) (two + 1)
     (c.node 0).bad 0 c.nodeCount = false ∧ (c.node 0).kind = 2 ∧ c.cond = 0 ∧ (c.node 0).limit = 1) ∧
    (let c := { walking 0 (2 + 2 ^ 36 + 2 ^ 48) (two + 1) with cond := 1 }
     c.cond ≠ 0 ∧ sget 0 c.counts 0 < (c.node 0).limit) ∧
    (let c := { walking 0 (2 + 2 ^ 36 + 2 ^ 48) (two + 1) with cond := 1, counts := [(0, 1)] }
     c.cond ≠ 0 ∧ (c.node 0).limit ≠ 0 ∧ (c.node 0).limit ≤ sget 0 c.counts 0) ∧
    (let c := walking 0 3 two
     (c.node 0).bad 0 c.nodeCount = false ∧ (c.node 0).kind = 3 ∧ c.eng.ember.flt.getLsbD 63 = false) ∧
    (walking 16 (1 + 2 ^ 36 + 2 ^ 48) two).theWalk = some ⟨0, 16⟩ ∧
    (let v : W64 := 2 ^ 32
     ((on ringed).core.ring 1).v = true ∧ ((on ringed).core.ring 1).feed = 0 ∧ ((on ringed).core.ring 1).ptrBad v = false ∧ v.extractLsb' 40 2 = 0) ∧
    (0x8000000000000000 : W64).getLsbD 63 = true := by
  refine ⟨⟨rfl, by decide, by decide +kernel⟩, ⟨rfl, by decide⟩, ⟨rfl, by decide, by decide +kernel, by decide⟩, ⟨rfl, by decide⟩, rfl, ⟨rfl, by decide⟩,
    ⟨rfl, by decide +kernel⟩, ⟨rfl, by decide +kernel⟩,
    ⟨rfl, by decide +kernel, by decide +kernel, rfl, by decide +kernel⟩, ⟨rfl, by decide +kernel, by decide +kernel⟩,
    ⟨by decide +kernel, by decide +kernel, rfl, by decide +kernel⟩, ⟨by decide, by decide +kernel⟩, ⟨by decide, by decide +kernel, by decide +kernel⟩,
    ⟨by decide +kernel, by decide +kernel, by decide +kernel⟩, rfl, ⟨by decide +kernel, by decide +kernel, by decide +kernel, by decide⟩, by decide⟩

/-- Results of two units that land together; one item of each kind; a byte store at the end of its cycle. -/
def pends (acts : List (Nat × PendAct)) : List Pend := acts.mapIdx fun k a => ⟨100, k, a.1, a.2, 0, .zero⟩

theorem witness_ResultsLand :
    (let s := on { core0 with pend := pends [(2, .scalar true (some 5)), (0, .scalar true (some 6))] }
     let ps := [(⟨100, 1, 0, .scalar true (some 6), 0, .zero⟩, 6), (⟨100, 0, 2, .scalar true (some 5), 0, .zero⟩, (5 : W64))]
     (ps.map (·.1)).Perm (s.core.pend.filter s.core.landsNow) ∧ (∀ x ∈ ps, x.1.act = .scalar true (some x.2) ∧ x.1.unit < 16) ∧
       ps.Pairwise fun a b => a.1.unit < b.1.unit ∨ a.1.unit = b.1.unit ∧ a.1.seq < b.1.seq) ∧
    (let s := on { core0 with pend := pends [(8, .reg 31 7)] }
     s.core.pend = [⟨100, 0, 8, .reg 31 7, 0, .zero⟩] ∧ 100 ≤ s.core.tcc ∧ 1 ≤ (31 : BitVec 6).toNat ∧ (31 : BitVec 6).toNat < 32) ∧
    (let s := on { core0 with pend := pends [(14, .csr 0x003 1)] }
     s.core.pend = [⟨100, 0, 14, .csr 0x003 1, 0, .zero⟩] ∧ s.core.eng.kiln.flagsAt s.core.tcc = 0) ∧
    (let c := { core0 with pend := pends [(4, .spWrite 0x3FFFFF 1 7)] }
     c.pend = [⟨100, 0, 4, .spWrite 0x3FFFFF 1 7, 0, .zero⟩] ∧ 100 ≤ c.tcc ∧ c.engWrites = []) := by
  refine ⟨⟨by decide +kernel, by decide, by decide⟩, ⟨rfl, by decide, by decide, by decide⟩, ⟨rfl, by decide +kernel⟩, rfl, by decide, rfl⟩

theorem witness_SlotFrame : (Instr.add 0 (im 1)).slot ≠ none ∧ next (exec (.add 0 (im 1)) base) (fun _ => true) = true := by decide +kernel

theorem witness_StorageStaysCanonical : State.reset.MemWf ∧ next (step State.reset) (fun _ => true) = true := by decide +kernel

/-! ### The memory system, holds and stops -/

/-- An access that has arrived: a read of two bytes for a slot, and other actions at the same place. -/
def acc0 (act : GAct) : GAccess := ⟨7, 0, 7, 0x40, 0x100040, false, act, 0, .zero, false, false, none⟩
def accessing (g : GAccess) : State := on { core0 with gacc := [g] }

theorem mayPerform_of {g : GAccess} (h1 : g.raced = none) (h2 : g.act ≠ .later) (h3 : g.arrive = 0) (h4 : (accessing g).atReset g = false)
    (h5 : (accessing g).spoilt g = false) : MayPerform (accessing g) g := by
  refine ⟨⟨List.mem_singleton.mpr rfl, fun y hy _ => List.mem_singleton.mp hy⟩, by simp [h3], h1, h2, (fun f hf => by cases hf), ?_, .inl rfl, h4, h5⟩
  intro a ha hlt; rw [List.mem_singleton.mp ha] at hlt; omega

/-- Page tables of three levels with one leaf for ASID 0. -/
def paged : Mem := [(ctxBase, 2 ^ 63 + 0x100000), (0x100000, 0x101001), (0x101000, 0x102001), (0x102000, 15)].foldl (fun m x => wrLE m x.1 8 x.2) []

theorem witness_MemorySystem_access :
    (MayPerform (accessing (acc0 (.read 2 (.slot 9 .sign)))) (acc0 (.read 2 (.slot 9 .sign)))) ∧
    (MayPerform (accessing (acc0 (.write [1, 2]))) (acc0 (.write [1, 2]))) ∧
    (let g := { acc0 (.write [1, 2]) with repl := true }
     MayPerform (accessing g) g ∧ g.pa < 0x6000000000 ∧ g.pa + 2 ≤ 0x6000000000) ∧
    (let a : Amo := ⟨.add, 4, 1, 0, .sign⟩
     MayPerform (accessing (acc0 (.amo a (.slot 9 a.ext)))) (acc0 (.amo a (.slot 9 a.ext)))) ∧
    raceCheck ((accessing (acc0 (.read 2 .none))).tag (acc0 (.read 2 .none)).tagPa) 0 (accessing (acc0 (.read 2 .none))).gen false = .ok 1 ∧
    (let s := { accessing (acc0 (.write [1])) with tags := [(0x100040 / 64, BitVec.ofNat 18 (7 * 256))] }
     raceCheck (s.tag (acc0 (.write [1])).tagPa) s.focus s.gen true = .error .raceWw) := by
  refine ⟨mayPerform_of rfl (by decide) rfl (by decide +kernel) (by decide +kernel), mayPerform_of rfl (by decide) rfl (by decide +kernel) (by decide +kernel),
    ⟨mayPerform_of rfl (by decide) rfl (by decide +kernel) (by decide +kernel), by decide, by decide⟩,
    mayPerform_of rfl (by decide) rfl (by decide +kernel) (by decide +kernel), ok_eq (by decide +kernel), err_eq (by decide +kernel)⟩

theorem witness_MemorySystem :
    (let g := { acc0 (.read 2 .none) with raced := some (.raceRw, 7) }
     (accessing g).core.gacc = [g] ∧ g.raced = some (.raceRw, 7) ∧ (accessing g).core.wait = none) ∧
    (let r : OppReq := ⟨1, 0, false, 0x1000, 0, [5], .none⟩
     (on { core0 with opp := [r] }).core.opp = [r] ∧ (on { core0 with opp := [r] }).core.banks = []) ∧
    (let f : Fence := ⟨3, .full, 3⟩
     let s := on { core0 with fences := [f] }
     s.core.fences = f :: [] ∧ s.core.gacc = [] ∧ s.readsCovered s.focus f.id = true ∧ s.mod.pushes = [] ∧
       s.core.peerOwed f.id (f.takes s.focus) = false ∧ s.remoteCovered s.focus f.id = true) ∧
    (let p : Push := ⟨1, 2, 0, 1, 7, 0, [(0x1000, [1])], some 0x2000, 5, 0, false⟩
     let s := { base with mod := { base.mod with pushes := [p] } }
     Only (·.id) s.mod.pushes p ∧ s.pushReady p = true ∧ s.core.task.launchId = p.launch ∧
       s.core.indexHit 0x1000 1 = false ∧ (p.grp, p.tgt) ∉ s.mod.refused) ∧
    (let b : Barrier := ⟨0, ⟨0, 0, 1, 1⟩, [0]⟩
     let s := { base with mod := { base.mod with barriers := [b] } }
     b ∈ s.mod.barriers ∧ b.slot = s.core.task.slot ∧ (∀ x ∈ s.mod.barriers, x.slot = b.slot → x ≠ b → ∃ i ∈ x.rect.cores, i ∉ x.arrived) ∧
       (∀ i ∈ b.rect.cores, i ∈ b.arrived) ∧ b.rect = s.core.task.rect) ∧
    (let w : PageWalk := ⟨0x3FFFFFFFF, true, true, 0, none⟩
     let s := { on { core0 with walks := [w] } with mem := paged }
     s.core.walks = [w] ∧ w.arrive ≤ s.wall ∧ w.failed = none ∧
       s.walkPage s.core.task.asid w.va w.read w.write = .ok ⟨0, 0, 2 ^ 34, 0, true, true, false⟩) ∧
    (let w : PageWalk := ⟨0x400000000, true, true, 0, none⟩
     { base with mem := paged }.walkPage 0 w.va w.read w.write = .error (.xlateAbsent, 2)) := by
  refine ⟨⟨rfl, rfl, rfl⟩, ⟨rfl, rfl⟩, ⟨rfl, rfl, by decide +kernel, rfl, by decide +kernel, by decide +kernel⟩,
    ⟨⟨List.mem_singleton.mpr rfl, fun y hy _ => List.mem_singleton.mp hy⟩, by decide +kernel, rfl, by decide +kernel, by decide⟩,
    ⟨List.mem_singleton.mpr rfl, rfl, fun x hx _ hne => absurd (List.mem_singleton.mp hx) hne, by decide +kernel, rfl⟩,
    ⟨rfl, by decide, rfl, ok_eq (by decide +kernel)⟩, err_eq (by decide +kernel)⟩

/-- A reply that has not come in its due cycle. -/
def lateCore : Core := { core0 with pend := [⟨100, 0, 4, .scalar true none, 0, .zero⟩] }
/-- Its item. -/
def lateItem0 : Late := ⟨1, .zero, 0, .result 0, none⟩

theorem witness_HoldsAndStops :
    (lateOrder (on lateCore).core.lateReplies = lateItem0 :: [] ∧ (on lateCore).core.schedCtl.getLsbD 0 = false ∧
      lateOrder (on { lateCore with schedCtl := 1 }).core.lateReplies = [lateItem0] ∧ (on lateCore).core.held = none ∧
      (on lateCore).core.schedNow.getLsbD 0 = false ∧ (on { lateCore with schedCtl := 1 }).core.schedNow.getLsbD 0 = true) ∧
    (∀ c ∈ [lateCore, core0], let h : Hold := ⟨0, 3, [lateItem0], .run⟩
     let s := on { c with mode := .hold, hold := some h }
     s.core.hold = some h ∧ s.core.mode = .hold ∧ lateItem0.arrived = none ∧ s.imposed = [] ∧ s.core.stopAsked = none ∧ s.core.gacc = [] ∧
       s.needMet lateItem0.need = decide (c = core0)) ∧
    (let h : Hold := ⟨0, 3, [lateItem0], .run⟩
     (on { core0 with hold := some h }).core.hold = some h ∧ ∃ l ∈ h.items, l.arrived = none) ∧
    (let l : Late := { lateItem0 with arrived := some 3 }
     let h : Hold := ⟨0, 3, [l], .run⟩
     (on { core0 with hold := some h }).core.hold = some h ∧ l.arrived = some 3 ∧ (∀ k, l.need ≠ .refetch k) ∧ l.need ≠ .alarm) ∧
    (let s := base.onHub fun h => { h with isl := vset h.isl 17 { Isl.reset with pstate := 4 } }
     let x := s.island 17
     x.relock = none ∧ x.cur ≠ max x.pstate x.step) ∧
    (let s := base.onHub fun h => { h with isl := vset h.isl 2 { Isl.reset with relock := some 0 } }
     let x := s.island 2
     x.relock ≠ none ∧ (∀ i < 768, islandOf i = 2 → relockHeld (s.coreAt i) = true) ∧ x.cur = max x.pstate x.step) ∧
    (let s := { on { core0 with cycleOpen := false } with mem := [] }
     s.core.mode = .run ∧ s.core.cycleOpen = false ∧ s.core.held = none ∧ s.imageBundle s.core s.focus s.core.nextIdx.toNat = some (List.replicate 16 0)) ∧
    (let st : Stop := ⟨some .trap, 5, 0, 0, 0, 0, 0, true, true, .zero, false⟩
     let s := on { core0 with mode := .stopping, stop := some st }
     s.core.mode = .stopping ∧ s.core.stop = some st ∧ s.drained = true ∧ st.cause ≠ none ∧ s.core.task.slot < 1024) := by
  refine ⟨⟨by decide +kernel, rfl, by decide +kernel, rfl, by decide +kernel, by decide +kernel⟩, by decide +kernel, ⟨rfl, _, List.mem_singleton.mpr rfl, rfl⟩, ⟨rfl, rfl, ?_, ?_⟩, ⟨?_, ?_⟩, ⟨?_, ?_, ?_⟩,
    ⟨rfl, rfl, rfl, by decide +kernel⟩, rfl, rfl, ?_, ?_, ?_⟩
  · intro k h; cases h
  all_goals decide +kernel

/-- An image of zeros but for its digest, for frame 0. -/
def zeroImage : Mem :=
  wrLE [] (ctxBase + 0x1000000 + 72) 8 (Config.digest (opaqueAreas.flatMap fun a => rdBytes [] (ctxBase + 0x1000000 + a.1) a.2)).toNat

theorem rdByte_zeroImage {x : Nat} (h : x < ctxBase + 0x1000000 + 72 ∨ ctxBase + 0x1000000 + 80 ≤ x) : rdByte zeroImage x = rdByte [] x :=
  rdByte_wrLE_out [] _ 8 _ (by omega)

theorem rdLE_zeroImage (off n : Nat) (h : off + n ≤ 72 ∨ 80 ≤ off) :
    rdLE zeroImage (ctxBase + 0x1000000 + off) n = rdLE [] (ctxBase + 0x1000000 + off) n := by
  induction n generalizing off with
  | zero => rfl
  | succ n ih =>
    have := ih (off + 1) (by omega)
    simp only [rdLE, Nat.add_assoc] at this ⊢
    rw [rdByte_zeroImage (by omega), this]

theorem rdBytes_zeroImage (off n : Nat) (h : 80 ≤ off) :
    rdBytes zeroImage (ctxBase + 0x1000000 + off) n = rdBytes [] (ctxBase + 0x1000000 + off) n := by
  induction n generalizing off with
  | zero => rfl
  | succ n ih =>
    have := ih (off + 1) (by omega)
    simp only [rdBytes, Nat.add_assoc] at this ⊢
    rw [rdByte_zeroImage (by omega), this]

/-- What a resume reads from the image of zeros, as it can be evaluated. -/
def zeroRd (off n : Nat) : Nat :=
  if off + n ≤ 72 ∨ 80 ≤ off then rdLE [] (ctxBase + 0x1000000 + off) n else rdLE zeroImage (ctxBase + 0x1000000 + off) n

/-- Reading an image after its digest and its record have passed. -/
def restored (c : Core) (st : Stop) (rd : Nat → Nat → Nat) (m : Mem) (base : Nat) : Option Core := do
  let c1 ← c.pendFrom rd
  let c2 ← c1.streamFrom rd
  let c3 ← c2.recordFrom st rd
  let c4 ← (c3.regsFrom rd).csrsFrom rd
  return c4.storesFrom rd m base

/-- A core in frame 0 to be restored, and its record. -/
def asleep : Core := { Core.zero with mode := .restoring, task := { Task.none with launchId := 1 } }
def stop0 : Stop := ⟨some .trap, 5, 0, 0, 0, 0, 0, true, true, .zero, false⟩

theorem digest_zeroImage : imageDigest zeroImage (ctxBase + 0x1000000) false = BitVec.ofNat 64 (rdLE zeroImage (ctxBase + 0x1000000 + 72) 8) := by
  have h : (opaqueAreas.flatMap fun a => rdBytes zeroImage (ctxBase + 0x1000000 + a.1) a.2) =
      opaqueAreas.flatMap fun a => rdBytes [] (ctxBase + 0x1000000 + a.1) a.2 := by
    refine List.flatMap_congr fun a ha => rdBytes_zeroImage _ _ ?_
    have : opaqueAreas.all (fun a => 80 ≤ a.1) = true := by decide +kernel
    exact of_decide_eq_true (List.all_eq_true.mp this a ha)
  simp only [imageDigest, Bool.false_eq_true, if_false, h]
  rw [zeroImage, rdLE_wrLE]
  apply BitVec.eq_of_toNat_eq
  simp only [BitVec.toNat_ofNat]
  omega

theorem witness_HoldsAndStops_resume : asleep.mode = .restoring ∧ ∃ c, asleep.fromImage stop0 zeroImage = some c ∧ ∀ g ∈ c.gacc, g.raced = none := by
  refine ⟨rfl, ?_⟩
  have hr : (fun off n => rdLE zeroImage (asleep.frameBase + off) n) = zeroRd := by
    funext off n
    have hb : asleep.frameBase = ctxBase + 0x1000000 := by decide
    rw [hb]; unfold zeroRd
    split
    · exact rdLE_zeroImage off n ‹_›
    · rfl
  have h1 : asleep.fromImage stop0 zeroImage = restored asleep stop0 zeroRd zeroImage asleep.frameBase := by
    rw [← hr]
    have hd := digest_zeroImage
    have hb : asleep.frameBase = ctxBase + 0x1000000 := by decide
    have hc : recordClean (fun off n => rdLE zeroImage (asleep.frameBase + off) n) = true := by rw [hr]; decide +kernel
    unfold Core.fromImage restored
    have hp : patchClean (fun off n => rdLE zeroImage (asleep.frameBase + off) n) = true := by rw [hr]; decide +kernel
    simp only [hb] at hc hp ⊢
    have hs : stop0.cause.isNone = false := rfl
    rw [hs, if_neg]
    simp [hd, hc, hp]
  have h2 : (restored asleep stop0 zeroRd zeroImage asleep.frameBase).any (fun c => c.gacc.isEmpty) = true := by decide +kernel
  rw [h1]
  cases h : restored asleep stop0 zeroRd zeroImage asleep.frameBase with
  | none => rw [h] at h2; cases h2
  | some c =>
    rw [h] at h2
    simp only [Option.any_some, List.isEmpty_iff] at h2
    exact ⟨c, rfl, by simp [h2]⟩

/-- A reserved bit of the record is refused whatever the digest is. -/
theorem witness_HoldsAndStops_refused : asleep.fromImage stop0 (wrLE [] (ctxBase + 0x1000000) 8 16) = none := by
  have h : recordClean (fun off n => rdLE (wrLE [] (ctxBase + 0x1000000) 8 16) (asleep.frameBase + off) n) = false := by decide +kernel
  unfold Core.fromImage
  rw [if_pos]
  right
  simp [h]

/-! ### The Kiln's steps -/

/-- A core with a Kiln, at a cycle. -/
def kilned (t : Nat) (k : Kiln) : State := on { ringed with tcc := t, eng := { ringed.eng with kiln := k } }

theorem only_one {α : Type} (f : α → Nat) (x : α) : Only f [x] x := ⟨List.mem_singleton.mpr rfl, fun _ hy _ => List.mem_singleton.mp hy⟩

/-- The pass of `passDesc`, and variants of it. -/
def pass0 : Pass := (withDesc passDesc ringed).mkPass passDesc 116
def xor0 : Pass := { pass0 with code := 1, fmt := 0x888, s := 1, nl := 1, fresh := false, edges := [⟨0, List.replicate 64 [5], List.replicate 64 [7], [], [], [], true, true, false, [], [], 0⟩] }
/-- The programs of R273 for a factorization and for a solution. -/
def triK (solve : Bool) : KCfg :=
  { KCfg.zero with
    map := 1, lp := [4, 4, 1, 1], sp := [0, 4, 0, 0]
    ub := [0x4B283800C800, 0, 0, 0] ++ if solve then [0x504808006C00, 0, 0, 0] else [0x680814006C00, 0x504810000000, 0, 0] }
def tri0 (trim : Nat) : Pass := { pass0 with flow := 3, trim := trim, n := 2, std := true, roles := [⟨7, 1, 1, false, some 0⟩] }

theorem witness_KilnSteps_configuration :
    (∀ a ∈ ([.flow 4 none 64, .block [0] [1] [2] [3] 1 [], .consts 15 1 2] : List ShadowAct),
      let k := { Kiln.zero with writes := [⟨3, 96, 100, a⟩] }
      Only (·.id) (kilned 100 k).core.eng.kiln.writes ⟨3, 96, 100, a⟩ ∧ (⟨3, 96, 100, a⟩ : ShadowWrite).done ≤ 100 ∧ k.shadow.k0.length = 4) ∧
    (let x : Token := ⟨3, 100, none, none⟩
     let k := { Kiln.zero with tokens := [x], shadow := { KCfg.zero with flow := 1 } }
     Only (·.id) k.tokens x ∧ x.cfg = none ∧ x.w ≤ 100 ∧ ∃ q ∈ [0, 1, 2, 3], k.cfgs.getD (k.quadCfg.getD q 0) .zero ≠ k.shadow) ∧
    (let x : Token := ⟨3, 100, none, some 0⟩
     (kilned 229 { Kiln.zero with tokens := [x] }).core.eng.kiln.tokens = [x] ∧ x.cfg = some 0 ∧ x.quad = none ∧ 229 = x.w + 3 + 63 + 63) ∧
    (let r : KRing := ⟨3, 100, 7, .none⟩
     Only (·.id) (kilned 100 { Kiln.zero with krings := [r] }).core.eng.kiln.krings r ∧ r.start ≤ 100) ∧
    (let z : KZero := ⟨3, 100, 5, none⟩
     let k := { Kiln.zero with zeros := [z], cells := [(0, { Cell.zero with c0 := 5 })] }
     Only (·.id) k.zeros z ∧ z.start ≤ 100 ∧ z.quad = none ∧ (k.cells.map (·.1)).Nodup ∧ bits z.regs 0 0 = 1 ∧ bits z.regs 1 1 = 0 ∧ bits z.regs 2 2 = 1) ∧
    (let d : Drain := ⟨3, 100, false, false, none, 0, 0, 0x2000, 256, 0, .zero, []⟩
     Only (·.id) [d] d ∧ d.quad = none ∧ (kilned 104 { Kiln.zero with drains := [d] }).core.tcc = d.start + 2 + 2) ∧
    (let d : Drain := ⟨3, 100, false, false, none, 9, 9, 0x2000, 256, 0, .zero, [(63, List.replicate 64 1)]⟩
     (kilned 168 { Kiln.zero with drains := [d] }).core.tcc = d.start + 5 + 63 ∧ d.held.lookup 63 = some (List.replicate 64 1) ∧ d.st ≠ 0) := by
  refine ⟨?_, ⟨only_one _ _, rfl, by decide, by decide +kernel⟩, ⟨rfl, rfl, rfl, rfl⟩, ⟨only_one _ _, by decide⟩,
    ⟨only_one _ _, by decide, rfl, by decide, by decide, by decide, by decide⟩, ⟨only_one _ _, rfl, rfl⟩, rfl, rfl, by decide⟩
  intro a _
  exact ⟨only_one _ _, Nat.le_refl _, rfl⟩

theorem witness_KilnSteps_pass :
    ((kilned 116 { Kiln.zero with passes := [pass0] }).core.eng.kiln.passes = pass0 :: [] ∧ pass0.start ≤ 116 ∧ (∀ r ∈ pass0.roles, r.pos = none) ∧
      (pass0.roles.map (·.ring)).Nodup ∧ pass0.retire = 120 ∧ pass0.lastOut = 248 ∧ ∀ r ∈ pass0.roles, pass0.isOut r.r = false ∧ r.ring < 8) ∧
    (pass0.base + pass0.s * 0 = 116 ∧ 0 < pass0.s ∧ 0 < pass0.beatN ∧ pass0.flow = 0 ∧ pass0.sel = 0 ∧ pass0.cnd = false) ∧
    (let p := { pass0 with cnd := true }
     p.cnd = true ∧ p.base + p.s * 0 = 116 ∧ 0 < p.beatN) ∧
    (let p := { pass0 with flow := 1, accum := true }
     p.flow = 1 ∧ p.pre = false ∧ fmtACC p.fmt = 0 ∧ 181 = p.base + 2 + 63 + p.s * 0) ∧
    (let p := { pass0 with flow := 2, roles := [⟨7, 1, 1, false, some 0⟩] }
     p.flow = 2 ∧ p.dirs = false ∧ (p.roles.map (·.ring)).Nodup ∧ ∃ r ∈ p.roles, p.isOut r.r = true ∧ r.ring < 8) ∧
    (let p := tri0 2
     p.flow = 3 ∧ p.trim = 2 ∧ p.triAt 0 = 251 ∧ (∀ q < p.triCount, p.triAt q = 251 → q = 0) ∧ 0 < p.triCount ∧ p.role 7 = some ⟨7, 1, 1, false, some 0⟩ ∧ p.triZeroed 0 = false ∧
       p.std = true ∧ triStandard { triK true with flow := 3 } 2 = true) ∧
    (let p := tri0 0
     p.triAt 0 = 252 ∧ (∀ q < p.triCount, p.triAt q = 252 → q = 0) ∧ 0 < p.triCount ∧ p.n ≤ 64 ∧ p.triZeroed 0 = false ∧
       p.std = true ∧ triStandard { triK false with flow := 3 } 0 = true) ∧
    (let p := xor0
     p.flow = 0 ∧ p.sel = 0 ∧ p.cnd = false ∧ p.quad = none ∧ p.skews = none ∧ p.code = 1 ∧ p.nl = 1 ∧ p.fresh = false ∧ fmtACC p.fmt = 8 ∧ fmtBSC p.fmt = false ∧
       245 = p.base + 3 + 63 + 63 + p.s * 0 ∧ 0 < p.beatN ∧ 0 < p.ext ∧ ∃ e, p.edges.find? (fun x => x.b == 0) = some e ∧ e.nanR = [] ∧ e.nanC = [] ∧ e.null = false) := by
  refine ⟨⟨rfl, ?_⟩, ?_, ?_, ?_, ?_, ?_, ?_, ?_⟩ <;> decide +kernel

/-! ### Copies, streams, Ember -/

/-- The copy of `copyDesc` on channel 1, in cycle 116. -/
def copy0 : Copy := copyOf (withDesc (copyDesc 8 0 0) (chan1 core0)) 1 (copyDesc 8 0 0)
def copying (c : Copy) : State := on { core0 with tcc := 116, eng := { Engines.zero with copies := [c] } }
/-- A stream command on the two slots of `slotted`. -/
def sps0 : SpsCmd := ⟨3, 116, 136, 0, .isect, [in0, in1], spBase + 0x3000, [], false, 0, false, .zero⟩
def embering (t : Nat) (e : Ember) : State := on { core0 with tcc := t, eng := { Engines.zero with ember := e } }
def ecmd0 (a : EAct) : ECmd := ⟨3, 116, a, false, [], [], .zero⟩

theorem witness_EngineSteps_copies :
    [1, 3].Pairwise (· < ·) ∧ (∀ d ∈ (copying copy0).core.eng.delivered, d.1 ≠ 10) ∧
    ((copying copy0).core.requesting (1 : BitVec 1).toNat = some copy0 ∧ copy0.turnsLocal = false ∧ ∀ p ∈ copy0.srcPieces copy0.issued, regionOf p.1 = .sp 0x2000) ∧
    (let c := { copy0 with esz := 2, rlu := 2, rows := 64 }
     (copying c).core.requesting (1 : BitVec 1).toNat = some c ∧ c.turnsLocal = true ∧ regionOf (strideAt c.src c.sstride 0 + 0) = .sp 0x2000) ∧
    (let x : CUnit := ⟨0, [(0, List.replicate 64 7)], 1, 0, 0, false⟩
     let c := { copy0 with issued := 1, units := [x] }
     let s := copying c
     s.core.eng.copies.find? (fun k => k.ch == (1 : BitVec 1).toNat && (k.written < k.count || !k.raised)) = some c ∧ c.written < c.count ∧ c.units = x :: [] ∧
       x.sent = false ∧ x.parts.length = x.need ∧ x.due ≤ s.wall ∧ regionOf (s.core.copyDst c x.u) = .sp 0x3000 ∧ s.core.slotFree c x.u = true ∧
       s.core.bankFree 0 0x3000 = true ∧ s.outranked c false 0x3000 = false ∧ c.ch < 2) := by
  refine ⟨by decide, (by intro d hd; cases hd), ?_, ?_, ?_⟩ <;> decide +kernel

theorem witness_EngineSteps_streams :
    (let c := { sps0 with formed := true, count := 1 }
     let s := on { slotted with tcc := 136, eng := { slotted.eng with sps := [c] } }
     s.core.eng.sps = [c] ∧ (∀ d ∈ s.core.eng.delivered, d.1 ≠ 11) ∧ c.formed = true ∧ c.counted = false ∧ c.due ≤ s.core.tcc) ∧
    (let s := on { slotted with tcc := 117, eng := { slotted.eng with sps := [sps0] } }
     s.core.eng.sps = [sps0] ∧ sps0.start < s.core.tcc ∧ ∃ p, sps0.localPieces[s.core.tcc - sps0.start - 1]? = some p ∧ p.2.1 = spBase + 0x2000) ∧
    (let b : BindSwitch := ⟨3, 3, 100, some ⟨0x10000, 64, 4, 64, 0x2000, 1⟩⟩
     let s := on { core0 with eng := { Engines.zero with binds := [⟨2, 3, 90, none⟩, b] } }
     Only (·.id) s.core.eng.binds b ∧ (s.core.eng.binds.map (·.id)).Nodup ∧ b.start ≤ s.core.tcc) := by
  refine ⟨⟨rfl, (by intro d hd; cases hd), rfl, rfl, by decide⟩, ⟨rfl, by decide, _, rfl, by decide +kernel⟩, ⟨by decide, ?_⟩, by decide, by decide⟩
  decide

theorem witness_EngineSteps_ember :
    (∀ a ∈ ([.clk 3 1 0, .patch [(255, 1)], .step 3 65536, .inc 3 (List.replicate 64 5), .load 3 0x2000 1, .read 3 true, .save 15 0x2000, .rest 15 0x2000] : List EAct),
      let s := embering 116 { Ember.zero with cmds := [ecmd0 a] }
      s.core.eng.ember.cmds = [ecmd0 a] ∧ (ecmd0 a).start ≤ s.core.tcc ∧ (ecmd0 a).begun = false) ∧
    (([(255, (1 : W64))].map (·.1)).Nodup ∧ (List.replicate 64 5).length = 64 ∧
      (vget ⟨.stopped, 0⟩ ({ Ember.zero with doms := Vector.replicate 4 ⟨.counted 0, 0⟩ } : Ember).doms 3).mode = .counted 0 ∧
      (let p : Pend := ⟨120, 0, 12, .embVector 3 none, 0, .zero⟩; ({ core0 with pend := [p] } : Core).pend = [p] ∧ p.act = .embVector (ecmd0 (.read 3 true)).id none)) ∧
    (¬ stepsAt .stopped 100 ∧ stepsAt (.counted 1) 100 ∧ stepsAt (.periodic 65536 100) (100 + 65536) ∧ ¬ stepsAt (.periodic 65536 100) 100) ∧
    (∀ c < 256, bits (sget (0 : W64) Ember.zero.patch c).toNat 58 57 = 0 → ¬ overruns Ember.zero 100 0 ECell.zero) ∧
    (let e := { Ember.zero with patch := [(0, 2 ^ 9)], lines := [(256, ⟨1, true, 0⟩)], cells := [(0, ⟨0, 0, 0, 1⟩)] }
     bits (sget (0 : W64) e.patch 0).toNat 58 57 = 0 ∧ overruns e 100 (2 ^ 9) ⟨0, 0, 0, 1⟩) ∧
    (let c : ECmd := { ecmd0 (.save 15 0x2000) with begun := true, snap := [(255, 1, 2)] }
     let s := embering (116 + 1 + 31) { Ember.zero with cmds := [c] }
     s.core.eng.ember.cmds = [c] ∧ c.begun = true ∧ s.core.tcc = c.start + 1 + 31) ∧
    (let c : ECmd := { ecmd0 (.rest 15 0x2000) with begun := true, snap := [(255, 1, 2)] }
     c.begun = true ∧ (embering (116 + 31) { Ember.zero with cmds := [c] }).core.tcc = c.start + 31 ∧ (embering (116 + 32) { Ember.zero with cmds := [c] }).core.tcc = c.start + 32) := by
  refine ⟨?_, ⟨by decide, by decide, by decide +kernel, rfl, rfl⟩, ⟨?_, .inl ⟨1, rfl, by decide⟩, .inr ⟨_, _, rfl, by decide, by decide⟩, ?_⟩, ?_, ⟨by decide +kernel, ?_⟩,
    ⟨rfl, rfl, rfl⟩, rfl, rfl, rfl⟩
  · intro a _; exact ⟨rfl, Nat.le_refl _, rfl⟩
  · rintro (⟨o, h, _⟩ | ⟨n, e, h, _⟩) <;> cases h
  · rintro (⟨o, h, _⟩ | ⟨n, e, h, hl, _⟩)
    · cases h
    · cases h; omega
  · intro _ _ _
    have : sumN Ember.zero 100 0 = 0 := by decide +kernel
    unfold overruns
    rw [this]
    decide +kernel
  · exact .inl (by decide +kernel)

/-! ### The fabric -/

/-- Module 0 of a group of two, its endpoint and that of module 1 up, ASID 0 mapped to itself. -/
def flue0 : Flue := { Flue.reset with
  state := 3, coords := 0x1000000, up := true, inc := 5, endpts := [(1, ⟨false, false, 0, 9⟩)], asidMap := [(0, 0x8000000000000000)]
  links := Vector.replicate 6 ⟨0, 0, Vector.replicate 2 ⟨true, 0, false⟩, 0⟩ }
/-- The core with that island; the entry of ASID 0 is in effect and valid. -/
def fluing (f : Flue) (c : Core) : State := { on c with mod := { (on c).mod with flue := f, asids := [(0, 2 ^ 63, 0)] } }
theorem way0 : Way flue0 1 := ⟨0, 1, by decide +kernel, by decide +kernel⟩
/-- A store of one row to module 1, and the core that holds it. -/
def fabCmd0 (op : FabOp) : FabCmd := ⟨3, 100, 0, op, peerBase + 0x1000, BitVec.ofNat 64 (spBase + 0x2000), 0x3000, 1, 0, [], 0, [], .zero⟩
def store1 : FabOp := .store true true 1 1 (peerBase + 0x1008)
def fabCore (c : FabCmd) : Core := { core0 with eng := { Engines.zero with fab := ⟨[c], [], [], []⟩ } }
def op0 (op : FabOp) : FOp := ⟨7, 0, 1, fabCmd0 op, none, [], [], [], none, []⟩
/-- A request of module 1 for core 0's scratchpad. -/
def req0 (op : RemoteOp) : RemoteReq := ⟨1, 2, 9, 5, 0, BitVec.ofNat 57 (peerBase + 0x1000), 4, 0, op⟩
def heldFlag0 (r : FlagRule) : HeldFlag := ⟨6, req0 (.store [1] (BitVec.ofNat 57 (peerBase + 0x1008)) r), some (0, 1), false⟩

theorem witness_FabricSteps_send :
    (let c := fabCmd0 store1
     (fluing flue0 (fabCore c)).core.eng.fab.cmds = [c] ∧ c.start ≤ 100 ∧ (fabCore c).eng.delivered = [] ∧ c.asked < c.units ∧
       regionOf (c.b.toNat + 64 * c.asked) = .sp 0x2000) ∧
    (let c := { fabCmd0 store1 with asked := 1, src := [(0, List.replicate 64 7)] }
     let s := fluing flue0 (fabCore c)
     c.units ≤ c.asked ∧ c.src.length = c.units ∧ s.core.fences = [] ∧ s.readBehind c = false ∧ s.groupCovered c.gid = true ∧ InService s.mod.flue ∧
       Sendable s.mod.flue 1) ∧
    (¬ InService { flue0 with state := 0 } ∧ ¬ InService { flue0 with resetting := true }) ∧ flue0.inGroup 2 = false ∧ ({ flue0 with endpts := [(1, ⟨true, true, 0, 0⟩)] } : Flue).entry 1 = ⟨true, true, 0, 0⟩ ∧
    (let f := { flue0 with endpts := [(1, ⟨false, true, 0, 0⟩)] }
     f.inGroup 1 = true ∧ (f.entry 1).unreach = false ∧ (f.entry 1).down = true) := by
  refine ⟨⟨rfl, by decide, rfl, by decide, by decide +kernel⟩, ⟨by decide, by decide, rfl, by decide +kernel, by decide +kernel, ⟨by decide, rfl⟩,
    ⟨way0, by decide +kernel, by decide +kernel, by decide +kernel, by decide +kernel⟩⟩, ⟨fun h => h.1 rfl, fun h => nomatch h.2⟩, by decide +kernel,
    by decide +kernel, by decide +kernel, by decide +kernel, by decide +kernel⟩

theorem witness_FabricSteps_complete :
    (let o := { op0 store1 with code := some 5 }
     let s := fluing { flue0 with ops := [o] } core0
     Only (·.tag) s.mod.flue.ops o ∧ o.core = s.focus ∧ s.core.mode = .run ∧ s.core.task.launchId = o.launch ∧ s.core.eng.fab.stats = [] ∧
       ∀ g ∈ s.core.gacc, g.id ∉ o.writes) ∧
    (let o := { op0 (.atomic 1 0 0 (some 0x3FFFF8)) with replies := [(1, 0, List.replicate 8 1)] }
     o.code = none ∧ o.owed = [] ∧ ∃ x, o.replies = [x] ∧ x.2.1 = 0) ∧
    (let gr : FGroup := ⟨0, 1, 15, 77, [(0, 0), (1, 0)], false, 0⟩
     let o := { op0 (.barrier 15 0x3000) with group := some gr }
     let f := { flue0 with groups := [gr], arrivals := [(77, 0, 0), (77, 0, 1)], ops := [o] }
     o.code = none ∧ o.group = some gr ∧ (∀ a ∈ f.arrivals, a.1 = gr.key → ∃ x ∈ gr.members, x.1 = a.2.2) ∧
       ∀ x ∈ gr.members, (gr.key, o.cmd.count, x.1) ∈ f.arrivals) ∧
    (let s := fluing { flue0 with state := 0 } { core0 with eng := { Engines.zero with fab := ⟨[], [], [], [(0, 2, 8, 0)]⟩ } }
     s.core.eng.fab.stats = [(0, 2, 8, 0)] ∧ 0 ≤ s.wall ∧ ¬ InService s.mod.flue) ∧
    (let r : OppReq := ⟨3, 1, false, 0x3000, 8, [], .complete 0x3000 5⟩
     (on { core0 with opp := [r] }).core.opp = [r] ∧ core0.oppUsed = [] ∧ core0.engWrites = [] ∧ bits (rdLE (words 0x3000 [2 ^ 63] core0).sp 0x3000 8) 63 63 = 1) := by
  refine ⟨⟨only_one _ _, rfl, rfl, rfl, rfl, by decide⟩, ⟨rfl, rfl, _, rfl, rfl⟩, ⟨rfl, rfl, by decide +kernel, by decide +kernel⟩, ⟨rfl, by decide, fun h => h.1 rfl⟩, rfl, rfl, rfl,
    by decide +kernel⟩

theorem witness_FabricSteps_request :
    (let s := fluing flue0 { core0 with task := { core0.task with asid := 0 } }
     InService s.mod.flue ∧ Way s.mod.flue 1 ∧ (1 : BitVec 12).toNat ≠ s.mod.flue.self ∧ Served s (req0 (.read 64)) ∧ LiveAt s (req0 (.read 64)) 0 0x1000 64 ∧
       LiveAt s (req0 (.atomic 15 0 0)) 0 0x1000 (atomWidth 15) ∧ LiveAt s (req0 (.store [1] 0 .order)) 0 0x1000 1 ∧ (s.coreAt 0).indexHit 0x1000 1 = false) ∧
    (fluing { flue0 with inc := 6 } core0).mod.flue.inc ≠ 5 ∧ (fluing { flue0 with up := false } core0).mod.flue.up = false ∧
    (sget (0 : W64) (fluing { flue0 with asidMap := [] } core0).mod.flue.asidMap 0).getLsbD 63 = false ∧
    bits ({ fluing flue0 core0 with mod := { (fluing flue0 core0).mod with asids := [] } }.asidWord 0 0) 63 63 = 0 ∧
    ((fluing flue0 { core0 with task := { core0.task with asid := 3 } }).coreAt 0).task.asid ≠ lasidOf (fluing flue0 core0) (req0 (.read 64)) ∧
    (∀ rule ∈ ([.own true, .order, .count 0] : List FlagRule),
      let h := heldFlag0 rule
      let s := fluing { flue0 with flags := [h] } core0
      Only (·.id) s.mod.flue.flags h ∧ h.req.srcMod.toNat ≠ s.mod.flue.self ∧ (h.count ≠ none → ¬ Older h.req.srcInc (s.mod.flue.entry h.req.srcMod.toNat).inc) ∧
        Way s.mod.flue h.req.srcMod.toNat ∧ (∀ w ∈ s.mod.flue.held, w.grp ≠ reqGrp h.id) ∧ (∀ o ∈ (s.coreOf 0 1).opp, o.grp ≠ reqGrp h.id)) ∧
    (let h := { heldFlag0 .order with rising := true }
     let r : OppReq := ⟨1, wordGrp h.id, false, 0x1008, 8, [], .raise 0x1008⟩
     h.rising = true ∧ h.core = some (0, 1) ∧ (∃ o ∈ ((fluing { flue0 with flags := [h] } { core0 with opp := [r] }).coreOf 0 1).opp, o.grp = wordGrp h.id) ∧
       ∀ o ∈ ((fluing { flue0 with flags := [h] } core0).coreOf 0 1).opp, o.grp ≠ wordGrp h.id) ∧
    (let h : HeldFlag := ⟨6, req0 (.atomic 0 1 0), some (0, 1), true⟩
     let s := fluing { flue0 with flags := [h] } { core0 with eng := { Engines.zero with delivered := [(15, 6, 0, [5])] } }
     (s.coreOf 0 1).eng.delivered.find? (fun e => e.1 == 15 && e.2.1 == h.id) = some (15, 6, 0, [5])) ∧
    (let s := fluing flue0 { core0 with task := { core0.task with asid := 0 } }
     ∃ c, s.target (lasidOf s (req0 (.read 64))) (peerBase + 0x1008) 8 true true = .core 0 0x1008 .live c) ∧
    sget 0 flue0.counts (reqSource (req0 (.read 64))) < 1 ∧
    Older (heldFlag0 (.count 1)).req.srcInc (Flue.entry { flue0 with endpts := [(1, ⟨false, false, 0, 10⟩)] } 1).inc ∧
    (¬ Older 10 9 ∧ Older 255 1 ∧ ¬ Older 1 255 ∧ ¬ Older 9 0) := by
  refine ⟨⟨⟨by decide, rfl⟩, way0, by decide +kernel, ⟨⟨by decide, rfl⟩, by decide +kernel, by decide, by decide, by decide +kernel, by decide +kernel⟩,
      ⟨by decide +kernel, by decide +kernel, by decide +kernel, by decide +kernel⟩, ⟨by decide +kernel, by decide +kernel, by decide +kernel, by decide +kernel⟩,
      ⟨by decide +kernel, by decide +kernel, by decide +kernel, by decide +kernel⟩, by decide +kernel⟩,
    by decide, rfl, by decide +kernel, by decide +kernel, by decide +kernel, ?_, ⟨rfl, rfl, by decide +kernel, by decide +kernel⟩, by decide +kernel, ⟨_, rfl⟩,
    by decide +kernel, by unfold Older; decide +kernel, by unfold Older; decide +kernel⟩
  intro rule hr
  simp only [List.mem_cons, List.not_mem_nil, or_false] at hr
  rcases hr with rfl | rfl | rfl <;>
    exact ⟨only_one _ _, by decide +kernel, fun _ => by unfold Older; decide +kernel, way0, (fun w hw => by cases hw), fun o ho => by cases ho⟩

/-- Both ways round a ring of four, a link that is down, a group too large, neighbours in and out of place. -/
theorem witness_FabricSteps_links :
    ({ flue0 with coords := 0x3000000 } : Flue).ext 0 = 4 ∧ (1 % 16 + 4 - 0 % 16) % 4 ≠ 0 ∧
    (flue0.state = 3 ∧ flue0.hop flue0.self flue0.self 1 (flue0.entry 1).long = some (0, 1) ∧ flue0.linkUp 0 = true ∧
      flue0.hop flue0.self flue0.self 0 (flue0.entry 0).long = none) ∧
    ({ flue0 with links := Flue.reset.links } : Flue).linkUp 0 = false ∧
    (Flue.reset.endpts.map (·.1)).Nodup ∧
    (let f := { Flue.reset with resetting := true }
     f.state = 0 ∧ f.ext 0 * f.ext 1 * f.ext 2 ≤ 64) ∧
    (let f := { Flue.reset with coords := 0x444000000, resetting := true }
     f.state = 0 ∧ f.ord = false ∧ 64 < f.ext 0 * f.ext 1 * f.ext 2 ∧ f.err = 0) ∧
    (let f := { Flue.reset with coords := 0x444000000, state := 1 }
     f.state = 1 ∧ f.ord = false ∧ 64 < f.ext 0 * f.ext 1 * f.ext 2) ∧
    (Flue.reset.state = 0 ∧ Flue.reset.resetting = false ∧ Flue.reset.ext 0 * Flue.reset.ext 1 * Flue.reset.ext 2 ≤ 64 ∧ ∀ d < 3, Flue.reset.ext d = 1) ∧
    (let f := { flue0 with state := 2 }
     ∀ n < 6, 1 < f.ext (n / 2) → f.linkState n ∈ [2, 3, 4]) ∧
    (let f := { flue0 with links := Flue.reset.links }
     2 ≤ f.state ∧ 1 < f.ext (1 / 2) ∧ (planeAt f 1 1).up = false ∧ (planeAt f 1 1).dead = false ∧ InPlace f 1 0x1001000 ∧ ¬ InPlace f 1 0x1000000) ∧
    (7 : Nat) < 8 ∧ flue0.reaches 1 = true ∧ ({ flue0 with links := Flue.reset.links } : Flue).reaches 1 = false ∧
    (let f := { flue0 with coords := 0x1001000 }
     f.state = 3 ∧ 0 < f.self ∧ f.inGroup 0 = true ∧ f.reaches 0 = true) ∧
    (Flue.reset.up = false ∧ flue0.up = true ∧ (flue0.endpts.map (·.1)).Nodup) := by
  refine ⟨by decide +kernel, by decide, ⟨rfl, by decide +kernel, by decide +kernel, by decide +kernel⟩, by decide +kernel, by decide, by decide +kernel, by decide +kernel, ⟨rfl, rfl, by decide +kernel⟩,
    ⟨rfl, rfl, by decide +kernel, by decide +kernel⟩,
    by decide +kernel, ⟨by decide, by decide +kernel, by decide +kernel, by decide +kernel, by unfold InPlace; decide +kernel, by unfold InPlace; decide +kernel⟩,
    by decide, by decide +kernel, by decide +kernel, ⟨rfl, by decide +kernel, by decide +kernel, by decide +kernel⟩, rfl, rfl, by decide⟩

theorem witness_FabricSteps_held :
    (let h : HeldWrite := ⟨0, 1, 0x1000, [1], 4⟩
     let s := fluing { flue0 with held := [h] } core0
     s.mod.flue.held = [h] ∧ h.core = (0 : BitVec 10).toNat ∧ (s.coreAt 0).mode = .run ∧ (s.coreAt 0).task.launchId = h.launch) ∧
    (let r := req0 (.read 64)
     let f := { flue0 with waiting := [{ r with srcMod := 0 }] }
     f.held = [] ∧ InService f ∧ ({ r with srcMod := 0 } : RemoteReq).srcMod.toNat = f.self ∧ r.tgtInc = f.inc ∧ f.up = true) ∧
    ((fluing flue0 { core0 with mode := .restoring }).coreAt 0).mode = .restoring := by
  refine ⟨⟨rfl, rfl, ?_, ?_⟩, ⟨rfl, ⟨by decide, rfl⟩, ?_, ?_, rfl⟩, ?_⟩ <;> decide +kernel

/-! ### Tile instructions -/

/-- The word of an L1 instruction on core 0 with handles 0 to 2, its completion area at 0x3000. -/
def tileW (opc : Nat) : List Nat := [256 + opc, if opc = 4 then 0 else 2 ^ 24, 2, spBase + 0x3000]
def tileI (w : List Nat) : TileInstr := ⟨9, w, 0, false, ⟨14, 0, 5, 90⟩, 0, 1, 0, 0, false, [], [], 0, []⟩
/-- Three handles of dense FP32 matrices of one element. -/
def tileCore : Core :=
  { words 0x1000 [2 ^ 63 + spBase + 0x4000, 2 ^ 32 + 1, 64, 0, 2 ^ 63 + spBase + 0x5000, 2 ^ 32 + 1, 64, 0, 2 ^ 63 + spBase + 0x6000, 2 ^ 32 + 1, 64, 0] core0 with
    thbase := BitVec.ofNat 64 (spBase + 0x1000 + 2) }
def tiling (x : TileInstr) (c : Core) : State := { on c with mod := { (on c).mod with tiles := [x] } }
def part0 (w : List Nat) : TilePart := ⟨9, w, ⟨14, 0, 5, 90⟩, true, 0, 1, some 90, 101, 0, [0], false, [], [], [0, 0, 0, 0], .zero⟩
def parted (p : TilePart) : State := tiling (tileI p.word) { tileCore with eng := { Engines.zero with parts := [p] } }
def opnd (k : Nat) : Opnd := ⟨⟨[2 ^ 63 + spBase + 0x4000 + 0x1000 * k, 2 ^ 32 + 1, 64, 0]⟩, [], false⟩
def noOpnd : Opnd := ⟨⟨[]⟩, [], false⟩
def tileBadFault : TileFault := ⟨5, 0, 0, 2, 0, 0, 4, 0, 0, 0⟩

/-- A product of FP8 blocks whose scales stand in a page that is not mapped. -/
def scaledW : List Nat := [256 + 0x8033 * 65536, 2 ^ 24, 2, spBase + 0x3000]
def scaledOpnd (k : Nat) : Opnd :=
  ⟨⟨[2 ^ 63 + 3 * 2 ^ 57 + spBase + 0x4000 + 0x1000 * k, 2 ^ 32 + 1, 64, spBase + 0x7000]⟩, [0x10000, 0, 0, 0, 0, 0, 0, 0], false⟩
def scaledCore : Core :=
  { words 0x1000 ((scaledOpnd 0).h.words ++ (scaledOpnd 1).h.words ++ (opnd 2).h.words) (words 0x7000 [0x10000] core0) with
    thbase := BitVec.ofNat 64 (spBase + 0x1000 + 2) }

/-- An operand A whose count of nonzeros is 7. -/
def nnzCore : Core :=
  { words 0x1000 [2 ^ 63 + spBase + 0x4000, 2 ^ 32 + 1, 64 + 4 * 2 ^ 44, spBase + 0x7000] (words 0x7000 [0, 0, 0, 0, 0, spBase + 0x8000] (words 0x8000 [7] core0)) with
    thbase := BitVec.ofNat 64 (spBase + 0x1000 + 2) }

theorem witness_LaunchSteps_tile :
    ((on nnzCore).startPool (tileW 1) [0] = .ok [0] ∧ tileOpc (tileW 1) = 1 ∧ (on tileCore).startPool (tileW 1) [0] = .error ((2, (0, 0), 0), 0)) ∧
    (∀ opc ∈ [0, 1, 4, 12], let s := tiling (tileI (tileW opc)) core0
      Only (·.id) s.mod.tiles (tileI (tileW opc)) ∧ s.tileReady (tileI (tileW opc)) = true ∧ tileLevel (tileW opc) < 4 ∧ tileOpc (tileW opc) = opc) ∧
    (let x := tileI [1024, 0, 0, spBase + 0x3000]
     let f := { flue0 with endpts := [(1, ⟨true, true, 0, 0⟩)] }
     let s := { tiling x core0 with mod := { (tiling x core0).mod with flue := f } }
     s.tileReady x = true ∧ tileOpc x.word < 12 ∧ ∃ r rs, s.tileAbsent x.word = r :: rs) ∧
    ((parted { part0 (tileW 0) with t0 := none }).core.unitsIdle = true ∧
      (on { tileCore with eng := { Engines.zero with parts := [{ part0 (tileW 0) with t0 := none }], kiln := { Kiln.zero with writes := [⟨3, 96, 100, .consts 1 0 0⟩] } } }).core.unitsIdle = false) ∧
    (let p := { part0 (tileW 1) with todo := [0], pool := true, t0 := none }
     p.pool = true ∧ (parted p).core.unitsIdle = true ∧ (tileI (tileW 1)).id = p.instr ∧ ({ tileI (tileW 1) with faults := [tileBadFault] } : TileInstr).faults ≠ []) ∧
    (let p := { part0 (tileW 1) with todo := [], pool := true }
     (parted p).core.claims = true ∧ (5 : Nat) < 2 ^ 40 ∧ ({ tileI (tileW 1) with pool := [5] } : TileInstr).faults = []) ∧
    PartAlone (parted (part0 (tileW 0))) (part0 (tileW 0)) ∧
    ((parted (part0 (tileW 0))).core.tcc < 101 ∧ 101 ≤ (parted (part0 (tileW 0))).core.tcc + 16 ∧ tileLevel (tileW 0) ≠ 0 ∧
      (parted (part0 (tileW 0))).tileOpnds (tileW 0) 0 = .ok [opnd 0, opnd 1, opnd 2] ∧
      (parted (part0 (tileW 0))).streamPages (tileW 0) 0 [opnd 0, opnd 1, opnd 2] = .ok () ∧ (tileW 0).length ≤ 4 ∧ tileDual (tileW 0) = false ∧ tileChunks (tileW 0) = 1) ∧
    ((parted (part0 (tileW 4))).tileOpnds (tileW 4) 0 = .ok [noOpnd, noOpnd, opnd 2] ∧
      (parted (part0 (tileW 4))).streamPages (tileW 4) 0 [noOpnd, noOpnd, opnd 2] = .ok () ∧ (tileW 4).length ≤ 4) ∧
    ((on scaledCore).tileOpnds scaledW 0 = .ok [scaledOpnd 0, scaledOpnd 1, opnd 2] ∧
      (on scaledCore).streamPages scaledW 0 [scaledOpnd 0, scaledOpnd 1, opnd 2] = .error ((4, (0, 0), 0x10000), 0)) ∧
    (let s := { parted (part0 (tileW 0)) with core := { (parted (part0 (tileW 0))).core with thbase := BitVec.ofNat 64 (spBase + 0x1000) } }
     s.tileOpnds (tileW 0) 0 = .error ((1, (0, 0), 0), 1)) ∧
    (let r : TileRun := ⟨0, [], [(100, .copyOut), (100, .last)], [], [], [], [], [(spBase + 0x6000, [1])], false, []⟩
     let s := parted { part0 (tileW 0) with runs := [r], todo := [] }
     100 ≤ s.core.tcc ∧ r.outs = [(spBase + 0x6000, [1])] ∧ (0x6000 : Nat) < spSize ∧ r.asks = [] ∧ s.core.bankFree 0 0x6000 = true) ∧
    (let r : TileRun := ⟨0, [], [(100, .last)], [], [], [], [], [], true, []⟩
     100 ≤ (parted { part0 (tileW 0) with runs := [r], todo := [] }).core.tcc ∧ r.outs = [] ∧ r.asks = [] ∧ r.wids = []) ∧
    (let r : TileRun := ⟨0, [], [(100, .element 0), (101, .copyOut)], [], [], [], [], [], false, []⟩
     100 ≤ core0.tcc ∧ (∀ y ∈ [(101, TileCmd.copyOut)], core0.tcc < y.1) ∧ r.owed = [] ∧ tileOpc (tileW 4) = 4) ∧
    (let s := tiling { tileI (tileW 0) with started := true } core0
     (tileI (tileW 0)).left = [] ∧ tileLevel (tileW 0) < 4 ∧ regionOf (tileCw (tileW 0)) = .sp 0x3000 ∧ (s.coreAt 0).mode = .run ∧ (s.coreAt 0).task.launchId = 1 ∧ tileBadFault.code ≠ 0) := by
  refine ⟨⟨ok_eq (by decide +kernel), by decide, err_eq (by decide +kernel)⟩, ?_, ⟨by decide +kernel, by decide, 1, [], by decide +kernel⟩,
    ⟨by decide +kernel, by decide +kernel⟩, ⟨rfl, by decide +kernel, rfl, by decide⟩, ⟨by decide +kernel, by decide, rfl⟩,
    ⟨rfl, fun d hd => by cases hd⟩, ⟨by decide, by decide, by decide +kernel, ok_eq (by decide +kernel), ok_eq (by decide +kernel), by decide, by decide +kernel, by decide +kernel⟩,
    ⟨ok_eq (by decide +kernel), ok_eq (by decide +kernel), by decide⟩, ⟨ok_eq (by decide +kernel), err_eq (by decide +kernel)⟩, err_eq (by decide +kernel), ⟨by decide, rfl, by decide, rfl, by decide +kernel⟩,
    ⟨by decide, rfl, rfl, rfl⟩, ⟨by decide, by decide, rfl, by decide +kernel⟩,
    rfl, by decide +kernel, by decide +kernel, by decide +kernel, by decide +kernel, by decide⟩
  intro opc h
  simp only [List.mem_cons, List.not_mem_nil, or_false] at h
  rcases h with rfl | rfl | rfl | rfl <;> exact ⟨only_one _ _, by decide +kernel, by decide +kernel, by decide +kernel⟩

/-! ### Launches, the host and the debugger -/

/-- A queue at 0x200000 with one record. -/
def queue0 : Queue := { Queue.reset with base := 0x200000, en := true, tail := 1 }
/-- A record: word 0, RECT, footprints, VA of the image, then the eight parameters; its completion word at 0x300000. -/
def recd (w0 rect foot va w13 w15 : Nat) : List Nat := [w0, rect, foot, va, 0, 0, 0, 0, 0, 0, 0, 0, 0x300000, w13, 0, w15]
def queued (w : List Nat) (extra : List (Nat × Nat)) : State :=
  { base with
    mem := (w.zipIdx.map (fun (x : Nat × Nat) => (0x200000 + 8 * x.2, x.1)) ++ extra).foldl (fun (m : Mem) (x : Nat × Nat) => if x.2 = 0 then m else wrLE m x.1 8 x.2) []
    mod := { base.mod with queues := [(0, queue0)] } }

theorem cwFree_of {s : State} {w : List Nat} (h1 : wordOk (recCw w) = true) (h2 : s.poisoned (recCw w) 8 = false) (h3 : recCw w + 8 ≤ ctxBase) : CwFree s w := ⟨h1, h2, h3⟩

theorem oneRecord_of {s : State} {w : List Nat} (h1 : s.mod.queues = [(0, queue0)]) (h2 : w = s.recordAt 0 0) (h3 : s.recordSpoilt 0 0 = none)
    (h4 : s.mod.launches = [] ∧ s.mod.placing = []) (h5 : s.mod.hub.held = false) : OneRecord s 0 queue0 w :=
  ⟨h1, by decide, ⟨rfl, rfl, rfl, rfl⟩, rfl, h2, h3, h4, h5⟩

/-- A barrier record, one with a wait, a launch of one core. -/
def recBar : List Nat := recd 0 0 0 0 0 0
def recWait : List Nat := recd 0x10000 0 0 0 0x300040 7
def recLaunch : List Nat := recd 1 0x01010000 (2 ^ 32 + 0x100008) 0 0 0

theorem witness_LaunchSteps_record :
    (∀ w ∈ [recBar, recWait, recLaunch, recd 3 0 0 0 0 0], OneRecord (queued w []) 0 queue0 w ∧ CwFree (queued w []) w) ∧
    (bits (rw (recd 0x4000 0 0 0 0 0) 0) 14 14 = 1 ∧ base.mod.host.masked 0 = true ∧ ({ HostRegs.reset with msixTable := [(0x8008, 0)] } : HostRegs).masked 0 = false) ∧
    recordOk (recd 3 0 0 0 0 0) = false ∧ (recordOk recBar = true ∧ recKind recBar = 0 ∧ recWaits recBar = 0) ∧
    (recordOk recWait = true ∧ recWaits recWait = 1 ∧ recKind recWait = 0) ∧
    (let s := queued recWait [(0x300040, 2 ^ 63)]
     OneRecord s 0 queue0 recWait ∧ bits (rdLE s.mem 0x300040 8) 63 63 = 1 ∧ bits (rw recWait 0) 15 15 = 0) ∧
    (let s := queued recWait [(0x300040, 7)]
     OneRecord s 0 queue0 recWait ∧ bits (rdLE s.mem 0x300040 8) 47 0 = bits (rw recWait 15) 31 0) ∧
    bits (rdLE (queued recWait []).mem 0x300040 8) 47 0 < bits (rw recWait 15) 31 0 ∧
    (let s := queued recLaunch []
     recordOk recLaunch = true ∧ recKind recLaunch = 1 ∧ recWaits recLaunch = 0 ∧ bits (rw recLaunch 0) 4 4 = 0 ∧
       (∀ i < 768, s.retired i = false ∧ (vget .reset s.mod.hub.isl (islandOf i)).state = 0) ∧ (recRect recLaunch).w * (recRect recLaunch).h ≤ s.mod.frames) := by
  refine ⟨?_, by decide +kernel, by decide +kernel, by decide +kernel, by decide +kernel,
    ⟨oneRecord_of rfl (by decide +kernel) (by decide +kernel) ⟨rfl, rfl⟩ rfl, by decide +kernel, by decide +kernel⟩,
    ⟨oneRecord_of rfl (by decide +kernel) (by decide +kernel) ⟨rfl, rfl⟩ rfl, by decide +kernel⟩, by decide +kernel,
    ⟨by decide +kernel, by decide +kernel, by decide +kernel, by decide +kernel, ?_, by decide +kernel⟩⟩
  · intro w h
    simp only [List.mem_cons, List.not_mem_nil, or_false] at h
    rcases h with rfl | rfl | rfl | rfl <;>
      exact ⟨oneRecord_of rfl (by decide +kernel) (by decide +kernel) ⟨rfl, rfl⟩ rfl, cwFree_of (by decide +kernel) (by decide +kernel) (by decide +kernel)⟩
  · have h : (List.range 768).all (fun i => (queued recLaunch []).retired i == false && (vget .reset (queued recLaunch []).mod.hub.isl (islandOf i)).state == 0) = true := by
      decide +kernel
    intro i hi
    have := List.all_eq_true.mp h i (List.mem_range.mpr hi)
    simpa using this

/-- The launch of `recLaunch`, on core 0 in slot 0. -/
def launch0 (st : LState) : Launch := ⟨0, 1, 0, recLaunch, ⟨0, 0, 1, 1⟩, 0, false, st, [], [], 0, 0⟩
def launched (st : LState) (c : Core) : State := { on c with mod := { (on c).mod with launches := [launch0 st] } }
/-- A stop for a debugger. -/
def halted0 : Stop := ⟨some .debugHalt, 1, 0, 0, 0, 0, 0, true, false, ⟨0, 0, 0, 0⟩, false⟩
/-- Word 0 of core 0's debug block, its LAUNCH_ID beside. -/
def commanded (v : Nat) (c : Core) : State := { launched .running c with mem := wrLE (wrLE [] (debugBlock 0) 8 v) (debugBlock 0 + 8) 8 1 }

theorem witness_LaunchSteps_launch :
    (let s := launched .placed core0
     s.launchAt 0 = some (launch0 .placed) ∧ recLaunch.length = 16 ∧ CwFree s recLaunch ∧ s.imageLeaves 0 0 16 = none ∧
       ({ s with mem := paged }).imageLeaves 0 0 16 = some [⟨0, 0, 2 ^ 34, 0, true, true, false⟩]) ∧
    (let s := launched .running { core0 with mode := .halted, cycleOpen := false }
     s.mayRetire (launch0 .running) = true ∧ CwFree s recLaunch ∧ ∀ i ∈ (launch0 .running).rect.cores, (s.coreAt i).task.launchId = 1) ∧
    ((2 ^ 63 : W64).getLsbD 63 = true ∧ (2 ^ 63 : W64).toNat % 1024 = 0 ∧ (launched .running core0).mod.host.abortStat ≠ 1 ∧
      (launch0 .running).id = ((launched .running core0).onHost fun h => { h with abortId := 1 }).mod.host.abortId ∧ (launch0 .running).id ≠ (launched .running core0).mod.host.abortId) ∧
    ((∃ i ∈ (launch0 .saving).rect.cores, ((launched .saving core0).coreAt i).mode ≠ .stopped) ∧
      ∀ i ∈ (launch0 .saving).rect.cores, ((launched .saving { core0 with mode := .stopped }).coreAt i).mode = .stopped) ∧
    (∀ v ∈ [2 ^ 63 + 1, 2 ^ 63 + 2, 2 ^ 63 + 3, 2 ^ 63 + 4], ∀ c ∈ [core0, { core0 with mode := .stopped, stop := some halted0 }],
      RunsLaunch (commanded v c) 0 (launch0 .running) ∧ ((commanded v c).coreAt 0).mode ≠ .off ∧ (commanded v c).debugCtl 0 = v) := by
  refine ⟨⟨rfl, rfl, cwFree_of (by decide +kernel) (by decide +kernel) (by decide +kernel), by decide +kernel, by decide +kernel⟩,
    ⟨by decide +kernel, cwFree_of (by decide +kernel) (by decide +kernel) (by decide +kernel), by decide +kernel⟩, by decide +kernel, by decide +kernel, ?_⟩
  intro v hv c hc
  simp only [List.mem_cons, List.not_mem_nil, or_false] at hv hc
  rcases hv with rfl | rfl | rfl | rfl <;> rcases hc with rfl | rfl <;>
    exact ⟨⟨⟨by decide +kernel, by decide +kernel⟩, by decide +kernel, rfl, by decide +kernel⟩, by decide +kernel, by decide +kernel⟩

theorem witness_LaunchSteps_host :
    (let k := (queued recBar []).queue 0
     k.en = true ∧ k.rst = false ∧ ((2 : W32) - k.head).toNat ≤ 2 ^ k.logn ∧ (k.tail - k.head).toNat ≤ ((2 : W32) - k.head).toNat ∧
       k.stat.getLsbD 63 = false ∧ 2 ^ k.logn < ((17 : W32) - k.head).toNat ∧ ((0 : W32) - k.head).toNat < (k.tail - k.head).toNat) ∧
    (let k := base.queue 0
     k.en = false ∧ k.rst = false ∧ (9 : W64).getLsbD 0 = true ∧ (9 : W64).getLsbD 8 = false ∧ 4 ≤ bits (9 : W64).toNat 4 1 ∧
       bits (9 : W64).toNat 4 1 ≤ 15 ∧ hbmOk k.base 1 = true ∧ bits (1 : W64).toNat 4 1 < 4) ∧
    (let s := { queued recBar [] with mod := { base.mod with queues := [(0, { queue0 with rst := true })] } }
     (s.queue 0).rst = true ∧ s.mod.launches = [] ∧ (s.queue 0).draining = [] ∧ (s.queue 0).tail = (s.queue 0).head + 1 ∧ recBar = s.recordAt 0 (s.queue 0).head.toNat ∧ CwFree s recBar) ∧
    (let s := on { core0 with trace := { Trace.none with isOpen := true, closing := some [] } }
     ∃ i ∈ ({ queue0 with rst := true, draining := [0] } : Queue).draining, (s.coreAt i).trace.closing ≠ none) ∧
    (hbmOk (base.mod.host.hwin.toNat + 0x1000) 64 = true ∧ base.poisoned 0x1000 64 = false ∧ base.mod.hub.bootMode ≠ 1) ∧
    (hbmOk (base.mod.host.hwin.toNat + 0x5FFFFFFFC0) 64 = false ∧ 0x5FFFFFFFC0 < ctlBase ∧ 0x5FFFFFFFC0 < 2 ^ 36 + 0x5000000000) ∧
    (let s := { base with mem := wrLE [] (ctxBase + 0x40000) 8 1 }
     s.mod.ivWait = none ∧ s.ivTail ≠ s.ivHead) ∧
    (let s := { base with mod := { base.mod with ivWait := some 0 } }
     s.mod.ivWait = some 0 ∧ s.ivHeld 0 = false) ∧
    (let s := { on { core0 with eng := { Engines.zero with pins := [(1, [leaf0])] } } with mem := wrLE [] (ivEntry 0) 8 0x30000 }
     s.ivHeld 0 = true) := by
  refine ⟨by decide +kernel, by decide +kernel, ⟨by decide +kernel, rfl, rfl, by decide +kernel, by decide +kernel,
    cwFree_of (by decide +kernel) (by decide +kernel) (by decide +kernel)⟩, ⟨0, List.mem_singleton.mpr rfl, by decide⟩, by decide +kernel, by decide +kernel, ⟨rfl, by decide +kernel⟩,
    ⟨rfl, by decide +kernel⟩, by decide +kernel⟩

/-- An open trace session with a record; a block that opens one; a ring that is full. -/
theorem witness_LaunchSteps_trace :
    (let s := { base with mem := wrLE (wrLE [] (traceBlock 0) 8 (2 ^ 63 + 1)) (traceBlock 0 + 8) 8 1 }
     bits (rdLE s.mem (traceBlock 0) 8) 63 63 = 1 ∧ (s.coreAt 0).trace.isOpen = false ∧ (s.coreAt 0).mode ≠ .off ∧
       (s.coreAt 0).task.launchId.toNat = rdLE s.mem (traceBlock 0 + 8) 8 ∧ rdLE s.mem (traceBlock 0 + 8) 8 ≠ 0) ∧
    (let c := { core0 with trace := { Trace.none with isOpen := true, buf := [[5]] } }
     let s := { on c with mem := wrLE [] (traceBlock 0 + 24) 8 4096 }
     (s.coreAt 0).trace.isOpen = true ∧ (s.coreAt 0).trace.buf = [[5]] ∧ (s.coreAt 0).trace.closing = none ∧
       ((s.coreAt 0).trace.wptr + 64 - BitVec.ofNat 64 (rdLE s.mem (traceBlock 0 + 40) 8)).toNat ≤ rdLE s.mem (traceBlock 0 + 24) 8 ∧
       rdLE s.mem (traceBlock 0 + 16) 8 + (s.coreAt 0).trace.wptr.toNat % rdLE s.mem (traceBlock 0 + 24) 8 + 8 ≤ ctxBase) ∧
    (let c := { core0 with trace := { Trace.none with isOpen := true, buf := [[5]], wptr := 4096 } }
     let s := { on c with mem := wrLE [] (traceBlock 0 + 24) 8 4096 }
     rdLE s.mem (traceBlock 0 + 24) 8 < ((s.coreAt 0).trace.wptr + 64 - BitVec.ofNat 64 (rdLE s.mem (traceBlock 0 + 40) 8)).toNat) := by
  decide +kernel

/-! ### Resets, boot, errors, power -/

/-- A firmware image of one section, and two with a bad header. -/
def image0 : Mem := [(0, 0x47524E31), (0x10, 0x210), (0x18, 1), (0x20, 1), (0x28, 0x200), (0x30, 16)].foldl (fun (m : Mem) (x : Nat × Nat) => wrLE m x.1 8 x.2) []
def shortImage : Mem := wrLE image0 0x10 8 0x1FF
def badSection : Mem := wrLE image0 0x20 8 4

theorem witness_ModuleSteps_reset :
    (let s := launched .running core0
     s.mod.launches = [launch0 .running] ∧ s.mod.queues = [] ∧ (launch0 .running).state = .running ∧ s.mod.tiles = [] ∧ CwFree s (launch0 .running).words) ∧
    (base.mod.launches = [] ∧ base.mod.queues = []) ∧ (5 : BitVec 10).toNat < 768 ∧
    (launch0 .running).rect.cores.any (fun k => coreDie k == 1) = false ∧ (launch0 .running).rect.cores.any (fun k => coreDie k == 0) = true ∧
    (∀ k ∈ (launch0 .running).rect.cores, ((launched .running core0).coreAt k).task.launchId = 1) := by
  refine ⟨⟨rfl, rfl, rfl, rfl, cwFree_of (by decide +kernel) (by decide +kernel) (by decide +kernel)⟩, ⟨rfl, rfl⟩, ?_, ?_, ?_, ?_⟩ <;> decide +kernel

/-- The image that reset finds, images in flash, and an image that recovery finds; the clauses on keys and signatures ask for a value of a
fused constant, which no evaluation gives. -/
theorem witness_ModuleSteps_boot :
    (State.reset.mod.hub.bootMode = 0 ∧ State.reset.mod.hub.alarmActive = 0 ∧ rdLE (State.reset.mod.flash.filter fun e => e.1 < 2 ^ 24) 0 8 ≠ 0x47524E31) ∧
    (∀ m ∈ [image0, shortImage, badSection], m.filter (fun e => e.1 < 2 ^ 24) = m ∧ rdLE m 0 8 = 0x47524E31) ∧
    headerOk image0 = true ∧ rdLE shortImage 0x10 8 < 0x200 ∧ 3 < rdLE badSection (0x20 + 32 * 0) 8 ∧
    (base.onHub fun h => { h with bootMode := 1, recovery := image0 }).mod.hub.recovery = image0 ∧
    (let s := base.onHub fun h => { h with bootMode := 2, dies := 7 }
     s.mod.hub.bootMode = 2 ∧ s.mod.hub.dies.getLsbD 3 = false ∧ s.mod.hub.dies ||| 8 ||| s.mod.hub.silent = 15 ∧
       ((base.onHub fun h => { h with bootMode := 2, dies := 0 }).mod.hub.dies ||| 8 ||| 0) ≠ 15) ∧
    (let s := { base.onHub fun h => { h with bootMode := 2, dies := 7 } with ts := 10000000000 }
     2 ≤ s.mod.hub.bootMode ∧ s.mod.hub.silent.getLsbD 3 = false ∧ s.mod.hub.mgrSince + 10000000000 ≤ s.ts.toNat ∧ s.mod.launches = []) ∧
    base.ts.toNat < base.mod.hub.mgrSince + 10000000000 ∧ base.mod.hub.attest = false ∧ (base.onHub fun h => { h with attest := true }).mod.hub.attest = true := by
  decide +kernel

theorem witness_ModuleSteps_hub :
    ((4 : W64).toNat % 16 < 5 ∧ 5 ≤ (5 : W64).toNat % 16 ∧ max ((4 : W64).toNat % 16) (base.island 3).step ≠ (base.island 3).cur ∧ (base.island 3).gate = false) ∧
    (∀ n < 5, let s := base.onHub fun h => { h with isl := vset h.isl 3 { Isl.reset with gate := true, state := n } }
      (s.island 3).gate = true ∧ (s.island 3).state = n ∧ s.resident 3 = false) ∧
    ((launched .running core0).resident (islandOf 0) = true) ∧
    (1000 ≤ (3200 : W64).toNat % 65536 ∧ (3201 : W64).toNat % 65536 > 3200 ∧ (999 : W64).toNat % 65536 < 1000) ∧ (11 : BitVec 4).toNat < 12 ∧
    (∀ a ∈ [5, 767], 3 * 2 ^ 60 + a < 2 ^ 64 ∧ (BitVec.ofNat 64 (3 * 2 ^ 60 + a)).toNat / 2 ^ 60 = 3 ∧ (BitVec.ofNat 64 (3 * 2 ^ 60 + a)).toNat % 2 ^ 60 < 768) ∧
    (let s := base.onHub fun h => { h with errcfg := BitVec.ofNat 64 (2 ^ 63 + 1) }
     bits s.mod.hub.errcfg.toNat 63 63 = 1 ∧ bits s.mod.hub.errcfg.toNat 15 0 ≠ 0 ∧ bits s.mod.hub.errcfg.toNat 15 0 ≤ s.recentErrs 5 + 1 ∧
       bits base.mod.hub.errcfg.toNat 63 63 = 0) ∧
    (let s := launched .running core0
     (s.coreAt 0).mode ≠ .off ∧ (s.coreAt 0).task.slot = (launch0 .running).slot) ∧
    (base.core.gacc = [] ∧ base.core.walks = []) ∧
    (let s := base.onHub fun h => { h with poison := [64] }
     s.poisoned (4096 / 64 * 64) 64 = true ∧ s.poisoned (8192 / 64 * 64) 64 = false) ∧
    ((3 : BitVec 4) ≠ 0 ∧ base.mod.hub.alarmActive = 0 ∧ (base.onHub fun h => { h with alarmActive := 1 }).mod.hub.alarmActive ≠ 0) := by
  decide +kernel

end Sys2Proof.Tests
end

/-! PROOF. The layer under RESULT_LAND: register files, the sort by R348, what the landing of one item sets and leaves, and what performs. -/

namespace Sys2Proof.Machine

/-! ## Register files -/

theorem vget_vset_same {α : Type} {n i : Nat} (d : α) (v : Vector α n) (x : α) (h : i < n) : vget d (vset v i x) i = x := by
  simp [vget, vset, h]

theorem vget_vset_ne {α : Type} {n i j : Nat} (d : α) (v : Vector α n) (x : α) (h : i ≠ j) : vget d (vset v i x) j = vget d v j := by
  simp [vget, vset, h]

/-- The scalar queue after an entry is the entry and the older ones, cut at age 15 (R348). -/
theorem pushS_sq_toList (c : Core) (x : W64) : (c.pushS x).regs.sq.toList = (x :: c.regs.sq.toList).take 16 := by
  refine List.ext_getElem (by simp) fun i h _ => ?_
  have hi : i < 16 := by simpa using h
  cases i with
  | zero => simp [Core.pushS]
  | succ i => simp [Core.pushS, vget, show i < 16 by omega]

theorem pushV_vq_head (c : Core) (x : VReg) : vget 0 (c.pushV x).regs.vq 0 = x := by simp [Core.pushV, vget]

theorem pushV_vq_succ (c : Core) (x : VReg) {k : Nat} (h : k < 7) :
    vget 0 (c.pushV x).regs.vq (k + 1) = vget 0 c.regs.vq k := by simp [Core.pushV, vget, show k + 1 < 8 by omega]

theorem vLatchIdx_lt (unit : Nat) : vLatchIdx unit < 3 := by unfold vLatchIdx; split_ifs <;> omega

/-- Cutting a list's end does not show below the cut. -/
theorem getD_append_take {α : Type} (l k : List α) (d : α) {i n : Nat} (h : i < n) :
    (l ++ k.take n).getD i d = (l ++ k).getD i d := by
  simp [List.getD_eq_getElem?_getD, List.getElem?_append, show i - l.length < n by omega]

/-! ## Sorting -/

section Sorting

variable {α : Type} {le : α → α → Bool}

theorem insertBy_perm (le : α → α → Bool) (x : α) (l : List α) : (insertBy le x l).Perm (x :: l) := by
  induction l with
  | nil => exact .refl _
  | cons y l ih =>
    simp only [insertBy]
    split
    · exact (ih.cons y).trans (.swap x y l)
    · exact .refl _

theorem foldl_insertBy_perm (le : α → α → Bool) (l acc : List α) :
    (l.foldl (fun acc x => insertBy le x acc) acc).Perm (l ++ acc) := by
  induction l generalizing acc with
  | nil => exact .refl _
  | cons x l ih => exact (ih _).trans (((insertBy_perm le x acc).append_left l).trans List.perm_middle)

theorem sortBy_perm (le : α → α → Bool) (l : List α) : (sortBy le l).Perm l := by
  simpa [sortBy] using foldl_insertBy_perm le l []

theorem insertBy_pairwise (total : ∀ a b, le a b = false → le b a = true) (trans : ∀ a b c, le a b = true → le b c = true → le a c = true)
    (x : α) {l : List α} (h : l.Pairwise fun a b => le a b = true) : (insertBy le x l).Pairwise fun a b => le a b = true := by
  induction l with
  | nil => simp [insertBy]
  | cons y l ih =>
    obtain ⟨hy, hl⟩ := List.pairwise_cons.mp h
    simp only [insertBy]
    split
    next hyx =>
      refine List.pairwise_cons.mpr ⟨fun z hz => ?_, ih hl⟩
      rcases List.mem_cons.mp ((insertBy_perm le x l).mem_iff.mp hz) with rfl | hz
      · exact hyx
      · exact hy z hz
    next hyx =>
      have hxy := total y x (by simpa using hyx)
      refine List.pairwise_cons.mpr ⟨fun z hz => ?_, h⟩
      rcases List.mem_cons.mp hz with rfl | hz
      · exact hxy
      · exact trans x y z hxy (hy z hz)

theorem foldl_insertBy_pairwise (total : ∀ a b, le a b = false → le b a = true)
    (trans : ∀ a b c, le a b = true → le b c = true → le a c = true) (l : List α) {acc : List α}
    (h : acc.Pairwise fun a b => le a b = true) :
    (l.foldl (fun acc x => insertBy le x acc) acc).Pairwise fun a b => le a b = true := by
  induction l generalizing acc with
  | nil => exact h
  | cons x l ih => exact ih (insertBy_pairwise total trans x h)

/-- A strictly ordered list is what the sort makes of any rearrangement of it. -/
theorem sortBy_eq_of_perm (total : ∀ a b, le a b = false → le b a = true)
    (trans : ∀ a b c, le a b = true → le b c = true → le a c = true) {l k : List α} (hp : k.Perm l)
    (hk : k.Pairwise fun a b => le a b = true ∧ le b a = false) : sortBy le l = k := by
  have hsorted : (sortBy le l).Pairwise fun a b => le a b = true := foldl_insertBy_pairwise total trans l .nil
  have hperm : (sortBy le l).Perm k := (sortBy_perm le l).trans hp.symm
  have : Std.Symm fun a b : α => ¬ (le a b = true ∧ le b a = true) := ⟨fun _ _ h g => h g.symm⟩
  have hanti : ∀ a b, a ∈ sortBy le l → b ∈ k → le a b = true → le b a = true → a = b := by
    intro a b ha hb hab hba
    by_contra hne
    have hpair : k.Pairwise fun a b => ¬ (le a b = true ∧ le b a = true) := hk.imp fun h g => by simp [h.2] at g
    exact hpair.forall (hperm.mem_iff.mp ha) hb hne ⟨hab, hba⟩
  exact hperm.eq_of_pairwise hanti hsorted (hk.imp And.left)

end Sorting

/-! ## The order of R348 -/

/-- Where an item stands among the units: register writes first, then ascending unit (R325, R348). -/
def Pend.rank (p : Pend) : Nat := if p.act.isCsr then 0 else p.unit + 1

theorem landBefore_iff (a b : Pend) : landBefore a b = true ↔ a.rank < b.rank ∨ a.rank = b.rank ∧ a.seq ≤ b.seq := by
  simp [landBefore, Pend.rank]

theorem landBefore_total (a b : Pend) (h : landBefore a b = false) : landBefore b a = true := by
  rw [← Bool.not_eq_true, landBefore_iff] at h
  rw [landBefore_iff]
  omega

theorem landBefore_trans (a b c : Pend) (hab : landBefore a b = true) (hbc : landBefore b c = true) : landBefore a c = true := by
  rw [landBefore_iff] at *
  omega

/-- Between results the order is strict in the unit, and within a unit in the issue order (R348). -/
theorem landBefore_strict {a b : Pend} (ha : a.act.isCsr = false) (hb : b.act.isCsr = false)
    (h : a.unit < b.unit ∨ a.unit = b.unit ∧ a.seq < b.seq) : landBefore a b = true ∧ landBefore b a = false := by
  rw [← Bool.not_eq_true, landBefore_iff, landBefore_iff]
  simp only [Pend.rank, ha, hb, Bool.false_eq_true, if_false]
  omega

/-! ## One item lands -/

theorem landsNow_eq (c : Core) (p : Pend) : c.landsNow p = (p.tcc ≤ c.tcc && !p.act.onBytes && !p.act.open_) := by
  obtain ⟨t, q, u, act, fl, o⟩ := p
  cases act with
  | scalar l v => cases v <;> rfl
  | _ => rfl

/-- What no landing touches: the items in flight, the clocks and the local stores. -/
def Core.kept (c : Core) : List Pend × Nat × BitVec 48 × Mem × Mem × Mem := (c.pend, c.tcc, c.scc, c.sp, c.acc, c.imem)

theorem csrApply_kept (c : Core) (num : Nat) (v : W64) : (c.csrApply num v).kept = c.kept := by
  unfold Core.csrApply
  split
  · rfl
  · split <;> rfl

theorem writeReg_kept (c : Core) (idx : BitVec 6) (v : W64) : (c.writeReg idx v).kept = c.kept := by
  unfold Core.writeReg Core.writeN
  split
  · split <;> rfl
  · rfl

theorem landOne_kept (c : Core) (p : Pend) : (c.landOne p).kept = c.kept := by
  unfold Core.landOne
  cases p.act with
  | csr num v => exact csrApply_kept _ num.toNat v
  | reg idx v => exact writeReg_kept _ idx v
  | scalar l v => cases v <;> cases l <;> simp only [Core.kept, Core.pushS, Bool.false_eq_true, if_true, if_false]
  | embVector cmd v => cases v <;> simp only [Core.kept, Core.pushV]
  | lcnt which v => dsimp only; split <;> rfl
  | _ => rfl

theorem foldl_landOne_kept (l : List Pend) (c : Core) : (l.foldl Core.landOne c).kept = c.kept := by
  induction l generalizing c with
  | nil => rfl
  | cons p l ih => exact (ih _).trans (landOne_kept c p)

/-- A scalar result enters the queue and its unit's latch (R14, R348). -/
theorem landOne_scalar (c : Core) {p : Pend} {v : W64} (h : p.act = .scalar true (some v)) :
    (c.landOne p).regs = { (c.pushS v).regs with sLatch := vset c.regs.sLatch p.unit v } := by
  simp only [Core.landOne, h]; rfl

/-- A vector result enters the queue and its unit's latch (R14, R348). -/
theorem landOne_vector (c : Core) {p : Pend} {v : VReg} (h : p.act = .vector v) :
    (c.landOne p).regs.vq = (c.pushV v).regs.vq ∧ (c.landOne p).regs.vLatch = vset c.regs.vLatch (vLatchIdx p.unit) v := by
  simp only [Core.landOne, h, Core.pushV, and_self]

theorem landOne_reg (c : Core) {p : Pend} {n : BitVec 6} {v : W64} (h : p.act = .reg n v) (h0 : 1 ≤ n.toNat) (h32 : n.toNat < 32) :
    vget 0 (c.landOne p).regs.n n.toNat = v := by
  have hn : n.toNat ≠ 0 := by omega
  simp only [Core.landOne, h, Core.writeReg, Core.writeN, if_pos h32, if_neg hn]
  exact vget_vset_same 0 c.regs.n v h32

theorem landOne_vreg (c : Core) {p : Pend} {n : BitVec 4} {v : VReg} (h : p.act = .vreg n v) :
    vget 0 (c.landOne p).regs.v n.toNat = v := by
  simp only [Core.landOne, h, Core.writeV]
  exact vget_vset_same 0 c.regs.v v n.isLt

theorem landOne_breg (c : Core) {p : Pend} {n : BitVec 2} {v : W64} (h : p.act = .breg n v) :
    vget 0 (c.landOne p).regs.b n.toNat = v := by
  simp only [Core.landOne, h]
  exact vget_vset_same 0 c.regs.b v n.isLt

theorem landOne_pstack (c : Core) {p : Pend} {st : List Bool} (h : p.act = .pstack st) : (c.landOne p).pstack = st := by
  simp only [Core.landOne, h]

theorem landOne_cond (c : Core) {p : Pend} {v : W64} (h : p.act = .cond v) : (c.landOne p).cond = v := by
  simp only [Core.landOne, h]

theorem landOne_fmt (c : Core) {p : Pend} {v : W32} (h : p.act = .fmt v) : (c.landOne p).fmt = v := by
  simp only [Core.landOne, h]

theorem csrApply_fstat (c : Core) (v : W64) : (c.csrApply 0x003 v).fstat = c.fstat &&& ~~~(v.setWidth 7) := rfl

/-- A write of FSTAT clears the flags it names, after its own item's flags join (R5, R325). -/
theorem landOne_fstat (c : Core) {p : Pend} {v : W64} (h : p.act = .csr 0x003 v) :
    (c.landOne p).fstat = (c.fstat ||| p.flags) &&& ~~~(v.setWidth 7) := by
  simp only [Core.landOne, h]
  exact csrApply_fstat _ v

/-! ## Scalar results land in their order -/

theorem foldl_landOne_scalars_sq {ps : List (Pend × W64)} (h : ∀ x ∈ ps, x.1.act = .scalar true (some x.2)) (c : Core) {k : Nat} (hk : k < 16) :
    vget 0 ((ps.map (·.1)).foldl Core.landOne c).regs.sq k = ((ps.map (·.2)).reverse ++ c.regs.sq.toList).getD k 0 := by
  induction ps generalizing c with
  | nil => simp [vget, List.getD_eq_getElem?_getD]
  | cons x ps ih =>
    obtain ⟨hx, hps⟩ := List.forall_mem_cons.mp h
    have hsq : (c.landOne x.1).regs.sq.toList = (x.2 :: c.regs.sq.toList).take 16 := by
      rw [landOne_scalar c hx]; exact pushS_sq_toList c x.2
    simp only [List.map_cons, List.foldl_cons, List.reverse_cons, List.append_assoc, List.cons_append, List.nil_append]
    rw [ih hps, hsq, getD_append_take _ _ _ hk]

theorem foldl_landOne_scalars_sLatch {ps : List (Pend × W64)} (h : ∀ x ∈ ps, x.1.act = .scalar true (some x.2)) (c : Core) {u : Nat} (hu : u < 16) :
    vget 0 ((ps.map (·.1)).foldl Core.landOne c).regs.sLatch u =
      (((ps.filter fun x => x.1.unit == u).map (·.2)).getLast?).getD (vget 0 c.regs.sLatch u) := by
  induction ps generalizing c with
  | nil => rfl
  | cons x ps ih =>
    obtain ⟨hx, hps⟩ := List.forall_mem_cons.mp h
    rw [List.map_cons, List.foldl_cons, ih hps, landOne_scalar c hx]
    by_cases hxu : x.1.unit = u
    · subst hxu
      simp [vget_vset_same _ _ _ hu, List.getLast?_cons]
    · simp [hxu, vget_vset_ne _ _ _ hxu]

theorem foldl_landOne_scalars_n_vq {ps : List (Pend × W64)} (h : ∀ x ∈ ps, x.1.act = .scalar true (some x.2)) (c : Core) :
    ((ps.map (·.1)).foldl Core.landOne c).regs.n = c.regs.n ∧ ((ps.map (·.1)).foldl Core.landOne c).regs.vq = c.regs.vq := by
  induction ps generalizing c with
  | nil => exact ⟨rfl, rfl⟩
  | cons x ps ih =>
    obtain ⟨hx, hps⟩ := List.forall_mem_cons.mp h
    obtain ⟨hn, hvq⟩ := ih hps (c.landOne x.1)
    rw [List.map_cons, List.foldl_cons, hn, hvq, landOne_scalar c hx]
    exact ⟨rfl, rfl⟩

/-! ## RESULT_LAND as a fold over what is due -/

/-- An item at the start of a cycle: a vldx on its way has sampled the group of the cycle (R240). -/
def Core.sampled (c : Core) (p : Pend) : Pend :=
  match p.act with
  | .vgather addrs v =>
    let g := c.tcc - p.org.tcc
    if 1 ≤ g ∧ g ≤ 3 then { p with act := .vgather addrs (v % 2 ^ (512 * g) + gatherGroup c.sp addrs g) } else p
  | _ => p

theorem sampleItems_eq (c : Core) : c.sampleItems = { c with pend := c.pend.map c.sampled } := rfl

theorem sampled_of_not_vgather (c : Core) {p : Pend} (h : ∀ a v, p.act ≠ .vgather a v) : c.sampled p = p := by
  unfold Core.sampled
  split
  next a v e => exact absurd e (h a v)
  next => rfl

theorem landsNow_sampled (c : Core) (p : Pend) : c.landsNow (c.sampled p) = c.landsNow p := by
  unfold Core.sampled
  split
  next a v e =>
    dsimp only
    split
    · simp [landsNow_eq, e, PendAct.onBytes, PendAct.open_]
    · rfl
  next => rfl

/-- The items that land in the current cycle, in the order of R348. -/
def Core.dueNow (c : Core) : List Pend := sortBy landBefore (c.sampleItems.pend.filter c.landsNow)

/-- The items that stay in flight. -/
def Core.notDue (c : Core) : List Pend := c.sampleItems.pend.filter fun p => !c.landsNow p

/-- The step of its own that a landing register write becomes (R83, R115, R154). -/
def Pend.landEvents (p : Pend) : List Instr :=
  match p.act with
  | .csr num v => csrEvent num.toNat v
  | _ => []

/-- The core once every due item has landed. -/
def Core.landed (c : Core) : Core := c.dueNow.foldl Core.landOne { c with pend := c.notDue }

/-- What RESULT_LAND is: everything due has landed, the cycle's flags of vacc and of the Kiln join, and the steps of register
writes follow. -/
theorem land_eq (s : State) : s.land = { s with
    core := { s.core.landed with
      fstat := s.core.landed.fstat ||| s.core.sampleItems.accFlags ||| s.core.eng.kiln.flagsAt s.core.tcc
      eng := { s.core.landed.eng with kiln := { s.core.landed.eng.kiln.forget s.core.tcc with
        passes := (s.core.landed.eng.kiln.forget s.core.tcc).passes.map fun p => p.trimEdges s.core.tcc } } }
    agenda := s.core.dueNow.flatMap Pend.landEvents ++ s.agenda } := rfl

theorem land_agenda (s : State) : s.land.agenda = s.core.dueNow.flatMap Pend.landEvents ++ s.agenda := rfl

theorem land_regs (s : State) : s.land.core.regs = s.core.landed.regs := rfl

theorem land_pstack (s : State) : s.land.core.pstack = s.core.landed.pstack := rfl

theorem land_cond (s : State) : s.land.core.cond = s.core.landed.cond := rfl

theorem land_fmt (s : State) : s.land.core.fmt = s.core.landed.fmt := rfl

theorem land_fstat (s : State) : s.land.core.fstat =
    s.core.landed.fstat ||| s.core.sampleItems.accFlags ||| s.core.eng.kiln.flagsAt s.core.tcc := rfl

theorem landed_kept (c : Core) : c.landed.kept = (c.notDue, c.tcc, c.scc, c.sp, c.acc, c.imem) := foldl_landOne_kept _ _

/-- An item that is not due, a vldx on its way left out, is in flight still. -/
theorem mem_notDue {c : Core} {p : Pend} (hp : p ∈ c.pend) (hl : c.landsNow p = false) (hv : ∀ a v, p.act ≠ .vgather a v) : p ∈ c.notDue := by
  simp only [Core.notDue, sampleItems_eq, List.mem_filter, List.mem_map]
  exact ⟨⟨p, hp, sampled_of_not_vgather c hv⟩, by simp [hl]⟩

theorem landsNow_of_mem_notDue {c : Core} {p : Pend} (hp : p ∈ c.notDue) : c.landsNow p = false := by
  simpa using (List.mem_filter.mp hp).2

/-- With no vldx due, the due items are the pending ones that land now, sorted. -/
theorem dueNow_of_not_vgather {c : Core} (h : ∀ p ∈ c.pend.filter c.landsNow, ∀ a v, p.act ≠ .vgather a v) :
    c.dueNow = sortBy landBefore (c.pend.filter c.landsNow) := by
  have hc : c.landsNow ∘ c.sampled = c.landsNow := funext (landsNow_sampled c)
  have hm : (c.pend.filter c.landsNow).map c.sampled = c.pend.filter c.landsNow :=
    (List.map_congr_left fun p hp => sampled_of_not_vgather c (h p hp)).trans (List.map_id' _)
  rw [Core.dueNow, sampleItems_eq, List.filter_map, hc, hm]

/-- Scalar results that are due land in the order of R348, whatever order they stand in. -/
theorem dueNow_scalars {c : Core} {ps : List (Pend × W64)} (hp : (ps.map (·.1)).Perm (c.pend.filter c.landsNow))
    (hs : ∀ x ∈ ps, x.1.act = .scalar true (some x.2))
    (ho : ps.Pairwise fun a b => a.1.unit < b.1.unit ∨ a.1.unit = b.1.unit ∧ a.1.seq < b.1.seq) : c.dueNow = ps.map (·.1) := by
  have hact : ∀ p ∈ c.pend.filter c.landsNow, ∀ a v, p.act ≠ .vgather a v := by
    intro p hpm a v e
    obtain ⟨x, hx, rfl⟩ := List.mem_map.mp (hp.mem_iff.mpr hpm)
    exact PendAct.noConfusion ((hs x hx).symm.trans e)
  have hcsr : ∀ x ∈ ps, x.1.act.isCsr = false := fun x hx => by rw [hs x hx]; rfl
  rw [dueNow_of_not_vgather hact]
  refine sortBy_eq_of_perm landBefore_total landBefore_trans hp (List.pairwise_map.mpr ?_)
  exact ho.imp_of_mem fun ha hb h => landBefore_strict (hcsr _ ha) (hcsr _ hb) h

/-- Only register writes leave steps of their own behind (R325). -/
theorem land_agenda_scalars {s : State} {ps : List (Pend × W64)} (hd : s.core.dueNow = ps.map (·.1))
    (hs : ∀ x ∈ ps, x.1.act = .scalar true (some x.2)) : s.land.agenda = s.agenda := by
  have hev : s.core.dueNow.flatMap Pend.landEvents = [] := by
    rw [hd, List.flatMap_eq_nil_iff]
    intro p hp
    obtain ⟨x, hx, rfl⟩ := List.mem_map.mp hp
    simp only [Pend.landEvents, hs x hx]
  rw [land_agenda, hev, List.nil_append]

/-! ## One item alone -/

section Single

variable {c : Core} {p : Pend}

/-- The acts whose item lands as it stands: it has its value, and it neither performs on bytes nor gathers. -/
def PendAct.plain (act : PendAct) : Prop := act.onBytes = false ∧ act.open_ = false ∧ ∀ a v, act ≠ .vgather a v

/-- The only item, due and as it stands, lands alone. -/
theorem landed_single (h : c.pend = [p]) {act : PendAct} (e : p.act = act) (ht : p.tcc ≤ c.tcc) (ha : act.plain) :
    c.landed = Core.landOne { c with pend := [] } p := by
  subst e
  obtain ⟨hb, hv, hg⟩ := ha
  have hl : c.landsNow p = true := by simp [landsNow_eq, ht, hb, hv]
  have hs : c.sampleItems.pend = [p] := by simp [sampleItems_eq, h, sampled_of_not_vgather c hg]
  simp [Core.landed, Core.dueNow, Core.notDue, hs, hl, sortBy, insertBy]

/-- With a register write alone in flight no flags of vacc's sums join (R242). -/
theorem accFlags_csr {num : BitVec 12} {v : W64} (h : c.pend = [p]) (ha : p.act = .csr num v) : c.sampleItems.accFlags = 0 := by
  have hg : ∀ a v, p.act ≠ .vgather a v := by simp [ha]
  simp [Core.accFlags, sampleItems_eq, h, sampled_of_not_vgather c hg, ha]

/-- A byte write that is due performs at the end of its cycle (R97). -/
theorem perform_single (h : c.pend = [p]) (ht : p.tcc ≤ c.tcc) (hb : p.act.onBytes = true) :
    c.perform = (Core.performOne { c with pend := [] } p).performEng := by
  simp [Core.perform, h, ht, hb, sortBy, insertBy]

end Single

theorem performOne_spWrite (c : Core) {p : Pend} {off n v : Nat} (h : p.act = .spWrite off n v) :
    (c.performOne p).sp = wrLE c.sp off n v ∧ (c.performOne p).acc = c.acc ∧ (c.performOne p).engWrites = c.engWrites := by
  simp only [Core.performOne, h, and_self]

theorem performOne_accWrite (c : Core) {p : Pend} {off n v : Nat} (h : p.act = .accWrite off n v) :
    (c.performOne p).acc = wrLE c.acc off n v ∧ (c.performOne p).sp = c.sp ∧ (c.performOne p).engWrites = c.engWrites := by
  simp only [Core.performOne, h, and_self]

theorem performEng_none {c : Core} (h : c.engWrites = []) : c.performEng = c := by
  obtain ⟨⟩ := c
  simp only at h
  subst h
  rfl

/-! ## The clauses of O50 -/

/-- Nothing due stays behind, nothing else lands, and no landing reaches bytes, other cores or the clocks. -/
theorem land_frame (s : State) :
    (∀ p ∈ s.land.core.pend, s.land.core.landsNow p = false) ∧
    (∀ p ∈ s.core.pend, s.core.tcc < p.tcc → (∀ a v, p.act ≠ .vgather a v) → p ∈ s.land.core.pend) ∧
    SameStores s.core s.land.core ∧ SameOthers s s.land ∧ s.land.core.tcc = s.core.tcc ∧ s.land.core.scc = s.core.scc := by
  have hkept := landed_kept s.core
  simp only [Core.kept, Prod.mk.injEq] at hkept
  obtain ⟨hpend, htcc, hscc, hstores⟩ := hkept
  have hp : s.land.core.pend = s.core.notDue := hpend
  have ht : s.land.core.tcc = s.core.tcc := htcc
  refine ⟨fun p h => ?_, fun p h hlt hg => ?_, hstores, ⟨rfl, rfl, rfl, rfl, rfl, rfl⟩, ht, hscc⟩
  · have hnow := landsNow_of_mem_notDue (hp ▸ h)
    rwa [landsNow_eq, ← ht, ← landsNow_eq] at hnow
  · rw [hp]
    exact mem_notDue h (by simp [landsNow_eq, hlt]) hg

theorem land_scalars (s : State) (ps : List (Pend × W64)) (hp : (ps.map (·.1)).Perm (s.core.pend.filter s.core.landsNow))
    (hs : ∀ x ∈ ps, x.1.act = .scalar true (some x.2))
    (ho : ps.Pairwise fun a b => a.1.unit < b.1.unit ∨ a.1.unit = b.1.unit ∧ a.1.seq < b.1.seq) :
    s.land.agenda = s.agenda ∧
    s.land.core.regs = ((ps.map (·.1)).foldl Core.landOne { s.core with pend := s.core.notDue }).regs := by
  have hd := dueNow_scalars hp hs ho
  refine ⟨land_agenda_scalars hd hs, ?_⟩
  rw [← hd]; rfl

/-- FSTAT after a write of it lands alone, with no flags of its own and none of the Kiln's in its cycle. -/
theorem land_fstat_single {s : State} {p : Pend} {v : W64} (h : s.core.pend = [p]) (ht : p.tcc ≤ s.core.tcc) (e : p.act = .csr 0x003 v)
    (hf : p.flags = 0) (hk : s.core.eng.kiln.flagsAt s.core.tcc = 0) : s.land.core.fstat = s.core.fstat &&& ~~~(v.setWidth 7) := by
  rw [land_fstat, landed_single h e ht ⟨rfl, rfl, nofun⟩, landOne_fstat _ e, accFlags_csr h e, hk, hf]
  simp

/-- One item alone reaches its register, queue and latch, or register of the core, as its act says. -/
theorem land_single (s : State) (p : Pend) (h : s.core.pend = [p]) (ht : p.tcc ≤ s.core.tcc) :
    (∀ v, p.act = .vector v → vget 0 s.land.core.regs.vq 0 = v ∧ vget 0 s.land.core.regs.vLatch (vLatchIdx p.unit) = v ∧
      ∀ k < 7, vget 0 s.land.core.regs.vq (k + 1) = vget 0 s.core.regs.vq k) ∧
    (∀ n v, p.act = .reg n v → 1 ≤ n.toNat → n.toNat < 32 → vget 0 s.land.core.regs.n n.toNat = v) ∧
    (∀ n v, p.act = .vreg n v → vget 0 s.land.core.regs.v n.toNat = v) ∧
    (∀ n v, p.act = .breg n v → vget 0 s.land.core.regs.b n.toNat = v) ∧
    (∀ st, p.act = .pstack st → s.land.core.pstack = st) ∧ (∀ v, p.act = .cond v → s.land.core.cond = v) ∧
    (∀ v, p.act = .fmt v → s.land.core.fmt = v) := by
  rw [land_regs, land_pstack, land_cond, land_fmt]
  refine ⟨fun v e => ?vector, fun n v e h1 h32 => ?reg, fun n v e => ?vreg, fun n v e => ?breg, fun st e => ?pstack,
    fun v e => ?cond, fun v e => ?fmt⟩
  case vector =>
    obtain ⟨hvq, hlatch⟩ := landOne_vector { s.core with pend := [] } e
    rw [landed_single h e ht ⟨rfl, rfl, nofun⟩, hvq, hlatch]
    exact ⟨pushV_vq_head _ v, vget_vset_same 0 s.core.regs.vLatch v (vLatchIdx_lt p.unit), fun k hk => pushV_vq_succ _ v hk⟩
  case reg => rw [landed_single h e ht ⟨rfl, rfl, nofun⟩, landOne_reg _ e h1 h32]
  case vreg => rw [landed_single h e ht ⟨rfl, rfl, nofun⟩, landOne_vreg _ e]
  case breg => rw [landed_single h e ht ⟨rfl, rfl, nofun⟩, landOne_breg _ e]
  case pstack => rw [landed_single h e ht ⟨rfl, rfl, nofun⟩, landOne_pstack _ e]
  case cond => rw [landed_single h e ht ⟨rfl, rfl, nofun⟩, landOne_cond _ e]
  case fmt => rw [landed_single h e ht ⟨rfl, rfl, nofun⟩, landOne_fmt _ e]

/-- A byte write alone performs on its own store. -/
theorem perform_single_write (c : Core) (p : Pend) (off n v : Nat) (h : c.pend = [p]) (ht : p.tcc ≤ c.tcc) (he : c.engWrites = []) :
    (p.act = .spWrite off n v → c.perform.sp = wrLE c.sp off n v ∧ c.perform.acc = c.acc) ∧
    (p.act = .accWrite off n v → c.perform.acc = wrLE c.acc off n v ∧ c.perform.sp = c.sp) := by
  refine ⟨fun e => ?sp, fun e => ?acc⟩
  case sp =>
    obtain ⟨hsp, hacc, heng⟩ := performOne_spWrite { c with pend := [] } e
    rw [perform_single h ht (by rw [e]; rfl), performEng_none (heng.trans he)]
    exact ⟨hsp, hacc⟩
  case acc =>
    obtain ⟨hacc, hsp, heng⟩ := performOne_accWrite { c with pend := [] } e
    rw [perform_single h ht (by rw [e]; rfl), performEng_none (heng.trans he)]
    exact ⟨hacc, hsp⟩

/-- Settles O50: the frame of every landing, the scalar queue as a fold over the due results in the order of R348, and one item of
each other kind. -/
theorem resultsLand : Obligations.ResultsLand := by
  unfold Obligations.ResultsLand
  refine ⟨fun s => ⟨s.land, rfl, land_frame s⟩, ?scalars, ?single, ?bytes⟩
  case scalars =>
    intro s ps hp hs ho
    have hact : ∀ x ∈ ps, x.1.act = .scalar true (some x.2) := fun x hx => (hs x hx).1
    obtain ⟨hagenda, hregs⟩ := land_scalars s ps hp hact ho
    refine ⟨s.land, rfl, hagenda, ?_⟩
    rw [hregs]
    exact ⟨fun k hk => foldl_landOne_scalars_sq hact _ hk, fun u hu => foldl_landOne_scalars_sLatch hact _ hu,
      foldl_landOne_scalars_n_vq hact _⟩
  case single =>
    intro s p h ht
    obtain ⟨hvector, hreg, hvreg, hbreg, hpstack, hcond, hfmt⟩ := land_single s p h ht
    refine ⟨s.land, rfl, hvector, hreg, hvreg, hbreg, hpstack, hcond, hfmt, fun v e hf hk k hk7 => ?_⟩
    rw [land_fstat_single h ht e hf hk]
    simp [show k < 64 by omega, hk7]
  case bytes => exact perform_single_write

end Sys2Proof.Machine

namespace Sys2Proof.Machine
open Sys2Proof.Manual

/-! PROOF. Which step runs, and the module after a cold package reset. -/

/-- Settles O46: the three queues of a step in their order, and the next cycle when all are empty. -/
theorem stepRuns : Obligations.StepRuns := by
  unfold Obligations.StepRuns
  intro s i rest
  refine ⟨fun ha => ?agenda, fun ha hd => ?due, fun ha hd hi => ?inbox, fun ha hd hi => ?cycle⟩
  case agenda => simp only [step, ha]
  case due => simp only [step, ha, hd]
  case inbox => simp only [step, ha, hd, hi]
  case cycle => simp only [step, ha, hd, hi]

/-- After the reset every core, the one in focus and the others, is an idle one. -/
theorem coreAt_reset (i : Nat) : State.reset.coreAt i = .zero := by
  unfold State.coreAt
  split <;> rfl

theorem readN_zero (k : Nat) : Core.zero.readN k = 0 := by
  unfold Core.readN
  split
  · rfl
  · simp only [Core.zero, Regs.zero, vget, Vector.getElem?_replicate]
    split <;> rfl

/-- Settles O53: every core is the idle core of R28, and the module stands at its reset values. -/
theorem resetState : Obligations.ResetState := by
  unfold Obligations.ResetState
  refine ⟨rfl, rfl, rfl, fun i => ?cores, rfl, rfl, rfl, rfl, rfl, rfl⟩
  case cores =>
    rw [coreAt_reset]
    exact ⟨rfl, rfl, rfl, rfl, rfl, readN_zero⟩

/-! ## A scalar trigger -/

/-- A scalar trigger that fires takes its body's effect. -/
theorem scalarTrigger_acts {unit : Nat} {m : Move} {s t : State} {body : W64 → Except Exc State}
    (h : Fires s .scalar false m) (hb : body (s.operand m) = .ok t) : scalarTrigger unit m s body = .next t :=
  slotMove_acts h hb

/-- A scalar trigger whose body ends in a precise fault stops with it. -/
theorem scalarTrigger_stops {unit : Nat} {m : Move} {s : State} {body : W64 → Except Exc State} {c : Cause} {reason faddr finfo : Nat}
    (hl : m.src.bad .scalar = none) (hg : s.core.guardPass m.guard = true) (hb : body (s.operand m) = .error (.fault c reason faddr finfo)) :
    ∃ t, scalarTrigger unit m s body = .next t ∧ StopsWith s t c reason faddr finfo :=
  ⟨_, slotMove_takes hl hg hb, take_fault_stops s c reason faddr finfo unit⟩


/-! ## What stops a transfer (R35, R214 to R216, R225) -/

theorem endDelay_iff (s : State) : s.core.endDelay = true ↔ EndDelay s := by
  unfold Core.endDelay EndDelay
  cases s.core.seg.ending with
  | none => simp
  | some k => simp

theorem targetOk_iff (x : W64) : targetOk x = true ↔ x.toNat % 16 = 0 ∧ x.toNat < 262144 := by simp [targetOk]

theorem not_targetOk_iff (x : W64) : targetOk x = false ↔ x.toNat % 16 ≠ 0 ∨ 262144 ≤ x.toNat := by
  rw [← Bool.not_eq_true, targetOk_iff]
  omega

/-- No delay bundle of a segend or of a loop stands in the way of a transfer. -/
theorem transferBad_none {s : State} (he : ¬ EndDelay s) (hd : s.core.cur.loopDelay = false) : s.transferBad = none := by
  rw [← endDelay_iff] at he
  simp [State.transferBad, he, hd]

theorem transferBad_endDelay {s : State} (he : EndDelay s) : s.transferBad = some (s.graphExc .badEnd) := by
  simp [State.transferBad, (endDelay_iff s).mpr he]

theorem transferBad_loopDelay {s : State} (he : ¬ EndDelay s) (hd : s.core.cur.loopDelay = true) :
    s.transferBad = some (.of .loopXfer) := by
  rw [← endDelay_iff] at he
  simp [State.transferBad, he, hd]

/-- A transfer is not taken beside a segend of its own bundle (R34). -/
theorem transfer_ending {s : State} (h : s.core.seg.ending ≠ none) (x : W64) : s.transfer x = .error (s.graphExc .badEnd) := by
  simp [State.transfer, Option.isSome_iff_ne_none.mpr h]

/-- What a transfer's target must pass before anything else of it is done. -/
inductive TransferRefused (s : State) (x : W64) : Exc → Prop
  | endDelay (h : EndDelay s) : TransferRefused s x (s.graphExc .badEnd)
  | loopDelay (he : ¬ EndDelay s) (h : s.core.cur.loopDelay = true) : TransferRefused s x (.of .loopXfer)
  | target (he : ¬ EndDelay s) (hd : s.core.cur.loopDelay = false) (h : x.toNat % 16 ≠ 0 ∨ 262144 ≤ x.toNat) :
    TransferRefused s x (.of .branchTarget)

theorem jump_refused {s : State} {x : W64} {e : Exc} (h : TransferRefused s x e) : s.jump x = .error e := by
  cases h with
  | endDelay h => simp [State.jump, transferBad_endDelay h]
  | loopDelay he h => simp [State.jump, transferBad_loopDelay he h]
  | target he hd h => simp [State.jump, transferBad_none he hd, (not_targetOk_iff x).mpr h]

/-- The unconditional transfers jump to n31 or to a branch target register, and call then writes its link (R214, R218). -/
theorem exec_jumpForm {i : Instr} {m : Move} {x : Bool × Bool} (h : jumpForm i = some (m, x)) (s : State) :
    ∃ link : State → Except Exc State, exec i s = scalarTrigger 5 m s fun _ =>
      (s.jump (if i = .ret m then s.core.readN 31 else vget 0 s.core.regs.b ((s.operand m).toNat % 4))).bind link := by
  unfold jumpForm at h
  split at h
  case h_1 =>
    cases h
    exact ⟨.ok, by rw [if_neg nofun]; exact congrArg (scalarTrigger 5 m s) (funext fun _ => (bind_pure (s.jump _)).symm)⟩
  case h_2 =>
    cases h
    exact ⟨fun t => t.issue1 5 1 (.reg 31 (BitVec.ofNat 64 (16 * s.core.cur.idx.toNat + 48))), by rw [if_neg nofun]; rfl⟩
  case h_3 =>
    cases h
    exact ⟨.ok, by rw [if_pos rfl]; exact congrArg (scalarTrigger 5 m s) (funext fun _ => (bind_pure (s.jump _)).symm)⟩
  case h_4 => cases h

/-- The body of a conditional transfer that pops its predicate (R215, R216). -/
def condBody (want nul : Bool) (s : State) (x : W64) : Except Exc State :=
  match s.transferBad with
  | some e => .error e
  | none =>
    if !targetOk x then .error (.of .branchTarget)
    else
      match s.core.pstack with
      | [] => .error (.of .pstackUnder)
      | top :: rest => (s.setStack rest).bind fun t =>
          if top == want then t.transfer x else if nul then .ok (t.onCore Core.nullify) else .ok t

theorem condTransfer_eq (want nul : Bool) (m : Move) (s : State) :
    condTransfer want nul m s = scalarTrigger 5 m s fun t => condBody want nul s (s.targetReg t) := rfl

theorem exec_condForm {i : Instr} {m : Move} {want nul : Bool} (h : condForm i = some (m, want, nul)) (s : State) :
    exec i s = scalarTrigger 5 m s fun _ =>
      condBody want nul s (if i = .ret m then s.core.readN 31 else vget 0 s.core.regs.b ((s.operand m).toNat % 4)) := by
  have hcond : i ≠ .ret m ∧ exec i s = condTransfer want nul m s := by
    unfold condForm at h
    split at h <;> cases h <;> exact ⟨nofun, rfl⟩
  rw [hcond.2, condTransfer_eq, if_neg hcond.1]
  rfl

theorem condBody_refused {want nul : Bool} {s : State} {x : W64} {e : Exc} (h : TransferRefused s x e) : condBody want nul s x = .error e := by
  cases h with
  | endDelay h => simp [condBody, transferBad_endDelay h]
  | loopDelay he h => simp [condBody, transferBad_loopDelay he h]
  | target he hd h => simp [condBody, transferBad_none he hd, (not_targetOk_iff x).mpr h]

section Allowed

variable {s : State} {x : W64} (he : ¬ EndDelay s) (hd : s.core.cur.loopDelay = false) (hm : x.toNat % 16 = 0) (hlt : x.toNat < 262144)
include he hd hm hlt

theorem jump_ending (h : s.core.seg.ending ≠ none) : s.jump x = .error (s.graphExc .badEnd) := by
  simp [State.jump, transferBad_none he hd, (targetOk_iff x).mpr ⟨hm, hlt⟩, transfer_ending h]

/-- The predicate stack must hold the top that a conditional transfer pops (R211). -/
theorem condBody_empty {want nul : Bool} (h : s.core.pstack = []) : condBody want nul s x = .error (.of .pstackUnder) := by
  simp [condBody, transferBad_none he hd, (targetOk_iff x).mpr ⟨hm, hlt⟩, h]

theorem condBody_ending {want nul : Bool} {rest : List Bool} (h : s.core.pstack = want :: rest) (hr : Room s 1)
    (hend : s.core.seg.ending ≠ none) : condBody want nul s x = .error (s.graphExc .badEnd) := by
  obtain ⟨u, hpop, hseg⟩ : ∃ u, s.setStack rest = .ok u ∧ u.core.seg = s.core.seg := ⟨_, issue1_room (by decide) hr, rfl⟩
  have htaken : u.transfer x = .error (s.graphExc .badEnd) := by
    rw [transfer_ending (hseg ▸ hend), State.graphExc, hseg, State.graphExc]
  simp [condBody, transferBad_none he hd, (targetOk_iff x).mpr ⟨hm, hlt⟩, h, hpop, Except.bind, htaken]

end Allowed

/-- A transfer that meets a refusal stops with it, whichever its form. -/
theorem transfer_refused_stops {i : Instr} {m : Move} {s : State} {c : Cause} {faddr : Nat}
    (hform : (∃ x, jumpForm i = some (m, x)) ∨ (∃ x, condForm i = some (m, x)))
    (hl : m.src.bad .scalar = none) (hg : s.core.guardPass m.guard = true)
    (h : TransferRefused s (if i = .ret m then s.core.readN 31 else vget 0 s.core.regs.b ((s.operand m).toNat % 4)) (.fault c 0 faddr 0)) :
    ∃ t, exec i s = .next t ∧ StopsWith s t c 0 faddr 0 := by
  rcases hform with ⟨x, hi⟩ | ⟨⟨want, nul⟩, hi⟩
  · obtain ⟨link, hexec⟩ := exec_jumpForm hi s
    rw [hexec]
    exact scalarTrigger_stops hl hg (by rw [jump_refused h]; rfl)
  · rw [exec_condForm hi]
    exact scalarTrigger_stops hl hg (condBody_refused h)

/-- The transfers' clauses of O28. -/
theorem transferFaults (i : Instr) (m : Move) (s : State) (hl : m.src.bad .scalar = none) (hg : s.core.guardPass m.guard = true) :
    let target := if i = .ret m then s.core.readN 31 else vget 0 s.core.regs.b ((s.operand m).toNat % 4)
    ((∃ x, jumpForm i = some (m, x)) ∨ (∃ x, condForm i = some (m, x)) →
      (EndDelay s → ∃ t, exec i s = .next t ∧ StopsWith s t .badEnd 0 s.core.seg.node 0) ∧
      (¬ EndDelay s → s.core.cur.loopDelay = true → ∃ t, exec i s = .next t ∧ StopsWith s t .loopXfer 0 0 0) ∧
      (¬ EndDelay s → s.core.cur.loopDelay = false → target.toNat % 16 ≠ 0 ∨ 262144 ≤ target.toNat →
        ∃ t, exec i s = .next t ∧ StopsWith s t .branchTarget 0 0 0)) ∧
    ((∃ x, condForm i = some (m, x)) → ¬ EndDelay s → s.core.cur.loopDelay = false →
      target.toNat % 16 = 0 → target.toNat < 262144 → s.core.pstack = [] →
      ∃ t, exec i s = .next t ∧ StopsWith s t .pstackUnder 0 0 0) ∧
    ((∃ x, jumpForm i = some (m, x)) ∨ (∃ want nul rest, condForm i = some (m, want, nul) ∧ s.core.pstack = want :: rest ∧ Room s 1) →
      ¬ EndDelay s → s.core.seg.ending ≠ none → s.core.cur.loopDelay = false → target.toNat % 16 = 0 → target.toNat < 262144 →
      ∃ t, exec i s = .next t ∧ StopsWith s t .badEnd 0 s.core.seg.node 0) := by
  intro target
  refine ⟨fun hform => ⟨fun he => ?endDelay, fun he hd => ?loopDelay, fun he hd hx => ?target⟩,
    fun ⟨⟨want, nul⟩, hi⟩ he hd hm hlt hst => ?empty,
    fun hform he hend hd hm hlt => ?ending⟩
  case endDelay => exact transfer_refused_stops hform hl hg (.endDelay he)
  case loopDelay => exact transfer_refused_stops hform hl hg (.loopDelay he hd)
  case target => exact transfer_refused_stops hform hl hg (.target he hd hx)
  case empty =>
    rw [exec_condForm hi]
    exact scalarTrigger_stops hl hg (condBody_empty he hd hm hlt hst)
  case ending =>
    rcases hform with ⟨x, hi⟩ | ⟨want, nul, rest, hi, hst, hr⟩
    · obtain ⟨link, hexec⟩ := exec_jumpForm hi s
      rw [hexec]
      exact scalarTrigger_stops hl hg (by rw [jump_ending he hd hm hlt hend]; rfl)
    · rw [exec_condForm hi]
      exact scalarTrigger_stops hl hg (condBody_ending he hd hm hlt hst hr hend)

/-! ## What the loop operations refuse (R220, R221, R223, R225) -/

/-- The refusals of the loop trigger in their order (R34, R221, R225). -/
theorem loopBad_endDelay {s : State} (he : EndDelay s) (t : W64) : s.loopBad t = some (s.graphExc .badEnd) := by
  simp [State.loopBad, (endDelay_iff s).mpr he]

section LoopOpen

variable {s : State} {t : W64} (he : ¬ EndDelay s)
include he

theorem loopBad_delay (hd : s.core.cur.loopDelay = true ∨ s.core.cur.xferDelay = true) : s.loopBad t = some (.of .loopXfer) := by
  rw [← endDelay_iff] at he
  simp [State.loopBad, he, hd]

variable (hl : s.core.cur.loopDelay = false) (hx : s.core.cur.xferDelay = false)
include hl hx

/-- Outside every delay bundle the operand, the level and the body are judged (R221). -/
theorem loopBad_eq : s.loopBad t =
    let l := s.core.loops
    if 2 ^ 32 ≤ t.toNat then some (.of .loopRange)
    else if l.inner.active then some (.of .loopDepth)
    else if l.pendLast < l.pendFirst ∨ l.pendFirst < s.core.seg.first ∨ s.core.seg.last < l.pendLast then some (.of .loopRange)
    else if l.outer.active ∧ (l.pendFirst < l.outer.first ∨ l.outer.last ≤ l.pendLast) then some (.of .loopNest)
    else none := by
  rw [← endDelay_iff] at he
  have hbig : t.toNat / 2 ^ 32 ≠ 0 ↔ 2 ^ 32 ≤ t.toNat := by omega
  simp only [State.loopBad, he, hl, hx, hbig]
  simp [or_assoc]

end LoopOpen

theorem exec_lstart (m : Move) (s : State) : exec (.lstart m) s = loopBound m s fun i => .loopPend none (some i) none := rfl
theorem exec_lend (m : Move) (s : State) : exec (.lend m) s = loopBound m s fun i => .loopPend none none (some i) := rfl
theorem exec_lstages (m : Move) (s : State) : exec (.lstages m) s = execLstages m s := rfl
theorem exec_lcnt (m : Move) (s : State) : exec (.lcnt m) s = execLcnt m s := rfl
theorem exec_loop (m : Move) (s : State) : exec (.loop m) s = execLoop m s := rfl

section LoopStops

variable {m : Move} {s : State} (hl : m.src.bad .scalar = none) (hg : s.core.guardPass m.guard = true)
include hl hg

/-- A bundle offset that lstart and lend refuse (R220). -/
theorem loopBound_stops (f : BitVec 14 → PendAct) (h : (s.operand m).toNat % 16 ≠ 0 ∨ 262144 ≤ (s.operand m).toNat) :
    ∃ t, loopBound m s f = .next t ∧ StopsWith s t .loopRange 0 0 0 :=
  scalarTrigger_stops hl hg (by rw [(not_targetOk_iff _).mpr h]; rfl)

theorem lstages_stops (h : (s.operand m).toNat = 0 ∨ 8 < (s.operand m).toNat) :
    ∃ t, execLstages m s = .next t ∧ StopsWith s t .loopRange 0 0 0 :=
  scalarTrigger_stops hl hg (if_neg (by omega))

theorem lcnt_range_stops (h : 2 ^ 32 ≤ (s.operand m).toNat) : ∃ t, execLcnt m s = .next t ∧ StopsWith s t .loopRange 0 0 0 :=
  scalarTrigger_stops hl hg (if_pos (show (s.operand m).toNat / 2 ^ 32 ≠ 0 by omega))

theorem lcnt_state_stops (h : (s.operand m).toNat < 2 ^ 32) (hin : s.core.loops.inner.active = false)
    (hout : s.core.loops.outer.active = false) : ∃ t, execLcnt m s = .next t ∧ StopsWith s t .loopState 0 0 0 := by
  have hnone : s.core.loops.innermost = none := by simp [Loops.innermost, hin, hout]
  refine scalarTrigger_stops hl hg ((if_neg (show ¬ (s.operand m).toNat / 2 ^ 32 ≠ 0 by omega)).trans ?_)
  rw [hnone]

theorem loop_stops {c : Cause} {faddr : Nat} (h : s.loopBad (s.operand m) = some (.fault c 0 faddr 0)) :
    ∃ t, execLoop m s = .next t ∧ StopsWith s t c 0 faddr 0 :=
  scalarTrigger_stops hl hg (by rw [h])

end LoopStops

/-- Settles O28: the refusals of transfers, then those of the loop registers and of the loop trigger in their order. -/
theorem flowFaults : Obligations.FlowFaults := by
  unfold Obligations.FlowFaults
  refine ⟨transferFaults, fun m s hl hg => ?_⟩
  have loopStops : ∀ c faddr, s.loopBad (s.operand m) = some (.fault c 0 faddr 0) →
      ∃ u, exec (.loop m) s = .next u ∧ StopsWith s u c 0 faddr 0 := fun c faddr => exec_loop m s ▸ loop_stops hl hg
  intro t l stops
  simp only [stops, exec_lstart, exec_lend, exec_lstages, exec_lcnt]
  refine ⟨fun h => ⟨loopBound_stops hl hg _ h, loopBound_stops hl hg _ h⟩, lstages_stops hl hg, lcnt_range_stops hl hg,
    lcnt_state_stops hl hg, fun he => ?endDelay, fun he => ⟨fun hd => ?delay, fun hd hx => ?open_⟩⟩
  case endDelay => exact loopStops _ _ (loopBad_endDelay he _)
  case delay => exact loopStops _ _ (loopBad_delay he hd)
  case open_ =>
    have heq := loopBad_eq (t := t) he hd hx
    refine ⟨fun hr => ?range, fun hr hi => ?depth, fun hr hi hb => ?body, fun hr hi h1 h2 h3 ho hn => ?nest⟩
    case range => exact loopStops _ _ (heq.trans (if_pos hr))
    case depth => exact loopStops _ _ (heq.trans ((if_neg (Nat.not_le.mpr hr)).trans (if_pos hi)))
    case body =>
      refine loopStops _ _ (heq.trans ?_)
      rw [if_neg (Nat.not_le.mpr hr), if_neg (by rw [hi]; decide), if_pos hb]
    case nest =>
      have hb : ¬ (l.pendLast < l.pendFirst ∨ l.pendFirst < s.core.seg.first ∨ s.core.seg.last < l.pendLast) := by
        simp only [not_or, BitVec.not_lt]
        exact ⟨h1, h2, h3⟩
      refine loopStops _ _ (heq.trans ?_)
      rw [if_neg (Nat.not_le.mpr hr), if_neg (by rw [hi]; decide), if_neg hb, if_pos ⟨ho, hn⟩]

end Sys2Proof.Machine

namespace Sys2Proof.Machine
open Sys2Proof.Manual

/-! PROOF. The simple control operations, then fence, segend and bar. -/

/-! ## Control operations that change the core at once (R324, R329) -/

section Control

variable {m : Move} {s : State} (h : Fires s .scalar false m)
include h

theorem nop_acts : execNop m s = .next s := scalarTrigger_acts h rfl

theorem trap_acts : execTrap m s = .next (s.onCore fun c => { c with trapped := some ((s.operand m).toNat % 2 ^ 16) }) :=
  scalarTrigger_acts h rfl

theorem halt_acts (hv : s.core.eng.ember.flt.getLsbD 63 = false) : execHalt m s = .next (s.onCore fun c => { c with halt := true }) :=
  scalarTrigger_acts h (if_neg (by rw [Core.embOverrun, hv]; decide))

theorem mark_acts : execMark m s =
    .next (s.onCore fun c => c.traceRec s.ts s.focus 2 [BitVec.ofNat 64 ((s.operand m).toNat % 2 ^ 32)]) :=
  scalarTrigger_acts h rfl

end Control

/-! ## Trace records (R427, R428) -/

theorem traceRec_closed {c : Core} (h : c.trace.isOpen = false) (ts : W64) (src kind : Nat) (payload : List W64) :
    c.traceRec ts src kind payload = c := by
  simp [Core.traceRec, h]

section OpenTrace

variable {c : Core} {kind : Nat} (ho : c.trace.isOpen = true) (hl : c.trace.launch = c.task.launchId) (hc : c.trace.closing = none)
  (hk : c.trace.kinds.getLsbD (kind - 1) = true) (ts : W64) (src : Nat) (payload : List W64)
include ho hl hc hk

theorem traceRec_room (hr : c.trace.buf.length < 1024) : c.traceRec ts src kind payload =
    { c with trace := { c.trace with buf := c.trace.buf ++ [c.traceWords ts src kind payload] } } := by
  simp [Core.traceRec, ho, hl, hc, hk, hr]

theorem traceRec_full (hr : 1024 ≤ c.trace.buf.length) : c.traceRec ts src kind payload =
    { c with trace := { c.trace with dropped := c.trace.dropped + 1 } } := by
  simp [Core.traceRec, ho, hl, hc, hk, Nat.not_lt.mpr hr]

end OpenTrace

/-! ## Control operations that deliver or land later (R33, R56, R325, R331) -/

/-- A value of FMT that R47 and R56 allow. -/
theorem fmtBad_legal {t : W64} (h18 : t.toNat < 2 ^ 18) (ha : t.toNat % 16 ≤ 10) (hb : t.toNat / 16 % 16 ≤ 10)
    (hacc : t.toNat / 256 % 16 ≤ 10) (hsat : t.toNat / 65536 ≠ 3) : fmtBad t = false := by
  have hsat' : t.toNat / 65536 % 4 ≠ 3 := by omega
  simp [fmtBad, fmtAT, fmtBT, fmtACC, fmtSAT, Nat.shiftRight_eq_div_pow]
  omega

section ControlRoom

variable {m : Move} {s : State} (h : Fires s .scalar false m) (hr : Room s 1)
include h hr

theorem fmt_acts (hf : fmtBad (s.operand m) = false) :
    execFmt m s = .next (s.sent 14 [(4, .fmt ((s.operand m).setWidth 32), 0)]) :=
  scalarTrigger_acts h ((if_neg (by simp [hf])).trans (issue1_room (by decide) hr))

theorem cond_acts : execCond m s = .next (s.sent 14 [(1, .cond (s.operand m), 0)]) :=
  scalarTrigger_acts h (issue1_room (by decide) hr)

theorem tsc_acts : execTsc m s = .next (s.sentScalar 14 2 s.ts) :=
  scalarTrigger_acts h (result_room (by decide) hr)

theorem csrw_acts {n : Nat} (hn : n < 4096) (ha : (s.core.port 14 1).toNat = n) (hb : s.core.csrwBad n (s.operand m) = none) :
    execCsrw m s = .next (s.sent 14 [(1, .csr (BitVec.ofNat 12 n) (s.operand m), 0)]) := by
  have hnum : (ctlA s).setWidth 12 = BitVec.ofNat 12 n := by rw [← ha]; exact BitVec.eq_of_toNat_eq (by simp [ctlA])
  refine scalarTrigger_acts h ((if_neg (show ¬ (ctlA s).toNat / 4096 ≠ 0 by rw [ctlA, ha]; omega)).trans ?_)
  rw [ctlA, ha, hb, ← ctlA, hnum]
  exact issue1_room (by decide) hr

end ControlRoom

/-- A read of a register; one of FMT uses FMT for the scoreboard (R325, R353). -/
theorem csrr_acts {m : Move} {s : State} (h : Fires s .scalar (s.operand m == 2) m) (hr : Room s 1) {v : W64}
    (ht : (s.operand m).toNat < 4096) (hv : s.core.csrRead (s.operand m).toNat = some v) :
    execCsrr m s = .next (s.sentScalar 14 2 v) := by
  refine slotMove_acts h ((if_neg (show ¬ (s.operand m).toNat / 4096 ≠ 0 by omega)).trans ?_)
  rw [← State.operand, hv]
  exact result_room (by decide) hr

theorem exec_nop (m : Move) (s : State) : exec (.nop m) s = execNop m s := rfl
theorem exec_trap (m : Move) (s : State) : exec (.trap m) s = execTrap m s := rfl
theorem exec_halt (m : Move) (s : State) : exec (.halt m) s = execHalt m s := rfl
theorem exec_mark (m : Move) (s : State) : exec (.mark m) s = execMark m s := rfl
theorem exec_fmt (m : Move) (s : State) : exec (.fmt m) s = execFmt m s := rfl
theorem exec_cond (m : Move) (s : State) : exec (.cond m) s = execCond m s := rfl
theorem exec_tsc (m : Move) (s : State) : exec (.tsc m) s = execTsc m s := rfl
theorem exec_csrw (m : Move) (s : State) : exec (.csrw m) s = execCsrw m s := rfl
theorem exec_csrr (m : Move) (s : State) : exec (.csrr m) s = execCsrr m s := rfl

/-- Settles O31: each operation's effect, a mark's by the state of the trace session. -/
theorem controlSimple : Obligations.ControlSimple := by
  unfold Obligations.ControlSimple
  intro m s t
  simp only [exec_nop, exec_trap, exec_halt, exec_mark, exec_fmt, exec_cond, exec_tsc, exec_csrw, exec_csrr]
  refine ⟨fun h => ⟨nop_acts h, trap_acts h, halt_acts h, fun hc => ?closed, fun ho hl hc hk => ⟨fun hr => ?kept, fun hr => ?dropped⟩,
    fun hr => ⟨fun h18 ha hb hacc hsat => fmt_acts h hr (fmtBad_legal h18 ha hb hacc hsat), cond_acts h hr, tsc_acts h hr,
      fun n hn ha hb => csrw_acts h hr hn ha hb⟩⟩, fun h hr v ht hv => csrr_acts h hr ht hv⟩
  case closed => rw [mark_acts h, State.onCore, traceRec_closed hc]
  case kept => rw [mark_acts h, State.onCore, traceRec_room ho hl hc hk _ _ _ hr]; rfl
  case dropped => rw [mark_acts h, State.onCore, traceRec_full ho hl hc hk _ _ _ hr]; rfl

/-! ## fence (R101, R327) -/

theorem fence_acts {m : Move} {s : State} (h : Fires s .scalar false m) {k : Nat} {kind : FenceKind} {scope : BitVec 2}
    (ht : (s.operand m).toNat = 4 * k + scope.toNat)
    (hk : k = 1 ∧ kind = .release ∨ k = 2 ∧ kind = .acquire ∨ k = 3 ∧ kind = .full) :
    execFence m s = .next (if scope = 0 then s
      else s.onCore fun c => { c with fences := c.fences ++ [⟨c.gid, kind, scope⟩], gid := c.gid + 1 }) := by
  have hs := scope.isLt
  have hfld : fld (s.operand m).toNat 3 2 = k := by simp only [fld]; omega
  have hkind : fenceKind (s.operand m) = some kind := by
    unfold fenceKind
    rw [hfld]
    rcases hk with ⟨rfl, rfl⟩ | ⟨rfl, rfl⟩ | ⟨rfl, rfl⟩ <;> rfl
  have hscope : BitVec.ofNat 2 (s.operand m).toNat = scope := by
    apply BitVec.eq_of_toNat_eq
    rw [BitVec.toNat_ofNat, ht]
    omega
  have hzero : (s.operand m).toNat % 4 = 0 ↔ scope = 0 := by
    rw [← BitVec.toNat_inj, ht]
    change _ ↔ scope.toNat = 0
    omega
  refine scalarTrigger_acts h ?_
  rw [hkind]
  dsimp only
  rw [if_neg (by omega), hscope]
  simp only [hzero]
  split <;> rfl

/-! ## segend (R34, R35) -/

theorem following_two (c : Core) : following c.cur.idx c.fq 2 = [(nextTwo c).1, (nextTwo c).2] := by
  unfold nextTwo
  split <;> rename_i hfq <;> rw [hfq] <;> simp [following, Pos.plain, BitVec.add_assoc]

theorem segend_acts {m : Move} {s : State} (h : Fires s .scalar false m) (hl : s.core.loops.innermost = none)
    (hx : s.core.cur.xferDelay = false) (he : s.core.seg.ending = none) (hq : ∀ p ∈ s.core.fq, p.xferDelay = false)
    (hlast : s.core.cur.idx.toNat + 2 ≤ s.core.seg.last.toNat) :
    execSegend m s = .next (s.onCore fun c =>
      { c with seg := { c.seg with ending := some 3 }, fq := [(nextTwo c).1, (nextTwo c).2] }) := by
  have hgood : s.segendBad = none := by simpa [State.segendBad, hl, hx, he, Nat.not_lt.mpr hlast] using hq
  refine scalarTrigger_acts h ?_
  rw [hgood]
  simp only [following_two]

/-! ## bar (R38, R328) -/

/-- The two forms of a bar's operand (R328). -/
theorem barRect_legal {launch r : Rect} {t : W64}
    (h : t = 0x10000 ∧ r = launch ∨
      ∃ x y lw hc h, x < 32 ∧ y < 32 ∧ lw ≤ 5 ∧ [1, 2, 3, 6, 12, 24][hc]? = some h ∧
        t.toNat = x + 32 * y + 1024 * lw + 8192 * hc ∧ r = ⟨x, y, 2 ^ lw, h⟩) : barRect launch t = some r := by
  rcases h with ⟨rfl, rfl⟩ | ⟨x, y, lw, hc, h, hx, hy, hlw, hhc, ht, rfl⟩
  · rfl
  · have h6 : hc < 6 := by
      by_contra hge
      simp [List.getElem?_eq_none (show [1, 2, 3, 6, 12, 24].length ≤ hc by simpa using hge)] at hhc
    have hbit : bit t.toNat 16 = false := by
      simp only [bit, Nat.testBit_eq_decide_div_mod_eq, decide_eq_false_iff_not]
      omega
    have hfx : fld t.toNat 4 0 = x := by simp only [fld]; omega
    have hfy : fld t.toNat 9 5 = y := by simp only [fld]; omega
    have hflw : fld t.toNat 12 10 = lw := by simp only [fld]; omega
    have hfhc : fld t.toNat 15 13 = hc := by simp only [fld]; omega
    simp only [barRect, hbit, hfx, hfy, hflw, hfhc, List.getD_eq_getElem?_getD, hhc]
    rw [if_neg (by omega), if_neg (by decide), if_neg (by omega)]
    rfl

theorem bar_acts {m : Move} {s : State} (h : Fires s .scalar false m) {r : Rect} (hr : barRect s.core.task.rect (s.operand m) = some r)
    (ha : r.aligned = true) (hf : r.has s.focus = true) (hi : r.inside s.core.task.rect = true)
    (hb : ∀ b ∈ s.mod.barriers, b.slot = s.core.task.slot → b.rect.meets r = true → b.rect = r) :
    execBar m s = .next { s with
      tags := publishTags s.tags s.focus s.core.writeLog
      core := { s.core with
        writeLog := [], wait := some (.bar r s.core.slot none), waitFrom := s.core.gid
        barKept := (0, [(s.core.slot, (s.operand m).setWidth 2048)]) }
      mod := { s.mod with barriers := arriveAt s.mod.barriers s.core.task.slot r s.focus }
      due := s.due ++ [.barrierComplete] } := by
  have hgood : s.barBad r = none := by
    simpa [State.barBad, ha, hf, hi] using hb
  refine scalarTrigger_acts h ?_
  rw [hr]
  dsimp only
  rw [hgood]
  rfl

theorem exec_fence (m : Move) (s : State) : exec (.fence m) s = execFence m s := rfl
theorem exec_segend (m : Move) (s : State) : exec (.segend m) s = execSegend m s := rfl
theorem exec_bar (m : Move) (s : State) : exec (.bar m) s = execBar m s := rfl

/-- Settles O33: the three operations of control order, each with its operand taken apart. -/
theorem controlOrder : Obligations.ControlOrder := by
  unfold Obligations.ControlOrder
  intro m s h t
  simp only [exec_fence, exec_segend, exec_bar]
  exact ⟨fun k kind scope => fence_acts h, segend_acts h, fun r hr => bar_acts h (barRect_legal hr)⟩

end Sys2Proof.Machine

namespace Sys2Proof.Machine
open Sys2Proof.Manual

/-! PROOF. Positions of the stream: what an update of the stream sets, the refusals of a whole bundle, and the nullified position. -/

/-! ## What the updates of a position leave -/

/-- What no update of the stream touches: registers, local stores, items in flight, clocks and engines. -/
def Core.aside (c : Core) : Regs × List Bool × BitVec 7 × W32 × W64 × Nat × BitVec 48 × (Mem × Mem × Mem) × List Pend × Engines :=
  (c.regs, c.pstack, c.fstat, c.fmt, c.cond, c.tcc, c.scc, (c.sp, c.acc, c.imem), c.pend, c.eng)

theorem aside_same {c c' : Core} (h : c'.aside = c.aside) :
    SameRegs c c' ∧ SameStores c c' ∧ c'.pend = c.pend ∧ c'.eng = c.eng := by
  simp only [Core.aside, Prod.mk.injEq] at h
  obtain ⟨hregs, hpstack, hfstat, hfmt, hcond, htcc, hscc, hstores, hpend, heng⟩ := h
  simp only [SameRegs, SameStores, hregs, hpstack, hfstat, hfmt, hcond, htcc, hscc, hstores, hpend, heng, and_self]

/-- The stream itself, its mode and a halt to come. -/
def Core.flow (c : Core) : Mode × Bool × Pos × List Pos := (c.mode, c.halt, c.cur, c.fq)

theorem popPos_keeps (c : Core) : c.popPos.aside = c.aside ∧ c.popPos.mode = c.mode ∧ c.popPos.halt = c.halt ∧
    c.popPos.loops = c.loops ∧ c.popPos.walks = c.walks := by
  unfold Core.popPos
  split <;> exact ⟨rfl, rfl, rfl, rfl, rfl⟩

theorem enterTarget_keeps (c : Core) : c.enterTarget.aside = c.aside ∧ c.enterTarget.flow = c.flow := by
  unfold Core.enterTarget
  split <;> exact ⟨rfl, rfl⟩

theorem firstPass_keeps (c : Core) : c.firstPass.aside = c.aside ∧ c.firstPass.flow = c.flow := by
  unfold Core.firstPass
  dsimp only
  split
  · split <;> exact ⟨rfl, rfl⟩
  · exact ⟨rfl, rfl⟩

/-- A trace record touches the trace session alone (R427). -/
theorem traceRec_sets (c : Core) (ts : W64) (src kind : Nat) (payload : List W64) :
    ∃ tr, c.traceRec ts src kind payload = { c with trace := tr } := by
  unfold Core.traceRec
  split
  · split <;> exact ⟨_, rfl⟩
  · exact ⟨_, rfl⟩

theorem traceRec_keeps (c : Core) (ts : W64) (src kind : Nat) (payload : List W64) :
    (c.traceRec ts src kind payload).aside = c.aside ∧ (c.traceRec ts src kind payload).flow = c.flow := by
  obtain ⟨tr, h⟩ := traceRec_sets c ts src kind payload
  rw [h]
  exact ⟨rfl, rfl⟩

/-- The sampler changes the core alone, and of it nothing but its trace session (R429). -/
theorem sample_keeps (s : State) (guards : Nat) : s.sample guards = { s with core := (s.sample guards).core } ∧
    (s.sample guards).core.aside = s.core.aside ∧ (s.sample guards).core.flow = s.core.flow := by
  unfold State.sample
  dsimp only
  split
  · exact ⟨rfl, rfl, rfl⟩
  · split
    · exact ⟨rfl, rfl, rfl⟩
    · split
      · exact ⟨rfl, traceRec_keeps _ _ _ _ _⟩
      · exact ⟨rfl, rfl, rfl⟩

theorem afterPos_keeps (c : Core) (stall : Nat) : (c.afterPos stall).aside = c.aside ∧
    (c.afterPos stall).flow = (c.mode, c.halt, c.cur, if c.fq = [] then [Pos.plain (c.cur.idx + 1)] else c.fq) ∧
    (c.afterPos stall).stall = stall := by
  obtain ⟨haside, hflow⟩ := firstPass_keeps c
  simp only [Core.flow, Prod.mk.injEq] at hflow
  obtain ⟨hmode, hhalt, hcur, hfq⟩ := hflow
  refine ⟨haside, ?_, rfl⟩
  simp only [Core.flow, Core.afterPos, hmode, hhalt, hcur, hfq, List.isEmpty_iff]

/-- With no halt asked for, what takes hold after a position leaves the stream as it stands (R329, R424). -/
theorem afterStops_keeps {c : Core} (h : c.halt = false) :
    c.afterStops.aside = c.aside ∧ c.afterStops.flow = c.flow ∧ c.afterStops.stall = c.stall := by
  unfold Core.afterStops
  simp only [h, Bool.false_eq_true, if_false]
  split
  · exact ⟨rfl, rfl, rfl⟩
  · split <;> exact ⟨rfl, rfl, rfl⟩

/-! ## A fault of a whole bundle (R181, R426) -/

/-- The record of a fault of a whole bundle names its slot and has an empty done mask; nothing of the position is done. -/
theorem takeWhole_fault (s : State) (k : Nat) (cause : Cause) (reason faddr finfo : Nat) :
    (s.onCore Core.popPos).takeWhole k (.fault cause reason faddr finfo) = { s with
      agenda := []
      core := { s.core.popPos with
        mode := .stopping, cycleOpen := false, fq := s.core.popPos.cur :: s.core.popPos.fq
        walks := s.core.walks.filter fun w => w.failed.isNone
        doneMask := 0, captured := []
        stop := some ⟨some cause, reason, k, 0, 0, faddr, finfo, !cause.graph, false, .zero, false⟩ } } := by
  obtain ⟨-, -, -, -, hwalks⟩ := popPos_keeps s.core
  rw [← hwalks]
  rfl

/-- What stands after a fault of a whole bundle, in the terms of O48. -/
theorem takeWhole_stops (s : State) (k : Nat) (cause : Cause) (reason faddr finfo : Nat) :
    let t := (s.onCore Core.popPos).takeWhole k (.fault cause reason faddr finfo)
    t.core.mode = .stopping ∧ t.agenda = [] ∧ t.core.fq = s.core.popPos.cur :: s.core.popPos.fq ∧ SameRegs s.core t.core ∧
      SameStores s.core t.core ∧ SameOthers s t ∧ t.mod = s.mod ∧ t.core.pend = s.core.pend ∧
      t.core.stop = some ⟨some cause, reason, k, 0, 0, faddr, finfo, !cause.graph, false, .zero, false⟩ ∧ t.core.doneMask = 0 ∧
      t.core.loops = s.core.loops := by
  obtain ⟨haside, -, -, hloops, -⟩ := popPos_keeps s.core
  obtain ⟨hregs, hstores, hpend, -⟩ := aside_same haside
  exact ⟨rfl, rfl, rfl, hregs, hstores, ⟨rfl, rfl, rfl, rfl, rfl, rfl⟩, rfl, hpend, rfl, rfl, hloops⟩

/-! ## The checks of a position -/

theorem bundleIssue_refused {s : State} {k : Nat} {e : Exc} (h : (s.onCore Core.popPos).positionBundle = .error (k, e)) :
    exec .bundleIssue s = .next ((s.onCore Core.popPos).takeWhole k e) := by
  change execBundleIssue s = _
  simp only [execBundleIssue, h]

theorem nullifiedPosition_refused {s : State} {k : Nat} {e : Exc} (h : (s.onCore Core.popPos).positionBundle = .error (k, e)) :
    exec .nullifiedPosition s = .next ((s.onCore Core.popPos).takeWhole k e) := by
  change execNullifiedPosition s = _
  simp only [execNullifiedPosition, h]

theorem nullifiedPosition_passes {s : State} {b : Bundle} (h : (s.onCore Core.popPos).positionBundle = .ok b) :
    exec .nullifiedPosition s =
      .next ((((s.onCore Core.popPos).onCore Core.enterTarget).sample 0).onCore fun c => (c.afterPos b.stall).afterStops) := by
  change execNullifiedPosition s = _
  simp only [execNullifiedPosition, h]

theorem positionBundle_outside {s : State} (h : s.core.cur.idx < s.core.seg.first ∨ s.core.seg.last < s.core.cur.idx) :
    s.positionBundle = .error (0, s.graphExc (if s.core.cur.target then .outOfSegment else .overrun)) := by
  have hbad : s.rangeBad = some (s.graphExc (if s.core.cur.target then .outOfSegment else .overrun)) := by
    simp [State.rangeBad, h]
  simp only [State.positionBundle, hbad]

section Inside

variable {s : State} (hf : s.core.seg.first ≤ s.core.cur.idx) (hl : s.core.cur.idx ≤ s.core.seg.last)
include hf hl

theorem rangeBad_inside : s.rangeBad = none := by
  simp [State.rangeBad, BitVec.not_lt.mpr hf, BitVec.not_lt.mpr hl]

theorem positionBundle_malformed {bad : BundleBad} (h : checkBundle s.core.fetch = .error bad) :
    s.positionBundle = .error (bundleExc s.core.fetch bad) := by
  simp only [State.positionBundle, rangeBad_inside hf hl, h]

theorem positionBundle_ok {b : Bundle} (h : checkBundle s.core.fetch = .ok b) (hb : s.core.lendBad b = false) :
    s.positionBundle = .ok b := by
  simp only [State.positionBundle, rangeBad_inside hf hl, h, hb]
  rfl

end Inside

/-- A position of either kind that is refused stops before any slot acts. -/
theorem position_stops {s : State} {i : Instr} (hi : i = .bundleIssue ∨ i = .nullifiedPosition) {k : Nat} {cause : Cause}
    {reason faddr finfo : Nat} (h : (s.onCore Core.popPos).positionBundle = .error (k, .fault cause reason faddr finfo)) :
    ∃ t, exec i s = .next t ∧
      t.core.mode = .stopping ∧ t.agenda = [] ∧ t.core.fq = s.core.popPos.cur :: s.core.popPos.fq ∧ SameRegs s.core t.core ∧
      SameStores s.core t.core ∧ SameOthers s t ∧ t.mod = s.mod ∧ t.core.pend = s.core.pend ∧
      t.core.stop = some ⟨some cause, reason, k, 0, 0, faddr, finfo, !cause.graph, false, .zero, false⟩ ∧ t.core.doneMask = 0 ∧
      t.core.loops = s.core.loops := by
  refine ⟨_, ?_, takeWhole_stops s k cause reason faddr finfo⟩
  rcases hi with rfl | rfl
  · exact bundleIssue_refused h
  · exact nullifiedPosition_refused h

/-! ## A position passes -/

/-- The state after a nullified position: its stall and the stream after it, with nothing else of the machine changed (R217). -/
theorem passed_frame (s : State) (stall : Nat) (hh : s.core.halt = false) :
    let t := (((s.onCore Core.popPos).onCore Core.enterTarget).sample 0).onCore fun c => (c.afterPos stall).afterStops
    t.core.stall = stall ∧ t.core.mode = s.core.mode ∧ SameRegs s.core t.core ∧
      SameStores s.core t.core ∧ SameOthers s t ∧ t.mod = s.mod ∧ t.core.eng = s.core.eng ∧ t.core.pend = s.core.pend ∧
      t.core.fq = (if s.core.popPos.fq = [] then [Pos.plain (s.core.popPos.cur.idx + 1)] else s.core.popPos.fq) := by
  let s0 := (s.onCore Core.popPos).onCore Core.enterTarget
  let c := (s0.sample 0).core
  obtain ⟨hpop, hpopMode, hpopHalt, -, -⟩ := popPos_keeps s.core
  obtain ⟨henter, henterFlow⟩ := enterTarget_keeps s.core.popPos
  obtain ⟨hstate, hsample, hsampleFlow⟩ := sample_keeps s0 0
  obtain ⟨hpos, hposFlow, hposStall⟩ := afterPos_keeps c stall
  have hflow : c.flow = s.core.popPos.flow := hsampleFlow.trans henterFlow
  simp only [Core.flow, Prod.mk.injEq] at hflow
  obtain ⟨hmode, hhalt, hcur, hfq⟩ := hflow
  rw [hmode, hhalt, hcur, hfq, hpopMode, hpopHalt, hh] at hposFlow
  simp only [Core.flow, Prod.mk.injEq] at hposFlow
  obtain ⟨hposMode, hposHalt, -, hposFq⟩ := hposFlow
  obtain ⟨hstops, hstopsFlow, hstopsStall⟩ := afterStops_keeps hposHalt
  simp only [Core.flow, Prod.mk.injEq] at hstopsFlow
  obtain ⟨hstopsMode, -, -, hstopsFq⟩ := hstopsFlow
  obtain ⟨hregs, hstores, hpend, heng⟩ := aside_same (hstops.trans (hpos.trans (hsample.trans (henter.trans hpop))))
  have hothers : SameOthers s (s0.sample 0) ∧ (s0.sample 0).mod = s.mod := by
    rw [hstate]
    exact ⟨⟨rfl, rfl, rfl, rfl, rfl, rfl⟩, rfl⟩
  exact ⟨hstopsStall.trans hposStall, hstopsMode.trans hposMode, hregs, hstores, hothers.1, hothers.2, heng, hpend, hstopsFq.trans hposFq⟩

theorem breakpointHit_stops (s : State) : exec .breakpointHit s = .next ((s.onCore Core.popPos).takeWhole 0 (.of .brk)) := rfl

/-- Settles O48: the nullified position's two ends, a breakpoint as the fault of a whole bundle, and the checks of a position in their order. -/
theorem positions : Obligations.Positions := by
  unfold Obligations.Positions
  refine ⟨fun s => ?completes, fun s => (breakpointHit_stops s).trans (congrArg Host.Outcome.next (takeWhole_fault s 0 .brk 0 0 0)),
    fun s => ?checks⟩
  case completes =>
    cases h : (s.onCore Core.popPos).positionBundle with
    | error e => exact ⟨_, nullifiedPosition_refused h⟩
    | ok b => exact ⟨_, nullifiedPosition_passes h⟩
  case checks =>
    refine ⟨fun i hi => ⟨fun hout => ?outside, fun hf hl => ⟨fun k r h => ?slot, fun k h => ?pair⟩⟩, fun b hf hl h hb hh => ?passes⟩
    case outside => exact position_stops hi (positionBundle_outside hout)
    case slot =>
      have hbad : (s.onCore Core.popPos).positionBundle = .error (bundleExc s.core.popPos.fetch (.slot k r)) :=
        positionBundle_malformed hf hl h
      rw [bundleExc] at hbad
      exact position_stops hi hbad
    case pair =>
      have hbad : (s.onCore Core.popPos).positionBundle = .error (bundleExc s.core.popPos.fetch (.pair k)) :=
        positionBundle_malformed hf hl h
      rw [bundleExc] at hbad
      exact position_stops hi hbad
    case passes =>
      have hok : (s.onCore Core.popPos).positionBundle = .ok b := positionBundle_ok hf hl h hb
      exact ⟨_, nullifiedPosition_passes hok, passed_frame s b.stall hh⟩

end Sys2Proof.Machine

namespace Sys2Proof.Machine
open Sys2Proof.Manual

/-! PROOF. Between positions: the end of a wait, the node walker, and the steps of three register writes. -/

/-! ## Waits (R38, R237) -/

theorem waitEnd_over {s : State} (h : s.waitOver = true) : exec .waitEnd s = .next (s.onCore Core.endWait) :=
  congrArg Host.Outcome.next (if_pos h)

theorem waitEnd_goes_on {s : State} (h : s.waitOver = false) : exec .waitEnd s = .next s :=
  congrArg Host.Outcome.next (if_neg (by simp [h]))

theorem regionOf_sp {off : Nat} (h : off < 0x400000) : regionOf (spBase + off) = .sp off := by
  unfold regionOf
  rw [if_neg (by unfold spBase peerBase; omega), if_neg (by unfold spBase peerBase; omega), if_pos (by unfold spSize; omega)]
  simp

theorem regionOf_csr {off : Nat} (h : off < 0x8000) : regionOf (csrBase + off) = .csr off := by
  unfold regionOf
  rw [if_neg (by unfold csrBase peerBase; omega), if_neg (by unfold csrBase peerBase; omega),
    if_neg (by unfold csrBase spBase spSize; omega), if_neg (by unfold csrBase accBase accSize; omega),
    if_neg (by unfold csrBase imemBase imemSize; omega), if_pos (by omega)]
  simp

theorem waitNow_sp {c : Core} {ne : Bool} {off : Nat} {v : W64} (h : off < 0x400000) :
    c.waitNow ne (spBase + off) v = waitHolds ne v (BitVec.ofNat 64 (rdLE c.sp off 8)) := by
  simp only [Core.waitNow, regionOf_sp h]

theorem waitNow_csr {c : Core} {ne : Bool} {off : Nat} {v x : W64} (h : off < 0x8000) (hx : c.csrRead (off / 8) = some x) :
    c.waitNow ne (csrBase + off) v = waitHolds ne v x := by
  simp only [Core.waitNow, regionOf_csr h, hx, Option.elim]

theorem waitNow_global {c : Core} {ne : Bool} {ea : Nat} {v : W64} (h : regionOf ea = .global) : c.waitNow ne ea v = false := by
  simp only [Core.waitNow, h]

section Waits

variable {s : State}

theorem waitOver_word {ne : Bool} {ea k : Nat} {v : W64} {hit : Option Nat} (hw : s.core.wait = some (.word ne ea v k hit)) :
    s.waitOver = (hit.any (· ≤ s.wall) || s.core.waitNow ne ea v) := by
  simp only [State.waitOver, hw]

theorem waitOver_released {r : Rect} {k : Nat} {n : W64} (hw : s.core.wait = some (.bar r k (some n))) :
    s.waitOver = decide ((s.ts - n).toNat < 2 ^ 63) := by
  simp only [State.waitOver, hw]

theorem waitOver_bar {r : Rect} {k : Nat} (hw : s.core.wait = some (.bar r k none)) : s.waitOver = false := by
  simp only [State.waitOver, hw]

/-- A wait at a word that is over keeps or gives up what its bundle has done (R423). -/
theorem waitEnd_word {ne : Bool} {ea k : Nat} {v : W64} {hit : Option Nat} (hw : s.core.wait = some (.word ne ea v k hit))
    (ho : s.waitOver = true) : exec .waitEnd s = .next (s.onCore fun c =>
      if c.doneMask.getLsbD k then { c with wait := none } else { c with wait := none, doneMask := 0, captured := [] }) := by
  rw [waitEnd_over ho]
  simp only [State.onCore, Core.endWait, hw]

theorem waitEnd_bar {r : Rect} {k : Nat} {n : W64} (hw : s.core.wait = some (.bar r k (some n))) (ho : (s.ts - n).toNat < 2 ^ 63) :
    exec .waitEnd s = .next (s.onCore fun c => { c with wait := none }) := by
  rw [waitEnd_over (by simpa [waitOver_released hw] using ho)]
  simp only [State.onCore, Core.endWait, hw]

end Waits

/-! ## The walker (R30 to R35) -/

/-- What stands after the walker stops the task at a node. -/
theorem walkFault_stops (s : State) (w : Walk) (cause : Cause) (hc : cause.graph = true) :
    let t := s.walkFault w (.fault cause 0 w.node 0)
    t.core.mode = .stopping ∧ t.core.fq = [] ∧ SameRegs s.core t.core ∧ SameStores s.core t.core ∧ SameOthers s t ∧
      ∃ st, t.core.stop = some st ∧ st.cause = some cause ∧ st.faddr = w.node ∧ st.resumable = false :=
  ⟨rfl, rfl, ⟨rfl, rfl, rfl, rfl, rfl, rfl, rfl, rfl, rfl, rfl, rfl, rfl, rfl, rfl⟩, ⟨rfl, rfl, rfl⟩, ⟨rfl, rfl, rfl, rfl, rfl, rfl⟩,
    _, rfl, rfl, rfl, by simp [hc]⟩

/-- The first position of a segment issues where no breakpoint is armed (R426). -/
theorem positionEvent_issues {c : Core} {p : Pos} (hq : c.fq = [p]) (hn : p.null = false)
    (hb : ∀ k < 4, (vget 0 c.bkpt k).getLsbD 63 = false) : c.positionEvent = .bundleIssue := by
  have harmed : ((List.range 4).any fun i => (vget 0 c.bkpt i).getLsbD 63 && (vget 0 c.bkpt i).extractLsb' 0 14 == p.idx) = false := by
    simp only [List.any_eq_false, List.mem_range]
    intro i hi
    rw [hb i hi, Bool.false_and]
    exact Bool.false_ne_true
  simp only [Core.positionEvent, hq, List.headD_cons, harmed, hn, Bool.false_and, Bool.false_eq_true, if_false]

section Walker

variable {s : State} {w : Walk} (hw : s.core.theWalk = some w)
include hw

theorem segmentWalk_bad (hb : (s.core.node w.node).bad w.node s.core.nodeCount = true) :
    exec .segmentWalk s = .next (s.walkFault w (.fault .nodeBad 0 w.node 0)) := by
  change execSegmentWalk s = _
  simp only [execSegmentWalk, hw, hb, if_true]

variable (hb : (s.core.node w.node).bad w.node s.core.nodeCount = false)
include hb

theorem segmentWalk_enters (hk : (s.core.node w.node).kind = 0) (ha : s.core.stopAsked = none) :
    exec .segmentWalk s = .next { s with
      core := s.core.enterSegment w.node (s.core.node w.node)
      agenda := (s.core.enterSegment w.node (s.core.node w.node)).positionEvent :: s.agenda } := by
  have hasked : (s.core.enterSegment w.node (s.core.node w.node)).stopAsked = none := ha
  change execSegmentWalk s = _
  simp only [execSegmentWalk, hw, hb, Bool.false_eq_true, if_false, if_pos hk, onCore_core, hasked]
  rfl

theorem segmentWalk_halts (hk : (s.core.node w.node).kind = 3) (he : s.core.eng.ember.flt.getLsbD 63 = false) :
    exec .segmentWalk s = .next (s.onCore fun c => { c with mode := .halted, walk := none, seg := { c.seg with ending := none } }) := by
  have h0 : (s.core.node w.node).kind ≠ 0 := by omega
  have hclear : s.core.embOverrun = false := he
  change execSegmentWalk s = _
  simp only [execSegmentWalk, hw, hb, Bool.false_eq_true, if_false, if_neg h0, if_pos hk, hclear]

variable (hk : (s.core.node w.node).kind = 1 ∨ (s.core.node w.node).kind = 2)
include hk

theorem segmentWalk_limit (hp : w.passed = 16) : exec .segmentWalk s = .next (s.walkFault w (.fault .walkLimit 0 w.node 0)) := by
  have h0 : (s.core.node w.node).kind ≠ 0 := by omega
  have h3 : (s.core.node w.node).kind ≠ 3 := by omega
  change execSegmentWalk s = _
  simp only [execSegmentWalk, hw, hb, Bool.false_eq_true, if_false, if_neg h0, if_neg h3, if_pos hp]

theorem segmentWalk_passes (hp : w.passed < 16) : exec .segmentWalk s = .next (s.passNode w (s.core.node w.node)) := by
  have h0 : (s.core.node w.node).kind ≠ 0 := by omega
  have h3 : (s.core.node w.node).kind ≠ 3 := by omega
  have h16 : w.passed ≠ 16 := by omega
  change execSegmentWalk s = _
  simp only [execSegmentWalk, hw, hb, Bool.false_eq_true, if_false, if_neg h0, if_neg h3, if_neg h16]

end Walker

section PassNode

variable {s : State} {w : Walk} {n : Node}

theorem passNode_cond (h : n.kind = 1) : s.passNode w n =
    s.onCore fun c => c.walkTo w (if c.cond.getLsbD 0 then n.succ1 else n.succ0) c.counts := if_pos h

theorem passNode_leaves (h : n.kind = 2) (hc : s.core.cond = 0) :
    s.passNode w n = s.onCore fun c => c.walkTo w n.succ1 (sset 0 c.counts w.node 0) :=
  (if_neg (by omega)).trans (if_pos hc)

variable (h : n.kind = 2) (hc : s.core.cond ≠ 0)
include h hc

theorem passNode_limit (hl : n.limit ≠ 0) (hn : n.limit ≤ sget 0 s.core.counts w.node) :
    s.passNode w n = s.walkFault w (.fault .limit 0 w.node 0) :=
  (if_neg (by omega)).trans ((if_neg hc).trans (if_pos ⟨hl, hn⟩))

theorem passNode_repeats (hl : n.limit = 0 ∨ sget 0 s.core.counts w.node < n.limit) : s.passNode w n =
    s.onCore fun c => c.walkTo w n.succ0 (sset 0 c.counts w.node (sget 0 s.core.counts w.node + 1)) :=
  (if_neg (by omega)).trans ((if_neg hc).trans (if_neg (by omega)))

end PassNode

/-! ## The steps of register writes (R83, R115, R154) -/

theorem ringTailWrite_legal {c : Core} {n : BitVec 3} {v : W64} (hv : (c.ring n.toNat).v = true) (hf : (c.ring n.toNat).feed = 0)
    (hp : (c.ring n.toNat).ptrBad v = false) : c.ringTailWrite n v =
      { c with eng := { c.eng with rings := vset c.eng.rings n.toNat { c.ring n.toNat with tail := v.extractLsb' 32 32 } } } := by
  simp [Core.ringTailWrite, hv, hf, hp]

/-- ECAUSE 0 clears bits 40 and 41 of RACESTAT and leaves the others (R115). -/
theorem ecauseRearm_zero {c : Core} {v : W64} (h : v.extractLsb' 40 2 = 0) :
    c.ecauseRearm v = { c with raceStat := c.raceStat &&& ~~~(BitVec.ofNat 64 (3 * 2 ^ 40)) } := if_pos h

theorem rearmed_bit (x : W64) {k : Nat} (hk : k < 64) :
    (x &&& ~~~(BitVec.ofNat 64 (3 * 2 ^ 40))).getLsbD k = (x.getLsbD k && k != 40 && k != 41) := by
  have hmask : (BitVec.ofNat 64 (3 * 2 ^ 40)).getLsbD k = (k == 40 || k == 41) := by
    interval_cases k <;> rfl
  rw [BitVec.getLsbD_and, BitVec.getLsbD_not, hmask, decide_eq_true hk, Bool.true_and, Bool.not_or, ← Bool.and_assoc]
  rfl

/-- Settles O49: a wait by what it is on, the walker by the kind of its node, and the three register writes. -/
theorem streamSteps : Obligations.StreamSteps := by
  unfold Obligations.StreamSteps
  refine ⟨fun s w hw => ?waits, fun s w hw => ?walker, fun s n v => ⟨fun hv hf hp => ?tail, fun h => ?rearm, fun h => ?clear, fun h => ?keep⟩⟩
  case waits =>
    refine ⟨fun ne ea v k n e hn => ?hit, fun ne off v k hit e ho hh => ?sp, fun ne off v k hit x e ho hx hh => ?csr,
      fun r k n e hn => ?released, fun hgoes => ?goesOn⟩
    case hit => exact waitEnd_word (hw.trans (congrArg some e)) (by simp [waitOver_word (hw.trans (congrArg some e)), hn])
    case sp =>
      refine waitEnd_word (hw.trans (congrArg some e)) ?_
      rw [waitOver_word (hw.trans (congrArg some e)), waitNow_sp ho, hh, Bool.or_true]
    case csr =>
      refine waitEnd_word (hw.trans (congrArg some e)) ?_
      rw [waitOver_word (hw.trans (congrArg some e)), waitNow_csr ho hx, hh, Bool.or_true]
    case released => exact waitEnd_bar (hw.trans (congrArg some e)) hn
    case goesOn =>
      apply waitEnd_goes_on
      rcases hgoes with ⟨r, k, rfl⟩ | ⟨r, k, n, rfl, hn⟩ | ⟨ne, ea, v, k, rfl, hg⟩
      · exact waitOver_bar hw
      · simpa [waitOver_released hw] using hn
      · simp [waitOver_word hw, waitNow_global hg]
  case walker =>
    intro n count goes stops
    have stopsAt : ∀ cause : Cause, cause.graph = true → exec .segmentWalk s = .next (s.walkFault w (.fault cause 0 w.node 0)) → stops cause :=
      fun cause hc he => ⟨_, he, walkFault_stops s w cause hc⟩
    refine ⟨fun hb => stopsAt _ rfl (segmentWalk_bad hw hb), fun hb => ⟨fun hk ha => ?plain, fun hk hp => ?cond, fun hk hp => ?while_,
      segmentWalk_halts hw hb, fun hk hp => stopsAt _ rfl (segmentWalk_limit hw hb hk hp)⟩⟩
    case plain =>
      refine ⟨_, segmentWalk_enters hw hb hk ha, rfl, rfl, rfl, rfl, rfl, rfl, rfl, ⟨rfl, rfl, rfl⟩, fun hbk => ?_⟩
      exact congrArg (· :: s.agenda) (positionEvent_issues rfl rfl hbk)
    case cond => exact (segmentWalk_passes hw hb (.inl hk) hp).trans (congrArg _ (passNode_cond hk))
    case while_ =>
      have hpass := segmentWalk_passes hw hb (.inr hk) hp
      exact ⟨fun hc => hpass.trans (congrArg _ (passNode_leaves hk hc)), fun hc hl => hpass.trans (congrArg _ (passNode_repeats hk hc hl)),
        fun hc hl hn => stopsAt _ rfl (hpass.trans (congrArg _ (passNode_limit hk hc hl hn)))⟩
  case tail => exact congrArg Host.Outcome.next (by rw [State.onCore, ringTailWrite_legal hv hf hp]; rfl)
  case rearm => exact ⟨_, fun k hk => rearmed_bit s.core.raceStat hk, congrArg Host.Outcome.next (by rw [State.onCore, ecauseRearm_zero h]; rfl)⟩
  case clear => exact congrArg Host.Outcome.next (if_pos h)
  case keep => exact congrArg Host.Outcome.next (if_neg (by rw [h]; decide))

end Sys2Proof.Machine

namespace Sys2Proof.Machine
open Sys2Proof.Manual

/-! PROOF. Holds, the stop of a core and its resumption. -/

/-! ## What records leave (R358 to R360) -/

/-- A deviation record counts itself and keeps everything aside from the trace session and the three DEV registers. -/
theorem deviation_keeps (c : Core) (src : Nat) (ts w1 : W64) (short lost : Nat) :
    (c.deviation src ts w1 short lost).aside = c.aside ∧
    (c.deviation src ts w1 short lost).devCnt = BitVec.ofNat 32 (satU 32 (c.devCnt.toNat + 1)) ∧
    (c.deviation src ts w1 short lost).devLost = BitVec.ofNat 64 (satU 64 (c.devLost.toNat + lost)) ∧
    vget 0 (c.deviation src ts w1 short lost).devLast 0 = ts ∧
    vget 0 (c.deviation src ts w1 short lost).devLast 2 = BitVec.ofNat 64 c.tcc := by
  unfold Core.deviation
  dsimp only
  obtain ⟨tr, h⟩ := traceRec_sets _ ts src 1 _
  rw [h]
  exact ⟨rfl, rfl, rfl, rfl, rfl⟩

theorem satU_toNat (w x : Nat) : (BitVec.ofNat w (satU w x)).toNat = min x (2 ^ w - 1) := by
  have hpos : 0 < 2 ^ w := Nat.two_pow_pos w
  unfold satU
  rw [BitVec.toNat_ofNat]
  split
  · rw [Nat.mod_eq_of_lt ‹_›]; omega
  · rw [Nat.mod_eq_of_lt (by omega)]; omega

/-- Each record raises DEVCNT by one while it can rise (R360). -/
theorem foldl_lateRecord_devCnt (src : Nat) (ts : W64) (ls : List Late) (c : Core) (h : c.devCnt.toNat + ls.length < 2 ^ 32) :
    (ls.foldl (fun (k : Core) l => k.lateRecord src ts l true 0) c).devCnt.toNat = c.devCnt.toNat + ls.length := by
  induction ls generalizing c with
  | nil => rfl
  | cons l ls ih =>
    simp only [List.length_cons] at h
    have hone : (c.lateRecord src ts l true 0).devCnt.toNat = c.devCnt.toNat + 1 := by
      rw [Core.lateRecord, (deviation_keeps _ _ _ _ _ _).2.1, satU_toNat]
      omega
    rw [List.foldl_cons, ih _ (by omega), hone, List.length_cons]
    omega

/-- A stop begins with the cause, the reason and the resumability that are asked for, whatever the core waits for. -/
theorem beginStop_record (c : Core) (st : Stop) : (c.beginStop st).mode = .stopping ∧ (c.beginStop st).devCnt = c.devCnt ∧
    ∃ x, (c.beginStop st).stop = some x ∧ x.cause = st.cause ∧ x.reason = st.reason ∧ x.resumable = st.resumable := by
  unfold Core.beginStop
  dsimp only
  split <;> exact ⟨rfl, rfl, _, rfl, rfl, rfl, rfl⟩

/-! ## A late item (R355 to R357) -/

section LateItem

variable {s : State} {l : Late} {ls : List Late} (h : lateOrder s.core.lateReplies = l :: ls)
include h

theorem lateItem_holds (hh : s.core.held = none) (hs : s.core.schedNow.getLsbD 0 = false) : exec .lateItem s = .next { s with
    core := { s.core with mode := .hold, hold := some ⟨s.ts, 1, l :: ls, s.core.mode⟩, cycleOpen := false }, agenda := [] } := by
  change execLateItem s = _
  simp only [execLateItem, State.lateLanding, h, hs, Core.newHold, hh, Bool.false_eq_true, if_false]

theorem lateItem_stops (hs : s.core.schedNow.getLsbD 0 = true) : exec .lateItem s = .next (s.timingStop (l :: ls)) := by
  change execLateItem s = _
  simp only [execLateItem, State.lateLanding, h, hs, if_true]

end LateItem

/-! ## A hold ends, or goes on (R356, R358) -/

theorem holdEnd_waits {s : State} {h : Hold} (hh : s.core.hold = some h) (hl : ∃ l ∈ h.items, l.arrived = none) :
    exec .holdEnd s = .next s := by
  obtain ⟨l, hl, ha⟩ := hl
  have hall : (h.items.all fun l => l.arrived.isSome) = false := by
    simp only [List.all_eq_false]
    exact ⟨l, hl, by simp [ha]⟩
  change execHoldEnd s = _
  simp only [execHoldEnd, hh, hall, Bool.false_eq_true, if_false]

theorem holdEnd_ends {s : State} {h : Hold} (hh : s.core.hold = some h) (hl : ∀ l ∈ h.items, l.arrived ≠ none) :
    exec .holdEnd s = .next (s.onCore fun c => { c with
      mode := h.back, hold := none, held := some (h.ts, h.cycles), trace := c.heldTrace h }) := by
  have hall : (h.items.all fun l => l.arrived.isSome) = true := by
    simpa only [List.all_eq_true, Option.isSome_iff_ne_none] using hl
  change execHoldEnd s = _
  simp only [execHoldEnd, hh, hall, if_true]

/-- The bank rows used in the last cycle are forgotten as a cycle begins. -/
def Core.freshRows (c : Core) : Core := { c with oppUsed := [] }

/-- The state as the core in focus begins a cycle. -/
def State.freshRows (s : State) : State := s.onCore Core.freshRows

section HeldCycle

variable {s : State} {h : Hold} {l : Late} (hmode : s.core.mode = .hold) (hhold : s.core.hold = some h) (hitems : h.items = [l])
  (harrived : l.arrived = none) (himposed : s.imposed = [])

include hmode hhold in
/-- A held cycle, with no race, no stop and nothing imposed. -/
theorem beginCycle_held (hasked : s.core.stopAsked = none) (hraced : ∀ g ∈ s.core.gacc, g.raced = none) :
    s.beginCycle = { s.freshRows.heldCycle h with agenda := (s.freshRows.heldCycle h).memoryEvents ++
      (s.freshRows.heldCycle h).core.receiveEvents ++
      (if (s.freshRows.heldCycle h).core.hold.any fun x => x.items.all fun l => l.arrived.isSome then [.holdEnd] else []) } := by
  have hnone : (s.core.gacc.any fun g => g.raced.isSome) = false := by
    simp only [List.any_eq_false]
    intro g hg
    simp [hraced g hg]
  simp only [State.beginCycle, onCore_core, hmode, hhold, hnone, hasked, Bool.false_eq_true, if_false, Option.filter_none]
  rfl

theorem ringTailWrite_freshRows (c : Core) (n : BitVec 3) (v : W64) :
    c.freshRows.ringTailWrite n v = (c.ringTailWrite n v).freshRows := by
  unfold Core.ringTailWrite
  have hring : c.freshRows.ring n.toNat = c.ring n.toNat := rfl
  simp only [hring]
  split <;> rfl

/-- The bank rows used in a cycle do not touch the rings. -/
theorem ringsLanded_freshRows (c : Core) : c.freshRows.ringsLanded = c.ringsLanded.freshRows := by
  refine List.foldl_hom Core.freshRows fun k p => ?_
  cases hp : p.act with
  | csr num v =>
    dsimp only
    split
    · exact ringTailWrite_freshRows k _ v
    · rfl
  | ringHead n tiles => simp only [Core.landOne, hp]; rfl
  | _ => rfl

theorem needMet_freshRows (s : State) (n : Need) : s.freshRows.needMet n = s.needMet n := by
  cases n with
  | ring p => simp only [State.needMet, State.freshRows, onCore_core, ringsLanded_freshRows]; rfl
  | _ => rfl

include hitems harrived himposed in
theorem holdCycle_one : s.freshRows.holdCycle h =
    if s.needMet l.need then { h with items := [{ l with arrived := some h.cycles }] } else { h with cycles := h.cycles + 1 } := by
  have himposed' : s.freshRows.imposed = [] := himposed
  simp only [State.holdCycle, himposed', List.filter_nil, List.append_nil, hitems, List.map_cons, List.map_nil, harrived,
    needMet_freshRows, Option.isNone_none, Bool.true_and]
  split
  · simp
  · simp [harrived]

end HeldCycle

/-- No step of the memory system or of the receiving units ends a hold. -/
theorem holdEnd_not_mem_events (s : State) : Instr.holdEnd ∉ s.memoryEvents ++ s.core.receiveEvents := by
  simp only [State.memoryEvents, State.accessEvents, State.pushEvents, State.statEvents, Core.receiveEvents, List.mem_append, List.mem_map,
    List.mem_flatMap, not_or, not_exists, not_and]
  refine ⟨⟨⟨⟨⟨fun g _ => ?_, fun p _ => nofun⟩, fun x _ => nofun⟩, fun w _ => nofun⟩, ?_⟩, fun ch _ => ?_, ?_⟩
  all_goals split <;> simp

/-- Whether every item of a hold has come decides whether the held cycle ends it. -/
theorem holdEnd_mem_iff {s : State} {h : Hold} (hh : s.core.hold = some h) :
    Instr.holdEnd ∈ s.memoryEvents ++ s.core.receiveEvents ++
      (if s.core.hold.any fun x => x.items.all fun l => l.arrived.isSome then [.holdEnd] else []) ↔
    (h.items.all fun l => l.arrived.isSome) = true := by
  rw [List.mem_append, or_iff_right (holdEnd_not_mem_events s), hh, Option.any_some]
  split <;> simp [*]

section OneItem

variable {s : State} {h : Hold} {l : Late} (hmode : s.core.mode = .hold) (hhold : s.core.hold = some h) (hitems : h.items = [l])
  (harrived : l.arrived = none) (himposed : s.imposed = []) (hasked : s.core.stopAsked = none)
  (hraced : ∀ g ∈ s.core.gacc, g.raced = none)
include hmode hhold hitems harrived himposed hasked hraced

/-- While its one item is missing the hold goes on, with no record (R356). -/
theorem held_goes_on (hn : s.needMet l.need = false) : s.beginCycle.core.hold = some { h with cycles := h.cycles + 1 } ∧
    s.beginCycle.core.devCnt = s.core.devCnt ∧ .holdEnd ∉ s.beginCycle.agenda := by
  have hcycle : s.freshRows.holdCycle h = { h with cycles := h.cycles + 1 } := by
    rw [holdCycle_one hitems harrived himposed, if_neg (by simp [hn])]
  have hheld : s.freshRows.heldCycle h = s.freshRows.onCore fun c => { c with hold := some { h with cycles := h.cycles + 1 } } := by
    simp [State.heldCycle, hcycle, hitems, harrived]
  rw [beginCycle_held hmode hhold hasked hraced, hheld]
  refine ⟨rfl, rfl, ?_⟩
  rw [holdEnd_mem_iff rfl]
  simp [hitems, harrived]

/-- When its one item has come the hold is to end, and the item writes its record (R356, R358, R359). -/
theorem held_ends (hn : s.needMet l.need = true) (hrefetch : ∀ k, l.need ≠ .refetch k) (halarm : l.need ≠ .alarm) :
    .holdEnd ∈ s.beginCycle.agenda ∧ s.beginCycle.core.hold = some { h with items := [{ l with arrived := some h.cycles }] } ∧
    s.beginCycle.core.devCnt.toNat = min (s.core.devCnt.toNat + 1) (2 ^ 32 - 1) ∧
    (s.core.devLost.toNat + h.cycles < 2 ^ 64 → s.beginCycle.core.devLost.toNat = s.core.devLost.toNat + h.cycles) ∧
    vget 0 s.beginCycle.core.devLast 0 = h.ts ∧ vget 0 s.beginCycle.core.devLast 2 = BitVec.ofNat 64 s.core.tcc := by
  let l' : Late := { l with arrived := some h.cycles }
  have hcycle : s.freshRows.holdCycle h = { h with items := [l'] } := by
    rw [holdCycle_one hitems harrived himposed, if_pos hn]
  have hrecord : ∀ c : Core, c.heldRecord s.focus h l' h.cycles = c.lateRecord s.focus h.ts l' false h.cycles := by
    intro c
    unfold Core.heldRecord
    split
    next k hk => exact absurd hk (hrefetch k)
    next hk => exact absurd hk halarm
    next => rfl
  have hheld : s.freshRows.heldCycle h = s.freshRows.onCore fun c =>
      { c.lateRecord s.focus h.ts l' false h.cycles with hold := some { h with items := [l'] } } := by
    simp only [State.heldCycle, hcycle]
    simp [l', State.onCore, ← hrecord, State.freshRows]
  rw [beginCycle_held hmode hhold hasked hraced, hheld]
  obtain ⟨-, hcnt, hlost, hstart, htcc⟩ := deviation_keeps s.freshRows.core s.focus h.ts
    (devWord1 l.code l.nslot s.freshRows.core.nextIdx.toNat l.org.unit l.org.slot l.org.bundle.toNat false) 0 h.cycles
  refine ⟨(holdEnd_mem_iff rfl).mpr rfl, rfl, (congrArg BitVec.toNat hcnt).trans (satU_toNat _ _), fun hlt => ?_, hstart, htcc⟩
  refine ((congrArg BitVec.toNat hlost).trans (satU_toNat _ _)).trans ?_
  exact Nat.min_eq_left (by change s.core.devLost.toNat + h.cycles ≤ _; omega)

end OneItem

/-! ## A relock (R20, R460) -/

theorem relock_begins {s : State} {n : BitVec 4} (hr : (s.island n.toNat).relock = none)
    (hc : (s.island n.toNat).cur ≠ max (s.island n.toNat).pstate (s.island n.toNat).step) :
    exec (.relock n) s = .next (s.onHub fun h => { h with isl := vset h.isl n.toNat { s.island n.toNat with
      cur := max (s.island n.toNat).pstate (s.island n.toNat).step, relock := some s.ts } }) := by
  refine if_neg ?_
  rw [hr]
  exact not_or.mpr ⟨by decide, hc⟩

theorem relock_ends {s : State} {n : BitVec 4} (hr : (s.island n.toNat).relock ≠ none)
    (hall : ∀ i < 768, islandOf i = n.toNat → relockHeld (s.coreAt i) = true)
    (hc : (s.island n.toNat).cur = max (s.island n.toNat).pstate (s.island n.toNat).step) :
    exec (.relockEnd n) s = .next (s.onHub fun h => { h with isl := vset h.isl n.toNat { s.island n.toNat with relock := none } }) := by
  have hreached : s.relockReached n.toNat = true := by
    simp only [State.relockReached, List.all_eq_true, List.mem_range]
    intro i hi
    by_cases h : islandOf i = n.toNat
    · simp [hall i hi h]
    · simp [h]
  have hsome : (s.island n.toNat).relock.isNone = false :=
    Bool.eq_false_iff.mpr (mt Option.isNone_iff_eq_none.mp hr)
  change execRelockEnd n s = _
  simp only [execRelockEnd, hsome, hreached, Isl.want, ← hc]
  rfl

/-! ## A bundle fetched again (R453) -/

theorem countError_keeps (s : State) (k loc launch : Nat) (corrected : Bool) :
    (s.countError k loc launch corrected).core = s.core ∧
    (s.countError k loc launch corrected).mod.hub.errcnt = vset s.mod.hub.errcnt k (countField (vget 0 s.mod.hub.errcnt k) !corrected) :=
  ⟨rfl, rfl⟩

theorem instructionRefetch_holds {s : State} {b : List Byte} (hm : s.core.mode = .run) (ho : s.core.cycleOpen = false)
    (hh : s.core.held = none) (hb : s.imageBundle s.core s.focus s.core.nextIdx.toNat = some b) :
    ∃ t n, exec .instructionRefetch s = .next t ∧ s.wall < n ∧ t.core.imem = wrBytes s.core.imem (16 * s.core.nextIdx.toNat) b ∧
      t.core.mode = .hold ∧ t.core.hold = some ⟨s.ts, 1, [⟨0, .zero, 0, .refetch n, none⟩], .run⟩ ∧ SameRegs s.core t.core ∧
      vget 0 t.mod.hub.errcnt 2 = countField (vget 0 s.mod.hub.errcnt 2) false := by
  let s1 := s.countError 2 s.focus (s.launchOn s.focus) true
  let n := s.wall + 1 + Config.outsideDelay s.nReq
  have hexec : exec .instructionRefetch s = .next { (((s1.takeReq.2).onCore fun c =>
      { c with imem := wrBytes c.imem (16 * s.core.nextIdx.toNat) b }).imposedHold [⟨0, .zero, 0, .refetch n, none⟩]) with agenda := s.agenda } := by
    change execInstructionRefetch s = _
    have hclosed : (if s.core.cycleOpen then s.core.endCycle else s.core) = s.core := if_neg (by rw [ho]; decide)
    simp only [execInstructionRefetch, hb, if_neg (not_not.mpr hm), State.onCore, takeReq_core, (countError_keeps _ _ _ _ _).1, hclosed]
    rfl
  refine ⟨_, n, hexec, by omega, rfl, rfl, ?_, ⟨rfl, rfl, rfl, rfl, rfl, rfl, rfl, rfl, rfl, rfl, rfl, rfl, rfl, rfl⟩, ?_⟩
  · simp only [State.imposedHold, Core.newHold, onCore_core, takeReq_core]
    rw [show s1.core = s.core from rfl, hh, hm]
    rfl
  · exact vget_vset_same 0 s.mod.hub.errcnt _ (by decide)

end Sys2Proof.Machine

namespace Sys2Proof.Machine
open Sys2Proof.Manual

/-! ## A core stops (R416) -/

@[simp] theorem raise_faultmap (h : HostRegs) (v : Nat) : (h.raise v).faultmap = h.faultmap := by
  unfold HostRegs.raise
  split <;> rfl

@[simp] theorem setFaultmap_core (s : State) (slot : Nat) : (s.setFaultmap slot).core = s.core := by
  unfold State.setFaultmap
  dsimp only
  split <;> rfl

/-- The bit of a launch slot stands in FAULTMAP once it has been set (R395, R407). -/
theorem setFaultmap_bit (s : State) {slot : Nat} (h : slot < 1024) :
    (vget 0 (s.setFaultmap slot).mod.host.faultmap (slot / 64)).getLsbD (slot % 64) = true := by
  unfold State.setFaultmap
  dsimp only
  split
  · assumption
  · have hmod : slot % 64 < 64 := Nat.mod_lt _ (by decide)
    rw [raiseMsix_mod]
    dsimp only
    rw [raise_faultmap, onMod_mod, vget_vset_same _ _ _ (by omega), BitVec.getLsbD_or, BitVec.getLsbD_ofNat, decide_eq_true hmod,
      Nat.testBit_two_pow_self]
    simp

/-- A drained core as its image is written into frame f. -/
def Core.savedIn (c : Core) (f : Nat) : Core :=
  { c with mode := .stopped, frame := f, heldLeaves := [], held := none, bindRead := none, skipBrk := false, stepOne := false }

theorem coreStop_saves {s : State} {st : Stop} (hm : s.core.mode = .stopping) (hs : s.core.stop = some st) (hd : s.drained = true) :
    let f := s.frameOf s.core.task.slot s.focus
    ∃ m tr, let t : State := { s with nReq := s.nReq + 1, core := { s.core.savedIn f with trace := tr }, mem := m }
      exec .coreStop s = .next (if st.cause.isNone then t else (t.debugState s.focus 1 f).setFaultmap s.core.task.slot) := by
  intro f
  have hgo : ¬ (s.core.mode ≠ .stopping ∨ (!s.drained) = true) := by simp [hm, hd]
  obtain ⟨tr, htr⟩ := traceRec_sets (s.core.savedIn f) s.ts s.focus 4
    [BitVec.ofNat 64 (faultWord0 st), (s.core.savedIn f).nextIdx.setWidth 64]
  refine ⟨wrLE ((s.core.savedIn f).writeImage st s.nReq s.mem) (frameEntry s.core.task.slot s.focus) 2 (f + 1), tr, ?_⟩
  change execCoreStop s = _
  simp only [execCoreStop, hs, if_neg hgo, ← htr]
  rfl

theorem coreStop_stops {s : State} {st : Stop} (hm : s.core.mode = .stopping) (hs : s.core.stop = some st) (hd : s.drained = true) :
    ∃ t, exec .coreStop s = .next t ∧ t.core.mode = .stopped ∧ t.core.stop = some st ∧ t.core.regs = s.core.regs ∧ SameStores s.core t.core ∧
      t.core.frame = s.frameOf s.core.task.slot s.focus ∧ t.core.pend = s.core.pend ∧ t.core.eng = s.core.eng ∧
      (st.cause ≠ none → s.core.task.slot < 1024 →
        (vget 0 t.mod.host.faultmap (s.core.task.slot / 64)).getLsbD (s.core.task.slot % 64) = true) := by
  obtain ⟨m, tr, hexec⟩ := coreStop_saves hm hs hd
  refine ⟨_, hexec, ?_⟩
  cases hc : st.cause with
  | none => exact ⟨rfl, hs, rfl, ⟨rfl, rfl, rfl⟩, rfl, rfl, rfl, fun h => absurd rfl h⟩
  | some cause =>
    simp only [Option.isNone_some, Bool.false_eq_true, if_false, setFaultmap_core]
    exact ⟨rfl, hs, rfl, ⟨rfl, rfl, rfl⟩, rfl, rfl, rfl, fun _ hslot => setFaultmap_bit _ hslot⟩

/-! ## A core resumes (R423) -/

@[simp] theorem renewFrame_core (s : State) (slot i : Nat) : (s.renewFrame slot i).core = s.core := by
  unfold State.renewFrame
  dsimp only
  split <;> rfl

@[simp] theorem launchBack_core (s : State) (slot : Nat) : (s.launchBack slot).core = s.core := by
  unfold State.launchBack
  split
  · split <;> rfl
  · rfl

theorem debugState_sets (s : State) (i st frame : Nat) : ∃ m, s.debugState i st frame = { s with mem := m } := ⟨_, rfl⟩

@[simp] theorem debugState_core (s : State) (i st frame : Nat) : (s.debugState i st frame).core = s.core := by
  obtain ⟨m, h⟩ := debugState_sets s i st frame
  rw [h]

/-- With no race among them the accesses stand as they were. -/
theorem presentAgain_core {s : State} (h : ∀ g ∈ s.core.gacc, g.raced = none) : s.presentAgain.core = s.core := by
  have hmap : (s.core.gacc.map fun g => if g.raced.isSome then
      { g with raced := none, arrive := s.wall + 1 + Config.outsideDelay s.nReq } else g) = s.core.gacc := by
    refine (List.map_congr_left fun g hg => ?_).trans (List.map_id _)
    simp [h g hg]
  unfold State.presentAgain
  dsimp only [takeReq_fst, onCore_core, takeReq_core]
  rw [hmap]

/-- A core restored from its image: it goes on as it stopped (R423). -/
def Core.resumed (c : Core) (st : Stop) : Core :=
  { c with mode := if st.halted then .halted else .run, stop := none, walks := c.walks.filter fun w => w.failed.isNone }

theorem contextResume_restores {s : State} {st : Stop} {c : Core} (hm : s.core.mode = .restoring) (hs : s.core.stop = some st)
    (hc : s.core.fromImage st s.mem = some c) (hg : ∀ g ∈ c.gacc, g.raced = none) :
    ∃ t tr, exec .contextResume s = .next t ∧ t.core = { c.resumed st with trace := tr } := by
  obtain ⟨tr, htr⟩ := traceRec_sets (c.resumed st) s.ts s.focus 5 [BitVec.ofNat 64 c.frame]
  let s0 : State := { s with core := (c.resumed st).traceRec s.ts s.focus 5 [BitVec.ofNat 64 c.frame] }
  let s1 := (s0.presentAgain.setFrameEntry s.core.task.slot s.focus 0).renewFrame s.core.task.slot s.focus
  have hraced : ∀ g ∈ s0.core.gacc, g.raced = none := by
    rw [show s0.core = { c.resumed st with trace := tr } from htr]
    exact hg
  have hcore : s1.core = { c.resumed st with trace := tr } := by
    rw [renewFrame_core, ← htr]
    exact presentAgain_core hraced
  refine ⟨(if st.cause.isNone then s1 else s1.debugState s.focus 0 c.frame).launchBack s.core.task.slot, tr, ?_, ?_⟩
  · change execContextResume s = _
    unfold execContextResume
    rw [hm, hs]
    dsimp only
    rw [hc]
    rfl
  · rw [launchBack_core, ← hcore]
    split
    · rfl
    · exact debugState_core s1 s.focus 0 c.frame

theorem imageBad_core (s : State) : s.imageBad.core.mode = .stopped ∧
    ∃ x, s.imageBad.core.stop = some x ∧ x.cause = some .imageBad ∧ x.resumable = false := by
  unfold State.imageBad
  dsimp only
  rw [setFaultmap_core]
  exact ⟨rfl, _, rfl, rfl, rfl⟩

theorem contextResume_refused {s : State} {st : Stop} (hm : s.core.mode = .restoring) (hs : s.core.stop = some st)
    (hc : s.core.fromImage st s.mem = none) : exec .contextResume s = .next (s.imageBad.launchBack s.core.task.slot) := by
  change execContextResume s = _
  simp only [execContextResume, hm, hs, hc]

/-- Settles O55: a late item by LATE, a hold by its items, and the hold of a relock and of a refetch; then the image written and read back. -/
theorem holdsAndStops : Obligations.HoldsAndStops := by
  unfold Obligations.HoldsAndStops
  refine ⟨fun s l ls h hh => ⟨lateItem_holds h hh, fun hs => ?timing⟩,
    fun s h hh => ⟨holdEnd_waits hh, fun hl => ?ends, fun l hm hi ha himp hasked hr =>
    ⟨held_goes_on hm hh hi ha himp hasked hr, held_ends hm hh hi ha himp hasked hr⟩⟩, fun s n => ⟨relock_begins, relock_ends⟩,
    fun s b => instructionRefetch_holds, fun s st => coreStop_stops, fun s st hm hs => ⟨fun c hc hg => ?restores, fun hc => ?refused⟩⟩
  case timing =>
    obtain ⟨hmode, hcnt, st, hst, hcause, hreason, hresumable⟩ := beginStop_record
      ((l :: ls).foldl (fun (k : Core) l => k.lateRecord s.focus s.ts l true 0) s.core)
      { cause := some .timing, reason := l.code, slot := 0, done := 0, stallRem := 0, faddr := 0, finfo := 0,
        resumable := true, after := false, org := .zero }
    refine ⟨_, lateItem_stops h hs, rfl, hmode, ⟨st, hst, hcause, hreason, hresumable⟩, fun hlt => ?_⟩
    exact (congrArg BitVec.toNat hcnt).trans (foldl_lateRecord_devCnt s.focus s.ts (l :: ls) s.core (by rw [List.length_cons]; omega))
  case ends =>
    exact ⟨_, holdEnd_ends hh hl, rfl, rfl, rfl, rfl, ⟨rfl, rfl, rfl, rfl, rfl, rfl, rfl, rfl, rfl, rfl, rfl, rfl, rfl, rfl⟩, ⟨rfl, rfl, rfl⟩⟩
  case restores =>
    obtain ⟨t, tr, hexec, hcore⟩ := contextResume_restores hm hs hc hg
    refine ⟨t, hexec, ?_⟩
    rw [hcore]
    exact ⟨rfl, rfl, rfl, ⟨rfl, rfl, rfl⟩, rfl, rfl, rfl⟩
  case refused =>
    refine ⟨_, contextResume_refused hm hs hc, ?_⟩
    rw [launchBack_core]
    exact imageBad_core s

end Sys2Proof.Machine

namespace Sys2Proof.Machine
open Sys2Proof.Manual

/-! PROOF. The memory system: the tag table, an access at its controller, races, the banks, fences, push stores, barriers and walks. -/

/-! ## The tag table (R113) -/

theorem markOf_toNat {core : Nat} (gen : Nat) (pub frd : Bool) (h : core < 768) :
    (markOf core gen pub frd).toNat = core * 256 + gen % 64 * 4 + b2n pub * 2 + b2n frd := by
  have hp : b2n pub ≤ 1 := by cases pub <;> decide
  have hf : b2n frd ≤ 1 := by cases frd <;> decide
  rw [markOf, BitVec.toNat_ofNat]
  omega

theorem tagPub_iff (t : BitVec 18) : tagPub t = true ↔ bits t.toNat 1 1 = 1 := by
  rw [tagPub, BitVec.getLsbD, Nat.testBit_eq_decide_div_mod_eq, decide_eq_true_eq]
  rfl

theorem tagFrd_iff (t : BitVec 18) : tagFrd t = true ↔ bits t.toNat 0 0 = 1 := by
  rw [tagFrd, BitVec.getLsbD, Nat.testBit_eq_decide_div_mod_eq, decide_eq_true_eq]
  rfl

/-- The check of a plain access is the table of R113. -/
theorem raceCheck_tagRow (t : BitVec 18) (core gen : Nat) (write : Bool) (h : core < 768) :
    (raceCheck t core gen write).map BitVec.toNat = tagRow t.toNat core gen write := by
  have hcore : tagCore t = bits t.toNat 17 8 := rfl
  have hgen : tagGen t = bits t.toNat 7 2 := rfl
  unfold raceCheck tagRow
  simp only [hcore, hgen, tagPub_iff, tagFrd_iff]
  split
  · cases write <;> simp [Except.map, markOf_toNat _ _ _ h, b2n]
  · split
    · split <;> cases write <;> simp [Except.map, markOf_toNat _ _ _ h, b2n]
    · split
      · cases write <;> simp [Except.map, markOf_toNat _ _ _ h, b2n]
      · split <;> cases write <;> simp [Except.map, markOf_toNat _ _ _ h, b2n]

/-! ## An access that may perform does (R101, R105, R232, R300) -/

theorem find_only {α : Type} {f : α → Nat} {l : List α} {x : α} (h : Only f l x) {p : α → Bool} (hp : p x = true) :
    l.find? (fun y => f y == f x && p y) = some x := by
  obtain ⟨hmem, honly⟩ := h
  cases hf : l.find? (fun y => f y == f x && p y) with
  | none => exact absurd (List.find?_eq_none.mp hf x hmem) (by simp [hp])
  | some y =>
    have hy := List.find?_some hf
    simp only [Bool.and_eq_true, beq_iff_eq] at hy
    rw [honly y (List.mem_of_find?_eq_some hf) hy.1]

section MayPerform

variable {s : State} {g : GAccess} (h : MayPerform s g)
include h

theorem not_shut {a : GAccess} (ha : a ∈ s.core.gacc) : a.shuts g = false := by
  rw [← Bool.not_eq_true]
  intro hs
  simp only [GAccess.shuts, GAccess.before, Bool.and_eq_true, Bool.or_eq_true, decide_eq_true_eq, beq_iff_eq, bne_iff_ne] at hs
  obtain ⟨hbefore, hsame | hkeys⟩ := hs
  · exact (h.order a ha hbefore).1.elim (fun hne => hne hsame.1) hsame.2
  · obtain ⟨⟨⟨hau, hgu⟩, haw⟩, hgw⟩ := hkeys
    exact Bool.false_ne_true (((h.order a ha hbefore).2 hau hgu haw).symm.trans hgw)

theorem not_acquired : s.core.acquires g = false := by
  rcases h.acquired with hw | he | hp
  · simp [Core.acquires, hw]
  · simp [Core.acquires, he]
  · simp [Core.acquires, Nat.not_le.mpr hp]

theorem not_streamed : s.core.streamWaits g = false := by
  rw [← Bool.not_eq_true]
  intro hs
  simp only [Core.streamWaits, Bool.and_eq_true, beq_iff_eq, List.any_eq_true, decide_eq_true_eq] at hs
  obtain ⟨⟨hgu, hgw⟩, a, ha, ⟨hau, haw⟩, hlt⟩ := hs
  exact Bool.false_ne_true (((h.order a ha (.inl hlt)).2 hau hgu haw).symm.trans hgw)

theorem isReady : s.ready g = true := by
  have hfences : (s.core.fences.any fun f => f.holds g) = false := by
    simp only [List.any_eq_false]
    intro f hf
    rw [h.fences f hf]
    exact Bool.false_ne_true
  have hshuts : (s.core.gacc.any fun a => a.shuts g) = false := by
    simp only [List.any_eq_false]
    intro a ha
    rw [not_shut h ha]
    exact Bool.false_ne_true
  simp [State.ready, Core.lets, hfences, hshuts, not_acquired h, not_streamed h, h.here, h.clean, h.known]

theorem tryAccess_performs : s.tryAccess g = s.performAccess g := by
  simp only [State.tryAccess, isReady h, h.awake, h.good, Bool.not_true, Bool.or_self, Bool.false_eq_true, if_false]

theorem globalAccess_performs : exec (.globalAccessPerform g.id) s = .next (s.performAccess g) := by
  have hfind : s.core.gacc.find? (fun x => x.id == g.id) = some g := by
    simpa using find_only h.one (p := fun _ => true) rfl
  change execGlobalAccessPerform g.id s = _
  simp only [execGlobalAccessPerform, hfind, tryAccess_performs h]

theorem replicatedStore_performs (hr : g.repl = true) (hw : g.act.writes = true) :
    exec (.replicatedStoreCommit g.id) s = .next (s.performAccess g) := by
  have hfind : s.core.gacc.find? (fun x => x.id == g.id && x.repl && x.act.writes) = some g := by
    simpa only [Bool.and_assoc] using find_only h.one (p := fun x => x.repl && x.act.writes) (by simp [hr, hw])
  change execReplicatedStoreCommit g.id s = _
  simp only [execReplicatedStoreCommit, hfind, tryAccess_performs h]

end MayPerform

/-! ## Bytes of global memory -/

theorem leBytes_length (v n : Nat) : (leBytes v n).length = n := by
  induction n generalizing v with
  | zero => rfl
  | succ n ih => rw [leBytes, List.length_cons, ih]

theorem wrBytes_leBytes (m : Mem) (a v n : Nat) : wrBytes m a (leBytes v n) = wrLE m a n v := by
  induction n generalizing m a v with
  | zero => rfl
  | succ n ih => rw [leBytes, wrBytes, wrLE, ih]

/-- The bytes written read back. -/
theorem rdByte_wrBytes_getD (m : Mem) (a : Nat) (l : List Byte) {k : Nat} (h : k < l.length) :
    rdByte (wrBytes m a l) (a + k) = l.getD k 0 := by
  rw [rdByte_wrBytes_in m a l k h, List.getD_eq_getElem _ _ h]

/-! ## What a write to global memory leaves -/

/-- No access is the read of a wait. -/
def NoWaitReads (l : List GAccess) : Prop := ∀ x ∈ l, x.act ≠ .read 8 .wait

theorem NoWaitReads.filter {l : List GAccess} (h : NoWaitReads l) (p : GAccess → Bool) : NoWaitReads (l.filter p) :=
  fun x hx => h x (List.mem_of_mem_filter hx)

/-- What the news of a write leaves: memory, tags, and the accesses and results of the core in focus. -/
def State.settledPart (s : State) : Mem × List (Nat × BitVec 18) × List GAccess × List Pend := (s.mem, s.tags, s.core.gacc, s.core.pend)

/-- A wait that is found satisfied gives up its read alone (R237). -/
theorem found_keeps {c : Core} (h : NoWaitReads c.gacc) (at_ : Nat) : (c.found at_).gacc = c.gacc ∧ (c.found at_).pend = c.pend := by
  unfold Core.found
  split
  · refine ⟨List.filter_eq_self.mpr fun g hg => ?_, rfl⟩
    simpa using h g hg
  · exact ⟨rfl, rfl⟩

theorem setCore_settledPart (s : State) (i : Nat) (c : Core) (hg : i = s.focus → c.gacc = s.core.gacc ∧ c.pend = s.core.pend) :
    (s.setCore i c).settledPart = s.settledPart := by
  unfold State.setCore
  split
  next hi =>
    obtain ⟨hgacc, hpend⟩ := hg hi
    simp only [State.settledPart, hgacc, hpend]
  next => rfl

theorem setCore_found_settledPart {s : State} (h : NoWaitReads s.core.gacc) (i at_ : Nat) :
    (s.setCore i ((s.coreAt i).found at_)).settledPart = s.settledPart := by
  refine setCore_settledPart s i _ fun hi => ?_
  rw [hi, coreAt_focus]
  exact found_keeps h at_

theorem foldl_notice_settledPart (f : State → Nat → State)
    (hf : ∀ st i, NoWaitReads st.core.gacc → (f st i).settledPart = st.settledPart) (hits : List Nat) (s : State)
    (h : NoWaitReads s.core.gacc) : (hits.foldl f s).settledPart = s.settledPart := by
  induction hits generalizing s with
  | nil => rfl
  | cons i hits ih =>
    have hone := hf s i h
    have hgacc : (f s i).core.gacc = s.core.gacc := congrArg (·.2.2.1) hone
    rw [List.foldl_cons, ih _ (hgacc.symm ▸ h), hone]

theorem notice_settledPart {s : State} (h : NoWaitReads s.core.gacc) (pa len : Nat) : (s.notice pa len).settledPart = s.settledPart := by
  unfold State.notice
  refine foldl_notice_settledPart _ (fun st i hst => ?_) _ s h
  exact setCore_found_settledPart (s := st.takeReq.2) hst i (s.wall + Config.outsideDelay st.nReq)

theorem memPut_settledPart {s : State} (h : NoWaitReads s.core.gacc) (pa : Nat) (data : List Byte) :
    (s.memPut pa data).settledPart = (wrBytes s.mem pa data, s.tags, s.core.gacc, s.core.pend) := by
  have hquiet : NoWaitReads ({ s with mem := wrBytes s.mem pa data }.unpoison pa data.length).core.gacc := h
  exact (notice_settledPart hquiet pa data.length).trans rfl

/-- The four replicas of a write in the order of their dies (R90). -/
def wrReplicas (m : Mem) (pa : Nat) (data : List Byte) : Mem :=
  (List.range 4).foldl (fun m d => wrBytes m (pa + groupSpan * d) data) m

theorem foldl_memPut_settledPart (pa : Nat) (data : List Byte) (ds : List Nat) {s : State} (h : NoWaitReads s.core.gacc) :
    (ds.foldl (fun st d => st.memPut (pa + groupSpan * d) data) s).settledPart =
      (ds.foldl (fun m d => wrBytes m (pa + groupSpan * d) data) s.mem, s.tags, s.core.gacc, s.core.pend) := by
  induction ds generalizing s with
  | nil => rfl
  | cons d ds ih =>
    have hone := memPut_settledPart h (pa + groupSpan * d) data
    simp only [State.settledPart, Prod.mk.injEq] at hone
    obtain ⟨hmem, htags, hgacc, hpend⟩ := hone
    rw [List.foldl_cons, List.foldl_cons, ih (hgacc.symm ▸ h), hmem, htags, hgacc, hpend]

theorem memWrite_settledPart {s : State} (h : NoWaitReads s.core.gacc) (pa : Nat) (repl : Bool) (data : List Byte) :
    (s.memWrite pa repl data).settledPart =
      (if repl then wrReplicas s.mem pa data else wrBytes s.mem pa data, s.tags, s.core.gacc, s.core.pend) := by
  unfold State.memWrite
  cases repl with
  | true =>
    rw [if_pos rfl, if_pos rfl]
    exact foldl_memPut_settledPart pa data (List.range 4) h
  | false =>
    rw [if_neg Bool.false_ne_true, if_neg Bool.false_ne_true]
    exact memPut_settledPart h pa data

/-- A later replica does not reach into an earlier one. -/
theorem rdByte_wrReplicas (m : Mem) {pa : Nat} {data : List Byte} (hend : pa + data.length ≤ groupSpan)
    {d k : Nat} (hd : d < 4) (hk : k < data.length) : rdByte (wrReplicas m pa data) (pa + groupSpan * d + k) = data.getD k 0 := by
  have hout : ∀ (m : Mem) (e : Nat), d < e → rdByte (wrBytes m (pa + groupSpan * e) data) (pa + groupSpan * d + k) =
      rdByte m (pa + groupSpan * d + k) := by
    intro m e he
    have : groupSpan * d + groupSpan ≤ groupSpan * e := by
      rw [← Nat.mul_succ]; exact Nat.mul_le_mul_left _ he
    exact rdByte_wrBytes_out _ _ _ (.inl (by omega))
  have hin := fun m => rdByte_wrBytes_getD m (pa + groupSpan * d) data hk
  have hds : wrReplicas m pa data = wrBytes (wrBytes (wrBytes (wrBytes m (pa + groupSpan * 0) data) (pa + groupSpan * 1) data)
      (pa + groupSpan * 2) data) (pa + groupSpan * 3) data := rfl
  rw [hds]
  obtain rfl | rfl | rfl | rfl : d = 0 ∨ d = 1 ∨ d = 2 ∨ d = 3 := by omega
  · rw [hout _ 3 (by omega), hout _ 2 (by omega), hout _ 1 (by omega), hin]
  · rw [hout _ 3 (by omega), hout _ 2 (by omega), hin]
  · rw [hout _ 3 (by omega), hin]
  · exact hin _

/-! ## The check of an access, and what it does (R111, R113, R234) -/

/-- Where the mark of a checked access is made, and what it leaves. -/
theorem logMark_keeps (s : State) (pa : Nat) (t : BitVec 18) :
    ((s.logMark pa t).tag pa = t ∨ (s.logMark pa t).tag pa = t ||| 2) ∧
    (s.logMark pa t).mem = s.mem ∧ (s.logMark pa t).core.gacc = s.core.gacc ∧ (s.logMark pa t).core.pend = s.core.pend := by
  have hset : ∀ x : BitVec 18, (s.setTag pa x).tag pa = x := fun x => sget_sset_same unmarked s.tags (granuleOf pa) x
  unfold State.logMark
  dsimp only
  split
  · exact ⟨.inl (hset t), rfl, rfl, rfl⟩
  · split
    · exact ⟨.inl (hset t), rfl, rfl, rfl⟩
    · split
      · exact ⟨.inl (hset t), rfl, rfl, rfl⟩
      · exact ⟨.inr (hset (t ||| 2)), rfl, rfl, rfl⟩

/-- An access whose check passes, or that is exempt from it, acts on the state in which its mark is made (R113). -/
theorem performAccess_acts {s : State} {g : GAccess} (hp : g.perform = true ∨ g.act.plain = true) {tag : BitVec 18}
    (htag : g.perform = false → raceCheck (s.tag g.tagPa) s.focus s.gen g.act.writes = .ok tag) :
    ∃ u : State, s.performAccess g = u.performAct g ∧ u.mem = s.mem ∧ u.core.gacc = s.core.gacc ∧ u.core.pend = s.core.pend ∧
      (g.perform = false → u.tag g.tagPa = tag ∨ u.tag g.tagPa = tag ||| 2) := by
  cases hperform : g.perform with
  | true => exact ⟨s, by simp [State.performAccess, hperform], rfl, rfl, rfl, nofun⟩
  | false =>
    have hplain : g.act.plain = true := hp.resolve_left (by simp [hperform])
    obtain ⟨hmark, hmem, hgacc, hpend⟩ := logMark_keeps s g.tagPa tag
    refine ⟨s.logMark g.tagPa tag, ?_, hmem, hgacc, hpend, fun _ => hmark⟩
    simp only [State.performAccess, hplain, hperform, htag hperform, Bool.not_true, Bool.or_self, Bool.false_eq_true, if_false]

theorem performAccess_races {s : State} {g : GAccess} {c : Cause} (hplain : g.act.plain = true) (hp : g.perform = false)
    (hr : raceCheck (s.tag g.tagPa) s.focus s.gen g.act.writes = .error c) (he : g.engine = false) :
    s.performAccess g = s.onCore fun k => { k with gacc := k.gacc.map fun a =>
      if a.id = g.id then { a with raced := some (c, tagCore (s.tag g.tagPa)) } else a } := by
  simp only [State.performAccess, hplain, hp, hr, he, Bool.not_true, Bool.or_self, Bool.false_eq_true, if_false]

theorem performAccess_atomic {s : State} {g : GAccess} {a : Amo} {rd : Reader} (h : g.act = .amo a rd) :
    s.performAccess g = s.performAct g := by
  simp [State.performAccess, h, GAct.plain]

theorem performAct_write {s : State} {g : GAccess} {data : List Byte} (h : g.act = .write data) :
    s.performAct g = (s.dropAccess g.id).memWrite g.pa g.repl data := by
  simp only [State.performAct, h]

theorem performAct_read {s : State} {g : GAccess} {len seq : Nat} {e : Ext} (h : g.act = .read len (.slot seq e)) :
    s.performAct g = (s.onCore fun c => c.deliver seq (extWord e len (rdLE s.mem g.pa len))).dropAccess g.id := by
  simp only [State.performAct, h]

theorem performAct_atomic {s : State} {g : GAccess} {a : Amo} {seq : Nat} {e : Ext} (h : g.act = .amo a (.slot seq e)) :
    s.performAct g = ((s.dropAccess g.id).memWrite g.pa g.repl (leBytes (amoNew a (rdLE s.mem g.pa a.width)) a.width)).onCore fun c =>
      c.deliver seq (extWord e a.width (rdLE s.mem g.pa a.width)) := by
  simp only [State.performAct, h]

/-- The clauses of O54 on one access. -/
theorem access_performs {s : State} {g : GAccess} (h : MayPerform s g) (hq : NoWaitReads s.core.gacc)
    (hp : g.perform = true ∨ g.act.plain = true) {tag : BitVec 18}
    (htag : g.perform = false → raceCheck (s.tag g.tagPa) s.focus s.gen g.act.writes = .ok tag) :
    (∀ len seq e, g.act = .read len (.slot seq e) → ∃ t, exec (.globalAccessPerform g.id) s = .next t ∧ t.mem = s.mem ∧
      t.core.pend = (s.core.deliver seq (extWord e len (rdLE s.mem g.pa len))).pend ∧ t.core.gacc = gone s g ∧
      (g.perform = false → t.tag g.tagPa = tag ∨ t.tag g.tagPa = tag ||| 2)) ∧
    (∀ data, g.act = .write data →
      (g.repl = false → ∃ t, exec (.globalAccessPerform g.id) s = .next t ∧ t.core.gacc = gone s g ∧ t.core.pend = s.core.pend ∧
        SameOutside s.mem t.mem g.pa data.length ∧ ∀ k < data.length, rdByte t.mem (g.pa + k) = data.getD k 0) ∧
      (g.repl = true → g.pa < 0x6000000000 → g.pa + data.length ≤ 0x6000000000 → ∃ t, exec (.replicatedStoreCommit g.id) s = .next t ∧
        t.core.gacc = gone s g ∧ ∀ d < 4, ∀ k < data.length, rdByte t.mem (g.pa + 0x6000000000 * d + k) = data.getD k 0)) := by
  obtain ⟨u, hacts, hmem, hgacc, hpend, hmark⟩ := performAccess_acts hp htag
  have hgone : (u.dropAccess g.id).core.gacc = gone s g := congrArg (List.filter _) hgacc
  refine ⟨fun len seq e ha => ?read, fun data ha => ?write⟩
  case read =>
    refine ⟨u.performAct g, hacts ▸ globalAccess_performs h, ?_⟩
    rw [performAct_read ha]
    refine ⟨hmem, ?_, hgone, hmark⟩
    rw [← hmem]
    simp only [State.dropAccess, onCore_core, Core.deliver, hpend]
  case write =>
    have hquiet : NoWaitReads (u.dropAccess g.id).core.gacc := hgone ▸ hq.filter _
    have hpart := memWrite_settledPart hquiet g.pa g.repl data
    rw [← performAct_write ha] at hpart
    simp only [State.settledPart, Prod.mk.injEq] at hpart
    obtain ⟨hmem', -, hgacc', hpend'⟩ := hpart
    have hbytes : (u.dropAccess g.id).mem = s.mem := hmem
    rw [hbytes] at hmem'
    refine ⟨fun hr => ⟨u.performAct g, hacts ▸ globalAccess_performs h, hgacc'.trans hgone, hpend'.trans hpend, ?_⟩, fun hr _ hend =>
      ⟨u.performAct g, hacts ▸ replicatedStore_performs h hr (by rw [ha]; rfl), hgacc'.trans hgone, fun d hd k hk => ?_⟩⟩
    · rw [hmem', if_neg (by simp [hr])]
      exact ⟨fun x hx => rdByte_wrBytes_out _ _ _ hx, fun k hk => rdByte_wrBytes_getD _ _ _ hk⟩
    · rw [hmem', if_pos hr]
      exact rdByte_wrReplicas s.mem hend hd hk

/-- An atomic performs its step on the word, leaves no mark, and returns the old value (R234). -/
theorem atomic_performs {s : State} {g : GAccess} (h : MayPerform s g) (hq : NoWaitReads s.core.gacc) {a : Amo} {seq : Nat}
    (ha : g.act = .amo a (.slot seq a.ext)) (hr : g.repl = false) :
    ∃ t, exec (.globalAccessPerform g.id) s = .next t ∧ t.tags = s.tags ∧
      t.core.gacc = gone s g ∧ rdLE t.mem g.pa a.width = amoNew a (rdLE s.mem g.pa a.width) % 256 ^ a.width ∧
      SameOutside s.mem t.mem g.pa a.width ∧
      t.core.pend = (s.core.deliver seq (extWord a.ext a.width (rdLE s.mem g.pa a.width))).pend := by
  refine ⟨_, globalAccess_performs h, ?_⟩
  rw [performAccess_atomic ha, performAct_atomic ha]
  have hpart := memWrite_settledPart (s := s.dropAccess g.id) (hq.filter _) g.pa g.repl
    (leBytes (amoNew a (rdLE s.mem g.pa a.width)) a.width)
  simp only [State.settledPart, Prod.mk.injEq, if_neg (show ¬ g.repl = true by simp [hr]), wrBytes_leBytes] at hpart
  obtain ⟨hmem, htags, hgacc, hpend⟩ := hpart
  refine ⟨htags, hgacc, ?_, fun x hx => ?_, ?_⟩
  · rw [onCore_mem, hmem]
    exact rdLE_wrLE _ _ _ _
  · rw [onCore_mem, hmem]
    exact rdByte_wrLE_out _ _ _ _ hx
  · simp only [onCore_core, Core.deliver, hpend]
    rfl

end Sys2Proof.Machine

namespace Sys2Proof.Machine
open Sys2Proof.Manual

/-! ## A race stops its core (R114) -/

theorem beginStop_idle {c : Core} (h : c.wait = none) (st : Stop) : c.beginStop st = { c with
    mode := .stopping, stopAsked := none, cycleOpen := false
    stop := some { st with done := c.doneMask, stallRem := c.stall, halted := decide (c.mode = .halted) } } := by
  simp only [Core.beginStop, Core.parked, h, Bool.false_eq_true, if_false]
  rfl

theorem raceException_stops {s : State} {g : GAccess} {c : Cause} {other : Nat} (hg : s.core.gacc = [g]) (hr : g.raced = some (c, other))
    (hw : s.core.wait = none) :
    ∃ t, exec .raceException s = .next t ∧ t.agenda = [] ∧ t.core.mode = .stopping ∧ t.core.gacc = [g] ∧ t.mem = s.mem ∧
      t.core.stop = some ⟨some c, 0, 0, s.core.doneMask, s.core.stall, g.va / 64 * 64, other, true, false, g.org,
        decide (s.core.mode = .halted)⟩ := by
  have hfind : (s.core.gacc.findSome? fun g => g.raced.map fun r => (g, r)) = some (g, c, other) := by
    rw [hg, List.findSome?_cons, hr]
    rfl
  refine ⟨{ (s.onCore fun k => k.beginStop ⟨some c, 0, 0, 0, 0, g.va / 64 * 64, other, true, false, g.org, false⟩) with agenda := [] },
    ?_, rfl, ?_⟩
  · change execRaceException s = _
    simp only [execRaceException, hfind]
  · rw [onCore_core, beginStop_idle hw]
    exact ⟨rfl, hg, rfl, rfl⟩

/-! ## The banks serve a request (R80) -/

/-- A request alone, whose bank nobody uses in the cycle, is served. -/
theorem oppServed_single {c : Core} {r : OppReq} (h : c.opp = [r])
    (hb : ∀ b ∈ c.banks, b.tcc = c.tcc → b.store = (if r.acc then 1 else 0) → b.bank ≠ (bankOf (if r.acc then 1 else 0) r.off).1)
    (hu : ∀ u ∈ c.oppUsed, u.1 = (if r.acc then 1 else 0) → u.2.1 ≠ (bankOf (if r.acc then 1 else 0) r.off).1) :
    c.oppServed = [r] := by
  have hused : (c.oppUsed.any fun u => u.1 == r.bank.1 && u.2.1 == r.bank.2.1) = false := by
    simp only [List.any_eq_false, Bool.and_eq_true, beq_iff_eq, not_and]
    exact fun u hm he => hu u hm he
  have hbanks : (c.banks.any fun b => b.tcc == c.tcc && b.store == r.bank.1 && b.bank == r.bank.2.1) = false := by
    simp only [List.any_eq_false, Bool.and_eq_true, beq_iff_eq, not_and]
    exact fun b hm he => hb b hm he.1 he.2
  have hfree : c.oppFree [] r = true := by
    simp [Core.oppFree, hused, hbanks, h]
  simp [Core.oppServed, h, sortBy, insertBy, hfree]

/-- What serving a request does with the writes of the cycle and with what reaches the engines. -/
theorem serveOpp_effects {c : Core} {r : OppReq} (h : c.opp = [r]) :
    (c.serveOpp r).opp = [] ∧
    (r.after = .none → (c.serveOpp r).engWrites = c.engWrites ++ [(r.acc, r.off, r.data)]) ∧
    (c.engWrites = [] →
      (∀ o, r.after = .raise o → (c.serveOpp r).engWrites = [(r.acc, r.off, leBytes (rdLE c.sp o 8 + 1) 8)]) ∧
      (∀ o, r.after = .complete o 0 → (c.serveOpp r).engWrites =
        [(r.acc, r.off, leBytes (let w := rdLE c.sp o 8; w / 2 ^ 48 * 2 ^ 48 + (w + 1) % 2 ^ 48) 8)]) ∧
      (∀ o a q, r.after = .atomic o a q →
        (c.serveOpp r).engWrites = [(r.acc, r.off, leBytes (amoNew a (rdLE c.sp o a.width)) a.width)] ∧
        (c.serveOpp r).eng.delivered = c.eng.delivered ++ [(15, q, 0, leBytes (extWord a.ext a.width (rdLE c.sp o a.width)).toNat 8)])) ∧
    (∀ u k i, r.after = .engine u k i → r.data = [] → (c.serveOpp r).eng.delivered = c.eng.delivered ++
      [(u, k, i, rdBytes (if r.acc then c.acc else c.sp) r.off r.len)]) := by
  have hgone : c.opp.erase r = [] := by simp [h]
  refine ⟨?opp, fun ha => ?none, fun hw => ⟨fun o ha => ?raise, fun o ha => ?complete, fun o a q ha => ?atomic⟩, fun u k i ha hd => ?engine⟩
  case opp =>
    unfold Core.serveOpp
    dsimp only
    split
    · exact hgone
    · exact hgone
    · exact hgone
    · exact hgone
    · split <;> exact hgone
  case none => simp only [Core.serveOpp, ha]
  case raise => simp only [Core.serveOpp, ha, Core.spSoon, hw, List.foldl_nil, List.nil_append]
  case complete => simp only [Core.serveOpp, ha, Core.spSoon, hw, List.foldl_nil, List.nil_append, completeWord, if_true]
  case atomic => simp only [Core.serveOpp, ha, Core.spSoon, hw, List.foldl_nil, List.nil_append, amoReply, and_self]
  case engine => simp only [Core.serveOpp, ha, hd, List.isEmpty_nil, if_true]

theorem opportunisticWrite_serves {s : State} {r : OppReq} (h : s.core.opp = [r])
    (hb : ∀ b ∈ s.core.banks, b.tcc = s.core.tcc → b.store = (if r.acc then 1 else 0) → b.bank ≠ (bankOf (if r.acc then 1 else 0) r.off).1)
    (hu : ∀ u ∈ s.core.oppUsed, u.1 = (if r.acc then 1 else 0) → u.2.1 ≠ (bankOf (if r.acc then 1 else 0) r.off).1) :
    exec .opportunisticWrite s = .next ((s.onCore fun c => c.serveOpp r).onMod fun m =>
      { m with pushes := m.pushes.filter fun p => !(p.got && p.tgt == s.focus) }) := by
  have hopp : (s.core.serveOpp r).opp = [] := (serveOpp_effects h).1
  change execOpportunisticWrite s = _
  simp only [execOpportunisticWrite, State.onCore, oppServed_single h hb hu, List.foldl_cons, List.foldl_nil, State.pushesServed, hopp,
    List.any_nil, Bool.not_false, Bool.and_true]

/-! ## A fence performs (R101) -/

theorem fenceMet_of_covered {s : State} {f : Fence} (hacc : ∀ g ∈ s.core.gacc, g.place < f.id → f.kind = .acquire ∧ g.act.reads = false)
    (hreads : s.readsCovered s.focus f.id = true)
    (hwrites : f.kind ≠ .acquire →
      (∀ p ∈ s.mod.pushes, p.src = s.focus → p.launch = s.core.task.launchId → p.gid < f.id → f.takes s.focus p.tgt = false) ∧
      s.core.peerOwed f.id (f.takes s.focus) = false ∧ (f.scope = 3 → s.remoteCovered s.focus f.id = true)) :
    s.fenceMet f = true := by
  cases hk : f.kind with
  | acquire =>
    simp only [State.fenceMet, hreads, hk, Bool.true_and, Bool.not_eq_true', List.any_eq_false, List.mem_filter, decide_eq_true_eq]
    rintro g ⟨hg, hlt⟩
    rw [(hacc g hg hlt).2]
    exact Bool.false_ne_true
  | _ =>
    have hne : f.kind ≠ .acquire := by simp [hk]
    obtain ⟨hpush, hpeer, hremote⟩ := hwrites hne
    have hopen : (s.core.gacc.filter fun g => decide (g.place < f.id)) = [] := by
      simp only [List.filter_eq_nil_iff, decide_eq_true_eq]
      exact fun g hg hlt => hne (hacc g hg hlt).1
    have hpushes : (s.mod.pushes.any fun p =>
        p.src == s.focus && p.launch == s.core.task.launchId && decide (p.gid < f.id) && f.takes s.focus p.tgt) = false := by
      simp only [List.any_eq_false, Bool.and_eq_true, beq_iff_eq, decide_eq_true_eq]
      rintro p hp ⟨⟨⟨hsrc, hlaunch⟩, hgid⟩, htakes⟩
      exact Bool.false_ne_true ((hpush p hp hsrc hlaunch hgid).symm.trans htakes)
    have hscope : (f.scope != 3 || s.remoteCovered s.focus f.id) = true := by
      by_cases h3 : f.scope = 3
      · simp [hremote h3]
      · rw [show (f.scope != 3) = true from bne_iff_ne.mpr h3, Bool.true_or]
    simp only [State.fenceMet, hreads, hk, hopen, hpeer, hpushes, hscope, List.isEmpty_nil, Bool.not_false, Bool.and_self]

theorem fencePerform_performs {s : State} {f : Fence} {rest : List Fence} (hf : s.core.fences = f :: rest) (hm : s.fenceMet f = true) :
    exec .fencePerform s = .next
      (let t := s.onCore fun c => { c with fences := rest }
       if f.kind ≠ .acquire ∧ f.scope ≠ 0 then
         { t with tags := publishTags s.tags s.focus s.core.writeLog, core := { t.core with writeLog := [] } } else t) := by
  have hfind : s.core.fences.find? s.fenceMet = some f := by rw [hf, List.find?_cons_of_pos hm]
  have herase : s.core.fences.erase f = rest := by rw [hf, List.erase_cons_head]
  change execFencePerform s = _
  simp only [execFencePerform, hfind, State.onCore, herase, State.publish, Bool.and_eq_true, bne_iff_ne]

/-! ## A walk of the hub ends (R414) -/

section Walk

variable {s : State} {w : PageWalk} (hw : s.core.walks = [w]) (ha : w.arrive ≤ s.wall) (hf : w.failed = none)
include hw ha hf

theorem translationWalk_caches {l : Leaf} (hl : s.walkPage s.core.task.asid w.va w.read w.write = .ok l) :
    ∃ t, exec .translationWalk s = .next t ∧ t.core.walks = [] ∧ t.core.tlb = (l :: s.core.tlb).take 512 ∧ SameRegs s.core t.core := by
  have hfind : s.core.walks.find? (fun w => decide (w.arrive ≤ s.wall) && w.failed.isNone) = some w := by
    simp [hw, ha, hf]
  have herase : s.core.walks.erase w = [] := by simp [hw]
  refine ⟨s.onCore fun c => { c with walks := [] }.cacheLeaf l, ?_, rfl, rfl, ⟨rfl, rfl, rfl, rfl, rfl, rfl, rfl, rfl, rfl, rfl, rfl, rfl, rfl, rfl⟩⟩
  change execTranslationWalk s = _
  simp only [execTranslationWalk, hfind, hl, State.onCore, herase]

theorem translationWalk_fails {c : Cause} {n : Nat} (hl : s.walkPage s.core.task.asid w.va w.read w.write = .error (c, n)) (hn : n < 16) :
    exec .translationWalk s = .next (s.onCore fun k => { k with walks := [{ w with failed := some (c, n) }] }) := by
  have hfind : s.core.walks.find? (fun w => decide (w.arrive ≤ s.wall) && w.failed.isNone) = some w := by
    simp [hw, ha, hf]
  have hmap : s.core.walks.map (fun x => if x = w then { x with failed := some (c, n) } else x) = [{ w with failed := some (c, n) }] := by
    simp [hw]
  change execTranslationWalk s = _
  simp only [execTranslationWalk, hfind, hl, if_neg (show ¬ spoiltMark ≤ n by unfold spoiltMark; omega), State.onCore, hmap]

end Walk

end Sys2Proof.Machine

namespace Sys2Proof.Machine
open Sys2Proof.Manual

/-! ## A push store arrives (R43, R78, R88) -/

theorem inboundWrites_onCore (rank grp : Nat) (parts : List (Nat × List Byte)) (s : State) :
    parts.foldl (fun st x => st.inboundWrite rank grp x.1 x.2) s =
      s.onCore fun c => { c with opp := c.opp ++ parts.flatMap (rowWrites rank grp) } := by
  induction parts generalizing s with
  | nil => simp [State.onCore]
  | cons x xs ih =>
    rw [List.foldl_cons, ih]
    simp only [State.inboundWrite, State.onCore, rowWrites, List.flatMap_cons, List.append_assoc]

theorem pushLive_onCore (s : State) (p : Push) : s.pushLive p = s.onCore fun c => { c with
    opp := c.opp ++ p.parts.flatMap (rowWrites 1 (2 * p.id)) ++
      (match p.flag with | some f => [⟨1, 2 * p.id, false, f, 8, [], .raise f⟩] | none => []) } := by
  unfold State.pushLive
  rw [inboundWrites_onCore]
  cases p.flag with
  | none => simp [State.onCore]
  | some f => simp [State.inboundRaise, State.onCore]

section Push

variable {s : State} {p : Push}

/-- A push store is refused: a piece meets an active index vector, or its flag follows a store refused before. -/
def State.pushRefused (s : State) (p : Push) : Bool :=
  (p.parts.any fun x => s.core.indexHit x.1 x.2.length) || (p.flag.isSome && s.mod.refused.contains (p.grp, p.tgt))

theorem pushRefused_iff : s.pushRefused p = true ↔
    (∃ x ∈ p.parts, s.core.indexHit x.1 x.2.length = true) ∨ (p.flag ≠ none ∧ (p.grp, p.tgt) ∈ s.mod.refused) := by
  simp only [State.pushRefused, Bool.or_eq_true, List.any_eq_true, Bool.and_eq_true, List.contains_iff_mem, Option.isSome_iff_ne_none]

/-- A push store that finds its task at place pl. -/
theorem pushStoreArrival_at {pl : Place} (ho : Only (·.id) s.mod.pushes p) (hr : s.pushReady p = true)
    (hp : s.placeOf s.focus (fun t => t.launchId == p.launch) = some (pl, s.core)) :
    exec (.pushStoreArrival p.id) s = .next
      (if s.pushRefused p then (s.onMod fun m => { m with pushes := m.pushes.erase p }).refusePush p
       else match ownPlace pl s.core with
        | .frame base => { (s.onMod fun m => { m with pushes := m.pushes.erase p }) with mem := p.onImage base s.mem }
        | _ => (s.onMod fun m => { m with pushes := m.pushes.map fun x => if x.id = p.id then { x with got := true } else x }).pushLive p) := by
  have hfind : s.mod.pushes.find? (fun x => x.id == p.id && s.pushReady x) = some p := find_only ho hr
  change execPushStoreArrival p.id s = _
  simp only [execPushStoreArrival, hfind, hp, State.pushRefused]
  rfl

/-- Where the task of a core that is not off stands (R43, R416). -/
def Core.taskPlace (c : Core) : Place :=
  match c.mode with
  | .stopped => .frame c.frameBase
  | .stopping => .busy
  | .restoring => .busy
  | _ => .live

theorem placeOf_focus (hl : s.core.task.launchId = p.launch) (hm : s.core.mode ≠ .off) :
    s.placeOf s.focus (fun t => t.launchId == p.launch) = some (s.core.taskPlace, s.core) := by
  simp only [State.placeOf, coreAt_focus, hl, beq_self_eq_true, hm, ne_eq, not_false_eq_true, and_self, if_true]
  rfl

theorem pushStoreArrival_live (ho : Only (·.id) s.mod.pushes p) (hr : s.pushReady p = true) (hl : s.core.task.launchId = p.launch)
    (hm : s.core.mode ∈ [.run, .hold, .halted, .stopping]) :
    exec (.pushStoreArrival p.id) s = .next
      (if s.pushRefused p then (s.onMod fun m => { m with pushes := m.pushes.erase p }).refusePush p
       else (s.onMod fun m => { m with pushes := m.pushes.map fun x => if x.id = p.id then { x with got := true } else x }).pushLive p) := by
  simp only [List.mem_cons, List.not_mem_nil, or_false] at hm
  have hoff : s.core.mode ≠ .off := by
    rcases hm with h | h | h | h <;> simp [h]
  rw [pushStoreArrival_at ho hr (placeOf_focus hl hoff)]
  rcases hm with h | h | h | h <;> simp only [Core.taskPlace, h, ownPlace, reduceCtorEq, if_false]

theorem pushStoreArrival_image (ho : Only (·.id) s.mod.pushes p) (hr : s.pushReady p = true) (hl : s.core.task.launchId = p.launch)
    (hm : s.core.mode ∈ [.stopped, .restoring]) :
    exec (.pushStoreArrival p.id) s = .next
      (if s.pushRefused p then (s.onMod fun m => { m with pushes := m.pushes.erase p }).refusePush p
       else { (s.onMod fun m => { m with pushes := m.pushes.erase p }) with mem := p.onImage s.core.frameBase s.mem }) := by
  simp only [List.mem_cons, List.not_mem_nil, or_false] at hm
  have hoff : s.core.mode ≠ .off := by
    rcases hm with h | h <;> simp [h]
  rw [pushStoreArrival_at ho hr (placeOf_focus hl hoff)]
  rcases hm with h | h <;> simp only [Core.taskPlace, h, ownPlace, if_true]

/-- A store of one piece writes it into the image, and then raises the flag as a store without pieces does. -/
theorem onImage_single (base : Nat) (m : Mem) {o : Nat} {d : List Byte} (h : p.parts = [(o, d)]) :
    p.onImage base m = { p with parts := [] }.onImage base (wrBytes m (base + 0x400000 + o) d) := by
  unfold Push.onImage
  rw [h]
  rfl

theorem pushStoreArrival_next : ∃ t, exec (.pushStoreArrival p.id) s = .next t := by
  change ∃ t, execPushStoreArrival p.id s = .next t
  unfold execPushStoreArrival
  split <;> exact ⟨_, rfl⟩

end Push

/-! ## A barrier completes (R38, R103, R112) -/

theorem coreAt_setCore_same (s : State) (i : Nat) (c : Core) : (s.setCore i c).coreAt i = c := by
  unfold State.setCore
  split
  · simp [State.coreAt, *]
  · simp [State.coreAt, *]

theorem coreAt_setCore_ne (s : State) {i j : Nat} (c : Core) (h : j ≠ i) : (s.setCore i c).coreAt j = s.coreAt j := by
  unfold State.setCore
  split
  · rename_i hi
    have hj : j ≠ s.focus := hi ▸ h
    simp [State.coreAt, hj]
  · simp [State.coreAt, sget_sset_ne, h]

theorem releaseBar_waiting {c : Core} {r : Rect} {k : Nat} (h : c.wait = some (.bar r k none)) (at_ : W64) :
    (c.releaseBar r at_).wait = some (.bar r k (some at_)) := by
  simp only [Core.releaseBar, h, if_true]

/-- The release of one member of a barrier (R38). -/
def State.releaseMember (r : Rect) (now : W64) (st : State) (i : Nat) : State :=
  st.takeReq.2.setCore i ((st.coreAt i).releaseBar r (now + BitVec.ofNat 64 (Config.outsideDelay st.takeReq.1 % 250)))

section Release

variable (r : Rect) (now : W64)

theorem releaseMember_mod (s : State) (i : Nat) : (s.releaseMember r now i).mod = s.mod := by
  simp [State.releaseMember, State.takeReq]

theorem releaseMember_ne (s : State) {i j : Nat} (h : j ≠ i) : (s.releaseMember r now i).coreAt j = s.coreAt j := by
  rw [State.releaseMember, coreAt_setCore_ne _ _ h]
  rfl

theorem releaseMember_same (s : State) {i k : Nat} (h : (s.coreAt i).wait = some (.bar r k none)) :
    ∃ n < 250, ((s.releaseMember r now i).coreAt i).wait = some (.bar r k (some (now + BitVec.ofNat 64 n))) := by
  refine ⟨Config.outsideDelay s.takeReq.1 % 250, Nat.mod_lt _ (by decide), ?_⟩
  rw [State.releaseMember, coreAt_setCore_same, releaseBar_waiting h]

theorem releaseMembers_mod (l : List Nat) (s : State) : (l.foldl (State.releaseMember r now) s).mod = s.mod := by
  induction l generalizing s with
  | nil => rfl
  | cons i l ih => rw [List.foldl_cons, ih, releaseMember_mod]

theorem releaseMembers_outside (l : List Nat) (s : State) {j : Nat} (h : j ∉ l) :
    (l.foldl (State.releaseMember r now) s).coreAt j = s.coreAt j := by
  induction l generalizing s with
  | nil => rfl
  | cons i l ih =>
    rw [List.mem_cons, not_or] at h
    rw [List.foldl_cons, ih _ h.2, releaseMember_ne _ _ _ h.1]

theorem releaseMembers_inside {l : List Nat} (hl : l.Nodup) (s : State) {i k : Nat} (hi : i ∈ l)
    (h : (s.coreAt i).wait = some (.bar r k none)) :
    ∃ n < 250, ((l.foldl (State.releaseMember r now) s).coreAt i).wait = some (.bar r k (some (now + BitVec.ofNat 64 n))) := by
  induction l generalizing s with
  | nil => cases hi
  | cons j l ih =>
    obtain ⟨hj, hl⟩ := List.nodup_cons.mp hl
    rw [List.foldl_cons]
    by_cases hij : i = j
    · subst hij
      rw [releaseMembers_outside r now l _ hj]
      exact releaseMember_same r now s h
    · exact ih hl _ ((List.mem_cons.mp hi).resolve_left hij) (by rw [releaseMember_ne _ _ _ hij]; exact h)

end Release

theorem rectCores_nodup (r : Rect) : r.cores.Nodup := List.nodup_range.filter _

/-- The one barrier of the launch whose members have all arrived. -/
theorem find_completeBarrier {s : State} {b : Barrier} (hb : b ∈ s.mod.barriers) (hslot : b.slot = s.core.task.slot)
    (honly : ∀ x ∈ s.mod.barriers, x.slot = b.slot → x ≠ b → ∃ i ∈ x.rect.cores, i ∉ x.arrived)
    (hall : ∀ i ∈ b.rect.cores, i ∈ b.arrived) :
    s.mod.barriers.find? (fun b => b.slot == s.core.task.slot && b.rect.cores.all fun i => b.arrived.contains i) = some b := by
  cases hf : s.mod.barriers.find? (fun b => b.slot == s.core.task.slot && b.rect.cores.all fun i => b.arrived.contains i) with
  | none => exact absurd (List.find?_eq_none.mp hf b hb) (by simpa [hslot] using hall)
  | some x =>
    have hx := List.find?_some hf
    simp only [Bool.and_eq_true, beq_iff_eq, List.all_eq_true, List.contains_iff_mem] at hx
    by_contra hne
    obtain ⟨i, hi, hout⟩ := honly x (List.mem_of_find?_eq_some hf) (hx.1.trans hslot.symm) fun h => hne (congrArg some h)
    exact hout (hx.2 i hi)

theorem barrierComplete_releases {s : State} {b : Barrier} (hb : b ∈ s.mod.barriers) (hslot : b.slot = s.core.task.slot)
    (honly : ∀ x ∈ s.mod.barriers, x.slot = b.slot → x ≠ b → ∃ i ∈ x.rect.cores, i ∉ x.arrived)
    (hall : ∀ i ∈ b.rect.cores, i ∈ b.arrived) :
    exec .barrierComplete s = .next (b.rect.cores.foldl (State.releaseMember b.rect s.ts) (s.onMod fun m => { m with
      barriers := m.barriers.erase b
      gens := if b.rect = s.core.task.rect then m.gens.map fun x => if x.1 = b.slot then (x.1, x.2 + 1) else x else m.gens })) := by
  change execBarrierComplete s = _
  simp only [execBarrierComplete, find_completeBarrier hb hslot honly hall, beq_iff_eq, hslot]
  rfl

/-! ## The memory system's steps -/

/-- Settles O54: one lemma a step, for an access, a race, a request for a bank, a fence, a push store, a barrier and a walk of the hub. -/
theorem memorySystem : Obligations.MemorySystem := by
  unfold Obligations.MemorySystem
  refine ⟨fun t core gen write h => raceCheck_tagRow t core gen write h, fun s g h hq => ⟨fun hp tag htag => ?access, ?atomic, ?race⟩,
    fun s g c other hg hr hw => raceException_stops hg hr hw, fun s r h hb hu => ?request, fun s f rest hf hacc hreads hwrites => ?fence,
    fun s p ho hr hl => ?push, fun s b hb hslot honly hall => ?barrier, fun s w hw ha hf => ⟨?walk, ?walkFails⟩⟩
  case access => exact access_performs h hq hp htag
  case atomic => exact fun a seq ha hr => atomic_performs h hq ha hr
  case race =>
    intro c hplain hp hrace he
    rw [globalAccess_performs h, performAccess_races hplain hp hrace he]
  case request =>
    obtain ⟨hopp, heffects⟩ := serveOpp_effects h
    exact ⟨_, opportunisticWrite_serves h hb hu, hopp, rfl, heffects⟩
  case fence => exact fencePerform_performs hf (fenceMet_of_covered hacc hreads hwrites)
  case push =>
    dsimp only
    obtain ⟨t, ht⟩ := pushStoreArrival_next (s := s) (p := p)
    refine ⟨t, ht, fun hm => ?live, fun hm => ?image⟩
    case live =>
      obtain rfl : _ = t := Host.Outcome.next.inj ((pushStoreArrival_live ho hr hl hm).symm.trans ht)
      refine ⟨?_, fun href => ?_, fun href => ?_⟩
      · split
        · rfl
        · rw [pushLive_onCore]; rfl
      · rw [if_pos (pushRefused_iff.mpr href)]
        exact ⟨rfl, rfl⟩
      · rw [if_neg (mt pushRefused_iff.mp href), pushLive_onCore]
        exact ⟨rfl, rfl⟩
    case image =>
      obtain rfl : _ = t := Host.Outcome.next.inj ((pushStoreArrival_image ho hr hl hm).symm.trans ht)
      refine ⟨?_, ?_, fun href => ?_, fun href o d hparts => ?_⟩
      · split <;> rfl
      · split <;> rfl
      · rw [if_pos (pushRefused_iff.mpr href)]
        rfl
      · rw [if_neg (mt pushRefused_iff.mp href)]
        exact onImage_single s.core.frameBase s.mem hparts
  case barrier =>
    refine ⟨_, barrierComplete_releases hb hslot honly hall, ?_, ?_, fun i hi k hk => ?_, fun i hi => ?_⟩
    · rw [releaseMembers_mod]; rfl
    · rw [releaseMembers_mod]; rfl
    · exact releaseMembers_inside _ _ (rectCores_nodup _) _ hi hk
    · exact releaseMembers_outside _ _ _ _ hi
  case walk => exact fun l hl => translationWalk_caches hw ha hf hl
  case walkFails => exact fun c n hl hn => translationWalk_fails hw ha hf hl hn

end Sys2Proof.Machine

namespace Sys2Proof.Machine
open Sys2Proof.Manual

/-! PROOF. FPS: the operations that use FMT, those that read bits, and the long ones. -/

/-! ## Triggers that use FMT (R58) -/

/-- A scalar trigger with FMT that fires takes its body's effect. -/
theorem scalarFmtTrigger_acts {unit : Nat} {m : Move} {s t : State} {body : W64 → Except Exc State}
    (h : Fires s .scalar true m) (hb : body (s.operand m) = .ok t) : scalarFmtTrigger unit m s body = .next t :=
  slotMove_acts h hb

/-! ## The three shapes of an FPS operation (R203) -/

theorem fpsOp_acts {lat : Nat} {m : Move} {s : State} {f : W32 → Nat → Nat → W64 → W64 × BitVec 7} {r : W64 × BitVec 7}
    (hl : 0 < lat) (h : Fires s .scalar true m) (hr : Room s 1)
    (hf : f s.core.fmt (lo32 (s.core.port 3 1)) (lo32 (s.core.port 3 2)) (s.operand m) = r) :
    fpsOp lat m s f = .next (s.sentScalar 3 lat r.1 r.2) :=
  hf ▸ scalarFmtTrigger_acts h (result_room hl hr)

theorem fpsBits_acts {m : Move} {s : State} {f : Nat → Nat} (h : Fires s .scalar false m) (hr : Room s 1) :
    fpsBits m s f = .next (s.sentScalar 3 4 (BitVec.ofNat 64 (f ((s.operand m).toNat % 2 ^ 32)))) :=
  scalarTrigger_acts h (result_room (by decide) hr)

/-- Outside its window a unit is free (R194). -/
theorem busyAt_free {c : Core} {last : Nat} (h : last = 0 ∨ last < c.tcc) : c.busyAt last = false := by
  rcases h with rfl | h
  · rfl
  · simp [Core.busyAt, Nat.not_le.mpr h]

theorem fpsLong_acts {m : Move} {s : State} {f : W32 → Nat → Nat → FRes} (h : Fires s .scalar true m) (hr : Room s 1)
    (hb : s.core.fpsBusy = 0 ∨ s.core.fpsBusy < s.core.tcc) :
    fpsLong m s f = .next
      (let r := fpsRes (f s.core.fmt (lo32 (s.core.port 3 1)) (lo32 (s.operand m)))
       (s.sentScalar 3 16 r.1 r.2).onCore fun c => { c with fpsBusy := c.tcc + 14 }) := by
  refine scalarFmtTrigger_acts h ((if_neg (by simp [busyAt_free hb])).trans ?_)
  dsimp only
  rw [result_room (by decide) hr]
  rfl

/-! ## Operations on bits (R204, R208) -/

/-- fneg turns the sign bit over. -/
theorem negate_bits {t : Nat} (ht : t < 2 ^ 32) : (if t < 2 ^ 31 then t + 2 ^ 31 else t - 2 ^ 31) = (t + 2 ^ 31) % 2 ^ 32 := by
  split <;> omega

/-- An FP32 encoding by its sign, its exponent field and its fraction (R48). -/
theorem decode_fp32 (x : Nat) : fp32.decode x =
    if x / 2 ^ 23 % 256 = 255 then (if x % 2 ^ 23 = 0 then .inf (x.testBit 31) else .nan)
    else if x / 2 ^ 23 % 256 = 0 then .fin (x.testBit 31) (x % 2 ^ 23) (-149)
    else .fin (x.testBit 31) (x % 2 ^ 23 + 2 ^ 23) (((x / 2 ^ 23 % 256 : Nat) : Int) - 127 - 23) := rfl

/-- The sign of an encoding of 32 bits. -/
theorem testBit_sign {x : Nat} (hx : x < 2 ^ 32) : x.testBit 31 = decide (2 ^ 31 ≤ x) := by
  rw [Nat.testBit_eq_decide_div_mod_eq]
  exact decide_eq_decide.mpr (by omega)

/-- The class of an encoding by its fields. -/
theorem fclassBit_fields {x : Nat} (hx : x < 2 ^ 32) : 2 ^ fclassBit x =
    if x / 2 ^ 23 % 256 = 255 ∧ x % 2 ^ 23 ≠ 0 then 256
    else if x / 2 ^ 23 % 256 = 255 then (if 2 ^ 31 ≤ x then 1 else 128)
    else if x / 2 ^ 23 % 256 ≠ 0 then (if 2 ^ 31 ≤ x then 2 else 64)
    else if x % 2 ^ 23 ≠ 0 then (if 2 ^ 31 ≤ x then 4 else 32)
    else if 2 ^ 31 ≤ x then 8 else 16 := by
  have hfrac : x % 2 ^ 23 < 2 ^ 23 := Nat.mod_lt _ (by decide)
  unfold fclassBit
  rw [decode_fp32, testBit_sign hx]
  generalize x / 2 ^ 23 % 256 = e
  generalize x % 2 ^ 23 = f at hfrac ⊢
  obtain rfl | rfl | ⟨htop, hsub⟩ : e = 255 ∨ e = 0 ∨ e ≠ 255 ∧ e ≠ 0 := by omega
  case inl => by_cases hzero : f = 0 <;> by_cases hsign : 2 ^ 31 ≤ x <;> simp_all
  case inr.inl => by_cases hzero : f = 0 <;> by_cases hsign : 2 ^ 31 ≤ x <;> simp_all
  case inr.inr => by_cases hsign : 2 ^ 31 ≤ x <;> simp_all

/-! ## The rows of the tables -/

theorem exec_fadd (m : Move) (s : State) : exec (.fadd m) s = execFadd m s := rfl
theorem exec_fsub (m : Move) (s : State) : exec (.fsub m) s = execFsub m s := rfl
theorem exec_fmul (m : Move) (s : State) : exec (.fmul m) s = execFmul m s := rfl
theorem exec_ffma (m : Move) (s : State) : exec (.ffma m) s = execFfma m s := rfl
theorem exec_fmin (m : Move) (s : State) : exec (.fmin m) s = execFmin m s := rfl
theorem exec_fmax (m : Move) (s : State) : exec (.fmax m) s = execFmax m s := rfl
theorem exec_fminnum (m : Move) (s : State) : exec (.fminnum m) s = execFminnum m s := rfl
theorem exec_fmaxnum (m : Move) (s : State) : exec (.fmaxnum m) s = execFmaxnum m s := rfl
theorem exec_fcmpeq (m : Move) (s : State) : exec (.fcmpeq m) s = execFcmpeq m s := rfl
theorem exec_fcmplt (m : Move) (s : State) : exec (.fcmplt m) s = execFcmplt m s := rfl
theorem exec_fcmple (m : Move) (s : State) : exec (.fcmple m) s = execFcmple m s := rfl
theorem exec_cvtif (m : Move) (s : State) : exec (.cvtif m) s = execCvtif m s := rfl
theorem exec_cvtfi (m : Move) (s : State) : exec (.cvtfi m) s = execCvtfi m s := rfl
theorem exec_cvtfb (m : Move) (s : State) : exec (.cvtfb m) s = execCvtfb m s := rfl
theorem exec_cvtbf (m : Move) (s : State) : exec (.cvtbf m) s = execCvtbf m s := rfl
theorem exec_fabs (m : Move) (s : State) : exec (.fabs m) s = execFabs m s := rfl
theorem exec_fneg (m : Move) (s : State) : exec (.fneg m) s = execFneg m s := rfl
theorem exec_fclass (m : Move) (s : State) : exec (.fclass m) s = execFclass m s := rfl
theorem exec_fdiv (m : Move) (s : State) : exec (.fdiv m) s = execFdiv m s := rfl
theorem exec_fsqrt (m : Move) (s : State) : exec (.fsqrt m) s = execFsqrt m s := rfl

theorem fpsForm_acts {i : Instr} {m : Move} {f : W32 → W64 → W64 → W64 → W64 × BitVec 7} {s : State} (hi : fpsForm i = some (m, f))
    (h : Fires s .scalar true m) (hr : Room s 1) :
    exec i s = .next
      (let r := f s.core.fmt (s.core.port 3 1) (s.core.port 3 2) (s.operand m)
       s.sentScalar 3 4 r.1 r.2) := by
  unfold fpsForm at hi
  split at hi <;> cases hi <;>
    simp only [exec_fadd, exec_fsub, exec_fmul, exec_ffma, exec_fmin, exec_fmax, exec_fminnum, exec_fmaxnum, exec_fcmpeq, exec_fcmplt,
      exec_fcmple, exec_cvtif, exec_cvtfi, exec_cvtfb, exec_cvtbf] <;>
    exact fpsOp_acts (by decide) h hr rfl

theorem fpsBitForm_acts {i : Instr} {m : Move} {f : Nat → Nat} {s : State} (hi : fpsBitForm i = some (m, f))
    (h : Fires s .scalar false m) (hr : Room s 1) :
    exec i s = .next (s.sentScalar 3 4 (BitVec.ofNat 64 (f ((s.operand m).toNat % 2 ^ 32)))) := by
  have hlt : (s.operand m).toNat % 2 ^ 32 < 2 ^ 32 := Nat.mod_lt _ (by decide)
  unfold fpsBitForm at hi
  split at hi <;> cases hi
  · exact (exec_fabs _ _).trans (fpsBits_acts h hr)
  · exact (exec_fneg _ _).trans ((fpsBits_acts h hr).trans (by rw [negate_bits hlt]))
  · exact (exec_fclass _ _).trans ((fpsBits_acts h hr).trans (by rw [fclassBit_fields hlt]))

theorem fpsLongForm_acts {i : Instr} {m : Move} {f : W32 → W64 → W64 → W64 × BitVec 7} {s : State} (hi : fpsLongForm i = some (m, f))
    (h : Fires s .scalar true m) (hr : Room s 1) (hb : s.core.fpsBusy = 0 ∨ s.core.fpsBusy < s.core.tcc) :
    exec i s = .next
      (let r := f s.core.fmt (s.core.port 3 1) (s.operand m)
       (s.sentScalar 3 16 r.1 r.2).onCore fun c => { c with fpsBusy := c.tcc + 14 }) := by
  unfold fpsLongForm at hi
  split at hi <;> cases hi
  · exact (exec_fdiv _ _).trans (fpsLong_acts h hr hb)
  · exact (exec_fsqrt _ _).trans (fpsLong_acts h hr hb)

/-- Settles O3: every operation is one of the three shapes, with its table row as its result. -/
theorem fpsResults : Obligations.FpsResults := by
  unfold Obligations.FpsResults
  exact ⟨fun _ _ _ _ => fpsForm_acts, fun _ _ _ _ => fpsBitForm_acts, fun _ _ _ _ => fpsLongForm_acts⟩

end Sys2Proof.Machine

namespace Sys2Proof.Machine
open Sys2Proof.Manual

/-! PROOF. The reductions of VEC: the tree of R71 gives what a sum, a minimum or a maximum over the lanes gives. -/

/-! ## The tree of R71 -/

section Tree

variable {α : Type} (f : α → α → α)

/-- The values that stand in a list of leaves, joined from the right. -/
def joined : List (Option α) → Option α := List.foldr (Option.merge f) none

/-- A node of the tree joins its two inputs. -/
theorem treeLevel_pair (a b : Option α) (l : List (Option α)) : treeLevel f (a :: b :: l) = a.merge f b :: treeLevel f l := by
  cases a <;> cases b <;> simp [treeLevel]

/-- A level halves the leaves. -/
theorem length_treeLevel (l : List (Option α)) : (treeLevel f l).length = (l.length + 1) / 2 := by
  induction l using treeLevel.induct with
  | case1 a b l ih =>
    rw [treeLevel_pair, List.length_cons, ih, List.length_cons, List.length_cons]
    omega
  | case2 l h =>
    match l, h with
    | [], _ | [_], _ => simp [treeLevel]
    | a :: b :: l, h => exact absurd rfl (h a b l)

variable [Std.Associative f]

/-- A level keeps what the leaves join to. -/
theorem joined_treeLevel (l : List (Option α)) : joined f (treeLevel f l) = joined f l := by
  induction l using treeLevel.induct with
  | case1 a b l ih =>
    rw [treeLevel_pair]
    simp only [joined, List.foldr_cons] at ih ⊢
    rw [ih, Std.Associative.assoc (op := Option.merge f)]
  | case2 l h =>
    match l, h with
    | [], _ | [_], _ => simp [treeLevel]
    | a :: b :: l, h => exact absurd rfl (h a b l)

/-- The six levels over 64 leaves join them all. -/
theorem treeReduce_joined {l : List (Option α)} (h : l.length = 64) : treeReduce f l = joined f l := by
  have hlast : (treeLevel f (treeLevel f (treeLevel f (treeLevel f (treeLevel f (treeLevel f l)))))).length = 1 := by
    simp only [length_treeLevel, h]
  obtain ⟨r, hr⟩ := List.length_eq_one_iff.mp hlast
  have hjoined : joined f [r] = joined f l := by rw [← hr]; simp only [joined_treeLevel]
  rw [treeReduce, hr, ← hjoined, joined, List.foldr_cons, List.foldr_nil, Option.merge_none_right]
  rfl

end Tree

/-! ## Integer reductions (R255) -/

/-- A measure that turns f into g turns the join of the leaves that stand into a fold of g over their measures. -/
theorem joined_measured {α : Type} {f : α → α → α} {φ : α → Int} {g : Int → Int → Int} {e : Int}
    (hom : ∀ a b, φ (f a b) = g (φ a) (φ b)) (hunit : ∀ a, g (φ a) e = φ a) (p : Nat → Bool) (v : Nat → α) (ls : List Nat) :
    (joined f (ls.map fun l => if p l then some (v l) else none)).elim e φ = ((ls.filter p).map fun l => φ (v l)).foldr g e := by
  induction ls with
  | nil => rfl
  | cons l ls ih =>
    rw [joined] at ih ⊢
    rw [List.map_cons, List.foldr_cons]
    cases hp : p l with
    | false => simpa [hp] using ih
    | true =>
      rw [List.filter_cons_of_pos hp, List.map_cons, List.foldr_cons, ← ih]
      cases List.foldr (Option.merge f) none (ls.map fun l => if p l then some (v l) else none) with
      | none => simp [hunit]
      | some x => simp [hom]

theorem length_maskedLanes (k : W64) (t : VReg) : (maskedLanes k t).length = 64 := by simp [maskedLanes]

/-- A vector trigger that fires takes its body's effect. -/
theorem vectorTrigger_acts {unit : Nat} {m : Move} {s t : State} {body : VReg → Except Exc State}
    (h : Fires s .vector false m) (hb : body (s.voperand m) = .ok t) : vectorTrigger unit m s body = .next t :=
  slotMove_acts h hb

theorem vecRed_acts {f : W32 → W32 → W32} {g : Int → Int → Int} {e : Int} {absent : W64} {m : Move} {s : State}
    (hom : ∀ a b, (f a b).toInt = g a.toInt b.toInt) (hunit : ∀ a : W32, g a.toInt e = a.toInt) (hassoc : Std.Associative g)
    (habsent : absent = BitVec.ofInt 64 e) (h : Fires s .vector false m) (hr : Room s 1) :
    vecRed m s f absent =
      .next (s.sentQueue 6 6 (BitVec.ofInt 64 ((lanesIn (s.core.port 6 3) (s.voperand m)).foldr g e))) := by
  have hf : Std.Associative f := ⟨fun a b c => BitVec.eq_of_toInt_eq (by simp only [hom, hassoc.assoc])⟩
  refine vectorTrigger_acts h ((queueResult_room (by decide) hr).trans ?_)
  rw [treeReduce_joined f (length_maskedLanes _ _), lanesIn, ← joined_measured hom hunit, habsent, ← maskedLanes, vecK]
  cases joined f (maskedLanes (s.core.port 6 3) (s.voperand m)) <;> rfl

/-- The wrapped sum of signed numbers is the wrap of their sum. -/
theorem foldr_bmod_sum (xs : List Int) (n : Nat) : xs.foldr (fun a b => (a + b).bmod n) 0 = xs.sum.bmod n := by
  induction xs with
  | nil => simp
  | cons x xs ih => rw [List.foldr_cons, ih, List.sum_cons, Int.add_bmod_bmod]

theorem toInt_pickMin (a b : W32) : (if BitVec.slt b a then b else a).toInt = min a.toInt b.toInt := by
  simp only [BitVec.slt, decide_eq_true_eq]
  split <;> omega

theorem toInt_pickMax (a b : W32) : (if BitVec.slt a b then b else a).toInt = max a.toInt b.toInt := by
  simp only [BitVec.slt, decide_eq_true_eq]
  split <;> omega

section Integer

variable {m : Move} {s : State} (h : Fires s .vector false m) (hr : Room s 1)
include h hr

theorem vredadd_acts : execVredadd m s =
    .next (s.sentQueue 6 6 (BitVec.ofInt 64 ((lanesIn (s.core.port 6 3) (s.voperand m)).sum.bmod (2 ^ 32)))) := by
  rw [← foldr_bmod_sum]
  exact vecRed_acts BitVec.toInt_add (fun a => by rw [Int.add_zero]; exact a.toInt_bmod_cancel) ⟨fun a b c => by simp [Int.add_assoc]⟩ (by decide) h hr

theorem vredmin_acts : execVredmin m s =
    .next (s.sentQueue 6 6 (BitVec.ofInt 64 ((lanesIn (s.core.port 6 3) (s.voperand m)).foldl min (2 ^ 31 - 1)))) := by
  rw [List.foldl_eq_foldr]
  exact vecRed_acts toInt_pickMin (fun a => min_eq_left (by have := a.toInt_lt; omega)) inferInstance (by decide) h hr

theorem vredmax_acts : execVredmax m s =
    .next (s.sentQueue 6 6 (BitVec.ofInt 64 ((lanesIn (s.core.port 6 3) (s.voperand m)).foldl max (-2 ^ 31)))) := by
  rw [List.foldl_eq_foldr]
  exact vecRed_acts toInt_pickMax (fun a => max_eq_left (by have := a.le_toInt; omega)) inferInstance (by decide) h hr

end Integer

/-! ## Floating reductions (R71, R255) -/

/-- A vector trigger with FMT that fires takes its body's effect. -/
theorem vectorFmtTrigger_acts {unit : Nat} {m : Move} {s t : State} {body : VReg → Except Exc State}
    (h : Fires s .vector true m) (hb : body (s.voperand m) = .ok t) : vectorFmtTrigger unit m s body = .next t :=
  slotMove_acts h hb

/-- The leaves of a floating reduction: an encoding with no flag from each lane that takes part. -/
theorem floatLeaves (k : W64) (t : VReg) : ((maskedLanes k t).map fun o => o.map fun x => ((x.toNat, 0) : FRes)) =
    (List.range 64).map fun l => if k.getLsbD l then some ((lane t l).toNat, 0) else none := by
  rw [maskedLanes, List.map_map]
  refine List.map_congr_left fun l _ => ?_
  rw [Function.comp_apply]
  split <;> rfl

theorem vecFred_acts {f : W32 → Nat → Nat → FRes} {absent : Nat} {m : Move} {s : State} (h : Fires s .vector true m) (hr : Room s 1) :
    vecFred m s f absent =
      (let leaves : List (Option FRes) :=
        (List.range 64).map fun l => if (s.core.port 6 3).getLsbD l then some ((lane (s.voperand m) l).toNat, 0) else none
       let r := (treeReduce (fun (x y : FRes) => let r := f s.core.fmt x.1 y.1; (r.1, x.2 ||| y.2 ||| r.2)) leaves).getD (absent, 0)
       .next (s.sentQueue 6 6 (BitVec.ofNat 64 r.1) r.2)) := by
  refine vectorFmtTrigger_acts h ?_
  rw [floatLeaves]
  exact queueResult_room (by decide) hr

/-! ## The rows of the table -/

theorem exec_vredadd (m : Move) (s : State) : exec (.vredadd m) s = execVredadd m s := rfl
theorem exec_vredmin (m : Move) (s : State) : exec (.vredmin m) s = execVredmin m s := rfl
theorem exec_vredmax (m : Move) (s : State) : exec (.vredmax m) s = execVredmax m s := rfl
theorem exec_vfredadd (m : Move) (s : State) : exec (.vfredadd m) s = execVfredadd m s := rfl
theorem exec_vfredmax (m : Move) (s : State) : exec (.vfredmax m) s = execVfredmax m s := rfl

theorem reduceForm_acts {i : Instr} {m : Move} {f : List Int → Int} {s : State} (hi : reduceForm i = some (m, f))
    (h : Fires s .vector false m) (hr : Room s 1) :
    exec i s = .next (s.sentQueue 6 6 (BitVec.ofInt 64 (f (lanesIn (s.core.port 6 3) (s.voperand m))))) := by
  unfold reduceForm at hi
  split at hi <;> cases hi
  · exact (exec_vredadd _ _).trans (vredadd_acts h hr)
  · exact (exec_vredmin _ _).trans (vredmin_acts h hr)
  · exact (exec_vredmax _ _).trans (vredmax_acts h hr)

/-- Settles O10: the integer reductions by what the tree joins, the floating ones node by node. -/
theorem reductions : Obligations.Reductions := by
  unfold Obligations.Reductions
  refine ⟨fun i m f s => reduceForm_acts, fun m s h hr => ⟨?add, ?max⟩⟩
  case add => exact (exec_vfredadd m s).trans (vecFred_acts h hr)
  case max => exact (exec_vfredmax m s).trans (vecFred_acts h hr)

end Sys2Proof.Machine

namespace Sys2Proof.Machine
open Sys2Proof.Manual

/-! PROOF. What the operations of CTL refuse. -/

/-- A value of FMT that R47 or R56 refuses. -/
theorem fmtBad_refused {t : W64} (h : 2 ^ 18 ≤ t.toNat ∨ 10 < t.toNat % 16 ∨ 10 < t.toNat / 16 % 16 ∨ 10 < t.toNat / 256 % 16 ∨
    t.toNat / 65536 = 3) : fmtBad t = true := by
  simp [fmtBad, fmtAT, fmtBT, fmtACC, fmtSAT, Nat.shiftRight_eq_div_pow]
  omega

/-- The kinds of a fence that R327 leaves out. -/
theorem fenceKind_none {t : W64} (h : t.toNat / 4 % 4 = 0) : fenceKind t = none := by
  have hfld : fld t.toNat 3 2 = 0 := h
  rw [fenceKind, hfld]
  rfl

/-- A register that R325 lists as read-only. -/
theorem csrReadOnly_listed {n : Nat}
    (h : n ∈ [0x000, 0x001, 0x002, 0x004, 0x013, 0x014, 0x020, 0x021, 0x031, 0x060, 0x061, 0x062, 0x063, 0x070, 0x071, 0x074, 0x075,
      0x078] ∨ (0x040 ≤ n ∧ n ≤ 0x047) ∨ (0x084 ≤ n ∧ n ≤ 0x087)) : csrReadOnly n = true := by
  simpa only [csrReadOnly, Bool.or_eq_true, Bool.and_eq_true, decide_eq_true_eq, List.contains_iff_mem, or_assoc] using h

theorem csrwBad_undefined {c : Core} {n : Nat} {v : W64} (h : c.csrRead n = none) : c.csrwBad n v = some .csrBad := by
  simp [Core.csrwBad, h]

theorem csrwBad_readOnly {c : Core} {n : Nat} {v w : W64} (hd : c.csrRead n = some w) (h : csrReadOnly n = true) :
    c.csrwBad n v = some .csrRo := by
  simp [Core.csrwBad, hd, h]

section Refusals

variable {m : Move} {s : State} (hl : m.src.bad .scalar = none) (hg : s.core.guardPass m.guard = true)
include hl hg

theorem fmt_stops (h : fmtBad (s.operand m) = true) : ∃ u, execFmt m s = .next u ∧ StopsWith s u .fmtBad 0 0 0 :=
  scalarTrigger_stops hl hg (if_pos h)

theorem csrr_stops (h : 4096 ≤ (s.operand m).toNat ∨ s.core.csrRead (s.operand m).toNat = none) :
    ∃ u, execCsrr m s = .next u ∧ StopsWith s u .csrBad 0 0 0 := by
  refine ⟨_, slotMove_takes hl hg ?_, take_fault_stops s .csrBad 0 0 0 14⟩
  rw [← State.operand]
  dsimp only
  split
  · rfl
  · rw [h.resolve_left (by omega)]

theorem csrw_stops_undefined (h : 4096 ≤ (s.core.port 14 1).toNat ∨ s.core.csrRead (s.core.port 14 1).toNat = none) :
    ∃ u, execCsrw m s = .next u ∧ StopsWith s u .csrBad 0 0 0 := by
  refine scalarTrigger_stops hl hg ?_
  by_cases hn : (ctlA s).toNat / 4096 ≠ 0
  · exact if_pos hn
  · refine (if_neg hn).trans ?_
    rw [ctlA] at hn ⊢
    rw [csrwBad_undefined (h.resolve_left (by omega))]

theorem csrw_stops_readOnly {v : W64} (hn : (s.core.port 14 1).toNat < 4096) (hd : s.core.csrRead (s.core.port 14 1).toNat = some v)
    (h : csrReadOnly (s.core.port 14 1).toNat = true) : ∃ u, execCsrw m s = .next u ∧ StopsWith s u .csrRo 0 0 0 := by
  refine scalarTrigger_stops hl hg ((if_neg (show ¬ (ctlA s).toNat / 4096 ≠ 0 by rw [ctlA]; omega)).trans ?_)
  rw [ctlA, csrwBad_readOnly hd h]

theorem fence_stops (h : 16 ≤ (s.operand m).toNat ∨ (s.operand m).toNat / 4 % 4 = 0) :
    ∃ u, execFence m s = .next u ∧ StopsWith s u .fenceBad 0 0 0 := by
  refine scalarTrigger_stops hl hg ?_
  split
  next => rfl
  next hk =>
    rcases h with h16 | hzero
    · exact if_pos (by omega)
    · rw [fenceKind_none hzero] at hk
      cases hk

theorem halt_stops (h : s.core.eng.ember.flt.getLsbD 63 = true) :
    ∃ u, execHalt m s = .next u ∧ StopsWith s u .embOverrun 0 0 s.core.eng.ember.flt.toNat :=
  scalarTrigger_stops hl hg (if_pos h)

end Refusals

/-- Settles O32: one refusal an operation, csrw with two. -/
theorem controlFaults : Obligations.ControlFaults := by
  unfold Obligations.ControlFaults
  intro m s hl hg
  simp only [exec_fmt, exec_csrr, exec_csrw, exec_fence, exec_halt]
  exact ⟨fun h => fmt_stops hl hg (fmtBad_refused h), csrr_stops hl hg, csrw_stops_undefined hl hg,
    fun v hn hd h => csrw_stops_readOnly hl hg hn hd (csrReadOnly_listed h), fence_stops hl hg, halt_stops hl hg⟩

end Sys2Proof.Machine

/-! PROOF. What computations yield and what outcomes leave of memory. -/

namespace Sys2Proof.Machine

/-! ## Outcomes -/

/-- Whatever a computation yields has a property. -/
def Yields {α : Type} (P : α → Prop) (e : Except Exc α) : Prop := ∀ a, e = .ok a → P a

section Yields

variable {α β : Type} {P : α → Prop} {Q : β → Prop}

@[simp] theorem yields_ok (a : α) : Yields P (.ok a) ↔ P a := by simp [Yields]

@[simp] theorem yields_error (x : Exc) : Yields P (.error x) := by simp [Yields]

@[simp] theorem yields_pure (a : α) : Yields P (pure a) ↔ P a := yields_ok a

@[simp] theorem yields_bind (e : Except Exc α) (f : α → Except Exc β) : Yields Q (e >>= f) ↔ Yields (fun a => Yields Q (f a)) e := by
  cases e with
  | error x => simp [Yields, bind, Except.bind]
  | ok a => simp [Yields, bind, Except.bind]

@[simp] theorem yields_exceptBind (e : Except Exc α) (f : α → Except Exc β) :
    Yields Q (e.bind f) ↔ Yields (fun a => Yields Q (f a)) e :=
  yields_bind e f

@[simp] theorem yields_map (e : Except Exc α) (f : α → β) : Yields Q (e.map f) ↔ Yields (fun a => Q (f a)) e := by
  cases e <;> simp [Except.map]

@[simp] theorem yields_functorMap (e : Except Exc α) (f : α → β) : Yields Q (f <$> e) ↔ Yields (fun a => Q (f a)) e :=
  yields_map e f

@[simp] theorem yields_ite (c : Prop) [Decidable c] (e e' : Except Exc α) :
    Yields P (if c then e else e') ↔ (c → Yields P e) ∧ (¬ c → Yields P e') := by
  split <;> simp [*]

@[simp] theorem yields_imp (c : Prop) (e : Except Exc α) : Yields (fun a => c → P a) e ↔ (c → Yields P e) := by
  exact ⟨fun h hc a ha => h a ha hc, fun h a ha hc => h hc a ha⟩

@[simp] theorem yields_true (e : Except Exc α) : Yields (fun _ => True) e := fun _ _ => trivial

@[simp] theorem yields_must (ok : Bool) (x : Exc) (P : Unit → Prop) : Yields P (must ok x) ↔ (ok = true → P ()) := by
  cases ok <;> simp [must]

theorem Yields.mono {e : Except Exc α} {P' : α → Prop} (h : Yields P e) (hp : ∀ a, P a → P' a) : Yields P' e :=
  fun a ha => hp a (h a ha)

end Yields

/-- What can only yield a yields what a has, unless it fails. -/
theorem yields_iff_of_isOk {α : Type} {P : α → Prop} {e : Except Exc α} {a : α} (h : Yields (· = a) e) :
    Yields P e ↔ (e.isOk = true → P a) := by
  cases e with
  | error x => simp [Except.isOk, Except.toBool]
  | ok b => simp [(yields_ok _).mp h, Except.isOk, Except.toBool]

/-- What leaves the memory of s yields a state with memory m0 when that is the memory of s. -/
theorem Yields.mem_iff {s : State} {e : Except Exc State} (h : Yields (fun t => t.mem = s.mem) e) {m0 : Mem} :
    Yields (fun t => t.mem = m0) e ↔ (e.isOk = true → s.mem = m0) := by
  cases e with
  | error x => simp [Except.isOk, Except.toBool]
  | ok t =>
    rw [yields_ok] at h
    simp [h, Except.isOk, Except.toBool]

/-- A premise about the state that is yielded can be dropped. -/
@[simp] theorem yields_mem_of_imp {c : State → Prop} {e : Except Exc State} {m0 : Mem} (h : Yields (fun t => t.mem = m0) e) :
    Yields (fun t => c t → t.mem = m0) e := h.mono fun _ ht _ => ht

/-- Whatever state an outcome names has the memory of s. -/
def KeepsMem (s : State) (o : Out) : Prop := ∀ t, o = .next t → t.mem = s.mem

/-- Whatever state an outcome names has its memory in canonical form. -/
def EndsWf (o : Out) : Prop := ∀ t, o = .next t → t.MemWf

@[simp] theorem keepsMem_next (s t : State) : KeepsMem s (.next t) ↔ t.mem = s.mem := by simp [KeepsMem]
@[simp] theorem keepsMem_fault (s : State) (f : Fault) : KeepsMem s (.fault f) := by simp [KeepsMem]
@[simp] theorem endsWf_next (t : State) : EndsWf (.next t) ↔ t.MemWf := by simp [EndsWf]
@[simp] theorem endsWf_fault (f : Fault) : EndsWf (.fault f) := by simp [EndsWf]

theorem KeepsMem.endsWf {s : State} {o : Out} (h : KeepsMem s o) (hw : s.MemWf) : EndsWf o := fun t ht => by
  rw [State.MemWf, h t ht]
  exact hw

/-! ## Folds over states -/

@[simp] theorem ite_mem (c : Prop) [Decidable c] (a b : State) : (if c then a else b).mem = if c then a.mem else b.mem :=
  apply_ite State.mem c a b

@[simp] theorem foldl_mem {β : Type} (f : State → β → State) (l : List β) (s : State) (hf : ∀ s x, (f s x).mem = s.mem) :
    (l.foldl f s).mem = s.mem := by
  induction l generalizing s with
  | nil => rfl
  | cons x l ih => rw [List.foldl_cons, ih, hf]

theorem foldlM_leaves {β : Type} {f : State → β → Except Exc State} (hf : ∀ st x, Yields (fun t => t.mem = st.mem) (f st x))
    (l : List β) (s : State) : Yields (fun t => t.mem = s.mem) (l.foldlM f s) := by
  induction l generalizing s with
  | nil => simp
  | cons x l ih =>
    rw [List.foldlM_cons, yields_bind]
    exact (hf s x).mono fun t ht => ht ▸ ih t

/-! ## Slots -/

@[simp] theorem booked_mem (s : State) (unit store lat : Nat) (write : Bool) (offs : List Nat) :
    (s.booked unit store lat write offs).mem = s.mem := rfl
@[simp] theorem sent_mem (s : State) (unit : Nat) (items : List (Nat × PendAct × BitVec 7)) : (s.sent unit items).mem = s.mem := rfl

@[simp] theorem yields_issue (P : State → Prop) (s : State) (unit : Nat) (items : List (Nat × PendAct × BitVec 7)) :
    Yields P (s.issue unit items) ↔ ((s.issue unit items).isOk = true → P (s.sent unit items)) := by
  refine yields_iff_of_isOk ?_
  unfold State.issue
  dsimp only
  split
  · exact yields_error _
  · exact (yields_ok _).mpr rfl
@[simp] theorem yields_issue1 (P : State → Prop) (s : State) (unit lat : Nat) (act : PendAct) (fl : BitVec 7) :
    Yields P (s.issue1 unit lat act fl) ↔ ((s.issue1 unit lat act fl).isOk = true → P (s.sent unit [(lat, act, fl)])) :=
  yields_issue P s unit _
@[simp] theorem yields_result (P : State → Prop) (s : State) (unit lat : Nat) (v : W64) (fl : BitVec 7) :
    Yields P (s.result unit lat v fl) ↔ ((s.result unit lat v fl).isOk = true → P (s.sentScalar unit lat v fl)) :=
  yields_issue P s unit _
@[simp] theorem yields_queueResult (P : State → Prop) (s : State) (unit lat : Nat) (v : W64) (fl : BitVec 7) :
    Yields P (s.queueResult unit lat v fl) ↔ ((s.queueResult unit lat v fl).isOk = true → P (s.sentQueue unit lat v fl)) :=
  yields_issue P s unit _
@[simp] theorem yields_vectorResult (P : State → Prop) (s : State) (unit lat : Nat) (v : VReg) (fl : BitVec 7) :
    Yields P (s.vectorResult unit lat v fl) ↔ ((s.vectorResult unit lat v fl).isOk = true → P (s.sentVector unit lat v fl)) :=
  yields_issue P s unit _
@[simp] theorem sentScalar_mem (s : State) (unit lat : Nat) (v : W64) (fl : BitVec 7) : (s.sentScalar unit lat v fl).mem = s.mem := rfl
@[simp] theorem sentQueue_mem (s : State) (unit lat : Nat) (v : W64) (fl : BitVec 7) : (s.sentQueue unit lat v fl).mem = s.mem := rfl
@[simp] theorem sentVector_mem (s : State) (unit lat : Nat) (v : VReg) (fl : BitVec 7) : (s.sentVector unit lat v fl).mem = s.mem := rfl
@[simp] theorem yields_book (P : State → Prop) (s : State) (unit store lat : Nat) (write : Bool) (offs : List Nat) :
    Yields P (s.book unit store lat write offs) ↔
      ((s.book unit store lat write offs).isOk = true → P (s.booked unit store lat write offs)) := by
  refine yields_iff_of_isOk ?_
  unfold State.book
  dsimp only
  split
  · exact yields_error _
  · exact (yields_ok _).mpr rfl
@[simp] theorem takeLate_mem (s : State) (code : Nat) (need : Need) (org : Origin) : (s.takeLate code need org).mem = s.mem := by
  unfold State.takeLate; split <;> simp
@[simp] theorem take_mem (s : State) (e : Exc) (unit : Nat) : (s.take e unit).mem = s.mem := by
  cases e <;> simp [State.take]
@[simp] theorem yields_readDesc (P : State × Desc → Prop) (s : State) (unit port : Nat) (t : W64) (masks : List Nat) :
    Yields P (s.readDesc unit port t masks) ↔ ((s.readDesc unit port t masks).isOk = true →
      P (s.booked unit 0 0 false [t.toNat], descAt s.core.sp t.toNat)) := by
  refine yields_iff_of_isOk ?_
  simp [State.readDesc]

/-- A slot move that fails, is skipped or stops leaves memory as it is; one that acts does what its body does. -/
theorem slotMove_keepsMem {unit : Nat} {cls : PortClass} {fu : Bool} {m : Move} {s : State} {body : Except Exc State}
    (h : Yields (fun t => t.mem = s.mem) body) : KeepsMem s (slotMove unit cls fu m s body) := by
  rcases slotMove_cases unit cls fu m s body with
    ⟨r, -, he⟩ | ⟨-, -, he⟩ | ⟨-, -, e, -, he⟩ | ⟨-, -, -, e, -, he⟩ | ⟨-, t, hb, he⟩ <;> rw [he]
  · simp
  · simp
  · simp
  · simp
  · simpa using h t hb

section Triggers

variable {unit : Nat} {m : Move} {s : State}

theorem scalarTrigger_keepsMem {body : W64 → Except Exc State} (h : ∀ t, Yields (fun u => u.mem = s.mem) (body t)) :
    KeepsMem s (scalarTrigger unit m s body) := slotMove_keepsMem (h _)

theorem scalarFmtTrigger_keepsMem {body : W64 → Except Exc State} (h : ∀ t, Yields (fun u => u.mem = s.mem) (body t)) :
    KeepsMem s (scalarFmtTrigger unit m s body) := slotMove_keepsMem (h _)

theorem vectorTrigger_keepsMem {body : VReg → Except Exc State} (h : ∀ t, Yields (fun u => u.mem = s.mem) (body t)) :
    KeepsMem s (vectorTrigger unit m s body) := slotMove_keepsMem (h _)

theorem vectorFmtTrigger_keepsMem {body : VReg → Except Exc State} (h : ∀ t, Yields (fun u => u.mem = s.mem) (body t)) :
    KeepsMem s (vectorFmtTrigger unit m s body) := slotMove_keepsMem (h _)

theorem aguOp_keepsMem {body : Nat → Except Exc State} (h : ∀ a, Yields (fun u => u.mem = s.mem) (body a)) :
    KeepsMem s (aguOp m s body) :=
  scalarTrigger_keepsMem fun _ => (yields_exceptBind _ _).mpr fun a _ => h a

theorem vmemOp_keepsMem {body : Nat → Except Exc State} (h : ∀ a, Yields (fun u => u.mem = s.mem) (body a)) :
    KeepsMem s (vmemOp m s body) :=
  scalarTrigger_keepsMem fun _ => (yields_exceptBind _ _).mpr fun a _ => h a

theorem embTrigger_keepsMem {body : W64 → Except Exc State} (h : ∀ t, Yields (fun u => u.mem = s.mem) (body t)) :
    KeepsMem s (embTrigger m s body) := scalarTrigger_keepsMem h

theorem klnTrigger_keepsMem {body : W64 → Except Exc State} (h : ∀ t, Yields (fun u => u.mem = s.mem) (body t)) :
    KeepsMem s (klnTrigger m s body) := scalarFmtTrigger_keepsMem h

theorem fabTrigger_keepsMem {port : Nat} {masks : List Nat} {body : State → Desc → Nat → W64 → Nat → Except Exc State}
    (h : ∀ s1 d a b cw, s1.mem = s.mem → Yields (fun u => u.mem = s.mem) (body s1 d a b cw)) :
    KeepsMem s (fabTrigger port masks m s body) :=
  scalarTrigger_keepsMem fun t => by
    simp only [yields_bind, yields_readDesc]
    exact fun _ => h _ _ _ _ _ rfl

end Triggers

end Sys2Proof.Machine

/-! PROOF. The operations and the steps that leave memory as it is, part of the model by part (R73, R79). -/

namespace Sys2Proof.Machine

section Frame

variable {s : State} {m : Move} {u : BitVec 1}

/-! ## Port moves (R173, R191) -/

@[simp] theorem execPort0Discard_keepsMem {u : BitVec 4} : KeepsMem s (execPort0Discard u m s) := slotMove_keepsMem (by simp)

@[simp] theorem execOperandPortMove_keepsMem {u : BitVec 4} {p : BitVec 3} : KeepsMem s (execOperandPortMove u p m s) := by
  unfold execOperandPortMove
  split
  · exact slotMove_keepsMem (by simp)
  · exact slotMove_keepsMem (by simp)
  · simp

@[simp] theorem execNregWrite_keepsMem {p : BitVec 6} : KeepsMem s (execNregWrite p m s) := by
  unfold execNregWrite
  split
  · exact slotMove_keepsMem (by simp)
  · exact slotMove_keepsMem (by simp)
  · exact slotMove_keepsMem (by simp)
  · simp

/-! ## Footprints and translation (R25, R74 to R78) -/

@[simp] theorem sendGlobalAt_mem (place : Nat) (cls : BitVec 3) (va pa : Nat) (repl : Bool) (act : GAct) (org : Origin) (engine : Bool) :
    (s.sendGlobalAt place cls va pa repl act org engine).mem = s.mem := rfl

@[simp] theorem sendGlobal_mem (cls : BitVec 3) (va pa : Nat) (repl : Bool) (act : GAct) (org : Origin) (engine : Bool) :
    (s.sendGlobal cls va pa repl act org engine).mem = s.mem := rfl

/-! ## BRU (R209 to R226) -/

@[simp] theorem yields_setStack (st : List Bool) (m0 : Mem) :
    Yields (fun t => t.mem = m0) (s.setStack st) ↔ ((s.setStack st).isOk = true → s.mem = m0) :=
  Yields.mem_iff (by simp [State.setStack])

@[simp] theorem yields_pushPred (b : Bool) (m0 : Mem) :
    Yields (fun t => t.mem = m0) (s.pushPred b) ↔ ((s.pushPred b).isOk = true → s.mem = m0) := Yields.mem_iff (by simp [State.pushPred])

@[simp] theorem execTgt_keepsMem {n : BitVec 2} : KeepsMem s (execTgt n m s) :=
  scalarTrigger_keepsMem fun _ => by simp

@[simp] theorem predCmp_keepsMem {p : W64 → W64 → Bool} : KeepsMem s (predCmp m s p) :=
  scalarTrigger_keepsMem fun _ => by simp

@[simp] theorem execPeq_keepsMem : KeepsMem s (execPeq m s) := predCmp_keepsMem

@[simp] theorem execPne_keepsMem : KeepsMem s (execPne m s) := predCmp_keepsMem

@[simp] theorem execPlt_keepsMem : KeepsMem s (execPlt m s) := predCmp_keepsMem

@[simp] theorem execPltu_keepsMem : KeepsMem s (execPltu m s) := predCmp_keepsMem

@[simp] theorem execPle_keepsMem : KeepsMem s (execPle m s) := predCmp_keepsMem

@[simp] theorem execPleu_keepsMem : KeepsMem s (execPleu m s) := predCmp_keepsMem

@[simp] theorem execPnot_keepsMem : KeepsMem s (execPnot m s) :=
  scalarTrigger_keepsMem fun _ => by split <;> simp

@[simp] theorem predPair_keepsMem {f : Bool → Bool → Bool} : KeepsMem s (predPair m s f) :=
  scalarTrigger_keepsMem fun _ => by split <;> simp

@[simp] theorem execPand_keepsMem : KeepsMem s (execPand m s) := predPair_keepsMem

@[simp] theorem execPor_keepsMem : KeepsMem s (execPor m s) := predPair_keepsMem

@[simp] theorem execPdup_keepsMem : KeepsMem s (execPdup m s) :=
  scalarTrigger_keepsMem fun _ => by split <;> simp

@[simp] theorem execPpop_keepsMem : KeepsMem s (execPpop m s) :=
  scalarTrigger_keepsMem fun _ => by split <;> simp

@[simp] theorem execRdps_keepsMem : KeepsMem s (execRdps m s) :=
  scalarTrigger_keepsMem fun _ => by simp

@[simp] theorem execWrps_keepsMem : KeepsMem s (execWrps m s) :=
  scalarTrigger_keepsMem fun _ => by simp

@[simp] theorem execVany_keepsMem : KeepsMem s (execVany m s) :=
  vectorTrigger_keepsMem fun _ => by simp

@[simp] theorem execVall_keepsMem : KeepsMem s (execVall m s) :=
  vectorTrigger_keepsMem fun _ => by simp

@[simp] theorem yields_transfer (target : W64) (m0 : Mem) :
    Yields (fun t => t.mem = m0) (s.transfer target) ↔ ((s.transfer target).isOk = true → s.mem = m0) :=
  Yields.mem_iff (by simp [State.transfer])

@[simp] theorem yields_jump (target : W64) (m0 : Mem) :
    Yields (fun t => t.mem = m0) (s.jump target) ↔ ((s.jump target).isOk = true → s.mem = m0) := by
  refine Yields.mem_iff ?_
  unfold State.jump
  split <;> simp

@[simp] theorem execJmp_keepsMem : KeepsMem s (execJmp m s) :=
  scalarTrigger_keepsMem fun _ => by simp

@[simp] theorem execRet_keepsMem : KeepsMem s (execRet m s) :=
  scalarTrigger_keepsMem fun _ => by simp

@[simp] theorem execCall_keepsMem : KeepsMem s (execCall m s) :=
  scalarTrigger_keepsMem fun _ => by simp

@[simp] theorem condTransfer_keepsMem {want nullifies : Bool} : KeepsMem s (condTransfer want nullifies m s) := by
  refine scalarTrigger_keepsMem fun _ => ?_
  repeat' split
  all_goals simp

@[simp] theorem execJt_keepsMem : KeepsMem s (execJt m s) := condTransfer_keepsMem

@[simp] theorem execJf_keepsMem : KeepsMem s (execJf m s) := condTransfer_keepsMem

@[simp] theorem execJtn_keepsMem : KeepsMem s (execJtn m s) := condTransfer_keepsMem

@[simp] theorem execJfn_keepsMem : KeepsMem s (execJfn m s) := condTransfer_keepsMem

@[simp] theorem loopBound_keepsMem {f : BitVec 14 → PendAct} : KeepsMem s (loopBound m s f) :=
  scalarTrigger_keepsMem fun _ => by simp

@[simp] theorem execLstart_keepsMem : KeepsMem s (execLstart m s) := loopBound_keepsMem

@[simp] theorem execLend_keepsMem : KeepsMem s (execLend m s) := loopBound_keepsMem

@[simp] theorem execLstages_keepsMem : KeepsMem s (execLstages m s) :=
  scalarTrigger_keepsMem fun _ => by simp

@[simp] theorem execLcnt_keepsMem : KeepsMem s (execLcnt m s) := by
  refine scalarTrigger_keepsMem fun _ => ?_
  repeat' split
  all_goals simp

@[simp] theorem execLoop_keepsMem : KeepsMem s (execLoop m s) :=
  scalarTrigger_keepsMem fun _ => by split <;> simp

@[simp] theorem execLoopPassBoundary_keepsMem : KeepsMem s (execLoopPassBoundary s) := by
  unfold execLoopPassBoundary
  dsimp only
  repeat' split
  all_goals simp

/-! ## Control and status registers (R325, R326) -/

@[simp] theorem execEmbfltClear_keepsMem {v : W64} : KeepsMem s (execEmbfltClear v s) := by simp [execEmbfltClear]

@[simp] theorem execRingTailWrite_keepsMem {n : BitVec 3} {v : W64} : KeepsMem s (execRingTailWrite n v s) := by simp [execRingTailWrite]

@[simp] theorem execEcauseRearm_keepsMem {v : W64} : KeepsMem s (execEcauseRearm v s) := by simp [execEcauseRearm]

/-! ## Push stores (R78) -/

@[simp] theorem sendPushRows_mem (i : Nat) (parts : List (Nat × List Byte)) : (s.sendPushRows i parts).mem = s.mem := rfl

@[simp] theorem sendPush_mem (i o : Nat) (data : List Byte) : (s.sendPush i o data).mem = s.mem := rfl

/-! ## AGU (R227 to R237) -/

@[simp] theorem yields_loadLocal (store off w lat : Nat) (ext : Ext) (m0 : Mem) :
    Yields (fun t => t.mem = m0) (s.loadLocal store off w lat ext) ↔ ((s.loadLocal store off w lat ext).isOk = true → s.mem = m0) :=
  Yields.mem_iff (by simp [State.loadLocal])

@[simp] theorem yields_loadGlobal (ea w : Nat) (ext : Ext) (m0 : Mem) :
    Yields (fun t => t.mem = m0) (s.loadGlobal ea w ext) ↔ ((s.loadGlobal ea w ext).isOk = true → s.mem = m0) :=
  Yields.mem_iff (by simp [State.loadGlobal])

@[simp] theorem yields_load (w : Nat) (ext : Ext) (ea : Nat) (m0 : Mem) :
    Yields (fun t => t.mem = m0) (s.load w ext ea) ↔ ((s.load w ext ea).isOk = true → s.mem = m0) := by
  refine Yields.mem_iff ?_
  unfold State.load
  repeat' split
  all_goals simp

@[simp] theorem yields_store (w ea : Nat) (m0 : Mem) :
    Yields (fun t => t.mem = m0) (s.store w ea) ↔ ((s.store w ea).isOk = true → s.mem = m0) := by
  refine Yields.mem_iff ?_
  unfold State.store
  dsimp only
  repeat' split
  all_goals simp

@[simp] theorem yields_atomic (op : AmoOp) (w : Nat) (ext : Ext) (ret : Bool) (ea : Nat) (m0 : Mem) :
    Yields (fun t => t.mem = m0) (s.atomic op w ext ret ea) ↔ ((s.atomic op w ext ret ea).isOk = true → s.mem = m0) := by
  refine Yields.mem_iff ?_
  unfold State.atomic
  split <;> simp

@[simp] theorem yields_waitOn (ne : Bool) (ea : Nat) (m0 : Mem) :
    Yields (fun t => t.mem = m0) (s.waitOn ne ea) ↔ ((s.waitOn ne ea).isOk = true → s.mem = m0) := by
  refine Yields.mem_iff ?_
  unfold State.waitOn
  dsimp only
  repeat' split
  all_goals simp

@[simp] theorem execLd8_keepsMem : KeepsMem s (execLd8 m s) :=
  aguOp_keepsMem fun _ => by simp

@[simp] theorem execLd8s_keepsMem : KeepsMem s (execLd8s m s) :=
  aguOp_keepsMem fun _ => by simp

@[simp] theorem execLd16_keepsMem : KeepsMem s (execLd16 m s) :=
  aguOp_keepsMem fun _ => by simp

@[simp] theorem execLd16s_keepsMem : KeepsMem s (execLd16s m s) :=
  aguOp_keepsMem fun _ => by simp

@[simp] theorem execLd32_keepsMem : KeepsMem s (execLd32 m s) :=
  aguOp_keepsMem fun _ => by simp

@[simp] theorem execLd32s_keepsMem : KeepsMem s (execLd32s m s) :=
  aguOp_keepsMem fun _ => by simp

@[simp] theorem execLd64_keepsMem : KeepsMem s (execLd64 m s) :=
  aguOp_keepsMem fun _ => by simp

@[simp] theorem execSt8_keepsMem : KeepsMem s (execSt8 m s) :=
  aguOp_keepsMem fun _ => by simp

@[simp] theorem execSt16_keepsMem : KeepsMem s (execSt16 m s) :=
  aguOp_keepsMem fun _ => by simp

@[simp] theorem execSt32_keepsMem : KeepsMem s (execSt32 m s) :=
  aguOp_keepsMem fun _ => by simp

@[simp] theorem execSt64_keepsMem : KeepsMem s (execSt64 m s) :=
  aguOp_keepsMem fun _ => by simp

@[simp] theorem execAmoadd_keepsMem : KeepsMem s (execAmoadd m s) :=
  aguOp_keepsMem fun _ => by simp

@[simp] theorem execAmomin_keepsMem : KeepsMem s (execAmomin m s) :=
  aguOp_keepsMem fun _ => by simp

@[simp] theorem execAmomax_keepsMem : KeepsMem s (execAmomax m s) :=
  aguOp_keepsMem fun _ => by simp

@[simp] theorem execAmominu_keepsMem : KeepsMem s (execAmominu m s) :=
  aguOp_keepsMem fun _ => by simp

@[simp] theorem execAmomaxu_keepsMem : KeepsMem s (execAmomaxu m s) :=
  aguOp_keepsMem fun _ => by simp

@[simp] theorem execAmoand_keepsMem : KeepsMem s (execAmoand m s) :=
  aguOp_keepsMem fun _ => by simp

@[simp] theorem execAmoor_keepsMem : KeepsMem s (execAmoor m s) :=
  aguOp_keepsMem fun _ => by simp

@[simp] theorem execAmoxor_keepsMem : KeepsMem s (execAmoxor m s) :=
  aguOp_keepsMem fun _ => by simp

@[simp] theorem execAmoswap_keepsMem : KeepsMem s (execAmoswap m s) :=
  aguOp_keepsMem fun _ => by simp

@[simp] theorem execAmocas_keepsMem : KeepsMem s (execAmocas m s) :=
  aguOp_keepsMem fun _ => by simp

@[simp] theorem execAmofadd_keepsMem : KeepsMem s (execAmofadd m s) :=
  aguOp_keepsMem fun _ => by simp

@[simp] theorem execAmofmax_keepsMem : KeepsMem s (execAmofmax m s) :=
  aguOp_keepsMem fun _ => by simp

@[simp] theorem execAmofmin_keepsMem : KeepsMem s (execAmofmin m s) :=
  aguOp_keepsMem fun _ => by simp

@[simp] theorem execAmoadd64_keepsMem : KeepsMem s (execAmoadd64 m s) :=
  aguOp_keepsMem fun _ => by simp

@[simp] theorem execAmoswap64_keepsMem : KeepsMem s (execAmoswap64 m s) :=
  aguOp_keepsMem fun _ => by simp

@[simp] theorem execAmocas64_keepsMem : KeepsMem s (execAmocas64 m s) :=
  aguOp_keepsMem fun _ => by simp

@[simp] theorem execRedadd_keepsMem : KeepsMem s (execRedadd m s) :=
  aguOp_keepsMem fun _ => by simp

@[simp] theorem execRedmin_keepsMem : KeepsMem s (execRedmin m s) :=
  aguOp_keepsMem fun _ => by simp

@[simp] theorem execRedmax_keepsMem : KeepsMem s (execRedmax m s) :=
  aguOp_keepsMem fun _ => by simp

@[simp] theorem execRedminu_keepsMem : KeepsMem s (execRedminu m s) :=
  aguOp_keepsMem fun _ => by simp

@[simp] theorem execRedmaxu_keepsMem : KeepsMem s (execRedmaxu m s) :=
  aguOp_keepsMem fun _ => by simp

@[simp] theorem execRedand_keepsMem : KeepsMem s (execRedand m s) :=
  aguOp_keepsMem fun _ => by simp

@[simp] theorem execRedor_keepsMem : KeepsMem s (execRedor m s) :=
  aguOp_keepsMem fun _ => by simp

@[simp] theorem execRedxor_keepsMem : KeepsMem s (execRedxor m s) :=
  aguOp_keepsMem fun _ => by simp

@[simp] theorem execRedfadd_keepsMem : KeepsMem s (execRedfadd m s) :=
  aguOp_keepsMem fun _ => by simp

@[simp] theorem execRedfmax_keepsMem : KeepsMem s (execRedfmax m s) :=
  aguOp_keepsMem fun _ => by simp

@[simp] theorem execRedfmin_keepsMem : KeepsMem s (execRedfmin m s) :=
  aguOp_keepsMem fun _ => by simp

@[simp] theorem execRedadd64_keepsMem : KeepsMem s (execRedadd64 m s) :=
  aguOp_keepsMem fun _ => by simp

@[simp] theorem execWge_keepsMem : KeepsMem s (execWge m s) :=
  aguOp_keepsMem fun _ => by simp

@[simp] theorem execWne_keepsMem : KeepsMem s (execWne m s) :=
  aguOp_keepsMem fun _ => by simp

/-! ## Engine commands (R274 to R278) -/

@[simp] theorem pin_mem (id : Nat) (ls : List Leaf) : (s.pin id ls).mem = s.mem := rfl

/-! ## EMB (R142 to R155, R303 to R305) -/

@[simp] theorem onEmb_mem (f : Ember → Ember) : (s.onEmb f).mem = s.mem := rfl

@[simp] theorem yields_embIssue (d : Desc) (a : EAct) (m0 : Mem) :
    Yields (fun t => t.mem = m0) (s.embIssue d a) ↔ ((s.embIssue d a).isOk = true → s.mem = m0) :=
  Yields.mem_iff (by simp [State.embIssue])

@[simp] theorem execEpatch_keepsMem : KeepsMem s (execEpatch m s) := by
  refine embTrigger_keepsMem fun _ => ?_
  simp only [yields_bind, yields_must, yields_readDesc]
  repeat' split
  all_goals simp

@[simp] theorem execEload_keepsMem : KeepsMem s (execEload m s) :=
  embTrigger_keepsMem fun _ => by simp

@[simp] theorem execEinc_keepsMem : KeepsMem s (execEinc m s) :=
  embTrigger_keepsMem fun _ => by simp

@[simp] theorem embRead_keepsMem {port : Nat} {cnt : Bool} : KeepsMem s (embRead port cnt m s) :=
  embTrigger_keepsMem fun _ => by simp

@[simp] theorem execErd_keepsMem : KeepsMem s (execErd m s) := embRead_keepsMem

@[simp] theorem execEcnt_keepsMem : KeepsMem s (execEcnt m s) := embRead_keepsMem

@[simp] theorem execEsave_keepsMem : KeepsMem s (execEsave m s) :=
  embTrigger_keepsMem fun _ => by simp

@[simp] theorem execErest_keepsMem : KeepsMem s (execErest m s) :=
  embTrigger_keepsMem fun _ => by simp

@[simp] theorem execEstep_keepsMem : KeepsMem s (execEstep m s) :=
  embTrigger_keepsMem fun _ => by simp

@[simp] theorem execEclk_keepsMem : KeepsMem s (execEclk m s) :=
  embTrigger_keepsMem fun _ => by simp

@[simp] theorem execDomainStep_keepsMem {d : BitVec 2} : KeepsMem s (execDomainStep d s) := by simp [execDomainStep]

@[simp] theorem embBegin_mem (c : ECmd) : (s.embBegin c).mem = s.mem := by
  unfold State.embBegin
  split <;> rfl

@[simp] theorem execEmberCommandStart_keepsMem : KeepsMem s (execEmberCommandStart s) := by simp [execEmberCommandStart]

@[simp] theorem execEsaveRow_keepsMem {cmd : Nat} : KeepsMem s (execEsaveRow cmd s) := by
  unfold execEsaveRow
  dsimp only
  repeat' split
  all_goals simp

@[simp] theorem execErestApply_keepsMem {cmd : Nat} : KeepsMem s (execErestApply cmd s) := by
  unfold execErestApply
  dsimp only
  repeat' split
  all_goals simp

/-! ## The home controllers (R90, R98 to R115) -/

@[simp] theorem setTag_mem (pa : Nat) (t : BitVec 18) : (s.setTag pa t).mem = s.mem := rfl

@[simp] theorem logMark_mem (pa : Nat) (t : BitVec 18) : (s.logMark pa t).mem = s.mem := by simp [State.logMark]

@[simp] theorem publish_mem : (s.publish).mem = s.mem := rfl

@[simp] theorem unpoison_mem (pa len : Nat) : (s.unpoison pa len).mem = s.mem := rfl

@[simp] theorem notice_mem (pa len : Nat) : (s.notice pa len).mem = s.mem := by simp [State.notice]

@[simp] theorem waitRead_mem (g : GAccess) (v : W64) : (s.waitRead g v).mem = s.mem := by
  unfold State.waitRead
  split <;> simp

@[simp] theorem dropAccess_mem (id : Nat) : (s.dropAccess id).mem = s.mem := rfl

@[simp] theorem toEngine_mem (unit cmd item : Nat) (data : List Byte) : (s.toEngine unit cmd item data).mem = s.mem := rfl

@[simp] theorem execFencePerform_keepsMem : KeepsMem s (execFencePerform s) := by
  unfold execFencePerform
  split <;> simp

/-! ## Translations (R409 to R414) -/

@[simp] theorem holdAsid_mem (asid : Nat) : (s.holdAsid asid).mem = s.mem := by simp [State.holdAsid]

@[simp] theorem execTranslationWalk_keepsMem : KeepsMem s (execTranslationWalk s) := by
  unfold execTranslationWalk
  repeat' split
  all_goals simp

/-! ## CPY (R84, R85, R290 to R296) -/

@[simp] theorem enterCopy_mem (c : Copy) (ls : List Leaf) (follow : Option Nat) : (s.enterCopy c ls follow).mem = s.mem := rfl

theorem copyIssue_leaves (d : Desc) (c : Copy) {extra : Except Exc (Bool × Option Nat × (State → State))}
    (hextra : Yields (fun x => ∀ t, (x.2.2 t).mem = t.mem) extra) : Yields (fun t => t.mem = s.mem) (s.copyIssue d c extra) := by
  unfold State.copyIssue
  split
  · exact yields_error _
  · rw [yields_bind]
    intro x hx
    simp [hextra x hx]

@[simp] theorem yields_noFollow (P : Bool × Option Nat × (State → State) → Prop) : Yields P noFollow ↔ P (true, none, id) :=
  yields_ok _

@[simp] theorem execCpy_keepsMem : KeepsMem s (execCpy m s) :=
  scalarTrigger_keepsMem fun t => by simp [(copyIssue_leaves _ _ _).mem_iff]

@[simp] theorem execCpyt_keepsMem : KeepsMem s (execCpyt m s) :=
  scalarTrigger_keepsMem fun t => by simp [(copyIssue_leaves _ _ _).mem_iff]

@[simp] theorem execCfetch_keepsMem : KeepsMem s (execCfetch m s) :=
  scalarTrigger_keepsMem fun t => by simp [(copyIssue_leaves _ _ _).mem_iff]

@[simp] theorem execCwp_keepsMem : KeepsMem s (execCwp m s) :=
  scalarTrigger_keepsMem fun _ => by simp

@[simp] theorem execCreset_keepsMem : KeepsMem s (execCreset m s) :=
  scalarTrigger_keepsMem fun _ => by simp

@[simp] theorem requestPiece_mem (c : Copy) (item va len : Nat) : (s.requestPiece c item va len).mem = s.mem := by
  unfold State.requestPiece
  dsimp only
  repeat' split
  all_goals simp

@[simp] theorem readLine_mem (c : Copy) (u : Nat) : (s.readLine c u).mem = s.mem := by
  unfold State.readLine
  dsimp only
  split
  · exact (foldl_mem _ _ _ fun _ _ => toEngine_mem _ _ _ _).trans (onCore_mem _ _)
  · exact (foldl_mem _ _ _ fun _ _ => toEngine_mem _ _ _ _).trans (onCore_mem _ _)
  · exact foldl_mem _ _ _ fun _ _ => rfl
  · rfl

@[simp] theorem requestUnit_mem (c : Copy) (u : Nat) : (s.requestUnit c u).mem = s.mem := by simp [State.requestUnit]

@[simp] theorem execCopyUnitRequest_keepsMem {ch : BitVec 1} : KeepsMem s (execCopyUnitRequest ch s) := by
  unfold execCopyUnitRequest
  split <;> simp

@[simp] theorem writeLocalUnit_mem (c : Copy) (x : CUnit) (acc : Bool) (off : Nat) : (s.writeLocalUnit c x acc off).mem = s.mem :=
  by simp [State.writeLocalUnit]

@[simp] theorem sendUnit_mem (c : Copy) (x : CUnit) (d : Nat) : (s.sendUnit c x d).mem = s.mem := by
  unfold State.sendUnit
  split <;> rfl

@[simp] theorem copyFlags_mem (c : Copy) : (s.copyFlags c).mem = s.mem :=
  (onEng_mem _ _).trans (foldl_mem _ _ _ fun _ _ => rfl)

@[simp] theorem channelWrite_mem (ch : Nat) : (s.channelWrite ch).mem = s.mem := by
  unfold State.channelWrite
  dsimp only
  repeat' split
  all_goals simp

@[simp] theorem execCopyUnitWritten_keepsMem {ch : BitVec 1} : KeepsMem s (execCopyUnitWritten ch s) := by simp [execCopyUnitWritten]

@[simp] theorem execFollowOnIssue_keepsMem {ch : BitVec 1} : KeepsMem s (execFollowOnIssue ch s) := by simp [execFollowOnIssue]

/-! ## FAB (R307 to R321) -/

@[simp] theorem yields_fabIssue (d : Desc) (op : FabOp) (a : Nat) (b : W64) (cw count : Nat) (reads writes : List (Nat × Nat)) (m0 : Mem) :
    Yields (fun t => t.mem = m0) (s.fabIssue d op a b cw count reads writes) ↔
      ((s.fabIssue d op a b cw count reads writes).isOk = true → s.mem = m0) :=
  Yields.mem_iff (by simp [State.fabIssue])

@[simp] theorem setRel_mem (tmod n : Nat) : (s.setRel tmod n).mem = s.mem := rfl

@[simp] theorem yields_fabStore (d : Desc) (rel : Bool) (a : Nat) (b : W64) (cw : Nat) (m0 : Mem) :
    Yields (fun t => t.mem = m0) (s.fabStore d rel a b cw) ↔ ((s.fabStore d rel a b cw).isOk = true → s.mem = m0) :=
  Yields.mem_iff (by simp [State.fabStore])

@[simp] theorem execFwr_keepsMem : KeepsMem s (execFwr m s) :=
  fabTrigger_keepsMem fun _ _ _ _ _ h => by simp [h]

@[simp] theorem execFwrrel_keepsMem : KeepsMem s (execFwrrel m s) :=
  fabTrigger_keepsMem fun _ _ _ _ _ h => by simp [h]

@[simp] theorem execFrd_keepsMem : KeepsMem s (execFrd m s) :=
  fabTrigger_keepsMem fun _ _ _ _ _ h => by simp [h]

@[simp] theorem execFatom_keepsMem : KeepsMem s (execFatom m s) :=
  fabTrigger_keepsMem fun _ _ _ _ _ h => by simp [h]

@[simp] theorem execFmcred_keepsMem : KeepsMem s (execFmcred m s) :=
  fabTrigger_keepsMem fun _ _ _ _ _ h => by simp [h]

@[simp] theorem execFmcst_keepsMem : KeepsMem s (execFmcst m s) :=
  fabTrigger_keepsMem fun _ _ _ _ _ h => by simp [h]

@[simp] theorem execFgrp_keepsMem : KeepsMem s (execFgrp m s) :=
  fabTrigger_keepsMem fun _ _ _ _ _ h => by simp [h]

@[simp] theorem execFbar_keepsMem : KeepsMem s (execFbar m s) :=
  fabTrigger_keepsMem fun _ _ _ _ _ h => by simp [h]

@[simp] theorem execFstat_keepsMem : KeepsMem s (execFstat m s) :=
  scalarTrigger_keepsMem fun _ => by simp

@[simp] theorem fabAsk_mem (c : FabCmd) : (s.fabAsk c).mem = s.mem := by
  unfold State.fabAsk
  dsimp only
  repeat' split
  all_goals simp

/-! ## The Flue island (R430 to R437, R444) -/

@[simp] theorem execRouteRecompute_keepsMem {far : List (Nat × Nat)} : KeepsMem s (execRouteRecompute far s) :=
  by simp [execRouteRecompute]

@[simp] theorem tryForm_mem : (s.tryForm).mem = s.mem := by simp [State.tryForm]

@[simp] theorem goForm_mem : (s.goForm).mem = s.mem := by simp [State.goForm]

@[simp] theorem execFlueGo_keepsMem : KeepsMem s (execFlueGo s) := by simp [execFlueGo]

@[simp] theorem execLinkTrained_keepsMem {link : BitVec 3} {plane : BitVec 1} {ok : Bool} {peer : W64} {key : W32} {ord : Bool} :
    KeepsMem s (execLinkTrained link plane ok peer key ord s) := by
  unfold execLinkTrained
  dsimp only
  split <;> simp

@[simp] theorem execPlaneLoss_keepsMem {link : BitVec 3} {plane : BitVec 1} : KeepsMem s (execPlaneLoss link plane s) := by
  unfold execPlaneLoss
  split <;> simp

@[simp] theorem execFlitReplay_keepsMem {link : BitVec 3} {_plane : BitVec 1} : KeepsMem s (execFlitReplay link _plane s) :=
  by simp [execFlitReplay]

@[simp] theorem execGroupFormed_keepsMem : KeepsMem s (execGroupFormed s) := by
  unfold execGroupFormed
  dsimp only
  split <;> simp

@[simp] theorem endPending_mem : (s.endPending).mem = s.mem := rfl

@[simp] theorem execEndpointUp_keepsMem : KeepsMem s (execEndpointUp s) := by
  unfold execEndpointUp
  dsimp only
  split <;> simp

@[simp] theorem execEndpointDown_keepsMem : KeepsMem s (execEndpointDown s) := by simp [execEndpointDown]

@[simp] theorem execAnnouncementReceived_keepsMem {m : BitVec 12} {join : Bool} {inc : BitVec 8} :
    KeepsMem s (execAnnouncementReceived m join inc s) := by
  unfold execAnnouncementReceived
  dsimp only
  split <;> simp

@[simp] theorem execNeighbourLost_keepsMem {m : BitVec 12} : KeepsMem s (execNeighbourLost m s) := by simp [execNeighbourLost]

@[simp] theorem execTimestampFlit_keepsMem {ts : W64} {s0 : State} : KeepsMem s0 (execTimestampFlit ts s0) := by
  unfold execTimestampFlit
  dsimp only
  repeat' split
  all_goals simp

@[simp] theorem tickTs_mem (n : Nat) : (s.tickTs n).mem = s.mem := rfl

@[simp] theorem execTransitForward_keepsMem {tgt : BitVec 12} {p : Packet} : KeepsMem s (execTransitForward tgt p s) := by
  unfold execTransitForward
  dsimp only
  repeat' split
  all_goals simp

/-! ## The event log (R395, R452, R457) -/

@[simp] theorem logReset_mem (row target : Nat) : (s.logReset row target).mem = s.mem := rfl

@[simp] theorem countError_mem (k loc launch : Nat) (corrected : Bool) : (s.countError k loc launch corrected).mem = s.mem := rfl

/-! ## The Kiln commands at issue (R120 to R141) -/

@[simp] theorem onKiln_mem (f : Kiln → Kiln) : (s.onKiln f).mem = s.mem := rfl

@[simp] theorem yields_klnCommit (d : Desc) (m0 : Mem) :
    Yields (fun t => t.mem = m0) (s.klnCommit d) ↔ ((s.klnCommit d).isOk = true → s.mem = m0) :=
  Yields.mem_iff (by simp [State.klnCommit])

@[simp] theorem yields_enterShadow (d : Desc) (lat : Nat) (a : ShadowAct) (m0 : Mem) :
    Yields (fun t => t.mem = m0) (s.enterShadow d lat a) ↔ ((s.enterShadow d lat a).isOk = true → s.mem = m0) :=
  Yields.mem_iff (by simp [State.enterShadow])

@[simp] theorem execKcfg_keepsMem : KeepsMem s (execKcfg m s) :=
  klnTrigger_keepsMem fun _ => by simp

@[simp] theorem execKflow_keepsMem : KeepsMem s (execKflow m s) :=
  klnTrigger_keepsMem fun _ => by simp

@[simp] theorem execKsel_keepsMem : KeepsMem s (execKsel m s) :=
  klnTrigger_keepsMem fun _ => by simp

@[simp] theorem execKswitch_keepsMem : KeepsMem s (execKswitch m s) :=
  klnTrigger_keepsMem fun _ => by simp

@[simp] theorem execKring_keepsMem : KeepsMem s (execKring m s) :=
  klnTrigger_keepsMem fun _ => by simp

@[simp] theorem execKpop_keepsMem : KeepsMem s (execKpop m s) :=
  klnTrigger_keepsMem fun _ => by simp

theorem kzeroOf_leaves (d : Desc) (st : Nat) : Yields (fun f => ∀ t, (f t).mem = t.mem) (s.kzeroOf d st) := by
  simp [State.kzeroOf]

theorem kdrainOf_leaves (d : Desc) (st : Nat) : Yields (fun f => ∀ t, (f t).mem = t.mem) (s.kdrainOf d st) := by
  simp [State.kdrainOf]

@[simp] theorem execKzero_keepsMem : KeepsMem s (execKzero m s) := by
  refine klnTrigger_keepsMem fun t => ?_
  simp only [yields_bind, yields_readDesc]
  exact fun _ => (kzeroOf_leaves _ _).mono fun f hf => by simp [hf]

@[simp] theorem execKdrain_keepsMem : KeepsMem s (execKdrain m s) := by
  refine klnTrigger_keepsMem fun t => ?_
  simp only [yields_bind, yields_readDesc]
  exact fun _ => (kdrainOf_leaves _ _).mono fun f hf => by simp [hf]

theorem kstartOf_leaves (d : Desc) (st : Nat) : Yields (fun f => ∀ t, (f t).mem = t.mem) (s.kstartOf d st) := by
  unfold State.kstartOf
  dsimp only
  split <;> simp

@[simp] theorem execKstart_keepsMem : KeepsMem s (execKstart m s) := by
  refine klnTrigger_keepsMem fun t => ?_
  simp only [yields_bind, yields_readDesc]
  exact fun _ => (kstartOf_leaves _ _).mono fun f hf => by simp [hf]

theorem followOf_leaves (off f : Nat) : Yields (fun f => ∀ t, (f t).mem = t.mem) (s.followOf off f) := by
  simp [State.followOf, kzeroOf_leaves, kdrainOf_leaves, kstartOf_leaves]

@[simp] theorem execCpyf_keepsMem : KeepsMem s (execCpyf m s) :=
  scalarFmtTrigger_keepsMem fun t => by
    simp only [yields_bind, yields_readDesc, yields_book]
    intro _ c _ _
    refine (copyIssue_leaves _ _ ?_).mem_iff.mpr fun _ => rfl
    exact (yields_bind _ _).mpr ((followOf_leaves _ _).mono fun enter he => by simp [he])

/-! ## ALU0 and ALU1 (R195 to R200) -/

@[simp] theorem aluOp_keepsMem {f : W64 → W64 → W64 → W64} : KeepsMem s (aluOp u m s f) :=
  scalarTrigger_keepsMem fun _ => by simp

@[simp] theorem execMov_keepsMem : KeepsMem s (execMov u m s) := aluOp_keepsMem

@[simp] theorem execAdd_keepsMem : KeepsMem s (execAdd u m s) := aluOp_keepsMem

@[simp] theorem execSub_keepsMem : KeepsMem s (execSub u m s) := aluOp_keepsMem

@[simp] theorem execAnd_keepsMem : KeepsMem s (execAnd u m s) := aluOp_keepsMem

@[simp] theorem execOr_keepsMem : KeepsMem s (execOr u m s) := aluOp_keepsMem

@[simp] theorem execXor_keepsMem : KeepsMem s (execXor u m s) := aluOp_keepsMem

@[simp] theorem execAndn_keepsMem : KeepsMem s (execAndn u m s) := aluOp_keepsMem

@[simp] theorem execShl_keepsMem : KeepsMem s (execShl u m s) := aluOp_keepsMem

@[simp] theorem execShr_keepsMem : KeepsMem s (execShr u m s) := aluOp_keepsMem

@[simp] theorem execSar_keepsMem : KeepsMem s (execSar u m s) := aluOp_keepsMem

@[simp] theorem execRotl_keepsMem : KeepsMem s (execRotl u m s) := aluOp_keepsMem

@[simp] theorem execMin_keepsMem : KeepsMem s (execMin u m s) := aluOp_keepsMem

@[simp] theorem execMax_keepsMem : KeepsMem s (execMax u m s) := aluOp_keepsMem

@[simp] theorem execMinu_keepsMem : KeepsMem s (execMinu u m s) := aluOp_keepsMem

@[simp] theorem execMaxu_keepsMem : KeepsMem s (execMaxu u m s) := aluOp_keepsMem

@[simp] theorem execSeteq_keepsMem : KeepsMem s (execSeteq u m s) := aluOp_keepsMem

@[simp] theorem execSetne_keepsMem : KeepsMem s (execSetne u m s) := aluOp_keepsMem

@[simp] theorem execSetlt_keepsMem : KeepsMem s (execSetlt u m s) := aluOp_keepsMem

@[simp] theorem execSetltu_keepsMem : KeepsMem s (execSetltu u m s) := aluOp_keepsMem

@[simp] theorem execSetle_keepsMem : KeepsMem s (execSetle u m s) := aluOp_keepsMem

@[simp] theorem execSetleu_keepsMem : KeepsMem s (execSetleu u m s) := aluOp_keepsMem

@[simp] theorem execSel_keepsMem : KeepsMem s (execSel u m s) := aluOp_keepsMem

@[simp] theorem execClz_keepsMem : KeepsMem s (execClz u m s) := aluOp_keepsMem

@[simp] theorem execPopc_keepsMem : KeepsMem s (execPopc u m s) := aluOp_keepsMem

@[simp] theorem execSext_keepsMem : KeepsMem s (execSext u m s) := aluOp_keepsMem

@[simp] theorem execZext_keepsMem : KeepsMem s (execZext u m s) := aluOp_keepsMem

@[simp] theorem execBfx_keepsMem : KeepsMem s (execBfx u m s) := aluOp_keepsMem

@[simp] theorem execBfi_keepsMem : KeepsMem s (execBfi u m s) := aluOp_keepsMem

@[simp] theorem execAddw_keepsMem : KeepsMem s (execAddw u m s) := aluOp_keepsMem

@[simp] theorem execSubw_keepsMem : KeepsMem s (execSubw u m s) := aluOp_keepsMem

@[simp] theorem execAdds_keepsMem : KeepsMem s (execAdds u m s) := aluOp_keepsMem

@[simp] theorem execSubs_keepsMem : KeepsMem s (execSubs u m s) := aluOp_keepsMem

@[simp] theorem execAdds16_keepsMem : KeepsMem s (execAdds16 u m s) := aluOp_keepsMem

@[simp] theorem execLea_keepsMem : KeepsMem s (execLea u m s) := aluOp_keepsMem

/-! ## MUL (R201, R202) -/

@[simp] theorem mulOp_keepsMem {f : W64 → W64 → W64 → W64} : KeepsMem s (mulOp m s f) :=
  scalarTrigger_keepsMem fun _ => by simp

@[simp] theorem execMul_keepsMem : KeepsMem s (execMul m s) := mulOp_keepsMem

@[simp] theorem execMulhs_keepsMem : KeepsMem s (execMulhs m s) := mulOp_keepsMem

@[simp] theorem execMulhu_keepsMem : KeepsMem s (execMulhu m s) := mulOp_keepsMem

@[simp] theorem execMulw_keepsMem : KeepsMem s (execMulw m s) := mulOp_keepsMem

@[simp] theorem execMadd_keepsMem : KeepsMem s (execMadd m s) := mulOp_keepsMem

@[simp] theorem divOp_keepsMem {f : W64 → W64 → W64} : KeepsMem s (divOp m s f) :=
  scalarTrigger_keepsMem fun _ => by simp

@[simp] theorem execDiv_keepsMem : KeepsMem s (execDiv m s) := divOp_keepsMem

@[simp] theorem execDivu_keepsMem : KeepsMem s (execDivu m s) := divOp_keepsMem

@[simp] theorem execRem_keepsMem : KeepsMem s (execRem m s) := divOp_keepsMem

@[simp] theorem execRemu_keepsMem : KeepsMem s (execRemu m s) := divOp_keepsMem

/-! ## FPS (R203 to R208) -/

@[simp] theorem fpsOp_keepsMem {lat : Nat} {f : W32 → Nat → Nat → W64 → W64 × BitVec 7} : KeepsMem s (fpsOp lat m s f) :=
  scalarFmtTrigger_keepsMem fun _ => by simp

@[simp] theorem execFadd_keepsMem : KeepsMem s (execFadd m s) := fpsOp_keepsMem

@[simp] theorem execFsub_keepsMem : KeepsMem s (execFsub m s) := fpsOp_keepsMem

@[simp] theorem execFmul_keepsMem : KeepsMem s (execFmul m s) := fpsOp_keepsMem

@[simp] theorem execFfma_keepsMem : KeepsMem s (execFfma m s) := fpsOp_keepsMem

@[simp] theorem execFmin_keepsMem : KeepsMem s (execFmin m s) := fpsOp_keepsMem

@[simp] theorem execFmax_keepsMem : KeepsMem s (execFmax m s) := fpsOp_keepsMem

@[simp] theorem execFminnum_keepsMem : KeepsMem s (execFminnum m s) := fpsOp_keepsMem

@[simp] theorem execFmaxnum_keepsMem : KeepsMem s (execFmaxnum m s) := fpsOp_keepsMem

@[simp] theorem fpsBits_keepsMem {f : Nat → Nat} : KeepsMem s (fpsBits m s f) :=
  scalarTrigger_keepsMem fun _ => by simp

@[simp] theorem execFabs_keepsMem : KeepsMem s (execFabs m s) := fpsBits_keepsMem

@[simp] theorem execFneg_keepsMem : KeepsMem s (execFneg m s) := fpsBits_keepsMem

@[simp] theorem fpsLong_keepsMem {f : W32 → Nat → Nat → FRes} : KeepsMem s (fpsLong m s f) :=
  scalarFmtTrigger_keepsMem fun _ => by simp

@[simp] theorem execFdiv_keepsMem : KeepsMem s (execFdiv m s) := fpsLong_keepsMem

@[simp] theorem execFsqrt_keepsMem : KeepsMem s (execFsqrt m s) := fpsLong_keepsMem

@[simp] theorem execFcmpeq_keepsMem : KeepsMem s (execFcmpeq m s) := fpsOp_keepsMem

@[simp] theorem execFcmplt_keepsMem : KeepsMem s (execFcmplt m s) := fpsOp_keepsMem

@[simp] theorem execFcmple_keepsMem : KeepsMem s (execFcmple m s) := fpsOp_keepsMem

@[simp] theorem execCvtif_keepsMem : KeepsMem s (execCvtif m s) := fpsOp_keepsMem

@[simp] theorem execCvtfi_keepsMem : KeepsMem s (execCvtfi m s) := fpsOp_keepsMem

@[simp] theorem execCvtfb_keepsMem : KeepsMem s (execCvtfb m s) := fpsOp_keepsMem

@[simp] theorem execCvtbf_keepsMem : KeepsMem s (execCvtbf m s) := fpsOp_keepsMem

@[simp] theorem execFclass_keepsMem : KeepsMem s (execFclass m s) := fpsBits_keepsMem

/-! ## VEC (R245 to R256) -/

@[simp] theorem vecInt_keepsMem {f : W32 → W32 → W32} : KeepsMem s (vecInt m s f) :=
  vectorTrigger_keepsMem fun _ => by simp

@[simp] theorem execVmov_keepsMem : KeepsMem s (execVmov m s) :=
  vectorTrigger_keepsMem fun _ => by simp

@[simp] theorem execVadd_keepsMem : KeepsMem s (execVadd m s) := vecInt_keepsMem

@[simp] theorem execVsub_keepsMem : KeepsMem s (execVsub m s) := vecInt_keepsMem

@[simp] theorem execVmul_keepsMem : KeepsMem s (execVmul m s) := vecInt_keepsMem

@[simp] theorem execVmin_keepsMem : KeepsMem s (execVmin m s) := vecInt_keepsMem

@[simp] theorem execVmax_keepsMem : KeepsMem s (execVmax m s) := vecInt_keepsMem

@[simp] theorem execVminu_keepsMem : KeepsMem s (execVminu m s) := vecInt_keepsMem

@[simp] theorem execVmaxu_keepsMem : KeepsMem s (execVmaxu m s) := vecInt_keepsMem

@[simp] theorem execVand_keepsMem : KeepsMem s (execVand m s) := vecInt_keepsMem

@[simp] theorem execVor_keepsMem : KeepsMem s (execVor m s) := vecInt_keepsMem

@[simp] theorem execVxor_keepsMem : KeepsMem s (execVxor m s) := vecInt_keepsMem

@[simp] theorem execVshl_keepsMem : KeepsMem s (execVshl m s) := vecInt_keepsMem

@[simp] theorem execVshr_keepsMem : KeepsMem s (execVshr m s) := vecInt_keepsMem

@[simp] theorem execVsar_keepsMem : KeepsMem s (execVsar m s) := vecInt_keepsMem

@[simp] theorem execVadds16_keepsMem : KeepsMem s (execVadds16 m s) := vecInt_keepsMem

@[simp] theorem execVmin16_keepsMem : KeepsMem s (execVmin16 m s) := vecInt_keepsMem

@[simp] theorem execVmax16_keepsMem : KeepsMem s (execVmax16 m s) := vecInt_keepsMem

@[simp] theorem vecFloat_keepsMem {lat : Nat} {f : W32 → Nat → Nat → Nat → FRes} : KeepsMem s (vecFloat lat m s f) :=
  vectorFmtTrigger_keepsMem fun _ => by simp

@[simp] theorem execVfadd_keepsMem : KeepsMem s (execVfadd m s) := vecFloat_keepsMem

@[simp] theorem execVfsub_keepsMem : KeepsMem s (execVfsub m s) := vecFloat_keepsMem

@[simp] theorem execVfmul_keepsMem : KeepsMem s (execVfmul m s) := vecFloat_keepsMem

@[simp] theorem execVffma_keepsMem : KeepsMem s (execVffma m s) := vecFloat_keepsMem

@[simp] theorem execVfmin_keepsMem : KeepsMem s (execVfmin m s) := vecFloat_keepsMem

@[simp] theorem execVfmax_keepsMem : KeepsMem s (execVfmax m s) := vecFloat_keepsMem

@[simp] theorem execVfexp2_keepsMem : KeepsMem s (execVfexp2 m s) := vecFloat_keepsMem

@[simp] theorem execVflog2_keepsMem : KeepsMem s (execVflog2 m s) := vecFloat_keepsMem

@[simp] theorem execVfrcp_keepsMem : KeepsMem s (execVfrcp m s) := vecFloat_keepsMem

@[simp] theorem execVfrsqrt_keepsMem : KeepsMem s (execVfrsqrt m s) := vecFloat_keepsMem

@[simp] theorem execVcvtf_keepsMem : KeepsMem s (execVcvtf m s) :=
  vectorFmtTrigger_keepsMem fun _ => by simp

@[simp] theorem execVcvti_keepsMem : KeepsMem s (execVcvti m s) :=
  vectorFmtTrigger_keepsMem fun _ => by simp

@[simp] theorem execVpack_keepsMem : KeepsMem s (execVpack m s) := by
  refine vectorFmtTrigger_keepsMem fun _ => ?_
  dsimp only
  repeat' split
  all_goals simp

@[simp] theorem execVunpack_keepsMem : KeepsMem s (execVunpack m s) :=
  vectorFmtTrigger_keepsMem fun _ => by simp

@[simp] theorem vecCmp_keepsMem {p : W32 → W32 → Bool} : KeepsMem s (vecCmp m s p) :=
  vectorTrigger_keepsMem fun _ => by simp

@[simp] theorem execVcmpeq_keepsMem : KeepsMem s (execVcmpeq m s) := vecCmp_keepsMem

@[simp] theorem execVcmplt_keepsMem : KeepsMem s (execVcmplt m s) := vecCmp_keepsMem

@[simp] theorem execVcmple_keepsMem : KeepsMem s (execVcmple m s) := vecCmp_keepsMem

@[simp] theorem vecFcmp_keepsMem {kind : Nat} : KeepsMem s (vecFcmp kind m s) :=
  vectorFmtTrigger_keepsMem fun _ => by simp

@[simp] theorem execVfcmpeq_keepsMem : KeepsMem s (execVfcmpeq m s) := vecFcmp_keepsMem

@[simp] theorem execVfcmplt_keepsMem : KeepsMem s (execVfcmplt m s) := vecFcmp_keepsMem

@[simp] theorem execVfcmple_keepsMem : KeepsMem s (execVfcmple m s) := vecFcmp_keepsMem

@[simp] theorem execVsel_keepsMem : KeepsMem s (execVsel m s) :=
  vectorTrigger_keepsMem fun _ => by simp

@[simp] theorem execVperm_keepsMem : KeepsMem s (execVperm m s) :=
  vectorTrigger_keepsMem fun _ => by simp

@[simp] theorem execVbcast_keepsMem : KeepsMem s (execVbcast m s) :=
  scalarTrigger_keepsMem fun _ => by simp

@[simp] theorem execVextr_keepsMem : KeepsMem s (execVextr m s) :=
  scalarTrigger_keepsMem fun _ => by simp

@[simp] theorem execVins_keepsMem : KeepsMem s (execVins m s) :=
  scalarTrigger_keepsMem fun _ => by simp

@[simp] theorem vecRed_keepsMem {f : W32 → W32 → W32} {absent : W64} : KeepsMem s (vecRed m s f absent) :=
  vectorTrigger_keepsMem fun _ => by simp

@[simp] theorem execVredadd_keepsMem : KeepsMem s (execVredadd m s) := vecRed_keepsMem

@[simp] theorem execVredmin_keepsMem : KeepsMem s (execVredmin m s) := vecRed_keepsMem

@[simp] theorem execVredmax_keepsMem : KeepsMem s (execVredmax m s) := vecRed_keepsMem

@[simp] theorem vecFred_keepsMem {f : W32 → Nat → Nat → FRes} {absent : Nat} : KeepsMem s (vecFred m s f absent) :=
  vectorFmtTrigger_keepsMem fun _ => by simp

@[simp] theorem execVfredadd_keepsMem : KeepsMem s (execVfredadd m s) := vecFred_keepsMem

@[simp] theorem execVfredmax_keepsMem : KeepsMem s (execVfredmax m s) := vecFred_keepsMem

@[simp] theorem execVscan_keepsMem : KeepsMem s (execVscan m s) :=
  vectorTrigger_keepsMem fun _ => by simp

@[simp] theorem vecMask_keepsMem {f : W64 → W64 → W64} : KeepsMem s (vecMask m s f) :=
  scalarTrigger_keepsMem fun _ => by simp

@[simp] theorem execVmand_keepsMem : KeepsMem s (execVmand m s) := vecMask_keepsMem

@[simp] theorem execVmor_keepsMem : KeepsMem s (execVmor m s) := vecMask_keepsMem

@[simp] theorem execVmnot_keepsMem : KeepsMem s (execVmnot m s) := vecMask_keepsMem

@[simp] theorem execVmpopc_keepsMem : KeepsMem s (execVmpopc m s) := vecMask_keepsMem

/-! ## The Kiln as it runs (R120 to R141, R283 to R289) -/

@[simp] theorem execShadowConfigWrite_keepsMem {cmd : Nat} : KeepsMem s (execShadowConfigWrite cmd s) := by
  unfold execShadowConfigWrite
  split <;> simp

@[simp] theorem execSwitchTokenInject_keepsMem {cmd : Nat} : KeepsMem s (execSwitchTokenInject cmd s) := by
  unfold execSwitchTokenInject
  split <;> simp

@[simp] theorem execSwitchTokenArrival_keepsMem {i j : BitVec 6} : KeepsMem s (execSwitchTokenArrival i j s) := by
  unfold execSwitchTokenArrival
  split <;> simp

@[simp] theorem execKringApply_keepsMem {cmd : Nat} : KeepsMem s (execKringApply cmd s) := by
  unfold execKringApply
  split <;> simp

@[simp] theorem execKzeroApply_keepsMem {cmd : Nat} : KeepsMem s (execKzeroApply cmd s) := by
  unfold execKzeroApply
  split <;> simp

@[simp] theorem execDrainRow_keepsMem {cmd : Nat} : KeepsMem s (execDrainRow cmd s) := by
  unfold execDrainRow
  dsimp only
  repeat' split
  all_goals simp

@[simp] theorem execPassStart_keepsMem {pass : Nat} : KeepsMem s (execPassStart pass s) := by simp [execPassStart]

@[simp] theorem onPass_mem (pass : Nat) (f : Pass → Pass) : (s.onPass pass f).mem = s.mem := rfl

@[simp] theorem bookReads_mem (p : Pass) : (s.bookReads p).mem = s.mem := foldl_mem _ _ _ fun _ _ => rfl

@[simp] theorem execStreamUnitCheck_keepsMem {pass : Nat} : KeepsMem s (execStreamUnitCheck pass s) := by
  unfold execStreamUnitCheck
  dsimp only
  repeat' split
  all_goals simp

@[simp] theorem execBriquetteRead_keepsMem {pass : Nat} : KeepsMem s (execBriquetteRead pass s) := by
  unfold execBriquetteRead
  dsimp only
  repeat' split
  all_goals simp

@[simp] theorem triIssue_mem (p : Pass) (i j : Nat) : (s.triIssue p i j).mem = s.mem := by simp [State.triIssue]

@[simp] theorem execBeatArrival_keepsMem {pass : Nat} {i j : BitVec 6} : KeepsMem s (execBeatArrival pass i j s) := by
  unfold execBeatArrival
  dsimp only
  repeat' split
  all_goals simp

@[simp] theorem passWrites_mem (p : Pass) : (s.passWrites p).mem = s.mem := by
  simp only [State.passWrites, onPass_mem]
  exact foldl_mem _ _ _ fun _ _ => rfl

@[simp] theorem execWsPartialWrite_keepsMem {pass : Nat} : KeepsMem s (execWsPartialWrite pass s) := by
  unfold execWsPartialWrite
  split <;> simp

@[simp] theorem execWfOutputWrite_keepsMem {pass : Nat} : KeepsMem s (execWfOutputWrite pass s) := by
  unfold execWfOutputWrite
  dsimp only
  repeat' split
  all_goals simp

@[simp] theorem triFactor_mem (p : Pass) (q : Nat) : (s.triFactor p q).mem = s.mem := by simp [State.triFactor]

@[simp] theorem triSolution_mem (p : Pass) (h : Nat) : (s.triSolution p h).mem = s.mem := by
  unfold State.triSolution
  split <;> simp

@[simp] theorem execTriSolutionWrite_keepsMem {pass : Nat} : KeepsMem s (execTriSolutionWrite pass s) := by
  unfold execTriSolutionWrite
  split <;> simp

@[simp] theorem execPassRetire_keepsMem {pass : Nat} : KeepsMem s (execPassRetire pass s) := by
  unfold execPassRetire
  split <;> simp

@[simp] theorem execOutputRingAdvance_keepsMem {pass : Nat} : KeepsMem s (execOutputRingAdvance pass s) := by
  unfold execOutputRingAdvance
  split <;> simp

/-! ## VMEM (R238 to R244) -/

@[simp] theorem yields_vload (n : Nat) (f : Nat → VReg) (ea : Nat) (m0 : Mem) :
    Yields (fun t => t.mem = m0) (s.vload n f ea) ↔ ((s.vload n f ea).isOk = true → s.mem = m0) := by
  refine Yields.mem_iff ?_
  unfold State.vload
  split <;> simp

@[simp] theorem execVld_keepsMem : KeepsMem s (execVld m s) :=
  vmemOp_keepsMem fun _ => by simp

@[simp] theorem execVld8_keepsMem : KeepsMem s (execVld8 m s) :=
  vmemOp_keepsMem fun _ => by simp

@[simp] theorem yields_vstoreLocal (ea : Nat) (rows : List (Nat × Nat × Nat)) (m0 : Mem) :
    Yields (fun t => t.mem = m0) (s.vstoreLocal ea rows) ↔ ((s.vstoreLocal ea rows).isOk = true → s.mem = m0) :=
  Yields.mem_iff (by simp [State.vstoreLocal])

@[simp] theorem execVst_keepsMem : KeepsMem s (execVst m s) := by
  refine vmemOp_keepsMem fun ea => ?_
  split
  · simp
  · simp only [yields_bind, yields_must]
    intro _
    split <;> simp
  · exact yields_error _

@[simp] theorem execVldx_keepsMem : KeepsMem s (execVldx m s) := by
  refine vmemOp_keepsMem fun ea => ?_
  split
  · exact yields_error _
  · simp only [yields_bind]
    exact fun _ _ => (foldlM_leaves (fun st g => by simp) _ s).mono fun s1 h1 => by simp [h1]

@[simp] theorem execVstx_keepsMem : KeepsMem s (execVstx m s) := by
  refine vmemOp_keepsMem fun ea => ?_
  split
  · exact yields_error _
  · simp only [yields_bind, yields_must]
    exact fun _ => (foldlM_leaves (fun st g => by simp) _ s).mono fun s1 h1 => by simp [h1]

@[simp] theorem execVldr_keepsMem : KeepsMem s (execVldr m s) :=
  scalarTrigger_keepsMem fun _ => by simp

@[simp] theorem execVstr_keepsMem : KeepsMem s (execVstr m s) := by
  refine scalarTrigger_keepsMem fun t => ?_
  dsimp only
  split
  · refine (yields_bind _ _).mpr fun rows _ => ?_
    dsimp only
    split <;> simp
  · simp

@[simp] theorem execVlda_keepsMem : KeepsMem s (execVlda m s) :=
  vmemOp_keepsMem fun _ => by simp

@[simp] theorem execVsta_keepsMem : KeepsMem s (execVsta m s) :=
  vmemOp_keepsMem fun _ => by simp

@[simp] theorem execVacc_keepsMem : KeepsMem s (execVacc m s) :=
  slotMove_keepsMem (by simp)

/-! ## Landing and performing (R347 to R351) -/

@[simp] theorem land_mem : (s.land).mem = s.mem := rfl

@[simp] theorem execResultLand_keepsMem : KeepsMem s (execResultLand s) := by simp [execResultLand]

/-! ## CTL (R323 to R331) -/

@[simp] theorem execNop_keepsMem : KeepsMem s (execNop m s) :=
  scalarTrigger_keepsMem fun _ => by simp

@[simp] theorem execFmt_keepsMem : KeepsMem s (execFmt m s) :=
  scalarTrigger_keepsMem fun _ => by simp

@[simp] theorem execCsrr_keepsMem : KeepsMem s (execCsrr m s) := by
  refine slotMove_keepsMem ?_
  dsimp only
  split
  · exact yields_error _
  · split <;> simp

@[simp] theorem execCsrw_keepsMem : KeepsMem s (execCsrw m s) := by
  refine scalarTrigger_keepsMem fun _ => ?_
  dsimp only
  repeat' split
  all_goals simp

@[simp] theorem execFence_keepsMem : KeepsMem s (execFence m s) :=
  scalarTrigger_keepsMem fun _ => by split <;> simp

@[simp] theorem execBar_keepsMem : KeepsMem s (execBar m s) := by
  refine scalarTrigger_keepsMem fun _ => ?_
  dsimp only
  repeat' split
  all_goals simp

@[simp] theorem execBarrierComplete_keepsMem : KeepsMem s (execBarrierComplete s) := by
  unfold execBarrierComplete
  dsimp only
  split <;> simp

@[simp] theorem execTrap_keepsMem : KeepsMem s (execTrap m s) :=
  scalarTrigger_keepsMem fun _ => by simp

@[simp] theorem execHalt_keepsMem : KeepsMem s (execHalt m s) :=
  scalarTrigger_keepsMem fun _ => by simp

@[simp] theorem execCond_keepsMem : KeepsMem s (execCond m s) :=
  scalarTrigger_keepsMem fun _ => by simp

@[simp] theorem execSegend_keepsMem : KeepsMem s (execSegend m s) :=
  scalarTrigger_keepsMem fun _ => by split <;> simp

@[simp] theorem execTsc_keepsMem : KeepsMem s (execTsc m s) :=
  scalarTrigger_keepsMem fun _ => by simp

@[simp] theorem execMark_keepsMem : KeepsMem s (execMark m s) :=
  scalarTrigger_keepsMem fun _ => by simp

/-! ## SPS (R86, R87, R297 to R302) -/

@[simp] theorem execSopen_keepsMem : KeepsMem s (execSopen m s) := by
  refine scalarTrigger_keepsMem fun _ => ?_
  simp only [yields_bind, yields_must, yields_readDesc]
  repeat' split
  all_goals simp

@[simp] theorem yields_spsIssue (d : Desc) (op : SpsOp) (ins : List SSlot) (m0 : Mem) :
    Yields (fun t => t.mem = m0) (s.spsIssue d op ins) ↔ ((s.spsIssue d op ins).isOk = true → s.mem = m0) := by
  refine Yields.mem_iff ?_
  unfold State.spsIssue
  dsimp only
  split <;> simp

@[simp] theorem spsPair_keepsMem {port : Nat} {op : SpsOp} : KeepsMem s (spsPair port op m s) :=
  scalarTrigger_keepsMem fun _ => by simp

@[simp] theorem execSisect_keepsMem : KeepsMem s (execSisect m s) := spsPair_keepsMem

@[simp] theorem execSisectc_keepsMem : KeepsMem s (execSisectc m s) := spsPair_keepsMem

@[simp] theorem execSdiff_keepsMem : KeepsMem s (execSdiff m s) := spsPair_keepsMem

@[simp] theorem execSmerge_keepsMem : KeepsMem s (execSmerge m s) :=
  scalarTrigger_keepsMem fun _ => by simp

@[simp] theorem execSread_keepsMem : KeepsMem s (execSread m s) :=
  scalarTrigger_keepsMem fun _ => by simp

theorem bindDesc_leaves (t : W64) : Yields (fun x => x.1.mem = s.mem) (s.bindDesc t) := by
  unfold State.bindDesc
  split <;> simp

@[simp] theorem execSwbind_keepsMem : KeepsMem s (execSwbind m s) := by
  refine scalarTrigger_keepsMem fun t => (yields_bind _ _).mpr ((bindDesc_leaves t).mono fun x hx => ?_)
  by_cases hleft : (bindOf x.2).count - s.core.gotIndices.length = 0 <;> simp [hx, hleft]

@[simp] theorem execSwfree_keepsMem : KeepsMem s (execSwfree m s) :=
  scalarTrigger_keepsMem fun _ => by simp

@[simp] theorem execWindowBindingSwitch_keepsMem {cmd : Nat} : KeepsMem s (execWindowBindingSwitch cmd s) := by
  unfold execWindowBindingSwitch
  split <;> simp

@[simp] theorem execSpsCommandStart_keepsMem : KeepsMem s (execSpsCommandStart s) := by
  rw [execSpsCommandStart, keepsMem_next]
  refine foldl_mem _ _ _ fun st c => ?_
  dsimp only
  split
  · refine foldl_mem _ _ _ fun st p => ?_
    split <;> simp
  · repeat' split
    all_goals simp

@[simp] theorem spsForm_mem (c : SpsCmd) : (s.spsForm c).mem = s.mem := by
  unfold State.spsForm
  dsimp only
  split
  · rfl
  · split
    · rfl
    · refine foldl_mem _ _ _ fun st p => ?_
      split <;> simp

@[simp] theorem execSpsDue_keepsMem : KeepsMem s (execSpsDue s) := by simp [execSpsDue]

/-! ## Tile instructions at issue (R330, R367 to R376) -/

@[simp] theorem execTissue_keepsMem : KeepsMem s (execTissue m s) :=
  scalarTrigger_keepsMem fun _ => by simp

@[simp] theorem execTstat_keepsMem : KeepsMem s (execTstat m s) :=
  scalarTrigger_keepsMem fun _ => by split <;> simp

/-! ## A slot by its unit and port (R183 to R193) -/

theorem unitMeanings_keepsMem (k : Nat) : ∀ f ∈ unitMeanings k, KeepsMem s (f m s) := by
  unfold unitMeanings
  split <;> simp [alu0Meanings, alu1Meanings, mulMeanings, fpsMeanings, aguMeanings, bruMeanings, vecMeanings, vmemMeanings, klnMeanings,
    cpyMeanings, spsMeanings, embMeanings, fabMeanings, ctlMeanings]

@[simp] theorem runSlot_keepsMem (r : RawMove) : KeepsMem s (runSlot r s) := by
  unfold runSlot
  split
  · simp
  · split
    · simp
    · split
      · simp
      · split
        · next f hf => exact unitMeanings_keepsMem _ f (List.mem_of_getElem? hf)
        · simp

theorem runSlot_mem (r : RawMove) {t : State} (h : runSlot r s = .next t) : t.mem = s.mem := runSlot_keepsMem r t h

/-! ## Issue (R178 to R181, R216, R217, R225) -/

@[simp] theorem takeWhole_mem (k : Nat) (e : Exc) : (s.takeWhole k e).mem = s.mem := by simp [State.takeWhole]

@[simp] theorem portWrites_mem (l : List (Nat × RawMove)) : (s.portWrites l).mem = s.mem := by
  induction l generalizing s with
  | nil => rfl
  | cons x l ih =>
    obtain ⟨k, r⟩ := x
    unfold State.portWrites
    split
    · split
      · next s' hs' =>
        rw [ih]
        split
        · exact (runSlot_mem r hs').trans (onCore_mem _ _)
        · rfl
      · exact ih
    · exact ih

@[simp] theorem stopAt_mem (s0 : State) (k : Nat) (todo : List (Nat × RawMove)) : (s0.stopAt s k todo).mem = s.mem := rfl

@[simp] theorem sample_mem (guards : Nat) : (s.sample guards).mem = s.mem := by simp [State.sample]

/-- Whatever state a run of slots names has the memory of s. -/
def Ran.KeepsMem (s : State) : Ran → Prop
  | .done t | .stopped _ t | .held t _ => t.mem = s.mem
  | .out o => Machine.KeepsMem s o

theorem runSlots_keepsMem (l : List (Nat × RawMove)) (items : List Late) {s s0 : State} (h : s.mem = s0.mem) :
    (runSlots l items s).KeepsMem s0 := by
  induction l generalizing items s with
  | nil => cases items <;> exact h
  | cons x l ih =>
    obtain ⟨k, r⟩ := x
    unfold runSlots
    split
    · next s' hs' =>
      have hmem : s'.mem = s0.mem := (runSlot_mem r hs').trans h
      split
      · split
        · exact hmem
        · exact h
      · exact ih _ h
      · exact ih _ hmem
    · exact fun t ht => (runSlot_mem r ht).trans h

theorem conflictUndone_mem {s1 s' : State} (todo : List (Nat × RawMove)) (k : Nat) (h : s'.mem = s1.mem) :
    (s1.conflictUndone s' todo k).mem = s1.mem := by
  unfold State.conflictUndone
  split
  · next st _ =>
    have hran := runSlots_keepsMem (todo.filter fun m => m.1 < k && m.2.unit != st.finfo / 256 % 16) [] (rfl : s1.mem = s1.mem)
    split
    · generalize runSlots _ _ _ = r at hran ⊢
      cases r with
      | done t => exact (take_mem _ _ _).trans hran
      | stopped | held | out => exact h
    · exact h
  · exact h

theorem actBundle_keepsMem (before : State) {s0 : State} {b : Bundle} (h : s0.mem = before.mem) :
    KeepsMem before (before.actBundle s0 b) := by
  unfold State.actBundle
  dsimp only
  generalize hs1 : (s0.onCore fun c => { c with curHdr := b.hdr }) = s1
  have h1 : s1.mem = before.mem := by rw [← hs1]; exact h
  generalize (b.moves.filter fun m => !s1.core.doneMask.getLsbD m.1) = todo
  have hports : (s1.portWrites todo).mem = before.mem := (portWrites_mem todo).trans h1
  have hran := runSlots_keepsMem todo [] hports
  split
  · simp
  split
  · simp
  generalize runSlots todo [] (s1.portWrites todo) = r at hran
  cases r with
  | out o => exact hran
  | stopped k t =>
    rw [keepsMem_next, stopAt_mem, conflictUndone_mem _ _ (hran.trans hports.symm), hports]
  | held t items => exact (keepsMem_next _ _).mpr h
  | done t =>
    rw [keepsMem_next]
    exact (sample_mem _).trans hran

@[simp] theorem execBundleIssue_keepsMem : KeepsMem s (execBundleIssue s) := by
  unfold execBundleIssue
  dsimp only
  split
  · simp
  · split
    · simp
    · exact actBundle_keepsMem s (by simp)

@[simp] theorem execNullifiedPosition_keepsMem : KeepsMem s (execNullifiedPosition s) := by
  unfold execNullifiedPosition
  dsimp only
  split <;> simp

@[simp] theorem execBreakpointHit_keepsMem : KeepsMem s (execBreakpointHit s) := by simp [execBreakpointHit]

@[simp] theorem execWaitEnd_keepsMem : KeepsMem s (execWaitEnd s) := by simp [execWaitEnd]

/-! ## The graph walker (R30 to R35) -/

@[simp] theorem walkFault_mem (w : Walk) (e : Exc) : (s.walkFault w e).mem = s.mem := by simp [State.walkFault]

@[simp] theorem passNode_mem (w : Walk) (n : Node) : (s.passNode w n).mem = s.mem := by simp [State.passNode]

@[simp] theorem execSegmentWalk_keepsMem : KeepsMem s (execSegmentWalk s) := by
  unfold execSegmentWalk
  dsimp only
  repeat' split
  all_goals simp

/-! ## Steps of the memory system (R80, R90, R113) -/

@[simp] theorem inboundRaise_mem (rank grp off : Nat) : (s.inboundRaise rank grp off).mem = s.mem := rfl

@[simp] theorem pushLive_mem (p : Push) : (s.pushLive p).mem = s.mem := by
  unfold State.pushLive
  dsimp only
  split
  · exact (inboundRaise_mem _ _ _).trans (foldl_mem _ _ _ fun _ _ => rfl)
  · exact foldl_mem _ _ _ fun _ _ => rfl

@[simp] theorem pushesServed_mem : (s.pushesServed).mem = s.mem := rfl

@[simp] theorem refusePush_mem (p : Push) : (s.refusePush p).mem = s.mem := rfl

@[simp] theorem execOpportunisticWrite_keepsMem : KeepsMem s (execOpportunisticWrite s) := by simp [execOpportunisticWrite]

@[simp] theorem execRaceException_keepsMem : KeepsMem s (execRaceException s) := by
  unfold execRaceException
  split <;> simp

/-! ## Fabric operations at the island (R309 to R322, R438) -/

@[simp] theorem sendReq_mem (t : Nat) (r : RemoteReq) : (s.sendReq t r).mem = s.mem := by simp [State.sendReq]

@[simp] theorem onOwner_mem (o : FOp) (f : Core → Core) : (s.onOwner o f).mem = s.mem := by simp [State.onOwner]

@[simp] theorem storeLost_mem (o : FOp) (t : Nat) : (s.storeLost o t).mem = s.mem := by simp [State.storeLost]

@[simp] theorem releaseLost_mem (o : FOp) (t n : Nat) : (s.releaseLost o t n).mem = s.mem := by simp [State.releaseLost]

@[simp] theorem uncount_mem (o : FOp) : (s.uncount o).mem = s.mem := by
  unfold State.uncount
  split <;> simp

@[simp] theorem addOp_mem (o : FOp) : (s.addOp o).mem = s.mem := rfl

@[simp] theorem sendOne_mem (o : FOp) (t addr : Nat) (op : RemoteOp) : (s.sendOne o t addr op).mem = s.mem := by
  unfold State.sendOne
  split <;> simp

@[simp] theorem sendGroup_mem (o : FOp) (gr : FGroup) (mk : Nat → Nat × RemoteOp) : (s.sendGroup o gr mk).mem = s.mem :=
  by simp [State.sendGroup]

@[simp] theorem sendArrivals_mem (key seq : Nat) (members : List Nat) : (s.sendArrivals key seq members).mem = s.mem :=
  by simp [State.sendArrivals]

@[simp] theorem setGroup_mem (o : FOp) (g : Nat) (clr : Bool) (key : Nat) (members : List (Nat × Nat)) :
    (s.setGroup o g clr key members).mem = s.mem := rfl

@[simp] theorem islandTake_mem (core : Nat) (launch : W64) (c : FabCmd) : (s.islandTake core launch c).mem = s.mem := by
  unfold State.islandTake
  dsimp only
  repeat' split
  all_goals simp

@[simp] theorem execFabSend_keepsMem {cmd : Nat} : KeepsMem s (execFabSend cmd s) := by
  unfold execFabSend
  dsimp only
  repeat' split
  all_goals simp

@[simp] theorem answer_mem (r : RemoteReq) (code : Nat) (data : List Byte) : (s.answer r code data).mem = s.mem := by simp [State.answer]

@[simp] theorem countStore_mem (r : RemoteReq) : (s.countStore r).mem = s.mem := by
  unfold State.countStore
  split <;> rfl

@[simp] theorem spendCount_mem (r : RemoteReq) : (s.spendCount r).mem = s.mem := by
  unfold State.spendCount
  split <;> rfl

@[simp] theorem refuseReq_mem (r : RemoteReq) (code : Nat) : (s.refuseReq r code).mem = s.mem := by simp [State.refuseReq]

@[simp] theorem holdReq_mem (r : RemoteReq) (i off : Nat) : (s.holdReq r i off).mem = s.mem := by
  unfold State.holdReq
  split <;> simp

@[simp] theorem serveRead_mem (r : RemoteReq) (t : Target) (len : Nat) : (s.serveRead r t len).mem = s.mem := by
  unfold State.serveRead
  split <;> simp

@[simp] theorem answerWord_mem (h : HeldFlag) : (s.answerWord h).mem = s.mem := by
  unfold State.answerWord
  dsimp only
  repeat' split
  all_goals simp

@[simp] theorem execRemoteReply_keepsMem {r : RemoteRes} {s0 : State} : KeepsMem s0 (execRemoteReply r s0) := by
  unfold execRemoteReply
  dsimp only
  repeat' split
  all_goals simp

@[simp] theorem execFbarArrival_keepsMem {key : W32} {seq : Nat} {m : BitVec 12} : KeepsMem s (execFbarArrival key seq m s) :=
  by simp [execFbarArrival]

@[simp] theorem failPending_mem : (s.failPending).mem = s.mem := by simp [State.failPending]

@[simp] theorem execFlueReset_keepsMem : KeepsMem s (execFlueReset s) := by
  unfold execFlueReset
  split <;> simp

/-! ## The lines that tiles peek at (R369 to R375) -/

@[simp] theorem markPeeks_mem (rs : List (Nat × Nat)) : (s.markPeeks rs).mem = s.mem := by
  refine foldl_mem _ _ _ fun st u => ?_
  dsimp only
  repeat' split
  all_goals simp

/-! ## Tile instructions at work (R376 to R388) -/

@[simp] theorem onTile_mem (id : Nat) (f : TileInstr → TileInstr) : (s.onTile id f).mem = s.mem := rfl

@[simp] theorem onPart_mem (f : TilePart → TilePart) : (s.onPart f).mem = s.mem := rfl

@[simp] theorem onIssuer_mem (x : TileInstr) (f : Core → Core) : (s.onIssuer x f).mem = s.mem := by simp [State.onIssuer]

@[simp] theorem tileFault_mem (id code row col opnd addr level rank core clus : Nat) :
    (s.tileFault id code row col opnd addr level rank core clus).mem = s.mem := rfl

@[simp] theorem execTileSplit_keepsMem {id : Nat} : KeepsMem s (execTileSplit id s) := by
  unfold execTileSplit
  split
  · simp
  split
  · simp
  dsimp only
  generalize hs2 : State.onTile _ id _ = s2
  have h2 : s2.mem = s.mem := by
    rw [← hs2]
    simp
  split
  · simp [h2]
  split
  · rw [keepsMem_next]
    exact (foldl_mem _ _ _ fun _ _ => tileFault_mem _ _ _ _ _ _ _ _ _ _).trans h2
  · generalize hs3 : (if pooled _ then State.setCore _ _ _ else s2) = s3
    have h3 : s3.mem = s.mem := by
      rw [← hs3]
      split <;> simp [h2]
    split
    · exact (keepsMem_next _ _).mpr ((tileFault_mem _ _ _ _ _ _ _ _ _ _).trans h3)
    · rw [keepsMem_next]
      exact (foldl_mem _ _ _ fun _ _ => setCore_mem _ _ _).trans ((onTile_mem _ _).trans h3)

@[simp] theorem traceClaim_mem (word : List Nat) (t : Nat) : (s.traceClaim word t).mem = s.mem := rfl

@[simp] theorem execTilePartStart_keepsMem : KeepsMem s (execTilePartStart s) := by
  have hclaims : ∀ (todo : List Nat) (p : TilePart), (todo.foldl (fun st t => st.traceClaim p.word t) s).mem = s.mem := fun _ _ =>
    foldl_mem _ _ _ fun _ _ => rfl
  unfold execTilePartStart
  split
  · split
    · simp
    · simp [apply_ite State.mem, hclaims]
  · simp

@[simp] theorem execTileClaim_keepsMem : KeepsMem s (execTileClaim s) := by
  unfold execTileClaim
  dsimp only
  repeat' split
  all_goals simp

@[simp] theorem tileBegin_mem (p : TilePart) (t : Nat) : (s.tileBegin p t).mem = s.mem := by
  unfold State.tileBegin
  split <;> simp

@[simp] theorem onRun_mem (t : Nat) (f : TileRun → TileRun) : (s.onRun t f).mem = s.mem := rfl

@[simp] theorem absorbTile_mem : (s.absorbTile).mem = s.mem := rfl

@[simp] theorem tileRead_mem (p : TilePart) (t : Nat) (a : TileAsk) : (s.tileRead p t a).mem = s.mem := by
  unfold State.tileRead
  dsimp only
  repeat' split
  all_goals simp

@[simp] theorem tileCwp_mem (ch n : Nat) : (s.tileCwp ch n).mem = s.mem := rfl

@[simp] theorem tileFails_mem (p : TilePart) (r : TileRun) (code row col opnd addr : Nat) :
    (s.tileFails p r code row col opnd addr).mem = s.mem := rfl

@[simp] theorem tileCopyIn_mem (p : TilePart) (r : TileRun) (c : Nat) : (s.tileCopyIn p r c).mem = s.mem := by
  unfold State.tileCopyIn
  dsimp only
  split <;> simp

@[simp] theorem tileCells_mem (w : List Nat) (t : Nat) (accs : List (List Nat)) : (s.tileCells w t accs).mem = s.mem := rfl

@[simp] theorem tilePass_mem (p : TilePart) (r : TileRun) (c : Nat) : (s.tilePass p r c).mem = s.mem := by simp [State.tilePass]

@[simp] theorem tileDrain_mem (p : TilePart) (r : TileRun) : (s.tileDrain p r).mem = s.mem := by
  unfold State.tileDrain
  dsimp only
  split <;> simp

@[simp] theorem tileElement_mem (p : TilePart) (r : TileRun) : (s.tileElement p r).mem = s.mem := by simp [State.tileElement]

@[simp] theorem tileUnitOut_mem (p : TilePart) (r : TileRun) (u : Nat × List Byte) : (s.tileUnitOut p r u).mem = s.mem := by
  unfold State.tileUnitOut
  dsimp only
  repeat' split
  all_goals simp

@[simp] theorem tileCopyOut_mem (p : TilePart) (r : TileRun) : (s.tileCopyOut p r).mem = s.mem := rfl

@[simp] theorem tileFlow_mem : s.tileFlow.mem = s.mem := by
  unfold State.tileFlow
  split
  · rfl
  · have hread : ∀ (p : TilePart) (rs : List TileRun) (s : State),
        (rs.foldl (fun st r => r.asksNow.foldl (fun st a => st.tileRead p r.tile a) st) s).mem = s.mem := fun _ _ _ =>
      foldl_mem _ _ _ fun _ _ => foldl_mem _ _ _ fun _ _ => tileRead_mem _ _ _
    dsimp only
    split
    · exact hread _ _ _
    · next r hr =>
      cases r.outs.head? <;> simp [hread]

@[simp] theorem tileCmd_mem (p : TilePart) (r : TileRun) (k : TileCmd) : (s.tileCmd p r k).mem = s.mem := by
  unfold State.tileCmd
  split <;> simp

@[simp] theorem tileRunCmds_mem (elem : Bool) (fuel : Nat) : (s.tileRunCmds elem fuel).mem = s.mem := by
  induction fuel generalizing s with
  | zero => rfl
  | succ fuel ih =>
    unfold State.tileRunCmds
    split
    · rfl
    · split
      · rfl
      · simp [ih]

@[simp] theorem execSequencerCommandIssue_keepsMem : KeepsMem s (execSequencerCommandIssue s) := by
  unfold execSequencerCommandIssue
  dsimp only
  split <;> simp

@[simp] theorem execElementUnitStep_keepsMem : KeepsMem s (execElementUnitStep s) := by simp [execElementUnitStep]

@[simp] theorem execTilePartComplete_keepsMem : KeepsMem s (execTilePartComplete s) := by
  unfold execTilePartComplete
  dsimp only
  repeat' split
  all_goals simp

@[simp] theorem publishTile_mem (x : TileInstr) : (s.publishTile x).mem = s.mem := by simp [State.publishTile]

/-! ## Late items and holds (R355 to R360) -/

@[simp] theorem imposedHold_mem (items : List Late) : (s.imposedHold items).mem = s.mem := rfl

@[simp] theorem timingStop_mem (items : List Late) : (s.timingStop items).mem = s.mem := rfl

@[simp] theorem lateLanding_mem (items : List Late) : (s.lateLanding items).mem = s.mem := by
  unfold State.lateLanding
  split <;> simp

@[simp] theorem heldCycle_mem (h : Hold) : (s.heldCycle h).mem = s.mem := rfl

@[simp] theorem execHoldEnd_keepsMem : KeepsMem s (execHoldEnd s) := by
  unfold execHoldEnd
  repeat' split
  all_goals simp

/-! ## The cycle of a core (R36, R97, R357) -/

@[simp] theorem openCycle_mem (stream : List Instr) : (s.openCycle stream).mem = s.mem := rfl

@[simp] theorem orphan_mem (slot : Nat) : (s.orphan slot).mem = s.mem := by
  unfold State.orphan
  split <;> rfl

@[simp] theorem beginRun_mem : (s.beginRun).mem = s.mem := by
  unfold State.beginRun
  dsimp only
  repeat' split
  all_goals simp

@[simp] theorem execLateItem_keepsMem : KeepsMem s (execLateItem s) := by simp [execLateItem]

@[simp] theorem beginCycle_mem (s0 : State) : (s0.beginCycle).mem = s0.mem := by
  unfold State.beginCycle
  dsimp only
  repeat' split
  all_goals simp

@[simp] theorem refocus_mem (i : Nat) : (s.refocus i).mem = s.mem := by simp [State.refocus]

/-! ## Context frames (R416 to R425) -/

@[simp] theorem setFaultmap_mem (slot : Nat) : (s.setFaultmap slot).mem = s.mem := by simp [State.setFaultmap]

@[simp] theorem onLaunch_mem (slot : Nat) (f : Launch → Launch) : (s.onLaunch slot f).mem = s.mem := rfl

@[simp] theorem presentAgain_mem : (s.presentAgain).mem = s.mem := rfl

@[simp] theorem renewFrame_mem (slot i : Nat) : (s.renewFrame slot i).mem = s.mem := by
  unfold State.renewFrame
  dsimp only
  split <;> simp

@[simp] theorem launchBack_mem (slot : Nat) : (s.launchBack slot).mem = s.mem := by
  unfold State.launchBack
  split <;> simp

/-! ## Queues and the scheduler (R396 to R408) -/

@[simp] theorem onQueue_mem (q : Nat) (f : Queue → Queue) : (s.onQueue q f).mem = s.mem := rfl

@[simp] theorem queueError_mem (q code idx : Nat) : (s.queueError q code idx).mem = s.mem := by simp [State.queueError]

@[simp] theorem popHead_mem (q : Nat) : (s.popHead q).mem = s.mem := rfl

@[simp] theorem awaitVictims_mem (p : Placing) : (s.awaitVictims p).mem = s.mem := rfl

theorem takeSlot_mem {q : Nat} {words : List Nat} {r : Rect} {t : State} (h : s.takeSlot q words r = some t) : t.mem = s.mem := by
  unfold State.takeSlot at h
  split at h
  · cases h; rfl
  · cases h

theorem getD_takeSlot_mem (q : Nat) (words : List Nat) (r : Rect) {t : State} (h : s.mem = t.mem) :
    ((s.takeSlot q words r).getD t).mem = t.mem := by
  cases hs : s.takeSlot q words r with
  | none => rfl
  | some u => exact (takeSlot_mem hs).trans h

@[simp] theorem placeHead_mem (c : Cand) (r : Rect) (victims : List Launch) : (s.placeHead c r victims).mem = s.mem := by
  unfold State.placeHead
  split
  · exact getD_takeSlot_mem _ _ _ rfl
  · exact awaitVictims_mem _

@[simp] theorem restoreLaunch_mem (slot : Nat) : (s.restoreLaunch slot).mem = s.mem := by
  unfold State.restoreLaunch
  split <;> simp

@[simp] theorem placeSuspended_mem (c : Cand) (r : Rect) (victims : List Launch) : (s.placeSuspended c r victims).mem = s.mem :=
  by simp [State.placeSuspended]

@[simp] theorem promiseBreak_mem (kind id ns : Nat) : (s.promiseBreak kind id ns).mem = s.mem := rfl

@[simp] theorem startCores_mem (l : Launch) (ls : List Leaf) : (s.startCores l ls).mem = s.mem := by
  unfold State.startCores
  refine foldl_mem _ _ _ fun st i => ?_
  dsimp only
  split <;> simp

@[simp] theorem startTile_mem (l : Launch) (ls : List Leaf) : (s.startTile l ls).mem = s.mem := by simp [State.startTile]

@[simp] theorem dropLaunch_mem (slot : Nat) : (s.dropLaunch slot).mem = s.mem := rfl

@[simp] theorem askStops_mem (l : Launch) : (s.askStops l).mem = s.mem := by
  unfold State.askStops
  refine foldl_mem _ _ _ fun st i => ?_
  dsimp only
  split <;> simp

@[simp] theorem suspend_mem (l : Launch) : (s.suspend l).mem = s.mem := by
  unfold State.suspend
  dsimp only
  split <;> simp

@[simp] theorem placingDone_mem (p : Placing) : (s.placingDone p).mem = s.mem := by
  unfold State.placingDone
  split
  · rfl
  · dsimp only
    split
    · split
      · exact getD_takeSlot_mem _ _ _ (onMod_mem _ _)
      · rfl
    · simp

@[simp] theorem execPreemptVictims_keepsMem : KeepsMem s (execPreemptVictims s) := by
  rw [execPreemptVictims, keepsMem_next, foldl_mem _ _ _ fun _ _ => placingDone_mem _]
  refine (foldl_mem _ _ _ fun st l => ?_).trans (foldl_mem _ _ _ fun _ _ => askStops_mem _)
  split <;> simp

@[simp] theorem publishLaunch_mem (l : Launch) : (s.publishLaunch l).mem = s.mem := by
  simp only [State.publishLaunch]

@[simp] theorem execQtailWrite_keepsMem {q : BitVec 6} {v : W64} : KeepsMem s (execQtailWrite q v s) := by
  unfold execQtailWrite
  dsimp only
  repeat' split
  all_goals simp

@[simp] theorem execQctlWrite_keepsMem {q : BitVec 6} {v : W64} : KeepsMem s (execQctlWrite q v s) := by
  unfold execQctlWrite
  dsimp only
  split <;> simp

/-! ## The invalidation ring and trace sessions (R415, R427) -/

@[simp] theorem onTrace_mem (i : Nat) (f : Trace → Trace) : (s.onTrace i f).mem = s.mem := by simp [State.onTrace]

@[simp] theorem takeAsids_mem (n : Nat) : (s.takeAsids n).mem = s.mem := by simp [State.takeAsids]

@[simp] theorem execInvalidationEntry_keepsMem : KeepsMem s (execInvalidationEntry s) := by
  unfold execInvalidationEntry
  split <;> simp

/-! ## Errors, retirement, power and alarms (R450 to R464) -/

@[simp] theorem setRetired_mem (i : Nat) (on : Bool) : (s.setRetired i on).mem = s.mem := rfl

@[simp] theorem returnCore_mem (i : Nat) : (s.returnCore i).mem = s.mem := by simp [State.returnCore]

@[simp] theorem execPatrolScrub_keepsMem {addr : W64} : KeepsMem s (execPatrolScrub addr s) := by
  unfold execPatrolScrub
  dsimp only
  split <;> simp

@[simp] theorem execInstructionRefetch_keepsMem : KeepsMem s (execInstructionRefetch s) := by
  unfold execInstructionRefetch
  dsimp only
  repeat' split
  all_goals simp

@[simp] theorem logIsland_mem (n : Nat) (x y : Isl) (cause : Nat) : (s.logIsland n x y cause).mem = s.mem := by simp [State.logIsland]

@[simp] theorem setIsland_mem (n : Nat) (f : Isl → Isl) (cause : Nat) : (s.setIsland n f cause).mem = s.mem := by simp [State.setIsland]

@[simp] theorem execPstateWrite_keepsMem {island : BitVec 5} {v : W64} : KeepsMem s (execPstateWrite island v s) := by
  unfold execPstateWrite
  dsimp only
  split <;> simp

@[simp] theorem execRelock_keepsMem {island : BitVec 4} : KeepsMem s (execRelock island s) := by
  unfold execRelock
  dsimp only
  split <;> simp

@[simp] theorem execRelockEnd_keepsMem {island : BitVec 4} : KeepsMem s (execRelockEnd island s) := by
  unfold execRelockEnd
  dsimp only
  split <;> simp

@[simp] theorem execGateRequest_keepsMem {island : BitVec 4} : KeepsMem s (execGateRequest island s) := by
  unfold execGateRequest
  split <;> simp

@[simp] theorem execIslandGated_keepsMem {island : BitVec 4} : KeepsMem s (execIslandGated island s) := by
  unfold execIslandGated
  split <;> simp

@[simp] theorem execIslandWake_keepsMem {island : BitVec 4} : KeepsMem s (execIslandWake island s) := by
  unfold execIslandWake
  split <;> simp

@[simp] theorem execWakeComplete_keepsMem {island : BitVec 4} : KeepsMem s (execWakeComplete island s) := by
  unfold execWakeComplete
  split <;> simp

@[simp] theorem execThrottleStep_keepsMem {island : BitVec 5} {up : Bool} : KeepsMem s (execThrottleStep island up s) := by
  unfold execThrottleStep
  split <;> simp

@[simp] theorem execPcapWrite_keepsMem {v : W64} : KeepsMem s (execPcapWrite v s) := by
  unfold execPcapWrite
  dsimp only
  split <;> simp

@[simp] theorem alarm_mem (sensors : BitVec 4) : (s.alarm sensors).mem = s.mem := by simp [State.alarm]

@[simp] theorem execSecurityAlarm_keepsMem {sensor : BitVec 4} : KeepsMem s (execSecurityAlarm sensor s) := by simp [execSecurityAlarm]

@[simp] theorem execAlarmSensorClear_keepsMem {sensor : BitVec 4} : KeepsMem s (execAlarmSensorClear sensor s) :=
  by simp [execAlarmSensorClear]

@[simp] theorem execAlarmRelease_keepsMem : KeepsMem s (execAlarmRelease s) := by
  unfold execAlarmRelease
  split <;> simp

/-! ## Boot, attestation and resets (R441 to R449) -/

@[simp] theorem checkImage_mem (m : Mem) : (s.checkImage m).mem = s.mem := by
  unfold State.checkImage
  dsimp only
  generalize imageFail m = fail
  split <;> rfl

@[simp] theorem execFirmwareBoot_keepsMem : KeepsMem s (execFirmwareBoot s) := by
  unfold execFirmwareBoot
  split <;> simp

@[simp] theorem execRecoveryLoad_keepsMem : KeepsMem s (execRecoveryLoad s) := by
  unfold execRecoveryLoad
  split <;> simp

@[simp] theorem execAttestationRequest_keepsMem : KeepsMem s (execAttestationRequest s) := by
  unfold execAttestationRequest
  split <;> simp

@[simp] theorem refuseHeld_mem : (s.refuseHeld).mem = s.mem := by simp [State.refuseHeld]

@[simp] theorem resetDies_mem : (s.resetDies).mem = s.mem := rfl

/-! ## What the host reaches (R393 to R397, R430) -/

@[simp] theorem onHost_mem (f : HostRegs → HostRegs) : (s.onHost f).mem = s.mem := rfl

@[simp] theorem queueWrite_mem (q r : Nat) (v : W64) : (s.queueWrite q r v).mem = s.mem := by
  unfold State.queueWrite
  split <;> simp

@[simp] theorem bar0Write_mem (off : Nat) (v : W64) : (s.bar0Write off v).mem = s.mem := by
  unfold State.bar0Write
  split
  · rfl
  split
  · exact onHost_mem _
  split
  · exact later_mem _ _
  split
  · exact onHost_mem _
  split
  · exact onHost_mem _
  split
  · exact queueWrite_mem _ _ _
  split
  · exact onHost_mem _
  · rfl

@[simp] theorem resetWrite_mem (v : Nat) : (s.resetWrite v).mem = s.mem := by
  unfold State.resetWrite
  dsimp only
  repeat' split
  all_goals simp

@[simp] theorem islctlWrite_mem (n : Nat) (v : W64) : (s.islctlWrite n v).mem = s.mem := by simp [State.islctlWrite]

@[simp] theorem flctlWrite_mem (v : Nat) : (s.flctlWrite v).mem = s.mem := by simp [State.flctlWrite]

@[simp] theorem flueWrite_mem (o : Nat) (v : W64) : (s.flueWrite o v).mem = s.mem := by
  unfold State.flueWrite
  dsimp only
  split
  · rfl
  split
  · simp
  split
  · split <;> rfl
  split
  · split <;> rfl
  split
  · split
    · rfl
    · split <;> rfl
  split
  · exact onFlue_mem _ _
  split
  · exact onFlue_mem _ _
  split
  · exact (later_mem _ _).trans (onFlue_mem _ _)
  split
  · exact onFlue_mem _ _
  · rfl

@[simp] theorem hostData_mem (l : List Byte) : (s.hostData l).mem = s.mem := rfl

@[simp] theorem execHostBar2Read_keepsMem {off : BitVec 40} {len : Nat} : KeepsMem s (execHostBar2Read off len s) := by
  unfold execHostBar2Read
  dsimp only
  repeat' split
  all_goals simp

end Frame

end Sys2Proof.Machine

/-! PROOF. The operations and the steps that write memory keep it canonical, and so does every step (R73, R79). -/

namespace Sys2Proof.Machine

/-! ## Canonical memory -/

/-- A state with the memory of a canonical one is canonical. -/
theorem State.MemWf.of_mem {s t : State} (h : s.MemWf) (he : t.mem = s.mem) : t.MemWf := by
  rw [State.MemWf, he]
  exact h

theorem State.MemWf.ite {c : Prop} [Decidable c] {a b : State} (ha : a.MemWf) (hb : b.MemWf) : (if c then a else b).MemWf := by
  split
  · exact ha
  · exact hb

theorem foldl_memWf {β : Type} {f : State → β → State} (hf : ∀ s x, s.MemWf → (f s x).MemWf) (l : List β) {s : State}
    (h : s.MemWf) :
    (l.foldl f s).MemWf :=
  List.foldlRecOn (motive := State.MemWf) l f h fun s hs x _ => hf s x hs

theorem wf_foldl {β : Type} {f : Mem → β → Mem} (hf : ∀ m x, Mem.wf m = true → Mem.wf (f m x) = true) (l : List β) {m : Mem}
    (h : Mem.wf m = true) : Mem.wf (l.foldl f m) = true :=
  List.foldlRecOn (motive := fun m => Mem.wf m = true) l f h fun m hm x _ => hf m x hm

section

variable {s : State} (h : s.MemWf)
include h

/-! ## Accesses at their home controller (R90, R232 to R236) -/

theorem memPut_memWf (pa : Nat) (data : List Byte) : (s.memPut pa data).MemWf :=
  State.MemWf.of_mem (s := { s with mem := wrBytes s.mem pa data }) (wf_wrBytes _ _ h) (by simp [State.memPut])

theorem memWrite_memWf (pa : Nat) (repl : Bool) (data : List Byte) : (s.memWrite pa repl data).MemWf := by
  unfold State.memWrite
  split
  · exact foldl_memWf (fun st d hst => memPut_memWf hst _ _) _ h
  · exact memPut_memWf h pa data

theorem performAct_memWf (g : GAccess) : (s.performAct g).MemWf := by
  have hdrop : (s.dropAccess g.id).MemWf := h.of_mem (dropAccess_mem _)
  unfold State.performAct
  split
  · exact memWrite_memWf hdrop _ _ _
  · split <;> exact h.of_mem (by simp)
  · dsimp only
    split
    · exact (memWrite_memWf hdrop _ _ _).of_mem (onCore_mem _ _)
    · exact memWrite_memWf hdrop _ _ _
  · exact h

theorem performAccess_memWf (g : GAccess) : (s.performAccess g).MemWf := by
  unfold State.performAccess
  split
  · exact performAct_memWf h g
  · split
    · exact performAct_memWf (h.of_mem (by simp)) g
    · dsimp only
      split
      · exact performAct_memWf (h.of_mem (by simp)) g
      · exact h.of_mem (onCore_mem _ _)

theorem tryAccess_memWf (g : GAccess) : (s.tryAccess g).MemWf := by
  unfold State.tryAccess
  split
  · exact h
  · split
    · exact h.of_mem (later_mem _ _)
    · exact performAccess_memWf h g

theorem execGlobalAccessPerform_endsWf (id : Nat) : EndsWf (execGlobalAccessPerform id s) := by
  unfold execGlobalAccessPerform
  split <;> rw [endsWf_next]
  · exact tryAccess_memWf h _
  · exact h

theorem execReplicatedStoreCommit_endsWf (id : Nat) : EndsWf (execReplicatedStoreCommit id s) := by
  unfold execReplicatedStoreCommit
  split <;> rw [endsWf_next]
  · exact tryAccess_memWf h _
  · exact h

/-! ## Push stores (R43, R78) -/

omit h in
/-- The bytes and the flag of a push store written into an image. -/
theorem wf_onImage (p : Push) (base : Nat) {m : Mem} (hm : Mem.wf m = true) : Mem.wf (p.onImage base m) = true := by
  have hparts := wf_foldl (f := fun m x => wrBytes m (base + 0x400000 + x.1) x.2) (fun m x hm => wf_wrBytes _ _ hm) p.parts hm
  unfold Push.onImage
  dsimp only
  split
  · exact wf_wrLE _ _ _ hparts
  · exact hparts

theorem execPushStoreArrival_endsWf (id : Nat) : EndsWf (execPushStoreArrival id s) := by
  unfold execPushStoreArrival
  split <;> rw [endsWf_next]
  · exact h
  · split
    · exact h.of_mem (onMod_mem _ _)
    · split
      · exact h.of_mem (by simp)
      · split
        · exact wf_onImage _ _ h
        · exact h.of_mem (by simp)

/-! ## The Flue island (R311 to R320, R438 to R440) -/

theorem deposit_memWf (i : Nat) (pl : Place) (rank grp : Nat) (acc : Bool) (off : Nat) (data : List Byte) (af : After) :
    (s.deposit i pl rank grp acc off data af).MemWf := by
  unfold State.deposit
  split
  · split
    · exact wf_wrLE _ _ _ h
    · exact wf_wrLE _ _ _ h
    · exact wf_wrLE _ _ _ h
    · exact wf_wrBytes _ _ h
  · exact h.of_mem (setCore_mem _ _ _)

theorem remoteWrite_memWf (parts : List (Nat × Nat × Bool)) (data : List Byte) : (s.remoteWrite parts data).MemWf := by
  unfold State.remoteWrite
  exact List.foldlRecOn (motive := fun st : State × List Byte => st.1.MemWf) parts _ h fun st hst p _ =>
    (memWrite_memWf hst _ _ _).of_mem (setTag_mem _ _)

theorem remoteStore_memWf (r : RemoteReq) (t : Target) (data : List Byte) : (s.remoteStore r t data).MemWf := by
  have hreq : s.takeReq.2.MemWf := h.of_mem (takeReq_mem s)
  unfold State.remoteStore
  dsimp only
  split
  · exact (deposit_memWf hreq _ _ _ _ _ _ _ _).of_mem ((countStore_mem _).trans (onFlue_mem _ _))
  · exact (remoteWrite_memWf hreq _ _).of_mem ((countStore_mem _).trans (onFlue_mem _ _))
  · exact h.of_mem (refuseReq_mem _ _)
  · exact h.of_mem (refuseReq_mem _ _)
  · exact h.of_mem (holdReq_mem _ _ _)

theorem serveAtomic_memWf (r : RemoteReq) (t : Target) (a : Amo) : (s.serveAtomic r t a).MemWf := by
  have hreq : s.takeReq.2.MemWf := h.of_mem (takeReq_mem s)
  unfold State.serveAtomic
  split
  · next base _ =>
    exact State.MemWf.of_mem (s := { s with mem := wrLE s.mem _ a.width _ }) (wf_wrLE _ _ _ h) (answer_mem _ _ _)
  · exact (deposit_memWf hreq _ _ _ _ _ _ _ _).of_mem (onFlue_mem _ _)
  · exact (remoteWrite_memWf h _ _).of_mem (answer_mem _ _ _)
  · exact h.of_mem (answer_mem _ _ _)
  · exact h.of_mem (refuseReq_mem _ _)
  · exact h.of_mem (holdReq_mem _ _ _)

omit h in
theorem settleTarget_mem (t : Target) : (s.settleTarget t).1.mem = s.mem := by
  unfold State.settleTarget
  split <;> rfl

theorem serve_memWf (r : RemoteReq) : (s.serve r).MemWf := by
  unfold State.serve
  dsimp only
  split
  · exact h.of_mem (refuseReq_mem _ _)
  · have hsettled : ∀ (k : Nat) (t : Target), ((s.holdAsid k).settleTarget t).1.MemWf := fun k t =>
      h.of_mem (by rw [settleTarget_mem, holdAsid_mem])
    split
    · exact remoteStore_memWf (hsettled _ _) _ _ _
    · exact (hsettled _ _).of_mem (serveRead_mem _ _ _)
    · exact serveAtomic_memWf (hsettled _ _) _ _ _
    · exact h.of_mem (by simp)

theorem letIn_memWf (r : RemoteReq) : (s.letIn r).MemWf := by
  unfold State.letIn
  split
  · exact h.of_mem (onFlue_mem _ _)
  · exact serve_memWf h r

theorem execInboundRemoteRequest_endsWf (r : RemoteReq) : EndsWf (execInboundRemoteRequest r s) := by
  unfold execInboundRemoteRequest
  dsimp only
  split
  · exact (endsWf_next _).mpr h
  · generalize hs1 : (if r.srcMod.toNat = s.mod.flue.self then s else _) = s1
    have h1 : s1.MemWf := by
      rw [← hs1]
      split
      · exact h
      · exact h.of_mem (onFlue_mem _ _)
    split
    · rw [endsWf_next]
      split
      · exact h1.of_mem (countStore_mem _)
      · exact h1
    · split
      · exact (endsWf_next _).mpr (h1.of_mem (by simp))
      · split
        · exact (endsWf_next _).mpr (h1.of_mem (refuseReq_mem _ _))
        · exact (endsWf_next _).mpr (letIn_memWf h1 r)

theorem execHeldWritesApply_endsWf (core : BitVec 10) : EndsWf (execHeldWritesApply core s) := by
  unfold execHeldWritesApply
  dsimp only
  split <;> rw [endsWf_next]
  · exact h
  · refine foldl_memWf (fun st r hst => letIn_memWf hst r) _ ?_
    refine State.MemWf.of_mem (foldl_memWf (fun st w hst => ?_) _ (h.of_mem (onFlue_mem _ _))) (onFlue_mem _ _)
    split
    · exact deposit_memWf hst _ _ _ _ _ _ _ _
    · exact hst

theorem execRemoteFlagRaise_endsWf (id : Nat) : EndsWf (execRemoteFlagRaise id s) := by
  unfold execRemoteFlagRaise
  dsimp only
  split
  · exact (endsWf_next _).mpr h
  · split
    · exact (endsWf_next _).mpr (h.of_mem (by simp))
    · split
      · exact (endsWf_next _).mpr h
      · split
        · exact (endsWf_next _).mpr (h.of_mem (by simp))
        · generalize hs1 : State.spendCount _ _ = s1
          have h1 : s1.MemWf := by
            rw [← hs1]
            exact h.of_mem (by simp)
          split <;> rw [endsWf_next]
          · exact (deposit_memWf h1 _ _ _ _ _ _ _ _).of_mem (answer_mem _ _ _)
          · exact (deposit_memWf h1 _ _ _ _ _ _ _ _).of_mem (onFlue_mem _ _)
          · exact (remoteWrite_memWf h1 _ _).of_mem (answer_mem _ _ _)
          · exact h1.of_mem (answer_mem _ _ _)
          · exact h1.of_mem (by simp)
          · exact h

theorem writeFor_memWf (o : FOp) (va pa : Nat) (rpl : Bool) (data : List Byte) : (s.writeFor o va pa rpl data).MemWf :=
  (memWrite_memWf h pa rpl data).of_mem (by simp [State.writeFor])

theorem readArrives_memWf (o : FOp) (pl : Place) (data : List Byte) : (s.readArrives o pl data).1.MemWf := by
  unfold State.readArrives
  dsimp only
  split
  · exact deposit_memWf h _ _ _ _ _ _ _ _
  · exact deposit_memWf h _ _ _ _ _ _ _ _
  · split
    · exact List.foldlRecOn (motive := fun st : State × List Nat => st.1.MemWf) _ _ h fun st hst u _ => hst.of_mem (by simp)
    · exact foldl_memWf (fun st u hst => writeFor_memWf hst _ _ _ _ _) _ h

theorem opSettle_memWf (o : FOp) (code bits : Nat) (pl : Place) : (s.opSettle o code bits pl).MemWf := by
  have hfields := foldl_memWf
    (f := fun st (w : (Nat × List Byte) × Nat) => st.deposit o.core pl 3 (opGrp o.tag + w.2) false w.1.1 w.1.2 .none)
    (fun st w hst => deposit_memWf hst _ _ _ _ _ _ _ _) (o.fields code bits).zipIdx h
  unfold State.opSettle
  dsimp only
  split
  · split
    · exact (readArrives_memWf hfields _ _ _).of_mem ((onFlue_mem _ _).trans (onFlue_mem _ _))
    · exact hfields.of_mem ((onFlue_mem _ _).trans (onFlue_mem _ _))
  · exact hfields.of_mem ((onFlue_mem _ _).trans (onFlue_mem _ _))

theorem opFinish_memWf (o : FOp) (code : Nat) (pl : Place) : (s.opFinish o code pl).MemWf := by
  unfold State.opFinish
  exact (deposit_memWf (h.of_mem (onFlue_mem _ _)) _ _ _ _ _ _ _ _).of_mem (onOwner_mem _ _)

theorem execFabComplete_endsWf (cmd : Nat) : EndsWf (execFabComplete cmd s) := by
  unfold execFabComplete
  split
  · exact (endsWf_next _).mpr (h.of_mem (onCore_mem _ _))
  · split
    · exact (endsWf_next _).mpr h
    · split
      · exact (endsWf_next _).mpr (h.of_mem (onFlue_mem _ _))
      · dsimp only
        split
        · rw [endsWf_next]
          split
          · exact h
          · exact opFinish_memWf h _ _ _
        · split
          · exact (endsWf_next _).mpr ((opSettle_memWf h _ _ _ _).of_mem (later_mem _ _))
          · exact (endsWf_next _).mpr h
end

section

variable {s : State} (h : s.MemWf)
include h

/-! ## Tile instructions (R377, R385, R388) -/

theorem tileArea_memWf (x : TileInstr) (writes : List (Nat × Nat)) (code : Nat) : (s.tileArea x writes code).MemWf := by
  unfold State.tileArea
  split
  · exact h
  · dsimp only
    split
    · exact deposit_memWf (foldl_memWf (fun st w hst => deposit_memWf hst _ _ _ _ _ _ _ _) _ h) _ _ _ _ _ _ _ _
    · have hput : ∀ (st : State) (ls : List Leaf) (va v : Nat), st.MemWf →
          State.MemWf (match ls.find? fun l => l.va ≤ va && va < l.va + l.size with
            | some l =>
              if st.meetsPoison (l.phys va 0) l.rpl 8 true then st.later [.uncorrectableError (errorAt 4 (l.phys va 0 / 64 * 64))]
              else st.memWrite (l.phys va 0) l.rpl (leBytes v 8)
            | none => st) := by
        intro st ls va v hst
        split
        · split
          · exact hst.of_mem (later_mem _ _)
          · exact memWrite_memWf hst _ _ _
        · exact hst
      exact hput _ _ _ _ (foldl_memWf (fun st w hst => hput st _ _ _ hst) _ h)

theorem tileFinish_memWf (x : TileInstr) : (s.tileFinish x).MemWf :=
  (tileArea_memWf h x _ _).of_mem ((onMod_mem _ _).trans (onIssuer_mem _ _))

theorem execTileComplete_endsWf (id : Nat) : EndsWf (execTileComplete id s) := by
  unfold execTileComplete
  split
  · rw [endsWf_next]
    split
    · refine tileFinish_memWf ?_ _
      split
      · exact h.of_mem (publishTile_mem _)
      · exact h
    · exact h
  · exact (endsWf_next _).mpr h

theorem tileAbort_memWf (x : TileInstr) : (s.tileAbort x).MemWf := tileFinish_memWf h _

/-! ## Frames and images (R409, R416 to R425) -/

theorem debugState_memWf (i st frame : Nat) : (s.debugState i st frame).MemWf := wf_wrLE _ _ _ h

theorem debugResult_memWf (i res : Nat) : (s.debugResult i res).MemWf := wf_wrLE _ _ _ h

theorem setFrameEntry_memWf (slot i v : Nat) : (s.setFrameEntry slot i v).MemWf := wf_wrLE _ _ _ h

omit h in
theorem wf_writeImage (c : Core) (st : Stop) (k : Nat) {m : Mem} (hm : Mem.wf m = true) : Mem.wf (c.writeImage st k m) = true :=
  wf_wrLE _ _ _ (wf_foldl (fun _ _ hm => wf_wrBytes _ _ hm) _ hm)

theorem execCoreStop_endsWf : EndsWf (execCoreStop s) := by
  unfold execCoreStop
  split
  · exact (endsWf_next _).mpr h
  · dsimp only
    split
    · exact (endsWf_next _).mpr h
    · have himage := fun (c : Core) (st : Stop) => setFrameEntry_memWf (s := { s.takeReq.2 with
        core := c.traceRec s.ts s.focus 4 [BitVec.ofNat 64 (faultWord0 st), c.nextIdx.setWidth 64]
        mem := c.writeImage st s.takeReq.1 s.takeReq.2.mem }) (wf_writeImage _ _ _ (h.of_mem (takeReq_mem s)))
      rw [endsWf_next]
      split
      · exact himage _ _ _ _ _
      · exact (debugState_memWf (himage _ _ _ _ _) _ _ _).of_mem (setFaultmap_mem _)

theorem imageBad_memWf : s.imageBad.MemWf :=
  (debugState_memWf (setFrameEntry_memWf (wf_wrLE _ _ _ h) _ _ _) _ _ _).of_mem (setFaultmap_mem _)

theorem execContextResume_endsWf : EndsWf (execContextResume s) := by
  unfold execContextResume
  split
  · dsimp only
    split
    · exact (endsWf_next _).mpr ((imageBad_memWf h).of_mem (launchBack_mem _))
    · have hpresent : ∀ c : Core, (State.presentAgain { s with core := c }).MemWf := fun c => h.of_mem presentAgain_mem
      have hback := fun (c : Core) (slot : Nat) => (setFrameEntry_memWf (hpresent c) slot s.focus 0).of_mem (renewFrame_mem slot s.focus)
      rw [endsWf_next]
      refine State.MemWf.of_mem ?_ (launchBack_mem _)
      split
      · exact hback _ _
      · exact debugState_memWf (hback _ _) _ _ _
  · exact (endsWf_next _).mpr h

/-! ## Queues and launches (R398 to R408) -/

theorem finishRecord_memWf (q : Nat) (w : List Nat) (code : Nat) : (s.finishRecord q w code).MemWf := by
  have hword : State.MemWf (if s.poisoned (recCw w) 8 then s.later [.uncorrectableError (errorAt 4 (recCw w / 64 * 64))]
      else { s with mem := wrLE s.mem (recCw w) 8 (completeWord (rdLE s.mem (recCw w) 8) code) }.setTag (recCw w)
        (markOf 0x3FF 0 true false)) :=
    .ite (h.of_mem (later_mem _ _)) (wf_wrLE _ _ _ h)
  unfold State.finishRecord
  dsimp only
  split
  · exact hword.of_mem (raiseMsix_mem _ _)
  · exact hword

theorem headCheck_memWf (q fuel : Nat) : (s.headCheck q fuel).MemWf := by
  induction fuel generalizing s with
  | zero => exact h
  | succ fuel ih =>
    have hdone : ∀ (t : State) (w : List Nat) (code : Nat), t.MemWf → (((t.finishRecord q w code).popHead q).headCheck q fuel).MemWf :=
      fun t w code ht => ih ((finishRecord_memWf ht _ _ _).of_mem (popHead_mem _))
    unfold State.headCheck
    dsimp only
    generalize hs1 : (if (s.queue q).headSince.isNone then _ else s) = s1
    have h1 : s1.MemWf := by
      rw [← hs1]
      split
      · exact h.of_mem (onQueue_mem _ _)
      · exact h
    split
    · exact h
    split
    · exact h.of_mem (later_mem _ _)
    split
    · exact ih (h.of_mem (by simp))
    split
    · exact hdone _ _ _ h
    split
    · exact hdone _ _ _ h1
    split
    · split
      · exact hdone _ _ _ h1
      · exact h1.of_mem (onQueue_mem _ _)
    · exact h1

theorem tryPlace_memWf (c : Cand) : (s.tryPlace c).1.MemWf := by
  have hput : ∀ (r : Rect) (v : List Launch), State.MemWf (if c.susp then (s.placeSuspended c r v, false)
      else if s.freeSlot.isNone || (s.freeFrames r).isNone then (s, true) else (s.placeHead c r v, false)).1 := fun r v => by
    split
    · exact h.of_mem (placeSuspended_mem _ _ _)
    · split
      · exact h
      · exact h.of_mem (placeHead_mem _ _ _)
  unfold State.tryPlace
  dsimp only
  split
  · exact (finishRecord_memWf h _ _ _).of_mem (popHead_mem _)
  · split
    · exact hput _ _
    · split
      · exact hput _ _
      · exact h

theorem execSchedulerStep_endsWf : EndsWf (execSchedulerStep s) := by
  have hheads := foldl_memWf (f := fun st q => st.headCheck q (((st.queue q).tail - (st.queue q).head).toNat + 1))
    (fun st q hst => headCheck_memWf hst _ _) (List.range 64) h
  unfold execSchedulerStep
  dsimp only
  split
  · exact (endsWf_next _).mpr hheads
  · generalize hr : List.foldl _ _ (State.candidates _) = r
    have hplaced : r.1.MemWf := by
      rw [← hr]
      refine List.foldlRecOn (motive := fun acc : State × Bool => acc.1.MemWf) _ _ hheads fun acc hacc c _ => ?_
      split
      · exact hacc
      · exact tryPlace_memWf hacc c
    rw [endsWf_next]
    split
    · exact hplaced
    · exact hplaced.of_mem (later_mem _ _)

theorem execLaunchDispatch_endsWf (slot : BitVec 10) : EndsWf (execLaunchDispatch slot s) := by
  unfold execLaunchDispatch
  split
  · exact (endsWf_next _).mpr h
  next l _ =>
  split
  · exact (endsWf_next _).mpr h
  dsimp only
  split
  · exact (endsWf_next _).mpr ((finishRecord_memWf (h.of_mem (popHead_mem _)) _ _ _).of_mem (dropLaunch_mem _))
  · have hstarted : ∀ (l1 : Launch) (ls : List Leaf) (t : State), t.mem = s.mem →
        (if l.tile then (t.startCores l1 ls).startTile l1 ls else t.startCores l1 ls).MemWf := fun l1 ls t ht =>
      .ite (h.of_mem (by simp [ht])) (h.of_mem (by simp [ht]))
    have hrun := hstarted { l with id := s.mod.lastId + 1, state := .running, since := s.ts.toNat }
    exact (endsWf_next _).mpr (.ite ((hrun _ _ (by simp)).of_mem (promiseBreak_mem _ _ _)) (hrun _ _ (by simp)))

theorem clearLaunch_memWf (l : Launch) (reason : Nat) : (s.clearLaunch l reason).MemWf := by
  unfold State.clearLaunch
  refine State.MemWf.of_mem (foldl_memWf (fun st i hst => ?_) _ h) ((dropLaunch_mem _).trans (onMod_mem _ _))
  have hcore : ∀ c c' : Core, ∀ p : Prop, ∀ _ : Decidable p,
      (State.setFrameEntry (if p then st.setCore i c else st.setCore i c') l.slot i 0).MemWf := fun c c' p _ => by
    refine setFrameEntry_memWf ?_ _ _ _
    split <;> exact hst.of_mem (setCore_mem _ _ _)
  dsimp only
  split
  · exact debugState_memWf (hcore _ _ _ _) _ _ _
  · exact hcore _ _ _ _

theorem endLaunch_memWf (l : Launch) (code reason : Nat) : (s.endLaunch l code reason).MemWf := by
  unfold State.endLaunch
  split
  · exact h.of_mem (dropLaunch_mem _)
  · have htiles := foldl_memWf (fun _ x hst => tileAbort_memWf hst x) (s.mod.tiles.filter fun x => x.launch == l.id) h
    exact clearLaunch_memWf (finishRecord_memWf (htiles.of_mem (publishLaunch_mem _)) _ _ _) _ _

theorem execLaunchRetire_endsWf (slot : BitVec 10) : EndsWf (execLaunchRetire slot s) := by
  unfold execLaunchRetire
  split
  · exact (endsWf_next _).mpr h
  · split <;> rw [endsWf_next]
    · exact h
    · exact clearLaunch_memWf (finishRecord_memWf (h.of_mem (publishLaunch_mem _)) _ _ _) _ _

theorem execAbort_endsWf (v : W64) : EndsWf (execAbort v s) := by
  unfold execAbort
  split
  · exact (endsWf_next _).mpr h
  · dsimp only
    split
    · split <;> rw [endsWf_next]
      · exact (endLaunch_memWf h _ _ _).of_mem (onMod_mem _ _)
      · exact h.of_mem (onMod_mem _ _)
    · exact (endsWf_next _).mpr (h.of_mem (onMod_mem _ _))

theorem flushQueue_memWf (q code fuel i : Nat) : (s.flushQueue q code fuel i).MemWf := by
  induction fuel generalizing s i with
  | zero => exact h
  | succ fuel ih =>
    unfold State.flushQueue
    refine ih ?_ _
    split
    · exact finishRecord_memWf h _ _ _
    · exact h.of_mem (queueError_mem _ _ _)

theorem execQueueReset_endsWf (q : BitVec 6) : EndsWf (execQueueReset q s) := by
  have hended := fun (l : List Launch) (t : State) (ht : t.MemWf) => foldl_memWf (f := fun st l => st.endLaunch l 68 1)
    (fun st l hst => endLaunch_memWf hst l 68 1) l ht
  unfold execQueueReset
  dsimp only
  split
  · exact (endsWf_next _).mpr h
  · generalize hs0 : State.onMod _ _ = s0
    have h0 : s0.MemWf := by
      rw [← hs0]
      exact h.of_mem (by simp)
    split <;> rw [endsWf_next]
    · exact (hended _ _ h0).of_mem (onQueue_mem _ _)
    · exact (flushQueue_memWf (hended _ _ h0) _ _ _ _).of_mem ((logReset_mem _ _).trans (onQueue_mem _ _))

/-! ## Debug and trace blocks (R424 to R429) -/

theorem debugCommand_memWf (i k : Nat) {act : State → State} (hact : ∀ t, t.MemWf → (act t).MemWf) :
    (s.debugCommand i k act).MemWf := by
  have htake : (s.debugTake i).MemWf := wf_wrLE _ _ _ h
  unfold State.debugCommand
  dsimp only
  split
  · exact h
  split
  · exact debugResult_memWf htake _ _
  split
  · exact debugResult_memWf htake _ _
  · exact hact _ htake

theorem execDebugHalt_endsWf (core : BitVec 10) : EndsWf (execDebugHalt core s) := by
  refine (endsWf_next _).mpr (debugCommand_memWf h _ _ fun t ht => debugResult_memWf ?_ _ _)
  split
  · exact ht.of_mem (setCore_mem _ _ _)
  · exact ht

theorem debugGo_memWf (i : Nat) (one : Bool) : (s.debugGo i one).MemWf := by
  unfold State.debugGo
  dsimp only
  split
  · exact debugResult_memWf h _ _
  split
  · exact debugResult_memWf h _ _
  split
  · exact debugResult_memWf h _ _
  · exact debugResult_memWf (debugState_memWf (h.of_mem (setCore_mem _ _ _)) _ _ _) _ _

theorem execDebugResume_endsWf (core : BitVec 10) : EndsWf (execDebugResume core s) :=
  (endsWf_next _).mpr (debugCommand_memWf h _ _ fun _ ht => debugGo_memWf ht _ _)

theorem execDebugStep_endsWf (core : BitVec 10) : EndsWf (execDebugStep core s) :=
  (endsWf_next _).mpr (debugCommand_memWf h _ _ fun _ ht => debugGo_memWf ht _ _)

theorem setTraceWord_memWf (i k v : Nat) : (s.setTraceWord i k v).MemWf := wf_wrLE _ _ _ h

theorem traceWrite_memWf (i a : Nat) (rec8 : List W64) : (s.traceWrite i a rec8).MemWf :=
  setTraceWord_memWf (State.MemWf.of_mem (s := { s with mem := wrBytes s.mem a _ }) (wf_wrBytes _ _ h) (onTrace_mem _ _)) _ _ _

theorem execTraceOpen_endsWf (core : BitVec 10) : EndsWf (execTraceOpen core s) := by
  unfold execTraceOpen
  dsimp only
  split
  · exact (endsWf_next _).mpr h
  · split <;> rw [endsWf_next]
    · exact h
    · exact setTraceWord_memWf (setTraceWord_memWf (h.of_mem (onTrace_mem _ _)) _ _ _) _ _ _

theorem execTraceDrain_endsWf (core : BitVec 10) : EndsWf (execTraceDrain core s) := by
  unfold execTraceDrain
  dsimp only
  split
  · exact (endsWf_next _).mpr h
  · split <;> rw [endsWf_next]
    · exact traceWrite_memWf (setTraceWord_memWf (h.of_mem (onTrace_mem _ _)) _ _ _) _ _ _
    · exact setTraceWord_memWf (h.of_mem (onTrace_mem _ _)) _ _ _
    · exact (setTraceWord_memWf (traceWrite_memWf h _ _ _) _ _ _).of_mem (onTrace_mem _ _)
    · exact h

theorem execTraceClose_endsWf (core : BitVec 10) (reason : BitVec 2) : EndsWf (execTraceClose core reason s) := by
  unfold execTraceClose
  dsimp only
  split <;> rw [endsWf_next]
  · exact h
  · exact setTraceWord_memWf (h.of_mem (setCore_mem _ _ _)) _ _ _

/-! ## Invalidation, retirement and errors (R415, R450 to R459) -/

theorem execInvalidationDone_endsWf : EndsWf (execInvalidationDone s) := by
  unfold execInvalidationDone
  split
  · exact (endsWf_next _).mpr h
  · split <;> rw [endsWf_next]
    · exact h
    · exact wf_wrLE _ _ _ (wf_wrLE _ _ _ h)

theorem retireCore_memWf (i cause : Nat) : (s.retireCore i cause).MemWf := by
  unfold State.retireCore
  split
  · exact h
  · exact (foldl_memWf (fun _ _ hst => endLaunch_memWf hst _ _ _) _ (h.of_mem (by simp))).of_mem (later_mem _ _)

theorem execRetmapWrite_endsWf (idx : BitVec 4) (v : W64) : EndsWf (execRetmapWrite idx v s) := by
  unfold execRetmapWrite
  split <;> rw [endsWf_next]
  · exact h
  · refine foldl_memWf (fun st b hst => ?_) _ h
    dsimp only
    split
    · exact retireCore_memWf hst _ _
    · exact hst.of_mem (returnCore_mem _)

theorem autoRetire_memWf (i : Nat) : (s.autoRetire i).MemWf := by
  unfold State.autoRetire
  dsimp only
  split
  · exact retireCore_memWf h _ _
  · exact h

theorem execCorrectedError_endsWf (addr : W64) : EndsWf (execCorrectedError addr s) := by
  unfold execCorrectedError
  dsimp only
  split
  · exact (endsWf_next _).mpr (autoRetire_memWf (h.of_mem (by simp)) _)
  · split <;> rw [endsWf_next]
    · exact h.of_mem (countError_mem _ _ _ _)
    · exact h

theorem abortOn_memWf (i code : Nat) : (s.abortOn i code).MemWf := by
  unfold State.abortOn
  split
  · exact h
  · split
    · exact endLaunch_memWf h _ _ _
    · exact h

theorem execUncorrectableError_endsWf (addr : W64) : EndsWf (execUncorrectableError addr s) := by
  have hcounted : ∀ (t : State) (i code k loc id : Nat), t.MemWf → ((t.abortOn i code).countError k loc id false).MemWf :=
    fun t i code k loc id ht => (abortOn_memWf ht i code).of_mem (countError_mem _ _ _ _)
  unfold execUncorrectableError
  dsimp only
  split
  · rw [endsWf_next]
    split
    · exact retireCore_memWf (hcounted _ _ _ _ _ _ h) _ _
    · exact hcounted _ _ _ _ _ _ h
  split
  · have hhub : ∀ f, (s.onHub f).MemWf := fun f => h.of_mem (onHub_mem _ _)
    rw [endsWf_next]
    split
    · exact hcounted _ _ _ _ _ _ (hhub _)
    · exact (hhub _).of_mem (countError_mem _ _ _ _)
  split
  · exact (endsWf_next _).mpr (h.of_mem (by simp))
  · exact (endsWf_next _).mpr h

/-! ## Boot and resets (R441 to R448, R461) -/

theorem managersDone_memWf : s.managersDone.MemWf := by
  unfold State.managersDone
  split
  · exact h
  split
  · exact State.MemWf.of_mem (s := { s with mem := wrLE s.mem (ctxBase + 0x40010) 8 s.mod.frames }) (wf_wrLE _ _ _ h) (by simp)
  split
  · exact h.of_mem (later_mem _ _)
  · exact h

theorem execDieManagerReady_endsWf (die : BitVec 2) : EndsWf (execDieManagerReady die s) := by
  unfold execDieManagerReady
  split <;> rw [endsWf_next]
  · exact h
  · exact managersDone_memWf (h.of_mem (onHub_mem _ _))

theorem execDieManagerTimeout_endsWf (die : BitVec 2) : EndsWf (execDieManagerTimeout die s) := by
  unfold execDieManagerTimeout
  dsimp only
  split <;> rw [endsWf_next]
  · exact h
  · exact managersDone_memWf (foldl_memWf (fun _ _ hst => retireCore_memWf hst _ 3) _ (h.of_mem (onHub_mem _ _)))

theorem flushAll_memWf : s.flushAll.MemWf :=
  foldl_memWf (fun _ _ hst => flushQueue_memWf hst _ _ _ _) _ (foldl_memWf (fun _ _ hst => endLaunch_memWf hst _ _ _) _ h)

theorem resetCompute_memWf : s.resetCompute.MemWf :=
  (flushAll_memWf (h.of_mem ((refuseHeld_mem).trans (onFlue_mem _ _)))).of_mem ((logReset_mem _ _).trans resetDies_mem)

theorem execComputeReset_endsWf : EndsWf (execComputeReset s) := (endsWf_next _).mpr (resetCompute_memWf h)

theorem execFunctionLevelReset_endsWf : EndsWf (execFunctionLevelReset s) := (endsWf_next _).mpr (resetCompute_memWf h)

theorem resetLaunches_memWf (p : Nat → Bool) : (s.resetLaunches p).MemWf := foldl_memWf (fun _ _ hst => endLaunch_memWf hst _ _ _) _ h

theorem execDieReset_endsWf (die : BitVec 2) : EndsWf (execDieReset die s) :=
  (endsWf_next _).mpr ((resetLaunches_memWf h _).of_mem ((logReset_mem _ _).trans (onHub_mem _ _)))

theorem execCoreReset_endsWf (core : BitVec 10) : EndsWf (execCoreReset core s) := by
  unfold execCoreReset
  dsimp only
  split <;> rw [endsWf_next]
  · exact h
  · exact (resetLaunches_memWf h _).of_mem (logReset_mem _ _)

omit h in
/-- A cold package reset empties memory, and the empty memory is canonical (R441). -/
theorem execColdPackageReset_endsWf : EndsWf (execColdPackageReset s) :=
  (endsWf_next _).mpr (State.MemWf.of_mem (s := State.reset) rfl ((logReset_mem _ _).trans (onMod_mem _ _)))

theorem execThermalTrip_endsWf (flue : Bool) : EndsWf (execThermalTrip flue s) := by
  unfold execThermalTrip
  split
  · exact execColdPackageReset_endsWf
  · exact (endsWf_next _).mpr ((resetCompute_memWf h).of_mem (onHub_mem _ _))

/-! ## The host (R393 to R397, R430) -/

theorem errcfgWrite_memWf (v : Nat) : (s.errcfgWrite v).MemWf :=
  foldl_memWf (fun _ i hst => autoRetire_memWf hst i) _ (h.of_mem (onHub_mem _ _))

theorem hubWrite_memWf (o : Nat) (v : W64) : (s.hubWrite o v).MemWf := by
  have hlater : ∀ l, (s.later l).MemWf := fun l => h.of_mem (later_mem _ _)
  have hhub : ∀ f, (s.onHub f).MemWf := fun f => h.of_mem (onHub_mem _ _)
  unfold State.hubWrite
  dsimp only
  refine .ite (.ite (hlater _) h) ?_
  refine .ite (h.of_mem (resetWrite_mem _)) ?_
  refine .ite (hhub _) ?_
  refine .ite (.ite ((hhub _).of_mem (later_mem _ _)) h) ?_
  refine .ite (hhub _) ?_
  refine .ite (errcfgWrite_memWf h _) ?_
  refine .ite (hlater _) ?_
  refine .ite (h.of_mem (islctlWrite_mem _ _)) ?_
  refine .ite (hlater _) ?_
  refine .ite (hhub _) ?_
  exact .ite (.ite (hlater _) h) (.ite (hhub _) h)

theorem ctlWrite_memWf (o : Nat) (v : W64) : (s.ctlWrite o v).MemWf := by
  unfold State.ctlWrite
  split
  · exact hubWrite_memWf h _ _
  split
  · exact h.of_mem (flueWrite_mem _ _)
  split
  · exact h.of_mem (onHub_mem _ _)
  · exact h

theorem execHostRegisterWrite_endsWf (off : BitVec 24) (v : W64) : EndsWf (execHostRegisterWrite off v s) := by
  unfold execHostRegisterWrite
  split
  · exact (endsWf_next _).mpr (h.of_mem (bar0Write_mem _ _))
  · split <;> rw [endsWf_next]
    · exact ctlWrite_memWf h _ _
    · exact h

theorem hostMemWrite_memWf (pa : Nat) (data : List Byte) : (s.hostMemWrite pa data).MemWf := by
  unfold State.hostMemWrite
  split
  · exact h.of_mem (later_mem _ _)
  · exact (memWrite_memWf h _ _ _).of_mem ((later_mem _ _).trans (setTag_mem _ _))

theorem execHostBar2Write_endsWf (off : BitVec 40) (data : List Byte) : EndsWf (execHostBar2Write off data s) := by
  unfold execHostBar2Write
  dsimp only
  split
  · exact (endsWf_next _).mpr h
  split
  · rw [endsWf_next]
    split
    · exact ctlWrite_memWf h _ _
    · exact h
  split
  · exact (endsWf_next _).mpr (hostMemWrite_memWf h _ _)
  · exact endsWf_fault _

end

section

variable {s : State}

/-! ## Every step (R19, R179) -/

@[simp] theorem advance_mem : s.advance.mem = s.mem := by
  unfold State.advance
  simp [apply_ite State.mem]

/-- Every instruction and step keeps memory canonical: those listed write memory, the others leave it as it is. -/
theorem exec_endsWf (h : s.MemWf) (i : Instr) : EndsWf (exec i s) := by
  cases i with
  | globalAccessPerform id => exact execGlobalAccessPerform_endsWf h id
  | replicatedStoreCommit id => exact execReplicatedStoreCommit_endsWf h id
  | pushStoreArrival id => exact execPushStoreArrival_endsWf h id
  | inboundRemoteRequest r => exact execInboundRemoteRequest_endsWf h r
  | heldWritesApply core => exact execHeldWritesApply_endsWf h core
  | remoteFlagRaise id => exact execRemoteFlagRaise_endsWf h id
  | fabComplete cmd => exact execFabComplete_endsWf h cmd
  | tileComplete id => exact execTileComplete_endsWf h id
  | coreStop => exact execCoreStop_endsWf h
  | contextResume => exact execContextResume_endsWf h
  | schedulerStep => simpa only [exec] using execSchedulerStep_endsWf h
  | launchDispatch slot => exact execLaunchDispatch_endsWf h slot
  | launchRetire slot => exact execLaunchRetire_endsWf h slot
  | abort v => exact execAbort_endsWf h v
  | queueReset q => exact execQueueReset_endsWf h q
  | debugHalt core => exact execDebugHalt_endsWf h core
  | debugResume core => exact execDebugResume_endsWf h core
  | debugStep core => exact execDebugStep_endsWf h core
  | traceOpen core => exact execTraceOpen_endsWf h core
  | traceDrain core => exact execTraceDrain_endsWf h core
  | traceClose core reason => exact execTraceClose_endsWf h core reason
  | invalidationDone => exact execInvalidationDone_endsWf h
  | retmapWrite idx v => exact execRetmapWrite_endsWf h idx v
  | correctedError addr => exact execCorrectedError_endsWf h addr
  | uncorrectableError addr => exact execUncorrectableError_endsWf h addr
  | dieManagerReady die => exact execDieManagerReady_endsWf h die
  | dieManagerTimeout die => exact execDieManagerTimeout_endsWf h die
  | dieReset die => exact execDieReset_endsWf h die
  | coreReset core => exact execCoreReset_endsWf h core
  | coldPackageReset => exact execColdPackageReset_endsWf
  | computeReset => exact execComputeReset_endsWf h
  | functionLevelReset => exact execFunctionLevelReset_endsWf h
  | thermalTrip flue => exact execThermalTrip_endsWf h flue
  | hostRegisterWrite off v => exact execHostRegisterWrite_endsWf h off v
  | hostBar2Write off data => exact execHostBar2Write_endsWf h off data
  | _ => exact KeepsMem.endsWf (by simp [exec]) h

theorem step_endsWf (h : s.MemWf) : EndsWf (step s) := by
  unfold step
  split
  · next e rest _ => exact exec_endsWf (s := { s with agenda := rest }) h e
  split
  · next e rest _ => exact exec_endsWf (s := { s with due := rest }) h e
  split
  · next e rest _ => exact exec_endsWf (s := { s with inbox := rest }) h e
  · exact (endsWf_next _).mpr (h.of_mem advance_mem)

end

/-- Settles O52: of the steps, those that write memory write it by wrLE and wrBytes, which keep it canonical, and a cold package reset
empties it; all others leave it as it is. -/
theorem storageStaysCanonical : Obligations.StorageStaysCanonical := fun _ t h ht => step_endsWf h t ht

end Sys2Proof.Machine

namespace Sys2Proof.Machine
open Sys2Proof.Manual

/-! PROOF. AGU: loads of global memory, stores, and the register window. -/

/-! ## Checks in order -/

@[simp] theorem ok_bind {α β : Type} (a : α) (f : α → Except Exc β) : (Except.ok a >>= f) = f a := rfl

@[simp] theorem must_true (e : Exc) : must true e = .ok () := rfl

/-! ## The regions of the virtual layout (R74) -/

theorem regionOf_global {a : Nat} (h : a < peerBase) : regionOf a = .global := if_pos h

theorem regionOf_peer {core off : Nat} (hc : core < 768) (ho : off < 2 ^ 30) :
    regionOf (peerBase + core * 2 ^ 30 + off) = .peer core off := by
  have hd : (peerBase + core * 2 ^ 30 + off - peerBase) / 2 ^ 30 = core := by omega
  have hm : (peerBase + core * 2 ^ 30 + off - peerBase) % 2 ^ 30 = off := by omega
  rw [regionOf, if_neg (by omega), if_pos (by omega), hd, hm]

theorem regionOf_acc {off : Nat} (h : off < 0x800000) : regionOf (accBase + off) = .acc off := by
  unfold regionOf
  rw [if_neg (by unfold accBase peerBase; omega), if_neg (by unfold accBase peerBase; omega),
    if_neg (by unfold accBase spBase spSize; omega), if_pos (by unfold accSize; omega)]
  simp

/-! ## A trigger of AGU (R227, R233) -/

section Agu

variable {m : Move} {s t : State}

theorem effAddr_ok (h : aguEA s m < 2 ^ 57) : effAddr (aguA s) (s.operand m) = .ok (aguEA s m) := by
  have hea : (aguA s + s.operand m).toNat = aguEA s m := BitVec.toNat_add _ _
  simp only [effAddr, hea, if_neg (Nat.not_le.mpr h)]

/-- A trigger of AGU acts as its form does at its effective address. -/
theorem aguOp_acts {body : Nat → Except Exc State} (h : Fires s .scalar false m) (hr : aguEA s m < 2 ^ 57)
    (hb : body (aguEA s m) = .ok t) : aguOp m s body = .next t :=
  scalarTrigger_acts h (by rw [effAddr_ok hr]; exact hb)

/-- A load is its row of R233. -/
theorem exec_loadForm {i : Instr} {w : Nat} {e : Ext} (h : loadForm i = some (m, w, e)) (s : State) :
    exec i s = aguOp m s (s.load w e) := by
  cases i <;> simp only [loadForm, Option.some.injEq, Prod.mk.injEq, reduceCtorEq] at h
  all_goals
    obtain ⟨rfl, rfl, rfl⟩ := h
    rfl

/-- A store is its row of R233. -/
theorem exec_storeForm {i : Instr} {w : Nat} (h : storeForm i = some (m, w)) (s : State) : exec i s = aguOp m s (s.store w) := by
  cases i <;> simp only [storeForm, Option.some.injEq, Prod.mk.injEq, reduceCtorEq] at h
  all_goals
    obtain ⟨rfl, rfl⟩ := h
    rfl

theorem exec_ld64 (m : Move) (s : State) : exec (.ld64 m) s = aguOp m s (s.load 8 .zero) := rfl
theorem exec_st64 (m : Move) (s : State) : exec (.st64 m) s = aguOp m s (s.store 8) := rfl

theorem translate_held {va : Nat} {read write : Bool} {leaf : Leaf} (h : heldLeaf s va read write = some leaf) :
    s.translate va read write = .ok leaf := by
  rw [heldLeaf] at h
  simp only [State.translate, h]

/-! ## Loads (R77, R89, R230, R231) -/

variable {w ea off : Nat}

theorem loadDue_eq (leaf : Leaf) (va core : Nat) : loadDue leaf va core =
    if leaf.rpl = true ∨ (leaf.pa + (va - leaf.va)) / 0x6000000000 = coreDie core then 300 else 360 := by
  simp [loadDue, groupSpan]

/-- The address of a read under its leaf: a replicated page is read on the reader's own die (R89). -/
theorem phys_read (leaf : Leaf) (va die : Nat) :
    leaf.phys va die = leaf.pa + (va - leaf.va) + if leaf.rpl then 0x6000000000 * die else 0 := rfl

theorem load_global {e : Ext} {leaf : Leaf} (ha : ea % w = 0) (hg : ea < peerBase) (hr : Room s 1)
    (hl : heldLeaf s ea true false = some leaf) :
    s.load w e ea = .ok ((s.sent 4 [(loadDue leaf ea s.focus, .scalar true none, 0)]).sendGlobal s.core.tcls ea
      (leaf.phys ea (coreDie s.focus)) leaf.rpl (.read w (.slot s.core.seq e)) (s.core.here 4) false) := by
  have hd : 0 < loadDue leaf ea s.focus := by rw [loadDue_eq]; split_ifs <;> decide
  have hi : s.issue1 4 (loadDue leaf ea s.focus) (.scalar true none) = .ok (s.sent 4 [(loadDue leaf ea s.focus, .scalar true none, 0)]) :=
    issue1_room hd hr
  simp only [State.load, regionOf_global hg, ha, beq_self_eq_true, must_true, ok_bind, State.loadGlobal, translate_held hl, hi]
  rfl

theorem load_csr {n : Nat} {v : W64} (hn : n < 0x1000) (hr : Room s 1) (hv : s.core.csrRead n = some v)
    (hf : n = 2 → s.core.schedCtl.getLsbD 3 = true → s.core.fmtShadow = none) :
    s.load 8 .zero (csrBase + 8 * n) = .ok (s.sentScalar 4 5 v) := by
  have hq : 8 * n / 8 = n := by omega
  have ha : (csrBase + 8 * n) % 8 = 0 := by unfold csrBase; omega
  have hc : (if s.core.schedCtl.getLsbD 3 && 8 * n == 16 then s.core.fmtShadow else none) = none := by
    split_ifs with h
    · simp only [Bool.and_eq_true, beq_iff_eq] at h
      exact hf (by omega) h.1
    · rfl
  have hres : s.result 4 5 v = .ok (s.sentScalar 4 5 v) := result_room (by decide) hr
  simp only [State.load, regionOf_csr (show 8 * n < 0x8000 by omega), ha, hq, hv, beq_self_eq_true, Bool.and_self, must_true, ok_bind, hres, hc]
  rfl

/-! ## Stores (R77, R78, R228, R230) -/

theorem Room.booked {k : Nat} (h : Room s k) {unit store lat : Nat} {write : Bool} {offs : List Nat} :
    Room (s.booked unit store lat write offs) k := h

/-- The low w bytes of b, which a store writes. -/
def storeValue (s : State) (w : Nat) : Nat := (s.core.port 4 2).toNat % 2 ^ (8 * w)

theorem store_sp (ha : ea % w = 0) (hea : ea = spBase + off) (ho : off < 0x400000) (hf : s.core.task.spOk off w = true)
    (hx : s.core.indexHit off w = false) (hb : BanksFree s 0 2 true [off]) (hr : Room s 1) :
    s.store w ea = .ok ((s.booked 4 0 2 true [off]).sent 4 [(2, .spWrite off w (storeValue s w), 0)]) := by
  have hi := issue1_room (unit := 4) (lat := 2) (act := .spWrite off w (storeValue s w)) (fl := 0) (by decide) (hr.booked (unit := 4) (store := 0)
    (lat := 2) (write := true) (offs := [off]))
  have hreg : regionOf ea = .sp off := by rw [hea]; exact regionOf_sp ho
  simp only [State.store, hreg, ha, hf, hx, beq_self_eq_true, Bool.not_false, must_true, ok_bind, book_free hb]
  exact hi

theorem store_acc (ha : ea % w = 0) (hea : ea = accBase + off) (ho : off < 0x800000) (hf : s.core.task.accOk off w = true)
    (hb : BanksFree s 1 2 true [off]) (hr : Room s 1) :
    s.store w ea = .ok ((s.booked 4 1 2 true [off]).sent 4 [(2, .accWrite off w (storeValue s w), 0)]) := by
  have hi := issue1_room (unit := 4) (lat := 2) (act := .accWrite off w (storeValue s w)) (fl := 0) (by decide) (hr.booked (unit := 4) (store := 1)
    (lat := 2) (write := true) (offs := [off]))
  have hreg : regionOf ea = .acc off := by rw [hea]; exact regionOf_acc ho
  simp only [State.store, hreg, ha, hf, beq_self_eq_true, must_true, ok_bind, book_free hb]
  exact hi

theorem store_global {leaf : Leaf} (ha : ea % w = 0) (hg : ea < peerBase) (hl : heldLeaf s ea false true = some leaf)
    (hr : (s.core.gacc.filter fun g => g.act.writes && g.act != .later).length < 64) :
    s.store w ea = .ok (s.sendGlobal s.core.tcls ea (leaf.phys ea 0) leaf.rpl (.write (leBytes (storeValue s w) w)) (s.core.here 4) false) := by
  have hroom : s.core.writeRoom = true := decide_eq_true hr
  simp only [State.store, regionOf_global hg, ha, beq_self_eq_true, must_true, ok_bind, translate_held hl, hroom]
  rfl

theorem pushBad_none {core : Nat} (hc : s.core.task.rect.has core = true) (hf : s.core.task.spOk off w = true)
    (hp : s.core.pflag.toNat % 8 = 0) (hw : s.core.pflag.toNat + 8 ≤ 65536 * s.core.task.spUnits) : s.core.pushBad core off w ea = none := by
  simp [Core.pushBad, Core.pflagOk, hc, hf, hp, hw]

theorem store_peer {core : Nat} (ha : ea % w = 0) (hea : regionOf ea = .peer core off) (hb : s.core.pushBad core off w ea = none) :
    s.store w ea = .ok (s.sendPushRows core [(off, leBytes (storeValue s w) w)]) := by
  simp only [State.store, hea, ha, beq_self_eq_true, must_true, ok_bind, hb]
  rfl

theorem store_csr {n : Nat} (hn : n < 0x1000) (hr : Room s 1) (hb : s.core.csrwBad n (s.core.port 4 2) = none) :
    s.store 8 (csrBase + 8 * n) = .ok (s.sent 4 [(1, .csr (BitVec.ofNat 12 n) (s.core.port 4 2), 0)]) := by
  have hq : 8 * n / 8 = n := by omega
  have ha : (csrBase + 8 * n) % 8 = 0 := by unfold csrBase; omega
  have hi : s.issue1 4 1 (.csr (BitVec.ofNat 12 n) (s.core.port 4 2)) = .ok (s.sent 4 [(1, .csr (BitVec.ofNat 12 n) (s.core.port 4 2), 0)]) :=
    issue1_room (by decide) hr
  simp only [State.store, regionOf_csr (show 8 * n < 0x8000 by omega), ha, hq, beq_self_eq_true, Bool.and_self, must_true, ok_bind, aguB, hb, hi]

end Agu

/-! ## The AGU statements on global memory, stores and the register window -/

/-- Settles O13: the load's row, then the translated access with its due cycle and its replica. -/
theorem loadGlobal : Obligations.LoadGlobal := by
  unfold Obligations.LoadGlobal
  intro i m w e s leaf hi hf hr ha hg hl
  rw [exec_loadForm hi]
  refine aguOp_acts hf (by unfold peerBase at hg; omega) ?_
  rw [load_global ha hg hr hl, loadDue_eq, phys_read]

/-- Settles O14: one lemma for each store that an address can lie in. -/
theorem storeResults : Obligations.StoreResults := by
  unfold Obligations.StoreResults
  intro i m w s off hi hf ha v
  rw [exec_storeForm hi]
  refine ⟨fun store hs hea ho hfoot hx hb hr => ?local_, fun leaf hg hl hr => ?global, fun core hc hea ho hrect hfoot hp hw => ?peer⟩
  case local_ =>
    obtain rfl | rfl : store = 0 ∨ store = 1 := by omega
    · exact aguOp_acts hf (by rw [hea]; exact lt_of_lt_of_le (Nat.add_lt_add_left ho _) (by decide)) (store_sp ha hea ho hfoot (hx rfl) hb hr)
    · exact aguOp_acts hf (by rw [hea]; exact lt_of_lt_of_le (Nat.add_lt_add_left ho _) (by decide)) (store_acc ha hea ho hfoot hb hr)
  case global => exact aguOp_acts hf (by unfold peerBase at hg; omega) (store_global ha hg hl hr)
  case peer =>
    exact aguOp_acts hf (by rw [hea]; unfold peerBase; omega)
      (store_peer ha (by rw [hea]; exact regionOf_peer hc ho) (pushBad_none hrect hfoot hp hw))

/-- Settles O15: the window's read with its check of FMT, and its write. -/
theorem registerWindow : Obligations.RegisterWindow := by
  unfold Obligations.RegisterWindow
  intro m s n hf hr hn hea
  have hlt : aguEA s m < 2 ^ 57 := by rw [hea]; unfold csrBase; omega
  refine ⟨fun v hv hfmt => ?read, fun hb => ?write⟩
  case read => rw [exec_ld64]; exact aguOp_acts hf hlt (by rw [hea]; exact load_csr hn hr hv hfmt)
  case write => rw [exec_st64]; exact aguOp_acts hf hlt (by rw [hea]; exact store_csr hn hr hb)

end Sys2Proof.Machine

namespace Sys2Proof.Machine
open Sys2Proof.Manual

/-! PROOF. The steps of copy channels, sparse streams and bindings. -/

/-! ## The keys of a pair (R298) -/

theorem contains_cons_of_ne {x b : Nat} (bs : List Nat) (h : x ≠ b) : (b :: bs).contains x = bs.contains x := by
  simp [h]

/-- Of two sorted streams with fuel enough, isect_or_diff keeps the keys of the first that the second has, or has not. -/
theorem pairKeys_eq_filter (diff : Bool) (fuel : Nat) (as bs : List Nat) (ha : as.Pairwise (· < ·)) (hb : bs.Pairwise (· < ·))
    (hf : as.length + bs.length ≤ fuel) : pairKeys diff fuel as bs = as.filter fun x => bs.contains x != diff := by
  induction fuel generalizing as bs with
  | zero =>
    obtain rfl : as = [] := List.length_eq_zero_iff.mp (by omega)
    rfl
  | succ fuel ih =>
    match as, bs with
    | [], _ => rfl
    | a :: as, [] => cases diff <;> simp [pairKeys]
    | a :: as, b :: bs =>
      obtain ⟨haHead, haTail⟩ := List.pairwise_cons.mp ha
      obtain ⟨hbHead, hbTail⟩ := List.pairwise_cons.mp hb
      simp only [List.length_cons] at hf
      have skip : ∀ xs : List Nat, (∀ x ∈ xs, b < x) →
          (xs.filter fun x => bs.contains x != diff) = xs.filter fun x => (b :: bs).contains x != diff := fun xs hxs =>
        List.filter_congr fun x hx => by rw [contains_cons_of_ne bs (Nat.ne_of_gt (hxs x hx))]
      rcases Nat.lt_trichotomy a b with hlt | rfl | hgt
      · have hout : (b :: bs).contains a = false := by
          simp only [List.contains_eq_mem, List.mem_cons, decide_eq_false_iff_not, not_or]
          exact ⟨Nat.ne_of_lt hlt, fun hmem => Nat.lt_asymm hlt (hbHead a hmem)⟩
        have hrec := ih as (b :: bs) haTail hb (by simp only [List.length_cons]; omega)
        cases diff <;> simp only [pairKeys, hlt, if_true, hrec, List.filter_cons, hout] <;> rfl
      · have hrec := (ih as bs haTail hbTail (by omega)).trans (skip as haHead)
        have hin : (a :: bs).contains a = true := by simp
        cases diff <;> simp only [pairKeys, Nat.lt_irrefl, if_false, if_true, hrec, List.filter_cons, hin] <;> rfl
      · have hrec := (ih (a :: as) bs ha hbTail (by simp only [List.length_cons]; omega)).trans
          (skip (a :: as) (List.forall_mem_cons.mpr ⟨hgt, fun x hx => hgt.trans (haHead x hx)⟩))
        simp only [pairKeys, Nat.lt_asymm hgt, hgt, if_false, if_true, hrec]

/-! ## Bytes that come back (R292, R300) -/

theorem rdBytes_length (m : Mem) (a n : Nat) : (rdBytes m a n).length = n := by
  induction n generalizing a with
  | zero => rfl
  | succ n ih => rw [rdBytes, List.length_cons, ih]

theorem rdBytes_add (m : Mem) (a i n : Nat) : rdBytes m a (i + n) = rdBytes m a i ++ rdBytes m (a + i) n := by
  induction i generalizing a with
  | zero => simp [rdBytes]
  | succ i ih => rw [Nat.succ_add, rdBytes, rdBytes, ih, List.cons_append, Nat.succ_add_eq_add_succ]

/-- A part of the bytes read is what a read of that part gives. -/
theorem rdBytes_slice (m : Mem) (a : Nat) {i n len : Nat} (h : i + n ≤ len) : ((rdBytes m a len).drop i).take n = rdBytes m (a + i) n := by
  obtain ⟨k, rfl⟩ := Nat.exists_eq_add_of_le h
  rw [Nat.add_assoc, rdBytes_add, rdBytes_add, List.drop_left' (rdBytes_length m a i), List.take_left' (rdBytes_length m (a + i) n)]

/-- Bytes that reach an engine one after another. -/
theorem foldl_toEngine {β : Type} (unit cmd : Nat) (item : β → Nat) (data : β → List Byte) (l : List β) (s : State) :
    l.foldl (fun st x => st.toEngine unit cmd (item x) (data x)) s =
      s.onEng fun e => { e with delivered := e.delivered ++ l.map fun x => (unit, cmd, item x, data x) } := by
  induction l generalizing s with
  | nil => simp [State.onEng, State.onCore]
  | cons x l ih =>
    rw [List.foldl_cons, ih]
    simp only [State.toEngine, State.onEng, State.onCore, List.map_cons, List.append_assoc, List.singleton_append]

theorem absorbCopies_of_none {e : Engines} (h : ∀ d ∈ e.delivered, d.1 ≠ 10) : e.absorbCopies = e := by
  have hmine : ∀ p : Nat × Nat × Nat × List Byte → Bool, e.delivered.filter (fun d => d.1 == 10 && p d) = [] := fun p =>
    List.filter_eq_nil_iff.mpr fun d hd => by simp [h d hd]
  have hrest : ∀ p : Nat × Nat × Nat × List Byte → Bool, e.delivered.filter (fun d => d.1 != 10 || p d) = e.delivered := fun p =>
    List.filter_eq_self.mpr fun d hd => by simp [h d hd]
  simp [Engines.absorbCopies, hmine, hrest]

theorem absorbSps_of_none {e : Engines} (h : ∀ d ∈ e.delivered, d.1 ≠ 11) : e.absorbSps = e := by
  have hmine : e.delivered.filter (fun d => d.1 == 11) = [] := List.filter_eq_nil_iff.mpr fun d hd => by simp [h d hd]
  have hrest : e.delivered.filter (fun d => d.1 != 11) = e.delivered := List.filter_eq_self.mpr fun d hd => by simp [h d hd]
  simp [Engines.absorbSps, hmine, hrest]

theorem onEng_eq_self {s : State} {f : Engines → Engines} (h : f s.core.eng = s.core.eng) : s.onEng f = s := by
  simp only [State.onEng, State.onCore, h]

/-! ## A channel asks for its next unit (R86, R292, R293) -/

section Request

variable {s : State} {c : Copy}

/-- What the reads of a unit leave but for the bytes: the clock, the place in core order, and the copies. -/
def SameAsking (s t : State) : Prop := t.wall = s.wall ∧ t.core.gid = s.core.gid ∧ t.core.eng.copies = s.core.eng.copies

/-- From s to t a copy has asked for its unit u: the unit stands in its list, to be written no earlier than a free moment to come, and its
write has taken the next place in core order (R100, R292). -/
def UnitEntered (s t : State) (c : Copy) (u : Nat) : Prop :=
  ∃ due, s.wall < due ∧ t.core.gid = s.core.gid + 1 ∧ t.core.eng.copies = s.core.eng.copies.map fun x =>
    if x.id = c.id then { x with issued := u + 1, units := x.units ++ [⟨u, [], (c.srcPieces u).length, due, s.core.gid, false⟩] } else x

theorem requestUnit_enters {u : Nat} {t : State} (ht : SameAsking s t)
    (hreads : (if c.turnsLocal then s.readLine c u else
      ((c.srcPieces u).zipIdx).foldl (fun st (p, i) => st.requestPiece c (64 * u + i) p.1 p.2) s) = t) :
    UnitEntered s (s.requestUnit c u) c u ∧ (s.requestUnit c u).core.eng.delivered = t.core.eng.delivered := by
  obtain ⟨hwall, hgid, hcopies⟩ := ht
  unfold State.requestUnit
  simp only [hreads]
  refine ⟨⟨s.wall + 1 + Config.outsideDelay t.nReq, by omega, congrArg (· + 1) hgid, ?_⟩, rfl⟩
  rw [← hgid, ← hcopies]
  rfl

/-- The pieces of a unit in the scratchpad are read at once. -/
theorem foldl_requestPiece_local (u : Nat) (ps : List ((Nat × Nat) × Nat)) (h : ∀ p ∈ ps, ∃ off, regionOf p.1.1 = .sp off) (s : State) :
    let t := ps.foldl (fun st (p, i) => st.requestPiece c (64 * u + i) p.1 p.2) s
    SameAsking s t ∧ t.core.eng.delivered.map (fun d => (d.1, d.2.1)) =
      s.core.eng.delivered.map (fun d => (d.1, d.2.1)) ++ ps.map fun _ => (10, c.id) := by
  induction ps generalizing s with
  | nil => simp [SameAsking]
  | cons p ps ih =>
    obtain ⟨⟨off, hoff⟩, hrest⟩ := List.forall_mem_cons.mp h
    have hone : s.requestPiece c (64 * u + p.2) p.1.1 p.1.2 =
        (s.onCore fun k => k.bookEng 10 (4 + c.ch) c.id 0 false (rowsIn off p.1.2)).toEngine 10 c.id (64 * u + p.2)
          (rdBytes s.core.sp off p.1.2) := by
      simp only [State.requestPiece, hoff]
    obtain ⟨⟨hwall, hgid, hcopies⟩, hdel⟩ := ih hrest (s.requestPiece c (64 * u + p.2) p.1.1 p.1.2)
    rw [hone] at hwall hgid hcopies hdel
    simp only [List.foldl_cons, hone]
    refine ⟨⟨hwall, hgid, hcopies⟩, hdel.trans ?_⟩
    simp [State.toEngine, Core.bookEng, State.onCore]

theorem copyUnitRequest_asks {ch : BitVec 1} (h : s.core.requesting ch.toNat = some c) :
    exec (.copyUnitRequest ch) s = .next (s.requestUnit c c.issued) := by
  change execCopyUnitRequest ch s = _
  simp only [execCopyUnitRequest, h]

/-- The source row that a local transposition reads, in the terms of R293. -/
theorem line_eq (u : Nat) : c.line u =
    (let n := 64 / c.esz
     (strideAt c.src c.sstride (64 * (u / (64 * c.esz) / (c.rlu / c.esz)) + u % 64) +
        (64 * (u / (64 * c.esz) % (c.rlu / c.esz)) * c.esz + 64 * (u % (64 * c.esz) / 64)),
      (List.range n).map fun e =>
        (64 * (64 * c.esz * (u / (64 * c.esz)) + c.esz * (u % (64 * c.esz) / 64 * n + e) + u % 64 / n) + u % 64 % n, c.esz * e))) := by
  simp only [Copy.line, Nat.add_assoc]
  congr 2
  funext e
  ring_nf

theorem readLine_sp {u off : Nat} (h : regionOf (c.line u).1 = .sp off) : s.readLine c u =
    (s.onCore fun k => k.bookEng 10 (4 + c.ch) c.id 0 false (rowsIn off 64)).onEng fun e =>
      { e with delivered := e.delivered ++ (c.line u).2.map fun x => (10, c.id, x.1, ((rdBytes s.core.sp off 64).drop x.2).take c.esz) } := by
  unfold State.readLine
  simp only [h]
  exact foldl_toEngine 10 c.id (fun x : Nat × Nat => x.1) (fun x => ((rdBytes s.core.sp off 64).drop x.2).take c.esz) (c.line u).2 _


theorem requestUnit_local (hturns : c.turnsLocal = false) (hlocal : ∀ p ∈ c.srcPieces c.issued, ∃ off, regionOf p.1 = .sp off) :
    UnitEntered s (s.requestUnit c c.issued) c c.issued ∧
      (s.requestUnit c c.issued).core.eng.delivered.map (fun d => (d.1, d.2.1)) =
        s.core.eng.delivered.map (fun d => (d.1, d.2.1)) ++ (c.srcPieces c.issued).map fun _ => (10, c.id) := by
  obtain ⟨hsame, hdel⟩ := foldl_requestPiece_local (c := c) c.issued (c.srcPieces c.issued).zipIdx
    (fun p hp => hlocal p.1 (List.fst_mem_of_mem_zipIdx hp)) s
  obtain ⟨henters, hgiven⟩ := requestUnit_enters hsame (if_neg (by simp [hturns]))
  refine ⟨henters, ?_⟩
  rw [hgiven, hdel, List.map_const', List.map_const', List.length_zipIdx]

theorem requestUnit_line {off : Nat} (hturns : c.turnsLocal = true) (hoff : regionOf (c.line c.issued).1 = .sp off) :
    UnitEntered s (s.requestUnit c c.issued) c c.issued ∧
      (s.requestUnit c c.issued).core.eng.delivered = s.core.eng.delivered ++
        (c.line c.issued).2.map fun x => (10, c.id, x.1, ((rdBytes s.core.sp off 64).drop x.2).take c.esz) := by
  have hread := readLine_sp (s := s) hoff
  obtain ⟨henters, hgiven⟩ := requestUnit_enters (s := s) (u := c.issued) (t := s.readLine c c.issued)
    (by rw [hread]; exact ⟨rfl, rfl, rfl⟩) (if_pos hturns)
  refine ⟨henters, ?_⟩
  rw [hgiven, hread]
  rfl

/-- The pieces of the row are the elements of the column units that they go to (R293). -/
theorem line_bytes (m : Mem) (off u : Nat) :
    ((c.line u).2.map fun x => (10, c.id, x.1, ((rdBytes m off 64).drop x.2).take c.esz)) =
      (let n := 64 / c.esz
       (List.range n).map fun e => (10, c.id,
        64 * (64 * c.esz * (u / (64 * c.esz)) + c.esz * (u % (64 * c.esz) / 64 * n + e) + u % 64 / n) + u % 64 % n, rdBytes m (off + c.esz * e) c.esz)) := by
  rw [line_eq]
  simp only [List.map_map]
  refine List.map_congr_left fun e he => ?_
  have hfit : c.esz * e + c.esz ≤ 64 := calc
    c.esz * e + c.esz = (e + 1) * c.esz := by ring
    _ ≤ 64 / c.esz * c.esz := Nat.mul_le_mul_right _ (List.mem_range.mp he)
    _ ≤ 64 := Nat.div_mul_le_self 64 c.esz
  simp only [Function.comp_apply, rdBytes_slice m off hfit]

end Request

/-! ## A channel writes its next unit (R85, R292) -/

section Write

variable {s : State} {c : Copy} {x : CUnit} {rest : List CUnit} {off : Nat}

theorem writeLocalUnit_writes (hslot : s.core.slotFree c x.u = true) (hbank : s.core.bankFree 0 off = true)
    (hrank : s.outranked c false off = false) : s.writeLocalUnit c x false off =
      (s.onCore fun k => { k with
        oppUsed := k.oppUsed ++ [(0, bankOf 0 off)]
        engWrites := k.engWrites ++ [(false, off, x.bytes)] }).onEng fun e => e.unitWritten c x.u := by
  simp [State.writeLocalUnit, hslot, hbank, hrank]

/-- The next unit in order of a channel's earliest unfinished copy is written once its bytes are there. -/
theorem channelWrite_local {ch : Nat} (hdel : ∀ d ∈ s.core.eng.delivered, d.1 ≠ 10)
    (hc : s.core.eng.copies.find? (fun k => k.ch == ch && (k.written < k.count || !k.raised)) = some c) (hmore : c.written < c.count)
    (hunits : c.units = x :: rest) (hsent : x.sent = false) (hparts : x.parts.length = x.need) (hdue : x.due ≤ s.wall)
    (hoff : regionOf (s.core.copyDst c x.u) = .sp off) : s.channelWrite ch = s.writeLocalUnit c x false off := by
  have hfirst : c.units.find? (fun y => !y.sent) = some x := by rw [hunits, List.find?_cons_of_pos (by simp [hsent])]
  have hready : x.ready s.wall = true := by simp [CUnit.ready, hparts, hdue]
  unfold State.channelWrite
  simp only [onEng_eq_self (absorbCopies_of_none hdel), hc, if_neg (Nat.ne_of_lt hmore), hfirst, hready, hoff, Bool.not_true,
    Bool.false_eq_true, if_false]

theorem unitWritten_cwp (e : Engines) (u : Nat) (hch : c.ch < 2) : vget 0 (e.unitWritten c u).cwp c.ch = vget 0 e.cwp c.ch + 1 :=
  vget_vset_same 0 e.cwp _ hch

end Write

/-! ## Sparse streams (R298 to R300) -/

section Streams

variable {s : State} {c : SpsCmd}

/-- The one command of SPS, its keys formed, is counted in its due cycle. -/
theorem spsDue_counts (hc : s.core.eng.sps = [c]) (hdel : ∀ d ∈ s.core.eng.delivered, d.1 ≠ 11) (hformed : c.formed = true)
    (hcounted : c.counted = false) (hdue : c.due ≤ s.core.tcc) :
    exec .spsDue s = .next (s.onEng fun e => { e.unpin c.id with
      spsCount := BitVec.ofNat 64 c.count, spsTotal := e.spsTotal + BitVec.ofNat 64 c.count, sps := [] }) := by
  change execSpsDue s = _
  unfold execSpsDue
  simp only [onEng_eq_self (absorbSps_of_none hdel), hc, List.filter_cons, List.filter_nil, hformed, hcounted, hdue, Bool.not_true,
    Bool.and_false, Bool.false_and, Bool.false_eq_true, if_false, decide_true, Bool.not_false, Bool.and_self, if_true, List.foldl_cons,
    List.foldl_nil]
  simp [State.onEng, State.onCore, Engines.unpin, hc]

/-- The one command of SPS reads its next scratchpad row. -/
theorem spsCommandStart_reads {p : Nat × Nat × Nat} {off : Nat} (hc : s.core.eng.sps = [c]) (hs : c.start < s.core.tcc)
    (hp : c.localPieces[s.core.tcc - c.start - 1]? = some p) (hoff : p.2.1 = spBase + off) :
    exec .spsCommandStart s = .next
      ((s.onCore fun k => k.bookEng 11 4 c.id 0 false [off]).toEngine 11 c.id p.1 (rdBytes s.core.sp off p.2.2)) := by
  have hsub : p.2.1 - spBase = off := by omega
  change execSpsCommandStart s = _
  unfold execSpsCommandStart
  simp only [hc, List.foldl_cons, List.foldl_nil, if_neg (Nat.ne_of_gt hs), hp, if_neg (Nat.lt_asymm hs), hsub]

end Streams

/-! ## Bindings (R87, R302) -/

theorem foldl_unpin_binds (l : List BindSwitch) (e : Engines) : (l.foldl (fun k x => k.unpin x.id) e).binds = e.binds := by
  induction l generalizing e with
  | nil => rfl
  | cons x l ih => rw [List.foldl_cons, ih]; rfl

/-- With numbers of their own, the entries of a list that a filter of it names are those that the filter keeps. -/
theorem any_filter_id {α : Type} {f : α → Nat} {l : List α} (h : (l.map f).Nodup) (p : α → Bool) {x : α} (hx : x ∈ l) :
    (l.filter p).any (fun y => f y == f x) = p x := by
  rw [Bool.eq_iff_iff, List.any_eq_true]
  constructor
  · rintro ⟨y, hy, he⟩
    obtain ⟨hmem, hp⟩ := List.mem_filter.mp hy
    rwa [← List.inj_on_of_nodup_map h hmem hx (beq_iff_eq.mp he)]
  · exact fun hp => ⟨x, List.mem_filter.mpr ⟨hx, hp⟩, beq_self_eq_true _⟩

theorem windowBindingSwitch_switches {s : State} {b : BindSwitch} (hb : Only (·.id) s.core.eng.binds b)
    (hids : (s.core.eng.binds.map (·.id)).Nodup) (hs : b.start ≤ s.core.tcc) :
    ∃ t, exec (.windowBindingSwitch b.id) s = .next t ∧ t.core.eng.binds = s.core.eng.binds.filter fun x =>
      !(x.w == b.w && (decide (x.start < b.start) || (x.start == b.start && decide (x.id < b.id)))) && !(x.id == b.id && b.bind.isNone) := by
  have hfind : s.core.eng.binds.find? (fun x => x.id == b.id && decide (x.start ≤ s.core.tcc)) = some b :=
    find_only hb (decide_eq_true hs)
  change ∃ t, execWindowBindingSwitch b.id s = .next t ∧ _
  unfold execWindowBindingSwitch
  simp only [hfind]
  refine ⟨_, rfl, ?_⟩
  simp only [onEng_core, foldl_unpin_binds]
  exact List.filter_congr fun x hx => by rw [any_filter_id hids _ hx]

end Sys2Proof.Machine

namespace Sys2Proof.Machine
open Sys2Proof.Manual

/-! PROOF. The steps of the Ember field. -/

/-! ## Folds over sparse storage -/

theorem sget_sset {α : Type} [DecidableEq α] (d : α) (m : List (Nat × α)) (a b : Nat) (x : α) :
    sget d (sset d m a x) b = if b = a then x else sget d m b := by
  split
  next h => rw [h, sget_sset_same]
  next h => exact sget_sset_ne d m x h

section Folds

variable {α β : Type} {d : α} {step : List (Nat × α) → β → List (Nat × α)} {k : β → Nat} {h : β → α → α}
  (hstep : ∀ m x a, sget d (step m x) a = if a = k x then h x (sget d m a) else sget d m a)
include hstep

theorem sget_foldl_outside (l : List β) (m : List (Nat × α)) {a : Nat} (ha : a ∉ l.map k) :
    sget d (l.foldl step m) a = sget d m a := by
  induction l generalizing m with
  | nil => rfl
  | cons x l ih =>
    rw [List.map_cons, List.mem_cons, not_or] at ha
    rw [List.foldl_cons, ih _ ha.2, hstep, if_neg ha.1]

/-- Updates of distinct places each act on what was there before them all. -/
theorem sget_foldl_inside {l : List β} (hl : (l.map k).Nodup) (m : List (Nat × α)) {x : β} (hx : x ∈ l) :
    sget d (l.foldl step m) (k x) = h x (sget d m (k x)) := by
  induction l generalizing m with
  | nil => cases hx
  | cons y l ih =>
    rw [List.map_cons, List.nodup_cons] at hl
    rw [List.foldl_cons]
    rcases List.mem_cons.mp hx with rfl | hmem
    · rw [sget_foldl_outside hstep l _ hl.1, hstep, if_pos rfl]
    · have hne : k x ≠ k y := fun he => hl.1 (he ▸ List.mem_map_of_mem hmem)
      rw [ih hl.2 _ hmem, hstep, if_neg hne]

/-- What every update leaves at its place holds of every place updated. -/
theorem sget_foldl_forall {P : α → Prop} {l : List β} (hP : ∀ x ∈ l, ∀ v, P (h x v)) (m : List (Nat × α)) {a : Nat} (ha : a ∈ l.map k) :
    P (sget d (l.foldl step m) a) := by
  induction l generalizing m with
  | nil => cases ha
  | cons y l ih =>
    rw [List.foldl_cons]
    by_cases hmem : a ∈ l.map k
    · exact ih (fun x hx => hP x (List.mem_cons_of_mem y hx)) _ hmem
    · obtain rfl : a = k y := (List.mem_cons.mp ha).resolve_right hmem
      rw [sget_foldl_outside hstep l _ hmem, hstep, if_pos rfl]
      exact hP y List.mem_cons_self _

end Folds

/-! ## Fields of entries (R143, R144) -/

theorem bit_eq_bits (x i : Nat) : bit x i = decide (bits x i i = 1) := by
  rw [bit, bits, Nat.testBit_eq_decide_div_mod_eq, Nat.add_sub_cancel_left]
  rfl

theorem sInt_eq_signed (w x : Nat) : sInt w x = signed w x := by
  rw [sInt, BitVec.toInt_eq_toNat_bmod, BitVec.toNat_ofNat, Int.natCast_mod, Int.emod_bmod]
  rfl

/-! ## A command begins (R146 to R151, R304) -/

section Begin

variable {s : State} {c : ECmd}

theorem dueCmds_single {e : Ember} {now : Nat} (hc : e.cmds = [c]) (hs : c.start ≤ now) (hb : c.begun = false) (after : Bool) :
    e.dueCmds now after = if decide (4 ≤ c.act.rank) = after then [c] else [] := by
  simp only [Ember.dueCmds, hc, List.filter_cons, List.filter_nil, hs, hb, decide_true, Bool.not_false, Bool.and_self, Bool.true_and,
    beq_iff_eq]
  split <;> rfl

/-- The one command whose start has come begins, before the steps of domains or after them. -/
theorem emberCommandStart_begins (hc : s.core.eng.ember.cmds = [c]) (hs : c.start ≤ s.core.tcc) (hb : c.begun = false) :
    exec .emberCommandStart s = .next (s.embBegin c) := by
  have hdue := dueCmds_single (e := s.emb) hc hs hb
  change execEmberCommandStart s = _
  unfold execEmberCommandStart
  cases hrank : decide (4 ≤ c.act.rank) <;> simp [hdue, hrank]

theorem embBegin_clk {d mode div : Nat} (h : c.act = .clk d mode div) (hd : d < 4) :
    vget ⟨.stopped, 0⟩ (s.embBegin c).core.eng.ember.doms d = ⟨clkMode mode div s.core.tcc, 0⟩ := by
  simp only [State.embBegin, h]
  exact vget_vset_same _ _ _ hd

theorem patchWrite_get {es : List (Nat × W64)} (hes : (es.map (·.1)).Nodup) (t : List (Nat × W64)) {x : Nat × W64} (hx : x ∈ es) :
    sget 0 (patchWrite t es) x.1 = x.2 :=
  sget_foldl_inside (step := fun m (e : Nat × W64) => sset 0 m e.1 e.2) (k := (·.1)) (h := fun e _ => e.2)
    (fun m e a => sget_sset 0 m e.1 a e.2) hes t hx

theorem embBegin_patch {es : List (Nat × W64)} (h : c.act = .patch es) :
    (s.embBegin c).core.eng.ember.patch = patchWrite s.core.eng.ember.patch es := by
  simp only [State.embBegin, h]
  rfl

theorem embBegin_step {d n o : Nat} (h : c.act = .step d n) (hd : d < 4)
    (ho : (vget ⟨.stopped, 0⟩ s.core.eng.ember.doms d).mode = .counted o) :
    (vget ⟨.stopped, 0⟩ (s.embBegin c).core.eng.ember.doms d).mode = .counted (o + n) := by
  simp only [State.embBegin, h]
  refine (congrArg EDom.mode (vget_vset_same _ _ _ hd)).trans ?_
  simp only [EAct.onMode, if_true]
  rw [ho]

theorem embBegin_inc {g l : Nat} {lanes : List Nat} (h : c.act = .inc g lanes) (hl : l < lanes.length) :
    sget ELine.zero (s.embBegin c).core.eng.ember.lines (64 * g + l) =
      ⟨signOf (lanes.getD l 0 % 4), decide (bits (lanes.getD l 0) 2 2 = 1), s.core.tcc⟩ := by
  have hkeys : (lanes.zipIdx.map fun x => 64 * g + x.2).Nodup := by
    have hmap : (lanes.zipIdx.map fun x => 64 * g + x.2) = (List.range lanes.length).map (64 * g + ·) := by
      rw [List.range_eq_range', ← List.zipIdx_map_snd 0 lanes, List.map_map]
      rfl
    rw [hmap]
    exact List.nodup_range.map fun a b hab => Nat.add_left_cancel hab
  have hmem : (lanes.getD l 0, l) ∈ lanes.zipIdx := by
    rw [List.mem_zipIdx_iff_getElem?, List.getD_eq_getElem _ _ hl]
    exact List.getElem?_eq_getElem hl
  have hline := sget_foldl_inside (d := ELine.zero)
    (step := fun m (x : Nat × Nat) => sset ELine.zero m (64 * g + x.2) ⟨signCode (x.1 % 4), bit x.1 2, s.core.tcc⟩)
    (k := fun x => 64 * g + x.2) (h := fun x _ => ⟨signCode (x.1 % 4), bit x.1 2, s.core.tcc⟩) (fun m x a => sget_sset _ m _ a _)
    hkeys s.core.eng.ember.lines hmem
  rw [bit_eq_bits] at hline
  simp only [State.embBegin, h]
  exact hline

theorem embBegin_load {g off l : Nat} {mask : W64} (h : c.act = .load g off mask) (hl : l < 64) :
    (sget ECell.zero (s.embBegin c).core.eng.ember.cells (64 * g + l)).y =
      if mask.getLsbD l then signed 32 (rdLE s.core.sp (off + 4 * l) 4) else (sget ECell.zero s.core.eng.ember.cells (64 * g + l)).y := by
  have hcell := sget_foldl_inside (d := ECell.zero)
    (step := fun m (l : Nat) => if mask.getLsbD l then
      sset ECell.zero m (64 * g + l) { sget ECell.zero m (64 * g + l) with y := sInt 32 (rdLE s.core.sp (off + 4 * l) 4) } else m)
    (k := fun l => 64 * g + l)
    (h := fun l v => if mask.getLsbD l then { v with y := sInt 32 (rdLE s.core.sp (off + 4 * l) 4) } else v)
    (fun m l a => by
      by_cases hm : mask.getLsbD l
      · simp only [hm, if_true, sget_sset]
        split
        next ha => rw [ha]
        next => rfl
      · simp only [hm, if_false, ite_self, Bool.false_eq_true])
    (List.nodup_range.map fun a b hab => Nat.add_left_cancel hab) s.core.eng.ember.cells (List.mem_range.mpr hl)
  simp only [State.embBegin, h]
  refine (congrArg ECell.y hcell).trans ?_
  rw [sInt_eq_signed]
  by_cases hm : mask.getLsbD l = true
  · simp only [hm, if_true]
  · simp only [hm, if_false, Bool.false_eq_true]

theorem embBegin_read {g : Nat} {cnt : Bool} {p : Pend} (h : c.act = .read g cnt) (hp : s.core.pend = [p])
    (ha : p.act = .embVector c.id none) :
    (s.embBegin c).core.pend = [{ p with act := .embVector c.id (some (s.core.eng.ember.groupVec g cnt)) }] := by
  simp only [State.embBegin, h]
  simp [State.onEmb, Core.embValue, hp, ha]

/-- The cells that an esave or an erest is for, by the domains of the table in force (R151). -/
theorem selected_eq (e : Ember) (m : Nat) : e.selected m = (List.range 256).filter fun k =>
    bits m (bits (sget 0 e.patch k).toNat 58 57) (bits (sget 0 e.patch k).toNat 58 57) = 1 :=
  List.filter_congr fun k _ => bit_eq_bits m (patchDom (patchAt e.patch k))

theorem embBegin_save {m off : Nat} (h : c.act = .save m off) (hc : s.core.eng.ember.cmds = [c]) :
    (s.embBegin c).core.eng.ember.cmds = [{ c with begun := true, snap := (s.core.eng.ember.selected m).map fun i =>
      (i, (BitVec.ofInt 32 (s.core.eng.ember.cell i).y).toNat, (BitVec.ofInt 32 (s.core.eng.ember.cell i).r).toNat) }] := by
  simp only [State.embBegin, h]
  simp only [State.onEmb, onEng_core, hc, List.map_cons, List.map_nil, if_true, h]
  rfl

theorem embBegin_rest {m off : Nat} (h : c.act = .rest m off) (hc : s.core.eng.ember.cmds = [c]) :
    (s.embBegin c).core.eng.ember.cmds =
      [{ c with begun := true, snap := (s.core.eng.ember.selected m).map fun i => (i, 0, 0) }] := by
  simp only [State.embBegin, h]
  simp only [State.onEmb, onEng_core, hc, List.map_cons, List.map_nil, if_true, h]
  rfl

end Begin


/-! ## A domain steps (R143, R148, R153, R154) -/

theorem stepsNow_iff (m : EMode) (now : Nat) : m.stepsNow now = true ↔ stepsAt m now := by
  cases m <;> simp [EMode.stepsNow, stepsAt]

/-- Pulses that become 0 change the lines alone (R147). -/
theorem markStep_keeps (e : Ember) (now : Nat) : (e.markStep now).cells = e.cells ∧ (e.markStep now).patch = e.patch ∧
    (e.markStep now).doms = e.doms ∧ (e.markStep now).flt = e.flt := by
  unfold Ember.markStep
  split
  · split <;> exact ⟨rfl, rfl, rfl, rfl⟩
  · exact ⟨rfl, rfl, rfl, rfl⟩

section Step

variable {e : Ember} {now c d : Nat}

/-- A cell's step in the terms of R143 and R153. -/
theorem stepCell_eq (e : Ember) (c now : Nat) : e.stepCell c now =
    (let p := (sget 0 e.patch c).toNat
     let x := nextCell e now p (sget ECell.zero e.cells c)
     if bits p 61 59 < (sumN e now p).natAbs then .error 1
     else if 1 < x.z.natAbs then .error 2
     else if x.y < -(2 : Int) ^ 31 ∨ (2 : Int) ^ 31 - 1 < x.y then .error 3
     else .ok x) := rfl

theorem stepCell_ok (h : ¬ overruns e now (sget 0 e.patch c).toNat (sget ECell.zero e.cells c)) :
    e.stepCell c now = .ok (nextCell e now (sget 0 e.patch c).toNat (sget ECell.zero e.cells c)) := by
  simp only [overruns, not_or] at h
  obtain ⟨hn, hz, hlow, hhigh⟩ := h
  simp only [stepCell_eq, if_neg hn, if_neg hz, hlow, hhigh, or_self, if_false]

theorem stepCell_error (h : overruns e now (sget 0 e.patch c).toNat (sget ECell.zero e.cells c)) :
    ∃ k, e.stepCell c now = .error k := by
  rw [stepCell_eq]
  dsimp only
  split
  · exact ⟨1, rfl⟩
  next hn =>
    split
    · exact ⟨2, rfl⟩
    next hz =>
      split
      · exact ⟨3, rfl⟩
      next hy => exact absurd h (not_or.mpr ⟨hn, not_or.mpr ⟨hz, hy⟩⟩)

theorem stepCell_error_le {k : Nat} (h : e.stepCell c now = .error k) : k ≤ 3 := by
  rw [stepCell_eq] at h
  dsimp only at h
  split_ifs at h <;> simp only [Except.error.injEq] at h <;> omega

/-- The cells of a domain by the table in force (R144). -/
def Ember.cellsOf (e : Ember) (d : Nat) : List Nat := (List.range 256).filter fun c => patchDom (patchAt e.patch c) == d

theorem mem_cellsOf : c ∈ e.cellsOf d ↔ c < 256 ∧ bits (sget 0 e.patch c).toNat 58 57 = d := by
  simp only [Ember.cellsOf, List.mem_filter, List.mem_range, beq_iff_eq]
  rfl

/-- The first cell of a domain that overruns, with its cause. -/
def Ember.firstOverrun (e : Ember) (d now : Nat) : Option (Nat × Nat) :=
  (e.cellsOf d).findSome? fun c => match e.stepCell c now with | .error k => some (c, k) | .ok _ => none

theorem firstOverrun_none (h : ∀ c ∈ e.cellsOf d, ¬ overruns e now (sget 0 e.patch c).toNat (sget ECell.zero e.cells c)) :
    e.firstOverrun d now = none := by
  refine List.findSome?_eq_none_iff.mpr fun c hc => ?_
  rw [stepCell_ok (h c hc)]

theorem firstOverrun_some (hc : c ∈ e.cellsOf d) (h : overruns e now (sget 0 e.patch c).toNat (sget ECell.zero e.cells c)) :
    ∃ x k, e.firstOverrun d now = some (x, k) ∧ x < 256 ∧ k ≤ 3 := by
  obtain ⟨k, hk⟩ := stepCell_error h
  cases hf : e.firstOverrun d now with
  | none =>
    have hnone := List.findSome?_eq_none_iff.mp hf c hc
    simp [hk] at hnone
  | some y =>
    obtain ⟨x, hx, hy⟩ := List.exists_of_findSome?_eq_some hf
    cases hstep : e.stepCell x now with
    | error j =>
      simp only [hstep, Option.some.injEq] at hy
      exact ⟨x, j, by rw [hy], (mem_cellsOf.mp hx).1, stepCell_error_le hstep⟩
    | ok z => simp [hstep] at hy

/-- EMBFLT is valid after an abandoned step, whether it was before or not (R154). -/
theorem fltAfter_valid (flt : W64) {k d c : Nat} (hk : k ≤ 3) (hd : d < 4) (hc : c < 256) (steps : Nat) :
    (fltAfter flt k d c steps).getLsbD 63 = true := by
  have hbit : ∀ v : W64, v.getLsbD 63 = decide (2 ^ 63 ≤ v.toNat) := fun v => by
    rw [BitVec.getLsbD, Nat.testBit_eq_decide_div_mod_eq, decide_eq_decide]
    omega
  unfold fltAfter
  dsimp only
  split
  next hv =>
    have hhigh : 2 ^ 63 ≤ flt.toNat := by
      have : flt.getLsbD 63 = true := hv
      rwa [hbit, decide_eq_true_eq] at this
    split
    · exact hv
    next hcount =>
      have hroom : flt.toNat + 2 ^ 47 < 2 ^ 64 := by
        unfold fld at hcount
        omega
      rw [hbit, decide_eq_true_eq, BitVec.toNat_add, BitVec.toNat_ofNat]
      omega
  next =>
    rw [hbit, decide_eq_true_eq, BitVec.toNat_ofNat]
    omega

theorem stepDomain_eq (e : Ember) (d now : Nat) : e.stepDomain d now =
    (let m := e.markStep now
     let dom := vget ⟨.stopped, 0⟩ e.doms d
     match m.firstOverrun d now with
     | some (c, k) => { (m.setDom d fun x => { x with mode := .stopped }) with flt := fltAfter e.flt k d c dom.steps.toNat }
     | none => { (m.setDom d fun x => ⟨x.mode.later 1, x.steps + 1⟩) with
        cells := (m.cellsOf d).foldl (fun l c => match m.stepCell c now with | .ok x => sset .zero l c x | .error _ => l) e.cells }) := by
  obtain ⟨hcells, -, hdoms, hflt⟩ := markStep_keeps e now
  rw [← hcells, ← hdoms, ← hflt]
  rfl

/-- The cells of a domain that steps take their new states, and the others stay. -/
theorem sget_stepCells (l : List Nat) (hl : l.Nodup) (cells : List (Nat × ECell))
    (hok : ∀ c ∈ l, ¬ overruns e now (sget 0 e.patch c).toNat (sget ECell.zero e.cells c)) (c : Nat) :
    sget ECell.zero (l.foldl (fun m c => match e.stepCell c now with | .ok x => sset .zero m c x | .error _ => m) cells) c =
      if c ∈ l then nextCell e now (sget 0 e.patch c).toNat (sget ECell.zero e.cells c) else sget ECell.zero cells c := by
  have hstep : ∀ (m : List (Nat × ECell)) (x a : Nat),
      sget ECell.zero (match e.stepCell x now with | .ok y => sset .zero m x y | .error _ => m) a =
        if a = id x then (match e.stepCell x now with | .ok y => y | .error _ => sget ECell.zero m a) else sget ECell.zero m a := by
    intro m x a
    cases e.stepCell x now with
    | ok y => exact sget_sset _ m x a y
    | error k => exact (ite_self _).symm
  split
  next hc =>
    refine (sget_foldl_inside (h := fun x v => match e.stepCell x now with | .ok y => y | .error _ => v) hstep
      (by rwa [List.map_id]) cells hc).trans ?_
    rw [id, stepCell_ok (hok c hc)]
  next hc =>
    exact sget_foldl_outside (h := fun x v => match e.stepCell x now with | .ok y => y | .error _ => v) hstep l cells
      (by rwa [List.map_id])

theorem stepDomain_steps (hd : d < 4) (hok : ∀ c ∈ (e.markStep now).cellsOf d,
      ¬ overruns (e.markStep now) now (sget 0 (e.markStep now).patch c).toNat (sget ECell.zero (e.markStep now).cells c)) :
    (e.stepDomain d now).flt = e.flt ∧ (vget ⟨.stopped, 0⟩ (e.stepDomain d now).doms d).steps = (vget ⟨.stopped, 0⟩ e.doms d).steps + 1 ∧
    ∀ c, sget ECell.zero (e.stepDomain d now).cells c = if c ∈ (e.markStep now).cellsOf d then
      nextCell (e.markStep now) now (sget 0 (e.markStep now).patch c).toNat (sget ECell.zero (e.markStep now).cells c)
      else sget ECell.zero e.cells c := by
  obtain ⟨-, -, hdoms, hflt⟩ := markStep_keeps e now
  simp only [stepDomain_eq, firstOverrun_none hok]
  refine ⟨hflt, ?_, sget_stepCells _ (List.nodup_range.filter _) e.cells hok⟩
  rw [← hdoms]
  exact congrArg EDom.steps (vget_vset_same _ _ _ hd)

theorem stepDomain_abandons (hd : d < 4) (hc : c ∈ (e.markStep now).cellsOf d)
    (h : overruns (e.markStep now) now (sget 0 (e.markStep now).patch c).toNat (sget ECell.zero (e.markStep now).cells c)) :
    (e.stepDomain d now).cells = e.cells ∧
      vget ⟨.stopped, 0⟩ (e.stepDomain d now).doms d = ⟨.stopped, (vget ⟨.stopped, 0⟩ e.doms d).steps⟩ ∧
      (e.stepDomain d now).flt.getLsbD 63 = true := by
  obtain ⟨hcells, -, hdoms, -⟩ := markStep_keeps e now
  obtain ⟨x, k, hbad, hx, hk⟩ := firstOverrun_some hc h
  simp only [stepDomain_eq, hbad]
  refine ⟨hcells, ?_, fltAfter_valid e.flt hk hd hx _⟩
  rw [← hdoms]
  exact vget_vset_same _ _ _ hd

end Step

section DomainStep

variable {s : State} {d : BitVec 2}

theorem domainStep_rests (h : ¬ stepsAt (vget ⟨.stopped, 0⟩ s.core.eng.ember.doms d.toNat).mode s.core.tcc) :
    exec (.domainStep d) s = .next s := by
  rw [← stepsNow_iff] at h
  exact congrArg Host.Outcome.next (if_neg h)

theorem domainStep_steps (h : stepsAt (vget ⟨.stopped, 0⟩ s.core.eng.ember.doms d.toNat).mode s.core.tcc) :
    exec (.domainStep d) s = .next (s.onEmb fun e => e.stepDomain d.toNat s.core.tcc) :=
  congrArg Host.Outcome.next (if_pos ((stepsNow_iff _ _).mpr h))

end DomainStep

/-! ## esave and erest move their rows (R151) -/

section Image

variable {s : State} {c : ECmd} {m off : Nat}

theorem find_begun (hc : s.core.eng.ember.cmds = [c]) (hb : c.begun = true) :
    s.emb.cmds.find? (fun x => x.id == c.id && x.begun) = some c := by
  rw [State.emb, hc]
  exact List.find?_cons_of_pos (by simp [hb])

theorem esaveRow_writes {r : Nat} (hc : s.core.eng.ember.cmds = [c]) (hb : c.begun = true) (ha : c.act = .save m off) (hr : r < 32)
    (ht : s.core.tcc = c.start + 1 + r) : ∃ t, exec (.esaveRow c.id) s = .next t ∧
      t.core.engWrites = s.core.engWrites ++ (c.snap.filter fun x => x.1 / 8 == r).map fun x =>
        (false, off + 8 * x.1, leBytes x.2.1 4 ++ leBytes x.2.2 4) := by
  have hrow : s.core.tcc - c.start - 1 = r := by omega
  have hlate : c.start < s.core.tcc := by omega
  change ∃ t, execEsaveRow c.id s = .next t ∧ _
  unfold execEsaveRow
  simp only [find_begun hc hb, ha, hrow, hlate, hr, and_self, if_true]
  refine ⟨_, rfl, ?_⟩
  split <;> rfl

theorem erestApply_reads {r : Nat} (hc : s.core.eng.ember.cmds = [c]) (hb : c.begun = true) (ha : c.act = .rest m off) (hr : r < 32)
    (ht : s.core.tcc = c.start + r) : ∃ t, exec (.erestApply c.id) s = .next t ∧ t.core.eng.ember.cells = s.core.eng.ember.cells ∧
      t.core.eng.ember.cmds = [{ c with rows := c.rows ++ [(r, rdBytes s.core.sp (off + 64 * r) 64)] }] := by
  have hrow : s.core.tcc - c.start = r := by omega
  change ∃ t, execErestApply c.id s = .next t ∧ _
  unfold execErestApply
  simp only [find_begun hc hb, hrow, hr, if_true]
  split
  next off' hact =>
    obtain ⟨-, rfl⟩ := EAct.rest.inj (ha.symm.trans hact)
    refine ⟨_, rfl, rfl, ?_⟩
    simp only [State.onEmb, onEng_core, onCore_core, Core.bookEng, hc, List.map_cons, List.map_nil, if_true]
  next hno => exact absurd ha (hno m off)

theorem erestApply_applies (hc : s.core.eng.ember.cmds = [c]) (hb : c.begun = true) (ha : c.act = .rest m off)
    (ht : s.core.tcc = c.start + 32) : ∃ t, exec (.erestApply c.id) s = .next t ∧ t.core.eng.ember.cmds = [] ∧
      ∀ x ∈ c.snap, (sget ECell.zero t.core.eng.ember.cells x.1).cnt = 0 ∧ (sget ECell.zero t.core.eng.ember.cells x.1).z = 0 := by
  have hrow : s.core.tcc - c.start = 32 := by omega
  let img := wordsOf 4 (c.rows.flatMap (·.2)) 512
  change ∃ t, execErestApply c.id s = .next t ∧ _
  unfold execErestApply
  simp only [find_begun hc hb, ha, hrow, Nat.lt_irrefl, if_false]
  refine ⟨_, rfl, ?_, fun x hx => ?_⟩
  · simp [State.onEmb, hc]
  · exact sget_foldl_forall (d := ECell.zero)
      (step := fun m (x : Nat × Nat × Nat) => sset .zero m x.1 ⟨sInt 32 (img.getD (2 * x.1) 0), sInt 32 (img.getD (2 * x.1 + 1) 0), 0, 0⟩)
      (k := (·.1)) (h := fun x _ => ⟨sInt 32 (img.getD (2 * x.1) 0), sInt 32 (img.getD (2 * x.1 + 1) 0), 0, 0⟩)
      (P := fun v => v.cnt = 0 ∧ v.z = 0) (fun m x a => sget_sset _ m _ a _) (fun _ _ _ => ⟨rfl, rfl⟩) _ (List.mem_map_of_mem hx)

end Image

/-! ## The steps of the engines -/

/-- Settles O57: one lemma a step, for the keys of a pair, a channel, a stream, a binding, the start of an Ember command by what it does, a
domain's step with and without an overrun, and the rows of an image. -/
theorem engineSteps : Obligations.EngineSteps := by
  unfold Obligations.EngineSteps
  refine ⟨fun as bs ha hb => ?pairs, fun s ch c hdel => ⟨fun hreq => ?request, fun x rest off => ?write, rfl⟩, fun s c hc hdel => ?streams,
    fun s b => windowBindingSwitch_switches, fun s c hc hs hb => ?begins, fun s d => ?domain,
    fun s c m off hc hb => ⟨fun r hr ha ht => esaveRow_writes hc hb ha hr ht, fun r hr ha ht => erestApply_reads hc hb ha hr ht,
      fun ha ht => erestApply_applies hc hb ha ht⟩⟩
  case pairs =>
    have hkeys := fun diff => pairKeys_eq_filter diff (as.length + bs.length + 1) as bs ha hb (Nat.le_succ _)
    exact ⟨by simpa using hkeys false, by simpa using hkeys true⟩
  case request =>
    intro asked
    have hasked : UnitEntered s (s.requestUnit c c.issued) c c.issued → asked (s.requestUnit c c.issued) :=
      fun ⟨due, hdue, hgid, hcopies⟩ => ⟨due, copyUnitRequest_asks hreq, hdue, hgid, hcopies⟩
    refine ⟨fun hturns hlocal => ?_, fun hturns off hoff => ?_⟩
    · obtain ⟨henters, hgiven⟩ := requestUnit_local (s := s) hturns hlocal
      exact ⟨_, hasked henters, hgiven⟩
    · have hline : regionOf (c.line c.issued).1 = .sp off := by rw [line_eq]; exact hoff
      obtain ⟨henters, hgiven⟩ := requestUnit_line (s := s) hturns hline
      exact ⟨_, hasked henters, hgiven.trans (congrArg _ (line_bytes s.core.sp off c.issued))⟩
  case write =>
    intro hfind hmore hunits hsent hparts hdue hoff hslot hbank hrank
    have hwrite := (channelWrite_local hdel hfind hmore hunits hsent hparts hdue hoff).trans (writeLocalUnit_writes hslot hbank hrank)
    refine ⟨(s.channelWrite ch.toNat).onCore Core.dropCopies, rfl, ?_, fun hch => ?_⟩
    · rw [hwrite]
      rfl
    · rw [hwrite]
      exact unitWritten_cwp s.core.eng x.u hch
  case streams =>
    refine ⟨fun hformed hcounted hdue => ⟨_, spsDue_counts hc hdel hformed hcounted hdue, rfl, rfl, rfl, fun p hp => ?_⟩,
      fun p off hs hp hoff => spsCommandStart_reads hc hs hp hoff⟩
    simpa using (List.mem_filter.mp hp).2
  case begins =>
    refine ⟨_, emberCommandStart_begins hc hs hb, fun d mode div ha hd => embBegin_clk ha hd, fun es ha hes x hx => ?patch,
      fun d n o ha hd ho => embBegin_step ha hd ho, fun g lanes ha hlen l hl => embBegin_inc ha (hlen ▸ hl),
      fun g off mask ha l hl => embBegin_load ha hl, fun g cnt p ha hp hact => embBegin_read ha hp hact, fun m off ha => ?snap,
      fun m off ha x hx y hy => ?saved⟩
    case patch =>
      rw [embBegin_patch ha]
      exact patchWrite_get hes _ hx
    case snap =>
      rw [← selected_eq]
      rcases ha with ha | ha
      · exact ⟨_, embBegin_save ha hc, rfl, List.map_map.trans (List.map_id _)⟩
      · exact ⟨_, embBegin_rest ha hc, rfl, List.map_map.trans (List.map_id _)⟩
    case saved =>
      rw [embBegin_save ha hc, List.mem_singleton] at hx
      subst hx
      obtain ⟨i, -, rfl⟩ := List.mem_map.mp hy
      rfl
  case domain =>
    obtain ⟨hcells, -, hdoms, -⟩ := markStep_keeps s.core.eng.ember s.core.tcc
    intro e now entry mine dom
    have hdom : dom = vget ⟨.stopped, 0⟩ s.core.eng.ember.doms d.toNat := congrArg (vget _ · d.toNat) hdoms
    rw [hdom]
    refine ⟨domainStep_rests, fun hsteps hok => ?steps, fun hsteps ⟨c, hc, hmine, hover⟩ => ?overrun⟩
    case steps =>
      obtain ⟨hflt, hcount, hnext⟩ := stepDomain_steps (e := s.core.eng.ember) (now := now) d.isLt fun c hc =>
        hok c (mem_cellsOf.mp hc).1 (mem_cellsOf.mp hc).2
      refine ⟨_, domainStep_steps hsteps, hflt, fun c hc hmine => ?_, fun c hc hmine => ?_, hcount⟩
      · exact (hnext c).trans (if_pos (mem_cellsOf.mpr ⟨hc, hmine⟩))
      · exact (hnext c).trans ((if_neg fun h => hmine (mem_cellsOf.mp h).2).trans (congrArg (sget _ · c) hcells.symm))
    case overrun => exact ⟨_, domainStep_steps hsteps, stepDomain_abandons d.isLt (mem_cellsOf.mpr ⟨hc, hmine⟩) hover⟩

end Sys2Proof.Machine

namespace Sys2Proof.Machine
open Sys2Proof.Manual

/-! PROOF. A swbind in the bundle of a target that is the LEND of a loop: the rule for LEND comes before the loops are left (R225). -/

/-! ## The counterexample to O39 -/

/-- A loop level with a body of its own (R222). -/
def levelOver (first last : BitVec 14) : Level := { Level.zero with active := true, first := first, last := last }

/-- The parameters of a swbind whose one index is still to be read (R302). -/
def lendDesc : List Nat := [0, 0, 0, 0, 0, 2 ^ 32, 0, 0]

/-- The move of slot 0 of the bundle: swbind with its descriptor at 0x1000. -/
def lendBind : RawMove := ⟨11, 14, ⟨.always, .imm 0x1000⟩⟩

/-- The bundle: a swbind, and beside it a jump that its guard lets pass. -/
def lendBundle : Bundle :=
  ⟨false, 0, [(0, lendBind), (1, ⟨5, 23, ⟨.always, .latch 0⟩⟩), (2, ⟨0, 0, ⟨.always, .latch 0⟩⟩), (3, ⟨0, 0, ⟨.always, .latch 0⟩⟩)]⟩

/-- A core whose next position is the target 5. It is the LEND of the inner loop, and it lies outside the outer loop, so the target ends
both loops when it issues. The loop trigger never activates loops that do not nest (R221); the statement speaks of every state, and asks
for the LEND rule only of the loops that the target leaves. -/
def lendCore : Core := { Core.zero with
  mode := .run
  seg := ⟨0, 4, 15, none⟩
  fq := [{ Pos.plain 5 with target := true }]
  loops := { Loops.zero with outer := levelOver 8 9, inner := levelOver 5 5 }
  imem := wrLE (wrLE [] 80 4 0b00_1011_001110_11_000001000000000000) 84 4 0b00_0101_010111_00_000000000000000000
  bindRead := some ⟨lendDesc, []⟩ }

def lendState : State := { State.reset with core := lendCore }

/-- The loops that the target leaves would let the bundle issue. -/
theorem lendState_entered : (lendState.onCore fun c => c.popPos.enterTarget).core.lendBad lendBundle = false := by decide +kernel

/-- The loops as they stand refuse the jump in the LEND bundle; the target's own end of the loops comes after that check. -/
theorem lendState_refused : (lendState.onCore Core.popPos).positionBundle = .error (0, .of .loopXfer) := by decide +kernel

/-- Refutes O39: BUNDLE_ISSUE judges the rule for LEND on the loops as they stand before the target ends any, so the bundle of a swbind may
stop with LOOP_XFER where the loops that the target leaves would let it read a row of indices. -/
theorem not_sparseStreams : ¬ Obligations.SparseStreams := by
  unfold Obligations.SparseStreams
  rintro ⟨-, hbundle, -⟩
  have hreads := (hbundle lendState lendBundle 0 lendBind lendDesc [] (by decide +kernel) (by decide +kernel) (by decide +kernel)
    lendState_entered (by decide +kernel) (by decide +kernel) (by decide +kernel) (by decide +kernel)
    (fun o ho => (List.not_mem_nil (a := o) ho).elim)).2 rfl (by decide +kernel) (by decide +kernel)
  rw [bundleIssue_refused lendState_refused] at hreads
  have hmode := congrArg (fun t : State => t.core.mode) (Host.Outcome.next.inj hreads)
  exact absurd hmode (by decide +kernel)

end Sys2Proof.Machine

namespace Sys2Proof.Machine

/-! PROOF. No slot changes at issue what its results, its writes and its commands change later (R97, R347). -/

/-! ## What stands -/

/-- What no slot changes of its core at issue: registers, latches, queues and flags, and the local stores. -/
def Core.standing (c : Core) :=
  ((c.regs.n, c.regs.v, c.regs.x, c.regs.b, c.regs.sq, c.regs.vq, c.regs.sLatch, c.regs.vLatch),
   (c.pstack, c.fstat, c.fmt, c.cond, c.tcc, c.scc), (c.sp, c.acc, c.imem))

/-- What no slot changes at issue: that of its core, and everything outside it but for the shared units of the module. -/
def State.standing (s : State) := (s.core.standing, s.focus, s.others, s.mem, s.wall, s.ts, s.inbox)

theorem standing_eq_iff {s t : State} :
    t.standing = s.standing ↔ SameRegs s.core t.core ∧ SameStores s.core t.core ∧ SameOthers s t := by
  simp only [State.standing, Core.standing, SameRegs, SameStores, SameOthers, Prod.mk.injEq, and_assoc]

/-- Whatever state an outcome names stands as s does. -/
def Stands (s : State) (o : Out) : Prop := ∀ t, o = .next t → t.standing = s.standing

@[simp] theorem stands_next (s t : State) : Stands s (.next t) ↔ t.standing = s.standing := by simp [Stands]

/-- What a computation yields stands as s does. -/
abbrev YieldsStanding (s : State) (e : Except Exc State) : Prop := Yields (fun t => t.standing = s.standing) e

/-- What yields what stands as s does yields what stands as anything that s stands as, unless it fails. -/
theorem YieldsStanding.iff {s s0 : State} {e : Except Exc State} (h : YieldsStanding s e) :
    YieldsStanding s0 e ↔ (e.isOk = true → s.standing = s0.standing) := by
  cases e with
  | error x => simp [Except.isOk, Except.toBool]
  | ok t =>
    rw [YieldsStanding, yields_ok] at h
    simp [h, Except.isOk, Except.toBool]

/-- A premise about the state that is yielded can be dropped. -/
@[simp] theorem yieldsStanding_of_imp {s : State} {c : State → Prop} {e : Except Exc State} (h : YieldsStanding s e) :
    Yields (fun t => c t → t.standing = s.standing) e := h.mono fun _ ht _ => ht

section Standing

variable {s : State} {m : Move} {u : BitVec 1}

/-! ## The operations that slots share -/

@[simp] theorem sent_standing (unit : Nat) (items : List (Nat × PendAct × BitVec 7)) : (s.sent unit items).standing = s.standing := rfl
@[simp] theorem sentScalar_standing (unit lat : Nat) (v : W64) (fl : BitVec 7) : (s.sentScalar unit lat v fl).standing = s.standing := rfl
@[simp] theorem sentQueue_standing (unit lat : Nat) (v : W64) (fl : BitVec 7) : (s.sentQueue unit lat v fl).standing = s.standing := rfl
@[simp] theorem sentVector_standing (unit lat : Nat) (v : VReg) (fl : BitVec 7) : (s.sentVector unit lat v fl).standing = s.standing := rfl
@[simp] theorem booked_standing (unit store lat : Nat) (write : Bool) (offs : List Nat) :
    (s.booked unit store lat write offs).standing = s.standing := rfl
@[simp] theorem onEng_standing (f : Engines → Engines) : (s.onEng f).standing = s.standing := rfl
@[simp] theorem onEmb_standing (f : Ember → Ember) : (s.onEmb f).standing = s.standing := rfl
@[simp] theorem onKiln_standing (f : Kiln → Kiln) : (s.onKiln f).standing = s.standing := rfl
@[simp] theorem pin_standing (id : Nat) (ls : List Leaf) : (s.pin id ls).standing = s.standing := rfl
@[simp] theorem takeReq_standing : s.takeReq.2.standing = s.standing := rfl
@[simp] theorem setRel_standing (tmod n : Nat) : (s.setRel tmod n).standing = s.standing := rfl
@[simp] theorem sendGlobal_standing (cls : BitVec 3) (va pa : Nat) (repl : Bool) (act : GAct) (org : Origin) (engine : Bool) :
    (s.sendGlobal cls va pa repl act org engine).standing = s.standing := rfl
@[simp] theorem sendPushRows_standing (i : Nat) (parts : List (Nat × List Byte)) : (s.sendPushRows i parts).standing = s.standing := rfl
@[simp] theorem sendPush_standing (i o : Nat) (data : List Byte) : (s.sendPush i o data).standing = s.standing := rfl
@[simp] theorem enterCopy_standing (c : Copy) (ls : List Leaf) (follow : Option Nat) : (s.enterCopy c ls follow).standing = s.standing := rfl

theorem setMod_standing (t : State) (x : Module) : { t with mod := x }.standing = t.standing := rfl

@[simp] theorem ite_standing (c : Prop) [Decidable c] (a b : State) :
    (if c then a else b).standing = if c then a.standing else b.standing := apply_ite State.standing c a b

theorem onCore_standing {f : Core → Core} (h : ∀ c, (f c).standing = c.standing) : (s.onCore f).standing = s.standing :=
  congrArg (·, s.focus, s.others, s.mem, s.wall, s.ts, s.inbox) (h s.core)

/-! ## Exceptions (R229, R356, R416) -/

@[simp] theorem traceRec_standing (c : Core) (ts : W64) (src kind : Nat) (payload : List W64) :
    (c.traceRec ts src kind payload).standing = c.standing := by
  unfold Core.traceRec
  split
  · split <;> rfl
  · rfl

@[simp] theorem deviation_standing (c : Core) (src : Nat) (ts w1 : W64) (short lost : Nat) :
    (c.deviation src ts w1 short lost).standing = c.standing := traceRec_standing ..

@[simp] theorem takeFault_standing (c : Core) (cause : Cause) (reason faddr finfo : Nat) :
    (c.takeFault cause reason faddr finfo).standing = c.standing := rfl

@[simp] theorem lateRecord_standing (c : Core) (src : Nat) (ts : W64) (l : Late) (faulted : Bool) (lost : Nat) :
    (c.lateRecord src ts l faulted lost).standing = c.standing := deviation_standing ..

/-- A wait asks for what it needs, and the core is held or stops. -/
theorem takeLate_standing (code : Nat) (need : Need) (org : Origin) : (s.takeLate code need org).standing = s.standing := by
  unfold State.takeLate
  extract_lets l s1 s2
  have hasked : s1.standing = s.standing := by
    unfold s1
    cases need with
    | page va read write => dsimp only; split <;> rfl
    | handle va pa len repl cls => dsimp only; split <;> rfl
    | _ => rfl
  have hempty : s2.standing = s.standing := hasked
  split
  · exact (onCore_standing fun _ => by simp).trans hempty
  · exact (onCore_standing fun _ => rfl).trans hempty

/-- Whatever a slot ends in, what stands is as before. -/
@[simp] theorem take_standing (e : Exc) (unit : Nat) : (s.take e unit).standing = s.standing := by
  cases e with
  | fault cause reason faddr finfo => rfl
  | late code need => exact takeLate_standing ..
  | missed short => simp [State.take, State.standing]

/-- A slot move stands, whether it fails, is skipped, stops or acts, when its body yields what stands. -/
theorem slotMove_stands {unit : Nat} {cls : PortClass} {fu : Bool} {body : Except Exc State} (h : YieldsStanding s body) :
    Stands s (slotMove unit cls fu m s body) := by
  rcases slotMove_cases unit cls fu m s body with
    ⟨r, -, he⟩ | ⟨-, -, he⟩ | ⟨-, -, e, -, he⟩ | ⟨-, -, -, e, -, he⟩ | ⟨-, t, hb, he⟩ <;> rw [he, stands_next]
  · exact take_standing _ _
  · exact take_standing _ _
  · exact take_standing _ _
  · exact h t hb

theorem scalarTrigger_stands {unit : Nat} {body : W64 → Except Exc State} (h : ∀ t, YieldsStanding s (body t)) :
    Stands s (scalarTrigger unit m s body) := slotMove_stands (h _)

theorem scalarFmtTrigger_stands {unit : Nat} {body : W64 → Except Exc State} (h : ∀ t, YieldsStanding s (body t)) :
    Stands s (scalarFmtTrigger unit m s body) := slotMove_stands (h _)

theorem vectorTrigger_stands {unit : Nat} {body : VReg → Except Exc State} (h : ∀ t, YieldsStanding s (body t)) :
    Stands s (vectorTrigger unit m s body) := slotMove_stands (h _)

theorem vectorFmtTrigger_stands {unit : Nat} {body : VReg → Except Exc State} (h : ∀ t, YieldsStanding s (body t)) :
    Stands s (vectorFmtTrigger unit m s body) := slotMove_stands (h _)

/-! ## Port moves (R173, R174, R191) -/

theorem execOperandPortMove_stands {u : BitVec 4} {p : BitVec 3} : Stands s (execOperandPortMove u p m s) := by
  unfold execOperandPortMove
  split
  · exact slotMove_stands ((yields_ok _).mpr rfl)
  · exact slotMove_stands ((yields_ok _).mpr rfl)
  · exact (stands_next _ _).mpr (take_standing _ _)

theorem execNregWrite_stands {p : BitVec 6} : Stands s (execNregWrite p m s) := by
  unfold execNregWrite
  split
  · exact slotMove_stands ((yields_ok _).mpr rfl)
  · exact slotMove_stands (by simp)
  · exact slotMove_stands (by simp)
  · exact (stands_next _ _).mpr (take_standing _ _)

/-! ## ALU0, ALU1, MUL and FPS (R195 to R208) -/

theorem aluOp_stands {f : W64 → W64 → W64 → W64} : Stands s (aluOp u m s f) := scalarTrigger_stands fun _ => by simp

/-- MUL and FPS keep their busy windows, which do not stand (R194). -/
theorem mulOp_stands {f : W64 → W64 → W64 → W64} : Stands s (mulOp m s f) := scalarTrigger_stands fun _ => by simp

theorem divOp_stands {f : W64 → W64 → W64} : Stands s (divOp m s f) := scalarTrigger_stands fun _ => by simp; exact fun _ _ => rfl

theorem fpsOp_stands {lat : Nat} {f : W32 → Nat → Nat → W64 → W64 × BitVec 7} : Stands s (fpsOp lat m s f) :=
  scalarFmtTrigger_stands fun _ => by simp

theorem fpsBits_stands {f : Nat → Nat} : Stands s (fpsBits m s f) := scalarTrigger_stands fun _ => by simp

theorem fpsLong_stands {f : W32 → Nat → Nat → FRes} : Stands s (fpsLong m s f) := scalarFmtTrigger_stands fun _ => by simp; exact fun _ _ => rfl

/-! ## AGU (R227 to R237) -/

theorem aguOp_stands {body : Nat → Except Exc State} (h : ∀ a, YieldsStanding s (body a)) : Stands s (aguOp m s body) :=
  scalarTrigger_stands fun _ => (yields_exceptBind _ _).mpr fun a _ => h a

@[simp] theorem loadLocal_standing (store off w lat : Nat) (ext : Ext) : YieldsStanding s (s.loadLocal store off w lat ext) := by
  simp [State.loadLocal]

@[simp] theorem loadGlobal_standing (ea w : Nat) (ext : Ext) : YieldsStanding s (s.loadGlobal ea w ext) := by simp [State.loadGlobal]

theorem load_standing (w : Nat) (ext : Ext) (ea : Nat) : YieldsStanding s (s.load w ext ea) := by
  unfold State.load
  repeat' split
  all_goals simp

theorem store_standing (w ea : Nat) : YieldsStanding s (s.store w ea) := by
  unfold State.store
  dsimp only
  repeat' split
  all_goals simp

theorem atomic_standing (op : AmoOp) (w : Nat) (ext : Ext) (ret : Bool) (ea : Nat) : YieldsStanding s (s.atomic op w ext ret ea) := by
  unfold State.atomic
  split <;> simp

theorem waitOn_standing (ne : Bool) (ea : Nat) : YieldsStanding s (s.waitOn ne ea) := by
  unfold State.waitOn
  dsimp only
  repeat' split
  all_goals simp
  · exact fun _ _ _ => rfl
  · exact fun _ => rfl
  · exact fun _ _ _ _ _ => rfl

/-! ## BRU (R209 to R226) -/

theorem pushPred_standing (b : Bool) : YieldsStanding s (s.pushPred b) := by simp [State.pushPred, State.setStack]

theorem predCmp_stands {p : W64 → W64 → Bool} : Stands s (predCmp m s p) := scalarTrigger_stands fun _ => pushPred_standing _

theorem execPnot_stands : Stands s (execPnot m s) := scalarTrigger_stands fun _ => by split <;> simp [State.setStack]

theorem predPair_stands {f : Bool → Bool → Bool} : Stands s (predPair m s f) :=
  scalarTrigger_stands fun _ => by split <;> simp [State.setStack]

theorem execPdup_stands : Stands s (execPdup m s) := scalarTrigger_stands fun _ => by split <;> simp [pushPred_standing]

theorem execPpop_stands : Stands s (execPpop m s) := scalarTrigger_stands fun _ => by split <;> simp [State.setStack]

theorem execWrps_stands : Stands s (execWrps m s) := scalarTrigger_stands fun _ => by simp [State.setStack]

/-- A taken transfer changes the stream alone (R215, R216). -/
theorem transfer_standing (target : W64) : YieldsStanding s (s.transfer target) := by
  unfold State.transfer
  split
  · exact yields_error _
  · exact (yields_ok _).mpr rfl

theorem jump_standing (target : W64) : YieldsStanding s (s.jump target) := by
  unfold State.jump
  split <;> simp [transfer_standing]

theorem execCall_stands : Stands s (execCall m s) :=
  scalarTrigger_stands fun _ => (yields_exceptBind _ _).mpr ((jump_standing _).mono fun t ht => by simp [ht])

theorem condTransfer_stands {want nullifies : Bool} : Stands s (condTransfer want nullifies m s) := by
  refine scalarTrigger_stands fun _ => ?_
  split
  · exact yields_error _
  split
  · exact yields_error _
  split
  · exact yields_error _
  · simp only [State.setStack, yields_exceptBind, yields_issue1, yields_ite, yields_ok]
    exact fun _ => ⟨fun _ => transfer_standing _, fun _ => ⟨fun _ => rfl, fun _ => rfl⟩⟩

theorem loopBound_stands {f : BitVec 14 → PendAct} : Stands s (loopBound m s f) := scalarTrigger_stands fun _ => by simp

theorem execLcnt_stands : Stands s (execLcnt m s) := scalarTrigger_stands fun _ => by
  split
  · exact yields_error _
  · split <;> simp

/-- The loop trigger changes the stream alone; the level becomes active with its result (R221). -/
theorem execLoop_stands : Stands s (execLoop m s) := scalarTrigger_stands fun _ => by
  split
  · exact yields_error _
  · simp only [yields_ite, yields_ok, yields_issue1]
    exact ⟨fun _ => rfl, fun _ _ => rfl⟩

/-! ## VEC (R245 to R256) -/

theorem vecInt_stands {f : W32 → W32 → W32} : Stands s (vecInt m s f) := vectorTrigger_stands fun _ => by simp

theorem vecFloat_stands {lat : Nat} {f : W32 → Nat → Nat → Nat → FRes} : Stands s (vecFloat lat m s f) :=
  vectorFmtTrigger_stands fun _ => by simp

theorem execVpack_stands : Stands s (execVpack m s) := vectorFmtTrigger_stands fun _ => by
  dsimp only
  repeat' split
  all_goals simp

theorem vecCmp_stands {p : W32 → W32 → Bool} : Stands s (vecCmp m s p) := vectorTrigger_stands fun _ => by simp

theorem vecFcmp_stands {kind : Nat} : Stands s (vecFcmp kind m s) := vectorFmtTrigger_stands fun _ => by simp

theorem vecRed_stands {f : W32 → W32 → W32} {absent : W64} : Stands s (vecRed m s f absent) := vectorTrigger_stands fun _ => by simp

theorem vecFred_stands {f : W32 → Nat → Nat → FRes} {absent : Nat} : Stands s (vecFred m s f absent) :=
  vectorFmtTrigger_stands fun _ => by simp

theorem vecMask_stands {f : W64 → W64 → W64} : Stands s (vecMask m s f) := scalarTrigger_stands fun _ => by simp

/-! ## VMEM (R238 to R244) -/

theorem vmemOp_stands {body : Nat → Except Exc State} (h : ∀ a, YieldsStanding s (body a)) : Stands s (vmemOp m s body) :=
  scalarTrigger_stands fun _ => (yields_exceptBind _ _).mpr fun a _ => h a

theorem vload_standing (n : Nat) (f : Nat → VReg) (ea : Nat) : YieldsStanding s (s.vload n f ea) := by
  unfold State.vload
  split <;> simp

theorem execVst_stands : Stands s (execVst m s) := by
  refine vmemOp_stands fun ea => ?_
  split
  · simp [State.vstoreLocal]
  · simp only [yields_bind, yields_must]
    intro _
    split <;> simp
  · exact yields_error _

/-- A chain of steps that each stand yields what stands. -/
theorem foldlM_standing {β : Type} {f : State → β → Except Exc State} (hf : ∀ st x, YieldsStanding st (f st x)) (l : List β) (s : State) :
    YieldsStanding s (l.foldlM f s) := by
  induction l generalizing s with
  | nil => exact (yields_pure _).mpr rfl
  | cons x l ih =>
    rw [List.foldlM_cons, YieldsStanding, yields_bind]
    exact (hf s x).mono fun t ht => ht ▸ ih t

theorem execVldx_stands : Stands s (execVldx m s) := by
  refine vmemOp_stands fun ea => ?_
  split
  · exact yields_error _
  · simp only [yields_bind]
    exact fun _ _ => (foldlM_standing (fun st g => by simp) _ s).mono fun s1 h1 => by simp [h1]

theorem execVstx_stands : Stands s (execVstx m s) := by
  refine vmemOp_stands fun ea => ?_
  split
  · exact yields_error _
  · simp only [yields_bind, yields_must]
    exact fun _ => (foldlM_standing (fun st g => by simp) _ s).mono fun s1 h1 => by simp [h1]

theorem execVstr_stands : Stands s (execVstr m s) := by
  refine scalarTrigger_stands fun t => ?_
  dsimp only
  split
  · refine (yields_bind _ _).mpr fun rows _ => ?_
    dsimp only
    split <;> simp
  · simp [State.vstoreLocal]

theorem execVacc_stands : Stands s (execVacc m s) := slotMove_stands (by simp)

/-! ## The commands of the engines (R274 to R321) -/

theorem klnTrigger_stands {body : W64 → Except Exc State} (h : ∀ t, YieldsStanding s (body t)) : Stands s (klnTrigger m s body) :=
  scalarFmtTrigger_stands h

@[simp] theorem klnCommit_standing (d : Desc) (s0 : State) :
    YieldsStanding s0 (s.klnCommit d) ↔ ((s.klnCommit d).isOk = true → s.standing = s0.standing) :=
  YieldsStanding.iff (by simp [State.klnCommit])

@[simp] theorem enterShadow_standing (d : Desc) (lat : Nat) (a : ShadowAct) (s0 : State) :
    YieldsStanding s0 (s.enterShadow d lat a) ↔ ((s.enterShadow d lat a).isOk = true → s.standing = s0.standing) :=
  YieldsStanding.iff (by simp [State.enterShadow])

/-- The entry of a command of the Kiln changes the Kiln alone. -/
def EntersStanding (enter : State → State) : Prop := ∀ t, (enter t).standing = t.standing

theorem kzeroOf_standing (d : Desc) (st : Nat) : Yields EntersStanding (s.kzeroOf d st) := by
  simp [State.kzeroOf, EntersStanding]

theorem kdrainOf_standing (d : Desc) (st : Nat) : Yields EntersStanding (s.kdrainOf d st) := by
  simp [State.kdrainOf, EntersStanding]

theorem kstartOf_standing (d : Desc) (st : Nat) : Yields EntersStanding (s.kstartOf d st) := by
  unfold State.kstartOf
  dsimp only
  split <;> simp [EntersStanding]

theorem execKzero_stands : Stands s (execKzero m s) := klnTrigger_stands fun t => by
  simp only [yields_bind, yields_readDesc]
  exact fun _ => (kzeroOf_standing _ _).mono fun f hf => by simp [hf _]

theorem execKdrain_stands : Stands s (execKdrain m s) := klnTrigger_stands fun t => by
  simp only [yields_bind, yields_readDesc]
  exact fun _ => (kdrainOf_standing _ _).mono fun f hf => by simp [hf _]

theorem execKstart_stands : Stands s (execKstart m s) := klnTrigger_stands fun t => by
  simp only [yields_bind, yields_readDesc]
  exact fun _ => (kstartOf_standing _ _).mono fun f hf => by simp [hf _]

theorem followOf_standing (off f : Nat) : Yields EntersStanding (s.followOf off f) := by
  simp [State.followOf, kzeroOf_standing, kdrainOf_standing, kstartOf_standing]

theorem copyIssue_standing (d : Desc) (c : Copy) {extra : Except Exc (Bool × Option Nat × (State → State))}
    (hextra : Yields (fun x => EntersStanding x.2.2) extra) : YieldsStanding s (s.copyIssue d c extra) := by
  unfold State.copyIssue
  split
  · exact yields_error _
  · rw [YieldsStanding, yields_bind]
    exact hextra.mono fun x hx => by simp [hx _]

/-! ## CPY (R290 to R296) -/

theorem noFollow_standing : Yields (fun x => EntersStanding x.2.2) noFollow := (yields_ok _).mpr fun _ => rfl

theorem execCpy_stands : Stands s (execCpy m s) := scalarTrigger_stands fun t => by
  simp [(copyIssue_standing _ _ noFollow_standing).iff]

theorem execCpyt_stands : Stands s (execCpyt m s) := scalarTrigger_stands fun t => by
  simp [(copyIssue_standing _ _ noFollow_standing).iff]

theorem execCfetch_stands : Stands s (execCfetch m s) := scalarTrigger_stands fun t => by
  simp [(copyIssue_standing _ _ noFollow_standing).iff]

theorem execCpyf_stands : Stands s (execCpyf m s) := scalarFmtTrigger_stands fun t => by
  simp only [yields_bind, yields_readDesc, yields_book]
  intro _ c _ _
  refine (copyIssue_standing _ _ ?_).iff.mpr fun _ => rfl
  exact (yields_bind _ _).mpr ((followOf_standing _ _).mono fun enter he => (yields_pure _).mpr fun t => by simp [he _])

/-! ## SPS (R297 to R302) -/

theorem execSopen_stands : Stands s (execSopen m s) := scalarTrigger_stands fun _ => by
  simp only [yields_bind, yields_must, yields_readDesc]
  repeat' split
  all_goals simp

@[simp] theorem spsIssue_standing (d : Desc) (op : SpsOp) (ins : List SSlot) (s0 : State) :
    YieldsStanding s0 (s.spsIssue d op ins) ↔ ((s.spsIssue d op ins).isOk = true → s.standing = s0.standing) := by
  refine YieldsStanding.iff ?_
  unfold State.spsIssue
  dsimp only
  split <;> simp

theorem spsPair_stands {port : Nat} {op : SpsOp} : Stands s (spsPair port op m s) := scalarTrigger_stands fun _ => by simp

theorem bindDesc_standing (t : W64) : Yields (fun x => x.1.standing = s.standing) (s.bindDesc t) := by
  unfold State.bindDesc
  split <;> simp

theorem execSwbind_stands : Stands s (execSwbind m s) :=
  scalarTrigger_stands fun t => (yields_bind _ _).mpr <| (bindDesc_standing t).mono fun x hx => by
    by_cases hleft : (bindOf x.2).count - s.core.gotIndices.length = 0 <;> simp [hx, hleft]

/-! ## EMB (R303 to R305) -/

theorem embTrigger_stands {body : W64 → Except Exc State} (h : ∀ t, YieldsStanding s (body t)) : Stands s (embTrigger m s body) :=
  scalarTrigger_stands h

@[simp] theorem embIssue_standing (d : Desc) (a : EAct) (s0 : State) :
    YieldsStanding s0 (s.embIssue d a) ↔ ((s.embIssue d a).isOk = true → s.standing = s0.standing) :=
  YieldsStanding.iff (by simp [State.embIssue])

theorem execEpatch_stands : Stands s (execEpatch m s) := embTrigger_stands fun _ => by
  simp only [yields_bind, yields_must, yields_readDesc]
  repeat' split
  all_goals simp

theorem embRead_stands {port : Nat} {cnt : Bool} : Stands s (embRead port cnt m s) := embTrigger_stands fun _ => by simp

/-! ## FAB (R307 to R321) -/

theorem fabTrigger_stands {port : Nat} {masks : List Nat} {body : State → Desc → Nat → W64 → Nat → Except Exc State}
    (h : ∀ s1 d a b cw, YieldsStanding s1 (body s1 d a b cw)) : Stands s (fabTrigger port masks m s body) :=
  scalarTrigger_stands fun t => by
    simp only [yields_bind, yields_readDesc]
    exact fun _ => h _ _ _ _ _

@[simp] theorem fabIssue_standing (d : Desc) (op : FabOp) (a : Nat) (b : W64) (cw count : Nat) (reads writes : List (Nat × Nat)) (s0 : State) :
    YieldsStanding s0 (s.fabIssue d op a b cw count reads writes) ↔
      ((s.fabIssue d op a b cw count reads writes).isOk = true → s.standing = s0.standing) := by
  refine YieldsStanding.iff ?_
  simp only [State.fabIssue, YieldsStanding, yields_bind, yields_pure]
  exact fun ls _ => Eq.trans (onCore_standing fun _ => rfl) (pin_standing _ _)

theorem fabStore_standing (d : Desc) (rel : Bool) (a : Nat) (b : W64) (cw : Nat) : YieldsStanding s (s.fabStore d rel a b cw) := by
  simp [State.fabStore]

theorem execFwr_stands : Stands s (execFwr m s) := fabTrigger_stands fun _ _ _ _ _ => fabStore_standing _ _ _ _ _

theorem execFwrrel_stands : Stands s (execFwrrel m s) := fabTrigger_stands fun _ _ _ _ _ => fabStore_standing _ _ _ _ _

/-! ## CTL (R323 to R331, R369) -/

theorem execCsrr_stands : Stands s (execCsrr m s) := slotMove_stands <| by
  dsimp only
  split
  · exact yields_error _
  · split <;> simp

theorem execCsrw_stands : Stands s (execCsrw m s) := scalarTrigger_stands fun _ => by
  dsimp only
  repeat' split
  all_goals simp

theorem execFence_stands : Stands s (execFence m s) := scalarTrigger_stands fun _ => by
  split
  · exact yields_error _
  · simp only [yields_ite, yields_error, yields_ok, implies_true, true_and]
    exact fun _ _ => rfl

/-- bar publishes the write log and arrives at the barrier, which is a shared unit of the module (R38). -/
theorem execBar_stands : Stands s (execBar m s) := scalarTrigger_stands fun _ => by
  split
  · exact yields_error _
  split
  · exact yields_error _
  · exact (yields_ok _).mpr rfl

theorem execHalt_stands : Stands s (execHalt m s) := scalarTrigger_stands fun _ => by
  split
  · exact yields_error _
  · exact (yields_ok _).mpr rfl

theorem execSegend_stands : Stands s (execSegend m s) := scalarTrigger_stands fun _ => by
  split
  · exact yields_error _
  · exact (yields_ok _).mpr rfl

theorem execMark_stands : Stands s (execMark m s) :=
  scalarTrigger_stands fun _ => (yields_ok _).mpr (onCore_standing fun c => traceRec_standing c ..)

theorem execTissue_stands : Stands s (execTissue m s) := scalarTrigger_stands fun _ => by
  simp only [yields_bind, yields_must, yields_book, yields_pure]
  exact fun _ _ _ _ _ _ _ _ _ _ ls _ => Eq.trans (setMod_standing _ _) (Eq.trans (onCore_standing fun _ => rfl) (pin_standing _ _))

theorem execTstat_stands : Stands s (execTstat m s) := scalarTrigger_stands fun _ => by split <;> simp

/-! ## Every slot -/

/-- No slot changes what stands, instruction by instruction. -/
theorem exec_stands {i : Instr} (h : i.slot ≠ none) : Stands s (exec i s) := by
  cases i <;> simp only [exec]
  case port0Discard => exact slotMove_stands ((yields_ok _).mpr rfl)
  case operandPortMove => exact execOperandPortMove_stands
  case nregWrite => exact execNregWrite_stands
  case mov | add | sub | and | or | xor | andn | shl | shr | sar | rotl | min | max | minu | maxu | seteq | setne | setlt | setltu | setle
    | setleu | sel | clz | popc | sext | zext | bfx | bfi | addw | subw | adds | subs | adds16 | lea => exact aluOp_stands
  case mul | mulhs | mulhu | mulw | madd => exact mulOp_stands
  case div | divu | rem | remu => exact divOp_stands
  case fadd | fsub | fmul | ffma | fmin | fmax | fminnum | fmaxnum | fcmpeq | fcmplt | fcmple | cvtif | cvtfi | cvtfb | cvtbf =>
    exact fpsOp_stands
  case fabs | fneg | fclass => exact fpsBits_stands
  case fdiv | fsqrt => exact fpsLong_stands
  case ld8 | ld8s | ld16 | ld16s | ld32 | ld32s | ld64 => exact aguOp_stands fun _ => load_standing _ _ _
  case st8 | st16 | st32 | st64 => exact aguOp_stands fun _ => store_standing _ _
  case amoadd | amomin | amomax | amominu | amomaxu | amoand | amoor | amoxor | amoswap | amocas | amofadd | amofmax | amofmin | amoadd64
    | amoswap64 | amocas64 | redadd | redmin | redmax | redminu | redmaxu | redand | redor | redxor | redfadd | redfmax | redfmin | redadd64
    => exact aguOp_stands fun _ => atomic_standing _ _ _ _ _
  case wge | wne => exact aguOp_stands fun _ => waitOn_standing _ _
  case tgt | lstages | rdps | vbcast | vextr | vins | vldr | cwp | creset | smerge | sread | swfree | fstat | fmt | cond | tsc =>
    exact scalarTrigger_stands fun _ => by simp
  case peq | pne | plt | pltu | ple | pleu => exact predCmp_stands
  case pnot => exact execPnot_stands
  case pand | por => exact predPair_stands
  case pdup => exact execPdup_stands
  case ppop => exact execPpop_stands
  case jmp | ret => exact scalarTrigger_stands fun _ => jump_standing _
  case jt | jf | jtn | jfn => exact condTransfer_stands
  case call => exact execCall_stands
  case loop => exact execLoop_stands
  case lcnt => exact execLcnt_stands
  case lstart | lend => exact loopBound_stands
  case vany | vall => exact vectorTrigger_stands fun _ => pushPred_standing _
  case wrps => exact execWrps_stands
  case vmov | vsel | vperm | vscan => exact vectorTrigger_stands fun _ => by simp
  case vadd | vsub | vmul | vmin | vmax | vminu | vmaxu | vand | vor | vxor | vshl | vshr | vsar | vadds16 | vmin16 | vmax16 =>
    exact vecInt_stands
  case vfadd | vfsub | vfmul | vffma | vfmin | vfmax | vfexp2 | vflog2 | vfrcp | vfrsqrt => exact vecFloat_stands
  case vcvtf | vcvti | vunpack => exact vectorFmtTrigger_stands fun _ => by simp
  case vpack => exact execVpack_stands
  case vcmpeq | vcmplt | vcmple => exact vecCmp_stands
  case vfcmpeq | vfcmplt | vfcmple => exact vecFcmp_stands
  case vredadd | vredmin | vredmax => exact vecRed_stands
  case vfredadd | vfredmax => exact vecFred_stands
  case vmand | vmor | vmnot | vmpopc => exact vecMask_stands
  case vld | vld8 => exact vmemOp_stands fun _ => vload_standing _ _ _
  case vst => exact execVst_stands
  case vldx => exact execVldx_stands
  case vstx => exact execVstx_stands
  case vstr => exact execVstr_stands
  case vlda | vsta => exact vmemOp_stands fun _ => by simp
  case vacc => exact execVacc_stands
  case kcfg | kflow | kswitch | ksel | kring | kpop => exact klnTrigger_stands fun _ => by simp
  case kstart => exact execKstart_stands
  case kdrain => exact execKdrain_stands
  case kzero => exact execKzero_stands
  case cpy => exact execCpy_stands
  case cpyt => exact execCpyt_stands
  case cpyf => exact execCpyf_stands
  case cfetch => exact execCfetch_stands
  case sopen => exact execSopen_stands
  case sisect | sisectc | sdiff => exact spsPair_stands
  case swbind => exact execSwbind_stands
  case epatch => exact execEpatch_stands
  case eload | esave | erest | estep | eclk | einc => exact embTrigger_stands fun _ => by simp
  case erd | ecnt => exact embRead_stands
  case frd | fatom | fmcred | fmcst | fgrp | fbar => exact fabTrigger_stands fun _ _ _ _ _ => by simp
  case fwr => exact execFwr_stands
  case fwrrel => exact execFwrrel_stands
  case nop | trap => exact scalarTrigger_stands fun _ => (yields_ok _).mpr rfl
  case csrr => exact execCsrr_stands
  case csrw => exact execCsrw_stands
  case fence => exact execFence_stands
  case bar => exact execBar_stands
  case halt => exact execHalt_stands
  case segend => exact execSegend_stands
  case tissue => exact execTissue_stands
  case tstat => exact execTstat_stands
  case mark => exact execMark_stands
  -- The steps that no slot encodes.
  all_goals exact absurd rfl h

end Standing

/-- Settles O51: every slot move is a trigger whose body puts items, bookings, accesses and commands in flight, or a wait, a skip or a stop;
none of these touches what stands. -/
theorem slotFrame : Obligations.SlotFrame := fun _ _ _ hslot hexec => standing_eq_iff.mp (exec_stands hslot _ hexec)

end Sys2Proof.Machine

namespace Sys2Proof.Machine
open Sys2Proof.Manual

/-! PROOF. The steps of the Kiln. -/

/-! ## The Kiln of the core in focus, and its cells -/

@[simp] theorem onKiln_kiln (s : State) (f : Kiln → Kiln) : (s.onKiln f).core.eng.kiln = f s.core.eng.kiln := rfl

/-- A change of the Kiln is its change of the Kiln that stands. -/
theorem onKiln_eq {s : State} {f g : Kiln → Kiln} (h : f s.core.eng.kiln = g s.core.eng.kiln) : s.onKiln f = s.onKiln g :=
  congrArg (fun k => s.onCore fun c => { c with eng := { c.eng with kiln := k } }) h

section Cells

variable (k : Kiln)

@[simp] theorem setCell_cell_same (i j : Nat) (c : Cell) : (k.setCell i j c).cell i j = c := sget_sset_same _ _ _ _

theorem setCell_cell_ne {i j i' j' : Nat} (c : Cell) (h : 64 * i' + j' ≠ 64 * i + j) : (k.setCell i j c).cell i' j' = k.cell i' j' :=
  sget_sset_ne _ _ _ h

@[simp] theorem settle_c0 (c : Cell) (now : Nat) : (c.settle now).c0 = c.c0 := by
  unfold Cell.settle
  split
  · split <;> rfl
  · rfl

end Cells

theorem toNat_ofNat_six {i : Nat} (h : i < 64) : (BitVec.ofNat 6 i).toNat = i := by
  rw [BitVec.toNat_ofNat, Nat.mod_eq_of_lt h]

/-! ## Configuration and rings (R132, R279 to R282, R288) -/

section Configuration

variable {s : State}

/-- A write of the shadow is complete: the shadow is what its act makes of it. -/
theorem shadowConfigWrite_applies {w : ShadowWrite} (hw : Only (·.id) s.core.eng.kiln.writes w) (hd : w.done ≤ s.core.tcc) :
    exec (.shadowConfigWrite w.id) s = .next (s.onKiln fun k =>
      { k with shadow := w.act.apply s.core.eng.kiln.shadow, writes := k.writes.filter fun x => x.id != w.id }) := by
  have hfind := find_only hw (p := fun y => decide (y.done ≤ s.core.tcc)) (decide_eq_true hd)
  change execShadowConfigWrite w.id s = _
  simp only [execShadowConfigWrite, State.kiln, hfind]
  rfl

theorem apply_consts_k0 {m a b p : Nat} {g : KCfg} (hlen : g.k0.length = 4) (hp : p < 4) :
    ((ShadowAct.consts m a b).apply g).k0.getD p 0 = if bits m p p = 1 then a else g.k0.getD p 0 := by
  have hin : p < g.k0.length := hlen ▸ hp
  simp [ShadowAct.apply, List.getD_eq_getElem?_getD, hin, bit_eq_bits]

/-- A token whose shadow differs from what is active somewhere in its quadrants takes it as a new configuration. -/
theorem switchTokenInject_takes {x : Token} (hx : Only (·.id) s.core.eng.kiln.tokens x) (hc : x.cfg = none) (hw : x.w ≤ s.core.tcc)
    (hdiff : ∃ q ∈ x.quads, s.core.eng.kiln.cfgs.getD (s.core.eng.kiln.quadCfg.getD q 0) .zero ≠ s.core.eng.kiln.shadow) :
    exec (.switchTokenInject x.id) s = .next (s.onKiln fun k => { k with
      cfgs := k.cfgs ++ [k.shadow]
      quadCfg := x.quads.foldl (fun l q => l.set q k.cfgs.length) k.quadCfg
      tokens := k.tokens.map fun y => if y.id = x.id then { y with cfg := some k.cfgs.length } else y }) := by
  have hfind := find_only hx (p := fun y => y.cfg.isNone && decide (y.w ≤ s.core.tcc)) (by simp [hc, hw])
  simp only [← Bool.and_assoc] at hfind
  have hall : (x.quads.all fun q => decide (s.core.eng.kiln.cfgs.getD (s.core.eng.kiln.quadCfg.getD q 0) .zero = s.core.eng.kiln.shadow))
      = false := by
    obtain ⟨q, hq, hne⟩ := hdiff
    exact List.all_eq_false.mpr ⟨q, hq, by simpa using hne⟩
  change execSwitchTokenInject x.id s = _
  simp only [execSwitchTokenInject, State.kiln, hfind]
  refine congrArg Host.Outcome.next (onKiln_eq (if_neg ?_))
  rw [hall]
  decide

/-- The token alone on its way reaches the cell: the cell takes the configuration that it carries. -/
theorem switchTokenArrival_takes {x : Token} {n i j : Nat} (ht : s.core.eng.kiln.tokens = [x]) (hc : x.cfg = some n) (hq : x.quad = none)
    (hnow : s.core.tcc = x.w + 3 + i + j) (hi : i < 64) (hj : j < 64) :
    exec (.switchTokenArrival (BitVec.ofNat 6 i) (BitVec.ofNat 6 j)) s = .next (s.onKiln fun k => k.setCell i j { k.cell i j with
      cfg := n
      u := (s.core.eng.kiln.cfgs.getD n .zero).sp.getD (cellClass (s.core.eng.kiln.cfgs.getD n .zero).map i j) 0 }) := by
  have hreach : x.reaches i j s.core.tcc = true := by simp [Token.reaches, quadOrg, quadSide, hc, hq, hnow, hi, hj]
  change execSwitchTokenArrival _ _ s = _
  simp only [execSwitchTokenArrival, State.kiln, ht, List.find?_cons, toNat_ofNat_six hi, toNat_ofNat_six hj, hreach, hc, Option.getD_some]
  rfl

theorem kringApply_defines {r : KRing} (hr : Only (·.id) s.core.eng.kiln.krings r) (hst : r.start ≤ s.core.tcc) :
    exec (.kringApply r.id) s = .next (s.onEng fun e =>
      { e with rings := vset e.rings r.n r.ring, kiln := { e.kiln with krings := e.kiln.krings.filter fun x => x.id != r.id } }) := by
  have hfind := find_only hr (p := fun y => decide (y.start ≤ s.core.tcc)) (decide_eq_true hst)
  change execKringApply r.id s = _
  simp only [execKringApply, State.kiln, hfind]

end Configuration

/-! ## Zeroing (R287) -/

/-- A cell with the registers that a kzero selects cleared. -/
def KZero.clear (z : KZero) (x : Cell) : Cell :=
  let x1 := if bit z.regs 0 then { x with c0 := 0 } else x
  let x2 := if bit z.regs 1 then { x1.settle z.start with c1 := 0, due := (x1.due.filter fun d => z.start < d.1) } else x1
  if bit z.regs 2 then { x2 with t := .bits 0, blk := .empty } else x2

section Clear

variable (z : KZero) (x : Cell)

theorem clear_c0 : (z.clear x).c0 = if bit z.regs 0 then 0 else x.c0 := by
  unfold KZero.clear
  cases bit z.regs 0 <;> cases bit z.regs 1 <;> cases bit z.regs 2 <;> simp

theorem clear_c1 (h : bit z.regs 1 = true) : (z.clear x).c1 = 0 := by
  unfold KZero.clear
  cases bit z.regs 2 <;> simp [h]

theorem clear_t (h : bit z.regs 2 = true) : (z.clear x).t = .bits 0 := by simp [KZero.clear, h]

end Clear

/-- The Kiln with every cell listed cleared. -/
def KZero.clearAll (z : KZero) (cells : List (Nat × Cell)) (k : Kiln) : Kiln :=
  cells.foldl (fun acc e => acc.setCell (e.1 / 64) (e.1 % 64) (z.clear e.2)) k

theorem clearAll_cells (z : KZero) (l : List (Nat × Cell)) (k : Kiln) :
    (z.clearAll l k).cells = l.foldl (fun m e => sset .zero m e.1 (z.clear e.2)) k.cells := by
  induction l generalizing k with
  | nil => rfl
  | cons e l ih =>
    have hkey : 64 * (e.1 / 64) + e.1 % 64 = e.1 := Nat.div_add_mod e.1 64
    rw [List.foldl_cons, ← hkey]
    exact ih _

theorem sget_of_mem {α : Type} {d : α} {m : List (Nat × α)} (hm : (m.map (·.1)).Nodup) {e : Nat × α} (he : e ∈ m) : sget d m e.1 = e.2 := by
  induction m with
  | nil => cases he
  | cons y m ih =>
    rw [List.map_cons, List.nodup_cons] at hm
    rcases List.mem_cons.mp he with rfl | he
    · exact if_pos rfl
    · have hne : e.1 ≠ y.1 := fun h => hm.1 (h ▸ List.mem_map_of_mem he)
      exact (if_neg hne).trans (ih hm.2 he)

theorem sget_of_not_mem {α : Type} {d : α} {m : List (Nat × α)} {a : Nat} (ha : a ∉ m.map (·.1)) : sget d m a = d := by
  induction m with
  | nil => rfl
  | cons y m ih =>
    rw [List.map_cons, List.mem_cons, not_or] at ha
    exact (if_neg ha.1).trans (ih ha.2)

/-- Every cell of the array is cleared; one at its start state has nothing to clear. -/
theorem clearAll_cell (z : KZero) {k : Kiln} (hk : (k.cells.map (·.1)).Nodup) {i j : Nat} (hi : i < 64) (hj : j < 64) :
    (z.clearAll (k.cells.filter fun e => e.1 < 4096) k).cell i j = z.clear (k.cell i j) ∨
      (z.clearAll (k.cells.filter fun e => e.1 < 4096) k).cell i j = .zero ∧ k.cell i j = .zero := by
  have hstep : ∀ (m : List (Nat × Cell)) (e : Nat × Cell) (a : Nat),
      sget .zero (sset .zero m e.1 (z.clear e.2)) a = if a = e.1 then z.clear e.2 else sget .zero m a := fun m e a => sget_sset _ m e.1 a _
  unfold Kiln.cell
  rw [clearAll_cells]
  by_cases hmem : 64 * i + j ∈ k.cells.map (·.1)
  · obtain ⟨e, he, hkey⟩ := List.mem_map.mp hmem
    have hin : e ∈ k.cells.filter fun e => e.1 < 4096 := List.mem_filter.mpr ⟨he, decide_eq_true (by omega)⟩
    left
    rw [← hkey, sget_of_mem hk he]
    exact sget_foldl_inside (h := fun e _ => z.clear e.2) hstep (hk.sublist (List.filter_sublist.map _)) _ hin
  · have hout : 64 * i + j ∉ (k.cells.filter fun e => e.1 < 4096).map (·.1) := fun h => hmem ((List.filter_sublist.map _).subset h)
    right
    rw [sget_foldl_outside (h := fun e _ => z.clear e.2) hstep _ _ hout, sget_of_not_mem hmem]
    exact ⟨rfl, rfl⟩

/-- A kzero of the whole array clears its cells. -/
theorem kzeroApply_clears {s : State} {z : KZero} (hz : Only (·.id) s.core.eng.kiln.zeros z) (hst : z.start ≤ s.core.tcc)
    (hq : z.quad = none) : ∃ t, exec (.kzeroApply z.id) s = .next t ∧
      t.core.eng.kiln.cells = (z.clearAll (s.core.eng.kiln.cells.filter fun e => e.1 < 4096) s.core.eng.kiln).cells := by
  have hfind := find_only hz (p := fun y => decide (y.start ≤ s.core.tcc)) (decide_eq_true hst)
  have hguard : ∀ a : Nat, (decide (0 ≤ a / 64) && decide (a / 64 < 0 + 64) && decide (0 ≤ a % 64) && decide (a % 64 < 0 + 64)) =
      decide (a < 4096) := fun a => by
    rw [Bool.eq_iff_iff]
    simp only [Bool.and_eq_true, decide_eq_true_eq]
    omega
  change ∃ t, execKzeroApply z.id s = _ ∧ _
  simp only [execKzeroApply, State.kiln, hfind, hq, quadOrg, quadSide, Option.isSome_none, Bool.false_eq_true, if_false, hguard]
  refine ⟨_, rfl, ?_⟩
  unfold KZero.clearAll
  rw [List.foldl_filter]
  rfl

theorem kzeroApply_cell {s : State} {z : KZero} {i j : Nat} (hz : Only (·.id) s.core.eng.kiln.zeros z) (hst : z.start ≤ s.core.tcc)
    (hq : z.quad = none) (hi : i < 64) (hj : j < 64) (hk : (s.core.eng.kiln.cells.map (·.1)).Nodup) :
    ∃ t, exec (.kzeroApply z.id) s = .next t ∧
      (bits z.regs 0 0 = 1 → (t.core.eng.kiln.cell i j).c0 = 0) ∧ (bits z.regs 1 1 = 1 → (t.core.eng.kiln.cell i j).c1 = 0) ∧
      (bits z.regs 2 2 = 1 → (t.core.eng.kiln.cell i j).t = .bits 0) ∧
      (bits z.regs 0 0 = 0 → (t.core.eng.kiln.cell i j).c0 = (s.core.eng.kiln.cell i j).c0) := by
  obtain ⟨t, ht, hcells⟩ := kzeroApply_clears hz hst hq
  have hcell := clearAll_cell z hk hi hj
  unfold Kiln.cell at hcell ⊢
  rw [← hcells] at hcell
  refine ⟨t, ht, ?_⟩
  rcases hcell with hcell | ⟨hcell, hzero⟩
  · rw [hcell, clear_c0]
    refine ⟨fun h => if_pos ?_, fun h => clear_c1 _ _ ?_, fun h => clear_t _ _ ?_, fun h => if_neg ?_⟩
    all_goals simp [bit_eq_bits, h]
  · rw [hcell, hzero]
    exact ⟨fun _ => rfl, fun _ => rfl, fun _ => rfl, fun _ => rfl⟩

/-! ## Drains (R131, R286) -/

theorem sampleRow_whole (k : Kiln) {d : Drain} (hq : d.quad = none) (now i : Nat) : k.sampleRow d now i =
    (List.range 64).map fun j => if d.reg1 then ((k.cell i j).settle now).c1 else ((k.cell i j).settle now).c0 := by
  simp [Kiln.sampleRow, hq, quadOrg, quadSide]

/-- In the cycle of one of its first rows a drain samples that row and writes none. -/
theorem drainRow_samples {s : State} {d : Drain} {i : Nat} (hd : Only (·.id) s.core.eng.kiln.drains d) (hq : d.quad = none)
    (hnow : s.core.tcc = d.start + 2 + i) (hi : i < 3) :
    exec (.drainRow d.id) s = .next (s.onKiln fun k => { k with drains := k.drains.map fun x =>
      if x.id = d.id then { x with held := x.held ++ [(i, (List.range 64).map fun j =>
        if d.reg1 then ((s.core.eng.kiln.cell i j).settle s.core.tcc).c1 else ((s.core.eng.kiln.cell i j).settle s.core.tcc).c0)] } else x }) := by
  rw [← sampleRow_whole _ hq]
  have hfind := find_only hd (p := fun _ => true) rfl
  simp only [Bool.and_true] at hfind
  have hrow : s.core.tcc - d.start - 2 = i := by omega
  have hsample : d.start + 2 ≤ s.core.tcc ∧ s.core.tcc < d.start + 2 + 64 := by omega
  have hwrite : ¬(d.start + 5 ≤ s.core.tcc ∧ s.core.tcc < d.start + 5 + 64) := by omega
  change execDrainRow d.id s = _
  simp only [execDrainRow, State.kiln, hfind, hq, quadSide, Option.isSome_none, Bool.false_eq_true, if_false, if_pos hsample, if_neg hwrite,
    hrow]

/-- In the cycle of one of its last rows a drain writes that row and samples none. -/
theorem drainRow_writes {s : State} {d : Drain} {i : Nat} {row : List W64} (hd : Only (·.id) s.core.eng.kiln.drains d) (hq : d.quad = none)
    (hnow : s.core.tcc = d.start + 5 + i) (hlo : 61 ≤ i) (hi : i < 64) (hrow : d.held.lookup i = some row) (hst : d.st ≠ 0) :
    ∃ t, exec (.drainRow d.id) s = .next t ∧ t.core.engWrites = s.core.engWrites ++
      [(d.acc, d.off + i * d.rstr, row.flatMap fun v => leBytes v.toNat (drainBytes d.dt))] := by
  have hfind := find_only hd (p := fun _ => true) rfl
  simp only [Bool.and_true] at hfind
  have hidx : s.core.tcc - d.start - 5 = i := by omega
  have hsample : ¬(d.start + 2 ≤ s.core.tcc ∧ s.core.tcc < d.start + 2 + 64) := by omega
  have hwrite : d.start + 5 ≤ s.core.tcc ∧ s.core.tcc < d.start + 5 + 64 := by omega
  have hbytes : (row.map (drainElem d)).flatMap (·.1) = row.flatMap fun v => leBytes v.toNat (drainBytes d.dt) := by
    rw [List.flatMap_map]
    exact congrArg (fun f => row.flatMap f) (funext fun v => by rw [drainElem, if_neg hst])
  change ∃ t, execDrainRow d.id s = _ ∧ _
  simp only [execDrainRow, State.kiln, hfind, hq, quadSide, Option.isSome_none, Bool.false_eq_true, if_false, if_neg hsample, if_pos hwrite,
    hidx, hrow]
  exact ⟨_, rfl, by rw [← hbytes]; rfl⟩

/-! ## Folds -/

section Folds

variable {σ β γ : Type} {g : σ → γ} {f : σ → β → σ} {l : List β}

/-- What no step of a fold changes stands after it. -/
theorem foldl_keeps (h : ∀ x ∈ l, ∀ st, g (f st x) = g st) (st : σ) : g (l.foldl f st) = g st :=
  List.foldlRecOn (motive := fun y => g y = g st) l f rfl fun y hy x hx => (h x hx y).trans hy

/-- What one element of a fold sets and no other changes stands after it. -/
theorem foldl_sets {x : β} {v : γ} (hx : x ∈ l) (hset : ∀ st, g (f st x) = v) (hne : ∀ y ∈ l, y ≠ x → ∀ st, g (f st y) = g st) (st : σ) :
    g (l.foldl f st) = v := by
  induction l using List.reverseRecOn with
  | nil => cases hx
  | append_singleton l y ih =>
    rw [List.foldl_append, List.foldl_cons, List.foldl_nil]
    by_cases hy : y = x
    · rw [hy, hset]
    · rw [hne y (by simp) hy]
      exact ih (by simpa [Ne.symm hy] using hx) fun z hz => hne z (by simp [hz])

theorem foldl_onCore (k : β → Core → Core) (s : State) :
    (l.foldl (fun st x => st.onCore (k x)) s).core = l.foldl (fun c x => k x c) s.core :=
  (List.foldl_hom State.core fun _ _ => rfl).symm

/-- A fold of engine writes adds them in their order. -/
theorem foldl_engWrite (unit slot id : Nat) (w : β → Bool × Nat × List Byte) (c : Core) :
    (l.foldl (fun q x => q.engWrite unit slot id (w x).1 (w x).2.1 (w x).2.2) c).engWrites = c.engWrites ++ l.map w := by
  induction l generalizing c with
  | nil => exact (List.append_nil _).symm
  | cons x l ih =>
    rw [List.foldl_cons, ih, List.map_cons, List.append_cons]
    rfl

end Folds

/-! ## The pass in front -/

/-- The beat of a cycle, by the cycle in which the first one comes. -/
theorem beat_at {t per b now n : Nat} (h : t + per * b = now) (hper : 0 < per) (hb : b < n) :
    (t ≤ now ∧ (now - t) % per = 0 ∧ (now - t) / per < n) ∧ (now - t) / per = b := by
  have hsub : now - t = per * b := by omega
  rw [hsub, Nat.mul_mod_right, Nat.mul_div_cancel_left b hper]
  exact ⟨⟨by omega, rfl, hb⟩, rfl⟩

theorem readBeat_at {p : Pass} {b now : Nat} (h : p.base + p.s * b = now) (hper : 0 < p.s) (hb : b < p.beatN) : p.readBeat now = some b := by
  obtain ⟨hcond, hdiv⟩ := beat_at h hper hb
  rw [Pass.readBeat, if_pos hcond, hdiv]

@[simp] theorem bookReads_eng (s : State) (p : Pass) : (s.bookReads p).core.eng = s.core.eng := by
  unfold State.bookReads
  refine foldl_keeps (g := fun st : State => st.core.eng) (fun _ _ _ => ?_) s
  rfl

section Front

variable {s : State} {p : Pass} {post : List Pass} (hp : s.core.eng.kiln.passes = p :: post) (hid : ∀ q ∈ post, q.id ≠ p.id)

include hp in
theorem find_front {c : Pass → Bool} (h : c p = true) : s.kiln.passes.find? (fun q => q.id == p.id && c q) = some p := by
  simp [State.kiln, hp, h]

include hp in
theorem find_front_id : s.kiln.passes.find? (fun q => q.id == p.id) = some p := by simp [State.kiln, hp]

include hid in
theorem map_front (c : Pass → Prop) [DecidablePred c] (f : Pass → Pass) (h : c p) :
    (p :: post).map (fun q => if q.id = p.id ∧ c q then f q else q) = f p :: post := by
  rw [List.map_cons, if_pos ⟨rfl, h⟩, List.map_congr_left fun q hq => if_neg fun h => hid q hq h.1, List.map_id']

include hp hid in
theorem onPass_passes (f : Pass → Pass) : (s.onPass p.id f).core.eng.kiln.passes = f p :: post := by
  have hmap := map_front hid (fun _ => True) f trivial
  simp only [and_true] at hmap
  rw [← hmap, ← hp]
  rfl

@[simp] theorem onPass_cell (id : Nat) (f : Pass → Pass) (i j : Nat) :
    (s.onPass id f).core.eng.kiln.cell i j = s.core.eng.kiln.cell i j := rfl
@[simp] theorem onPass_engWrites (id : Nat) (f : Pass → Pass) : (s.onPass id f).core.engWrites = s.core.engWrites := rfl

/-! ## Starts (R132, R140, R284) -/

/-- The pass in front as it starts: under the configuration that is active, its roles' streams at their rings' pointers. -/
def State.started (s : State) (p : Pass) : Pass :=
  { s.underCfg p (p.quad.getD 0) with roles := p.roles.map fun r =>
      { r with pos := some (if (s.underCfg p (p.quad.getD 0)).isOut r.r then (s.core.ring r.ring).tail.toNat else (s.core.ring r.ring).head.toNat) } }

theorem started_c (s : State) (p : Pass) : (s.started p).c =
    if (s.core.eng.kiln.metAt (p.quad.getD 0) p.start).skews = none then (s.core.eng.kiln.metAt (p.quad.getD 0) p.start).c else 0 := by
  change (if (s.core.eng.kiln.metAt (p.quad.getD 0) p.start).skews.isSome then 0 else _) = _
  cases (s.core.eng.kiln.metAt (p.quad.getD 0) p.start).skews <;> rfl

include hp in
/-- No earlier pass holds tiles before the pass in front: its streams begin at their rings' pointers. -/
theorem rolePos_front {q : Pass} {r : Role} (hq : q.id = p.id) (hr : r.pos = none) :
    s.core.rolePos q r = if q.isOut r.r then (s.core.ring r.ring).tail.toNat else (s.core.ring r.ring).head.toNat := by
  simp [Core.rolePos, hr, hp, hq, heldTiles]

include hp hid in
theorem passStart_starts (hst : p.start ≤ s.core.tcc) (hpos : ∀ r ∈ p.roles, r.pos = none) :
    exec (.passStart p.id) s = .next (s.onKiln fun k => { k with passes := s.started p :: post }) := by
  have hstarted : { s.underCfg p (p.quad.getD 0) with roles := p.roles.map fun r =>
      { r with pos := some (s.core.rolePos (s.underCfg p (p.quad.getD 0)) r) } } = s.started p :=
    congrArg (fun l => { s.underCfg p (p.quad.getD 0) with roles := l }) (List.map_congr_left fun r hr => by
      rw [rolePos_front hp (q := s.underCfg p (p.quad.getD 0)) rfl (hpos r hr)])
  refine congrArg Host.Outcome.next (onKiln_eq ?_)
  rw [hp, map_front hid (fun q => q.start ≤ s.core.tcc) _ hst]
  exact congrArg (fun q => { s.core.eng.kiln with passes := q :: post }) hstarted

/-! ## The rings of a pass (R83, R123, R284) -/

theorem moveRings_ring {p : Pass} {out : Bool} (hn : (p.roles.map (·.ring)).Nodup) (rs : Vector Ring 8) {r : Role} (hr : r ∈ p.roles)
    (hout : p.isOut r.r = out) (hlt : r.ring < 8) : vget .none (p.moveRings out rs) r.ring = (vget .none rs r.ring).move out r.tiles := by
  have hn' := hn.sublist ((List.filter_sublist (p := fun r : Role => p.isOut r.r == out)).map (·.ring))
  have hr' : r ∈ p.roles.filter fun r => p.isOut r.r == out := List.mem_filter.mpr ⟨hr, by simp [hout]⟩
  unfold Pass.moveRings
  generalize p.roles.filter (fun r => p.isOut r.r == out) = l at hn' hr'
  induction l generalizing rs with
  | nil => cases hr'
  | cons x l ih =>
    rw [List.map_cons, List.nodup_cons] at hn'
    rw [List.foldl_cons]
    rcases List.mem_cons.mp hr' with rfl | hmem
    · have hne : ∀ y ∈ l, y.ring ≠ r.ring := fun y hy h => hn'.1 (h ▸ List.mem_map_of_mem hy)
      rw [foldl_keeps (g := fun v : Vector Ring 8 => vget .none v r.ring) fun y hy v => vget_vset_ne _ _ _ (hne y hy),
        vget_vset_same _ _ _ hlt]
    · have hne : x.ring ≠ r.ring := fun h => hn'.1 (h ▸ List.mem_map_of_mem hmem)
      rw [ih _ hn'.2 hmem, vget_vset_ne _ _ _ hne]

include hp in
theorem passRetire_rings (hret : p.retire = s.core.tcc) :
    ∃ t, exec (.passRetire p.id) s = .next t ∧ t.core.eng.rings = p.moveRings false s.core.eng.rings := by
  have hfind := find_front hp (c := fun q => q.retire == s.core.tcc) (by simp [hret])
  change ∃ t, execPassRetire p.id s = _ ∧ _
  simp only [execPassRetire, hfind]
  exact ⟨_, rfl, rfl⟩

include hp in
theorem outputRingAdvance_rings (hout : p.lastOut = s.core.tcc) :
    ∃ t, exec (.outputRingAdvance p.id) s = .next t ∧ t.core.eng.rings = p.moveRings true s.core.eng.rings := by
  have hfind := find_front hp (c := fun q => q.lastOut == s.core.tcc) (by simp [hout])
  change ∃ t, execOutputRingAdvance p.id s = _ ∧ _
  simp only [execOutputRingAdvance, hfind]
  exact ⟨_, rfl, rfl⟩

/-! ## Reads (R121, R136, R137) -/

section Reads

variable {b : Nat} (hb : p.base + p.s * b = s.core.tcc) (hper : 0 < p.s) (hlt : b < p.beatN)
include hp hid hb hper hlt

/-- The edge of a pass whose flow is OS or SPLIT4 reads the beat of the cycle. -/
theorem streamUnitCheck_reads (hflow : p.flow = 0) :
    ∃ t, exec (.streamUnitCheck p.id) s = .next t ∧ t.core.eng.kiln.passes = { p with edges := p.edges ++ [s.core.edgeBeat p b] } :: post := by
  have hpass : (s.bookReads p).core.eng.kiln.passes = p :: post := by rw [bookReads_eng, hp]
  change ∃ t, execStreamUnitCheck p.id s = _ ∧ _
  simp only [execStreamUnitCheck, find_front_id hp, readBeat_at hb hper hlt]
  refine ⟨_, rfl, ?_⟩
  rw [onPass_passes hpass hid]
  simp [hflow]

theorem briquetteRead_reads (hcnd : p.cnd = true) :
    ∃ t q e, exec (.briquetteRead p.id) s = .next t ∧ t.core.eng.kiln.passes = q :: post ∧ q.id = p.id ∧
      q.edges = addBeat p.edges e ∧ e.b = b ∧ (p.ended = true → q.ended = true) := by
  have hfind := find_front hp (c := (·.cnd)) hcnd
  have hpass : ∀ f : W64 → W64, ((s.bookReads p).onKiln fun k => { k with kstat := f k.kstat }).core.eng.kiln.passes = p :: post := fun f => by
    rw [onKiln_kiln, bookReads_eng, hp]
  change ∃ t q e, execBriquetteRead p.id s = _ ∧ _
  simp only [execBriquetteRead, hfind, readBeat_at hb hper hlt]
  exact ⟨_, _, _, rfl, onPass_passes (hpass _) hid _, rfl, rfl, rfl, fun h => by simp [h]⟩

end Reads

end Front

theorem edgeBeat_plain {c : Core} {p : Pass} {b : Nat} (hflow : p.flow = 0) (hsel : p.sel = 0) :
    (c.edgeBeat p b).b = b ∧ (c.edgeBeat p b).null = false ∧
    (c.edgeBeat p b).rows = ((List.range p.side).map fun i =>
      [p.enter (fmtAT p.fmt) (c.streamNum p 0 (b * p.unitBytes 0 + i * (p.wA * p.nl)) (p.wA * p.nl))]) ∧
    (c.edgeBeat p b).cols = ((List.range p.side).map fun j =>
      [p.enter (fmtBT p.fmt) (c.streamNum p 1 (b * p.unitBytes 1 + j * (p.wB * p.nl)) (p.wB * p.nl))]) := by
  simp only [Core.edgeBeat, hflow, hsel, if_true, Core.streamWords, List.map_map]
  exact ⟨trivial, trivial, rfl, rfl⟩

theorem addBeat_length (es : List EdgeBeat) (e : EdgeBeat) : (addBeat es e).length = es.length + 1 := by
  rcases List.eq_nil_or_concat es with rfl | ⟨l, o, rfl⟩
  · rfl
  · simp only [addBeat, List.concat_eq_append, List.getLast?_concat, List.dropLast_concat]
    split <;> simp

theorem addBeat_last (es : List EdgeBeat) (e : EdgeBeat) : (addBeat es e).getLast? = some e := by
  unfold addBeat
  cases es.getLast? with
  | none => rfl
  | some o =>
    simp only
    split <;> simp

/-! ## Writes that fall due (R126, R127, R284) -/

/-- The engine writes of a pass that fall in a cycle. -/
def Pass.dueWrites (p : Pass) (now : Nat) : List (Bool × Nat × List Byte) :=
  (p.outs.filter fun o => o.1 == now).map fun o => (o.2.1, o.2.2.1, o.2.2.2)

theorem passWrites_engWrites (s : State) (p : Pass) : (s.passWrites p).core.engWrites = s.core.engWrites ++ p.dueWrites s.core.tcc := by
  unfold State.passWrites
  rw [onPass_engWrites, foldl_onCore (fun (o : Nat × Bool × Nat × List Byte) c => c.engWrite 9 13 p.id o.2.1 o.2.2.1 o.2.2.2)]
  exact foldl_engWrite 9 13 p.id (fun o : Nat × Bool × Nat × List Byte => (o.2.1, o.2.2.1, o.2.2.2)) s.core

/-- What WS_PARTIAL_WRITE does for one column of a pass, on the words that stand in a state. -/
def State.wsColumn (s : State) (p : Pass) (st : State) (j : Nat) : State :=
  let now := s.core.tcc
  let t := p.base + 2 + p.lineSkew true j
  if t ≤ now ∧ (now - t) % p.s = 0 ∧ (now - t) / p.s < p.beatN then
    let off := p.wordOff ((now - t) / p.s) j
    let c := st.kiln.cell 0 j
    let v := if p.accum then (typeForm (fmtACC p.fmt)).put (rdLE s.core.acc off p.wC) else
      let g := st.kiln.cfgOf c
      p.absent g (cellClass g.map 0 j)
    let st1 := if p.accum then st.onCore fun q => q.bookEng 9 14 p.id 1 false [off] else st
    st1.onKiln fun k => k.setCell 0 j { c with ni := BitVec.ofNat 64 v }
  else st

section Column

variable (s : State) (p : Pass) (st : State) (j : Nat)

theorem wsColumn_engWrites : (s.wsColumn p st j).core.engWrites = st.core.engWrites := by
  simp only [State.wsColumn]
  split
  · split <;> rfl
  · rfl

theorem wsColumn_cell_ne {j' : Nat} (h : j' ≠ j) : (s.wsColumn p st j).core.eng.kiln.cell 0 j' = st.core.eng.kiln.cell 0 j' := by
  have hne : 64 * 0 + j' ≠ 64 * 0 + j := by omega
  simp only [State.wsColumn]
  split
  · rw [onKiln_kiln, setCell_cell_ne _ _ hne]
    split <;> rfl
  · rfl

theorem rdLE_lt (m : Mem) (a n : Nat) : rdLE m a n < 256 ^ n := by
  induction n generalizing a with
  | zero => exact Nat.one_pos
  | succ n ih =>
    have hbyte := (rdByte m a).isLt
    have htail := ih (a + 1)
    rw [rdLE, Nat.pow_succ]
    omega

variable {s p}

/-- The column entry of an accumulating pass is the FP32 word of its beat. -/
theorem wsColumn_cell_same {b : Nat} (hacc : p.accum = true) (hfmt : fmtACC p.fmt = 0)
    (hnow : s.core.tcc = p.base + 2 + p.lineSkew true j + p.s * b) (hper : 0 < p.s) (hb : b < p.beatN) :
    ((s.wsColumn p st j).core.eng.kiln.cell 0 j).ni = BitVec.ofNat 64 (rdLE s.core.acc (p.wordOff b j) 4) := by
  obtain ⟨hcond, hdiv⟩ := beat_at hnow.symm hper hb
  have hput : (typeForm 0).put (rdLE s.core.acc (p.wordOff b j) 4) = rdLE s.core.acc (p.wordOff b j) 4 :=
    Nat.mod_eq_of_lt (rdLE_lt _ _ 4)
  have hwidth : p.wC = 4 := by rw [Pass.wC, hfmt]; rfl
  simp only [State.wsColumn]
  rw [if_pos hcond, onKiln_kiln, setCell_cell_same, hdiv, if_pos hacc, hfmt, hwidth, hput]

end Column

section Front

variable {s : State} {p : Pass} {post : List Pass} (hp : s.core.eng.kiln.passes = p :: post)
include hp

theorem wsPartialWrite_folds (hflow : p.flow = 1) (hpre : p.pre = false) :
    exec (.wsPartialWrite p.id) s = .next ((List.range 64).foldl (s.wsColumn p) (s.passWrites p)) := by
  have hfind := find_front hp (c := fun q => q.flow == 1 && !q.pre) (by simp [hflow, hpre])
  simp only [← Bool.and_assoc] at hfind
  change execWsPartialWrite p.id s = _
  simp only [execWsPartialWrite, hfind]
  rfl

theorem wsPartialWrite_writes (hflow : p.flow = 1) (hpre : p.pre = false) :
    ∃ t, exec (.wsPartialWrite p.id) s = .next t ∧ t.core.engWrites = s.core.engWrites ++ p.dueWrites s.core.tcc ∧
      ∀ j b, j < 64 → p.accum = true → fmtACC p.fmt = 0 → s.core.tcc = p.base + 2 + p.lineSkew true j + p.s * b → 0 < p.s → b < p.beatN →
        (t.core.eng.kiln.cell 0 j).ni = BitVec.ofNat 64 (rdLE s.core.acc (p.wordOff b j) 4) := by
  refine ⟨_, wsPartialWrite_folds hp hflow hpre, ?_, fun j b hj hacc hfmt hnow hper hb => ?_⟩
  · rw [foldl_keeps (g := fun st : State => st.core.engWrites) (fun j _ st => wsColumn_engWrites s p st j), passWrites_engWrites]
  · exact foldl_sets (g := fun st : State => (st.core.eng.kiln.cell 0 j).ni) (List.mem_range.mpr hj)
      (fun st => wsColumn_cell_same st j hacc hfmt hnow hper hb)
      (fun j' _ hne st => congrArg Cell.ni (wsColumn_cell_ne s p st j' (Ne.symm hne))) _

/-- The writes that give a beat's directions. -/
def Core.dirWrites (c : Core) (p : Pass) (x : Role) (b : Nat) : List (Bool × Nat × List Byte) :=
  (List.range 16).map fun u => (false, c.streamOff p x (1024 * b + 64 * u), ((dirBytes p.rowsIn b).drop (64 * u)).take 64)

/-- The boundary values that fall due are written, and after them no more than the directions of a beat. -/
theorem wfOutputWrite_writes (hflow : p.flow = 2) :
    ∃ t more, exec (.wfOutputWrite p.id) s = .next t ∧ t.core.engWrites = s.core.engWrites ++ p.dueWrites s.core.tcc ++ more ∧
      (p.dirs = false → more = []) := by
  have hfind := find_front hp (c := fun q => q.flow == 2) (by simp [hflow])
  have hnone : (s.passWrites p).core.engWrites = s.core.engWrites ++ p.dueWrites s.core.tcc ++ [] := by
    rw [List.append_nil, passWrites_engWrites]
  change ∃ t more, execWfOutputWrite p.id s = _ ∧ _
  simp only [execWfOutputWrite, hfind]
  split
  next hdirs =>
    cases hrole : p.role 6 with
    | none => exact ⟨_, [], rfl, hnone, fun _ => rfl⟩
    | some x =>
      refine ⟨_, s.core.dirWrites p x (s.core.tcc - (p.base + 5 + p.span)), rfl, ?_, fun h => absurd (h.symm.trans hdirs.1) (by decide)⟩
      rw [onPass_engWrites, onCore_core, ← passWrites_engWrites, Core.dirWrites, ← foldl_engWrite 9 15 p.id]
  next => exact ⟨_, [], rfl, hnone, fun _ => rfl⟩

end Front

/-! ## The triangular flow (R128, R129, R273) -/

theorem filter_range_single {c : Nat → Bool} {n h : Nat} (hn : h < n) (hc : c h = true) (hone : ∀ q < n, c q = true → q = h) :
    (List.range n).filter c = [h] := by
  have hbeq : (List.range n).filter c = (List.range n).filter (· == h) := List.filter_congr fun q hq => by
    rw [Bool.eq_iff_iff, beq_iff_eq]
    exact ⟨hone q (List.mem_range.mp hq), fun he => he ▸ hc⟩
  rw [hbeq, List.filter_beq, List.count_eq_one_of_mem List.nodup_range (List.mem_range.mpr hn)]
  rfl

/-- The lower triangle of order n is set cell by cell: a cell has what its own step gave it. -/
theorem foldl_triangle_cell {γ : Type} (g : Cell → γ) {e : Kiln → Nat → Nat → Cell} {v : γ} {n i j : Nat} (hi : i < n) (hj : j ≤ i)
    (hset : ∀ k, g (e k i j) = v) (hkey : ∀ i' < n, ∀ j' ≤ i', 64 * i' + j' = 64 * i + j → i' = i ∧ j' = j) (k : Kiln) :
    g (((List.range n).foldl (fun k i => (List.range (i + 1)).foldl (fun k j => k.setCell i j (e k i j)) k) k).cell i j) = v := by
  have hother : ∀ i' < n, ∀ j' ≤ i', (i', j') ≠ (i, j) → ∀ (k : Kiln) c, (k.setCell i' j' c).cell i j = k.cell i j :=
    fun i' hi' j' hj' hne k c => setCell_cell_ne k c fun h => hne (Prod.ext_iff.mpr (hkey i' hi' j' hj' h.symm))
  refine foldl_sets (g := fun k : Kiln => g (k.cell i j)) (List.mem_range.mpr hi) (fun k => ?_) (fun i' hi' hne k => ?_) k
  · refine foldl_sets (g := fun k : Kiln => g (k.cell i j)) (List.mem_range.mpr (Nat.lt_succ_of_le hj)) (fun k => ?_) (fun j' hj' hne k => ?_) k
    · rw [setCell_cell_same, hset]
    · rw [hother i hi j' (Nat.le_of_lt_succ (List.mem_range.mp hj')) (by simp [hne])]
  · refine foldl_keeps (g := fun k : Kiln => g (k.cell i j)) (fun j' hj' k => ?_) k
    rw [hother i' (List.mem_range.mp hi') j' (Nat.le_of_lt_succ (List.mem_range.mp hj')) (by simp [hne])]

/-- What the cells and the right-hand side h of a pass give when they are solved. -/
def State.triSolved (s : State) (p : Pass) (h : Nat) : Row32 × BitVec 7 :=
  triSolve p.triCtx p.n (p.trim == 3) (fun i j => ((s.kiln.cell i j).settle s.core.tcc).c1.toNat % 2 ^ 32)
    (fun i => ((s.kiln.cell i i).settle s.core.tcc).c0.toNat % 2 ^ 32) ((p.rowsIn.getD h []).take p.n)

/-- The words that right-hand side h leaves in the output ring. -/
def State.triWords (s : State) (p : Pass) (h : Nat) : List Nat :=
  (List.range 64).map fun i => if (p.std && !p.triZeroed h) && i < p.n then (s.triSolved p h).1.getD i 0 else Config.openValue 7 h i % 2 ^ 32

section Solution

variable {s : State} {p : Pass} {h : Nat}

theorem triWords_length : (s.triWords p h).length = 64 := by simp [State.triWords]

theorem triWords_getD {i : Nat} (hstd : p.std = true) (hz : p.triZeroed h = false) (hi : i < min p.n 64) :
    (s.triWords p h).getD i 0 = (s.triSolved p h).1.getD i 0 := by
  obtain ⟨hn, h64⟩ := lt_min_iff.mp hi
  simp [State.triWords, List.getD_eq_getElem?_getD, h64, hn, hstd, hz]

theorem triSolution_engWrites {x : Role} (hx : p.role 7 = some x) :
    (s.triSolution p h).core.engWrites = s.core.engWrites ++ (List.range 4).map fun u => (false, s.core.streamOff p x (256 * h + 64 * u),
      (((s.triWords p h).drop (16 * u)).take 16).flatMap fun w => leBytes w 4) := by
  rw [← foldl_engWrite 9 13 p.id]
  simp only [State.triSolution, hx]
  rw [onPass_engWrites]
  split <;> rfl

theorem triSolution_t {x : Role} {i : Nat} (hx : p.role 7 = some x) (hstd : p.std = true) (hz : p.triZeroed h = false) (hi : i < min p.n 64) :
    ((s.triSolution p h).core.eng.kiln.cell i i).t = .bits (BitVec.ofNat 64 ((s.triWords p h).getD i 0)) := by
  obtain ⟨hn, h64⟩ := lt_min_iff.mp hi
  rw [triWords_getD hstd hz hi]
  simp only [State.triSolution, hx]
  rw [onPass_cell, if_pos hstd, onKiln_kiln]
  refine foldl_triangle_cell Cell.t hn (Nat.le_refl i) (fun k => ?_) (fun i' _ j' _ _ => ?_) _
  · rw [hstd, hz]
    exact if_pos rfl
  · omega

theorem triFactor_engWrites (q : Nat) : (s.triFactor p q).core.engWrites = s.core.engWrites := by
  simp only [State.triFactor]
  split <;> rfl

/-- The lower triangle that a factor pass factors for matrix q. -/
def Pass.triRows (p : Pass) (q : Nat) : List Row32 := ((p.rowsIn.drop (q * p.triBeats)).take p.n).zipIdx.map fun r => r.1.take (r.2 + 1)

theorem triFactor_c1 {q i j : Nat} (htrim : p.trim = 0) (hstd : p.std = true) (hz : p.triZeroed q = false) (hn : p.n ≤ 64) (hi : i < p.n)
    (hj : j ≤ i) : ((s.triFactor p q).core.eng.kiln.cell i j).c1 = BitVec.ofNat 64 (mat (factor p.triCtx p.n (p.triRows q)).1 i j) := by
  simp only [State.triFactor, hstd, htrim, if_true, Bool.not_true, Bool.false_eq_true, if_false, hz, Bool.not_false]
  rw [onPass_cell, onKiln_kiln]
  refine foldl_triangle_cell Cell.c1 hi hj (fun k => ?_) (fun i' _ j' _ _ => ?_) _
  · rfl
  · omega

end Solution

section Front

variable {s : State} {p : Pass} {post : List Pass} {h : Nat} (hp : s.core.eng.kiln.passes = p :: post) (hflow : p.flow = 3)
  (hat : p.triAt h = s.core.tcc) (hone : ∀ q < p.triCount, p.triAt q = s.core.tcc → q = h) (hlt : h < p.triCount)
include hp hflow hat hone hlt

/-- The one result that falls due is formed. -/
theorem triSolutionWrite_forms :
    exec (.triSolutionWrite p.id) s = .next (if p.trim ≤ 1 then s.triFactor p h else s.triSolution p h) := by
  have hfind := find_front hp (c := fun q => q.flow == 3) (by simp [hflow])
  have hdue := filter_range_single (c := fun q => p.triAt q == s.core.tcc) hlt (by simp [hat]) fun q hq he => hone q hq (beq_iff_eq.mp he)
  change execTriSolutionWrite p.id s = _
  simp only [execTriSolutionWrite, hfind, hdue]
  rfl

end Front

/-! ## Saturating sums in signed terms (R67) -/

theorem signed_sixteen (a : Nat) : signed 16 a = if a % 65536 < 32768 then ((a % 65536 : Nat) : Int) else ((a % 65536 : Nat) : Int) - 65536 := by
  rw [signed, Int.bmod_def]
  omega

theorem signed_ofInt_sixteen {x : Int} (hlo : -32768 ≤ x) (hhi : x ≤ 32767) : signed 16 (ofInt 16 x) = x := by
  rw [signed_sixteen, ofInt, BitVec.toNat_ofInt]
  omega

theorem signed_satAdd_sixteen (a b : Nat) : signed 16 (satAdd 16 (a % 2 ^ 16) (b % 2 ^ 16)) = satAdd16 (signed 16 a) (signed 16 b) := by
  have htop : ∀ c : Nat, c % 65536 = 32767 ↔ signed 16 c = 32767 := fun c => by rw [signed_sixteen]; omega
  have hbot : ∀ c : Nat, c % 65536 = 32768 ↔ signed 16 c = -32768 := fun c => by rw [signed_sixteen]; omega
  have hmod : ∀ c : Nat, signed 16 (c % 65536) = signed 16 c := fun c => by simp only [signed_sixteen, Nat.mod_mod]
  simp only [satAdd, satAdd16, sInt_eq_signed, Nat.reducePow, Nat.reduceSub, hmod, htop, hbot, apply_ite (signed 16)]
  exact ite_congr rfl (fun _ => rfl) fun _ => ite_congr rfl (fun _ => rfl) fun _ =>
    ite_congr (propext ⟨fun h => by omega, fun h => by omega⟩) (fun _ => rfl) fun hhi =>
      ite_congr rfl (fun _ => rfl) fun hlo => signed_ofInt_sixteen (by omega) (by omega)

/-! ## One step of the fixed datapath on INT16 values (R67, R69, R121) -/

theorem toNat_ofNat_put_sixteen (z : Nat) : (BitVec.ofNat 64 (Form.i16.put z)).toNat = (BitVec.ofInt 64 (signed 16 z)).toNat := by
  change (BitVec.ofNat 64 (BitVec.ofInt 64 (sInt 16 z)).toNat).toNat = _
  rw [BitVec.ofNat_toNat, BitVec.setWidth_eq, sInt_eq_signed]

theorem signed_put_sixteen (z : Nat) : signed 16 (BitVec.ofNat 64 (Form.i16.put z)).toNat = signed 16 z := by
  have hz := signed_sixteen z
  rw [toNat_ofNat_put_sixteen, signed_sixteen (BitVec.toNat _), BitVec.toNat_ofInt]
  omega

theorem signed_pick_sixteen (x y : Nat) :
    signed 16 (BitVec.ofNat 64 (pickForm .i16 false x y)).toNat = min (signed 16 x) (signed 16 y) := by
  have hpick : pickForm .i16 false x y = Form.i16.put (if signed 16 y < signed 16 x then y else x) := by
    rw [← sInt_eq_signed, ← sInt_eq_signed]
    rfl
  rw [hpick, signed_put_sixteen, apply_ite (signed 16), min_comm, min_def_lt]

section MinPlus

variable (x : BeatCtx) (acc a b : Nat)

theorem combine_satAdd (blk : TVal) (wi ni k0 : Nat) :
    combine x 3 0 a b blk wi ni k0 = (.bits (BitVec.ofNat 64 (Form.i16.put (satAdd 16 (a % 2 ^ 16) (b % 2 ^ 16)))), 0) := by
  have hform : fieldForm 0 (fmtAT x.fmt) = .i16 := rfl
  have hwidth : Form.i16.width = 16 := rfl
  simp only [combine, hform, hwidth, Form.join, Form.pair, Bool.false_eq_true, if_false]

theorem accumulate_min (v : W64) : accumulate x 6 0 acc (.bits v) = (some (pickForm .i16 false acc v.toNat), 0) := by
  simp only [accumulate]
  rfl

/-- The step of code 1 on INT16: the sum, saturated, is kept where it is below the accumulator. -/
theorem fixedStep_minPlus (hacc : fmtACC x.fmt = 8) (blk : TVal) :
    signed 16 (BitVec.ofNat 64 (fixedStep x 1 blk acc a b).2.1).toNat = min (signed 16 acc) (satAdd16 (signed 16 a) (signed 16 b)) := by
  have hops : stdOps x.fmt 1 = (3, 0, 6) := by simp [stdOps, hacc]
  simp only [fixedStep, hops, combine_satAdd, accumulate_min, Option.getD_some]
  rw [signed_pick_sixteen, signed_put_sixteen, signed_satAdd_sixteen]

end MinPlus

/-! ## A beat comes to a cell (R121, R133, R267) -/

section Arrival

variable {p : Pass} {b i j now : Nat}

/-- The accumulator that a cell's next step finds. -/
theorem absorb_c1 (c : Cell) : c.absorb.c1 = match c.due with | some d => d.2 | none => c.c1 := by
  unfold Cell.absorb
  cases c.due <;> rfl

theorem lineBeat_plain (hskew : p.skews = none) (hnow : now = p.base + 3 + i + j + p.s * b) (hper : 0 < p.s) (hb : b < p.beatN) (col : Bool) :
    p.lineBeat now col i j = some b := by
  have hway : (p.base + 3 + if col then p.lineSkew true j + i else p.lineSkew false i + j) + p.s * b = now := by
    simp only [Pass.lineSkew, hskew]
    split <;> omega
  obtain ⟨hcond, hdiv⟩ := beat_at hway hper hb
  simp only [Pass.lineBeat]
  rw [if_pos hcond, hdiv]

theorem beatInputs_plain {e : EdgeBeat} (none2 : Nat) (c : Cell) (hflow : p.flow = 0) (hsel : p.sel = 0) (hcnd : p.cnd = false)
    (hskew : p.skews = none) (hnl : p.nl = 1) (he : p.edges.find? (fun x => x.b == b) = some e) (hext : b < p.ext) :
    p.beatInputs none2 c i j (some b) (some b) = (if j = 0 then (e.rows.getD i []).headD 0 else c.wi.toNat,
      if i = 0 then (e.cols.getD j []).headD 0 else c.ni.toNat, true, 1) := by
  simp [Pass.beatInputs, hflow, hsel, hcnd, hskew, hnl, he, hext]

section MinPlus

variable {x : BeatCtx} (hcode : p.code = 1) (hacc : fmtACC x.fmt = 8) (hfresh : x.fresh = false) (hvalid : x.valid = true)
include hcode hacc hfresh hvalid

/-- What a min-plus beat on INT16 makes of a cell. -/
theorem fixedCell_minPlus (c : Cell) (wi ni : Nat) :
    ∃ v, (p.fixedCell x false false c now wi ni).cell.due = some (now + p.s - 1, v) ∧
      signed 16 v.toNat = min (signed 16 c.absorb.c1.toNat) (satAdd16 (signed 16 wi) (signed 16 ni)) := by
  simp only [Pass.fixedCell, hfresh, hcode, hvalid, Bool.not_false, Bool.or_true, Bool.and_true, Bool.true_or, if_true,
    Bool.false_eq_true, if_false]
  exact ⟨_, rfl, fixedStep_minPlus x _ wi ni hacc c.absorb.blk⟩

theorem stepCell_minPlus {e : EdgeBeat} {g : KCfg} {cls wi ni : Nat} {c : Cell} (hflow : p.flow = 0) (hnull : e.null = false)
    (hR : e.nanR = []) (hC : e.nanC = []) :
    ∃ v, (p.stepCell g cls x e i j now c wi ni).cell.due = some (now + p.s - 1, v) ∧
      signed 16 v.toNat = min (signed 16 c.absorb.c1.toNat) (satAdd16 (signed 16 wi) (signed 16 ni)) ∧
      (p.stepCell g cls x e i j now c wi ni).east = wi ∧ (p.stepCell g cls x e i j now c wi ni).south = ni := by
  have hstep : p.stepCell g cls x e i j now c wi ni =
      p.fixedCell x false false (if p.firstAt now i j then { c with u := g.sp.getD cls 0 } else c) now wi ni := by
    simp [Pass.stepCell, hflow, hcode, hnull, hR, hC]
  have hprog : (if p.firstAt now i j then { c with u := g.sp.getD cls 0 } else c).absorb.c1 = c.absorb.c1 := by
    split
    · simp only [absorb_c1]
    · rfl
  obtain ⟨v, hdue, hv⟩ := fixedCell_minPlus (now := now) hcode hacc hfresh hvalid
    (if p.firstAt now i j then { c with u := g.sp.getD cls 0 } else c) wi ni
  rw [hstep]
  exact ⟨v, hdue, hprog ▸ hv, rfl, rfl⟩

end MinPlus

section Drive

variable (k : Kiln) (side r0 c0 i j : Nat) (o : CellOut) (valid : Bool) (win : Option TVal)

theorem drive_cell_same : (k.drive side r0 c0 i j o valid win).cell (r0 + i) (c0 + j) = k.cell (r0 + i) (c0 + j) := by
  have heast : 64 * (r0 + i) + (c0 + j) ≠ 64 * (r0 + i) + (c0 + j + 1) := by omega
  have hsouth : 64 * (r0 + i) + (c0 + j) ≠ 64 * (r0 + i + 1) + (c0 + j) := by omega
  have hfirst : ∀ c, (if j + 1 < side then k.setCell (r0 + i) (c0 + j + 1) c else k).cell (r0 + i) (c0 + j) = k.cell (r0 + i) (c0 + j) :=
    fun c => by
      split
      · exact setCell_cell_ne k c heast
      · rfl
  simp only [Kiln.drive]
  split
  · rw [setCell_cell_ne _ _ hsouth, hfirst]
  · exact hfirst _

theorem drive_east (h : j + 1 < side) :
    ((k.drive side r0 c0 i j o valid win).cell (r0 + i) (c0 + j + 1)).wi = BitVec.ofNat 64 o.east := by
  have hne : 64 * (r0 + i) + (c0 + j + 1) ≠ 64 * (r0 + i + 1) + (c0 + j) := by omega
  simp only [Kiln.drive, if_pos h]
  split
  · rw [setCell_cell_ne _ _ hne, setCell_cell_same]
  · rw [setCell_cell_same]

theorem drive_south (h : i + 1 < side) :
    ((k.drive side r0 c0 i j o valid win).cell (r0 + i + 1) (c0 + j)).ni = BitVec.ofNat 64 o.south := by
  simp only [Kiln.drive, if_pos h, setCell_cell_same]

end Drive

/-- What the cell (i, j) of a pass makes of a beat with both its operands. -/
def State.arrivalOut (s : State) (p : Pass) (e : EdgeBeat) (i j wi ni : Nat) : CellOut :=
  let c := s.kiln.cell i j
  let g := s.kiln.cfgOf c
  p.stepCell g (cellClass g.map i j) (p.ctxOf e i j (p.firstAt s.core.tcc i j) true 1) e i j s.core.tcc c wi ni

/-- A beat that comes to a cell from both sides steps the cell, and the cell drives its neighbours. -/
theorem beatArrival_steps {s : State} {post : List Pass} {e : EdgeBeat} {wi ni : Nat} (hp : s.core.eng.kiln.passes = p :: post)
    (hflow : p.flow = 0) (hquad : p.quad = none) (hi : i < 64) (hj : j < 64) (hline : ∀ col, p.lineBeat s.core.tcc col i j = some b)
    (he : p.edges.find? (fun x => x.b == b) = some e)
    (hin : ∀ none2, p.beatInputs none2 (s.kiln.cell i j) i j (some b) (some b) = (wi, ni, true, 1)) :
    ∃ t, exec (.beatArrival p.id (BitVec.ofNat 6 i) (BitVec.ofNat 6 j)) s = .next t ∧ ∀ i' j', t.core.eng.kiln.cell i' j' =
      ((s.core.eng.kiln.setCell i j (s.arrivalOut p e i j wi ni).cell).drive 64 0 0 i j (s.arrivalOut p e i j wi ni) true none).cell i' j' := by
  have hside : p.side = 64 := by rw [Pass.side, hquad]; rfl
  change ∃ t, execBeatArrival p.id _ _ s = _ ∧ _
  simp only [execBeatArrival, find_front_id hp, hflow, hquad, quadOrg, toNat_ofNat_six hi, toNat_ofNat_six hj, Nat.sub_zero, hline,
    Option.orElse_some, hin, he, hside, Option.getD_some, Nat.reduceEqDiff, if_false]
  exact ⟨_, rfl, fun _ _ => rfl⟩

theorem ctxOf_plain (e : EdgeBeat) (i j : Nat) (first valid : Bool) (lanes : Nat) (hflow : p.flow = 0) (hfresh : p.fresh = false) :
    (p.ctxOf e i j first valid lanes).fmt = p.fmt ∧ (p.ctxOf e i j first valid lanes).fresh = false ∧
      (p.ctxOf e i j first valid lanes).valid = valid := by
  simp [Pass.ctxOf, hflow, hfresh]

/-- A min-plus beat on INT16 at a cell: the cell's result falls due, and its neighbours have the operands. -/
theorem beatArrival_minPlus {s : State} {post : List Pass} {e : EdgeBeat} {wi ni : Nat}
    (hp : s.core.eng.kiln.passes = p :: post) (hflow : p.flow = 0) (hquad : p.quad = none) (hcode : p.code = 1) (hfresh : p.fresh = false)
    (hacc : fmtACC p.fmt = 8) (hi : i < 64) (hj : j < 64) (hline : ∀ col, p.lineBeat s.core.tcc col i j = some b)
    (he : p.edges.find? (fun x => x.b == b) = some e) (hR : e.nanR = []) (hC : e.nanC = []) (hnull : e.null = false)
    (hin : ∀ none2, p.beatInputs none2 (s.kiln.cell i j) i j (some b) (some b) = (wi, ni, true, 1)) :
    ∃ t v, exec (.beatArrival p.id (BitVec.ofNat 6 i) (BitVec.ofNat 6 j)) s = .next t ∧
      (t.core.eng.kiln.cell i j).due = some (s.core.tcc + p.s - 1, v) ∧
      signed 16 v.toNat = min (signed 16 (s.kiln.cell i j).absorb.c1.toNat) (satAdd16 (signed 16 wi) (signed 16 ni)) ∧
      (j < 63 → (t.core.eng.kiln.cell i (j + 1)).wi = BitVec.ofNat 64 wi) ∧
      (i < 63 → (t.core.eng.kiln.cell (i + 1) j).ni = BitVec.ofNat 64 ni) := by
  obtain ⟨hfmt, hfirst, hvalid⟩ := ctxOf_plain e i j (p.firstAt s.core.tcc i j) true 1 hflow hfresh
  obtain ⟨t, ht, hcells⟩ := beatArrival_steps hp hflow hquad hi hj hline he hin
  obtain ⟨v, hdue, hv, heast, hsouth⟩ : ∃ v, (s.arrivalOut p e i j wi ni).cell.due = some (s.core.tcc + p.s - 1, v) ∧
      signed 16 v.toNat = min (signed 16 (s.kiln.cell i j).absorb.c1.toNat) (satAdd16 (signed 16 wi) (signed 16 ni)) ∧
      (s.arrivalOut p e i j wi ni).east = wi ∧ (s.arrivalOut p e i j wi ni).south = ni :=
    stepCell_minPlus hcode (hfmt ▸ hacc) hfirst hvalid hflow hnull hR hC
  generalize s.arrivalOut p e i j wi ni = o at hcells hdue heast hsouth
  have hsame := drive_cell_same (s.core.eng.kiln.setCell i j o.cell) 64 0 0 i j o true none
  have hdrive := drive_east (s.core.eng.kiln.setCell i j o.cell) 64 0 0 i j o true none
  have hdown := drive_south (s.core.eng.kiln.setCell i j o.cell) 64 0 0 i j o true none
  simp only [Nat.zero_add, ← hcells, setCell_cell_same, heast, hsouth] at hsame hdrive hdown
  exact ⟨t, v, ht, hsame ▸ hdue, hv, fun h => hdrive (Nat.succ_lt_succ h), fun h => hdown (Nat.succ_lt_succ h)⟩

end Arrival

/-! ## The obligation -/

/-- Settles O56: each step by the lemma that says what it does. -/
theorem kilnSteps : Obligations.KilnSteps := by
  unfold Obligations.KilnSteps
  intro s
  refine ⟨fun w hw hd => ?_, fun x hx hc hw hdiff => ?_, fun x n i j ht hc hq hnow hi hj => ?_, fun r hr hst => kringApply_defines hr hst,
    fun z i j hz hst hq hi hj hk => kzeroApply_cell hz hst hq hi hj hk, fun d hd hq => ⟨fun i _ hnow hi => ?_, ?_⟩, fun p post hp hid => ?_⟩
  · refine ⟨_, shadowConfigWrite_applies hw hd, fun f sk c ha => ?_, fun sp lp k0 k1 map ub ha => ?_, fun m a b ha hlen p hp => ?_⟩
    · rw [ha]; rfl
    · rw [ha]; rfl
    · rw [ha]
      exact apply_consts_k0 hlen hp
  · refine ⟨_, switchTokenInject_takes hx hc hw hdiff, rfl, rfl, ?_⟩
    refine ⟨{ x with cfg := some s.core.eng.kiln.cfgs.length }, ?_, rfl, rfl, rfl, rfl⟩
    exact List.mem_map.mpr ⟨x, hx.1, if_pos rfl⟩
  · exact switchTokenArrival_takes ht hc hq hnow hi hj
  · exact drainRow_samples hd hq hnow hi
  · exact fun i row hnow hlo hi hrow hst => drainRow_writes hd hq hnow hlo hi hrow hst
  · refine ⟨fun hst hpos => ?_, fun hret hn => ?_, fun hout hn => ?_, fun b hb hper hlt => ⟨fun hflow hsel _ => ?_, fun hcnd => ?_⟩,
      fun hflow hpre => wsPartialWrite_writes hp hflow hpre, fun hflow => wfOutputWrite_writes hp hflow,
      fun h x hflow htrim hat hone hlt hx => ?_, fun h hflow htrim hat hone hlt hn hstd hz => ?_,
      fun i j b e hflow hsel hcnd hquad hskew hcode hnl hfresh hacc _ hi hj hnow hper hb he hR hC hnull hext => ?_⟩
    · exact ⟨s.started p, passStart_starts hp hid hst hpos, ⟨rfl, rfl, started_c s p⟩, rfl, rfl, rfl, rfl, rfl⟩
    · obtain ⟨t, ht, hrings⟩ := passRetire_rings hp hret
      refine ⟨t, ht, fun r hr hin hlt => ?_⟩
      rw [hrings, moveRings_ring hn _ hr hin hlt]
      exact ⟨rfl, rfl⟩
    · obtain ⟨t, ht, hrings⟩ := outputRingAdvance_rings hp hout
      refine ⟨t, ht, fun r hr hout hlt => ?_⟩
      rw [hrings, moveRings_ring hn _ hr hout hlt]
      rfl
    · obtain ⟨t, ht, hpasses⟩ := streamUnitCheck_reads hp hid hb hper hlt hflow
      exact ⟨t, _, ht, hpasses, edgeBeat_plain hflow hsel⟩
    · obtain ⟨t, q, e, ht, hpasses, hqid, hedges, he, hended⟩ := briquetteRead_reads hp hid hb hper hlt hcnd
      refine ⟨t, q, ht, hpasses, hqid, ?_, ?_, hended⟩
      · rw [hedges, addBeat_length]
      · rw [hedges, addBeat_last, Option.map_some, he]
    · have hexec := triSolutionWrite_forms hp hflow hat hone hlt
      rw [if_neg (by omega)] at hexec
      exact ⟨_, s.triWords p h, hexec, triWords_length, fun hstd hz i hi => ⟨triSolution_t hx hstd hz hi, triWords_getD hstd hz hi⟩,
        triSolution_engWrites hx⟩
    · have hexec := triSolutionWrite_forms hp hflow hat hone hlt
      rw [if_pos (by omega)] at hexec
      exact ⟨_, hexec, triFactor_engWrites h, fun i hi j hj => triFactor_c1 htrim hstd hz hn hi hj⟩
    · have hline := fun col => lineBeat_plain hskew hnow hper hb col
      have hin := fun none2 => beatInputs_plain (i := i) (j := j) none2 (s.kiln.cell i j) hflow hsel hcnd hskew hnl he hext
      have harrival := beatArrival_minPlus hp hflow hquad hcode hfresh hacc hi hj hline he hR hC hnull hin
      rw [absorb_c1] at harrival
      exact harrival

end Sys2Proof.Machine

namespace Sys2Proof.Machine
open Sys2Proof.Manual

/-! PROOF. KLN: kcfg, kflow, ksel and kswitch at issue. -/

/-! ## The descriptor of an engine command (R275 to R278) -/

/-- Local bytes with no copy unit due over them pass the check of COPY_LATE (R355). -/
theorem copyCheck_clear {s : State} {store : Nat} {rs : List (Nat × Nat)} (h : s.core.copyLate (coreDie s.focus) store rs = none) :
    s.copyCheck store rs = .ok () := by
  simp only [State.copyCheck, h]

section Descriptor

variable {s : State} {unit port : Nat} {masks : List Nat} {t : W64} {d : Desc}

section Read

variable (h : Reads s unit port masks t d)
include h

theorem word0Ok_of_reads (hu : 9 ≤ unit) : word0Ok unit port d = true := by
  have htag : fld (dword d 0) 7 0 = port := h.tag ▸ congrArg (· % 2 ^ 8) (Nat.div_one _)
  have hzero : fld (dword d 0) 15 11 = 0 := h.zero
  have htc : (10 ≤ unit && unit != 12 || fld (dword d 0) 10 8 == 0) = true := by
    by_cases hn : unit = 9 ∨ unit = 12
    · have hc : fld (dword d 0) 10 8 = 0 := h.tc hn
      simp [hc]
    · simp
      omega
  simp [word0Ok, htag, hzero, htc]

theorem maskOk_of_reads : maskOk d masks = true :=
  List.all_eq_true.mpr fun k hk => beq_iff_eq.mpr (h.rest k (List.mem_range.mp hk))

/-- A command whose descriptor is legal has its words, and its row booked (R275, R276). -/
theorem readDesc_reads (hu : 9 ≤ unit) : s.readDesc unit port t masks = .ok (s.booked unit 0 0 false [t.toNat], d) := by
  have hin : t.toNat < spSize := h.inside
  have hd : descAt s.core.sp t.toNat = d := h.row.symm
  have hwords : (word0Ok unit port d && maskOk d masks) = true := by rw [word0Ok_of_reads h hu, maskOk_of_reads h]; rfl
  simp only [State.readDesc, hin, h.aligned, h.foot, copyCheck_clear h.copy, book_free h.bank, hd, hwords, decide_true,
    beq_self_eq_true, must_true, ok_bind]
  rfl

/-- START is the 48 bits above the tag, all that a word of 64 bits holds there (R275). -/
theorem descStart_of_reads : descStart d = scStart d := by
  have hw : word d 0 < 256 ^ 8 := by rw [h.row]; exact rdLE_lt _ _ 8
  exact Nat.mod_eq_of_lt (Nat.div_lt_of_lt_mul hw)

end Read

/-! ## The last checks of an engine command (R276 to R278) -/

theorem startTcc_eq (hst : descStart d = scStart d) : s.core.startTcc d = startAt s d := by rw [Core.startTcc, hst, startAt]

theorem leadRule_leads {scc : Nat} (hst : descStart d = scStart d) (h : Leads scc d) : leadRule scc (descStart d) = .ok () := by
  rw [leadRule, hst, if_neg (Nat.not_lt.mpr h.1), if_neg (Nat.not_lt.mpr h.2)]

/-- A command that pins no page passes the last steps of R276 when its lead is enough and its queue has room. -/
theorem commitChecks_enters (hst : descStart d = scStart d) (hpins : PinsFit s []) (hlead : Leads s.core.scc.toNat d) :
    s.commitChecks [] [] (descStart d) true = .ok [] := by
  have hp : s.core.pinRoom [] = true := decide_eq_true hpins
  have hnone : ∀ read write, s.coverRanges read write [] [] = .ok [] := fun _ _ => rfl
  simp only [State.commitChecks, hnone, ok_bind, List.append_nil, hp, leadRule_leads hst hlead, must_true]
  rfl

/-! ## The Kiln takes a command (R132, R278) -/

/-- A command of the Kiln that may enter takes the next number. -/
theorem klnCommit_enters (hst : descStart d = scStart d) (h : Enters s d (KilnRoom s)) :
    s.klnCommit d = .ok (s.onEng fun e => { e with nid := e.nid + 1 }) := by
  have hroom : s.core.klnRoom = true := decide_eq_true h.room
  simp only [State.klnCommit, hroom, commitChecks_enters hst h.pins h.lead, ok_bind]
  rfl

/-- A cycle that no token runs in is free for a write to complete (R132). -/
theorem shadowBusy_of_noToken {n : Nat} (h : NoToken s n) : s.kiln.shadowBusy n = false := by
  refine List.any_eq_false.mpr fun x hx => ?_
  have hfree := h x hx
  simp only [Bool.and_eq_true, decide_eq_true_eq]
  omega

/-- A shadow write that may enter and completes beside no token is taken, complete `lat` cycles after START (R132). -/
theorem enterShadow_enters {lat : Nat} {a : ShadowAct} (hst : descStart d = scStart d) (h : Enters s d (KilnRoom s))
    (hn : NoToken s (startAt s d + lat)) :
    s.enterShadow d lat a = .ok ((s.onEng fun e => { e with nid := e.nid + 1 }).onKiln fun k =>
      { k with writes := k.writes ++ [⟨s.core.eng.nid, startAt s d, startAt s d + lat, a⟩] }) := by
  simp only [State.enterShadow, startTcc_eq hst, shadowBusy_of_noToken hn, Bool.not_false, must_true, klnCommit_enters hst h, ok_bind]
  rfl

end Descriptor

/-! ## Shadow writes and the switch (R279 to R282) -/

section Commands

variable {m : Move} {s : State} {d : Desc} {a : ShadowAct}

/-- A trigger of the Kiln that fires takes its body's effect. -/
theorem klnTrigger_acts {u : State} {body : W64 → Except Exc State} (hf : Fires s .scalar true m) (hb : body (s.operand m) = .ok u) :
    klnTrigger m s body = .next u := scalarFmtTrigger_acts hf hb

/-- With its row booked, a shadow write of the Kiln enters as R132 says. -/
theorem enterShadow_booked {t : W64} {port lat : Nat} {masks : List Nat} (hr : Reads s 9 port masks t d) (he : Enters s d (KilnRoom s))
    (hn : NoToken s (startAt s d + lat)) : (s.booked 9 0 0 false [t.toNat]).enterShadow d lat a = .ok (shadowed s t d lat a) :=
  enterShadow_enters (s := s.booked 9 0 0 false [t.toNat]) (descStart_of_reads hr) ⟨he.pins, he.lead, he.room⟩ hn

/-- Free rows stay free when the slot itself books others: a slot meets no row of its own (R81). -/
theorem banksFree_booked {unit store lat store' lat' : Nat} {write write' : Bool} {offs offs' : List Nat}
    (h : BanksFree s store lat write offs) : BanksFree (s.booked unit store' lat' write' offs') store lat write offs := by
  intro o ho off hoff hbundle hslot
  obtain hold | hnew := List.mem_append.mp ho
  · exact h o hold off hoff hbundle hslot
  · obtain ⟨b, -, rfl⟩ := List.mem_map.mp hnew
    exact absurd rfl hslot

theorem rdBytes_eq_map (mem : Mem) (off n : Nat) : rdBytes mem off n = (List.range n).map fun i => rdByte mem (off + i) := by
  induction n generalizing off with
  | zero => rfl
  | succ n ih => simp [rdBytes, ih, List.range_succ_eq_map, Nat.add_assoc, Nat.add_comm 1]

/-- The program block that a kcfg loads from an offset of the instruction store (R269). -/
def blockAt (mem : Mem) (off : Nat) : ShadowAct :=
  let b := fun a n => rdLE mem (off + a) n
  let hdr := b 0 8
  .block [bits hdr 3 0, bits hdr 11 8, bits hdr 19 16, bits hdr 27 24]
    [bits hdr 7 4 + 1, bits hdr 15 12 + 1, bits hdr 23 20 + 1, bits hdr 31 28 + 1]
    [b 8 8, b 24 8, b 40 8, b 56 8] [b 16 8, b 32 8, b 48 8, b 64 8] (bits hdr 33 32) ((List.range 16).map fun e => b (72 + 6 * e) 6)

/-- kcfg loads its block (R279). -/
theorem kcfg_acts (hf : Fires s .scalar true m) (he : Enters s d (KilnRoom s))
    (hr : Reads s 9 8 [2 ^ 18 - 1, 0, 0, 0, 0, 0, 0] (s.operand m) d) (ha : dword d 1 % 16 = 0) (hle : dword d 1 ≤ 262144 - 176)
    (hn : NoToken s (startAt s d + 16)) (hok : blockBad (rdLE s.core.imem (dword d 1 + 0) 8)
      ((List.range 16).map fun e => rdLE s.core.imem (dword d 1 + (72 + 6 * e)) 6) (rdLE s.core.imem (dword d 1 + 168) 8) = false) :
    execKcfg m s = .next (shadowed s (s.operand m) d 16 (blockAt s.core.imem (dword d 1))) := by
  refine klnTrigger_acts hf ?_
  rw [readDesc_reads hr (by decide), ok_bind]
  simp only [ha, hle, hok, beq_self_eq_true, decide_true, Bool.and_self, Bool.not_false, must_true, ok_bind]
  exact enterShadow_booked hr he hn

section Flow

variable (hf : Fires s .scalar true m) (he : Enters s d (KilnRoom s))
  (hr : Reads s 9 9 [0xFFFFFF0FFF, 0, 0, 0, 0, 0, 0] (s.operand m) d) (hflow : fld (dword d 1) 3 0 ≤ 4) (hn : NoToken s (startAt s d + 4))
include hf he hr hflow hn

/-- kflow without a table of skews sets the flow and the common skew constant (R280). -/
theorem kflow_plain (hskt : bit (dword d 1) 4 = false) (hc : fld (dword d 1) 11 5 ≤ 64) (hoff : fld (dword d 1) 39 16 = 0) :
    execKflow m s = .next (shadowed s (s.operand m) d 4 (.flow (fld (dword d 1) 3 0) none (fld (dword d 1) 11 5))) := by
  refine klnTrigger_acts hf ?_
  rw [readDesc_reads hr (by decide), ok_bind]
  simp only [hskt, hc, hoff, hflow, Bool.not_false, Bool.true_or, Bool.false_and, Bool.false_or, beq_self_eq_true, decide_true,
    Nat.zero_mod, Bool.and_self, must_true, ok_bind, Bool.false_eq_true, if_false]
  exact enterShadow_booked hr he hn

/-- kflow with a table of skews reads the two rows of the table in the issue cycle (R280). -/
theorem kflow_table {off : Nat} (hskt : bit (dword d 1) 4 = true) (hc : fld (dword d 1) 11 5 = 0) (hoff : fld (dword d 1) 39 16 = off)
    (hal : off % 64 = 0) (hfoot : s.core.task.spOk off 128 = true) (hcopy : s.core.copyLate (coreDie s.focus) 0 [(off, 128)] = none)
    (hbank : BanksFree s 0 0 false [off, off + 64])
    (htable : ((List.range 128).map fun i => (rdByte s.core.sp (off + i)).toNat).all (· < 128) = true) :
    execKflow m s = .next ((shadowed s (s.operand m) d 4 (.flow (fld (dword d 1) 3 0)
      (some ((List.range 128).map fun i => (rdByte s.core.sp (off + i)).toNat)) 0)).booked 9 0 0 false [off, off + 64]) := by
  have hbytes : (rdBytes s.core.sp off 128).map BitVec.toNat = (List.range 128).map fun i => (rdByte s.core.sp (off + i)).toNat := by
    rw [rdBytes_eq_map, List.map_map]; rfl
  have hcheck : (s.booked 9 0 0 false [(s.operand m).toNat]).copyCheck 0 [(off, 128)] = .ok () := copyCheck_clear hcopy
  have henter := enterShadow_enters (s := (s.booked 9 0 0 false [(s.operand m).toNat]).booked 9 0 0 false [off, off + 64])
    (a := .flow (fld (dword d 1) 3 0) (some ((List.range 128).map fun i => (rdByte s.core.sp (off + i)).toNat)) 0)
    (descStart_of_reads hr) ⟨he.pins, he.lead, he.room⟩ hn
  refine klnTrigger_acts hf ?_
  rw [readDesc_reads hr (by decide), ok_bind]
  simp only [hskt, hc, hoff, hal, hfoot, hflow, hcheck, book_free (banksFree_booked hbank), hbytes, htable, Bool.not_true, Bool.false_or,
    bne_self_eq_false, Bool.and_false, Bool.not_false, Bool.true_or, beq_self_eq_true, Nat.zero_le, decide_true, Bool.and_self,
    must_true, ok_bind, if_true]
  exact henter

end Flow

/-- ksel sets the constants that its mask selects (R281). -/
theorem ksel_acts (hf : Fires s .scalar true m) (he : Enters s d (KilnRoom s))
    (hr : Reads s 9 14 [15, 2 ^ 64 - 1, 2 ^ 64 - 1, 0, 0, 0, 0] (s.operand m) d) (hmask : dword d 1 ≠ 0) (hn : NoToken s (startAt s d + 4)) :
    execKsel m s = .next (shadowed s (s.operand m) d 4 (.consts (dword d 1) (dword d 2) (dword d 3))) := by
  refine klnTrigger_acts hf ?_
  rw [readDesc_reads hr (by decide), ok_bind]
  simp only [bne_iff_ne.mpr hmask, must_true, ok_bind]
  exact enterShadow_booked hr he hn

/-! ## kswitch (R130, R132, R282) -/

/-- The quadrant that a kswitch names, or none for the whole array. -/
def switchQuad (d : Desc) : Option Nat := if bit (dword d 1) 2 then some (fld (dword d 1) 1 0) else none

/-- A quadrant is legal where the array runs split and will run split, and no quadrant is where the fields for one are 0 (R282). -/
theorem switchQuad_legal {now next : KCfg} {quad : Option Nat}
    (h : bits (dword d 1) 2 2 = 0 ∧ bits (dword d 1) 1 0 = 0 ∧ quad = none ∨
      bits (dword d 1) 2 2 = 1 ∧ quad = some (bits (dword d 1) 1 0) ∧ now.flow = 4 ∧ next.flow = 4) :
    switchQuad d = quad ∧ quadBad (bit (dword d 1) 2) (fld (dword d 1) 1 0) (now.flow == 4 && next.flow == 4) = false := by
  obtain ⟨hqen, hzero, rfl⟩ | ⟨hqen, rfl, hnow, hnext⟩ := h
  · have hbit : bit (dword d 1) 2 = false := by rw [bit_eq_bits, hqen]; rfl
    have hfld : fld (dword d 1) 1 0 = 0 := hzero
    simp [switchQuad, quadBad, hbit, hfld]
  · have hbit : bit (dword d 1) 2 = true := by rw [bit_eq_bits, hqen]; rfl
    simp [switchQuad, quadBad, hbit, hnow, hnext, bits, fld]

/-- A kswitch waits for no write when only those of constants complete after its START (R132). -/
theorem noLoad_of_consts {k : Kiln} {st : Nat} (h : ∀ x ∈ k.writes, st < x.done → ∃ c a b, x.act = .consts c a b) :
    (k.writes.any fun x => st < x.done && x.act.isLoad) = false := by
  refine List.any_eq_false.mpr fun x hx => ?_
  by_cases hlt : st < x.done
  · obtain ⟨c, a, b, hact⟩ := h x hx hlt
    simp [hact, ShadowAct.isLoad]
  · simp [hlt]

/-- A kswitch keeps the split of the array as it is, or meets no pass that runs at its START (R132). -/
theorem flowFree_of_kept {now next : KCfg} {k : Kiln} {st : Nat}
    (h : (now.flow = 4 ↔ next.flow = 4) ∨ ∀ p ∈ k.passes, p.start < st → p.retire ≤ st) :
    (((now.flow == 4) != (next.flow == 4)) && k.passes.any fun p => p.start < st && st < p.retire) = false := by
  obtain hsame | hpass := h
  · have heq : (now.flow == 4) = (next.flow == 4) := by rw [Bool.eq_iff_iff]; simpa using hsame
    simp [heq]
  · have hidle : (k.passes.any fun p => p.start < st && st < p.retire) = false :=
      List.any_eq_false.mpr fun p hp => by simpa using hpass p hp
    simp [hidle]

/-- kswitch injects its token at START when its quadrant is legal, no load of the shadow is on its way, and no pass runs across
a change to or from the split flow. -/
theorem kswitch_acts (hf : Fires s .scalar true m) (he : Enters s d (KilnRoom s))
    (hr : Reads s 9 10 [7, 0, 0, 0, 0, 0, 0] (s.operand m) d)
    (hquad : quadBad (bit (dword d 1) 2) (fld (dword d 1) 1 0)
      ((s.kiln.activeAt (switchQuad d) (startAt s d)).flow == 4 && (s.kiln.shadowAt (startAt s d)).flow == 4) = false)
    (hload : (s.kiln.writes.any fun x => startAt s d < x.done && x.act.isLoad) = false)
    (hbusy : (((s.kiln.activeAt (switchQuad d) (startAt s d)).flow == 4) != ((s.kiln.shadowAt (startAt s d)).flow == 4) &&
      s.kiln.passes.any fun p => p.start < startAt s d && startAt s d < p.retire) = false) :
    execKswitch m s = .next (commanded s 9 (s.operand m) fun e => { e with kiln := { e.kiln with
      tokens := e.kiln.tokens ++ [⟨s.core.eng.nid, startAt s d, switchQuad d, none⟩] } }) := by
  have hcommit := klnCommit_enters (s := s.booked 9 0 0 false [(s.operand m).toNat]) (descStart_of_reads hr) ⟨he.pins, he.lead, he.room⟩
  refine klnTrigger_acts hf ?_
  rw [readDesc_reads hr (by decide), ok_bind]
  simp only [switchQuad] at hquad hbusy
  simp only [startTcc_eq (descStart_of_reads hr), hquad, hload, hbusy, hcommit, Bool.not_false, must_true, ok_bind]
  rfl

end Commands

/-! ## The obligation -/

/-- Settles O34: the block of a kcfg, the two forms of kflow, the constants of ksel, and the token of kswitch. -/
theorem kilnConfiguration : Obligations.KilnConfiguration := by
  unfold Obligations.KilnConfiguration
  intro m s d hf t w k st he
  refine ⟨fun hr ha hle hn hok => kcfg_acts hf he hr ha hle hn hok,
    fun hr hflow hn => ⟨fun hskt hc hoff => ?plain, fun off table hskt hc hoff hal hfoot hcopy hbank htable hlt => ?table⟩,
    fun hr hmask hn => ksel_acts hf he hr hmask hn, fun quad hr hquad hload hbusy => ?switch⟩
  case plain =>
    have hbit : bit (dword d 1) 4 = false := (bit_eq_bits _ _).trans (decide_eq_false (hskt.trans_ne Nat.zero_ne_one))
    exact kflow_plain hf he hr hflow hn hbit hc hoff
  case table =>
    have hbit : bit (dword d 1) 4 = true := (bit_eq_bits _ _).trans (decide_eq_true hskt)
    subst htable
    exact kflow_table hf he hr hflow hn hbit hc hoff.symm hal hfoot hcopy hbank (by simpa using hlt)
  case switch =>
    obtain ⟨rfl, hlegal⟩ := switchQuad_legal hquad
    exact kswitch_acts hf he hr hlegal (noLoad_of_consts hload) (flowFree_of_kept hbusy)

end Sys2Proof.Machine

namespace Sys2Proof.Machine
open Sys2Proof.Manual

/-! PROOF. An epatch from the instruction store: the command ends before its entries are read, checked or queued (R145, R303). -/

/-- A trigger of EMB that fires takes its body's effect. -/
theorem embTrigger_acts {m : Move} {s u : State} {body : W64 → Except Exc State} (hf : Fires s .scalar false m)
    (hb : body (s.operand m) = .ok u) : embTrigger m s body = .next u := scalarTrigger_acts hf hb

/-- An epatch that names the instruction store leaves its descriptor's row booked and nothing else. The branch of SPACE = 1 returns from
the whole command, so no step after the address checks is reached: neither the check of the entries, nor EMB_ORDER, nor EMB_OVERRUN, nor
the entry in the queue. -/
theorem epatch_imem_leaves {m : Move} {s : State} {d : Desc} (hf : Fires s .scalar false m)
    (hr : Reads s 12 8 [0xFFFFFF01FFFF, 0, 0, 0, 0, 0, 0] (s.operand m) d) (hspace : bit (dword d 1) 16 = true)
    (hfit : fld (dword d 1) 7 0 + (fld (dword d 1) 15 8 + 1) ≤ 256) (hal : fld (dword d 1) 47 24 % 8 = 0)
    (hin : fld (dword d 1) 47 24 + 8 * (fld (dword d 1) 15 8 + 1) ≤ imemSize) :
    execEpatch m s = .next (s.booked 12 0 0 false [(s.operand m).toNat]) := by
  refine embTrigger_acts hf ?_
  rw [readDesc_reads hr (by decide), ok_bind]
  simp only [hfit, hspace, hal, hin, beq_self_eq_true, decide_true, must_true, ok_bind, if_true]
  rfl

/-! ## The counterexample to O40 -/

/-- An epatch of the entry at offset 0 of the instruction store to cell 0, with START at the earliest cycle (R275, R277, R303). -/
def imemPatch : List Nat := [16 * 2 ^ 16 + 8, 2 ^ 16, 0, 0, 0, 0, 0, 0]

/-- The move of the trigger: the descriptor lies at offset 0 of the scratchpad. -/
def imemPatchMove : Move := ⟨.always, .imm 0⟩

/-- A core in cycle 0 with the descriptor in its footprint, an instruction store of zeros, and an idle Ember field. -/
def imemPatchState : State :=
  { State.reset with core := { Core.zero with
      task := { Task.none with spUnits := 1 }
      sp := wrLE (wrLE [] 0 8 (16 * 2 ^ 16 + 8)) 8 8 (2 ^ 16) } }

theorem imemPatch_fires : Fires imemPatchState .scalar false imemPatchMove := ⟨rfl, rfl, by decide +kernel⟩

theorem imemPatch_reads :
    Reads imemPatchState 12 8 [0xFFFFFF01FFFF, 0, 0, 0, 0, 0, 0] (imemPatchState.operand imemPatchMove) imemPatch where
  inside := by decide +kernel
  aligned := by decide +kernel
  foot := by decide +kernel
  copy := by decide +kernel
  bank := fun o ho => (List.not_mem_nil (a := o) ho).elim
  row := by decide +kernel
  tag := by decide +kernel
  zero := by decide +kernel
  tc := by decide +kernel
  rest := by decide +kernel

theorem imemPatch_enters : Enters imemPatchState imemPatch (EmberRoom imemPatchState) where
  pins := by unfold PinsFit; decide +kernel
  lead := by unfold Leads; decide +kernel
  room := by unfold EmberRoom; decide +kernel

/-- The command takes no number, so it is in no queue. -/
theorem imemPatch_leaves : exec (.epatch imemPatchMove) imemPatchState = .next (imemPatchState.booked 12 0 0 false [0]) :=
  epatch_imem_leaves imemPatch_fires imemPatch_reads (by decide) (by decide) (by decide) (by decide)

/-- Refutes O40: an epatch from the instruction store with one legal entry, EMBFLT.V clear, enough lead and room in the queue never
enters it, where the statement asks for its patch in the queue under the next number. -/
theorem not_emberCommands : ¬ Obligations.EmberCommands := by
  unfold Obligations.EmberCommands
  intro h
  obtain ⟨hpatch, -⟩ := h imemPatchMove imemPatchState imemPatch imemPatch_fires
  have hentry : patchBad imemPatchState.core.eng.ember.plan [(0, 0)] = none := by decide +kernel
  obtain ⟨himem, -⟩ := hpatch [(0, 0)] imemPatch_reads (by decide) (by decide) hentry (by decide +kernel)
  obtain ⟨hclear, -⟩ := himem (by decide) (by decide) (by decide +kernel)
  have hstate := Host.Outcome.next.inj (imemPatch_leaves.symm.trans (hclear (by decide +kernel) imemPatch_enters))
  have hnumber := congrArg (fun u : State => u.core.eng.nid) hstate
  exact Nat.ne_of_lt (Nat.lt_succ_self _) hnumber

end Sys2Proof.Machine

namespace Sys2Proof.Laws.SlotBack

/-! PROOF. The opcode map leads back from every place (R183 to R193). -/

/-- Every instruction's place names it again: one lemma for each constructor, in their order. -/
theorem statement_all (i : Instr) : Statement i :=
  @Instr.casesOn Statement i bundleIssue nullifiedPosition breakpointHit loopPassBoundary waitEnd ringTailWrite embfltClear ecauseRearm
    resultLand segmentWalk opportunisticWrite fencePerform globalAccessPerform raceException replicatedStoreCommit pushStoreArrival
    barrierComplete lateItem holdEnd relock relockEnd instructionRefetch coreStop contextResume passStart beatArrival streamUnitCheck
    briquetteRead passRetire outputRingAdvance wsPartialWrite wfOutputWrite shadowConfigWrite switchTokenInject switchTokenArrival drainRow
    kzeroApply kringApply followOnIssue copyUnitRequest copyUnitWritten spsDue windowBindingSwitch emberCommandStart domainStep esaveRow
    erestApply fabSend fabComplete inboundRemoteRequest remoteFlagRaise remoteReply fbarArrival heldWritesApply tileSplit tilePartStart
    tileClaim tilePartComplete tileComplete translationWalk launchRetire schedulerStep launchDispatch preemptVictims qtailWrite qctlWrite
    queueReset abort hostRegisterWrite hostBar2Write hostBar2Read invalidationEntry invalidationDone debugHalt debugResume debugStep
    traceOpen traceDrain traceClose flueGo linkTrained groupFormed planeLoss flitReplay routeRecompute timestampFlit endpointUp endpointDown
    announcementReceived neighbourLost flueReset coldPackageReset functionLevelReset computeReset dieReset coreReset firmwareBoot
    recoveryLoad dieManagerReady dieManagerTimeout attestationRequest pstateWrite gateRequest islandGated islandWake wakeComplete
    throttleStep thermalTrip pcapWrite retmapWrite correctedError uncorrectableError patrolScrub securityAlarm alarmRelease transitForward
    triSolutionWrite spsCommandStart sequencerCommandIssue elementUnitStep alarmSensorClear port0Discard operandPortMove nregWrite mov add
    sub and or xor andn shl shr sar rotl min max minu maxu seteq setne setlt setltu setle setleu sel clz popc sext zext bfx bfi addw subw
    adds subs adds16 lea mul mulhs mulhu mulw madd div divu rem remu fadd fsub fmul ffma fmin fmax fminnum fmaxnum fabs fneg fdiv fsqrt
    fcmpeq fcmplt fcmple cvtif cvtfi cvtfb cvtbf fclass ld8 ld8s ld16 ld16s ld32 ld32s ld64 st8 st16 st32 st64 amoadd amomin amomax amominu
    amomaxu amoand amoor amoxor amoswap amocas amofadd amofmax amofmin amoadd64 amoswap64 amocas64 redadd redmin redmax redminu redmaxu
    redand redor redxor redfadd redfmax redfmin redadd64 wge wne tgt peq pne plt pltu ple pleu pnot pand por pdup ppop jmp jt jf jtn jfn
    call ret loop lstages lcnt lstart lend vany vall rdps wrps vmov vadd vsub vmul vmin vmax vminu vmaxu vand vor vxor vshl vshr vsar
    vadds16 vmin16 vmax16 vfadd vfsub vfmul vffma vfmin vfmax vfexp2 vflog2 vfrcp vfrsqrt vcvtf vcvti vpack vunpack vcmpeq vcmplt vcmple
    vfcmpeq vfcmplt vfcmple vsel vperm vbcast vextr vins vredadd vredmin vredmax vfredadd vfredmax vscan vmand vmor vmnot vmpopc vld vst
    vldx vstx vldr vstr vlda vsta vacc vld8 kcfg kflow kswitch kstart kdrain kzero ksel kring kpop cpy cpyt cpyf cfetch cwp creset sopen
    sisect sisectc smerge sdiff sread swbind swfree epatch eload erd esave erest estep eclk einc ecnt frd fwr fwrrel fatom fmcred fmcst fgrp
    fbar fstat nop fmt csrr csrw fence bar trap halt cond segend tissue tstat tsc mark

end Sys2Proof.Laws.SlotBack

namespace Sys2Proof

/-! PROOF. Decoding is the inverse of encoding: the layout of a slot word, a raw slot, and the opcode map. -/

/-! ## The layout of a slot word (R169) -/

/-- The number that two bit strings make one after another. -/
theorem toNat_append_add {n k : Nat} (x : BitVec n) (y : BitVec k) : (x ++ y).toNat = 2 ^ k * x.toNat + y.toNat := by
  rw [BitVec.toNat_append, ← Nat.shiftLeft_add_eq_or_of_lt y.isLt, Nat.shiftLeft_eq, Nat.mul_comm]

/-- A word is the fields of R169 one after another exactly when each field reads back. -/
theorem slotWord_eq_iff (w : BitVec 32) (g : BitVec 2) (u : BitVec 4) (p : BitVec 6) (l : BitVec 2) (x : BitVec 18) :
    w = g ++ u ++ p ++ l ++ x ↔ slotGuard w = g ∧ slotUnit w = u ∧ slotPort w = p ∧ slotLevel w = l ∧ slotPayload w = x := by
  have hw : (g ++ u ++ p ++ l ++ x : BitVec 32).toNat =
      2 ^ 18 * (2 ^ 2 * (2 ^ 6 * (2 ^ 4 * g.toNat + u.toNat) + p.toNat) + l.toNat) + x.toNat := by
    simp only [toNat_append_add]
  simp only [BitVec.toNat_eq, hw, slotGuard, slotUnit, slotPort, slotLevel, slotPayload, BitVec.extractLsb'_toNat,
    Nat.shiftRight_eq_div_pow]
  omega

/-! ## Sources, guards and extensions (R170 to R172, R177) -/

/-- A word is a number of n bits when the bits above them are zero (R171, R177). -/
theorem eq_setWidth_iff_low {n k : Nat} (p : BitVec (n + k)) (x : BitVec n) :
    p = x.setWidth (n + k) ↔ p.extractLsb' n k = 0 ∧ p.extractLsb' 0 n = x := by
  have hp : p.toNat < 2 ^ n * 2 ^ k := (Nat.pow_add 2 n k) ▸ p.isLt
  have hx : x.toNat % 2 ^ (n + k) = x.toNat := Nat.mod_eq_of_lt (x.isLt.trans_le (Nat.pow_le_pow_right (by decide) (by omega)))
  have hd : p.toNat / 2 ^ n % 2 ^ k = p.toNat / 2 ^ n := Nat.mod_eq_of_lt (Nat.div_lt_of_lt_mul hp)
  simp only [BitVec.toNat_eq, BitVec.toNat_setWidth, hx, BitVec.extractLsb'_toNat, Nat.shiftRight_eq_div_pow, hd, BitVec.ofNat_eq_ofNat,
    BitVec.toNat_ofNat, Nat.zero_mod, Nat.pow_zero, Nat.div_one, Nat.div_eq_zero_iff_lt (Nat.two_pow_pos n)]
  constructor
  · intro hpx
    rw [hpx]
    exact ⟨x.isLt, Nat.mod_eq_of_lt x.isLt⟩
  · rintro ⟨hlt, hmod⟩
    rwa [Nat.mod_eq_of_lt hlt] at hmod

/-- The low bits of an immediate are its payload (R172). -/
theorem immOf_low (hdr : Bool) (ext : BitVec 7) (p : BitVec 18) : (immOf hdr ext p).setWidth 18 = p := by
  cases hdr
  · show (p.signExtend 25).setWidth 18 = p
    ext i hi
    simp [BitVec.getElem_signExtend, hi, show i < 25 by omega]
  · exact BitVec.setWidth_append_eq_right

theorem ite_ok_eq_ok_iff {α β : Type} {c : Prop} [Decidable c] {a b : α} {e : β} :
    (if c then Except.ok a else Except.error e) = Except.ok b ↔ c ∧ a = b := by
  split <;> simp [*]

/-- A source reads back from its level and payload, and an immediate with what R172 puts above the payload. -/
theorem srcOf_eq_ok_iff (hdr : Bool) (ext : BitVec 7) (l : BitVec 2) (p : BitVec 18) (src : Src) :
    srcOf hdr ext l p = .ok src ↔ l = levelBits src ∧ p = payloadBits src ∧ ∀ v, src = .imm v → immOf hdr ext p = v := by
  obtain rfl | rfl | rfl | rfl : l = 0 ∨ l = 1 ∨ l = 2 ∨ l = 3 := by bv_omega
  case inl | inr.inl | inr.inr.inl =>
    cases src <;>
      simp [srcOf, levelBits, payloadBits, ite_ok_eq_ok_iff, eq_setWidth_iff_low (n := 4) (k := 14), eq_setWidth_iff_low (n := 8) (k := 10)]
  case inr.inr.inr =>
    cases src
    case imm v =>
      have hlow : immOf hdr ext p = v → p = v.setWidth 18 := fun h => h ▸ (immOf_low hdr ext p).symm
      simpa [srcOf, levelBits, payloadBits] using hlow
    case latch | queue | named => simp [srcOf, levelBits]

/-- A guard reads back from its bits, and a stage from the extension (R170). -/
theorem guardOf_eq_iff (g : BitVec 2) (isImm : Bool) (ext : BitVec 7) (gd : Guard) :
    guardOf g isImm ext = gd ↔ g = guardBits gd ∧ ∀ k, gd = .stage k → k = if isImm then 0 else ext.extractLsb' 0 3 := by
  obtain rfl | rfl | rfl | rfl : g = 0 ∨ g = 1 ∨ g = 2 ∨ g = 3 := by bv_omega
  all_goals cases gd <;> simp [guardOf, guardBits, eq_comm]

/-- What stands beside a slot word: under a header the slot's extension; without one nothing, so an immediate has 18 signed bits and a
stage is s0 (R170, R172, R177). -/
def Beside (hdr : Bool) (ext : BitVec 7) (m : Move) : Prop :=
  if hdr then ext = extBits m
  else (∀ v, m.src = .imm v → (v.setWidth 18).signExtend 25 = v) ∧ ∀ k, m.guard = .stage k → k = 0

/-- The extension of an immediate holds its upper bits (R172, R177). -/
theorem append_eq_iff_high (ext : BitVec 7) (v : BitVec 25) : ext ++ v.setWidth 18 = v ↔ ext = v.extractLsb' 18 7 := by
  simp only [BitVec.toNat_eq, toNat_append_add, BitVec.toNat_setWidth, BitVec.extractLsb'_toNat, Nat.shiftRight_eq_div_pow]
  omega

/-- The extension of a slot with a stage guard and no immediate names the stage alone (R177). -/
theorem extBad_stage (ext : BitVec 7) (k : BitVec 3) : extBad 3#2 ext = false ∧ k = ext.extractLsb' 0 3 ↔ ext = k.setWidth 7 := by
  rw [eq_setWidth_iff_low (n := 3) (k := 4), eq_comm (a := k)]
  simp [extBad]

/-- The extension of a slot with neither is zero (R177). -/
theorem extBad_plain {g : BitVec 2} (hg : g ≠ 3#2) (ext : BitVec 7) : extBad g ext = false ↔ ext = 0 := by
  rw [show (0 : BitVec 7) = (0 : BitVec 3).setWidth 7 from rfl, eq_setWidth_iff_low (n := 3) (k := 4)]
  simp [extBad, hg]

/-- The checks of an extension and the values read from it say that it is the one the move needs (R172, R177). -/
theorem beside_iff (hdr : Bool) (ext : BitVec 7) (m : Move) :
    (hdr && !(levelBits m.src == 3) && extBad (guardBits m.guard) ext) = false ∧
      (∀ v, m.src = .imm v → immOf hdr ext (payloadBits m.src) = v) ∧
      (∀ k, m.guard = .stage k → k = if levelBits m.src == 3 then 0 else (if hdr then ext else 0).extractLsb' 0 3) ↔
    m.guardOk = true ∧ Beside hdr ext m := by
  obtain ⟨guard, src⟩ := m
  cases src
  case imm v =>
    -- The extension holds the upper bits of the value, so a stage guard has s0.
    have hhigh := append_eq_iff_high ext v
    cases guard <;> cases hdr <;> simp [Beside, Move.guardOk, levelBits, payloadBits, extBits, immOf, hhigh]
    all_goals tauto
  case latch | queue | named =>
    -- The extension holds the stage of a stage guard and nothing else.
    cases guard
    case stage k => cases hdr <;> simp [Beside, Move.guardOk, levelBits, guardBits, extBits, extBad_stage]
    case always | ifTrue | ifFalse => cases hdr <;> simp [Beside, Move.guardOk, levelBits, guardBits, extBits, extBad_plain]

/-! ## A raw slot (R169, R181) -/

/-- A raw move that a slot may hold: its port is defined, its source legal on that port's class, its guard one that stands beside its
source (R171, R173, R177). -/
structure RawMove.Legal (r : RawMove) : Prop where
  port : r.port < 64
  defined : portClass r.unit r.port ≠ .undefined
  source : r.move.src.bad (portClass r.unit r.port) = none
  guard : r.move.guardOk = true

theorem unit_lt_of_defined {u p : Nat} (h : portClass u p ≠ .undefined) : u < 15 := by
  refine Nat.lt_of_not_le fun hu => h ?_
  unfold portClass
  exact if_pos hu

/-- The checks of a raw slot in their order, and what it reads. -/
theorem decodeRaw_checks (hdr : Bool) (ext : BitVec 7) (w : BitVec 32) (r : RawMove) :
    decodeRaw hdr ext w = .ok r ↔
      (slotUnit w).toNat = r.unit ∧ (slotPort w).toNat = r.port ∧ r.unit ≠ 15 ∧ portClass r.unit r.port ≠ .undefined ∧
      (hdr && !(slotLevel w == 3) && extBad (slotGuard w) ext) = false ∧ srcOf hdr ext (slotLevel w) (slotPayload w) = .ok r.move.src ∧
      r.move.src.bad (portClass r.unit r.port) = none ∧
      guardOf (slotGuard w) (slotLevel w == 3) (if hdr then ext else 0) = r.move.guard := by
  obtain ⟨u, p, g, src⟩ := r
  unfold decodeRaw
  dsimp only
  constructor
  · intro h
    split at h
    · cases h
    split at h
    · cases h
    split at h
    · cases h
    next h15 hdef hext =>
    split at h
    · cases h
    next x hsrc =>
    split at h
    · cases h
    next hbad =>
    cases h
    exact ⟨rfl, rfl, h15, hdef, by simpa using hext, hsrc, hbad, rfl⟩
  · rintro ⟨rfl, rfl, h15, hdef, hext, hsrc, hbad, rfl⟩
    rw [if_neg h15, if_neg hdef, if_neg (by simp only [hext]; decide), hsrc]
    simp only [hbad]

/-- A slot decodes to a raw move when it is that move's word with what must stand beside it. -/
theorem decodeRaw_eq_ok_iff (hdr : Bool) (ext : BitVec 7) (w : BitVec 32) (r : RawMove) :
    decodeRaw hdr ext w = .ok r ↔ r.Legal ∧ w = slotWord r.unit r.port r.move ∧ Beside hdr ext r.move := by
  rw [decodeRaw_checks, srcOf_eq_ok_iff, guardOf_eq_iff]
  unfold slotWord
  rw [slotWord_eq_iff]
  constructor
  · rintro ⟨hu, hp, h15, hdef, hext, ⟨hl, hx, himm⟩, hbad, hg, hstage⟩
    rw [hl, hg] at hext
    rw [hx] at himm
    rw [hl] at hstage
    obtain ⟨hok, hbeside⟩ := (beside_iff hdr ext r.move).mp ⟨hext, himm, hstage⟩
    exact ⟨⟨hp ▸ (slotPort w).isLt, hdef, hbad, hok⟩, ⟨hg, by simp [← hu], by simp [← hp], hl, hx⟩, hbeside⟩
  · rintro ⟨⟨hp, hdef, hbad, hok⟩, ⟨hg, hu, hport, hl, hx⟩, hbeside⟩
    obtain ⟨hext, himm, hstage⟩ := (beside_iff hdr ext r.move).mpr ⟨hok, hbeside⟩
    have hlt := unit_lt_of_defined hdef
    rw [hg, hu, hport, hl, hx]
    refine ⟨?_, ?_, by omega, hdef, hext, ⟨rfl, rfl, himm⟩, hbad, rfl, hstage⟩
    · exact Nat.mod_eq_of_lt (hlt.trans (by decide))
    · exact Nat.mod_eq_of_lt hp

/-! ## The opcode map, both ways (R183 to R193) -/

/-- The place of a well-placed slot instruction names it. -/
theorem instr_of_slot {i : Instr} {r : RawMove} (hs : i.slot = some (r.unit, r.port, r.move)) (hp : i.portOk = true) :
    r.instr = some i := by
  have h := Laws.SlotBack.statement_all i
  unfold Laws.SlotBack.Statement at h
  rw [hs] at h
  exact h hp

/-- The triggers of a unit stand at its ports from 8 upward, in order. -/
theorem unitOps_slots (u : Nat) (m : Move) :
    (unitOps u).map (fun f => ((f m).slot, (f m).portOk)) = (List.range (triggerCount u)).map fun j => (some (u, j + 8, m), true) := by
  match u with
  | 0 | 1 | 2 | 3 | 4 | 5 | 6 | 7 | 8 | 9 | 10 | 11 | 12 | 13 | 14 => rfl
  | _ + 15 => rfl

/-- A trigger stands at its own place, and the unit has a port there. -/
theorem trigger_slot {u j : Nat} {f : Move → Instr} (h : (unitOps u)[j]? = some f) (m : Move) :
    j < triggerCount u ∧ (f m).slot = some (u, j + 8, m) ∧ (f m).portOk = true := by
  have hrow := congrArg (·[j]?) (unitOps_slots u m)
  simp only [List.getElem?_map, h, Option.map_some] at hrow
  have hlt : j < triggerCount u := by
    by_contra hge
    rw [List.getElem?_eq_none (by simpa using hge)] at hrow
    cases hrow
  rw [List.getElem?_range hlt] at hrow
  simpa [hlt] using hrow

theorem triggerCount_le (u : Nat) : triggerCount u ≤ 52 := by
  unfold triggerCount
  split <;> decide

/-- Units 8 and 15 and those above have no trigger. -/
theorem unit_lt_of_trigger {u j : Nat} (h : j < triggerCount u) : u < 15 := by
  by_contra hu
  obtain ⟨n, rfl⟩ := Nat.exists_eq_add_of_le' (Nat.not_lt.mp hu)
  cases h

theorem triggerClass_defined (u p : Nat) : triggerClass u p ≠ .undefined := by
  unfold triggerClass
  split_ifs <;> decide

theorem portClass_trigger {u p : Nat} (hu : u < 15) (h8 : u ≠ 8) (hp : 7 < p) :
    portClass u p = if p - 8 < triggerCount u then triggerClass u p else .undefined := by
  simp [portClass, Nat.not_le.mpr hu, h8, Nat.not_le.mpr hp, show p ≠ 0 by omega]

theorem portClass_operand {u p : Nat} (hu : u < 15) (h8 : u ≠ 8) (h0 : p ≠ 0) (hp : p ≤ 7) : portClass u p = operandClass u p := by
  simp [portClass, Nat.not_le.mpr hu, h8, hp, h0]

theorem portClass_nreg (p : Nat) : portClass 8 p = nregClass p := by
  by_cases h : p = 0 <;> simp [portClass, nregClass, h]

theorem portClass_zero {u : Nat} (hu : u < 15) : portClass u 0 = .any := by
  simp [portClass, Nat.not_le.mpr hu]

theorem operandClass_unit {u p : Nat} (h : operandClass u p ≠ .undefined) : u < 15 := by
  by_contra hu
  obtain ⟨n, rfl⟩ := Nat.exists_eq_add_of_le' (Nat.not_lt.mp hu)
  exact h rfl

/-- What stands at a port: a write through NREG, a discard, an operand port move or a trigger (R183, R191). -/
theorem instr_cases {r : RawMove} {i : Instr} (h : r.instr = some i) :
    (r.unit = 8 ∧ i = .nregWrite (BitVec.ofNat 6 r.port) r.move) ∨
    (r.unit ≠ 8 ∧ r.port = 0 ∧ i = .port0Discard (BitVec.ofNat 4 r.unit) r.move) ∨
    (r.unit ≠ 8 ∧ r.port ≠ 0 ∧ r.port ≤ 7 ∧ i = .operandPortMove (BitVec.ofNat 4 r.unit) (BitVec.ofNat 3 r.port) r.move) ∨
    (r.unit ≠ 8 ∧ 7 < r.port ∧ ∃ f, (unitOps r.unit)[r.port - 8]? = some f ∧ i = f r.move) := by
  unfold RawMove.instr at h
  split_ifs at h with h8 h0 h7
  · exact .inl ⟨h8, (Option.some.inj h).symm⟩
  · exact .inr (.inl ⟨h8, h0, (Option.some.inj h).symm⟩)
  · exact .inr (.inr (.inl ⟨h8, h0, h7, (Option.some.inj h).symm⟩))
  · obtain ⟨f, hf, rfl⟩ := Option.map_eq_some_iff.mp h
    exact .inr (.inr (.inr ⟨h8, Nat.not_le.mp h7, f, hf, rfl⟩))

section Placed

variable {u p : Nat} {m : Move}

/-- A write through NREG is placed at a port of six bits (R169, R191). -/
theorem nregWrite_slot_iff :
    (Instr.nregWrite (BitVec.ofNat 6 p) m).slot = some (8, p, m) ∧ (Instr.nregWrite (BitVec.ofNat 6 p) m).portOk = true ↔
      p < 64 ∧ portClass 8 p ≠ .undefined := by
  show some (8, p % 64, m) = some (8, p, m) ∧ (nregClass (p % 64) != .undefined) = true ↔ _
  rw [portClass_nreg]
  by_cases hp : p < 64
  · simp [Nat.mod_eq_of_lt hp, hp]
  · have hne : p % 64 ≠ p := by omega
    simp [hp, hne]

/-- A discard is placed at port 0 of a unit that has ports, NREG apart (R173, R191). -/
theorem port0Discard_slot_iff (h8 : u ≠ 8) :
    (Instr.port0Discard (BitVec.ofNat 4 u) m).slot = some (u, 0, m) ∧ (Instr.port0Discard (BitVec.ofNat 4 u) m).portOk = true ↔
      portClass u 0 ≠ .undefined := by
  show some (u % 16, 0, m) = some (u, 0, m) ∧ (BitVec.ofNat 4 u != 8 && BitVec.ofNat 4 u != 15) = true ↔ _
  by_cases hlt : u < 15
  · have h16 : u % 16 = u := by omega
    simp [portClass_zero hlt, h16, BitVec.toNat_eq, h8, hlt.ne]
  · refine iff_of_false (fun ⟨hs, hok⟩ => ?_) fun h => hlt (unit_lt_of_defined h)
    have h16 : u % 16 = u := (Prod.mk.inj (Option.some.inj hs)).1
    obtain rfl : u = 15 := by omega
    exact absurd hok (by decide)

/-- An operand port move is placed at a defined operand port (R174). -/
theorem operandPortMove_slot_iff (h8 : u ≠ 8) (h0 : p ≠ 0) (h7 : p ≤ 7) :
    (Instr.operandPortMove (BitVec.ofNat 4 u) (BitVec.ofNat 3 p) m).slot = some (u, p, m) ∧
      (Instr.operandPortMove (BitVec.ofNat 4 u) (BitVec.ofNat 3 p) m).portOk = true ↔ portClass u p ≠ .undefined := by
  show some (u % 16, p % 8, m) = some (u, p, m) ∧ (operandClass (u % 16) (p % 8) != .undefined) = true ↔ _
  have hp : p % 8 = p := by omega
  by_cases hlt : u < 15
  · have h16 : u % 16 = u := by omega
    simp [portClass_operand hlt h8 h0 h7, hp, h16]
  · refine iff_of_false (fun h => ?_) fun h => hlt (unit_lt_of_defined h)
    simp only [hp, Option.some.injEq, Prod.mk.injEq, and_true] at h
    exact hlt (operandClass_unit (h.1 ▸ bne_iff_ne.mp h.2))

end Placed

/-- What stands at a port is placed there exactly when a slot can name the port and the port is defined (R169, R173). -/
theorem slot_iff_defined {r : RawMove} {i : Instr} (h : r.instr = some i) :
    i.slot = some (r.unit, r.port, r.move) ∧ i.portOk = true ↔ r.port < 64 ∧ portClass r.unit r.port ≠ .undefined := by
  obtain ⟨u, p, m⟩ := r
  rcases instr_cases h with ⟨hu, rfl⟩ | ⟨hu, hp, rfl⟩ | ⟨hu, h0, h7, rfl⟩ | ⟨hu, hp, f, hf, rfl⟩ <;> dsimp only at *
  case inl =>
    subst hu
    exact nregWrite_slot_iff
  case inr.inl =>
    subst hp
    exact (port0Discard_slot_iff hu).trans (and_iff_right (by decide)).symm
  case inr.inr.inl => exact (operandPortMove_slot_iff hu h0 h7).trans (and_iff_right (by omega)).symm
  case inr.inr.inr =>
    obtain ⟨hlt, hslot, hok⟩ := trigger_slot hf m
    have hcount := triggerCount_le u
    rw [portClass_trigger (unit_lt_of_trigger hlt) hu hp, if_pos hlt]
    refine iff_of_true ⟨?_, hok⟩ ⟨by omega, triggerClass_defined u p⟩
    rw [hslot, Nat.sub_add_cancel hp]

/-- An instruction is well formed and has a slot word when it stands in a legal raw move, and the word is that move's. -/
theorem encode_eq_some_iff (i : Instr) (w : BitVec 32) (e : BitVec 7) :
    i.wellFormed = true ∧ encode i = some (w, e) ↔
      ∃ r : RawMove, r.instr = some i ∧ r.Legal ∧ w = slotWord r.unit r.port r.move ∧ e = extBits r.move := by
  constructor
  · rintro ⟨hwf, henc⟩
    unfold encode at henc
    unfold Instr.wellFormed at hwf
    split at henc
    · cases henc
    next u p m hs =>
    cases henc
    simp only [hs, Bool.and_eq_true, Option.isNone_iff_eq_none] at hwf
    obtain ⟨⟨hp, hbad⟩, hok⟩ := hwf
    have hi := instr_of_slot (r := ⟨u, p, m⟩) hs hp
    obtain ⟨hport, hdef⟩ := (slot_iff_defined hi).mp ⟨hs, hp⟩
    exact ⟨⟨u, p, m⟩, hi, ⟨hport, hdef, hbad, hok⟩, rfl, rfl⟩
  · rintro ⟨r, hi, ⟨hport, hdef, hbad, hok⟩, rfl, rfl⟩
    obtain ⟨hs, hp⟩ := (slot_iff_defined hi).mpr ⟨hport, hdef⟩
    simp [Instr.wellFormed, encode, hs, hp, hbad, hok]

theorem decodeSlot_eq_ok_iff (hdr : Bool) (ext : BitVec 7) (w : BitVec 32) (i : Instr) :
    decodeSlot hdr ext w = .ok i ↔ ∃ r, decodeRaw hdr ext w = .ok r ∧ r.instr = some i := by
  unfold decodeSlot
  cases decodeRaw hdr ext w with
  | error e => simp
  | ok r => cases hi : r.instr <;> simp [hi]

/-- Under a header decoding inverts encoding (R168, R177). -/
theorem decodeSlot_header_iff (i : Instr) (w : BitVec 32) (e : BitVec 7) :
    decodeSlot true e w = .ok i ↔ i.wellFormed = true ∧ encode i = some (w, e) := by
  rw [decodeSlot_eq_ok_iff, encode_eq_some_iff]
  simp only [decodeRaw_eq_ok_iff, Beside, if_true]
  exact exists_congr fun r => and_comm

/-- Without a header a word decodes to the instruction that it is the word of, when that instruction needs nothing beside its word
(R170, R172). -/
theorem decodeSlot_plain_iff (i : Instr) (w : BitVec 32) :
    decodeSlot false 0 w = .ok i ↔
      ∃ r : RawMove, r.instr = some i ∧ r.Legal ∧ w = slotWord r.unit r.port r.move ∧ Beside false 0 r.move := by
  rw [decodeSlot_eq_ok_iff]
  simp only [decodeRaw_eq_ok_iff]
  exact exists_congr fun r => and_comm

/-- Settles O45: a slot decodes to a raw move when it holds that move's word and extension, and the opcode map leads from raw moves to
instructions and back. -/
theorem decodeEncode : Obligations.DecodeEncode := by
  unfold Obligations.DecodeEncode
  refine ⟨fun i w e hwf henc => ⟨(decodeSlot_header_iff i w e).mpr ⟨hwf, henc⟩, fun u p m hslot himm hstage => ?plain⟩,
    fun i w e => ⟨(decodeSlot_header_iff i w e).mp, fun hdec => ?back⟩⟩
  case plain =>
    obtain ⟨r, hi, hlegal, hw, -⟩ := (encode_eq_some_iff i w e).mp ⟨hwf, henc⟩
    obtain ⟨hs, -⟩ := (slot_iff_defined hi).mpr ⟨hlegal.port, hlegal.defined⟩
    cases hs.symm.trans hslot
    exact (decodeSlot_plain_iff i w).mpr ⟨r, hi, hlegal, hw, himm, hstage⟩
  case back =>
    obtain ⟨r, hi, hlegal, hw, -⟩ := (decodeSlot_plain_iff i w).mp hdec
    obtain ⟨hwf, henc⟩ := (encode_eq_some_iff i w (extBits r.move)).mpr ⟨r, hi, hlegal, hw, rfl⟩
    exact ⟨hwf, _, henc⟩

/-! ## Words of the manual (R178, R179) -/

/-- Settles O44: the kernel reads each word. -/
theorem handWordsDecode : Obligations.HandWordsDecode := by
  unfold Obligations.HandWordsDecode
  refine ⟨?_, ?_, ?_, ?_, ?_, ?_, ?_⟩ <;> rfl

end Sys2Proof

namespace Sys2Proof.Machine
open Sys2Proof.Manual

/-! PROOF. The busy windows of the divider and of the long FPS operations (R194). -/

/-- In its window a unit is busy (R194). -/
theorem busyAt_window {c : Core} {last : Nat} (h0 : 0 < last) (h : c.tcc ≤ last) : c.busyAt last = true := by
  simp [Core.busyAt, h0.ne', h]

theorem exec_div (m : Move) (s : State) : exec (.div m) s = divOp m s divS := rfl
theorem exec_divu (m : Move) (s : State) : exec (.divu m) s = divOp m s divU := rfl
theorem exec_rem (m : Move) (s : State) : exec (.rem m) s = divOp m s remS := rfl
theorem exec_remu (m : Move) (s : State) : exec (.remu m) s = divOp m s remU := rfl

section Window

variable {m : Move} {s : State} (hl : m.src.bad .scalar = none) (hg : s.core.guardPass m.guard = true)
include hl hg

/-- A divide in the divider's window stops before it asks for room (R194). -/
theorem divOp_busy {f : W64 → W64 → W64} (hb : s.core.busyAt s.core.mulBusy = true) :
    ∃ t, divOp m s f = .next t ∧ StopsWith s t .unitBusy 0 0 0 :=
  scalarTrigger_stops hl hg (if_pos hb)

/-- fdiv or fsqrt in the unit's window stops before it asks for room (R194). -/
theorem fpsLong_busy {f : W32 → Nat → Nat → FRes} (hb : s.core.busyAt s.core.fpsBusy = true) :
    ∃ t, fpsLong m s f = .next t ∧ StopsWith s t .unitBusy 0 0 0 :=
  ⟨_, slotMove_takes hl hg (if_pos hb), take_fault_stops s .unitBusy 0 0 0 3⟩

theorem divForm_busy {i : Instr} {f : W64 → W64 → W64} (hi : divForm i = some (m, f))
    (hb : s.core.busyAt s.core.mulBusy = true) : ∃ t, exec i s = .next t ∧ StopsWith s t .unitBusy 0 0 0 := by
  unfold divForm at hi
  split at hi <;> cases hi <;> simp only [exec_div, exec_divu, exec_rem, exec_remu] <;> exact divOp_busy hl hg hb

theorem fpsLongForm_busy {i : Instr} {f : W32 → W64 → W64 → W64 × BitVec 7} (hi : fpsLongForm i = some (m, f))
    (hb : s.core.busyAt s.core.fpsBusy = true) : ∃ t, exec i s = .next t ∧ StopsWith s t .unitBusy 0 0 0 := by
  unfold fpsLongForm at hi
  split at hi <;> cases hi <;> simp only [exec_fdiv, exec_fsqrt] <;> exact fpsLong_busy hl hg hb

end Window

/-- Settles O4: each long operation asks for its unit's window first, so it stops there also with 48 results in flight (log 188). -/
theorem longUnitsBusy : Obligations.LongUnitsBusy := by
  unfold Obligations.LongUnitsBusy
  intro i m s hl hg hwindow
  rcases hwindow with ⟨⟨f, hi⟩, hpos, hlast⟩ | ⟨⟨f, hi⟩, hpos, hlast⟩
  · exact divForm_busy hl hg hi (busyAt_window hpos hlast)
  · exact fpsLongForm_busy hl hg hi (busyAt_window hpos hlast)

end Sys2Proof.Machine

namespace Sys2Proof.Machine
open Sys2Proof.Manual

/-! PROOF. Moves to port 0, to operand ports and through NREG (R173, R174, R191). -/

/-- The class of an NREG port in the scalar ranges (R191). -/
theorem nregClass_scalar {p : Nat} (h : 1 ≤ p ∧ p ≤ 31 ∨ 56 ≤ p) : nregClass p = .scalar := by
  unfold nregClass
  grind

/-- The class of an NREG port in the vector range (R191). -/
theorem nregClass_vector {p : Nat} (h : 32 ≤ p ∧ p ≤ 47) : nregClass p = .vector := by
  unfold nregClass
  grind

/-- A move to a scalar operand port latches its value (R174). -/
theorem operandPortMove_scalar {u : BitVec 4} {p : BitVec 3} {m : Move} {s : State} (hc : operandClass u.toNat p.toNat = .scalar)
    (hf : Fires s .scalar false m) :
    exec (.operandPortMove u p m) s = .next (s.onCore fun c =>
      { c with regs := { c.regs with sPort := vset c.regs.sPort (8 * u.toNat + p.toNat) (s.operand m) } }) := by
  show execOperandPortMove u p m s = _
  simp only [execOperandPortMove, hc]
  exact slotMove_acts hf rfl

/-- A move to a vector operand port latches its value (R174). -/
theorem operandPortMove_vector {u : BitVec 4} {p : BitVec 3} {m : Move} {s : State} (hc : operandClass u.toNat p.toNat = .vector)
    (hf : Fires s .vector false m) :
    exec (.operandPortMove u p m) s = .next (s.onCore fun c =>
      { c with regs := { c.regs with vPort := vset c.regs.vPort (vPortIdx u.toNat p.toNat) (s.voperand m) } }) := by
  show execOperandPortMove u p m s = _
  simp only [execOperandPortMove, hc]
  exact slotMove_acts hf rfl

/-- A write of a named scalar through NREG is in flight for one cycle (R191). -/
theorem nregWrite_scalar {p : BitVec 6} {m : Move} {s : State} (hc : nregClass p.toNat = .scalar) (hr : Room s 1)
    (hf : Fires s .scalar false m) : exec (.nregWrite p m) s = .next (s.sent 8 [(1, .reg p (s.operand m), 0)]) := by
  show execNregWrite p m s = _
  simp only [execNregWrite, hc]
  exact slotMove_acts hf (issue1_room (by decide) hr)

/-- A write of a named vector through NREG is in flight for one cycle (R191). -/
theorem nregWrite_vector {p : BitVec 6} {m : Move} {s : State} (hc : nregClass p.toNat = .vector) (hr : Room s 1)
    (hf : Fires s .vector false m) :
    exec (.nregWrite p m) s = .next (s.sent 8 [(1, .vreg (BitVec.ofNat 4 (p.toNat - 32)) (s.voperand m), 0)]) := by
  show execNregWrite p m s = _
  simp only [execNregWrite, hc]
  exact slotMove_acts hf (issue1_room (by decide) hr)

/-- Settles O23: port 0 and n0 only check their move, an operand port takes its value in the slot, NREG puts one result in flight. -/
theorem portMoves : Obligations.PortMoves := by
  unfold Obligations.PortMoves
  refine ⟨fun u m s hf => slotMove_acts hf rfl, fun u p m s => operandPortMove_scalar, fun p m s hf => ⟨?vec, ?vmem⟩,
    fun m s hf => slotMove_acts hf rfl,
    fun p m s hr => ⟨fun hp => nregWrite_scalar (nregClass_scalar hp) hr, fun hp => nregWrite_vector (nregClass_vector hp) hr⟩⟩
  case vec => rintro (rfl | rfl) <;> exact operandPortMove_vector rfl hf
  case vmem => rintro (rfl | rfl) <;> exact operandPortMove_vector rfl hf

end Sys2Proof.Machine

namespace Sys2Proof.Machine

/-! PROOF. Operand-port writes of raw moves whose unit number no slot can hold (R169, R174). -/

/-! ## The counterexample to O47 -/

/-- A move of 1 to operand port 1 of unit 0. -/
def unitZeroMove : RawMove := ⟨0, 1, ⟨.always, .imm 1⟩⟩

/-- A raw move of 2 to port 1 of unit 16. A slot names its unit by four bits, so no word decodes to it; run all the same, it writes the
port of the unit that the low four bits name. -/
def unitSixteenMove : RawMove := ⟨16, 1, ⟨.always, .imm 2⟩⟩

/-- A core that runs, with nothing else in it. -/
def idleRunning : State := { State.reset with core := { Core.zero with mode := .run } }

theorem unitSixteenMove_not_decoded (hdr : Bool) (ext : BitVec 7) (w : BitVec 32) : decodeRaw hdr ext w ≠ .ok unitSixteenMove := fun h =>
  absurd (unit_lt_of_defined ((decodeRaw_eq_ok_iff hdr ext w unitSixteenMove).mp h).1.defined) (by decide)

theorem unitZeroMove_fires : Fires (idleRunning.onCore fun c => { c with slot := 0 }) .scalar false unitZeroMove.move := ⟨rfl, rfl, rfl⟩

theorem unitZeroMove_operand : (idleRunning.onCore fun c => { c with slot := 0 }).operand unitZeroMove.move = 1 := rfl

/-- The second move overwrites the port of the first. -/
theorem portWrites_unit_wraps : (idleRunning.portWrites [(0, unitZeroMove), (1, unitSixteenMove)]).core.port 0 1 = 2 := by decide +kernel

/-- The two moves name different units. -/
theorem unitZeroMove_alone (k : Nat) (r : RawMove) (h : (k, r) ∈ [(0, unitZeroMove), (1, unitSixteenMove)])
    (hu : r.unit = unitZeroMove.unit) : (k, r) = (0, unitZeroMove) := by
  rcases List.mem_pair.mp h with h | h
  · exact h
  · cases h
    cases hu

/-- Refutes O47: its last clause takes any raw moves, and a move to unit 16, which no slot holds, writes the operand port of unit 0 after
the only move that names unit 0. -/
theorem not_bundleActs : ¬ Obligations.BundleActs := by
  unfold Obligations.BundleActs
  rintro ⟨-, -, -, -, hports⟩
  obtain ⟨hscalar, -⟩ := hports idleRunning [(0, unitZeroMove), (1, unitSixteenMove)] 0 unitZeroMove List.mem_cons_self rfl
    (fun k r h hu _ => unitZeroMove_alone k r h hu) (by decide) (by decide) (by decide)
  have hvalue := (hscalar rfl unitZeroMove_fires).trans unitZeroMove_operand
  exact absurd (portWrites_unit_wraps.symm.trans hvalue) (by decide)

end Sys2Proof.Machine

namespace Sys2Proof.Machine
open Sys2Proof.Manual

/-! PROOF. ALU and MUL: the results of their tables in exact integers and single bits (R199 to R202). -/

/-! ## Fields of an operand -/

theorem sh6_eq_sh (t : W64) : sh6 t = sh t := by simp [sh6, sh, BitVec.extractLsb'_toNat]

theorem sh_lt (t : W64) : sh t < 64 := Nat.mod_lt _ (by decide)

theorem fieldWidth_eq (t : W64) : fieldWidth t = t.toNat / 64 % 64 + 1 := by
  simp [fieldWidth, BitVec.extractLsb'_toNat, Nat.shiftRight_eq_div_pow]

/-! ## Sums, shifts and rotations (R199) -/

theorem sub_eq_ofInt {w : Nat} (a t : BitVec w) : a - t = BitVec.ofInt w (a.toInt - t.toInt) :=
  BitVec.eq_of_toInt_eq (by rw [BitVec.toInt_sub, BitVec.toInt_ofInt])

theorem shiftLeft_eq_ofNat {w : Nat} (a : BitVec w) (n : Nat) : a <<< n = BitVec.ofNat w (a.toNat * 2 ^ n) := by
  rw [← Nat.shiftLeft_eq]
  rfl

theorem shl_value (a t : W64) : a <<< sh6 t = BitVec.ofNat 64 (a.toNat * 2 ^ sh t) := by
  rw [sh6_eq_sh, shiftLeft_eq_ofNat]

theorem shr_value (a t : W64) : a >>> sh6 t = BitVec.ofNat 64 (a.toNat / 2 ^ sh t) := by
  rw [sh6_eq_sh, ← Nat.shiftRight_eq_div_pow, ← BitVec.toNat_ushiftRight, BitVec.ofNat_toNat, BitVec.setWidth_eq]

theorem sar_value (a t : W64) : a.sshiftRight (sh6 t) = BitVec.ofInt 64 (a.toInt / 2 ^ sh t) := by
  rw [sh6_eq_sh, BitVec.sshiftRight, Int.shiftRight_eq_div_pow, Nat.cast_pow, Nat.cast_ofNat]

/-- With a count of 0 the right part is shifted out whole. -/
theorem rotl_value (a t : W64) : a.rotateLeft (sh6 t) = if sh t = 0 then a else (a <<< sh t) ||| (a >>> (64 - sh t)) := by
  rw [sh6_eq_sh, BitVec.rotateLeft_def, Nat.mod_eq_of_lt (sh_lt t)]
  split
  case isTrue h => rw [h, BitVec.shiftLeft_zero, Nat.sub_zero, BitVec.ushiftRight_eq_zero le_rfl, BitVec.or_zero]
  case isFalse => rfl

theorem lea_value (a b t : W64) :
    a + (t <<< (b.extractLsb' 0 3).toNat) = BitVec.ofNat 64 (a.toNat + t.toNat * 2 ^ (b.toNat % 8)) := by
  rw [BitVec.extractLsb'_toNat, Nat.shiftRight_zero, shiftLeft_eq_ofNat, BitVec.ofNat_add, BitVec.ofNat_toNat, BitVec.setWidth_eq]

/-! ## Choices and comparisons (R199) -/

section Choice

variable (a b t : W64)

theorem min_value : (if BitVec.slt t a then t else a) = if a.toInt ≤ t.toInt then a else t := by
  simp only [BitVec.slt, decide_eq_true_eq, ← not_lt, ite_not]

theorem minu_value : (if BitVec.ult t a then t else a) = if a.toNat ≤ t.toNat then a else t := by
  simp only [BitVec.ult, decide_eq_true_eq, ← not_lt, ite_not]

/-- Where the keys are equal, so are the operands. -/
theorem ite_lt_eq_ite_le {α β : Type} [LinearOrder β] {φ : α → β} (hφ : Function.Injective φ) (x y : α) :
    (if φ x < φ y then y else x) = if φ x ≤ φ y then y else x := by
  obtain hlt | heq | hgt := lt_trichotomy (φ x) (φ y)
  · rw [if_pos hlt, if_pos hlt.le]
  · rw [hφ heq, ite_self, ite_self]
  · rw [if_neg hgt.not_gt, if_neg hgt.not_ge]

theorem max_value : (if BitVec.slt a t then t else a) = if a.toInt ≤ t.toInt then t else a := by
  simp only [BitVec.slt, decide_eq_true_eq]
  exact ite_lt_eq_ite_le (fun _ _ => BitVec.eq_of_toInt_eq) a t

theorem maxu_value : (if BitVec.ult a t then t else a) = if a.toNat ≤ t.toNat then t else a := by
  simp only [BitVec.ult, decide_eq_true_eq]
  exact ite_lt_eq_ite_le (fun _ _ => BitVec.eq_of_toNat_eq) a t

theorem sel_value : (if t = 0 then b else a) = if t ≠ 0 then a else b := (ite_not ..).symm

end Choice

theorem b64_eq_truth {b : Bool} {p : Prop} [Decidable p] (h : b = true ↔ p) : b64 b = truth p := if_congr h rfl rfl

/-! ## Narrow and saturating results (R67, R199) -/

/-- Sign extension from w bits reads them as signed. -/
theorem signExtend_ofNat (w x : Nat) : (BitVec.ofNat w x).signExtend 64 = BitVec.ofInt 64 (signed w x) :=
  congrArg (BitVec.ofInt 64) (sInt_eq_signed w x)

theorem sextFrom_eq_signExtend (a : W64) {k : Nat} (hk : k < 64) : sextFrom a k = (a.setWidth (k + 1)).signExtend 64 := by
  apply BitVec.eq_of_getLsbD_eq
  intro i hi
  simp only [sextFrom, BitVec.getLsbD_sshiftRight, BitVec.getLsbD_signExtend, BitVec.getLsbD_setWidth, BitVec.getLsbD_shiftLeft,
    BitVec.msb_eq_getLsbD_last]
  by_cases hik : i < k + 1
  case pos => simp [hi, hik, show 63 - k + i < 64 by omega]
  case neg => simp [hi.not_ge, hi, hik, show ¬ 63 - k + i < 64 by omega, show ¬ 63 < 63 - k by omega, show 63 - (63 - k) = k by omega]

theorem sext_value (a t : W64) : sextFrom a (sh6 t) = BitVec.ofInt 64 (signed (sh t + 1) a.toNat) := by
  rw [sh6_eq_sh, sextFrom_eq_signExtend a (sh_lt t), ← signExtend_ofNat, BitVec.ofNat_toNat]

theorem zext_value (a t : W64) : zextFrom a (sh6 t) = BitVec.ofNat 64 (a.toNat % 2 ^ (sh t + 1)) := by
  have hk := sh_lt t
  rw [sh6_eq_sh]
  apply BitVec.eq_of_getLsbD_eq
  intro i hi
  rw [zextFrom, BitVec.getLsbD_ushiftRight, BitVec.getLsbD_shiftLeft, BitVec.getLsbD_ofNat, Nat.testBit_mod_two_pow, BitVec.testBit_toNat,
    Nat.add_sub_cancel_left]
  by_cases hik : i < sh t + 1
  case pos => simp [hi, hik, show 63 - sh t + i < 64 by omega]
  case neg => simp [hi, hik, show ¬ 63 - sh t + i < 64 by omega]

theorem addw_value (a t : W64) :
    sext32 (a.setWidth 32 + t.setWidth 32) = BitVec.ofInt 64 (signed 32 (a.toNat + t.toNat)) := by
  rw [← signExtend_ofNat, BitVec.ofNat_add, BitVec.ofNat_toNat, BitVec.ofNat_toNat]
  rfl

theorem subw_value (a t : W64) :
    sext32 (a.setWidth 32 - t.setWidth 32) = BitVec.ofInt 64 (((a.toNat : Int) - t.toNat).bmod (2 ^ 32)) := by
  refine congrArg (BitVec.ofInt 64) ?_
  rw [BitVec.toInt_sub, BitVec.toInt_setWidth, BitVec.toInt_setWidth, Int.sub_bmod_bmod, Int.bmod_sub_bmod]

theorem clamp64_eq (x : Int) : clamp64 x = BitVec.ofInt 64 (max (-2 ^ 63) (min (2 ^ 63 - 1) x)) := by
  refine congrArg (BitVec.ofInt 64) ?_
  unfold clampInt
  split_ifs <;> omega

theorem adds16_value (a t : W64) : (BitVec.ofNat 16 (satAdd 16 (a.toNat % 65536) (t.toNat % 65536))).signExtend 64 =
    BitVec.ofInt 64 (satAdd16 (signed 16 a.toNat) (signed 16 t.toNat)) :=
  (signExtend_ofNat 16 _).trans (congrArg (BitVec.ofInt 64) (signed_satAdd_sixteen a.toNat t.toNat))

/-! ## Bits of a word (R199, R200) -/

theorem clz64_toNat {t : W64} (h : t ≠ 0) : (clz64 t).toNat = 63 - t.toNat.log2 := by
  rw [clz64, if_neg h, BitVec.toNat_ofNat]
  omega

/-- The bits above the highest set one are clear. -/
theorem getLsbD_above_log2 {w : Nat} {t : BitVec w} {i : Nat} (h : t.toNat.log2 < i) : t.getLsbD i = false :=
  Nat.testBit_lt_two_pow (Nat.lt_of_lt_of_le Nat.lt_log2_self (Nat.pow_le_pow_right (by decide) h))

theorem clz64_counts (t : W64) : (clz64 t).toNat ≤ 64 ∧ (∀ k < (clz64 t).toNat, t.getLsbD (63 - k) = false) ∧
    ((clz64 t).toNat < 64 → t.getLsbD (63 - (clz64 t).toNat) = true) := by
  by_cases h : t = 0
  · subst h
    exact ⟨le_rfl, fun k _ => BitVec.getLsbD_zero, fun hlt => absurd hlt (by decide)⟩
  · have hne : t.toNat ≠ 0 := fun h0 => h (BitVec.eq_of_toNat_eq h0)
    have hlog : t.toNat.log2 < 64 := (Nat.log2_lt hne).mpr t.isLt
    rw [clz64_toNat h, show 63 - (63 - t.toNat.log2) = t.toNat.log2 by omega]
    exact ⟨by omega, fun k hk => getLsbD_above_log2 (by omega), fun _ => Nat.testBit_log2 hne⟩

theorem popcount_eq (x n : Nat) : popcount x n = ((List.range n).filter x.testBit).length := by
  induction n with
  | zero => rfl
  | succ n ih =>
    rw [popcount, ih, List.range_succ, List.filter_append, List.length_append, Nat.add_comm, b2n, bit]
    cases h : x.testBit n <;> simp [h]

theorem popc_value (t : W64) :
    (BitVec.ofNat 64 (popcount t.toNat 64)).toNat = ((List.range 64).filter fun k => t.getLsbD k).length := by
  have hle : ((List.range 64).filter t.toNat.testBit).length ≤ 64 := by
    simpa using List.length_filter_le t.toNat.testBit (List.range 64)
  rw [BitVec.toNat_ofNat, popcount_eq]
  exact Nat.mod_eq_of_lt (by omega)

theorem fieldMask_bit (w : Nat) {i : Nat} (hi : i < 64) : (fieldMask w).getLsbD i = decide (i < w) := by
  rw [fieldMask, BitVec.getLsbD_ofNat, Nat.testBit_two_pow_sub_one, decide_eq_true hi, Bool.true_and]

theorem bfxOf_bit (a t : W64) {i : Nat} (hi : i < 64) :
    (bfxOf a t).getLsbD i = (decide (i < t.toNat / 64 % 64 + 1) && a.getLsbD (sh t + i)) := by
  rw [bfxOf, BitVec.getLsbD_and, fieldMask_bit _ hi, BitVec.getLsbD_ushiftRight, sh6_eq_sh, fieldWidth_eq, Bool.and_comm]

/-- The mask of a field that starts at bit p, the part beyond bit 63 cut off (R200). -/
theorem shifted_fieldMask_bit (w p : Nat) {i : Nat} (hi : i < 64) :
    (fieldMask w <<< p).getLsbD i = decide (p ≤ i ∧ i < p + w) := by
  rw [BitVec.getLsbD_shiftLeft, fieldMask_bit _ (by omega), decide_eq_true hi, Bool.true_and, ← decide_not, ← Bool.decide_and]
  exact decide_eq_decide.mpr (by omega)

theorem bfiOf_bit (a b t : W64) {i : Nat} (hi : i < 64) : (bfiOf a b t).getLsbD i =
    if sh t ≤ i ∧ i < sh t + (t.toNat / 64 % 64 + 1) then b.getLsbD (i - sh t) else a.getLsbD i := by
  simp only [bfiOf, BitVec.getLsbD_or, BitVec.getLsbD_and, BitVec.getLsbD_not, shifted_fieldMask_bit _ _ hi, sh6_eq_sh, fieldWidth_eq]
  split
  case isTrue h =>
    rw [BitVec.getLsbD_shiftLeft]
    simp [h, hi, h.1.not_gt]
  case isFalse h => simp [h, hi]

/-! ## Products (R201) -/

theorem mulw_value (a t : W64) : BitVec.ofInt 64 ((a.setWidth 32).toInt * (t.setWidth 32).toInt) =
    BitVec.ofInt 64 (signed 32 a.toNat * signed 32 t.toNat) := by
  rw [BitVec.toInt_setWidth, BitVec.toInt_setWidth]
  rfl

theorem madd_value (a b t : W64) : a * t + b = BitVec.ofNat 64 (a.toNat * t.toNat + b.toNat) := by
  rw [BitVec.ofNat_add, BitVec.ofNat_toNat, BitVec.setWidth_eq]
  rfl

/-! ## Quotients and remainders (R202) -/

theorem divS_value (a t : W64) : divS a t =
    if t = 0 then BitVec.ofNat 64 (2 ^ 64 - 1)
    else if a.toInt = -2 ^ 63 ∧ t.toInt = -1 then BitVec.ofNat 64 (2 ^ 63)
    else BitVec.ofInt 64 (a.toInt.tdiv t.toInt) := by
  refine if_congr Iff.rfl rfl ?_
  split
  case isTrue h =>
    obtain ⟨ha, ht⟩ := h
    rw [ha, ht]
    rfl
  case isFalse => rfl

theorem remS_value (a t : W64) : remS a t =
    if t = 0 then a
    else if a.toInt = -2 ^ 63 ∧ t.toInt = -1 then 0
    else BitVec.ofInt 64 (a.toInt - a.toInt.tdiv t.toInt * t.toInt) := by
  refine if_congr Iff.rfl rfl ?_
  rw [Int.tmod_def, Int.mul_comm]
  split
  case isTrue h =>
    obtain ⟨ha, ht⟩ := h
    rw [ha, ht]
    rfl
  case isFalse => rfl

theorem remU_value (a t : W64) :
    remU a t = if t = 0 then a else BitVec.ofNat 64 (a.toNat - a.toNat / t.toNat * t.toNat) := by
  rw [remU, Nat.mod_eq_sub_div_mul]

/-! ## The shapes of an operation (R195, R201, R202) -/

section Shapes

variable {m : Move} {s : State} (h : Fires s .scalar false m) (hr : Room s 1)
include h hr

theorem aluOp_acts {u : BitVec 1} {f : W64 → W64 → W64 → W64} {r : W64}
    (hf : f (s.core.port u.toNat 1) (s.core.port u.toNat 2) (s.operand m) = r) :
    aluOp u m s f = .next (s.sentScalar u.toNat 1 r) :=
  hf ▸ scalarTrigger_acts h (result_room (by decide) hr)

theorem mulOp_acts {f : W64 → W64 → W64 → W64} {r : W64} (hf : f (s.core.port 2 1) (s.core.port 2 2) (s.operand m) = r) :
    mulOp m s f = .next (s.sentScalar 2 3 r) :=
  hf ▸ scalarTrigger_acts h (result_room (by decide) hr)

/-- Outside its window the divider takes a divide and is busy for the 32 cycles that follow (R194). -/
theorem divOp_acts {f : W64 → W64 → W64} {r : W64} (hb : s.core.mulBusy = 0 ∨ s.core.mulBusy < s.core.tcc)
    (hf : f (s.core.port 2 1) (s.operand m) = r) :
    divOp m s f = .next ((s.sentScalar 2 34 r).onCore fun c => { c with mulBusy := c.tcc + 32 }) := by
  refine scalarTrigger_acts h ((if_neg (by simp [busyAt_free hb])).trans ?_)
  rw [result_room (by decide) hr, hf]
  rfl

end Shapes

/-! ## The rows of the tables -/

section Rows

variable (u : BitVec 1) (m : Move) (s : State)

theorem exec_mov : exec (.mov u m) s = aluOp u m s fun _ _ t => t := rfl
theorem exec_add : exec (.add u m) s = aluOp u m s fun a _ t => a + t := rfl
theorem exec_sub : exec (.sub u m) s = aluOp u m s fun a _ t => a - t := rfl
theorem exec_and : exec (.and u m) s = aluOp u m s fun a _ t => a &&& t := rfl
theorem exec_or : exec (.or u m) s = aluOp u m s fun a _ t => a ||| t := rfl
theorem exec_xor : exec (.xor u m) s = aluOp u m s fun a _ t => a ^^^ t := rfl
theorem exec_andn : exec (.andn u m) s = aluOp u m s fun a _ t => a &&& ~~~t := rfl
theorem exec_shl : exec (.shl u m) s = aluOp u m s fun a _ t => a <<< sh6 t := rfl
theorem exec_shr : exec (.shr u m) s = aluOp u m s fun a _ t => a >>> sh6 t := rfl
theorem exec_sar : exec (.sar u m) s = aluOp u m s fun a _ t => a.sshiftRight (sh6 t) := rfl
theorem exec_rotl : exec (.rotl u m) s = aluOp u m s fun a _ t => a.rotateLeft (sh6 t) := rfl
theorem exec_min : exec (.min u m) s = aluOp u m s fun a _ t => if BitVec.slt t a then t else a := rfl
theorem exec_max : exec (.max u m) s = aluOp u m s fun a _ t => if BitVec.slt a t then t else a := rfl
theorem exec_minu : exec (.minu u m) s = aluOp u m s fun a _ t => if BitVec.ult t a then t else a := rfl
theorem exec_maxu : exec (.maxu u m) s = aluOp u m s fun a _ t => if BitVec.ult a t then t else a := rfl
theorem exec_seteq : exec (.seteq u m) s = aluOp u m s fun a _ t => b64 (a == t) := rfl
theorem exec_setne : exec (.setne u m) s = aluOp u m s fun a _ t => b64 (a != t) := rfl
theorem exec_setlt : exec (.setlt u m) s = aluOp u m s fun a _ t => b64 (BitVec.slt a t) := rfl
theorem exec_setltu : exec (.setltu u m) s = aluOp u m s fun a _ t => b64 (BitVec.ult a t) := rfl
theorem exec_setle : exec (.setle u m) s = aluOp u m s fun a _ t => b64 (BitVec.sle a t) := rfl
theorem exec_setleu : exec (.setleu u m) s = aluOp u m s fun a _ t => b64 (BitVec.ule a t) := rfl
theorem exec_sel : exec (.sel u m) s = aluOp u m s fun a b t => if t = 0 then b else a := rfl
theorem exec_sext : exec (.sext u m) s = aluOp u m s fun a _ t => sextFrom a (sh6 t) := rfl
theorem exec_zext : exec (.zext u m) s = aluOp u m s fun a _ t => zextFrom a (sh6 t) := rfl
theorem exec_addw : exec (.addw u m) s = aluOp u m s fun a _ t => sext32 (a.setWidth 32 + t.setWidth 32) := rfl
theorem exec_subw : exec (.subw u m) s = aluOp u m s fun a _ t => sext32 (a.setWidth 32 - t.setWidth 32) := rfl
theorem exec_adds : exec (.adds u m) s = aluOp u m s fun a _ t => clamp64 (a.toInt + t.toInt) := rfl
theorem exec_subs : exec (.subs u m) s = aluOp u m s fun a _ t => clamp64 (a.toInt - t.toInt) := rfl
theorem exec_adds16 : exec (.adds16 u m) s =
    aluOp u m s fun a _ t => (BitVec.ofNat 16 (satAdd 16 (a.toNat % 65536) (t.toNat % 65536))).signExtend 64 := rfl
theorem exec_lea : exec (.lea u m) s = aluOp u m s fun a b t => a + (t <<< (b.extractLsb' 0 3).toNat) := rfl
theorem exec_clz : exec (.clz u m) s = aluOp u m s fun _ _ t => clz64 t := rfl
theorem exec_popc : exec (.popc u m) s = aluOp u m s fun _ _ t => BitVec.ofNat 64 (popcount t.toNat 64) := rfl
theorem exec_bfx : exec (.bfx u m) s = aluOp u m s fun a _ t => bfxOf a t := rfl
theorem exec_bfi : exec (.bfi u m) s = aluOp u m s fun a b t => bfiOf a b t := rfl
theorem exec_mul : exec (.mul m) s = mulOp m s fun a _ t => a * t := rfl
theorem exec_mulhs : exec (.mulhs m) s = mulOp m s fun a _ t => BitVec.ofInt 64 (a.toInt * t.toInt / 2 ^ 64) := rfl
theorem exec_mulhu : exec (.mulhu m) s = mulOp m s fun a _ t => BitVec.ofNat 64 (a.toNat * t.toNat / 2 ^ 64) := rfl
theorem exec_mulw : exec (.mulw m) s = mulOp m s fun a _ t => BitVec.ofInt 64 ((a.setWidth 32).toInt * (t.setWidth 32).toInt) := rfl
theorem exec_madd : exec (.madd m) s = mulOp m s fun a b t => a * t + b := rfl

end Rows

theorem aluForm_acts {i : Instr} {u : BitVec 1} {m : Move} {f : W64 → W64 → W64 → W64} {s : State} (hi : aluForm i = some (u, m, f))
    (h : Fires s .scalar false m) (hr : Room s 1) :
    exec i s = .next (s.sentScalar u.toNat 1 (f (s.core.port u.toNat 1) (s.core.port u.toNat 2) (s.operand m))) := by
  unfold aluForm at hi
  split at hi <;> cases hi
  · exact (exec_mov _ _ _).trans (aluOp_acts h hr rfl)
  · exact (exec_add _ _ _).trans (aluOp_acts h hr (BitVec.add_def _ _))
  · exact (exec_sub _ _ _).trans (aluOp_acts h hr (sub_eq_ofInt _ _))
  · exact (exec_and _ _ _).trans (aluOp_acts h hr rfl)
  · exact (exec_or _ _ _).trans (aluOp_acts h hr rfl)
  · exact (exec_xor _ _ _).trans (aluOp_acts h hr rfl)
  · exact (exec_andn _ _ _).trans (aluOp_acts h hr rfl)
  · exact (exec_shl _ _ _).trans (aluOp_acts h hr (shl_value _ _))
  · exact (exec_shr _ _ _).trans (aluOp_acts h hr (shr_value _ _))
  · exact (exec_sar _ _ _).trans (aluOp_acts h hr (sar_value _ _))
  · exact (exec_rotl _ _ _).trans (aluOp_acts h hr (rotl_value _ _))
  · exact (exec_min _ _ _).trans (aluOp_acts h hr (min_value _ _))
  · exact (exec_max _ _ _).trans (aluOp_acts h hr (max_value _ _))
  · exact (exec_minu _ _ _).trans (aluOp_acts h hr (minu_value _ _))
  · exact (exec_maxu _ _ _).trans (aluOp_acts h hr (maxu_value _ _))
  · exact (exec_seteq _ _ _).trans (aluOp_acts h hr (b64_eq_truth beq_iff_eq))
  · exact (exec_setne _ _ _).trans (aluOp_acts h hr (b64_eq_truth bne_iff_ne))
  · exact (exec_setlt _ _ _).trans (aluOp_acts h hr (b64_eq_truth BitVec.slt_iff_toInt_lt))
  · exact (exec_setltu _ _ _).trans (aluOp_acts h hr (b64_eq_truth BitVec.ult_iff_toNat_lt))
  · exact (exec_setle _ _ _).trans (aluOp_acts h hr (b64_eq_truth BitVec.sle_iff_toInt_le))
  · exact (exec_setleu _ _ _).trans (aluOp_acts h hr (b64_eq_truth BitVec.ule_iff_toNat_le))
  · exact (exec_sel _ _ _).trans (aluOp_acts h hr (sel_value _ _ _))
  · exact (exec_sext _ _ _).trans (aluOp_acts h hr (sext_value _ _))
  · exact (exec_zext _ _ _).trans (aluOp_acts h hr (zext_value _ _))
  · exact (exec_addw _ _ _).trans (aluOp_acts h hr (addw_value _ _))
  · exact (exec_subw _ _ _).trans (aluOp_acts h hr (subw_value _ _))
  · exact (exec_adds _ _ _).trans (aluOp_acts h hr (clamp64_eq _))
  · exact (exec_subs _ _ _).trans (aluOp_acts h hr (clamp64_eq _))
  · exact (exec_adds16 _ _ _).trans (aluOp_acts h hr (adds16_value _ _))
  · exact (exec_lea _ _ _).trans (aluOp_acts h hr (lea_value _ _ _))

theorem bitForm_acts {i : Instr} {u : BitVec 1} {m : Move} {p : W64 → W64 → W64 → W64 → Prop} {s : State}
    (hi : bitForm i = some (u, m, p)) (h : Fires s .scalar false m) (hr : Room s 1) :
    ∃ r, p (s.core.port u.toNat 1) (s.core.port u.toNat 2) (s.operand m) r ∧ exec i s = .next (s.sentScalar u.toNat 1 r) := by
  unfold bitForm at hi
  split at hi <;> cases hi
  · exact ⟨_, clz64_counts _, (exec_clz _ _ _).trans (aluOp_acts h hr rfl)⟩
  · exact ⟨_, popc_value _, (exec_popc _ _ _).trans (aluOp_acts h hr rfl)⟩
  · exact ⟨_, fun _ => bfxOf_bit _ _, (exec_bfx _ _ _).trans (aluOp_acts h hr rfl)⟩
  · exact ⟨_, fun _ => bfiOf_bit _ _ _, (exec_bfi _ _ _).trans (aluOp_acts h hr rfl)⟩

theorem mulForm_acts {i : Instr} {m : Move} {f : W64 → W64 → W64 → W64} {s : State} (hi : mulForm i = some (m, f))
    (h : Fires s .scalar false m) (hr : Room s 1) :
    exec i s = .next (s.sentScalar 2 3 (f (s.core.port 2 1) (s.core.port 2 2) (s.operand m))) := by
  unfold mulForm at hi
  split at hi <;> cases hi
  · exact (exec_mul _ _).trans (mulOp_acts h hr rfl)
  · exact (exec_mulhs _ _).trans (mulOp_acts h hr rfl)
  · exact (exec_mulhu _ _).trans (mulOp_acts h hr rfl)
  · exact (exec_mulw _ _).trans (mulOp_acts h hr (mulw_value _ _))
  · exact (exec_madd _ _).trans (mulOp_acts h hr (madd_value _ _ _))

theorem divForm_acts {i : Instr} {m : Move} {f : W64 → W64 → W64} {s : State} (hi : divForm i = some (m, f))
    (h : Fires s .scalar false m) (hr : Room s 1) (hb : s.core.mulBusy = 0 ∨ s.core.mulBusy < s.core.tcc) :
    exec i s = .next ((s.sentScalar 2 34 (f (s.core.port 2 1) (s.operand m))).onCore fun c => { c with mulBusy := c.tcc + 32 }) := by
  unfold divForm at hi
  split at hi <;> cases hi
  · exact (exec_div _ _).trans (divOp_acts h hr hb (divS_value _ _))
  · exact (exec_divu _ _).trans (divOp_acts h hr hb rfl)
  · exact (exec_rem _ _).trans (divOp_acts h hr hb (remS_value _ _))
  · exact (exec_remu _ _).trans (divOp_acts h hr hb (remU_value _ _))

/-- Settles O1: every operation is the one ALU shape, with its table row as its result. -/
theorem aluResults : Obligations.AluResults := by
  unfold Obligations.AluResults
  exact ⟨fun _ _ _ _ _ => aluForm_acts, fun _ _ _ _ _ => bitForm_acts⟩

/-- Settles O2: a multiply asks for no window, a divide finds the divider's window over. -/
theorem mulResults : Obligations.MulResults := by
  unfold Obligations.MulResults
  exact ⟨fun _ _ _ _ => mulForm_acts, fun _ _ _ _ => divForm_acts⟩

end Sys2Proof.Machine

namespace Sys2Proof.Machine
open Sys2Proof.Manual

/-! PROOF. BRU: the predicate stack, the transfers that are taken or not, and the loops (R209 to R224). -/

/-! ## The predicate stack (R211, R212) -/

/-- The effect of a stack operation from its row of R210 to R212: the new stack in the next cycle, or its cause. -/
def State.putStack (s : State) : Except Cause (List Bool) → Except Exc State
  | .ok st => s.setStack st
  | .error c => .error (.of c)

theorem setStack_room {s : State} (hr : Room s 1) (st : List Bool) : s.setStack st = .ok (s.sent 5 [(1, .pstack st, 0)]) :=
  issue1_room (by decide) hr

theorem pushPred_eq_putStack (s : State) (b : Bool) : s.pushPred b = s.putStack (pushed b s.core.pstack) := by
  rw [State.pushPred, pushed]
  by_cases h : s.core.pstack.length < 16
  · rw [if_neg (Nat.not_le.mpr h), if_pos h]
    rfl
  · rw [if_pos (Nat.le_of_not_lt h), if_neg h]
    rfl

/-- wrps builds the stack from its top entry down, the highest of its bits first (R212). -/
theorem stackOf_eq_reverse (t : W64) (d : Nat) : stackOf t.toNat d = ((List.range d).map fun i => t.getLsbD i).reverse := by
  induction d with
  | zero => rfl
  | succ d ih => rw [stackOf, ih, List.range_succ, List.map_append, List.reverse_append]; rfl

/-- The test of wrps is that of R212: a depth up to 16 and no bit above it. -/
theorem wrps_putStack (s : State) (t : W64) :
    (if 16 < fld t.toNat 20 16 ∨ t.toNat / 2 ^ 21 ≠ 0 then .error (.of .pstackBad) else s.setStack (stackOf t.toNat (fld t.toNat 20 16)))
      = s.putStack (stackFrom t) := by
  by_cases h : t.toNat < 2 ^ 21 ∧ t.toNat / 2 ^ 16 ≤ 16
  · have hd : fld t.toNat 20 16 = t.toNat / 2 ^ 16 := by simp only [fld]; omega
    rw [hd, if_neg (by omega), stackFrom, if_pos h, stackOf_eq_reverse]
    rfl
  · have hbad : 16 < fld t.toNat 20 16 ∨ t.toNat / 2 ^ 21 ≠ 0 := by simp only [fld]; omega
    rw [if_pos hbad, stackFrom, if_neg h]
    rfl

theorem scalarTrigger_congr {unit : Nat} {m : Move} {s : State} {f g : W64 → Except Exc State} (h : ∀ t, f t = g t) :
    scalarTrigger unit m s f = scalarTrigger unit m s g := congrArg (scalarTrigger unit m s) (funext h)

theorem predCmp_eq_putStack {p q : W64 → W64 → Bool} (h : ∀ a t, p a t = q a t) (m : Move) (s : State) :
    predCmp m s p = scalarTrigger 5 m s fun t => s.putStack (pushed (q (s.core.port 5 1) t) s.core.pstack) :=
  scalarTrigger_congr fun t => (pushPred_eq_putStack s _).trans (by rw [h]; rfl)

theorem exec_pnot (m : Move) (s : State) : exec (.pnot m) s = execPnot m s := rfl
theorem exec_pand (m : Move) (s : State) : exec (.pand m) s = predPair m s and := rfl
theorem exec_por (m : Move) (s : State) : exec (.por m) s = predPair m s or := rfl
theorem exec_pdup (m : Move) (s : State) : exec (.pdup m) s = execPdup m s := rfl
theorem exec_ppop (m : Move) (s : State) : exec (.ppop m) s = execPpop m s := rfl

/-- Every predicate operation with a scalar trigger puts its row's stack in place. -/
theorem exec_stackForm {i : Instr} {m : Move} {f : W64 → W64 → List Bool → Except Cause (List Bool)}
    (h : stackForm i = some (m, f)) (s : State) :
    exec i s = scalarTrigger 5 m s fun t => s.putStack (f (s.core.port 5 1) t s.core.pstack) := by
  unfold stackForm at h
  split at h <;> cases h
  case h_1 => exact predCmp_eq_putStack (fun _ _ => beq_eq_decide ..) m s
  case h_2 => exact predCmp_eq_putStack (p := (· != ·)) (fun _ _ => (congrArg not (beq_eq_decide ..)).trans (decide_not ..).symm) m s
  case h_3 => exact predCmp_eq_putStack (fun _ _ => rfl) m s
  case h_4 => exact predCmp_eq_putStack (fun _ _ => rfl) m s
  case h_5 => exact predCmp_eq_putStack (fun _ _ => rfl) m s
  case h_6 => exact predCmp_eq_putStack (fun _ _ => rfl) m s
  case h_7 => exact (exec_pnot m s).trans <| scalarTrigger_congr fun _ => by rcases s.core.pstack with _ | ⟨x, r⟩ <;> rfl
  case h_8 => exact (exec_pand m s).trans <| scalarTrigger_congr fun _ => by rcases s.core.pstack with _ | ⟨x, _ | ⟨y, r⟩⟩ <;> rfl
  case h_9 => exact (exec_por m s).trans <| scalarTrigger_congr fun _ => by rcases s.core.pstack with _ | ⟨x, _ | ⟨y, r⟩⟩ <;> rfl
  case h_10 =>
    refine (exec_pdup m s).trans (scalarTrigger_congr fun _ => ?_)
    rcases hst : s.core.pstack with _ | ⟨x, r⟩
    · rfl
    · exact (pushPred_eq_putStack s x).trans (by rw [hst])
  case h_11 => exact (exec_ppop m s).trans <| scalarTrigger_congr fun _ => by rcases s.core.pstack with _ | ⟨x, r⟩ <;> rfl
  case h_12 => exact scalarTrigger_congr fun t => wrps_putStack s t

theorem any_votes (k : W64) (t : VReg) :
    (votes k t).any id = decide (∃ l ∈ List.range 64, k.getLsbD l = true ∧ lane t l ≠ 0) := by
  rw [Bool.eq_iff_iff]
  simp [votes, List.any_map, List.any_filter]

theorem all_votes (k : W64) (t : VReg) :
    (votes k t).all id = decide (∀ l ∈ List.range 64, k.getLsbD l = true → lane t l ≠ 0) := by
  rw [Bool.eq_iff_iff]
  simp [votes, List.all_map, List.all_filter, or_iff_not_imp_left]

theorem vote_eq_putStack {p q : W64 → VReg → Bool} (h : ∀ k t, p k t = q k t) (m : Move) (s : State) :
    (vectorTrigger 5 m s fun t => s.pushPred (p (bruA s) t)) =
      vectorTrigger 5 m s fun t => s.putStack (pushed (q (s.core.port 5 1) t) s.core.pstack) :=
  congrArg (vectorTrigger 5 m s) (funext fun t => (pushPred_eq_putStack s _).trans (by rw [h, bruA]))

theorem exec_vany (m : Move) (s : State) : exec (.vany m) s = execVany m s := rfl
theorem exec_vall (m : Move) (s : State) : exec (.vall m) s = execVall m s := rfl

/-- A vote pushes what its row of R213 says of the lanes under the mask. -/
theorem exec_voteForm {i : Instr} {m : Move} {f : W64 → VReg → Bool} (h : voteForm i = some (m, f)) (s : State) :
    exec i s = vectorTrigger 5 m s fun t => s.putStack (pushed (f (s.core.port 5 1) t) s.core.pstack) := by
  unfold voteForm at h
  split at h <;> cases h
  case h_1 => exact (exec_vany m s).trans (vote_eq_putStack any_votes m s)
  case h_2 => exact (exec_vall m s).trans (vote_eq_putStack all_votes m s)

/-- Doubling along the stack weighs the entry i above the bottom with 2^i (R212). -/
theorem foldl_double_eq_sum (st : List Bool) (acc : Nat) :
    st.foldl (fun acc b => 2 * acc + b2n b) acc =
      acc * 2 ^ st.length + ((List.range st.length).map fun k => if st.reverse.getD k false then 2 ^ k else 0).sum := by
  induction st generalizing acc with
  | nil => simp
  | cons b st ih =>
    have hlow : ((List.range st.length).map fun k => if (st.reverse ++ [b]).getD k false then 2 ^ k else 0) =
        (List.range st.length).map fun k => if st.reverse.getD k false then 2 ^ k else 0 :=
      List.map_congr_left fun k hk => by
        rw [List.getD_append _ _ _ _ (by simpa using hk)]
    have htop : (st.reverse ++ [b]).getD st.length false = b := by simp
    rw [List.foldl_cons, ih, List.reverse_cons, List.length_cons, List.range_succ, List.map_append, List.sum_append, hlow]
    simp only [List.map_cons, List.map_nil, List.sum_singleton, htop]
    cases b <;> simp [b2n] <;> ring

theorem stackWord_eq_sum (st : List Bool) : stackWord st =
    BitVec.ofNat 64 (st.length * 2 ^ 16 + ((List.range st.length).map fun k => if st.reverse.getD k false then 2 ^ k else 0).sum) := by
  rw [stackWord, foldl_double_eq_sum, Nat.zero_mul, Nat.zero_add]

theorem exec_tgt (n : BitVec 2) (m : Move) (s : State) : exec (.tgt n m) s = execTgt n m s := rfl
theorem exec_rdps (m : Move) (s : State) : exec (.rdps m) s = execRdps m s := rfl

/-- A vector trigger whose body ends in a precise fault stops with it. -/
theorem vectorTrigger_stops {unit : Nat} {m : Move} {s : State} {body : VReg → Except Exc State} {c : Cause} {reason faddr finfo : Nat}
    (hl : m.src.bad .vector = none) (hg : s.core.guardPass m.guard = true) (hb : body (s.voperand m) = .error (.fault c reason faddr finfo)) :
    ∃ t, vectorTrigger unit m s body = .next t ∧ StopsWith s t c reason faddr finfo :=
  ⟨_, slotMove_takes hl hg hb, take_fault_stops s c reason faddr finfo unit⟩

/-- Settles O25: each operation puts the result of its row, a stack or a cause. -/
theorem predicates : Obligations.Predicates := by
  unfold Obligations.Predicates
  intro i m s hr
  refine ⟨?tgt, fun f st hi hf h => ?stack, fun f c hi hf hl hg => ?stackStops, fun f hi hlen h => ?vote,
    fun f hi hlen hl hg => ?voteStops, ?rdps⟩
  case tgt =>
    rintro n rfl h
    exact (exec_tgt n m s).trans (scalarTrigger_acts h (issue1_room (by decide) hr))
  case stack =>
    rw [exec_stackForm hi]
    exact scalarTrigger_acts h (by rw [hf]; exact setStack_room hr st)
  case stackStops =>
    rw [exec_stackForm hi]
    exact scalarTrigger_stops hl hg (by rw [hf]; rfl)
  case vote =>
    rw [exec_voteForm hi]
    exact vectorTrigger_acts h (by rw [pushed, if_pos hlen]; exact setStack_room hr _)
  case voteStops =>
    rw [exec_voteForm hi]
    exact vectorTrigger_stops hl hg (by rw [pushed, if_neg (Nat.not_lt.mpr hlen)]; rfl)
  case rdps =>
    rintro rfl h
    rw [← stackWord_eq_sum]
    exact (exec_rdps m s).trans (scalarTrigger_acts h (result_room (by decide) hr))

/-! ## Transfers (R214 to R218) -/

theorem targetOk_good {x : W64} {g : BitVec 14} (h : GoodTarget x g) : targetOk x = true := by
  unfold GoodTarget at h
  exact (targetOk_iff x).mpr (by omega)

theorem targetIdx_good {x : W64} {g : BitVec 14} (h : GoodTarget x g) : targetIdx x = g := by
  unfold GoodTarget at h
  apply BitVec.eq_of_toNat_eq
  rw [targetIdx, BitVec.extractLsb'_toNat, Nat.shiftRight_eq_div_pow]
  omega

theorem redirect_eq (c : Core) (g : BitVec 14) : c.redirect g = { c with fq := redirected c g } := by
  simp [Core.redirect, following_two, redirected]

/-- The positions of a stream follow as they stand (R216). -/
theorem following_length (prev : BitVec 14) (l : List Pos) : following prev l l.length = l := by
  induction l generalizing prev with
  | nil => rfl
  | cons p l ih => rw [List.length_cons, following, ih]

theorem nullify_eq (c : Core) : c.nullify = { c with fq := nullified c } := by
  have hall : following c.cur.idx c.fq (max 2 c.fq.length) = (nextTwo c).1 :: (nextTwo c).2 :: afterTwo c := by
    rcases hq : c.fq with _ | ⟨p, _ | ⟨q, ps⟩⟩
    case cons.cons =>
      have hlen : max 2 (p :: q :: ps).length = (p :: q :: ps).length := by simp
      rw [hlen, following_length]
      simp [nextTwo, afterTwo, hq]
    all_goals
      have hnone : afterTwo c = [] := by simp [afterTwo, hq]
      rw [hnone, ← following_two, hq]
      rfl
  simp [Core.nullify, hall, nullified]

/-- A transfer that stands beside no segend of its bundle redirects the stream (R215, R216). -/
theorem transfer_taken {s : State} {x : W64} {g : BitVec 14} (he : s.core.seg.ending = none) (hx : GoodTarget x g) :
    s.transfer x = .ok (s.onCore fun c => { c with fq := redirected c g }) := by
  simp [State.transfer, he, targetIdx_good hx, redirect_eq]

theorem not_endDelay {s : State} (he : s.core.seg.ending = none) : ¬ EndDelay s := by
  rintro ⟨k, -, hk⟩
  rw [he] at hk
  cases hk

theorem jump_taken {s : State} {x : W64} {g : BitVec 14} (he : s.core.seg.ending = none) (hd : s.core.cur.loopDelay = false)
    (hx : GoodTarget x g) : s.jump x = .ok (s.onCore fun c => { c with fq := redirected c g }) := by
  rw [State.jump, transferBad_none (not_endDelay he) hd]
  exact (if_pos (targetOk_good hx)).trans (transfer_taken he hx)

theorem exec_jmp (m : Move) (s : State) : exec (.jmp m) s = execJmp m s := rfl
theorem exec_call (m : Move) (s : State) : exec (.call m) s = execCall m s := rfl
theorem exec_ret (m : Move) (s : State) : exec (.ret m) s = execRet m s := rfl

/-- Settles O26: the one transfer, from n31 for ret, and with the link in flight for call. -/
theorem jumps : Obligations.Jumps := by
  unfold Obligations.Jumps
  intro i m ret link s g hi h hr he hd hx t
  unfold jumpForm at hi
  split at hi <;> cases hi
  case h_1 => exact (exec_jmp m s).trans (scalarTrigger_acts h (jump_taken he hd hx))
  case h_2 =>
    refine (exec_call m s).trans (scalarTrigger_acts h ((congrArg (Except.bind · _) (jump_taken he hd hx)).trans ?_))
    exact issue1_room (s := t) (by decide) hr
  case h_3 => exact (exec_ret m s).trans (scalarTrigger_acts h (jump_taken he hd hx))

/-- A conditional transfer pops its predicate, then is taken, nullifies, or leaves the stream (R215, R216). -/
theorem condBody_pops {s : State} {x : W64} {g : BitVec 14} {want nul top : Bool} {rest : List Bool} (he : ¬ EndDelay s)
    (hend : top = want → s.core.seg.ending = none) (hd : s.core.cur.loopDelay = false) (hst : s.core.pstack = top :: rest)
    (hr : Room s 1) (hx : GoodTarget x g) :
    condBody want nul s x = .ok ((s.sent 5 [(1, .pstack rest, 0)]).onCore fun c =>
      { c with fq := if top = want then redirected c g else if nul then nullified c else c.fq }) := by
  have hbody : condBody want nul s x = let u := s.sent 5 [(1, .pstack rest, 0)]
      if top = want then u.transfer x else if nul then .ok (u.onCore Core.nullify) else .ok u := by
    simp [condBody, transferBad_none he hd, targetOk_good hx, hst, setStack_room hr, Except.bind]
  rw [hbody]
  by_cases htop : top = want
  case pos => simp only [htop, if_true]; exact transfer_taken (hend htop) hx
  case neg =>
    cases nul with
    | true => simp only [htop, if_false, if_true, State.onCore, nullify_eq]
    | false => simp only [htop, if_false]; rfl

theorem condForm_ne_ret {i : Instr} {m : Move} {x : Bool × Bool} (h : condForm i = some (m, x)) : i ≠ .ret m := by
  rintro rfl
  cases h

/-- Settles O27: the pop is in flight first, the stream then follows the top. -/
theorem branches : Obligations.Branches := by
  unfold Obligations.Branches
  intro i m want nul top rest s g hi h hr he hend hd hst hx
  rw [exec_condForm hi, if_neg (condForm_ne_ret hi)]
  exact scalarTrigger_acts h (condBody_pops he hend hd hst hr hx)

/-! ## Loop registers and the loop trigger (R220 to R223) -/

theorem loopBound_acts {m : Move} {s : State} {g : BitVec 14} (h : Fires s .scalar false m) (hr : Room s 1)
    (hx : GoodTarget (s.operand m) g) {f : BitVec 14 → PendAct} (hw : (f g).weight = 1) :
    loopBound m s f = .next (s.sent 5 [(1, f g, 0)]) := by
  refine scalarTrigger_acts h ((if_pos (targetOk_good hx)).trans ?_)
  rw [targetIdx_good hx]
  exact issue1_room (by decide) (by rwa [hw])

/-- An active level is the innermost, the inner one before the outer one. -/
theorem innermost_active {l : Loops} (h : l.inner.active = true ∨ l.outer.active = true) :
    ∃ x, l.innermost = some (l.inner.active, x) := by
  unfold Loops.innermost
  cases hi : l.inner.active with
  | true => exact ⟨_, rfl⟩
  | false => exact ⟨l.outer, by simpa [hi] using h⟩

theorem lcnt_acts {m : Move} {s : State} (h : Fires s .scalar false m) (hr : Room s 1) (ht : (s.operand m).toNat < 2 ^ 32)
    (hl : s.core.loops.inner.active = true ∨ s.core.loops.outer.active = true) :
    execLcnt m s = .next (s.sent 5 [(1, .lcnt s.core.loops.inner.active ((s.operand m).setWidth 32), 0)]) := by
  obtain ⟨x, hx⟩ := innermost_active hl
  refine scalarTrigger_acts h ((if_neg (show ¬ (s.operand m).toNat / 2 ^ 32 ≠ 0 by omega)).trans ?_)
  rw [hx]
  exact issue1_room (by decide) hr

theorem loopBad_legal {s : State} {t : W64} (ht : t.toNat < 2 ^ 32) (h : LoopLegal s) : s.loopBad t = none := by
  obtain ⟨hopen, ⟨hl, hx⟩, hfree, hbody, hnest⟩ := h
  rw [loopBad_eq hopen hl hx]
  dsimp only
  rw [if_neg (Nat.not_le.mpr ht), if_neg (by rw [hfree]; decide), if_neg (by simpa using hbody), if_neg]
  rintro ⟨ho, hout⟩
  have := hnest ho
  simp only [BitVec.le_def, BitVec.lt_def] at this hout
  omega

/-- The two delay bundles of a loop stand in address order (R221). -/
theorem loop_delays (prev : BitVec 14) : ((following prev [] 2).map fun p => { p with loopDelay := true }) =
    [{ Pos.plain (prev + 1) with loopDelay := true }, { Pos.plain (prev + 2) with loopDelay := true }] := by
  simp [following, BitVec.add_assoc]

/-- Settles O29: the loop registers put their value in flight, the loop trigger its level. -/
theorem loopSetup : Obligations.LoopSetup := by
  unfold Obligations.LoopSetup
  intro m s h hr t
  refine ⟨fun g hx => ⟨?lstart, ?lend⟩, fun hn => ?lstages, fun ht hl => ?lcnt, fun ht hlegal => ?loop⟩
  case lstart => exact (exec_lstart m s).trans (loopBound_acts h hr hx rfl)
  case lend => exact (exec_lend m s).trans (loopBound_acts h hr hx rfl)
  case lstages => exact (exec_lstages m s).trans (scalarTrigger_acts h ((if_pos hn).trans (issue1_room (by decide) hr)))
  case lcnt => exact (exec_lcnt m s).trans (lcnt_acts h hr ht hl)
  case loop =>
    intro l delays
    refine (exec_loop m s).trans (scalarTrigger_acts h ?_)
    rw [loopBad_legal ht hlegal]
    simp only [loop_delays]
    by_cases hz : t = 0
    · rw [if_pos hz, if_pos hz, if_pos hz]
    · rw [if_neg hz, if_neg hz, if_neg hz]
      exact issue1_room (s := s.onCore fun c => { c with fq := delays ++ [Pos.plain l.pendFirst] }) (by decide) hr

/-! ## The end of a pass (R222 to R224) -/

theorem pow2Floor_eq_log {x : Nat} (h : x ≠ 0) : pow2Floor x = 2 ^ Nat.log 2 x := by
  rw [pow2Floor, if_neg h, Nat.log2_eq_log_two]

/-- The stride field of a base, signed (R224). -/
theorem sInt_fld (x : Nat) : sInt 16 (fld x 39 24) = signed 16 (x / 2 ^ 24) := by
  rw [sInt_eq_signed, fld, signed, signed, Int.natCast_mod]
  exact Int.emod_bmod (x / 2 ^ 24 : Nat) (2 ^ 16)

theorem rotateBase_eq_rotated (x : W64) : rotateBase x = rotated x := by
  have hsize : fld x.toNat 63 40 = x.toNat / 2 ^ 40 := by simp only [fld]; omega
  have hoff : fld x.toNat 23 0 = x.toNat % 2 ^ 24 := by simp only [fld]; omega
  simp only [rotateBase, rotated, hsize, hoff, sInt_fld]
  split
  case isTrue => rfl
  case isFalse h => rw [pow2Floor_eq_log h]; rfl

theorem vget_map_rotateBase (xs : Vector W64 8) {k : Nat} (hk : k < 8) : vget 0 (xs.map rotateBase) k = rotated (vget 0 xs k) := by
  simp [vget, hk, rotateBase_eq_rotated]

/-- A stage before the last holds an iteration (R222). -/
theorem stages_held_iff (l : Level) :
    (l.sp &&& BitVec.ofNat 8 (2 ^ l.stages.toNat - 1)) ≠ 0 ↔ ∃ k < l.stages.toNat, l.sp.getLsbD k = true := by
  have h8 := l.stages.isLt
  have hbit : ∀ k < 8, (l.sp &&& BitVec.ofNat 8 (2 ^ l.stages.toNat - 1)).getLsbD k = (l.sp.getLsbD k && decide (k < l.stages.toNat)) := by
    intro k hk
    rw [BitVec.getLsbD_and, BitVec.getLsbD_ofNat, Nat.testBit_two_pow_sub_one, decide_eq_true hk, Bool.true_and]
  constructor
  · intro hne
    contrapose! hne
    refine BitVec.eq_of_getLsbD_eq fun k hk => ?_
    simpa [hbit k hk] using fun hb => Nat.not_lt.mp fun hlt => hne k hlt hb
  · rintro ⟨k, hlt, hk⟩ h0
    have := hbit k (by omega)
    simp [h0, hk, hlt] at this

theorem again_iff (l : Level) : l.again = true ↔ l.count ≠ 0 ∨ ∃ k < l.stages.toNat, l.sp.getLsbD k = true := by
  rw [← stages_held_iff, Level.again, Bool.or_eq_true, bne_iff_ne, bne_iff_ne]

theorem startPass_nextStages (l : Level) : nextStages l l.startPass.sp := by
  intro k hk
  have hnew : (if l.count = 0 then (0 : BitVec 8) else 1).getLsbD k = (decide (k = 0) && decide (l.count ≠ 0)) := by
    split
    case isTrue hc => simp [hc]
    case isFalse hc => simpa using fun _ => hc
  simp only [Level.startPass, BitVec.getLsbD_and, BitVec.getLsbD_or, BitVec.getLsbD_shiftLeft, BitVec.getLsbD_ofNat,
    Nat.testBit_two_pow_sub_one, hnew, hk]
  rcases k with _ | k
  · simp
  · by_cases h : k + 1 ≤ l.stages.toNat <;> simp [h]

/-- The level after its boundary: in its next pass, or left (R222). -/
def Level.afterPass (l : Level) : Level := if l.tested.again then l.tested.startPass else { l.tested with active := false, sp := 0 }

theorem afterPass_again {l : Level} (h : l.tested.again = true) : l.afterPass = l.tested.startPass := if_pos h

theorem afterPass_left {l : Level} (h : l.tested.again = false) : l.afterPass = { l.tested with active := false, sp := 0 } :=
  if_neg (Bool.eq_false_iff.mp h)

theorem innermost_isActive {l : Loops} {which : Bool} {x : Level} (h : l.innermost = some (which, x)) : x.active = true := by
  unfold Loops.innermost at h
  grind

theorem loopPass_boundary {s : State} {which : Bool} {l : Level} (hl : s.core.loops.innermost = some (which, l))
    (hlast : s.core.cur.idx = l.last) :
    execLoopPassBoundary s = .next (s.onCore fun c => { c with
      fq := [Pos.plain (if l.tested.again then l.first else l.last + 1)]
      loops := c.loops.set which l.afterPass
      regs := { c.regs with x := c.regs.x.map rotateBase } }) := by
  rw [execLoopPassBoundary, hl]
  exact if_neg (by simp [hlast])

/-- Settles O30: the level as the test sees it, a pending lcnt taken, starts a pass or is left. -/
theorem loopPass : Obligations.LoopPass := by
  unfold Obligations.LoopPass
  intro s which l hl hlast
  refine ⟨l.afterPass, l.tested.again, s.core.regs.x.map rotateBase, again_iff l.tested, fun h => ?again, fun h => ?leaves,
    fun k => vget_map_rotateBase _, loopPass_boundary hl hlast⟩
  case again =>
    rw [afterPass_again h]
    exact ⟨(innermost_isActive hl : l.active = true), startPass_nextStages l.tested, rfl, rfl, rfl, rfl, rfl⟩
  case leaves =>
    rw [afterPass_left h]
    exact ⟨rfl, rfl⟩

end Sys2Proof.Machine

namespace Sys2Proof.Machine
open Sys2Proof.Manual

/-! PROOF. AGU: loads of local stores, atomics and waits. -/

/-! ## Several results in flight (R361) -/

/-- What enters counts for no more than its weights. -/
theorem inFlight_mapIdx_le {now : Nat} {α : Type} {f : Nat → α → Pend} {weight : α → Nat} (hf : ∀ i x, (f i x).act.weight = weight x) (l : List α) :
    inFlight now (l.mapIdx f) ≤ (l.map weight).sum := by
  induction l generalizing f with
  | nil => exact le_rfl
  | cons x l ih =>
    have hx : (if now < (f 0 x).tcc || (f 0 x).act.open_ then (f 0 x).act.weight else 0) ≤ weight x := by
      rw [hf]; split_ifs <;> simp
    simpa [inFlight, List.mapIdx_cons] using Nat.add_le_add hx (ih fun i y => hf (i + 1) y)

/-- Results enter together when there is room for all. -/
theorem issue_room {s : State} {unit : Nat} {items : List (Nat × PendAct × BitVec 7)} (h : Room s (items.map fun x => x.2.1.weight).sum) :
    s.issue unit items = .ok (s.sent unit items) := by
  have hle := inFlight_mapIdx_le (now := s.core.tcc) (weight := fun x => x.2.1.weight)
    (f := fun i x => (⟨s.core.tcc + x.1, s.core.seq + i, unit, x.2.1, x.2.2, s.core.here unit⟩ : Pend)) (fun _ _ => rfl) items
  exact if_neg (Nat.not_lt.mpr ((inFlight_append _ _ _).trans_le ((Nat.add_le_add_left hle _).trans h)))

/-! ## Loads of local stores (R228, R230, R233) -/

theorem extWord_eq_extended (e : Ext) (w v : Nat) : extWord e w v = extended e w v := by
  cases e with
  | zero => rfl
  | sign => exact congrArg (BitVec.ofInt 64) (sInt_eq_signed _ v)

theorem regionOf_imem {off : Nat} (h : off < 0x40000) : regionOf (imemBase + off) = .imem off := by
  unfold regionOf
  rw [if_neg (by unfold imemBase peerBase; omega), if_neg (by unfold imemBase peerBase; omega),
    if_neg (by unfold imemBase spBase spSize; omega), if_neg (by unfold imemBase accBase accSize; omega), if_pos (by unfold imemSize; omega)]
  simp

section Agu

variable {s : State} {m : Move} {w ea off : Nat} {e : Ext}

theorem loadLocal_acts {store lat : Nat} (hlat : 0 < lat) (hr : Room s 1) (hq : Quiet s store [(off, w)]) (hb : BanksFree s store 0 false [off]) :
    s.loadLocal store off w lat e =
      .ok ((s.booked 4 store 0 false [off]).sentScalar 4 lat (extended e w (rdLE (storeOf s.core store) off w))) := by
  simp only [State.loadLocal, copyCheck_quiet hq, ok_bind, book_free hb, result_room hlat hr.booked, extWord_eq_extended, hq.shadow]
  rfl

theorem load_local {store : Nat} (hs : store ≤ 1) (ha : ea % w = 0) (hea : ea = storeBase store + off) (ho : off < storeSize store)
    (hf : inFootprint s.core.task store off w = true) (hr : Room s 1) (hq : Quiet s store [(off, w)]) (hb : BanksFree s store 0 false [off]) :
    s.load w e ea = .ok ((s.booked 4 store 0 false [off]).sentScalar 4 (if store = 0 then 5 else 7)
      (extended e w (rdLE (storeOf s.core store) off w))) := by
  obtain rfl | rfl : store = 0 ∨ store = 1 := by omega
  · have hreg : regionOf ea = .sp off := hea ▸ regionOf_sp ho
    have hfoot : s.core.task.spOk off w = true := hf
    simp only [State.load, hreg, ha, hfoot, beq_self_eq_true, must_true, ok_bind]
    exact loadLocal_acts (by decide) hr hq hb
  · have hreg : regionOf ea = .acc off := hea ▸ regionOf_acc ho
    have hfoot : s.core.task.accOk off w = true := hf
    simp only [State.load, hreg, ha, hfoot, beq_self_eq_true, must_true, ok_bind]
    exact loadLocal_acts (by decide) hr hq hb

theorem load_imem (ha : ea % w = 0) (hea : ea = imemBase + off) (ho : off < 0x40000) (hr : Room s 1) :
    s.load w e ea = .ok (s.sentScalar 4 5 (extended e w (rdLE s.core.imem off w))) := by
  have hreg : regionOf ea = .imem off := hea ▸ regionOf_imem ho
  simp only [State.load, hreg, ha, beq_self_eq_true, must_true, ok_bind, extWord_eq_extended]
  exact result_room (by decide) hr

/-! ## Atomics and red forms (R228, R230, R234, R236) -/

/-- An atomic or a red form is its row of R234 or R236. -/
theorem exec_atomForm {i : Instr} {op : AmoOp} {ret : Bool} (h : atomForm i = some (m, op, w, e, ret)) (s : State) :
    exec i s = aguOp m s (s.atomic op w e ret) := by
  cases i <;> simp only [atomForm, Option.some.injEq, Prod.mk.injEq, reduceCtorEq] at h
  all_goals
    obtain ⟨rfl, rfl, rfl, rfl, rfl⟩ := h
    rfl

variable {op : AmoOp} {ret : Bool}

/-- The step of an atomic on AGU's operands. -/
def aguAmo (s : State) (op : AmoOp) (w : Nat) (e : Ext) : Amo := ⟨op, w, s.core.port 4 2, s.core.port 4 3, e⟩

theorem atomic_sp (ha : ea % w = 0) (hea : ea = spBase + off) (ho : off < 0x400000) (hf : s.core.task.spOk off w = true)
    (hx : s.core.indexHit off w = false) (hq : Quiet s 0 [(off, w)]) (hb : BanksFree s 0 2 true [off]) (hr : Room s (if ret then 2 else 1)) :
    s.atomic op w e ret ea = .ok ((s.booked 4 0 2 true [off]).sent 4 ((if ret then [(8, .scalar true none, 0)] else []) ++
      [(2, .spAmo off (aguAmo s op w e) (if ret then some s.core.seq else none), 0)])) := by
  have hreg : regionOf ea = .sp off := hea ▸ regionOf_sp ho
  have hi := issue_room (s := s.booked 4 0 2 true [off]) (unit := 4)
    (items := (if ret then [(8, .scalar true none, 0)] else []) ++ [(2, .spAmo off (aguAmo s op w e) (if ret then some s.core.seq else none), 0)])
    (by cases ret <;> exact hr)
  simp only [State.atomic, hreg, ha, hf, hx, beq_self_eq_true, Bool.not_false, must_true, ok_bind, copyCheck_quiet hq, book_free hb]
  exact (congrArg (· >>= _) hi).trans (by simp only [ok_bind, hq.shadow]; rfl)

theorem atomic_global {leaf : Leaf} (ha : ea % w = 0) (hg : ea < peerBase) (hl : heldLeaf s ea ret true = some leaf) (hrpl : leaf.rpl = false)
    (hw : (s.core.gacc.filter fun g => g.act.writes && g.act != .later).length < 64) (hr : Room s 1) :
    s.atomic op w e ret ea = .ok ((if ret then s.sent 4 [(420, .scalar true none, 0)] else s).sendGlobal s.core.tcls ea
      (leaf.pa + (ea - leaf.va)) false (.amo (aguAmo s op w e) (if ret then .slot s.core.seq e else .none)) (s.core.here 4) false) := by
  have hroom : s.core.writeRoom = true := decide_eq_true hw
  have hphys : leaf.phys ea 0 = leaf.pa + (ea - leaf.va) := by simp [Leaf.phys, hrpl]
  have hi : s.issue1 4 420 (.scalar true none) = .ok (s.sent 4 [(420, .scalar true none, 0)]) := issue1_room (by decide) hr
  simp only [State.atomic, regionOf_global hg, ha, beq_self_eq_true, must_true, ok_bind, translate_held hl, hrpl, Bool.not_false, hroom, hphys]
  cases ret
  · rfl
  · simp only [if_true, hi]; rfl

/-- Words of n bits that read alike as signed are the same word. -/
theorem signed_injective {n x y : Nat} (hx : x < 2 ^ n) (hy : y < 2 ^ n) (h : signed n x = signed n y) : x = y := by
  rw [← sInt_eq_signed, ← sInt_eq_signed] at h
  simpa [Nat.mod_eq_of_lt hx, Nat.mod_eq_of_lt hy] using congrArg BitVec.toNat (BitVec.eq_of_toInt_eq h)

/-- The word that an integer atomic leaves (R234). -/
theorem amoNew_eq_atomWord {old r : Nat} {b c : W64} (hold : old < 2 ^ (8 * w))
    (h : atomWord op (8 * w) old (b.toNat % 2 ^ (8 * w)) (c.toNat % 2 ^ (8 * w)) = some r) : amoNew ⟨op, w, b, c, e⟩ old = r := by
  have hd : b.toNat % 2 ^ (8 * w) < 2 ^ (8 * w) := Nat.mod_lt _ (Nat.two_pow_pos _)
  cases op <;> simp only [atomWord, Option.some.injEq, reduceCtorEq] at h <;> subst h
  case add | swap | cas => rfl
  case min => simp only [amoNew, sInt_eq_signed, ← not_le, ite_not]
  case max =>
    simp only [amoNew, sInt_eq_signed]
    obtain hlt | heq | hgt := lt_trichotomy (signed (8 * w) old) (signed (8 * w) (b.toNat % 2 ^ (8 * w)))
    · rw [if_pos hlt, if_pos hlt.le]
    · rw [if_neg heq.not_lt, if_pos heq.le, signed_injective hold hd heq]
    · rw [if_neg hgt.not_gt, if_neg hgt.not_ge]
  case minu => simp only [amoNew]; split_ifs <;> omega
  case maxu => simp only [amoNew]; split_ifs <;> omega
  case and => simp [amoNew, Nat.mod_eq_of_lt hold]
  case or => simp [amoNew, Nat.mod_eq_of_lt hold]
  case xor => simp [amoNew, Nat.mod_eq_of_lt hold]

/-! ## Waits (R237) -/

/-- A wait is its row of R237. -/
theorem exec_waitForm {i : Instr} {ne : Bool} {p : W64 → W64 → Bool} (h : waitForm i = some (m, ne, p)) (s : State) :
    exec i s = aguOp m s (s.waitOn ne) := by
  cases i <;> simp only [waitForm, Option.some.injEq, Prod.mk.injEq, reduceCtorEq] at h
  all_goals
    obtain ⟨rfl, rfl, -⟩ := h
    rfl

/-- The condition of a wait's row is the model's. -/
theorem waitForm_holds {i : Instr} {ne : Bool} {p : W64 → W64 → Bool} (h : waitForm i = some (m, ne, p)) (c v : W64) :
    p c v = waitHolds ne c v := by
  cases i <;> simp only [waitForm, Option.some.injEq, Prod.mk.injEq, reduceCtorEq] at h
  case wge => obtain ⟨-, rfl, rfl⟩ := h; rfl
  case wne => obtain ⟨-, rfl, rfl⟩ := h; simp [waitHolds, bne, beq_eq_decide]

/-- Issue pauses on the word of the slot being executed (R237). -/
def State.paused (s : State) (ne : Bool) (ea : Nat) (c : W64) : State :=
  s.onCore fun k => { k with wait := some (.word ne ea c s.core.slot none), waitFrom := k.gid }

variable {ne : Bool}

theorem waitOn_sp (ha : ea % 8 = 0) (hea : ea = spBase + off) (ho : off < 0x400000) (hf : s.core.task.spOk off 8 = true)
    (hb : BanksFree s 0 0 false [off]) :
    s.waitOn ne ea = .ok (if waitHolds ne (s.core.port 4 3) (BitVec.ofNat 64 (rdLE s.core.sp off 8)) then s.booked 4 0 0 false [off]
      else (s.booked 4 0 0 false [off]).paused ne ea (s.core.port 4 3)) := by
  have hreg : regionOf ea = .sp off := hea ▸ regionOf_sp ho
  simp only [State.waitOn, hreg, ha, hf, beq_self_eq_true, must_true, ok_bind, book_free hb]
  rfl

theorem waitOn_csr {n : Nat} {v : W64} (ha : ea % 8 = 0) (hea : ea = csrBase + 8 * n) (hn : n < 0x1000) (hv : s.core.csrRead n = some v) :
    s.waitOn ne ea = .ok (if waitHolds ne (s.core.port 4 3) v then s else s.paused ne ea (s.core.port 4 3)) := by
  have hreg : regionOf ea = .csr (8 * n) := hea ▸ regionOf_csr (by omega)
  have hq : 8 * n / 8 = n := by omega
  simp only [State.waitOn, hreg, ha, hq, hv, beq_self_eq_true, must_true, ok_bind]
  rfl

theorem waitOn_global {leaf : Leaf} (ha : ea % 8 = 0) (hg : ea < peerBase) (hl : heldLeaf s ea true false = some leaf) (hrpl : leaf.rpl = false) :
    let pa := leaf.pa + (ea - leaf.va)
    s.waitOn ne ea = .ok (if s.wordFree pa = true ∧ waitHolds ne (s.core.port 4 3) (BitVec.ofNat 64 (rdLE s.mem pa 8)) = true then s
      else (s.paused ne ea (s.core.port 4 3)).sendGlobal s.core.tcls ea pa false (.read 8 .wait) (s.core.here 4) false) := by
  intro pa
  have hphys : leaf.phys ea 0 = pa := by simp [Leaf.phys, hrpl, pa]
  simp only [State.waitOn, regionOf_global hg, ha, beq_self_eq_true, must_true, ok_bind, translate_held hl, hrpl, Bool.not_false, hphys,
    aguC, ← Bool.and_eq_true]
  split_ifs <;> rfl

end Agu

/-! ## The AGU statements on local loads, atomics and waits -/

theorem local_below {store off : Nat} (ho : off < storeSize store) : storeBase store + off < 2 ^ 57 := by
  unfold storeBase storeSize spBase accBase at *
  split_ifs at * <;> omega

/-- Settles O12: the load's row, then the store that its address lies in. -/
theorem loadLocal : Obligations.LoadLocal := by
  unfold Obligations.LoadLocal
  intro i m w e s off hi hf hr ha
  rw [exec_loadForm hi]
  refine ⟨fun store hs hea ho hfoot hq hb => ?local_, fun hea ho => ?imem⟩
  case local_ => exact aguOp_acts hf (hea ▸ local_below ho) (load_local hs ha hea ho hfoot hr hq hb)
  case imem => exact aguOp_acts hf (by rw [hea]; unfold imemBase; omega) (load_imem ha hea ho hr)

/-- Settles O16: the row of the atomic or the red form, then the store its word lies in; and the words of the integer forms. -/
theorem atomicResults : Obligations.AtomicResults := by
  unfold Obligations.AtomicResults
  refine ⟨fun i m op w e ret s off hi hf ha => ?_, fun op w old b c e r _ hold h => amoNew_eq_atomWord hold h⟩
  rw [exec_atomForm hi]
  refine ⟨fun hea ho hfoot hx hq hb hr => ?sp, fun leaf hg hl hrpl hw hr => ?global⟩
  case sp => exact aguOp_acts hf (by rw [hea]; unfold spBase; omega) (atomic_sp ha hea ho hfoot hx hq hb hr)
  case global => exact aguOp_acts hf (by unfold peerBase at hg; omega) (atomic_global ha hg hl hrpl hw hr)

/-- Settles O17: the row of the wait, then the region its word lies in. -/
theorem waitResults : Obligations.WaitResults := by
  unfold Obligations.WaitResults
  intro i m ne p s off hi hf ha
  simp only [exec_waitForm hi, waitForm_holds hi]
  refine ⟨fun hea ho hfoot hb => ?sp, fun n v hn hea hv => ?csr, fun leaf hg hl hrpl => ?global⟩
  case sp => exact aguOp_acts hf (by rw [hea]; unfold spBase; omega) (waitOn_sp ha hea ho hfoot hb)
  case csr => exact aguOp_acts hf (by rw [hea]; unfold csrBase; omega) (waitOn_csr ha hea hn hv)
  case global => exact aguOp_acts hf (by unfold peerBase at hg; omega) (waitOn_global ha hg hl hrpl)

end Sys2Proof.Machine

namespace Sys2Proof.Machine
open Sys2Proof.Manual

/-! PROOF. VMEM: the footprint at the end of a store, lane groups, and the rows of a ring. -/

/-! ## A trigger of VMEM (R227, R238) -/

section Vmem

variable {s : State} {m : Move}

theorem vmem_effAddr_ok (h : vmemEA s m < 2 ^ 57) : effAddr (vmA s) (s.operand m) = .ok (vmemEA s m) := by
  have hea : (vmA s + s.operand m).toNat = vmemEA s m := BitVec.toNat_add _ _
  simp only [effAddr, hea, if_neg (Nat.not_le.mpr h)]

/-- A trigger of VMEM acts as its form does at its effective address. -/
theorem vmemOp_acts {body : Nat → Except Exc State} {t : State} (h : Fires s .scalar false m) (hr : vmemEA s m < 2 ^ 57)
    (hb : body (vmemEA s m) = .ok t) : vmemOp m s body = .next t :=
  scalarTrigger_acts h (by rw [vmem_effAddr_ok hr]; exact hb)

/-- A trigger of VMEM whose form faults at its effective address leaves the core stopping. -/
theorem vmemOp_stops {body : Nat → Except Exc State} {c : Cause} {reason faddr finfo : Nat} (h : Fires s .scalar false m) (hr : vmemEA s m < 2 ^ 57)
    (hb : body (vmemEA s m) = .error (.fault c reason faddr finfo)) :
    ∃ t, vmemOp m s body = .next t ∧ StopsWith s t c reason faddr finfo :=
  scalarTrigger_stops h.legal h.guard (by rw [vmem_effAddr_ok hr]; exact hb)

/-! ## Accesses that end beyond the scratchpad (R75, R239) -/

variable {off : Nat}

/-- A vld whose 256 bytes do not end in the scratchpad meets the gap behind it. -/
theorem vld_beyond (h : Fires s .scalar false m) (hea : vmemEA s m = spBase + off) (ho : off < 0x400000) (hend : spSize < off + 256) :
    ∃ t, exec (.vld m) s = .next t ∧ StopsWith s t .windowGap 0 (vmemEA s m) 0 := by
  have hreg : regionOf (vmemEA s m) = .sp off := hea ▸ regionOf_sp ho
  refine vmemOp_stops h (by rw [hea]; unfold spBase; omega) ?_
  simp only [State.vload, hreg, decide_eq_false (Nat.not_le.mpr hend)]
  rfl

/-- A vst whose 256 bytes do not end in the scratchpad meets the gap behind it. -/
theorem vst_beyond (h : Fires s .scalar false m) (hea : vmemEA s m = spBase + off) (ho : off < 0x400000) (hend : spSize < off + 256) :
    ∃ t, exec (.vst m) s = .next t ∧ StopsWith s t .windowGap 0 (vmemEA s m) 0 := by
  have hreg : regionOf (vmemEA s m) = .sp off := hea ▸ regionOf_sp ho
  refine vmemOp_stops h (by rw [hea]; unfold spBase; omega) ?_
  simp only [hreg, decide_eq_false (Nat.not_le.mpr hend)]
  rfl

/-- A slot that stops the task does not go on to a state in which the core runs as before. -/
theorem stops_not_next {i : Instr} {t u : State} {c : Cause} {reason faddr finfo : Nat} (hi : exec i s = .next t)
    (h : StopsWith s t c reason faddr finfo) (hs : s.core.mode ≠ .stopping) (hnext : exec i s = .next u) : u.core.mode ≠ s.core.mode := by
  obtain rfl := Host.Outcome.next.inj (hi.symm.trans hnext)
  exact fun hu => hs (hu.symm.trans (congrArg (fun x : State => x.core.mode) h))

end Vmem

/-! ## The counterexample to O19 and O20 -/

/-- A task whose footprint is one unit wider than the scratchpad; its VMEM address is the last row there. No launch gives such a footprint
(R24); the statements speak of every state, and ask only that the bytes lie in the footprint. -/
def wideState : State :=
  { State.reset with core := { Core.zero with
      mode := .run
      task := { Task.none with spUnits := 65 }
      regs := { Regs.zero with sPort := vset Regs.zero.sPort (8 * 7 + 1) (BitVec.ofNat 64 (spBase + 0x3FFFC0)) } } }

/-- The slot's move: the offset 0. -/
def wideMove : Move := ⟨.always, .imm 0⟩

theorem wideMove_fires : Fires wideState .scalar false wideMove := ⟨by decide, rfl, rfl⟩

theorem wideState_room : Room wideState 1 := by unfold Room; decide +kernel

theorem wideState_address : vmemEA wideState wideMove = spBase + 0x3FFFC0 := by decide +kernel

theorem wideState_banks (store lat : Nat) (write : Bool) (offs : List Nat) : BanksFree wideState store lat write offs :=
  fun o ho => (List.not_mem_nil (a := o) ho).elim

theorem wideState_quiet : Quiet wideState 0 [(0x3FFFC0, 256)] := ⟨by decide +kernel, rfl⟩

/-- Refutes O19: the statement asks that the bytes lie in the footprint, not that they lie in the store. With a footprint of 65 units the 256
bytes from the last row of the scratchpad lie in the footprint and end in the gap behind the store, so the vld stops with WINDOW_GAP. -/
theorem not_vectorLoads : ¬ Obligations.VectorLoads := by
  unfold Obligations.VectorLoads
  intro h
  obtain ⟨t, ht, hstop⟩ := vld_beyond wideMove_fires wideState_address (by decide) (by decide)
  have hacts := h (.vld wideMove) wideMove 0 256 6 _ wideState 0x3FFFC0 rfl wideMove_fires wideState_room wideState_address (by decide) (by decide)
    (by decide +kernel) wideState_quiet (wideState_banks _ _ _ _)
  exact stops_not_next ht hstop (by decide) hacts rfl

/-- Refutes O20: in the same state a vst to the last row of the scratchpad lies in the footprint and stops with WINDOW_GAP. -/
theorem not_vectorStores : ¬ Obligations.VectorStores := by
  unfold Obligations.VectorStores
  intro h
  obtain ⟨hvst, -, -⟩ := h wideMove wideState 0x3FFFC0 (by decide)
  obtain ⟨t, ht, hstop⟩ := vst_beyond wideMove_fires wideState_address (by decide) (by decide)
  have hacts := hvst wideState_address (by decide) wideMove_fires wideState_room (by decide +kernel) (by decide +kernel) (wideState_banks _ _ _ _)
  exact stops_not_next ht hstop (by decide) hacts rfl

/-! ## Lane groups (R240) -/

section Lanes

variable {s : State} {m : Move}

theorem lane_region (h : LanesLegal s m) {l : Nat} (hl : l < 64) : regionOf (laneAt s m l) = .sp (laneAt s m l - spBase) := by
  obtain ⟨hlo, hhi⟩ := h.inside l hl
  have := regionOf_sp (off := laneAt s m l - spBase) (by omega)
  rwa [Nat.add_sub_cancel' hlo] at this

theorem laneAddr_eq_laneAt : laneAddr s (vmemEA s m) = laneAt s m := rfl

/-- A search over the lanes ends empty when no lane meets it. -/
theorem lane_not_found {p : Nat → Bool} {a : Nat} (hp : ∀ l < 64, p (laneAt s m l) = false)
    (h : ((List.range 64).map (laneAddr s (vmemEA s m))).find? p = some a) : False := by
  obtain ⟨l, hl, rfl⟩ := List.mem_map.mp (List.mem_of_find?_eq_some h)
  exact Bool.eq_false_iff.mp (hp l (List.mem_range.mp hl)) (List.find?_some h)

theorem lanesBad_none (h : LanesLegal s m) : s.lanesBad (vmemEA s m) = none := by
  have hfoot : ((List.range 64).map (laneAddr s (vmemEA s m))).find? (fun a => !s.core.task.spOk (a - spBase) 4) = none :=
    Option.eq_none_iff_forall_ne_some.mpr fun a => lane_not_found fun l hl => by simp [h.foot l hl]
  unfold State.lanesBad
  dsimp only
  split
  case h_1 hfound =>
    refine (lane_not_found (fun l hl => ?_) hfound).elim
    exact decide_eq_false (by have := (h.inside l hl).2; unfold spBase at this; omega)
  split
  case h_1 hfound => exact (lane_not_found (fun l hl => by simp [lane_region h hl]) hfound).elim
  split
  case h_1 hfound => exact (lane_not_found (fun l hl => by simp [lane_region h hl]) hfound).elim
  rw [if_neg (not_not.mpr h.aligned), hfoot]
  rfl

theorem groups_clear (h : LanesLegal s m) {g : Nat} (hg : g < 4) : vidxClash (groupOffs s (vmemEA s m) g) = false := by
  refine List.any_eq_false.mpr fun a ha => Bool.eq_false_iff.mp (List.any_eq_false.mpr fun b hb => ?_)
  simpa using h.rows g hg a ha b hb

theorem indexedBad_none (h : LanesLegal s m) : s.indexedBad (vmemEA s m) = none := by
  have hclash : ((List.range 4).any fun g => vidxClash (groupOffs s (vmemEA s m) g)) = false :=
    List.any_eq_false.mpr fun g hg => Bool.eq_false_iff.mp (groups_clear h (List.mem_range.mp hg))
  simp only [State.indexedBad, lanesBad_none h, hclash]
  rfl

/-- Groups of rows that are free are all booked, each in its own cycle. -/
theorem foldlM_book {lat : Nat → Nat} {write : Bool} {offs : Nat → List Nat} (l : List Nat) {s : State}
    (h : ∀ g ∈ l, BanksFree s 0 (lat g) write (offs g)) :
    l.foldlM (fun st g => st.book 7 0 (lat g) write (offs g)) s = .ok (l.foldl (fun st g => st.booked 7 0 (lat g) write (offs g)) s) := by
  induction l generalizing s with
  | nil => rfl
  | cons g l ih =>
    rw [List.foldlM_cons, book_free (h g List.mem_cons_self), ok_bind, List.foldl_cons]
    exact ih fun k hk => banksFree_booked (h k (List.mem_cons_of_mem g hk))

theorem book_groups {first : Nat} {write : Bool} (h : ∀ g < 4, BanksFree s 0 (first + g) write (groupAt s m g)) :
    (List.range 4).foldlM (fun st g => st.book 7 0 (first + g) write (groupOffs s (vmemEA s m) g)) s = .ok (bookedGroups s m first write) :=
  foldlM_book _ fun g hg => h g (List.mem_range.mp hg)

theorem Room.foldl_booked {k : Nat} {lat : Nat → Nat} {write : Bool} {offs : Nat → List Nat} (l : List Nat) {s : State} (h : Room s k) :
    Room (l.foldl (fun st g => st.booked 7 0 (lat g) write (offs g)) s) k := by
  induction l generalizing s with
  | nil => exact h
  | cons g l ih => exact ih h.booked

theorem Room.bookedGroups {k first : Nat} {write : Bool} (h : Room s k) : Room (bookedGroups s m first write) k := Room.foldl_booked _ h

/-- The first group's lanes in the places of a vector. -/
theorem gatherGroup_first (mem : Mem) :
    gatherGroup mem ((List.range 64).map fun l => laneAt s m l - spBase) 0 =
      ofLanes ((groupAt s m 0).map fun o => BitVec.ofNat 32 (rdLE mem o 4)) := by
  have hg : (((List.range 64).map fun l => laneAt s m l - spBase).drop (16 * 0)).take 16 = groupAt s m 0 := by
    simp [groupAt, ← List.map_take, List.take_range]
  rw [gatherGroup, hg, Nat.mul_zero, pow_zero, one_mul]

theorem lanes_below (h : LanesLegal s m) : vmemEA s m < 2 ^ 57 := by
  have hlane := (h.inside 0 (by decide)).2
  unfold laneAt spBase at hlane
  omega

theorem vldx_acts (hf : Fires s .scalar false m) (h : LanesLegal s m) (hr : Room s 1)
    (hq : Quiet s 0 ((List.range 64).map fun l => (laneAt s m l - spBase, 4)))
    (hb : ∀ g < 4, BanksFree s 0 g false (groupAt s m g)) :
    exec (.vldx m) s = .next ((bookedGroups s m 0 false).sent 7
      [(10, .vgather ((List.range 64).map fun l => laneAt s m l - spBase)
        (ofLanes ((groupAt s m 0).map fun o => BitVec.ofNat 32 (rdLE s.core.sp o 4))), 0)]) := by
  have hbook : (List.range 4).foldlM (fun st g => st.book 7 0 g false (groupOffs s (vmemEA s m) g)) s = .ok (bookedGroups s m 0 false) := by
    simpa using book_groups (first := 0) (write := false) (by simpa using hb)
  have hissue {v : Nat} {addrs : List Nat} : (bookedGroups s m 0 false).issue1 7 10 (.vgather addrs v) =
    .ok ((bookedGroups s m 0 false).sent 7 [(10, .vgather addrs v, 0)]) := issue1_room (by decide) (Room.bookedGroups hr)
  refine vmemOp_acts hf (lanes_below h) ?_
  simp only [indexedBad_none h, hbook, hissue, laneAddr_eq_laneAt, gatherGroup_first, ok_bind, copyCheck_quiet hq, hq.shadow]
  rfl

theorem vstx_acts (hf : Fires s .scalar false m) (h : LanesLegal s m) (hr : Room s 4)
    (hx : ∀ l < 64, s.core.indexHit (laneAt s m l - spBase) 4 = false) (hb : ∀ g < 4, BanksFree s 0 (2 + g) true (groupAt s m g)) :
    exec (.vstx m) s = .next ((bookedGroups s m 2 true).sent 7 ((List.range 4).map fun g =>
      (2 + g, .spLanes ((List.range 16).map fun i => (laneAt s m (16 * g + i) - spBase, lane (s.core.vport 7 2) (16 * g + i))), 0))) := by
  have hindex : ((List.range 64).all fun l => !s.core.indexHit (laneAddr s (vmemEA s m) l - spBase) 4) = true :=
    List.all_eq_true.mpr fun l hl => Bool.not_eq_true' _ ▸ hx l (List.mem_range.mp hl)
  refine vmemOp_acts hf (lanes_below h) ?_
  simp only [indexedBad_none h, hindex, must_true, book_groups hb, ok_bind]
  exact issue_room (Room.bookedGroups hr)

end Lanes

/-- Settles O21: the lanes pass their checks, the groups are booked one after another, and the accesses enter. -/
theorem indexedVectors : Obligations.IndexedVectors := by
  unfold Obligations.IndexedVectors
  intro m s hf h offs
  refine ⟨fun hr hq hb => ?vldx, fun hr hx hb => ?vstx⟩
  case vldx => exact vldx_acts hf h hr (by simpa [offs, Function.comp_def] using hq) hb
  case vstx => exact vstx_acts hf h hr (fun l hl => hx _ (List.mem_map_of_mem (List.mem_range.mpr hl))) hb

/-! ## Rows of a ring (R241) -/

section Ring

/-- The size field of a base (R224). -/
theorem fld_ringSize (a : W64) : fld a.toNat 63 40 = a.toNat / 2 ^ 40 := Nat.mod_eq_of_lt (by omega)

theorem ringRow_eq_ringOffset (a t : W64) (r : Nat) : ringRow a t r = ringOffset a t r := by
  have hoff : fld a.toNat 23 0 = a.toNat % 2 ^ 24 := by simp [fld]
  simp only [ringRow, ringOffset, fld_ringSize, hoff]
  split_ifs with h
  · rfl
  · rw [pow2Floor_eq_log h]; rfl

variable {s : State} {m : Move} {t : W64}

/-- The rows of R241 are those that the model finds. -/
theorem ringRows_legal {foot : Nat → Bool} {rs : List Nat} (h : RingRows (s.core.port 7 1) t foot rs) : ringRows s t foot = .ok rs := by
  obtain ⟨hsize, r0, r1, r2, r3, rfl, h0, h1, h2, h3, halign, hfoot⟩ := h
  have hring : (fld (vmA s).toNat 63 40 == 0 || decide (64 ≤ fld (vmA s).toNat 63 40)) = true := by
    simpa [fld_ringSize, vmA] using hsize
  have hrows : (List.range 4).map (ringRow (vmA s) t) = [(r0 : Int), r1, r2, r3] := by
    simp [List.range_succ, ringRow_eq_ringOffset, vmA, h0, h1, h2, h3]
  have hrow : ((r0 : Int) % 64 == 0) = true := by simp; omega
  have hall : ([(r0 : Int), r1, r2, r3].all fun r => decide (0 ≤ r) && foot r.toNat) = true := by simpa using hfoot
  simp only [ringRows, hring, hrows, List.headD_cons, hrow, hall, must_true, ok_bind]
  rfl

theorem ringRows_mono {a : W64} {foot foot' : Nat → Bool} {rs : List Nat} (h : RingRows a t foot rs) (hf : ∀ r ∈ rs, foot' r = true) :
    RingRows a t foot' rs := by
  obtain ⟨hsize, r0, r1, r2, r3, hrs, h0, h1, h2, h3, halign, -⟩ := h
  exact ⟨hsize, r0, r1, r2, r3, hrs, h0, h1, h2, h3, halign, hf⟩

/-! ### Four rows as a vector -/

/-- What k places of each entry of a list hold, place by place. -/
theorem flatMap_range {α β : Type} (xs : List α) (d : α) {k : Nat} (hk : 0 < k) (g : α → Nat → β) :
    xs.flatMap (fun x => (List.range k).map (g x)) = (List.range (xs.length * k)).map fun l => g (xs.getD (l / k) d) (l % k) := by
  induction xs with
  | nil => simp
  | cons x xs ih =>
    have hfirst : (List.range k).map (g x) = (List.range k).map fun l => g ((x :: xs).getD (l / k) d) (l % k) :=
      List.map_congr_left fun l hl => by
        have hlt := List.mem_range.mp hl
        rw [Nat.div_eq_of_lt hlt, Nat.mod_eq_of_lt hlt, List.getD_cons_zero]
    rw [List.flatMap_cons, ih, hfirst, List.length_cons, Nat.succ_mul, Nat.add_comm, List.range_add, List.map_append, List.map_map]
    simp only [Function.comp_def, Nat.add_div_left _ hk, Nat.add_mod_left, List.getD_cons_succ]

theorem ofLanes_append (xs ys : List W32) : ofLanes (xs ++ ys) = ofLanes xs + 2 ^ (32 * xs.length) * ofLanes ys := by
  induction xs with
  | nil => simp [ofLanes]
  | cons x xs ih => simp only [List.cons_append, ofLanes, ih, List.length_cons, Nat.mul_succ, pow_add]; ring

theorem rdLE_add (m : Mem) (a n k : Nat) : rdLE m a (n + k) = rdLE m a n + 256 ^ n * rdLE m (a + n) k := by
  induction n generalizing a with
  | zero => simp [rdLE]
  | succ n ih =>
    rw [Nat.succ_add, rdLE, rdLE, ih, pow_succ, Nat.add_assoc a 1 n, Nat.add_comm 1 n]
    ring

/-- Bytes of a store are its words, lane by lane. -/
theorem rdLE_eq_ofLanes (m : Mem) (a n : Nat) :
    rdLE m a (4 * n) = ofLanes ((List.range n).map fun i => BitVec.ofNat 32 (rdLE m (a + 4 * i) 4)) := by
  induction n generalizing a with
  | zero => rfl
  | succ n ih =>
    have hword : (BitVec.ofNat 32 (rdLE m a 4)).toNat = rdLE m a 4 := Nat.mod_eq_of_lt (rdLE_lt m a 4)
    have htail : (List.range n).map (fun i => BitVec.ofNat 32 (rdLE m (a + 4 + 4 * i) 4)) =
        (List.range n).map ((fun i => BitVec.ofNat 32 (rdLE m (a + 4 * i) 4)) ∘ Nat.succ) :=
      List.map_congr_left fun i _ => by rw [Function.comp_apply, Nat.mul_succ, Nat.add_assoc, Nat.add_comm 4]
    rw [Nat.mul_succ, Nat.add_comm, rdLE_add, ih, List.range_succ_eq_map, List.map_cons, ofLanes, List.map_map, htail, Nat.mul_zero, Nat.add_zero,
      hword]
    rfl

/-- Rows read one after another are the lanes of their words. -/
theorem rows_eq_ofLanes (mem : Mem) (rs : List Nat) :
    rs.foldr (fun r acc => rdLE mem r 64 + 2 ^ 512 * acc) 0 =
      ofLanes ((List.range (rs.length * 16)).map fun l => BitVec.ofNat 32 (rdLE mem (rs.getD (l / 16) 0 + 4 * (l % 16)) 4)) := by
  rw [← flatMap_range rs 0 (by decide) fun r i => BitVec.ofNat 32 (rdLE mem (r + 4 * i) 4)]
  induction rs with
  | nil => rfl
  | cons r rs ih => rw [List.foldr_cons, ih, List.flatMap_cons, ofLanes_append, ← rdLE_eq_ofLanes, List.length_map, List.length_range]

/-- A field of a field is a field. -/
theorem div_mod_div_mod (x p : Nat) {n q w : Nat} (h : q + w ≤ n) : x / 2 ^ p % 2 ^ n / 2 ^ q % 2 ^ w = x / 2 ^ (p + q) % 2 ^ w := by
  refine Nat.eq_of_testBit_eq fun i => ?_
  simp only [Nat.testBit_mod_two_pow, Nat.testBit_div_two_pow]
  by_cases hi : i < w
  · simp [hi, show i + q < n by omega, Nat.add_assoc, Nat.add_comm p]
  · simp [hi]

/-- The words of row k of a vector are its lanes. -/
theorem row_word_eq_lane (b : VReg) (k : Nat) {i : Nat} (hi : i < 16) :
    BitVec.ofNat 32 (b.toNat / 2 ^ (512 * k) % 2 ^ 512 / 2 ^ (32 * i)) = lane b (16 * k + i) := by
  have hbit : 512 * k + 32 * i = 32 * (16 * k + i) := by ring
  refine BitVec.eq_of_toNat_eq ?_
  rw [BitVec.toNat_ofNat, lane, BitVec.extractLsb'_toNat, Nat.shiftRight_eq_div_pow, div_mod_div_mod _ _ (by omega), hbit]

/-- The rows of a vector at their offsets, as a store takes them: offset, bytes, value. -/
def vectorRows (b : VReg) (rs : List Nat) : List (Nat × Nat × Nat) := rs.mapIdx fun k r => (r, 64, b.toNat / 2 ^ (512 * k) % 2 ^ 512)

theorem vectorRows_all {b : VReg} {rs : List Nat} {p : Nat → Nat → Bool} (h : ∀ r ∈ rs, p r 64 = true) :
    ((vectorRows b rs).all fun x => p x.1 x.2.1) = true :=
  List.all_eq_true.mpr fun x hx => by
    obtain ⟨k, hk, rfl⟩ := List.mem_mapIdx.mp hx
    exact h _ (List.getElem_mem hk)

/-- Rows of a vector written one after another put each lane in its place. -/
theorem vectorRows_cells (b : VReg) (rs : List Nat) :
    (vectorRows b rs).flatMap (fun x => (List.range (x.2.1 / 4)).map fun i => (x.1 + 4 * i, BitVec.ofNat 32 (x.2.2 / 2 ^ (32 * i)))) =
      (List.range (rs.length * 16)).map fun l => (rs.getD (l / 16) 0 + 4 * (l % 16), lane b l) := by
  have hwords : ∀ x ∈ vectorRows b rs, x.2.1 / 4 = 16 := fun x hx => by
    obtain ⟨k, hk, rfl⟩ := List.mem_mapIdx.mp hx
    exact show 64 / 4 = 16 from rfl
  rw [List.flatMap_congr fun x hx => by rw [hwords x hx],
    flatMap_range _ (0, 0, 0) (by decide) fun (x : Nat × Nat × Nat) i => (x.1 + 4 * i, BitVec.ofNat 32 (x.2.2 / 2 ^ (32 * i))),
    vectorRows, List.length_mapIdx]
  refine List.map_congr_left fun l hl => ?_
  have hq : l / 16 < rs.length := Nat.div_lt_of_lt_mul (by simpa [Nat.mul_comm] using hl)
  have hlane := row_word_eq_lane b (l / 16) (Nat.mod_lt l (by decide))
  rw [Nat.div_add_mod] at hlane
  simp only [List.getD_eq_getElem _ _ (List.length_mapIdx.symm ▸ hq), List.getD_eq_getElem _ _ hq, List.getElem_mapIdx, hlane]

/-! ### vldr and vstr -/

theorem exec_vldr (m : Move) (s : State) : exec (.vldr m) s = execVldr m s := rfl
theorem exec_vstr (m : Move) (s : State) : exec (.vstr m) s = execVstr m s := rfl

variable {rs : List Nat}

theorem ringRows_length {a : W64} {foot : Nat → Bool} (h : RingRows a t foot rs) : rs.length = 4 := by
  obtain ⟨-, _, _, _, _, rfl, -⟩ := h
  rfl

theorem ringRows_foot {a : W64} {foot : Nat → Bool} (h : RingRows a t foot rs) : ∀ r ∈ rs, foot r = true := by
  obtain ⟨-, _, _, _, _, -, -, -, -, -, -, hfoot⟩ := h
  exact hfoot

theorem vldr_acts (hf : Fires s .scalar false m) (h : RingRows (s.core.port 7 1) (s.operand m) (fun r => s.core.task.spOk r 64) rs) (hr : Room s 1)
    (hq : Quiet s 0 (rs.map fun r => (r, 64))) (hb : BanksFree s 0 0 false rs) :
    exec (.vldr m) s = .next ((s.booked 7 0 0 false rs).sentVector 7 6
      (vgen fun l => BitVec.ofNat 32 (rdLE s.core.sp (rs.getD (l / 16) 0 + 4 * (l % 16)) 4))) := by
  have hread : BitVec.ofNat 2048 (rs.foldr (fun r acc => rdLE s.core.sp r 64 + 2 ^ 512 * acc) 0) =
      vgen fun l => BitVec.ofNat 32 (rdLE s.core.sp (rs.getD (l / 16) 0 + 4 * (l % 16)) 4) := by rw [rows_eq_ofLanes, ringRows_length h, vgen]
  have hlat : 0 < 6 := by decide
  rw [exec_vldr]
  refine scalarTrigger_acts hf ?_
  simp only [ringRows_legal h, ok_bind, copyCheck_quiet hq, book_free hb, hread, vectorResult_room hlat hr.booked, hq.shadow]
  rfl

/-- The write of four rows of the issuing core's own scratchpad. -/
theorem vstoreLocal_rows {ea : Nat} (hlen : rs.length = 4) (hfoot : ∀ r ∈ rs, s.core.task.spOk r 64 = true) (hr : Room s 1)
    (hx : ∀ r ∈ rs, s.core.indexHit r 64 = false) (hb : BanksFree s 0 2 true rs) (b : VReg) :
    s.vstoreLocal ea (vectorRows b rs) = .ok ((s.booked 7 0 2 true rs).sent 7
      [(2, .spLanes ((List.range 64).map fun l => (rs.getD (l / 16) 0 + 4 * (l % 16), lane b l)), 0)]) := by
  have hlegal := vectorRows_all (b := b) (p := s.core.task.spOk) hfoot
  have hindex := vectorRows_all (b := b) (p := fun off n => !s.core.indexHit off n) fun r hr => by rw [hx r hr]; rfl
  have hi := issue_room (s := s.booked 7 0 2 true rs) (unit := 7)
    (items := [(2, .spLanes ((List.range 64).map fun l => (rs.getD (l / 16) 0 + 4 * (l % 16), lane b l)), 0)]) hr
  have hcells := congrArg (fun c => (s.booked 7 0 2 true rs).issue 7 [(2, .spLanes c, 0)]) (vectorRows_cells b rs)
  match rs, hlen with
  | [r0, r1, r2, r3], _ =>
    have hrows : ((vectorRows b [r0, r1, r2, r3]).flatMap fun x => rowsOf x.1 x.2.1) = [r0, r1, r2, r3] := by
      simp [-Nat.reducePow, vectorRows, rowsOf]
    simp only [State.vstoreLocal, hlegal, hindex, hrows, must_true, ok_bind, book_free hb]
    exact hcells.trans hi

theorem vstr_acts (hf : Fires s .scalar false m) (h : RingRows (s.core.port 7 1) (s.operand m) (fun r => s.core.task.spOk r 64) rs) (hr : Room s 1)
    (hen : s.core.vpeer.getLsbD 10 = false) (hx : ∀ r ∈ rs, s.core.indexHit r 64 = false) (hb : BanksFree s 0 2 true rs) :
    exec (.vstr m) s = .next ((s.booked 7 0 2 true rs).sent 7
      [(2, .spLanes ((List.range 64).map fun l => (rs.getD (l / 16) 0 + 4 * (l % 16), lane (s.core.vport 7 2) l)), 0)]) := by
  rw [exec_vstr]
  refine scalarTrigger_acts hf ?_
  simp only [hen, Bool.false_eq_true, if_false, ringRows_legal h, ok_bind]
  exact vstoreLocal_rows (ringRows_length h) (ringRows_foot h) hr hx hb _

theorem vstr_pushes (hf : Fires s .scalar false m) (h : RingRows (s.core.port 7 1) (s.operand m) (fun r => s.core.task.spOk r 64) rs)
    (hen : s.core.vpeer.getLsbD 10 = true) (hrect : s.core.task.rect.has (s.core.vpeer.toNat % 1024) = true) (hp : s.core.pflag.toNat % 8 = 0)
    (hw : s.core.pflag.toNat + 8 ≤ 65536 * s.core.task.spUnits) :
    exec (.vstr m) s = .next (s.sendPushRows (s.core.vpeer.toNat % 1024)
      (rs.mapIdx fun k r => (r, leBytes ((s.core.vport 7 2).toNat / 2 ^ (512 * k) % 2 ^ 512) 64))) := by
  have hbad : (rs.findSome? fun r => s.core.pushBad (s.core.vpeer.toNat % 1024) r 64 (peerBase + s.core.vpeer.toNat % 1024 * 2 ^ 30 + r)) = none :=
    List.findSome?_eq_none_iff.mpr fun r hr => pushBad_none hrect (ringRows_foot h r hr) hp hw
  rw [exec_vstr]
  refine scalarTrigger_acts hf ?_
  simp only [hen, if_true, ringRows_legal (ringRows_mono h (foot' := fun _ => true) fun _ _ => rfl), ok_bind, hbad]
  rfl

/-- Settles O22: the rows of the ring pass their checks, and the words of rows are the lanes of vectors. -/
theorem ringVectors : Obligations.RingVectors := by
  unfold Obligations.RingVectors
  intro m s rs hf
  exact ⟨fun h => ⟨vldr_acts hf h, vstr_acts hf h⟩, vstr_pushes hf⟩

end Ring

end Sys2Proof.Machine

/-! PROOF. VEC: lanes, conversions, packing, masks and the moves of lanes (R246 to R256). -/

namespace Sys2Proof.Machine
open Sys2Proof.Manual

/-! ## Lanes of a vector (R247) -/

theorem ofLanes_lanes (v : VReg) (n : Nat) : ofLanes ((List.range n).map (lane v)) = v.toNat % 2 ^ (32 * n) := by
  induction n with
  | zero => simp [ofLanes, Nat.mod_one]
  | succ n ih =>
    have hlane : ofLanes [lane v n] = v.toNat / 2 ^ (32 * n) % 2 ^ 32 := by
      simp [ofLanes, lane, BitVec.extractLsb'_toNat, Nat.shiftRight_eq_div_pow]
    rw [List.range_succ, List.map_append, ofLanes_append, ih, List.length_map, List.length_range, List.map_singleton, hlane, Nat.mul_succ,
      Nat.pow_add, Nat.mod_mul]

/-- A vector is made of its lanes. -/
theorem vgen_lane (v : VReg) : vgen (lane v) = v := by
  rw [vgen, ofLanes_lanes, Nat.mod_eq_of_lt v.isLt, BitVec.ofNat_toNat, BitVec.setWidth_eq]

/-! ## Integer lanes (R67, R247) -/

section Integer

variable (a t : W32)

theorem sh5_eq : sh5 t = t.toNat % 32 := by simp [sh5, BitVec.extractLsb'_toNat]

theorem lane_add : a + t = BitVec.ofNat 32 (a.toNat + t.toNat) := by
  rw [BitVec.ofNat_add, BitVec.ofNat_toNat, BitVec.ofNat_toNat, BitVec.setWidth_eq, BitVec.setWidth_eq]

theorem lane_mul : a * t = BitVec.ofNat 32 (a.toNat * t.toNat) := rfl

theorem lane_min : (if BitVec.slt t a then t else a) = if a.toInt ≤ t.toInt then a else t := by
  simp only [BitVec.slt, decide_eq_true_eq, ← not_lt, ite_not]

theorem lane_minu : (if BitVec.ult t a then t else a) = if a.toNat ≤ t.toNat then a else t := by
  simp only [BitVec.ult, decide_eq_true_eq, ← not_lt, ite_not]

theorem lane_max : (if BitVec.slt a t then t else a) = if a.toInt ≤ t.toInt then t else a := by
  simp only [BitVec.slt, decide_eq_true_eq]
  exact ite_lt_eq_ite_le (fun _ _ => BitVec.eq_of_toInt_eq) a t

theorem lane_maxu : (if BitVec.ult a t then t else a) = if a.toNat ≤ t.toNat then t else a := by
  simp only [BitVec.ult, decide_eq_true_eq]
  exact ite_lt_eq_ite_le (fun _ _ => BitVec.eq_of_toNat_eq) a t

theorem lane_shl : a <<< sh5 t = BitVec.ofNat 32 (a.toNat * 2 ^ (t.toNat % 32)) := by rw [sh5_eq, shiftLeft_eq_ofNat]

theorem lane_shr : a >>> sh5 t = BitVec.ofNat 32 (a.toNat / 2 ^ (t.toNat % 32)) := by
  rw [sh5_eq, ← Nat.shiftRight_eq_div_pow, ← BitVec.toNat_ushiftRight, BitVec.ofNat_toNat, BitVec.setWidth_eq]

theorem lane_sar : a.sshiftRight (sh5 t) = BitVec.ofInt 32 (a.toInt / 2 ^ (t.toNat % 32)) := by
  rw [sh5_eq, BitVec.sshiftRight, Int.shiftRight_eq_div_pow, Nat.cast_pow, Nat.cast_ofNat]

end Integer

/-- An encoding of 16 bits is its signed number modulo 2^16. -/
theorem signed_sixteen_mod {x : Nat} (hx : x < 65536) : (signed 16 x % 65536).toNat = x := by
  rw [signed_sixteen]
  split <;> omega

/-- Each half of a lane by its signed number. -/
theorem halves_eq_pair16 {f : Nat → Nat → Nat} {g : Int → Int → Int} (hlt : ∀ x y, f (x % 65536) (y % 65536) < 65536)
    (h : ∀ x y, signed 16 (f (x % 65536) (y % 65536)) = g (signed 16 x) (signed 16 y)) (a t : W32) : halves f a t = pair16 g a t := by
  have ha : a.toNat / 65536 % 65536 = a.toNat / 65536 := Nat.mod_eq_of_lt (by omega)
  have ht : t.toNat / 65536 % 65536 = t.toNat / 65536 := Nat.mod_eq_of_lt (by omega)
  rw [halves, pair16, ← h, ← h, signed_sixteen_mod (hlt _ _), signed_sixteen_mod (hlt _ _), ha, ht, Nat.add_comm, Nat.mul_comm 65536]

theorem satAdd_sixteen_lt (a b : Nat) : satAdd 16 a b < 65536 := by
  have hofInt : ∀ x, ofInt 16 x < 65536 := fun x => (BitVec.ofInt 16 x).isLt
  simp only [satAdd]
  split_ifs <;> simp [hofInt]

theorem signed_mod_sixteen (x : Nat) : signed 16 (x % 65536) = signed 16 x := by simp only [signed_sixteen, Nat.mod_mod]

theorem signed_minS (x y : Nat) : signed 16 (minS 16 (x % 65536) (y % 65536)) = min (signed 16 x) (signed 16 y) := by
  simp only [minS, sInt_eq_signed, apply_ite (signed 16), signed_mod_sixteen]
  omega

theorem signed_maxS (x y : Nat) : signed 16 (maxS 16 (x % 65536) (y % 65536)) = max (signed 16 x) (signed 16 y) := by
  simp only [maxS, sInt_eq_signed, apply_ite (signed 16), signed_mod_sixteen]
  omega

theorem minS_lt (x y : Nat) : minS 16 (x % 65536) (y % 65536) < 65536 := by
  unfold minS
  split <;> omega

theorem maxS_lt (x y : Nat) : maxS 16 (x % 65536) (y % 65536) < 65536 := by
  unfold maxS
  split <;> omega

theorem exec_vmov (m : Move) (s : State) : exec (.vmov m) s = execVmov m s := rfl
theorem exec_vadd (m : Move) (s : State) : exec (.vadd m) s = vecInt m s (· + ·) := rfl
theorem exec_vsub (m : Move) (s : State) : exec (.vsub m) s = vecInt m s (· - ·) := rfl
theorem exec_vmul (m : Move) (s : State) : exec (.vmul m) s = vecInt m s (· * ·) := rfl
theorem exec_vmin (m : Move) (s : State) : exec (.vmin m) s = vecInt m s fun a t => if BitVec.slt t a then t else a := rfl
theorem exec_vmax (m : Move) (s : State) : exec (.vmax m) s = vecInt m s fun a t => if BitVec.slt a t then t else a := rfl
theorem exec_vminu (m : Move) (s : State) : exec (.vminu m) s = vecInt m s fun a t => if BitVec.ult t a then t else a := rfl
theorem exec_vmaxu (m : Move) (s : State) : exec (.vmaxu m) s = vecInt m s fun a t => if BitVec.ult a t then t else a := rfl
theorem exec_vand (m : Move) (s : State) : exec (.vand m) s = vecInt m s (· &&& ·) := rfl
theorem exec_vor (m : Move) (s : State) : exec (.vor m) s = vecInt m s (· ||| ·) := rfl
theorem exec_vxor (m : Move) (s : State) : exec (.vxor m) s = vecInt m s (· ^^^ ·) := rfl
theorem exec_vshl (m : Move) (s : State) : exec (.vshl m) s = vecInt m s fun a t => a <<< sh5 t := rfl
theorem exec_vshr (m : Move) (s : State) : exec (.vshr m) s = vecInt m s fun a t => a >>> sh5 t := rfl
theorem exec_vsar (m : Move) (s : State) : exec (.vsar m) s = vecInt m s fun a t => a.sshiftRight (sh5 t) := rfl
theorem exec_vadds16 (m : Move) (s : State) : exec (.vadds16 m) s = vecInt m s (halves (satAdd 16)) := rfl
theorem exec_vmin16 (m : Move) (s : State) : exec (.vmin16 m) s = vecInt m s (halves (minS 16)) := rfl
theorem exec_vmax16 (m : Move) (s : State) : exec (.vmax16 m) s = vecInt m s (halves (maxS 16)) := rfl

/-- Every row of the table is the one integer shape: vmov by the lanes of its operand, the others by the value of a lane. -/
theorem laneForm_exec {i : Instr} {m : Move} {f : W32 → W32 → W32} (s : State) (hi : laneForm i = some (m, f)) : exec i s = vecInt m s f := by
  have row {g : W32 → W32 → W32} (h : ∀ a t, g a t = f a t) : vecInt m s g = vecInt m s f := congrArg (vecInt m s) (funext₂ h)
  unfold laneForm at hi
  split at hi <;> cases hi
  · exact (exec_vmov ..).trans (congrArg (vectorTrigger 6 m s) (funext fun t => congrArg (s.vectorResult 6 2) (vgen_lane t).symm))
  · exact (exec_vadd ..).trans (row lane_add)
  · exact (exec_vsub ..).trans (row sub_eq_ofInt)
  · exact (exec_vmul ..).trans (row lane_mul)
  · exact (exec_vmin ..).trans (row lane_min)
  · exact (exec_vmax ..).trans (row lane_max)
  · exact (exec_vminu ..).trans (row lane_minu)
  · exact (exec_vmaxu ..).trans (row lane_maxu)
  · exact exec_vand ..
  · exact exec_vor ..
  · exact exec_vxor ..
  · exact (exec_vshl ..).trans (row lane_shl)
  · exact (exec_vshr ..).trans (row lane_shr)
  · exact (exec_vsar ..).trans (row lane_sar)
  · exact (exec_vadds16 ..).trans (row (halves_eq_pair16 (fun _ _ => satAdd_sixteen_lt _ _) signed_satAdd_sixteen))
  · exact (exec_vmin16 ..).trans (row (halves_eq_pair16 minS_lt signed_minS))
  · exact (exec_vmax16 ..).trans (row (halves_eq_pair16 maxS_lt signed_maxS))

/-- Settles O5: every operation is the one integer shape, with its table row in each lane. -/
theorem laneResults : Obligations.LaneResults := by
  unfold Obligations.LaneResults
  intro i m f s hi h hr
  rw [laneForm_exec s hi]
  exact vectorTrigger_acts h (vectorResult_room (by decide) hr)

/-! ## Floating lanes (R246, R248 to R250, R253) -/

/-- Lanes with flags: the vector of their values and the flags of all. -/
theorem lanesF_eq (f : Nat → FRes) : lanesF f = (vgen fun l => BitVec.ofNat 32 (f l).1, laneFlags f) := by
  simp only [lanesF, vgen, laneFlags, List.map_map, List.foldl_map]
  rfl

/-- A trigger that delivers lanes with their flags. -/
theorem lanesF_acts {lat : Nat} (hl : 0 < lat) {m : Move} {s : State} {f : VReg → Nat → FRes} (h : Fires s .vector true m)
    (hr : Room s 1) : vectorFmtTrigger 6 m s (fun t => let (v, fl) := lanesF (f t); s.vectorResult 6 lat v fl) =
      .next (s.sentVector 6 lat (vgen fun l => BitVec.ofNat 32 (f (s.voperand m) l).1) (laneFlags (f (s.voperand m)))) := by
  refine vectorFmtTrigger_acts h ?_
  rw [lanesF_eq]
  exact vectorResult_room hl hr

theorem exec_vfadd (m : Move) (s : State) : exec (.vfadd m) s = vecFloat 4 m s fun f a _ t => fpAdd (fmtRM f) (fmtFTZ f) a t := rfl
theorem exec_vfsub (m : Move) (s : State) : exec (.vfsub m) s = vecFloat 4 m s fun f a _ t => fpSub (fmtRM f) (fmtFTZ f) a t := rfl
theorem exec_vfmul (m : Move) (s : State) : exec (.vfmul m) s = vecFloat 4 m s fun f a _ t => fpMul (fmtRM f) (fmtFTZ f) a t := rfl
theorem exec_vffma (m : Move) (s : State) : exec (.vffma m) s = vecFloat 4 m s fun f a b t => fpFma (fmtRM f) (fmtFTZ f) a t b := rfl
theorem exec_vfmin (m : Move) (s : State) : exec (.vfmin m) s = vecFloat 4 m s fun f a _ t => fpMinMax false (fmtFTZ f) a t := rfl
theorem exec_vfmax (m : Move) (s : State) : exec (.vfmax m) s = vecFloat 4 m s fun f a _ t => fpMinMax true (fmtFTZ f) a t := rfl
theorem exec_vfexp2 (m : Move) (s : State) : exec (.vfexp2 m) s = vecFloat 8 m s fun f _ _ t => exp2Lane (fmtFTZ f) t := rfl
theorem exec_vflog2 (m : Move) (s : State) : exec (.vflog2 m) s = vecFloat 8 m s fun f _ _ t => log2Lane (fmtFTZ f) t := rfl
theorem exec_vfrcp (m : Move) (s : State) : exec (.vfrcp m) s = vecFloat 8 m s fun f _ _ t => rcpLane (fmtFTZ f) t := rfl
theorem exec_vfrsqrt (m : Move) (s : State) : exec (.vfrsqrt m) s = vecFloat 8 m s fun f _ _ t => rsqrtLane (fmtFTZ f) t := rfl

/-- Settles O6: every row is the one floating shape. -/
theorem floatLaneResults : Obligations.FloatLaneResults := by
  unfold Obligations.FloatLaneResults
  intro i m lat f s hi h hr
  unfold floatForm at hi
  split at hi <;> cases hi <;>
    simp only [exec_vfadd, exec_vfsub, exec_vfmul, exec_vffma, exec_vfmin, exec_vfmax, exec_vfexp2, exec_vflog2, exec_vfrcp, exec_vfrsqrt] <;>
    exact lanesF_acts (by decide) h hr

/-- A vector trigger with FMT whose body ends in a precise fault stops with it. -/
theorem vectorFmtTrigger_stops {unit : Nat} {m : Move} {s : State} {body : VReg → Except Exc State} {c : Cause} {reason faddr finfo : Nat}
    (hl : m.src.bad .vector = none) (hg : s.core.guardPass m.guard = true) (hb : body (s.voperand m) = .error (.fault c reason faddr finfo)) :
    ∃ t, vectorFmtTrigger unit m s body = .next t ∧ StopsWith s t c reason faddr finfo :=
  ⟨_, slotMove_takes hl hg hb, take_fault_stops s c reason faddr finfo unit⟩

/-- A conversion by a type code: it delivers its lanes where the code is allowed, and stops with VFMT where it is not. -/
def ConvertsBy (o : Out) (m : Move) (s : State) (ok : Bool) (r : Nat → FRes) : Prop :=
  (Fires s .vector true m → Room s 1 → ok = true →
    o = .next (s.sentVector 6 4 (vgen fun l => BitVec.ofNat 32 (r l).1) (laneFlags r))) ∧
  (m.src.bad .vector = none → s.core.guardPass m.guard = true → ok = false → ∃ t, o = .next t ∧ StopsWith s t .vfmt 0 0 0)

theorem convertsBy_trigger {code ok : Bool} (hok : code = ok) {m : Move} {s : State} {f : VReg → Nat → FRes} :
    ConvertsBy (vectorFmtTrigger 6 m s fun t =>
      if code then let (v, fl) := lanesF (f t); s.vectorResult 6 4 v fl else .error (.of .vfmt)) m s ok (f (s.voperand m)) := by
  subst hok
  constructor
  · rintro h hr rfl
    exact lanesF_acts (by decide) h hr
  · rintro hl hg rfl
    exact vectorFmtTrigger_stops hl hg rfl

theorem cvtCode_eq (t : Nat) : cvtCode t = decide (t ∈ [6, 7, 8, 9, 10]) := by
  simp only [cvtCode, ← Bool.decide_and, List.mem_cons, List.not_mem_nil, or_false, decide_eq_decide]
  omega

theorem packCode_eq (t : Nat) : packCode t = decide (t ∈ [1, 2, 3, 4, 5, 6, 7, 8, 10]) := by
  simp only [packCode, beq_eq_decide, ← Bool.decide_and, ← Bool.decide_or, List.mem_cons, List.not_mem_nil, or_false, decide_eq_decide]
  omega

theorem vcvtf_converts (m : Move) (s : State) : ConvertsBy (exec (.vcvtf m) s) m s (decide (fmtAT s.core.fmt ∈ [6, 7, 8, 9, 10]))
    fun l => cvtfLane s.core.fmt (lane (s.voperand m) l).toNat :=
  convertsBy_trigger (f := fun t l => cvtfLane s.core.fmt (laneN t l)) (cvtCode_eq _)

theorem vcvti_converts (m : Move) (s : State) : ConvertsBy (exec (.vcvti m) s) m s (decide (fmtBT s.core.fmt ∈ [6, 7, 8, 9, 10]))
    fun l => cvtiLane s.core.fmt (lane (s.voperand m) l).toNat :=
  convertsBy_trigger (f := fun t l => cvtiLane s.core.fmt (laneN t l)) (cvtCode_eq _)

theorem vunpack_converts (m : Move) (s : State) :
    ConvertsBy (exec (.vunpack m) s) m s (decide (fmtAT s.core.fmt ∈ [1, 2, 3, 4, 5, 6, 7, 8, 10]))
      (unpackLane s.core.fmt (s.core.port 6 3) (s.voperand m)) :=
  convertsBy_trigger (f := unpackLane s.core.fmt (s.core.port 6 3)) (packCode_eq _)

/-- Settles O7: the three conversions, each by its type code. -/
theorem conversionResults : Obligations.ConversionResults := by
  unfold Obligations.ConversionResults
  intro i m ok f s hi
  unfold convForm at hi
  split at hi <;> cases hi
  · exact vcvtf_converts m s
  · exact vcvti_converts m s
  · exact vunpack_converts m s

/-! ## Packing (R251, R252) -/

/-- Packed elements as the sum of their places. -/
theorem packBits_eq_sum (w : Nat) (l : List Nat) :
    packBits w l = ((List.range l.length).map fun j => l.getD j 0 % 2 ^ w * (2 ^ w) ^ j).sum := by
  induction l with
  | nil => rfl
  | cons x l ih =>
    rw [packBits, ih, List.length_cons, List.range_succ_eq_map, List.map_cons, List.sum_cons, List.map_map, ← List.sum_map_mul_left]
    simp only [List.getD_cons_zero, pow_zero, mul_one]
    congr 3
    funext j
    simp only [Function.comp_apply, List.getD_cons_succ, Nat.succ_eq_add_one, pow_succ]
    ring

/-- vpack chooses a scale for each of its four blocks, or none at all (R252). -/
theorem packAll_scales {f : W32} {a t : VReg} {sc : List Nat} (h : (packAll f a t).2 = some sc) : sc.length = 4 := by
  unfold packAll at h
  dsimp only at h
  split at h
  · cases h
    simp
  · cases h

theorem exec_vpack (m : Move) (s : State) : exec (.vpack m) s = execVpack m s := rfl

/-- Settles O8: the elements and their flags, with VPSCALE beside them where scales are chosen. -/
theorem packResult : Obligations.PackResult := by
  unfold Obligations.PackResult
  intro m s h hbt p result vpscale hr
  have hcode : packCode (fmtBT s.core.fmt) = true := by rw [packCode_eq]; exact decide_eq_true hbt
  refine (exec_vpack m s).trans (vectorFmtTrigger_acts h ?_)
  rw [if_pos hcode]
  change (match p.2 with
    | none => s.vectorResult 6 4 (packVec s.core.fmt (s.core.vport 6 2) (s.core.port 6 3) p.1) result.2.2
    | some sc => s.issue 6 [result, (4, .csr 0x013 (BitVec.ofNat 64 (packBits 8 sc)), 0)]) = _
  cases hp : p.2 with
  | none =>
    rw [hp] at hr
    exact vectorResult_room (by decide) hr
  | some sc =>
    rw [hp] at hr
    have hlen := packAll_scales hp
    have hscales : vpscale sc = BitVec.ofNat 64 (packBits 8 sc) := by rw [packBits_eq_sum, hlen]; rfl
    dsimp only
    rw [← hscales]
    exact issue_room hr

/-! ## Compares (R254) -/

/-- A mask holds bit l of its function. -/
theorem testBit_packBits_one (bs : List Bool) (i : Nat) : (packBits 1 (bs.map b2n)).testBit i = bs.getD i false := by
  induction bs generalizing i with
  | nil => simp [packBits]
  | cons b bs ih =>
    have hcons : packBits 1 ((b :: bs).map b2n) = b2n b + 2 * packBits 1 (bs.map b2n) := by cases b <;> rfl
    cases i with
    | zero => rw [hcons, Nat.testBit_zero, List.getD_cons_zero]; cases b <;> simp [b2n]
    | succ i =>
      rw [hcons, Nat.testBit_succ, List.getD_cons_succ, ← ih]
      congr 1
      cases b <;> simp [b2n]
      omega

theorem getLsbD_mask (p : Nat → Bool) {l : Nat} (hl : l < 64) :
    (BitVec.ofNat 64 (packBits 1 ((List.range 64).map fun l => b2n (p l)))).getLsbD l = p l := by
  have h := testBit_packBits_one ((List.range 64).map p) l
  rw [List.map_map] at h
  rw [BitVec.getLsbD_ofNat, decide_eq_true hl, Bool.true_and]
  refine h.trans ?_
  simp [hl]

/-- A compare delivers to the scalar queue alone a mask with bit l for lane l. -/
def DeliversMask (o : Out) (s : State) (lat : Nat) (p : Nat → Bool) (fl : BitVec 7) : Prop :=
  ∃ r : W64, (∀ l < 64, r.getLsbD l = p l) ∧ o = .next (s.sentQueue 6 lat r fl)

section Compares

variable {m : Move} {s : State} (hr : Room s 1)
include hr

theorem vecCmp_acts {q p : W32 → W32 → Bool} (hqp : ∀ a t, q a t = p a t) (h : Fires s .vector false m) :
    DeliversMask (vecCmp m s q) s 2 (fun l => p (lane (s.core.vport 6 1) l) (lane (s.voperand m) l)) 0 := by
  obtain rfl : q = p := funext₂ hqp
  exact ⟨_, fun l => getLsbD_mask _, vectorTrigger_acts h (queueResult_room (by decide) hr)⟩

theorem vecFcmp_acts {kind : Nat} (h : Fires s .vector true m) :
    DeliversMask (vecFcmp kind m s) s 4
      (fun l => (fpCmp (fmtFTZ s.core.fmt) kind (lane (s.core.vport 6 1) l).toNat (lane (s.voperand m) l).toNat).1)
      ((List.range 64).foldl (fun acc l =>
        acc ||| (fpCmp (fmtFTZ s.core.fmt) kind (lane (s.core.vport 6 1) l).toNat (lane (s.voperand m) l).toNat).2) 0) := by
  refine ⟨_, fun l => getLsbD_mask _, vectorFmtTrigger_acts h ?_⟩
  dsimp only
  rw [List.map_map, List.foldl_map]
  exact queueResult_room (by decide) hr

end Compares

theorem exec_vcmpeq (m : Move) (s : State) : exec (.vcmpeq m) s = vecCmp m s (· == ·) := rfl
theorem exec_vcmplt (m : Move) (s : State) : exec (.vcmplt m) s = vecCmp m s BitVec.slt := rfl
theorem exec_vcmple (m : Move) (s : State) : exec (.vcmple m) s = vecCmp m s BitVec.sle := rfl
theorem exec_vfcmpeq (m : Move) (s : State) : exec (.vfcmpeq m) s = vecFcmp 0 m s := rfl
theorem exec_vfcmplt (m : Move) (s : State) : exec (.vfcmplt m) s = vecFcmp 1 m s := rfl
theorem exec_vfcmple (m : Move) (s : State) : exec (.vfcmple m) s = vecFcmp 2 m s := rfl

theorem cmpForm_acts {i : Instr} {m : Move} {p : W32 → W32 → Bool} {s : State} (hr : Room s 1) (hi : cmpForm i = some (m, p))
    (h : Fires s .vector false m) :
    DeliversMask (exec i s) s 2 (fun l => p (lane (s.core.vport 6 1) l) (lane (s.voperand m) l)) 0 := by
  unfold cmpForm at hi
  split at hi <;> cases hi
  · exact exec_vcmpeq m s ▸ vecCmp_acts hr (fun _ _ => rfl) h
  · exact exec_vcmplt m s ▸ vecCmp_acts hr (fun _ _ => rfl) h
  · exact exec_vcmple m s ▸ vecCmp_acts hr (fun _ _ => rfl) h

theorem fcmpForm_acts {i : Instr} {m : Move} {p : Bool → Nat → Nat → Bool × BitVec 7} {s : State} (hr : Room s 1)
    (hi : fcmpForm i = some (m, p)) (h : Fires s .vector true m) :
    DeliversMask (exec i s) s 4 (fun l => (p (fmtFTZ s.core.fmt) (lane (s.core.vport 6 1) l).toNat (lane (s.voperand m) l).toNat).1)
      ((List.range 64).foldl (fun acc l =>
        acc ||| (p (fmtFTZ s.core.fmt) (lane (s.core.vport 6 1) l).toNat (lane (s.voperand m) l).toNat).2) 0) := by
  unfold fcmpForm at hi
  split at hi <;> cases hi
  · exact exec_vfcmpeq m s ▸ vecFcmp_acts hr h
  · exact exec_vfcmplt m s ▸ vecFcmp_acts hr h
  · exact exec_vfcmple m s ▸ vecFcmp_acts hr h

/-- Settles O9: the integer compares, then the floating ones with the flags of their lanes. -/
theorem compareMasks : Obligations.CompareMasks := by
  unfold Obligations.CompareMasks
  exact fun i m s hr => ⟨fun p => cmpForm_acts hr, fun p => fcmpForm_acts hr⟩

/-! ## Running sums and the moves of lanes (R254, R256) -/

/-- The sum of the lanes of a list that k lets take part. -/
def maskedSum (k : W64) (t : VReg) (ls : List Nat) : Nat := ((ls.filter fun j => k.getLsbD j).map fun j => (lane t j).toNat).sum

/-- One lane further, the running sum is that of the lanes so far. -/
theorem scanLanes_concat (k : W64) (t : VReg) (ls : List Nat) (l : Nat) (acc : W32) :
    scanLanes k t (ls ++ [l]) acc = scanLanes k t ls acc ++ [acc + BitVec.ofNat 32 (maskedSum k t (ls ++ [l]))] := by
  induction ls generalizing acc with
  | nil => cases hk : k.getLsbD l <;> simp [scanLanes, maskedSum, hk]
  | cons j ls ih =>
    rw [List.cons_append, scanLanes, ih, scanLanes, List.cons_append]
    cases hk : k.getLsbD j <;> simp [maskedSum, hk, BitVec.ofNat_add, BitVec.add_assoc]

theorem scanLanes_range (k : W64) (t : VReg) (n : Nat) :
    scanLanes k t (List.range n) 0 = (List.range n).map fun l => BitVec.ofNat 32 (maskedSum k t (List.range (l + 1))) := by
  induction n with
  | zero => rfl
  | succ n ih => rw [List.range_succ, scanLanes_concat, ih, List.map_append, List.map_singleton, List.range_succ, zero_add]

theorem exec_vsel (m : Move) (s : State) : exec (.vsel m) s = execVsel m s := rfl
theorem exec_vperm (m : Move) (s : State) : exec (.vperm m) s = execVperm m s := rfl
theorem exec_vscan (m : Move) (s : State) : exec (.vscan m) s = execVscan m s := rfl
theorem exec_vbcast (m : Move) (s : State) : exec (.vbcast m) s = execVbcast m s := rfl
theorem exec_vins (m : Move) (s : State) : exec (.vins m) s = execVins m s := rfl
theorem exec_vextr (m : Move) (s : State) : exec (.vextr m) s = execVextr m s := rfl
theorem exec_vmand (m : Move) (s : State) : exec (.vmand m) s = vecMask m s (· &&& ·) := rfl
theorem exec_vmor (m : Move) (s : State) : exec (.vmor m) s = vecMask m s (· ||| ·) := rfl
theorem exec_vmnot (m : Move) (s : State) : exec (.vmnot m) s = vecMask m s fun _ t => ~~~t := rfl
theorem exec_vmpopc (m : Move) (s : State) : exec (.vmpopc m) s = vecMask m s fun _ t => BitVec.ofNat 64 (popcount t.toNat 64) := rfl

section Moves

variable {i : Instr} {m : Move} {s : State} (hr : Room s 1)
include hr

theorem vscan_acts (h : Fires s .vector false m) : execVscan m s = .next (s.sentVector 6 6 (vgen fun l =>
    BitVec.ofNat 32 (maskedSum (s.core.port 6 3) (s.voperand m) (List.range (l + 1))))) := by
  refine vectorTrigger_acts h ?_
  rw [scanLanes_range]
  exact vectorResult_room (by decide) hr

theorem moveForm_acts {lat : Nat} {f : VReg → W64 → VReg → Nat → W32} (hi : moveForm i = some (m, lat, f)) (h : Fires s .vector false m) :
    exec i s = .next (s.sentVector 6 lat (vgen (f (s.core.vport 6 1) (s.core.port 6 3) (s.voperand m)))) := by
  unfold moveForm at hi
  split at hi <;> cases hi
  · exact (exec_vsel m s).trans (vectorTrigger_acts h (vectorResult_room (by decide) hr))
  · exact (exec_vperm m s).trans (vectorTrigger_acts h (vectorResult_room (by decide) hr))
  · exact (exec_vscan m s).trans (vscan_acts hr h)

theorem spreadForm_acts {f : VReg → W64 → W64 → Nat → W32} (hi : spreadForm i = some (m, f)) (h : Fires s .scalar false m) :
    exec i s = .next (s.sentVector 6 2 (vgen (f (s.core.vport 6 1) (s.core.port 6 3) (s.operand m)))) := by
  unfold spreadForm at hi
  split at hi <;> cases hi
  · exact (exec_vbcast m s).trans (scalarTrigger_acts h (vectorResult_room (by decide) hr))
  · exact (exec_vins m s).trans (scalarTrigger_acts h (vectorResult_room (by decide) hr))

theorem vecMask_acts (f : W64 → W64 → W64) (h : Fires s .scalar false m) :
    vecMask m s f = .next (s.sentQueue 6 2 (f (s.core.port 6 3) (s.operand m))) :=
  scalarTrigger_acts h (queueResult_room (by decide) hr)

theorem maskForm_acts {f : W64 → W64 → W64} (hi : maskForm i = some (m, f)) (h : Fires s .scalar false m) :
    exec i s = .next (s.sentQueue 6 2 (f (s.core.port 6 3) (s.operand m))) := by
  unfold maskForm at hi
  split at hi <;> cases hi
  · exact (exec_vmand m s).trans (vecMask_acts hr _ h)
  · exact (exec_vmor m s).trans (vecMask_acts hr _ h)
  · exact (exec_vmnot m s).trans (vecMask_acts hr _ h)
  · exact (exec_vmpopc m s).trans ((vecMask_acts hr _ h).trans (by rw [popcount_eq]; rfl))

theorem vextr_acts (h : Fires s .scalar false m) :
    execVextr m s = .next (s.sentQueue 6 2 ((lane (s.core.vport 6 1) ((s.operand m).toNat % 64)).setWidth 64)) :=
  scalarTrigger_acts h (queueResult_room (by decide) hr)

end Moves

/-- Settles O11: the moves by their trigger, the operations on masks, and vextr. -/
theorem laneMoves : Obligations.LaneMoves := by
  unfold Obligations.LaneMoves
  intro i m s hr
  refine ⟨fun lat f => moveForm_acts hr, fun f => spreadForm_acts hr, fun f => maskForm_acts hr, ?_⟩
  rintro rfl h
  exact (exec_vextr m s).trans (vextr_acts hr h)

end Sys2Proof.Machine

/-! PROOF. KLN: kzero, kdrain, kring, kstart and kpop at issue, and the pass that a kstart describes (R283 to R289). -/

namespace Sys2Proof.Machine
open Sys2Proof.Manual

/-! ## Fields of a descriptor's word -/

theorem bits_eq_fld (x hi lo : Nat) : bits x hi lo = fld x hi lo := rfl

theorem bit_of_bits {x i : Nat} (h : bits x i i = 1) : bit x i = true := (bit_eq_bits x i).trans (decide_eq_true h)

theorem bit_of_bits_zero {x i : Nat} (h : bits x i i = 0) : bit x i = false := (bit_eq_bits x i).trans (decide_eq_false (h.trans_ne Nat.zero_ne_one))

section Commands

variable {m : Move} {s : State} {d : Desc}

/-- A command of the Kiln with its row booked and its own checks passed is entered under the next number. -/
theorem klnCommit_booked {t : W64} {port : Nat} {masks : List Nat} (hr : Reads s 9 port masks t d) (he : Enters s d (KilnRoom s)) :
    (s.booked 9 0 0 false [t.toNat]).klnCommit d = .ok ((s.booked 9 0 0 false [t.toNat]).onEng fun e => { e with nid := e.nid + 1 }) :=
  klnCommit_enters (s := s.booked 9 0 0 false [t.toNat]) (descStart_of_reads hr) ⟨he.pins, he.lead, he.room⟩

/-! ## kzero and kdrain (R286, R287) -/

/-- A quadrant is named where the array runs split, and no field for one elsewhere (R287). -/
theorem zeroQuad_legal {w flow : Nat} {quad : Option Nat}
    (h : bits w 5 5 = 0 ∧ bits w 4 3 = 0 ∧ quad = none ∨ bits w 5 5 = 1 ∧ flow = 4 ∧ quad = some (bits w 4 3)) :
    quadBad (bit w 5) (fld w 4 3) (flow == 4) = false ∧ (if bit w 5 then some (fld w 4 3) else none) = quad := by
  obtain ⟨hqen, hzero, rfl⟩ | ⟨hqen, rfl, rfl⟩ := h
  · simp [quadBad, bit_of_bits_zero hqen, ← bits_eq_fld, hzero]
  · simp [quadBad, bit_of_bits hqen, ← bits_eq_fld]

theorem kzeroOf_legal {st : Nat} {quad : Option Nat}
    (h : bits (dword d 1) 5 5 = 0 ∧ bits (dword d 1) 4 3 = 0 ∧ quad = none ∨
      bits (dword d 1) 5 5 = 1 ∧ (s.core.eng.kiln.activeAt none st).flow = 4 ∧ quad = some (bits (dword d 1) 4 3)) :
    s.kzeroOf d st = .ok fun u => u.onKiln fun k => { k with zeros := k.zeros ++ [⟨u.core.eng.nid, st, bits (dword d 1) 2 0, quad⟩] } := by
  obtain ⟨hlegal, hquad⟩ := zeroQuad_legal h
  have hbad : quadBad (bit (dword d 1) 5) (fld (dword d 1) 4 3) ((s.kiln.activeAt none st).flow == 4) = false := hlegal
  simp only [State.kzeroOf, hbad, hquad, Bool.not_false, must_true, ok_bind]
  rfl

theorem kzero_acts {quad : Option Nat} (hf : Fires s .scalar true m) (he : Enters s d (KilnRoom s))
    (hr : Reads s 9 13 kzeroMasks (s.operand m) d)
    (h : bits (dword d 1) 5 5 = 0 ∧ bits (dword d 1) 4 3 = 0 ∧ quad = none ∨
      bits (dword d 1) 5 5 = 1 ∧ (s.core.eng.kiln.activeAt none (startAt s d)).flow = 4 ∧ quad = some (bits (dword d 1) 4 3)) :
    execKzero m s = .next (commanded s 9 (s.operand m) fun e =>
      { e with kiln := { e.kiln with zeros := e.kiln.zeros ++ [⟨e.nid, startAt s d, bits (dword d 1) 2 0, quad⟩] } }) := by
  refine klnTrigger_acts hf ?_
  rw [readDesc_reads hr (by decide), ok_bind]
  simp only [startTcc_eq (descStart_of_reads hr), kzeroOf_legal (s := s.booked 9 0 0 false [(s.operand m).toNat]) h, ok_bind,
    klnCommit_booked hr he]
  rfl

/-- The types that a kdrain converts between (R286). -/
theorem drainTypes_legal {sty dt : Nat} (h : sty = 0 ∧ dt ≤ 5 ∨ sty ∈ [8, 9, 10, 15] ∧ dt = sty) :
    ((sty == 0 && dt ≤ 5) || ([8, 9, 10, 15].contains sty && dt == sty)) = true := by
  obtain ⟨rfl, hle⟩ | ⟨hin, rfl⟩ := h
  · simp [hle]
  · simp [hin]

/-- What a kdrain asks of its fields besides its quadrant (R286): types, alignment, a row for each line, and every row in its store. -/
structure DrainFields (s : State) (w n : Nat) : Prop where
  types : fld w 11 8 = 0 ∧ fld w 15 12 ≤ 5 ∨ fld w 11 8 ∈ [8, 9, 10, 15] ∧ fld w 15 12 = fld w 11 8
  off : fld w 39 16 % 64 = 0
  rstr : fld w 55 40 % 64 = 0
  row : n * drainBytes (fld w 15 12) ≤ fld w 55 40
  foot : ∀ i < n, inFootprint s.core.task (fld w 1 1) (fld w 39 16 + i * fld w 55 40) (n * drainBytes (fld w 15 12)) = true

/-- The footprint of the store that a bit names. -/
theorem inFootprint_bit (t : Task) (w i off len : Nat) :
    inFootprint t (bits w i i) off len = if bit w i then t.accOk off len else t.spOk off len := by
  have hlt : bits w i i < 2 := by
    rw [bits, show i + 1 - i = 1 by omega]
    exact Nat.mod_lt _ (by decide)
  rw [inFootprint, bit_eq_bits]
  rcases (show bits w i i = 0 ∨ bits w i i = 1 by omega) with h | h <;> simp [h]

theorem kdrainOf_legal {st n : Nat} {quad : Option Nat}
    (hq : (s.core.eng.kiln.activeAt none st).flow = 4 ∧ n = 32 ∧ quad = some (fld (dword d 1) 3 2) ∨
      ¬ (s.core.eng.kiln.activeAt none st).flow = 4 ∧ n = 64 ∧ fld (dword d 1) 3 2 = 0 ∧ quad = none)
    (h : DrainFields s (dword d 1) n) :
    s.kdrainOf d st = .ok fun u => u.onKiln fun k => { k with drains := k.drains ++
      [⟨u.core.eng.nid, st, bit (dword d 1) 0, bit (dword d 1) 1, quad, fld (dword d 1) 11 8, fld (dword d 1) 15 12, fld (dword d 1) 39 16,
        fld (dword d 1) 55 40, s.core.fmt, s.core.here 9, []⟩] } := by
  have hfoot : ((List.range n).all fun i =>
      if bit (dword d 1) 1 then s.core.task.accOk (fld (dword d 1) 39 16 + i * fld (dword d 1) 55 40) (n * drainBytes (fld (dword d 1) 15 12))
      else s.core.task.spOk (fld (dword d 1) 39 16 + i * fld (dword d 1) 55 40) (n * drainBytes (fld (dword d 1) 15 12))) = true :=
    List.all_eq_true.mpr fun i hi => (inFootprint_bit ..).symm.trans (h.foot i (List.mem_range.mp hi))
  have htypes := drainTypes_legal h.types
  have hrow := h.row
  obtain ⟨hflow, rfl, rfl⟩ | ⟨hflow, rfl, hzero, rfl⟩ := hq
  · simp only [State.kdrainOf, State.kiln, hflow, htypes, h.off, h.rstr, hrow, hfoot, beq_self_eq_true, Bool.true_or, Bool.and_self,
      decide_true, if_true, must_true, ok_bind]
    rfl
  · simp only [State.kdrainOf, State.kiln, beq_eq_false_iff_ne.mpr hflow, htypes, hzero, h.off, h.rstr, hrow, hfoot, beq_self_eq_true,
      Bool.false_or, Bool.and_self, decide_true, Bool.false_eq_true, if_false, must_true, ok_bind]
    rfl

theorem kdrain_acts {n : Nat} {quad : Option Nat} (hf : Fires s .scalar true m) (he : Enters s d (KilnRoom s))
    (hr : Reads s 9 12 kdrainMasks (s.operand m) d)
    (hq : (s.core.eng.kiln.activeAt none (startAt s d)).flow = 4 ∧ n = 32 ∧ quad = some (fld (dword d 1) 3 2) ∨
      ¬ (s.core.eng.kiln.activeAt none (startAt s d)).flow = 4 ∧ n = 64 ∧ fld (dword d 1) 3 2 = 0 ∧ quad = none)
    (h : DrainFields s (dword d 1) n) :
    execKdrain m s = .next (commanded s 9 (s.operand m) fun e => { e with kiln := { e.kiln with drains := e.kiln.drains ++
      [⟨e.nid, startAt s d, bit (dword d 1) 0, bit (dword d 1) 1, quad, fld (dword d 1) 11 8,
        fld (dword d 1) 15 12, fld (dword d 1) 39 16, fld (dword d 1) 55 40, s.core.fmt, s.core.here 9, []⟩] } }) := by
  have hfields : DrainFields (s.booked 9 0 0 false [(s.operand m).toNat]) (dword d 1) n := ⟨h.types, h.off, h.rstr, h.row, h.foot⟩
  refine klnTrigger_acts hf ?_
  rw [readDesc_reads hr (by decide), ok_bind]
  simp only [startTcc_eq (descStart_of_reads hr), kdrainOf_legal (s := s.booked 9 0 0 false [(s.operand m).toNat]) hq hfields, ok_bind,
    klnCommit_booked hr he]
  rfl

/-! ## kring, kpop and kstart (R283, R288, R289) -/

/-- The ring that a kring sets up, or the free ring. -/
def ringOf (w : Nat) : Ring :=
  if bits w 3 3 = 1 then ⟨true, bits w 5 4, bits w 15 6 + 1, bits w 23 16 + 1, bits w 47 24, 0, 0, 0, []⟩ else .none

/-- A kring meets no copy into its ring that is unfinished at its START (R288, log 82). -/
theorem noFilling_of_bound {copies : List Copy} {n st die : Nat}
    (h : ∀ c ∈ copies, ∀ pos, c.dst = .ring n pos → c.count ≤ c.written ∨ c.lastBound die ≤ st) :
    (copies.any fun c => c.fills n && c.written < c.count && st < c.lastBound die) = false := by
  refine List.any_eq_false.mpr fun c hc => ?_
  cases hdst : c.dst with
  | addr dst stride => simp [Copy.fills, hdst]
  | ring r pos =>
    by_cases hrn : r = n
    · have hfree := h c hc pos (hrn ▸ hdst)
      simp only [Copy.fills, hdst, hrn, beq_self_eq_true, Bool.true_and, Bool.and_eq_true, decide_eq_true_eq]
      omega
    · simp [Copy.fills, hdst, hrn]

theorem kring_acts (hf : Fires s .scalar true m) (he : Enters s d (KilnRoom s))
    (hr : Reads s 9 15 [2 ^ 48 - 1, 0, 0, 0, 0, 0, 0] (s.operand m) d) (hfeed : bits (dword d 1) 5 4 ≠ 3)
    (hbase : bits (dword d 1) 47 24 % 64 = 0)
    (hfoot : bits (dword d 1) 3 3 = 1 →
      s.core.task.spOk (bits (dword d 1) 47 24) ((bits (dword d 1) 23 16 + 1) * (bits (dword d 1) 15 6 + 1) * 64) = true)
    (hbusy : s.core.eng.kiln.ringBusy (bits (dword d 1) 2 0) (startAt s d) = false)
    (hcopies : ∀ c ∈ s.core.eng.copies, ∀ pos, c.dst = .ring (bits (dword d 1) 2 0) pos →
      c.count ≤ c.written ∨ c.lastBound (coreDie s.focus) ≤ startAt s d) :
    execKring m s = .next (commanded s 9 (s.operand m) fun e => { e with kiln := { e.kiln with krings := e.kiln.krings ++
      [⟨s.core.eng.nid, startAt s d, bits (dword d 1) 2 0, ringOf (dword d 1)⟩] } }) := by
  have hpass : (!bit (dword d 1) 3 ||
      s.core.task.spOk (bits (dword d 1) 47 24) ((bits (dword d 1) 23 16 + 1) * (bits (dword d 1) 15 6 + 1) * 64)) = true := by
    rw [bit_eq_bits]
    by_cases hv : bits (dword d 1) 3 3 = 1 <;> simp [hv, hfoot]
  have hring : (if bit (dword d 1) 3 = true then
      ({ Ring.none with v := true, feed := bits (dword d 1) 5 4, tileU := bits (dword d 1) 15 6 + 1, slots := bits (dword d 1) 23 16 + 1, base := bits (dword d 1) 47 24 } : Ring)
      else .none) = ringOf (dword d 1) := by
    rw [bit_eq_bits, ringOf]
    simp only [decide_eq_true_eq]
    rfl
  have hcommit := klnCommit_booked hr he
  refine klnTrigger_acts hf ?_
  rw [readDesc_reads hr (by decide), ok_bind]
  simp only [← bits_eq_fld, bne_iff_ne.mpr hfeed, hbase, hpass, hring, State.kiln, startTcc_eq (descStart_of_reads hr), hbusy, noFilling_of_bound hcopies, hcommit,
    beq_self_eq_true, Bool.or_self, Bool.and_self, Bool.not_false, must_true, ok_bind]
  rfl

theorem kstart_acts (hf : Fires s .scalar true m) (he : Enters s d (KilnRoom s)) (hr : Reads s 9 11 kstartMasks (s.operand m) d)
    (hbad : s.passBad d (s.mkPass d (startAt s d)) = none) :
    execKstart m s = .next (commanded s 9 (s.operand m) fun e => { e with kiln := { e.kiln with
      passes := e.kiln.passes ++ [{ s.mkPass d (startAt s d) with id := e.nid }]
      ends := s.core.eng.kiln.endsAfter (s.mkPass d (startAt s d)) } }) := by
  have hcommit := klnCommit_booked hr he
  have hok : (s.booked 9 0 0 false [(s.operand m).toNat]).passBad d
      ((s.booked 9 0 0 false [(s.operand m).toNat]).mkPass d (startAt s d)) = none := hbad
  refine klnTrigger_acts hf ?_
  rw [readDesc_reads hr (by decide), ok_bind]
  simp only [State.kstartOf, startTcc_eq (descStart_of_reads hr), hok, hcommit, ok_bind]
  rfl

/-- The value of a kpop by its fields (R289). -/
theorem kpop_fields {n cnt : Nat} (hn : n < 8) (hc : cnt ≤ 256) :
    fld (cnt * 65536 + n) 2 0 = n ∧ fld (cnt * 65536 + n) 24 16 = cnt := by
  simp only [fld, Nat.pow_zero, Nat.div_one, Nat.reduceAdd, Nat.reduceSub, Nat.reducePow]
  omega

theorem kpop_acts {n cnt : Nat} (hf : Fires s .scalar true m) (hv : (s.operand m).toNat = cnt * 65536 + n) (hn : n < 8) (hlo : 1 ≤ cnt)
    (hhi : cnt ≤ 256) (hring : (s.core.ring n).v = true) (hcnt : cnt ≤ ((s.core.ring n).tail - (s.core.ring n).head).toNat)
    (hbusy : s.core.eng.kiln.ringBusy n s.core.tcc = false) (hroom : inFlight s.core.tcc s.core.pend ≤ 48) :
    execKpop m s = .next (s.sent 9 [(1, .ringHead (BitVec.ofNat 3 n) cnt, 0)]) := by
  obtain ⟨hnum, hcount⟩ := kpop_fields hn hhi
  refine klnTrigger_acts hf ?_
  simp only [hnum, hcount, hv, hlo, hhi, hring, hcnt, State.kiln, hbusy, beq_self_eq_true, decide_true, Bool.and_self, Bool.not_false,
    must_true, ok_bind]
  exact issue_room (unit := 9) (items := [(1, .ringHead (BitVec.ofNat 3 n) cnt, 0)]) hroom

end Commands

/-- Settles O35: the entry of each command from its fields, and the pending move of HEAD. -/
theorem kilnCommands : Obligations.KilnCommands := by
  unfold Obligations.KilnCommands
  intro m s d hf t w k st split
  refine ⟨fun he => ⟨fun quad hr hq => kzero_acts hf he hr hq, fun n quad row hr hq htypes hrow hoff hrstr hle hfoot => ?drain,
    fun hr hfeed hbase hfoot hbusy hcopies => kring_acts hf he hr hfeed hbase hfoot hbusy hcopies, fun hr hbad => kstart_acts hf he hr hbad⟩,
    fun n cnt hv hn hlo hhi hring hcnt hbusy hroom => kpop_acts hf hv hn hlo hhi hring hcnt hbusy hroom⟩
  case drain =>
    subst hrow
    rw [← bit_eq_bits, ← bit_eq_bits]
    exact kdrain_acts hf he hr hq ⟨htypes, hoff, hrstr, hle, hfoot⟩

/-! ## The pass of a kstart (R283) -/

/-- What a descriptor says of a role: its ring, its declared tiles, whether its data is a stream (R283). -/
def roleOf (d : Desc) (r : Nat) : Role :=
  ⟨r, fld (fld (dword d 2) (8 * r + 7) (8 * r)) 2 0, fld (dword d 3) (8 * r + 7) (8 * r) + 1,
    bit (fld (dword d 2) (8 * r + 7) (8 * r)) 6, none⟩

/-- The roles of a descriptor: those marked USED. -/
theorem mem_descRoles {d : Desc} {x : Role} : x ∈ descRoles d ↔
    x.r < 8 ∧ bit (fld (dword d 2) (8 * x.r + 7) (8 * x.r)) 7 = true ∧ x = roleOf d x.r := by
  simp only [descRoles, List.mem_filterMap, List.mem_range, Option.ite_none_right_eq_some, Option.some.injEq]
  constructor
  · rintro ⟨r, hr, hused, rfl⟩
    exact ⟨hr, hused, rfl⟩
  · rintro ⟨hr, hused, hx⟩
    exact ⟨x.r, hr, hused, hx.symm⟩

/-- A field of eight bits of a word, and its own fields. -/
theorem byte_fields (x r : Nat) : bit (fld x (8 * r + 7) (8 * r)) 7 = decide (bits x (8 * r + 7) (8 * r + 7) = 1) ∧
    fld (fld x (8 * r + 7) (8 * r)) 2 0 = bits x (8 * r + 2) (8 * r) := by
  have hwidth : 8 * r + 7 + 1 - 8 * r = 8 := by omega
  have hbit : 8 * r + 7 + 1 - (8 * r + 7) = 1 := by omega
  have hlow : 8 * r + 2 + 1 - 8 * r = 3 := by omega
  rw [bit_eq_bits, bits, bits, bits, fld, fld, hwidth, hbit, hlow, pow_add, ← Nat.div_div_eq_div_mul]
  constructor
  · exact decide_eq_decide.mpr (by omega)
  · omega

/-- An output-stationary pass of one product a beat, dense and unselected, has a beat for each step of its extent (R120, R283). -/
theorem beatsOf_dense {s : State} {p : Pass} (hflow : p.flow = 0) (hsel : p.sel = 0) (hcnd : p.cnd = false) (hnl : p.nl = 1) :
    s.beatsOf p = p.ext := by
  have hpattern : selPattern p.sel = (1, 1) := by rw [hsel]; rfl
  simp only [State.beatsOf, hpattern, hflow, hcnd, hnl, Bool.false_eq_true, if_false, Nat.div_one, Nat.mul_one, Nat.add_sub_cancel]

section Whole

variable {s : State} {d : Desc} {st : Nat}

/-- Where the whole array runs one flow, a pass meets its configuration (R285). -/
theorem metAt_whole {k : Kiln} (quad : Nat) (h : (k.activeAt none st).flow ≠ 4) : k.metAt quad st = k.activeAt none st := if_neg h

theorem mkPass_flow (h : (s.core.eng.kiln.activeAt none st).flow = 0) : (s.mkPass d st).flow = 0 :=
  (congrArg KCfg.flow (metAt_whole (k := s.core.eng.kiln) _ (by rw [h]; decide))).trans h

theorem mkPass_quad (h : (s.core.eng.kiln.activeAt none st).flow = 0) : (s.mkPass d st).quad = none :=
  if_neg (fun h4 => absurd ((mkPass_flow h).symm.trans h4) (by decide))

theorem mkPass_period (h : (s.core.eng.kiln.activeAt none st).flow = 0) :
    (s.mkPass d st).s = beatPeriod s.core.fmt (fld (dword d 1) 3 0) := by
  have hflow : (s.kiln.metAt (fld (dword d 1) 9 8) st).flow = 0 := mkPass_flow (d := d) h
  change (if ((s.kiln.metAt (fld (dword d 1) 9 8) st).flow = 1 && bit (dword d 1) 7) = true then 1 else _) = _
  simp [hflow]

theorem mem_mkPass_roles {x : Role} : x ∈ (s.mkPass d st).roles ↔ x ∈ descRoles d := Iff.rfl

/-- The role of a number is used when its bit is set. -/
theorem mkPass_uses {r : Nat} (hr : r < 8) :
    (∃ x ∈ (s.mkPass d st).roles, x.r = r) ↔ bits (dword d 2) (8 * r + 7) (8 * r + 7) = 1 := by
  have hbit := (byte_fields (dword d 2) r).1
  constructor
  · rintro ⟨x, hx, rfl⟩
    obtain ⟨-, hused, -⟩ := mem_descRoles.mp (mem_mkPass_roles.mp hx)
    exact of_decide_eq_true (hbit.symm.trans hused)
  · intro hused
    exact ⟨roleOf d r, mem_mkPass_roles.mpr (mem_descRoles.mpr ⟨hr, hbit.trans (decide_eq_true hused), rfl⟩), rfl⟩

theorem mkPass_role {x : Role} (hx : x ∈ (s.mkPass d st).roles) : x.r < 8 ∧ x.ring = bits (dword d 2) (8 * x.r + 2) (8 * x.r) ∧
    x.tiles = bits (dword d 3) (8 * x.r + 7) (8 * x.r) + 1 := by
  obtain ⟨hr, -, heq⟩ := mem_descRoles.mp (mem_mkPass_roles.mp hx)
  exact ⟨hr, (congrArg Role.ring heq).trans (byte_fields _ _).2, congrArg Role.tiles heq⟩

end Whole

/-- Settles O36: the configuration met is an output-stationary one, and the roles are those of the descriptor. -/
theorem passFields : Obligations.PassFields := by
  unfold Obligations.PassFields
  intro s d st p w hflow hsel hcnd hlane
  have hnl : p.nl = 1 := if_neg (Bool.eq_false_iff.mp hlane)
  have hbeats : p.beatN = p.ext :=
    beatsOf_dense (p := { p with beatN := 0 }) (mkPass_flow hflow) hsel (bit_of_bits_zero hcnd) hnl
  have hfresh : p.fresh = true ↔ bits w 4 4 = 1 := by
    change bit w 4 = true ↔ _
    rw [bit_eq_bits, decide_eq_true_eq]
  exact ⟨rfl, rfl, rfl, mkPass_quad hflow, rfl, hbeats, hfresh, mkPass_period hflow, fun r hr => mkPass_uses hr, fun x hx => mkPass_role hx⟩

end Sys2Proof.Machine

/-! PROOF. CPY: cpy, cpyt, cpyf, cfetch, cwp and creset at issue (R274, R276, R290 to R296). -/

namespace Sys2Proof.Machine
open Sys2Proof.Manual

/-! ## Global ranges of a command (R276 to R278, R414) -/

/-- A command whose ranges are covered passes the last steps of R276 when its pins fit, its lead is enough and its queue has room. -/
theorem commitChecks_covered {s : State} {d : Desc} {reads writes : List (Nat × Nat)} {ls : List Leaf} (hst : descStart d = scStart d)
    (hc : Covered s reads writes ls) (hpins : PinsFit s ls) (hlead : Leads s.core.scc.toNat d) :
    s.commitChecks reads writes (descStart d) true = .ok ls := by
  obtain ⟨l1, l2, hread, hwrite, rfl⟩ := hc
  have hp : s.core.pinRoom (l1 ++ l2) = true := decide_eq_true hpins
  simp only [State.commitChecks, hread, hwrite, ok_bind, hp, leadRule_leads hst hlead, must_true]
  rfl

/-! ## Bookings of the slot itself leave what the later checks look at -/

section Booked

variable (s : State) (unit store lat : Nat) (write : Bool) (offs : List Nat)

theorem coverRange_booked (r w : Bool) (last fuel va : Nat) (acc : List Leaf) :
    (s.booked unit store lat write offs).coverRange r w last fuel va acc = s.coverRange r w last fuel va acc := by
  induction fuel generalizing va acc with
  | zero => rfl
  | succ fuel ih =>
    simp only [State.coverRange, ih]
    rfl

theorem coverRanges_booked (r w : Bool) (rs : List (Nat × Nat)) (acc : List Leaf) :
    (s.booked unit store lat write offs).coverRanges r w rs acc = s.coverRanges r w rs acc := by
  simp only [State.coverRanges, coverRange_booked]

theorem covered_booked (rs ws : List (Nat × Nat)) (ls : List Leaf) :
    Covered (s.booked unit store lat write offs) rs ws ls = Covered s rs ws ls := by
  simp only [Covered, coverRanges_booked]

theorem followOf_booked (off f : Nat) : (s.booked unit store lat write offs).followOf off f = s.followOf off f := rfl

end Booked

/-! ## The copy of a descriptor (R290) -/

theorem stride32_eq (x : Nat) : stride32 x = stride (bits x 31 0) := by
  rw [stride32, sInt_eq_signed, stride, bits, Nat.pow_zero, Nat.div_one]

theorem signed_zero (n : Nat) : signed n 0 = 0 := by simp [signed]

theorem stride_upper (x : Nat) : stride32 (x / 2 ^ 32) = stride (bits x 63 32) := by
  rw [stride32_eq]
  simp only [bits, Nat.pow_zero, Nat.div_one, Nat.reduceAdd, Nat.reduceSub]

theorem stride_aligned {x : Nat} (h : x % 64 = 0) : stride x % 64 = 0 := by
  rw [stride, signed, Int.bmod_def]
  split <;> omega

section Copies

variable {m : Move} {s : State} {d : Desc} {ch : Nat}

theorem bit_iff_bits (x i : Nat) : bit x i = true ↔ bits x i i = 1 := by rw [bit_eq_bits, decide_eq_true_eq]

/-- The destination that word 2 of a descriptor names. -/
theorem dstOf_eq (c : Core) (w : Nat) (st : Int) : c.dstOf w st =
    if bits w 60 60 = 1 then .ring (bits w 59 57) (c.ring (bits w 59 57)).fill else .addr (bits w 56 0) st :=
  if_congr (bit_iff_bits w 60) rfl rfl

theorem mkCopy_eq_copyOf (hst : descStart d = scStart d) :
    s.mkCopy ch d (fld (dword d 3) 33 18 + 1) (fld (dword d 3) 17 0 + 1) (dword d 1) (stride32 (dword d 4))
      (stride32 (dword d 4 / 2 ^ 32)) (2 * dword d 5) = Manual.copyOf s ch d := by
  rw [stride_upper, stride32_eq, State.mkCopy, startTcc_eq hst, dstOf_eq]
  simp only [Manual.copyOf, Copy.srcRows, descTc, word, dword, ← bits_eq_fld]
  rfl

/-- A channel number of 0 or 1 is that of a channel (R274). -/
theorem channel_of (h : Channel s ch) : s.channel = .ok ch := by
  obtain ⟨rfl, hle⟩ := h
  exact if_pos hle

theorem channel_beyond (h : 1 < (s.core.port 10 1).toNat) : s.channel = .error (.of .cpyChan) := if_neg (Nat.not_le.mpr h)

/-- The fields of a copy's descriptor pass the checks that come before its channel (R290). -/
theorem copyFields_legal {eszOk foffOk : Bool} (h : CopyFields d) (hesz : eszOk = true) (hfoff : foffOk = true) :
    (eszOk && foffOk && stride32 (dword d 4) % 64 == 0 && stride32 (dword d 4 / 2 ^ 32) % 64 == 0 &&
      !(bit (dword d 2) 60 && (fld (dword d 2) 56 0 != 0 || stride32 (dword d 4 / 2 ^ 32) != 0)) &&
      (bit (dword d 2) 60 || fld (dword d 2) 59 57 == 0)) = true := by
  subst hesz hfoff
  rw [stride_upper, stride32_eq, ← bits_eq_fld, ← bits_eq_fld]
  have hs : stride (bits (dword d 4) 31 0) % 64 = 0 := stride_aligned h.sstride
  have hd : stride (bits (dword d 4) 63 32) % 64 = 0 := stride_aligned h.dstride
  by_cases hring : bits (dword d 2) 60 60 = 1
  · obtain ⟨hoff, hstride⟩ := h.ring hring
    have hzero : stride (bits (dword d 4) 63 32) = 0 := by rw [show bits (dword d 4) 63 32 = 0 from hstride]; exact signed_zero 32
    have hoff' : bits (dword d 2) 56 0 = 0 := hoff
    simp [bit_of_bits hring, hs, hzero, hoff']
  · have hplain : bits (dword d 2) 60 60 = 0 := by
      have : bits (dword d 2) 60 60 < 2 := Nat.mod_lt _ (by decide)
      omega
    have hnum : bits (dword d 2) 59 57 = 0 := h.plain hplain
    simp [bit_of_bits_zero hplain, hs, hd, hnum]

/-- The copy of a legal descriptor on its channel (R290). -/
theorem copyOf_legal {eszOk foffOk : Bool} (hst : descStart d = scStart d) (h : CopyFields d) (hesz : eszOk = true) (hfoff : foffOk = true)
    (hch : Channel s ch) : s.copyOf d eszOk foffOk = .ok (Manual.copyOf s ch d) := by
  have hsrc : dword d 1 % 64 = 0 := h.src
  have hdst : fld (dword d 2) 56 0 % 64 = 0 := h.dst
  simp only [State.copyOf, copyFields_legal h hesz hfoff, channel_of hch, hsrc, hdst, beq_self_eq_true, must_true, ok_bind]
  exact congrArg Except.ok (mkCopy_eq_copyOf hst)

/-- So it is when the slot has booked its rows. -/
theorem copyOf_booked {eszOk foffOk : Bool} {unit store lat : Nat} {write : Bool} {offs : List Nat} (hst : descStart d = scStart d)
    (h : CopyFields d) (hesz : eszOk = true) (hfoff : foffOk = true) (hch : Channel s ch) :
    (s.booked unit store lat write offs).copyOf d eszOk foffOk = .ok (Manual.copyOf s ch d) :=
  copyOf_legal (s := s.booked unit store lat write offs) hst h hesz hfoff hch

theorem copyOf_beyond {eszOk foffOk : Bool} (h : CopyFields d) (hesz : eszOk = true) (hfoff : foffOk = true)
    (hch : 1 < (s.core.port 10 1).toNat) : s.copyOf d eszOk foffOk = .error (.of .cpyChan) := by
  simp only [State.copyOf, copyFields_legal h hesz hfoff, channel_beyond hch, must_true, ok_bind]
  rfl

/-- A copy whose own checks pass enters with the leaves of its ranges (R276 to R278). -/
theorem copyIssue_enters {c : Copy} {ls : List Leaf} {follow : Option Nat} {enter : State → State}
    {extra : Except Exc (Bool × Option Nat × (State → State))} (hst : descStart d = scStart d) (hbad : s.copyBad c = none)
    (hextra : extra = .ok (true, follow, enter)) (hc : Covered s (copyReads c) (copyWrites s c) ls) (hpins : PinsFit s ls)
    (hlead : Leads s.core.scc.toNat d) (hroom : CopyRoom s c.ch) :
    s.copyIssue d c extra = .ok (enter (s.enterCopy c (ls ++ s.bindLeaves c.srcRows) follow)) := by
  have hpending : decide (s.core.copiesPending c.ch < 4) = true := decide_eq_true hroom
  have hcommit := commitChecks_covered hst hc hpins hlead
  subst hextra
  simp only [State.copyIssue, hbad, ok_bind, hpending, Bool.and_self]
  exact congrArg (· >>= _) hcommit

/-- A copy whose own checks pass enters with the row of its descriptor booked. -/
theorem copyIssue_booked {t : W64} {c : Copy} {ls : List Leaf} (hst : descStart d = scStart d) (hbad : s.copyBad c = none)
    (he : EntersWith s d (copyReads c) (copyWrites s c) (CopyRoom s c.ch) ls) :
    (s.booked 10 0 0 false [t.toNat]).copyIssue d c noFollow =
      .ok ((s.booked 10 0 0 false [t.toNat]).enterCopy c (ls ++ s.bindLeaves c.srcRows) none) :=
  copyIssue_enters (s := s.booked 10 0 0 false [t.toNat]) hst hbad rfl ((covered_booked ..).mpr he.pages) he.pins he.lead he.room

/-! ## cpy, cpyt and cpyf (R290, R293, R294) -/

/-- A plain or a transposing copy whose codes are legal enters its channel with no follow-on command. -/
theorem copyTrigger_acts {port : Nat} {eszOk : List Nat → Bool} {ls : List Leaf} (hf : Fires s .scalar false m) (hch : Channel s ch)
    (hfields : CopyFields d)
    (he : EntersWith s d (copyReads (Manual.copyOf s ch d)) (copyWrites s (Manual.copyOf s ch d)) (CopyRoom s ch) ls)
    (hbad : s.copyBad (Manual.copyOf s ch d) = none) (hfoff : dword d 6 = 0) (hr : Reads s 10 port copyMasks (s.operand m) d)
    (hesz : eszOk d = true) :
    scalarTrigger 10 m s (fun t => do
      let (s1, d) ← s.readDesc 10 port t copyMasks
      let c ← s1.copyOf d (eszOk d) (dword d 6 == 0)
      s1.copyIssue d c noFollow) =
    .next ((s.booked 10 0 0 false [(s.operand m).toNat]).enterCopy (Manual.copyOf s ch d) (ls ++ s.bindLeaves (Manual.copyOf s ch d).srcRows) none) := by
  have hst := descStart_of_reads hr
  have hcopy := copyOf_booked (unit := 10) (store := 0) (lat := 0) (write := false) (offs := [(s.operand m).toNat]) hst hfields hesz
    (beq_iff_eq.mpr hfoff) hch
  refine scalarTrigger_acts hf ?_
  dsimp only
  rw [readDesc_reads hr (by decide), ok_bind]
  dsimp only
  rw [hcopy, ok_bind]
  exact copyIssue_booked hst hbad he

theorem exec_cpy (m : Move) (s : State) : exec (.cpy m) s = execCpy m s := rfl
theorem exec_cpyt (m : Move) (s : State) : exec (.cpyt m) s = execCpyt m s := rfl
theorem exec_cpyf (m : Move) (s : State) : exec (.cpyf m) s = execCpyf m s := rfl
theorem exec_cfetch (m : Move) (s : State) : exec (.cfetch m) s = execCfetch m s := rfl
theorem exec_cwp (m : Move) (s : State) : exec (.cwp m) s = execCwp m s := rfl
theorem exec_creset (m : Move) (s : State) : exec (.creset m) s = execCreset m s := rfl

/-- The cycle in which a cpyf's follow-on command starts: the bound of the copy's last unit (R294). -/
def followStart (s : State) (c : Copy) : Nat := ({ c with leaves := s.lastLeaves c } : Copy).lastBound (coreDie s.focus)

/-- cpyf reads its follow-on command beside the copy, and enters both (R294). -/
theorem cpyf_acts {ls : List Leaf} {follow : State → State} (hf : Fires s .scalar true m) (hch : Channel s ch) (hfields : CopyFields d)
    (hr : Reads s 10 10 copyMasks (s.operand m) d) (hesz : dword d 5 = 0) (hbad : s.copyBad (Manual.copyOf s ch d) = none)
    (hbank : BanksFree s 0 0 false [dword d 6])
    (he : EntersWith s d (copyReads (Manual.copyOf s ch d)) (copyWrites s (Manual.copyOf s ch d)) (CopyRoom s ch ∧ KilnRoom s) ls)
    (hfollow : s.followOf (dword d 6) (followStart s (Manual.copyOf s ch d)) = .ok follow) :
    execCpyf m s = .next (follow ((((s.booked 10 0 0 false [(s.operand m).toNat]).booked 10 0 0 false [dword d 6]).enterCopy
      (Manual.copyOf s ch d) (ls ++ s.bindLeaves (Manual.copyOf s ch d).srcRows) (some (followStart s (Manual.copyOf s ch d)))).onEng
        fun e => { e with nid := e.nid + 1 })) := by
  have hst := descStart_of_reads hr
  have hcopy := copyOf_booked (unit := 10) (store := 0) (lat := 0) (write := false) (offs := [(s.operand m).toNat]) hst hfields
    (beq_iff_eq.mpr hesz) (rfl : true = true) hch
  have hklnRoom : s.core.klnRoom = true := decide_eq_true he.room.2
  refine scalarFmtTrigger_acts hf ?_
  dsimp only
  rw [readDesc_reads hr (by decide), ok_bind]
  dsimp only
  rw [hcopy, ok_bind, book_free (banksFree_booked hbank), ok_bind]
  refine copyIssue_enters (s := (s.booked 10 0 0 false [(s.operand m).toNat]).booked 10 0 0 false [dword d 6])
    (enter := fun st => follow (st.onEng fun e => { e with nid := e.nid + 1 })) hst hbad ?extra
    (by rw [covered_booked, covered_booked]; exact he.pages) he.pins he.lead he.room.1
  rw [followStart] at hfollow
  rw [followOf_booked, followOf_booked, hklnRoom, hfollow]
  rfl

/-! ## cfetch (R295, R370) -/

/-- The rectangle of a tile handle that a cfetch copies: row, column, and extents (R295). -/
structure Rectangle where
  row : Nat
  col : Nat
  rows : Nat
  cols : Nat

/-- The rectangle of a cfetch's descriptor. -/
def rectangleOf (d : List Nat) : Rectangle :=
  ⟨bits (word d 3) 31 0, bits (word d 3) 63 32, bits (word d 4) 15 0 + 1, bits (word d 4) 31 16 + 1⟩

/-- Where the elements of a rectangle begin. -/
def Rectangle.src (r : Rectangle) (h : Handle) : Nat := h.base + r.row * h.stride + r.col * typeBytes h.type

/-- The copy of a rectangle: one row of units for each of its rows, the stride of the handle, no element size (R295). -/
def fetchOf (s : State) (ch : Nat) (d : List Nat) (h : Handle) (r : Rectangle) : Copy :=
  let n := r.cols * typeBytes h.type
  { Manual.copyOf s ch d with
    rows := r.rows, rlu := n / 64, src := r.src h, sstride := h.stride
    binds := (s.core.srcBinds ((List.range r.rows).map fun (k : Nat) =>
      (((r.src h : Nat) : Int) + (h.stride : Int) * k, 64 * (n / 64)))).map fun x => (x.1, x.2.2)
    dst := if bits (word d 2) 60 60 = 1 then .ring (bits (word d 2) 59 57) (s.core.ring (bits (word d 2) 59 57)).fill
      else .addr (bits (word d 2) 56 0) (n : Nat)
    esz := 0 }

theorem mkCopy_eq_fetchOf {h : Handle} {r : Rectangle} (hst : descStart d = scStart d) :
    s.mkCopy ch d r.rows (r.cols * typeBytes h.type / 64) (r.src h) h.stride (r.cols * typeBytes h.type : Nat) 0 = fetchOf s ch d h r := by
  rw [State.mkCopy, startTcc_eq hst, dstOf_eq]
  rfl

/-- What a cfetch asks of a handle that has been fetched, and of its rectangle (R295, R370). -/
structure FetchOk (h : Handle) (r : Rectangle) : Prop where
  ok : h.ok = true
  dense : h.spf = 0 ∧ h.layout = 0
  rows : r.row + r.rows ≤ h.rows
  cols : r.col + r.cols ≤ h.cols
  whole : r.cols * typeBytes h.type % 64 = 0
  aligned : r.src h % 64 = 0

/-- A handle that has been fetched is read at once (R295). -/
theorem readHandle_fetched {n : Nat} {cls : BitVec 3} {data : List Byte} (hn : n < 2 ^ bits s.core.thbase.toNat 4 0)
    (hdata : s.core.handle = some (bits s.core.thbase.toNat 56 12 * 4096 + 32 * n, data)) (hok : (⟨wordsOf 8 data 4⟩ : Handle).ok = true) :
    s.readHandle n cls = .ok ⟨wordsOf 8 data 4⟩ := by
  have hfetched : s.core.fetched (fld s.core.thbase.toNat 56 12 * 4096 + 32 * n) = some data := by
    rw [← bits_eq_fld, Core.fetched, hdata]
    exact if_pos rfl
  have hlt : n < 2 ^ fld s.core.thbase.toNat 4 0 := hn
  simp only [State.readHandle, hlt, hfetched, hok, decide_true, must_true, ok_bind]
  rfl

/-- The fields of a cfetch's destination (R295). -/
theorem fetchDst_legal {w : Nat} (hring : bits w 60 60 = 1 → bits w 56 0 = 0) (hplain : bits w 60 60 = 0 → bits w 59 57 = 0) :
    (!(bit w 60 && fld w 56 0 != 0) && (bit w 60 || fld w 59 57 == 0)) = true := by
  rw [← bits_eq_fld, ← bits_eq_fld]
  by_cases h : bits w 60 60 = 1
  · simp [bit_of_bits h, hring h]
  · have hzero : bits w 60 60 = 0 := by
      have : bits w 60 60 < 2 := Nat.mod_lt _ (by decide)
      omega
    simp [bit_of_bits_zero hzero, hplain hzero]

/-- The bits that R295 defines in words 1 to 7. -/
abbrev fetchWords : List Nat := [2 ^ 24 - 1, 2 ^ 61 - 1, 2 ^ 64 - 1, 2 ^ 32 - 1, 0, 0, 0]

theorem cfetch_acts {data : List Byte} {ls : List Leaf} (hf : Fires s .scalar false m) (hch : Channel s ch)
    (hr : Reads s 10 11 fetchWords (s.operand m) d) (hdst : bits (dword d 2) 56 0 % 64 = 0)
    (hring : bits (dword d 2) 60 60 = 1 → bits (dword d 2) 56 0 = 0) (hplain : bits (dword d 2) 60 60 = 0 → bits (dword d 2) 59 57 = 0)
    (hn : dword d 1 < 2 ^ bits s.core.thbase.toNat 4 0)
    (hdata : s.core.handle = some (bits s.core.thbase.toNat 56 12 * 4096 + 32 * dword d 1, data))
    (h : FetchOk ⟨wordsOf 8 data 4⟩ (rectangleOf d))
    (hbad : s.copyBad (fetchOf s ch d ⟨wordsOf 8 data 4⟩ (rectangleOf d)) = none)
    (he : EntersWith s d (copyReads (fetchOf s ch d ⟨wordsOf 8 data 4⟩ (rectangleOf d)))
      (copyWrites s (fetchOf s ch d ⟨wordsOf 8 data 4⟩ (rectangleOf d))) (CopyRoom s ch) ls) :
    execCfetch m s = .next ((s.booked 10 0 0 false [(s.operand m).toNat]).enterCopy (fetchOf s ch d ⟨wordsOf 8 data 4⟩ (rectangleOf d))
      (ls ++ s.bindLeaves (fetchOf s ch d ⟨wordsOf 8 data 4⟩ (rectangleOf d)).srcRows) none) := by
  have hst := descStart_of_reads hr
  have hhandle := readHandle_fetched (s := s.booked 10 0 0 false [(s.operand m).toNat]) (cls := descTc d) hn hdata h.ok
  have hcopy := mkCopy_eq_fetchOf (s := s.booked 10 0 0 false [(s.operand m).toNat]) (ch := ch) (h := ⟨wordsOf 8 data 4⟩)
    (r := rectangleOf d) hst
  have hissue := copyIssue_booked (t := s.operand m) hst hbad he
  obtain ⟨hspf, hlayout⟩ := h.dense
  have hrange : (decide (fld (dword d 3) 31 0 + (fld (dword d 4) 15 0 + 1) ≤ (⟨wordsOf 8 data 4⟩ : Handle).rows) &&
      decide (fld (dword d 3) 63 32 + (fld (dword d 4) 31 16 + 1) ≤ (⟨wordsOf 8 data 4⟩ : Handle).cols) &&
      (fld (dword d 4) 31 16 + 1) * typeBytes (⟨wordsOf 8 data 4⟩ : Handle).type % 64 == 0) = true := by
    rw [Bool.and_eq_true, Bool.and_eq_true]
    exact ⟨⟨decide_eq_true h.rows, decide_eq_true h.cols⟩, beq_iff_eq.mpr h.whole⟩
  refine scalarTrigger_acts hf ?_
  dsimp only
  rw [readDesc_reads hr (by decide), ok_bind]
  have hsrc : ((⟨wordsOf 8 data 4⟩ : Handle).base + fld (dword d 3) 31 0 * (⟨wordsOf 8 data 4⟩ : Handle).stride +
      fld (dword d 3) 63 32 * typeBytes (⟨wordsOf 8 data 4⟩ : Handle).type) % 64 = 0 := h.aligned
  have hoff : fld (dword d 2) 56 0 % 64 = 0 := hdst
  have hchannel := channel_of hch
  simp only [fetchDst_legal hring hplain, hchannel, hhandle, hspf, hlayout, hrange, hsrc, hoff, beq_self_eq_true, Bool.and_self, must_true, ok_bind]
  exact (congrArg (fun c => State.copyIssue _ d c noFollow) hcopy).trans hissue

end Copies

/-- Settles O37: the copy of each descriptor, entered with its pages and, for a cpyf, its follow-on command. -/
theorem copyCommands : Obligations.CopyCommands := by
  unfold Obligations.CopyCommands
  intro m s d ch ls hch
  refine ⟨fun hf hfields he hbad hfoff => ⟨fun hr hesz => ?cpy, fun hr hesz => ?cpyt⟩,
    fun follow hf hfields hr hesz hbad hbank he hfollow => cpyf_acts hf hch hfields hr hesz hbad hbank he hfollow, ?cfetch⟩
  case cpy => exact (exec_cpy m s).trans (copyTrigger_acts (eszOk := fun d => dword d 5 == 0) hf hch hfields he hbad hfoff hr (beq_iff_eq.mpr hesz))
  case cpyt =>
    have hcode : (dword d 5 == 1 || dword d 5 == 2) = true := by
      rw [Bool.or_eq_true, beq_iff_eq, beq_iff_eq]
      exact hesz
    exact (exec_cpyt m s).trans (copyTrigger_acts (eszOk := fun d => dword d 5 == 1 || dword d 5 == 2) hf hch hfields he hbad hfoff hr hcode)
  case cfetch =>
    rintro h data row col nr nc el hf hr hdst hring hplain hn hdata rfl hok hspf hlayout rfl rfl rfl rfl rfl hrows hcols hwhole haligned c hbad he
    exact (exec_cfetch m s).trans
      (cfetch_acts hf hch hr hdst hring hplain hn hdata ⟨hok, ⟨hspf, hlayout⟩, hrows, hcols, hwhole, haligned⟩ hbad he)

/-! ## cwp, creset, and what the commands refuse (R274, R276, R296) -/

section Pointers

variable {m : Move} {s : State} {ch : Nat}

theorem cwp_acts (hf : Fires s .scalar false m) (hch : Channel s ch) (hr : Room s 1) :
    execCwp m s = .next (s.sentScalar 10 2 ((vget 0 s.core.eng.cwp ch).setWidth 64)) := by
  refine scalarTrigger_acts hf ?_
  rw [channel_of hch, ok_bind]
  exact result_room (by decide) hr

/-- A copy of a channel that is not wholly written keeps it busy (R296, log 91). -/
theorem channelIdle_iff {copies : List Copy} :
    (copies.any fun c => c.ch == ch && c.written < c.count) = false ↔ ∀ c ∈ copies, c.ch = ch → c.count ≤ c.written := by
  rw [List.any_eq_false]
  refine forall₂_congr fun c _ => ?_
  simp only [Bool.and_eq_true, beq_iff_eq, decide_eq_true_eq, not_and, Nat.not_lt]

theorem creset_acts (hf : Fires s .scalar false m) (hch : Channel s ch) (ht : s.operand m = 0)
    (hidle : ∀ c ∈ s.core.eng.copies, c.ch = ch → c.count ≤ c.written) (hroom : inFlight s.core.tcc s.core.pend ≤ 48) :
    execCreset m s = .next (s.sent 10 [(1, .cwpReset (BitVec.ofNat 1 ch), 0)]) := by
  refine scalarTrigger_acts hf ?_
  simp only [ht, channel_of hch, channelIdle_iff.mpr hidle, beq_self_eq_true, Bool.not_false, must_true, ok_bind]
  exact issue_room (unit := 10) (items := [(1, .cwpReset (BitVec.ofNat 1 ch), 0)]) hroom

variable (hl : m.src.bad .scalar = none) (hg : s.core.guardPass m.guard = true)
include hl hg

theorem creset_operand_stops (ht : s.operand m ≠ 0) : ∃ u, execCreset m s = .next u ∧ StopsWith s u .engDesc 0 0 0 := by
  refine scalarTrigger_stops hl hg ?_
  rw [show (s.operand m == 0) = false from beq_false_of_ne ht]
  rfl

theorem creset_busy_stops (hch : Channel s ch) (ht : s.operand m = 0) (hbusy : ∃ c ∈ s.core.eng.copies, c.ch = ch ∧ c.written < c.count) :
    ∃ u, execCreset m s = .next u ∧ StopsWith s u .cpyBusy 0 0 0 := by
  have hany : (s.core.eng.copies.any fun c => c.ch == ch && c.written < c.count) = true := by
    obtain ⟨c, hc, hch, hlt⟩ := hbusy
    exact List.any_eq_true.mpr ⟨c, hc, by simp [hch, hlt]⟩
  refine scalarTrigger_stops hl hg ?_
  simp only [ht, channel_of hch, hany, beq_self_eq_true, Bool.not_true, must_true, ok_bind]
  rfl

/-! A channel number above 1 (R274). -/

variable {d : List Nat} (hch : 1 < (s.core.port 10 1).toNat)
include hch

theorem cwp_beyond_stops : ∃ u, execCwp m s = .next u ∧ StopsWith s u .cpyChan 0 0 0 := by
  refine scalarTrigger_stops hl hg ?_
  rw [channel_beyond hch]
  rfl

theorem creset_beyond_stops (ht : s.operand m = 0) : ∃ u, execCreset m s = .next u ∧ StopsWith s u .cpyChan 0 0 0 := by
  refine scalarTrigger_stops hl hg ?_
  rw [ht, channel_beyond hch]
  rfl

theorem copyTrigger_beyond_stops {port : Nat} {eszOk : List Nat → Bool} (hfields : CopyFields d) (hfoff : dword d 6 = 0)
    (hr : Reads s 10 port copyMasks (s.operand m) d) (hesz : eszOk d = true) :
    ∃ u, scalarTrigger 10 m s (fun t => do
      let (s1, d) ← s.readDesc 10 port t copyMasks
      let c ← s1.copyOf d (eszOk d) (dword d 6 == 0)
      s1.copyIssue d c noFollow) = .next u ∧ StopsWith s u .cpyChan 0 0 0 := by
  have hcopy := copyOf_beyond (s := s.booked 10 0 0 false [(s.operand m).toNat]) hfields hesz (beq_iff_eq.mpr hfoff) hch
  refine scalarTrigger_stops hl hg ?_
  dsimp only
  rw [readDesc_reads hr (by decide), ok_bind]
  dsimp only
  rw [hcopy]
  rfl

theorem cpyf_beyond_stops (hfields : CopyFields d) (hr : Reads s 10 10 copyMasks (s.operand m) d) (hesz : dword d 5 = 0) :
    ∃ u, execCpyf m s = .next u ∧ StopsWith s u .cpyChan 0 0 0 := by
  have hcopy := copyOf_beyond (s := s.booked 10 0 0 false [(s.operand m).toNat]) (foffOk := true) hfields (beq_iff_eq.mpr hesz) rfl hch
  refine ⟨_, slotMove_takes hl hg ?_, take_fault_stops s .cpyChan 0 0 0 10⟩
  rw [← State.operand]
  dsimp only
  rw [readDesc_reads hr (by decide), ok_bind]
  dsimp only
  rw [hcopy]
  rfl

theorem cfetch_beyond_stops (hr : Reads s 10 11 fetchWords (s.operand m) d) (hring : bits (dword d 2) 60 60 = 1 → bits (dword d 2) 56 0 = 0)
    (hplain : bits (dword d 2) 60 60 = 0 → bits (dword d 2) 59 57 = 0) : ∃ u, execCfetch m s = .next u ∧ StopsWith s u .cpyChan 0 0 0 := by
  refine scalarTrigger_stops hl hg ?_
  dsimp only
  rw [readDesc_reads hr (by decide), ok_bind]
  simp only [fetchDst_legal hring hplain, channel_beyond hch, must_true, ok_bind]
  rfl

end Pointers

/-- Settles O38: the two pointers, then the refusals by channel, by operand and by a busy channel. -/
theorem copyPointers : Obligations.CopyPointers := by
  unfold Obligations.CopyPointers
  intro m s ch hl hg
  refine ⟨fun hch hf => ⟨fun hr => (exec_cwp m s).trans (cwp_acts hf hch hr),
      fun ht hidle hroom => (exec_creset m s).trans (creset_acts hf hch ht hidle hroom)⟩, fun hch => ?beyond,
    fun _ ht => exec_creset m s ▸ creset_operand_stops hl hg ht, fun hch ht hbusy => exec_creset m s ▸ creset_busy_stops hl hg hch ht hbusy⟩
  case beyond =>
    dsimp only
    refine ⟨exec_cwp m s ▸ cwp_beyond_stops hl hg hch, fun ht => exec_creset m s ▸ creset_beyond_stops hl hg hch ht, fun d hfields => ⟨?cpy, ?cpyt, ?cpyf⟩,
      fun d hr hring hplain => exec_cfetch m s ▸ cfetch_beyond_stops hl hg hch hr hring hplain⟩
    case cpy =>
      intro hr hesz hfoff
      exact exec_cpy m s ▸ copyTrigger_beyond_stops hl hg hch (eszOk := fun d => dword d 5 == 0) hfields hfoff hr (beq_iff_eq.mpr hesz)
    case cpyt =>
      intro hr hesz hfoff
      have hcode : (dword d 5 == 1 || dword d 5 == 2) = true := by
        rw [Bool.or_eq_true, beq_iff_eq, beq_iff_eq]
        exact hesz
      exact exec_cpyt m s ▸ copyTrigger_beyond_stops hl hg hch (eszOk := fun d => dword d 5 == 1 || dword d 5 == 2) hfields hfoff hr hcode
    case cpyf =>
      intro hr hesz
      exact exec_cpyf m s ▸ cpyf_beyond_stops hl hg hch hfields hr hesz

end Sys2Proof.Machine

/-! PROOF. FAB: the commands of the fabric unit at issue (R307 to R321). -/

namespace Sys2Proof.Machine
open Sys2Proof.Manual

/-! ## The checks of operands (R308) -/

section Checks

variable {s : State} {a len al off : Nat}

/-- A word under a mask of low bits lies below them. -/
theorem lt_of_land_mask {x n : Nat} (h : Nat.land x (2 ^ n - 1) = x) : x < 2 ^ n := by
  have hmod : x % 2 ^ n = x := (Nat.and_two_pow_sub_one_eq_mod x n).symm.trans h
  rw [← hmod]
  exact Nat.mod_lt _ (Nat.two_pow_pos n)

/-- A field that begins at bit 0 holds a number below its width. -/
theorem fld_of_lt {x hi : Nat} (h : x < 2 ^ (hi + 1)) : fld x hi 0 = x := by
  rw [fld, Nat.pow_zero, Nat.div_one, Nat.sub_zero, Nat.mod_eq_of_lt h]

theorem cwOk_of (h : CwOk s) : s.core.cwOk (BitVec.ofNat 64 (fabCw s)) = true := by
  obtain ⟨hal, hlt, hfoot⟩ := h
  have hcw : (BitVec.ofNat 64 (fabCw s)).toNat = fabCw s := by rw [fabCw, BitVec.ofNat_toNat, BitVec.setWidth_eq]
  have hin : fabCw s < spSize := hlt
  simp only [Core.cwOk, hcw, hal, hin, hfoot, beq_self_eq_true, decide_true, Bool.and_self]

/-- A local block of a legal place (R308). -/
theorem fabLocal_ok {write : Bool} (h : LocalOk s a len) : s.core.fabLocal write a len = .ok () := by
  obtain ⟨hal, hlen, ⟨off, hregion, hend, hfoot⟩ | ⟨off, hregion, hend, hfoot⟩ | ⟨hregion, hend⟩⟩ := h
  · have hin : off + len ≤ spSize := hend
    simp only [Core.fabLocal, hregion, hal, hlen, hin, hfoot, beq_self_eq_true, decide_true, Bool.and_self, must_true, ok_bind]
  · have hin : off + len ≤ accSize := hend
    simp only [Core.fabLocal, hregion, hal, hlen, hin, hfoot, beq_self_eq_true, decide_true, Bool.and_self, must_true, ok_bind]
  · simp only [Core.fabLocal, hregion, hal, hlen, hend, beq_self_eq_true, decide_true, Bool.and_self, must_true, ok_bind]

theorem fabField_ok (h : FieldOk s off) : s.core.fabField off 8 8 = .ok () := by
  obtain ⟨hal, hfoot⟩ := h
  simp only [Core.fabField, hal, hfoot, beq_self_eq_true, must_true, ok_bind]

theorem fabRemote_ok (h : RemoteOk a al) : fabRemote a al = .ok () := by
  obtain ⟨hal, hlt⟩ := h
  simp only [fabRemote, hal, hlt, beq_self_eq_true, decide_true, Bool.and_self, must_true]

theorem hasGroup_of {g : Nat} (h : GroupUp s g) : s.core.hasGroup g = true := by
  obtain ⟨x, hx, rfl⟩ := h
  exact List.any_eq_true.mpr ⟨x, hx, beq_self_eq_true _⟩

end Checks

/-! ## The entry of a command (R100, R308) -/

section Entry

variable {m : Move} {s : State} {d : List Nat} {t : W64}

/-- A FAB trigger that fires, with its descriptor read, takes its body's effect. -/
theorem fabTrigger_acts {port : Nat} {masks : List Nat} {u : State} {body : State → Desc → Nat → W64 → Nat → Except Exc State}
    (hf : Fires s .scalar false m) (hr : Reads s 13 port masks (s.operand m) d)
    (hb : body (s.booked 13 0 0 false [(s.operand m).toNat]) d (fabA s) (fabB s) (fabCw s) = .ok u) :
    fabTrigger port masks m s body = .next u := by
  refine scalarTrigger_acts hf ?_
  rw [readDesc_reads hr (by decide), ok_bind]
  exact hb

/-- The state after a command without global ranges entered the queue: the next number, the command, and its place in core order (R100, R308). -/
def queued (u : State) (d : List Nat) (op : FabOp) (a : Nat) (b : W64) (cw count : Nat) : State :=
  let cmd : FabCmd :=
    { id := u.core.eng.nid, start := startAt u d, cls := descTc d, op := op, a := a, b := b, cw := cw, gid := u.core.gid, count := count,
      leaves := [], asked := 0, src := [], org := u.core.here 13 }
  (u.onEng fun e => { e with nid := u.core.eng.nid + 1, fab := { e.fab with cmds := e.fab.cmds ++ [cmd] } }).onCore
    fun c => { c with gid := c.gid + 1 }

theorem fabIssue_queued {u : State} {op : FabOp} {a cw count : Nat} {b : W64}
    (hst : descStart d = scStart d) (he : EntersWith u d [] [] (FabRoom u) []) :
    u.fabIssue d op a b cw count [] [] = .ok (queued u d op a b cw count) := by
  have hroom : decide (u.core.eng.fab.cmds.length < 16) = true := decide_eq_true he.room
  simp only [State.fabIssue, hroom, commitChecks_covered hst he.pages he.pins he.lead, ok_bind, startTcc_eq hst, Core.fabPlaces,
    List.flatMap_nil, List.zipIdx_nil, List.filterMap_nil, List.append_nil, List.map_nil, List.sum_nil, Nat.add_zero]
  rfl

/-- Bookings of the slot leave what a command asks. -/
theorem entersWith_booked {unit store lat : Nat} {write : Bool} {offs : List Nat} {reads writes : List (Nat × Nat)} {ls : List Leaf}
    (he : EntersWith s d reads writes (FabRoom s) ls) :
    EntersWith (s.booked unit store lat write offs) d reads writes (FabRoom (s.booked unit store lat write offs)) ls :=
  ⟨(covered_booked ..).mpr he.pages, he.pins, he.lead, he.room⟩

/-- A command with the row of its descriptor booked enters its queue, and its global writes take their places after it. -/
theorem fabIssue_enters {op : FabOp} {a count : Nat} {b : W64} {reads writes : List (Nat × Nat)} {ls : List Leaf}
    (hst : descStart d = scStart d) (he : EntersWith s d reads writes (FabRoom s) ls) :
    (s.booked 13 0 0 false [t.toNat]).fabIssue d op a b (fabCw s) count reads writes =
      .ok (placed d ls writes (fabbed s t d op a b count ls id)) := by
  have hroom : decide ((s.booked 13 0 0 false [t.toNat]).core.eng.fab.cmds.length < 16) = true := decide_eq_true he.room
  have hcommit := commitChecks_covered (s := s.booked 13 0 0 false [t.toNat]) hst ((covered_booked ..).mpr he.pages) he.pins he.lead
  simp only [State.fabIssue, hroom, hcommit, ok_bind, startTcc_eq hst]
  rfl

/-- No global write takes no place. -/
theorem placed_none (ls : List Leaf) (u : State) : placed d ls [] u = u := by
  simp only [placed, State.onCore, List.flatMap_nil, List.zipIdx_nil, List.filterMap_nil, List.append_nil, List.map_nil, List.sum_nil,
    Nat.add_zero]

/-- A command without global ranges may enter with no pages. -/
theorem entersWith_of_enters {room : Prop} (h : Enters s d room) : EntersWith s d [] [] room [] :=
  ⟨⟨[], [], rfl, rfl, rfl⟩, h.pins, h.lead, h.room⟩

/-- A command without global writes enters its queue. -/
theorem fabIssue_reads {op : FabOp} {a count : Nat} {b : W64} {reads : List (Nat × Nat)} {ls : List Leaf}
    (hst : descStart d = scStart d) (he : EntersWith s d reads [] (FabRoom s) ls) :
    (s.booked 13 0 0 false [t.toNat]).fabIssue d op a b (fabCw s) count reads [] = .ok (fabbed s t d op a b count ls id) := by
  rw [fabIssue_enters hst he, placed_none]

/-! ## fwr, fwrrel, frd and fatom (R313 to R316) -/

section Store

variable {ls : List Leaf} {rel : Bool}

/-- The stores counted after a store to a module, unless they are posted in order (R314). -/
def countRel (s : State) (tmod n : Nat) (f : Fab) : Fab := if s.mod.flue.ord then f else { f with rel := sset 0 f.rel tmod n }

/-- The local range that a store reads: none for a word (R312, R313). -/
def storeReads (s : State) (len : Nat) : List (Nat × Nat) := if len = 0 then [] else pagesAt (fabB s).toNat (64 * len)

/-- What fwr and fwrrel ask of their operands (R308, R313). -/
structure StoreOperands (s : State) (d : List Nat) : Prop where
  cw : CwOk s
  len : fld (dword d 1) 28 16 ≤ 4096
  here : fld (dword d 1) 28 16 ≠ 0 → LocalOk s (fabB s).toNat (64 * fld (dword d 1) 28 16)
  there : RemoteOk (fabA s) (if fld (dword d 1) 28 16 = 0 then 8 else 64)
  flag : RemoteOk (dword d 2) 8

/-- After its entry a store counts for its target, or an fwrrel begins the count anew, unless stores are posted in order (R314). -/
theorem fabbed_counted {op : FabOp} {a n count tmod : Nat} {b : W64} :
    (if (!!s.mod.flue.ord) = true then fabbed s t d op a b count ls id
      else if rel = true then (fabbed s t d op a b count ls id).setRel tmod 0 else (fabbed s t d op a b count ls id).setRel tmod n) =
    fabbed s t d op a b count ls (countRel s tmod (if rel then 0 else n)) := by
  rw [Bool.not_not]
  unfold countRel
  cases s.mod.flue.ord <;> cases rel <;> rfl

theorem fabStore_enters (h : StoreOperands s d) (hst : descStart d = scStart d)
    (he : EntersWith s d (storeReads s (fld (dword d 1) 28 16)) [] (FabRoom s) ls)
    (hcount : (rel || !!s.mod.flue.ord || s.core.relCount (fld (dword d 1) 11 0) != 0 || s.core.eng.fab.rel.length < 64) = true) :
    (s.booked 13 0 0 false [t.toNat]).fabStore d rel (fabA s) (fabB s) (fabCw s) =
      .ok (fabbed s t d (.store rel (bit (dword d 1) 12) (fld (dword d 1) 11 0) (fld (dword d 1) 28 16) (dword d 2)) (fabA s) (fabB s)
        (if rel then s.core.relCount (fld (dword d 1) 11 0) else 0) ls
        (countRel s (fld (dword d 1) 11 0) (if rel then 0 else s.core.relCount (fld (dword d 1) 11 0) + 1))) := by
  have hcw : (s.booked 13 0 0 false [t.toNat]).core.cwOk (BitVec.ofNat 64 (fabCw s)) = true := cwOk_of h.cw
  have hord : (s.booked 13 0 0 false [t.toNat]).mod.flue.ord = s.mod.flue.ord := rfl
  have hrelCount (n : Nat) : (s.booked 13 0 0 false [t.toNat]).core.relCount n = s.core.relCount n := rfl
  have hlength : (s.booked 13 0 0 false [t.toNat]).core.eng.fab.rel.length = s.core.eng.fab.rel.length := rfl
  have hissue : (s.booked 13 0 0 false [t.toNat]).fabIssue d
      (.store rel (bit (dword d 1) 12) (fld (dword d 1) 11 0) (fld (dword d 1) 28 16) (dword d 2)) (fabA s) (fabB s) (fabCw s)
      (if rel then s.core.relCount (fld (dword d 1) 11 0) else 0)
      (if fld (dword d 1) 28 16 = 0 then [] else fabPages (fabB s).toNat (64 * fld (dword d 1) 28 16)) [] =
      .ok (fabbed s t d (.store rel (bit (dword d 1) 12) (fld (dword d 1) 11 0) (fld (dword d 1) 28 16) (dword d 2)) (fabA s) (fabB s)
        (if rel then s.core.relCount (fld (dword d 1) 11 0) else 0) ls id) := fabIssue_reads hst he
  have hlocal (hlen : fld (dword d 1) 28 16 ≠ 0) :
      (s.booked 13 0 0 false [t.toNat]).core.fabLocal false (fabB s).toNat (64 * fld (dword d 1) 28 16) = .ok () := fabLocal_ok (h.here hlen)
  simp only [State.fabStore, h.len, hcw, fabRemote_ok h.there, fabRemote_ok h.flag, hord, hrelCount, hlength, hcount, hissue, decide_true, must_true, ok_bind]
  split
  case isTrue hlen =>
    rw [hlocal hlen, ok_bind]
    rw [fabbed_counted]
    rfl
  case isFalse =>
    rw [fabbed_counted]
    rfl

theorem fwr_acts (hf : Fires s .scalar false m) (h : StoreOperands s d)
    (he : EntersWith s d (storeReads s (fld (dword d 1) 28 16)) [] (FabRoom s) ls)
    (hr : Reads s 13 9 [0x1FFF1FFF, 2 ^ 57 - 1, 0, 0, 0, 0, 0] (s.operand m) d)
    (hcount : s.mod.flue.ord = true ∨ s.core.relCount (fld (dword d 1) 11 0) ≠ 0 ∨ s.core.eng.fab.rel.length < 64) :
    execFwr m s = .next (fabbed s (s.operand m) d
      (.store false (bit (dword d 1) 12) (fld (dword d 1) 11 0) (fld (dword d 1) 28 16) (dword d 2)) (fabA s) (fabB s) 0 ls
      (countRel s (fld (dword d 1) 11 0) (s.core.relCount (fld (dword d 1) 11 0) + 1))) :=
  fabTrigger_acts hf hr (fabStore_enters (rel := false) h (descStart_of_reads hr) he (by simpa [or_assoc] using hcount))

theorem fwrrel_acts (hf : Fires s .scalar false m) (h : StoreOperands s d)
    (he : EntersWith s d (storeReads s (fld (dword d 1) 28 16)) [] (FabRoom s) ls)
    (hr : Reads s 13 10 [0x1FFF1FFF, 2 ^ 57 - 1, 0, 0, 0, 0, 0] (s.operand m) d) :
    execFwrrel m s = .next (fabbed s (s.operand m) d
      (.store true (bit (dword d 1) 12) (fld (dword d 1) 11 0) (fld (dword d 1) 28 16) (dword d 2)) (fabA s) (fabB s)
      (s.core.relCount (fld (dword d 1) 11 0)) ls (countRel s (fld (dword d 1) 11 0) 0)) :=
  fabTrigger_acts hf hr (fabStore_enters (rel := true) h (descStart_of_reads hr) he rfl)

end Store

theorem frd_acts {ls : List Leaf} (hf : Fires s .scalar false m) (hcw : CwOk s)
    (hr : Reads s 13 8 [0x1FFF0FFF, 0, 0, 0, 0, 0, 0] (s.operand m) d) (hlo : 1 ≤ fld (dword d 1) 28 16) (hhi : fld (dword d 1) 28 16 ≤ 4096)
    (hhere : LocalOk s (fabB s).toNat (64 * fld (dword d 1) 28 16)) (hthere : RemoteOk (fabA s) 64)
    (he : EntersWith s d [] (pagesAt (fabB s).toNat (64 * fld (dword d 1) 28 16)) (FabRoom s) ls) :
    execFrd m s = .next (placed d ls (pagesAt (fabB s).toNat (64 * fld (dword d 1) 28 16))
      (fabbed s (s.operand m) d (.read (fld (dword d 1) 11 0) (fld (dword d 1) 28 16)) (fabA s) (fabB s) 0 ls id)) := by
  have hcw' : (s.booked 13 0 0 false [(s.operand m).toNat]).core.cwOk (BitVec.ofNat 64 (fabCw s)) = true := cwOk_of hcw
  have hlocal : (s.booked 13 0 0 false [(s.operand m).toNat]).core.fabLocal true (fabB s).toNat (64 * fld (dword d 1) 28 16) = .ok () :=
    fabLocal_ok hhere
  refine fabTrigger_acts hf hr ?_
  simp only [hlo, hhi, hcw', hlocal, fabRemote_ok hthere, decide_true, Bool.and_self, must_true, ok_bind]
  exact fabIssue_enters (descStart_of_reads hr) he

/-- The width of fatom's operation is that of the atomic it names (R234, R316). -/
theorem fabAmo_width {aop : Nat} (h : aop < 16) : (fabAmo aop 0 0).width = atomWidth aop := by
  interval_cases aop <;> rfl

theorem fatom_acts (hf : Fires s .scalar false m) (hcw : CwOk s)
    (hr : Reads s 13 11 [0xF0FFF, 2 ^ 64 - 1, 2 ^ 63 + 0xFFFFFF, 0, 0, 0, 0] (s.operand m) d)
    (hres : bit (dword d 3) 63 = true → FieldOk s (fld (dword d 3) 23 0)) (hthere : RemoteOk (fabA s) (atomWidth (fld (dword d 1) 19 16)))
    (he : Enters s d (FabRoom s)) :
    execFatom m s = .next (fabbed s (s.operand m) d (.atomic (fld (dword d 1) 11 0) (fld (dword d 1) 19 16) (BitVec.ofNat 64 (dword d 2))
      (if bit (dword d 3) 63 then some (fld (dword d 3) 23 0) else none)) (fabA s) (fabB s) 0 [] id) := by
  have hcw' : (s.booked 13 0 0 false [(s.operand m).toNat]).core.cwOk (BitVec.ofNat 64 (fabCw s)) = true := cwOk_of hcw
  have hfield (hen : bit (dword d 3) 63 = true) :
      (s.booked 13 0 0 false [(s.operand m).toNat]).core.fabField (fld (dword d 3) 23 0) 8 8 = .ok () := fabField_ok (hres hen)
  have hwidth := fabAmo_width (aop := fld (dword d 1) 19 16) (Nat.mod_lt _ (by decide))
  have hissue := fabIssue_reads (t := s.operand m) (a := fabA s) (b := fabB s) (count := 0)
    (op := .atomic (fld (dword d 1) 11 0) (fld (dword d 1) 19 16) (BitVec.ofNat 64 (dword d 2))
      (if bit (dword d 3) 63 then some (fld (dword d 3) 23 0) else none)) (descStart_of_reads hr) (entersWith_of_enters he)
  refine fabTrigger_acts hf hr ?_
  simp only [hcw', hwidth, fabRemote_ok hthere, must_true, ok_bind]
  split
  case isTrue hen =>
    rw [hfield hen, ok_bind]
    simpa only [if_pos hen] using hissue
  case isFalse hen => simpa only [if_neg hen] using hissue

end Entry

theorem exec_fwr (m : Move) (s : State) : exec (.fwr m) s = execFwr m s := rfl
theorem exec_fwrrel (m : Move) (s : State) : exec (.fwrrel m) s = execFwrrel m s := rfl
theorem exec_frd (m : Move) (s : State) : exec (.frd m) s = execFrd m s := rfl
theorem exec_fatom (m : Move) (s : State) : exec (.fatom m) s = execFatom m s := rfl

/-- Settles O41: the stores with their counts, the read with the places of its writes, the atomic with its result. -/
theorem remoteCommands : Obligations.RemoteCommands := by
  unfold Obligations.RemoteCommands
  intro m s d ls hf hcw t w a b tmod len count put
  refine ⟨fun hlen hhere hthere hflag he => ⟨fun hr hcount => ?fwr, fun hr => ?fwrrel⟩,
    fun hr hlo hhi hhere hthere he => (exec_frd m s).trans (frd_acts hf hcw hr hlo hhi hhere hthere he), ?fatom⟩
  case fwr =>
    rw [← bit_eq_bits]
    exact (exec_fwr m s).trans (fwr_acts hf ⟨hcw, hlen, hhere, hthere, hflag⟩ he hr hcount)
  case fwrrel =>
    rw [← bit_eq_bits]
    exact (exec_fwrrel m s).trans (fwrrel_acts hf ⟨hcw, hlen, hhere, hthere, hflag⟩ he hr)
  case fatom =>
    intro hr en hres hthere he
    have hacts := fatom_acts hf hcw hr (fun hen => hres ((bit_iff_bits ..).mp hen)) hthere he
    rw [if_congr (bit_iff_bits (dword d 3) 63) rfl rfl] at hacts
    exact (exec_fatom m s).trans hacts

end Sys2Proof.Machine

/-! PROOF. FAB: group commands at issue, then tissue and tstat (R317 to R321, R330, R369). -/

namespace Sys2Proof.Machine
open Sys2Proof.Manual

section Groups

variable {m : Move} {s : State} {d : List Nat}

/-! ## fmcred and fmcst (R318, R319) -/

/-- A pair that R318 allows has an operation and a type of its tables, of these widths, and passes FAB_TYPE. -/
theorem redPair_legal {op type : Nat} (h : RedPair op type) : (decide (op ≤ 6) && [0, 1, 8, 9].contains type) = true ∧ redPairOk op type = true ∧
    redIn op type = elemIn op type ∧ redOut op type = elemOut op type := by
  obtain ⟨rfl, ht⟩ | ⟨ho, ht⟩ | ⟨ho, ht⟩ | ⟨ho, ht⟩ := h <;> simp only [List.mem_cons, List.not_mem_nil, or_false] at *
  · obtain rfl | rfl | rfl | rfl := ht <;> decide
  · obtain rfl | rfl := ho <;> obtain rfl | rfl | rfl := ht <;> decide
  · obtain rfl | rfl := ho <;> obtain rfl | rfl := ht <;> decide
  · obtain rfl | rfl := ho <;> obtain rfl | rfl := ht <;> decide

/-- A word that keeps to its 24 defined bits is the offset that its field holds. -/
theorem offset_of_mask {x : Nat} (h : Nat.land x 0xFFFFFF = x) : fld x 23 0 = x := fld_of_lt (lt_of_land_mask (n := 24) h)

/-- What fmcred asks of its fields and operands (R308, R318). -/
structure ReduceOk (s : State) (d : List Nat) (op type n : Nat) : Prop where
  cw : CwOk s
  pair : RedPair op type
  some : n ≠ 0
  aligned : (fabB s).toNat % 64 = 0
  inside : (fabB s).toNat < 0x400000
  foot : s.core.task.spOk (fabB s).toNat (n * elemOut op type) = true
  status : FieldOk s (dword d 2)
  there : RemoteOk (fabA s) (elemIn op type)

theorem fmcred_acts (hf : Fires s .scalar false m) (hr : Reads s 13 12 [0x3FFF0FFF, 0xFFFFFF, 0, 0, 0, 0, 0] (s.operand m) d)
    (h : ReduceOk s d (fld (dword d 1) 7 4) (fld (dword d 1) 11 8) (fld (dword d 1) 29 16)) (hg : GroupUp s (fld (dword d 1) 3 0))
    (he : Enters s d (FabRoom s)) :
    execFmcred m s = .next (fabbed s (s.operand m) d (.reduce (fld (dword d 1) 3 0) (fld (dword d 1) 7 4) (fld (dword d 1) 11 8)
      (fld (dword d 1) 29 16) (dword d 2)) (fabA s) (fabB s) 0 [] id) := by
  obtain ⟨hcodes, hpair, hin, hout⟩ := redPair_legal h.pair
  have hstatus : fld (dword d 2) 23 0 = dword d 2 := offset_of_mask (hr.rest 1 (by decide))
  have hcw : (s.booked 13 0 0 false [(s.operand m).toNat]).core.cwOk (BitVec.ofNat 64 (fabCw s)) = true := cwOk_of h.cw
  have hinside : (fabB s).toNat < spSize := h.inside
  have hfoot : (s.booked 13 0 0 false [(s.operand m).toNat]).core.task.spOk (fabB s).toNat
      (fld (dword d 1) 29 16 * elemOut (fld (dword d 1) 7 4) (fld (dword d 1) 11 8)) = true := h.foot
  have hfield : (s.booked 13 0 0 false [(s.operand m).toNat]).core.fabField (dword d 2) 8 8 = .ok () := fabField_ok h.status
  have hgroup : (s.booked 13 0 0 false [(s.operand m).toNat]).core.hasGroup (fld (dword d 1) 3 0) = true := hasGroup_of hg
  have hissue := fabIssue_reads (t := s.operand m) (a := fabA s) (b := fabB s) (count := 0)
    (op := .reduce (fld (dword d 1) 3 0) (fld (dword d 1) 7 4) (fld (dword d 1) 11 8) (fld (dword d 1) 29 16) (dword d 2))
    (descStart_of_reads hr) (entersWith_of_enters he)
  refine fabTrigger_acts hf hr ?_
  simp only [hcodes, bne_iff_ne.mpr h.some, hcw, h.aligned, hinside, hout, hfoot, hstatus, hfield, hin, fabRemote_ok h.there, hgroup, hpair,
    beq_self_eq_true, decide_true, Bool.and_self, must_true, ok_bind]
  exact hissue

/-- What fmcst asks of its fields and operands (R308, R319). -/
structure CastOk (s : State) (d : List Nat) (len : Nat) : Prop where
  cw : CwOk s
  some : 1 ≤ len
  most : len ≤ 4096
  here : LocalOk s (fabB s).toNat (64 * len)
  status : FieldOk s (dword d 3)
  there : RemoteOk (fabA s) 64
  flag : RemoteOk (dword d 2) 8

theorem fmcst_acts {ls : List Leaf} (hf : Fires s .scalar false m)
    (hr : Reads s 13 13 [0x1FFF100F, 2 ^ 57 - 1, 0xFFFFFF, 0, 0, 0, 0] (s.operand m) d) (h : CastOk s d (fld (dword d 1) 28 16))
    (hg : GroupUp s (fld (dword d 1) 3 0))
    (he : EntersWith s d (pagesAt (fabB s).toNat (64 * fld (dword d 1) 28 16)) [] (FabRoom s) ls) :
    execFmcst m s = .next (fabbed s (s.operand m) d (.cast (fld (dword d 1) 3 0) (fld (dword d 1) 28 16) (dword d 2) (bit (dword d 1) 12)
      (dword d 3)) (fabA s) (fabB s) 0 ls id) := by
  have hstatus : fld (dword d 3) 23 0 = dword d 3 := offset_of_mask (hr.rest 2 (by decide))
  have hcw : (s.booked 13 0 0 false [(s.operand m).toNat]).core.cwOk (BitVec.ofNat 64 (fabCw s)) = true := cwOk_of h.cw
  have hlocal : (s.booked 13 0 0 false [(s.operand m).toNat]).core.fabLocal false (fabB s).toNat (64 * fld (dword d 1) 28 16) = .ok () :=
    fabLocal_ok h.here
  have hfield : (s.booked 13 0 0 false [(s.operand m).toNat]).core.fabField (dword d 3) 8 8 = .ok () := fabField_ok h.status
  have hgroup : (s.booked 13 0 0 false [(s.operand m).toNat]).core.hasGroup (fld (dword d 1) 3 0) = true := hasGroup_of hg
  refine fabTrigger_acts hf hr ?_
  simp only [h.some, h.most, hcw, hlocal, hstatus, hfield, fabRemote_ok h.there, fabRemote_ok h.flag, hgroup, decide_true, Bool.and_self,
    must_true, ok_bind]
  exact fabIssue_reads (descStart_of_reads hr) he

/-! ## fgrp and fbar (R317, R320) -/

/-- A slot that books no row changes nothing. -/
theorem booked_nil (s : State) (unit store lat : Nat) (write : Bool) : s.booked unit store lat write [] = s := by
  simp only [State.booked, State.onCore, List.map_nil, List.dedup_nil, List.append_nil]

theorem ascending_of_pairwise : ∀ {l : List Nat}, l.Pairwise (· < ·) → ascending l = true
  | [], _ => rfl
  | [_], _ => rfl
  | a :: b :: l, h => by
    obtain ⟨ha, hrest⟩ := List.pairwise_cons.mp h
    simp only [ascending, ha b (List.mem_cons_self ..), decide_true, ascending_of_pairwise hrest, Bool.and_self]

/-- fgrp with CLR frees its group. -/
theorem fgrp_clears (hf : Fires s .scalar false m) (hcw : CwOk s)
    (hr : Reads s 13 14 [0x3F1F, 0xFFFFFFFF, 0xFFFFFF, 0, 0, 0, 0] (s.operand m) d) (he : Enters s d (FabRoom s))
    (hclr : bit (dword d 1) 4 = true) (hw : dword d 1 / 32 = 0) (h2 : dword d 2 = 0) (h3 : dword d 3 = 0)
    (hg : GroupUp s (fld (dword d 1) 3 0)) :
    execFgrp m s = .next (fabbed s (s.operand m) d (.group (fld (dword d 1) 3 0) true 0 []) 0 0 0 []
      fun f => { f with groups := f.groups.filter (·.1 != fld (dword d 1) 3 0) }) := by
  have hcw' : (s.booked 13 0 0 false [(s.operand m).toNat]).core.cwOk (BitVec.ofNat 64 (fabCw s)) = true := cwOk_of hcw
  have hgroup : (s.booked 13 0 0 false [(s.operand m).toNat]).core.hasGroup (fld (dword d 1) 3 0) = true := hasGroup_of hg
  have hbook : (s.booked 13 0 0 false [(s.operand m).toNat]).book 13 0 0 false [] = .ok (s.booked 13 0 0 false [(s.operand m).toNat]) :=
    (book_free fun _ _ off hoff => absurd hoff List.not_mem_nil).trans (congrArg Except.ok (booked_nil ..))
  have hissue := fabIssue_reads (t := s.operand m) (a := 0) (b := 0) (count := 0) (op := .group (fld (dword d 1) 3 0) true 0 [])
    (descStart_of_reads hr) (entersWith_of_enters he)
  refine fabTrigger_acts hf hr ?_
  simp only [hclr, hw, h2, h3, hcw', hgroup, hbook, hissue, beq_self_eq_true, Bool.not_true, Bool.false_or, Bool.and_self, Bool.false_eq_true,
    if_false, if_true, must_true, ok_bind, List.map_nil, ascending, List.all_nil, List.append_nil]
  rfl

/-- What fgrp asks of its member table (R317): aligned, in the footprint, no copy over it, its banks free, its members ascending and in range. -/
structure TableOk (s : State) (off n : Nat) : Prop where
  aligned : off % 16 = 0
  foot : s.core.task.spOk off (16 * n) = true
  copy : s.core.copyLate (coreDie s.focus) 0 [(off, 16 * n)] = none
  banks : BanksFree s 0 0 false (rowsIn off (16 * n))
  ascends : ((memberTable s.core.sp off n).map (·.1)).Pairwise (· < ·)
  range : ∀ x ∈ memberTable s.core.sp off n, x.1 < 4096 ∧ x.2 < 2 ^ 57

theorem memberTable_legal {off n : Nat} (h : TableOk s off n) : (ascending ((memberTable s.core.sp off n).map (·.1)) &&
    (memberTable s.core.sp off n).all fun e => e.1 < 4096 && e.2 < 2 ^ 57) = true := by
  rw [ascending_of_pairwise h.ascends, Bool.true_and, List.all_eq_true]
  intro x hx
  obtain ⟨hmod, hplace⟩ := h.range x hx
  rw [decide_eq_true hmod, decide_eq_true hplace, Bool.and_self]

/-- fgrp without CLR sets its group up from the member table, read in the issue cycle. -/
theorem fgrp_sets (hf : Fires s .scalar false m) (hcw : CwOk s)
    (hr : Reads s 13 14 [0x3F1F, 0xFFFFFFFF, 0xFFFFFF, 0, 0, 0, 0] (s.operand m) d) (he : Enters s d (FabRoom s))
    (hclr : bit (dword d 1) 4 = false) (h : TableOk s (dword d 3) (fld (dword d 1) 13 8 + 1)) :
    execFgrp m s = .next ((fabbed s (s.operand m) d
      (.group (fld (dword d 1) 3 0) false (dword d 2) (memberTable s.core.sp (dword d 3) (fld (dword d 1) 13 8 + 1))) 0 0 0 []
        fun f => { f with groups := f.groups.filter (·.1 != fld (dword d 1) 3 0) ++ [(fld (dword d 1) 3 0, 0)] }).booked 13 0 0 false
          (rowsIn (dword d 3) (16 * (fld (dword d 1) 13 8 + 1)))) := by
  have hoff : fld (dword d 3) 23 0 = dword d 3 := offset_of_mask (hr.rest 2 (by decide))
  have hcw' : (s.booked 13 0 0 false [(s.operand m).toNat]).core.cwOk (BitVec.ofNat 64 (fabCw s)) = true := cwOk_of hcw
  have hfoot : (s.booked 13 0 0 false [(s.operand m).toNat]).core.task.spOk (dword d 3) (16 * (fld (dword d 1) 13 8 + 1)) = true := h.foot
  have hcheck : (s.booked 13 0 0 false [(s.operand m).toNat]).copyCheck 0 [(dword d 3, 16 * (fld (dword d 1) 13 8 + 1))] = .ok () :=
    copyCheck_clear h.copy
  have htable : (ascending ((memberTable ((s.booked 13 0 0 false [(s.operand m).toNat]).booked 13 0 0 false
      (rowsIn (dword d 3) (16 * (fld (dword d 1) 13 8 + 1)))).core.sp (dword d 3) (fld (dword d 1) 13 8 + 1)).map (·.1)) &&
      (memberTable ((s.booked 13 0 0 false [(s.operand m).toNat]).booked 13 0 0 false
        (rowsIn (dword d 3) (16 * (fld (dword d 1) 13 8 + 1)))).core.sp (dword d 3) (fld (dword d 1) 13 8 + 1)).all
          fun e => e.1 < 4096 && e.2 < 2 ^ 57) = true := memberTable_legal (s := s) h
  have hissue {op : FabOp} := fabIssue_queued (op := op) (a := 0) (b := 0) (cw := fabCw s) (count := 0) (descStart_of_reads hr)
    (entersWith_booked (unit := 13) (store := 0) (lat := 0) (write := false) (offs := rowsIn (dword d 3) (16 * (fld (dword d 1) 13 8 + 1)))
      (entersWith_booked (unit := 13) (store := 0) (lat := 0) (write := false) (offs := [(s.operand m).toNat]) (entersWith_of_enters he)))
  refine fabTrigger_acts hf hr ?_
  simp only [hclr, hoff, hcw', Core.fabField, h.aligned, hfoot, hcheck, book_free (banksFree_booked h.banks), htable, hissue, beq_self_eq_true,
    Bool.not_false, Bool.true_or, Bool.false_eq_true, if_false, if_true, must_true, ok_bind]
  rfl

/-- fbar counts its operations on the group (R320). -/
theorem fbar_acts {n : Nat} (hf : Fires s .scalar false m) (hcw : CwOk s)
    (hr : Reads s 13 15 [0xF, 0xFFFFFF, 0, 0, 0, 0, 0] (s.operand m) d) (hfield : FieldOk s (dword d 2))
    (hg : GroupUp s (fld (dword d 1) 3 0)) (he : Enters s d (FabRoom s))
    (hn : s.core.eng.fab.groups.lookup (fld (dword d 1) 3 0) = some n) :
    execFbar m s = .next (fabbed s (s.operand m) d (.barrier (fld (dword d 1) 3 0) (dword d 2)) 0 0 (n + 1) []
      fun f => { f with groups := f.groups.map fun x => if x.1 = fld (dword d 1) 3 0 then (fld (dword d 1) 3 0, n + 1) else x }) := by
  have hstatus : fld (dword d 2) 23 0 = dword d 2 := offset_of_mask (hr.rest 1 (by decide))
  have hcw' : (s.booked 13 0 0 false [(s.operand m).toNat]).core.cwOk (BitVec.ofNat 64 (fabCw s)) = true := cwOk_of hcw
  have hfield' : (s.booked 13 0 0 false [(s.operand m).toNat]).core.fabField (dword d 2) 8 8 = .ok () := fabField_ok hfield
  have hgroup : (s.booked 13 0 0 false [(s.operand m).toNat]).core.hasGroup (fld (dword d 1) 3 0) = true := hasGroup_of hg
  have hseq : (s.booked 13 0 0 false [(s.operand m).toNat]).core.eng.fab.groups.lookup (fld (dword d 1) 3 0) = some n := hn
  have hissue := fabIssue_reads (t := s.operand m) (a := 0) (b := 0) (count := n + 1) (op := .barrier (fld (dword d 1) 3 0) (dword d 2))
    (descStart_of_reads hr) (entersWith_of_enters he)
  refine fabTrigger_acts hf hr ?_
  simp only [hstatus, hcw', hfield', hgroup, hseq, Option.getD_some, hissue, must_true, ok_bind]
  rfl

/-! ## fstat (R321) -/

theorem fstat_acts (hf : Fires s .scalar false m) (ht : (s.operand m).toNat ≤ 2) (hr : Room s 1) :
    execFstat m s = .next { ((s.sent 13 [(200, .scalar true none, 0)]).onEng fun e => { e with fab := { e.fab with
      stats := e.fab.stats ++ [(s.core.seq, (s.operand m).toNat, s.nReq, s.wall + 1 + Config.outsideDelay s.nReq)] } }) with
        nReq := s.nReq + 1 } := by
  have hissue : s.issue1 13 200 (.scalar true none) = .ok (s.sent 13 [(200, .scalar true none, 0)]) := issue1_room (by decide) hr
  refine scalarTrigger_acts hf ?_
  simp only [ht, hissue, decide_true, must_true, ok_bind]
  rfl

end Groups

theorem exec_fmcred (m : Move) (s : State) : exec (.fmcred m) s = execFmcred m s := rfl
theorem exec_fmcst (m : Move) (s : State) : exec (.fmcst m) s = execFmcst m s := rfl
theorem exec_fgrp (m : Move) (s : State) : exec (.fgrp m) s = execFgrp m s := rfl
theorem exec_fbar (m : Move) (s : State) : exec (.fbar m) s = execFbar m s := rfl
theorem exec_fstat (m : Move) (s : State) : exec (.fstat m) s = execFstat m s := rfl

/-- Settles O42: the entry of each command, fgrp by CLR, and the pending result of fstat. -/
theorem groupCommands : Obligations.GroupCommands := by
  unfold Obligations.GroupCommands
  intro m s d ls hf t w a b g
  refine ⟨fun hcw => ⟨fun hr hpair hn hal hin hfoot hst hthere hg he => ?red, fun hr hlo hhi hhere hst hthere hflag hg he => ?cast, fun hr he => ⟨?clear, ?set⟩,
    fun n hr hst hg he hn => (exec_fbar m s).trans (fbar_acts hf hcw hr hst hg he hn)⟩, fun ht hr => (exec_fstat m s).trans (fstat_acts hf ht hr)⟩
  case red => exact (exec_fmcred m s).trans (fmcred_acts hf hr ⟨hcw, hpair, hn, hal, hin, hfoot, hst, hthere⟩ hg he)
  case cast =>
    rw [← bit_eq_bits]
    exact (exec_fmcst m s).trans (fmcst_acts hf hr ⟨hcw, hlo, hhi, hhere, hst, hthere, hflag⟩ hg he)
  case clear =>
    intro hclr hw h2 h3 hg
    exact (exec_fgrp m s).trans (fgrp_clears hf hcw hr he (bit_of_bits hclr) hw h2 h3 hg)
  case set =>
    rintro tbl hclr hal hfoot hcopy hbanks rfl hasc hrange
    exact (exec_fgrp m s).trans (fgrp_sets hf hcw hr he (bit_of_bits_zero hclr) ⟨hal, hfoot, hcopy, hbanks, hasc, hrange⟩)

/-! ## tissue (R330, R369) -/

section Tiles

variable {m : Move} {s : State}

/-- What tissue asks of the place of its word (R330, R355, R364). -/
structure WordPlace (s : State) (t : W64) : Prop where
  aligned : t.toNat % 32 = 0
  inside : t.toNat < 0x400000
  foot : s.core.task.spOk t.toNat 32 = true
  copy : s.core.copyLate (coreDie s.focus) 0 [(t.toNat, 32)] = none
  bank : BanksFree s 0 0 false [t.toNat]

/-- The checks of a word in the order of R330 and R369: the word, its formats, its stage, its target, and the room for it. -/
def wordChecks (s : State) (w : List Nat) : Except Exc Unit := do
  must (tileWordOk w) (.of .tileWord)
  must (tileComboOk w) (.of .fmtCombo)
  must (1 < tileLevel w || 12 ≤ tileOpc w || 16 ≤ s.core.task.spUnits) (.of .tileStage)
  must (s.core.task.mayTarget w) (.of .tileDenied)
  must (s.tilesOf.length < 4) (.of .tileQueue)

/-- The queue entry of a word (R330, R387). -/
def tileEntry (s : State) (w : List Nat) : TileInstr :=
  ⟨s.nReq, w, s.focus, false, s.core.here 14, s.core.task.slot, s.core.task.launchId, s.core.gid, s.core.eng.nid, false, [], [], 0, []⟩

/-- The state after a word entered the queue with the pages of its completion area (R330, R369). -/
def tiled (u : State) (x : TileInstr) (ls : List Leaf) : State :=
  { (({ u with nReq := u.nReq + 1 }).pin (2 ^ 62 + u.nReq) ls).onCore (fun c => { c with gid := c.gid + 1 }) with
    mod := { u.mod with tiles := u.mod.tiles ++ [x] } }

theorem tiled_after {x : TileInstr} {ls : List Leaf} {offs : List Nat} :
    let u := tiled (s.booked 14 0 0 false offs) x ls
    u.mod = { s.mod with tiles := s.mod.tiles ++ [x] } ∧ u.core.gid = s.core.gid + 1 ∧ u.nReq = s.nReq + 1 ∧
    u.core.eng = { s.core.eng with pins := if ls.isEmpty then s.core.eng.pins else s.core.eng.pins ++ [(2 ^ 62 + s.nReq, ls)] } ∧
    SameRegs s.core u.core ∧ SameStores s.core u.core ∧ SameOthers s u ∧ u.core.pend = s.core.pend := by
  simp only [tiled, State.booked, State.pin, State.onEng, State.onCore, SameRegs, SameStores, SameOthers, and_self]

/-- At a legal place tissue comes to the checks of its word, then to its completion area, then to its entry. -/
theorem execTissue_legal (h : WordPlace s (s.operand m)) : execTissue m s = scalarTrigger 14 m s fun _ => do
    wordChecks s (tileWords s (s.operand m))
    let ls ← (s.booked 14 0 0 false [(s.operand m).toNat]).areaLeaves (tileWords s (s.operand m))
    return tiled (s.booked 14 0 0 false [(s.operand m).toNat]) (tileEntry s (tileWords s (s.operand m))) ls := by
  have hinside : (s.operand m).toNat < spSize := h.inside
  refine congrArg (slotMove 14 .scalar false m s) ?_
  have ht : s.core.takeScalar m.src = s.operand m := rfl
  simp only [ht, h.aligned, hinside, h.foot, copyCheck_clear h.copy, book_free h.bank, wordChecks, bind_assoc, beq_self_eq_true, decide_true,
    Bool.and_self, must_true, ok_bind]
  rfl

/-- The completion area of a legal place takes these leaves. -/
theorem areaLeaves_legal {w : List Nat} {ls : List Leaf} {offs : List Nat} (h : AreaOk s w ls) :
    (s.booked 14 0 0 false offs).areaLeaves w = .ok ls := by
  obtain ⟨off, hr, hfoot, rfl⟩ | ⟨hglobal, hcover, hpins⟩ := h
  · have hfoot' : (s.booked 14 0 0 false offs).core.task.spOk off 56 = true := hfoot
    simp only [State.areaLeaves, hr, hfoot', must_true, ok_bind]
    rfl
  · have hroom : (s.booked 14 0 0 false offs).core.pinRoom ls = true := decide_eq_true hpins
    unfold State.areaLeaves
    split
    next off hr => exact absurd hr (hglobal off)
    next => rw [coverRanges_booked, hcover, ok_bind, hroom, must_true, ok_bind]; rfl

/-- The formats of a word are legal unless it is a product whose formats do not combine, or a sparse one with SR 3 (R369). -/
theorem tileComboOk_iff {w : List Nat} :
    tileComboOk w = true ↔ 2 < tileOpc w ∨ (fmtCombo (tileFmt w) (tileSr w) = true ∧ (tileOpc w = 0 ∨ tileSr w ≠ 3)) := by
  simp only [tileComboOk, Bool.or_eq_true, decide_eq_true_eq, Bool.and_eq_true, Bool.not_eq_true', Bool.and_eq_false_iff, bne_eq_false_iff_eq,
    beq_eq_false_iff_ne]

theorem wordChecks_ok {w : List Nat} (h : TileOk s w) : wordChecks s w = .ok () := by
  have hstage : (decide (1 < tileLevel w) || decide (12 ≤ tileOpc w) || decide (16 ≤ s.core.task.spUnits)) = true := by
    simpa only [Bool.or_eq_true, decide_eq_true_eq, or_assoc] using h.stage
  simp only [wordChecks, h.word, tileComboOk_iff.mpr h.combo, hstage, h.granted, decide_eq_true h.room, must_true, ok_bind]

/-- tissue with a legal word enters the queue (R330, R369). -/
theorem tissue_enters {ls : List Leaf} (hf : Fires s .scalar false m) (h : WordPlace s (s.operand m)) (hw : TileOk s (tileWords s (s.operand m)))
    (ha : AreaOk s (tileWords s (s.operand m)) ls) :
    execTissue m s = .next (tiled (s.booked 14 0 0 false [(s.operand m).toNat]) (tileEntry s (tileWords s (s.operand m))) ls) := by
  rw [execTissue_legal h]
  refine scalarTrigger_acts hf ?_
  rw [wordChecks_ok hw, ok_bind, areaLeaves_legal ha, ok_bind]
  rfl

/-- A word that fails a check stops tissue with its cause. -/
theorem tissue_stops {c : Cause} (hf : Fires s .scalar false m) (h : WordPlace s (s.operand m))
    (hw : wordChecks s (tileWords s (s.operand m)) = .error (.of c)) : ∃ u, execTissue m s = .next u ∧ StopsWith s u c 0 0 0 := by
  rw [execTissue_legal h]
  exact scalarTrigger_stops hf.legal hf.guard (by rw [hw]; rfl)

section Refused

variable {w : List Nat}

theorem wordChecks_word (h : tileWordOk w = false) : wordChecks s w = .error (.of .tileWord) := by
  simp only [wordChecks, h]
  rfl

theorem wordChecks_combo (h : tileWordOk w = true) (hc : tileComboOk w = false) : wordChecks s w = .error (.of .fmtCombo) := by
  simp only [wordChecks, h, hc, must_true, ok_bind]
  rfl

/-- A word that is no product passes the checks of formats and stage. -/
theorem wordChecks_host (h : tileWordOk w = true) (ho : 12 ≤ tileOpc w) : wordChecks s w = (do
    must (s.core.task.mayTarget w) (.of .tileDenied)
    must (s.tilesOf.length < 4) (.of .tileQueue)) := by
  simp only [wordChecks, h, tileComboOk_iff.mpr (.inl (by omega : 2 < tileOpc w)), ho, decide_true, Bool.or_true, Bool.true_or, must_true, ok_bind]

theorem wordChecks_denied (h : tileWordOk w = true) (ho : 12 ≤ tileOpc w) (hg : s.core.task.mayTarget w = false) :
    wordChecks s w = .error (.of .tileDenied) := by
  rw [wordChecks_host h ho, hg]
  rfl

theorem wordChecks_full (h : tileWordOk w = true) (ho : 12 ≤ tileOpc w) (hg : s.core.task.mayTarget w = true) (hn : 4 ≤ s.tilesOf.length) :
    wordChecks s w = .error (.of .tileQueue) := by
  rw [wordChecks_host h ho, hg, must_true, ok_bind, decide_eq_false (Nat.not_lt.mpr hn)]
  rfl

end Refused

/-- tissue at a place out of line stops with ALIGN (R330). -/
theorem tissue_misaligned (hf : Fires s .scalar false m) (h : (s.operand m).toNat % 32 ≠ 0) :
    ∃ u, execTissue m s = .next u ∧ StopsWith s u .align 0 (spBase + (s.operand m).toNat) 0 := by
  have hal : ((s.operand m).toNat % 32 == 0) = false := beq_eq_false_iff_ne.mpr h
  refine scalarTrigger_stops hf.legal hf.guard ?_
  dsimp only
  rw [hal]
  rfl

/-! ## tstat (R330, R387) -/

theorem tstat_counts (hf : Fires s .scalar false m) (hr : Room s 1) (ht : s.operand m = 0) :
    execTstat m s = .next (s.sentScalar 14 2 (BitVec.ofNat 64 (s.tilesOf.length +
      (if s.core.task.pkgGrant then 256 else 0) + (if s.core.task.grpGrant then 512 else 0)))) := by
  have hgrants (b : Bool) (k : Nat) : b2n b * k = if b then k else 0 := by cases b <;> simp [b2n]
  refine scalarTrigger_acts hf ?_
  rw [ht, ← hgrants, ← hgrants]
  exact result_room (by decide) hr

theorem tstat_fails (hf : Fires s .scalar false m) (hr : Room s 1) (ht : s.operand m = 1) :
    execTstat m s = .next (s.sentScalar 14 2 s.core.eng.tileFail) := by
  refine scalarTrigger_acts hf ?_
  rw [ht]
  exact result_room (by decide) hr

theorem tstat_stops (hf : Fires s .scalar false m) (ht : 1 < (s.operand m).toNat) :
    ∃ u, execTstat m s = .next u ∧ StopsWith s u .ctlSel 0 0 0 := by
  refine scalarTrigger_stops hf.legal hf.guard ?_
  split
  next h0 => omega
  next h1 => omega
  next => rfl

end Tiles

theorem exec_tissue (m : Move) (s : State) : exec (.tissue m) s = execTissue m s := rfl
theorem exec_tstat (m : Move) (s : State) : exec (.tstat m) s = execTstat m s := rfl

/-- Settles O43: tissue at a legal place passes or fails the checks of its word, and tstat by its selector. -/
theorem tileIssue : Obligations.TileIssue := by
  unfold Obligations.TileIssue
  intro m s hf t w stops
  dsimp only [stops]
  simp only [exec_tissue, exec_tstat]
  refine ⟨fun hal hin hfoot hcopy hbank => ?_, fun hr => ⟨tstat_counts hf hr, tstat_fails hf hr⟩, tissue_misaligned hf, tstat_stops hf⟩
  have hp : WordPlace s (s.operand m) := ⟨hal, hin, hfoot, hcopy, hbank⟩
  refine ⟨fun ls hw ha => ⟨_, tissue_enters hf hp hw ha, ?_⟩, fun hw => tissue_stops hf hp (wordChecks_word hw),
    fun hw ho hc => tissue_stops hf hp (wordChecks_combo hw ?_), fun hw ho hg => tissue_stops hf hp (wordChecks_denied hw ho hg),
    fun hw ho hg hn => tissue_stops hf hp (wordChecks_full hw ho hg hn)⟩
  · exact tiled_after
  · rw [← Bool.not_eq_true, tileComboOk_iff]
    rintro (hlow | ⟨hcombo, hsparse⟩)
    · exact absurd hlow (Nat.not_lt.mpr ho)
    · obtain hbad | ⟨hop, hsr⟩ := hc
      · exact absurd hcombo (Bool.not_eq_true _ |>.mpr hbad)
      · exact hsparse.elim hop fun hne => hne hsr

end Sys2Proof.Machine

/-! PROOF. The Flue island: what lets a held request go on (R440). -/

namespace Sys2Proof.Machine
open Sys2Proof.Manual

/-! ## A notice of lost stores among the requests that wait -/

/-- A notice that a store of core 0 of this module was lost on its way (R314). -/
def lostNotice : RemoteReq :=
  { srcMod := 0, srcCore := 0, srcInc := 0, tgtInc := Flue.reset.inc, srcAsid := 0, addr := 0, tag := 0, cls := 0, op := .dropped 0 }

/-- A module whose island is up, with core 0 running and no ASID mapped, where that notice waits. -/
def noticeWaits : State :=
  { State.reset with
    due := [], core := { Core.zero with mode := .run }
    mod := { Module.reset with flue := { Flue.reset with state := 3, up := true, waiting := [lostNotice] } } }

/-- How many steps are due after a step. -/
def dueCount : Out → Nat
  | .next t => t.due.length
  | _ => 0

/-- Let go on, the notice is served as a request of an unmapped ASID, and its refusal is due. -/
theorem dueCount_letOn : dueCount (exec (.heldWritesApply 0) noticeWaits) = 1 := by decide +kernel

/-- Come in by itself, the notice only counts the store. -/
theorem dueCount_inbound :
    dueCount (exec (.inboundRemoteRequest lostNotice) (noticeWaits.onFlue fun f => { f with waiting := [] })) = 0 := by decide +kernel

/-- Refutes O58: its clause on a request that waits alone says that letting it go on is the same as its coming in. A notice of lost stores
(`.dropped`, R314), which the clause does not except, is counted and never answered as it comes in, but would be served, and here refused with
ASID_BAD, as it goes on. No run has a notice wait (`letIn` is not applied to it); the clause wants the premise that the request is none. -/
theorem not_fabricSteps : ¬ Obligations.FabricSteps := by
  unfold Obligations.FabricSteps
  rintro ⟨-, -, -, -, -, -, -, -, hheld, -⟩
  obtain ⟨-, -, hwait⟩ := hheld noticeWaits 0
  have hsame := hwait lostNotice rfl rfl ⟨by decide, rfl⟩ (by decide +kernel) rfl rfl (by decide +kernel)
  have hdue := congrArg dueCount hsame
  rw [dueCount_letOn, dueCount_inbound] at hdue
  exact absurd hdue (by decide)

end Sys2Proof.Machine

/-! PROOF. Records and launches that end: the completion word, what a launch takes with it, and what stays (R402, R407, R417). -/

namespace Sys2Proof.Machine
open Sys2Proof.Manual

/-! ## Memory below the context area (R409) -/

section Low

variable {m m' : Mem} {a b n k v : Nat}

theorem rdLE_congr (h : ∀ x, a ≤ x → x < a + n → rdByte m' x = rdByte m x) : rdLE m' a n = rdLE m a n := by
  induction n generalizing a with
  | zero => rfl
  | succ n ih =>
    rw [rdLE, rdLE, h a (Nat.le_refl a) (by omega), ih fun x hlo hhi => h x (by omega) (by omega)]

/-- A number stays beside a write that leaves its bytes alone. -/
theorem rdLE_wrLE_out (h : b + k ≤ a ∨ a + n ≤ b) : rdLE (wrLE m a n v) b k = rdLE m b k :=
  rdLE_congr fun _ hlo hhi => rdByte_wrLE_out _ _ _ _ (by omega)

/-- The bytes below the context area. -/
def lowMem (m : Mem) (x : Nat) : Byte := if x < ctxBase then rdByte m x else 0

theorem lowMem_wrLE (h : ctxBase ≤ a) : lowMem (wrLE m a n v) = lowMem m := by
  funext x
  unfold lowMem
  split
  · exact rdByte_wrLE_out _ _ _ _ (by omega)
  · rfl

theorem rdLE_of_lowMem (h : lowMem m' = lowMem m) (ha : a + n ≤ ctxBase) : rdLE m' a n = rdLE m a n := by
  refine rdLE_congr fun x hlo hhi => ?_
  have hx := congrFun h x
  simpa only [lowMem, if_pos (show x < ctxBase by omega)] using hx

end Low

theorem ctxBase_le_debugBlock (i : Nat) : ctxBase ≤ debugBlock i := by unfold debugBlock; omega
theorem ctxBase_le_traceBlock (i : Nat) : ctxBase ≤ traceBlock i := by unfold traceBlock; omega
theorem ctxBase_le_frameEntry (slot i : Nat) : ctxBase ≤ frameEntry slot i := by unfold frameEntry; omega

/-! ## Completion words (R309, R402) -/

section Records

variable {s : State} {w : List Nat} {q code : Nat}

theorem completeWord_lt (v : Nat) (h : v < 2 ^ 64) (code : Nat) : completeWord v code < 2 ^ 64 := by
  unfold completeWord
  split
  · omega
  · split <;> omega

/-- A record whose completion word can be written completes: that word changes, its granule counts as published, the queue's vector is raised if the
record asks for it. -/
theorem finishRecord_sets (h : s.poisoned (recCw w) 8 = false) : s.finishRecord q w code =
    { s with
      mem := wrLE s.mem (recCw w) 8 (completeWord (rdLE s.mem (recCw w) 8) code)
      tags := sset unmarked s.tags (granuleOf (recCw w)) (markOf 0x3FF 0 true false)
      mod := { s.mod with host := if recIrq w then s.mod.host.raise q else s.mod.host } } := by
  unfold State.finishRecord
  rw [h]
  cases recIrq w <;> rfl

theorem finishRecord_completes (h : CwFree s w) : Completed s (s.finishRecord q w code) w code := by
  rw [finishRecord_sets h.clean]
  exact (rdLE_wrLE _ _ _ _).trans (Nat.mod_eq_of_lt (completeWord_lt _ (rdLE_lt _ _ _) _))

/-- What completed stays completed while the bytes below the context area stand. -/
theorem completed_of_lowMem {t u : State} (h : CwFree s w) (ht : Completed s t w code) (hm : lowMem u.mem = lowMem t.mem) : Completed s u w code :=
  (rdLE_of_lowMem hm h.low).trans ht

@[simp] theorem finishRecord_coreAt (i : Nat) : (s.finishRecord q w code).coreAt i = s.coreAt i := by
  unfold State.finishRecord
  dsimp only
  split <;> split <;> rfl

@[simp] theorem finishRecord_launches : (s.finishRecord q w code).mod.launches = s.mod.launches := by
  unfold State.finishRecord
  dsimp only
  split <;> split <;> rfl

end Records

/-! ## What leaves with a launch (R40, R407, R417) -/

section Leave

variable {s : State} {l : Launch} {reason code i : Nat}

/-- A core is found by the index in focus, the core there, and the others. -/
theorem coreAt_congr {s t : State} (hf : t.focus = s.focus) (hc : t.core = s.core) (ho : t.others = s.others) (i : Nat) : t.coreAt i = s.coreAt i := by
  simp only [State.coreAt, hf, hc, ho]

theorem setFrameEntry_sets (s : State) (slot i v : Nat) : ∃ m, s.setFrameEntry slot i v = { s with mem := m } := ⟨_, rfl⟩

theorem setFrameEntry_coreAt (s : State) (slot k v i : Nat) : (s.setFrameEntry slot k v).coreAt i = s.coreAt i := by
  obtain ⟨m, hm⟩ := setFrameEntry_sets s slot k v
  rw [hm]
  rfl

theorem debugState_coreAt (s : State) (k st frame i : Nat) : (s.debugState k st frame).coreAt i = s.coreAt i := by
  obtain ⟨m, hm⟩ := debugState_sets s k st frame
  rw [hm]
  rfl

theorem setFrameEntry_mod (s : State) (slot k v : Nat) : (s.setFrameEntry slot k v).mod = s.mod := by
  obtain ⟨m, hm⟩ := setFrameEntry_sets s slot k v
  rw [hm]

theorem debugState_mod (s : State) (k st frame : Nat) : (s.debugState k st frame).mod = s.mod := by
  obtain ⟨m, hm⟩ := debugState_sets s k st frame
  rw [hm]

@[simp] theorem closeTrace_mode (c : Core) (ts : W64) (src reason : Nat) : (c.closeTrace ts src reason).mode = c.mode := by
  unfold Core.closeTrace
  split <;> rfl

/-- What one core of a launch that leaves comes to. -/
def leaveCore (s : State) (l : Launch) (reason : Nat) (st : State) (i : Nat) : State :=
  let mine := (s.coreAt i).mode != .off && (s.coreAt i).task.launchId == l.id
  let c := st.coreAt i
  let c1 := if c.trace.launch == l.id then c.closeTrace s.ts i reason else c
  let st1 := if mine then st.setCore i { Core.zero with trace := c1.trace } else st.setCore i c1
  let st3 := st1.setFrameEntry l.slot i 0
  if mine && c.mode == .stopped then st3.debugState i 0 0 else st3

theorem leaveCore_lowMem (st : State) : lowMem (leaveCore s l reason st i).mem = lowMem st.mem := by
  unfold leaveCore
  dsimp only
  split
  · rw [State.debugState, State.setFrameEntry, lowMem_wrLE (by have := ctxBase_le_debugBlock i; omega), lowMem_wrLE (ctxBase_le_frameEntry ..)]
    split <;> rw [setCore_mem]
  · rw [State.setFrameEntry, lowMem_wrLE (ctxBase_le_frameEntry ..)]
    split <;> rw [setCore_mem]

@[simp] theorem leaveCore_mod (st : State) : (leaveCore s l reason st i).mod = st.mod := by
  unfold leaveCore
  dsimp only
  split <;> split <;> simp only [debugState_mod, setFrameEntry_mod, setCore_mod]

/-- The core that leaves. -/
theorem leaveCore_coreAt_same (st : State) : (leaveCore s l reason st i).coreAt i =
    (let c := st.coreAt i
     let c1 := if c.trace.launch == l.id then c.closeTrace s.ts i reason else c
     if ((s.coreAt i).mode != .off && (s.coreAt i).task.launchId == l.id) = true then { Core.zero with trace := c1.trace } else c1) := by
  unfold leaveCore
  dsimp only
  split <;> split <;> simp only [debugState_coreAt, setFrameEntry_coreAt, coreAt_setCore_same]

theorem leaveCore_coreAt_ne {j : Nat} (h : j ≠ i) (st : State) : (leaveCore s l reason st i).coreAt j = st.coreAt j := by
  unfold leaveCore
  dsimp only
  split <;> split <;> simp only [debugState_coreAt, setFrameEntry_coreAt, coreAt_setCore_ne _ _ h]

/-- The cores of a launch that leaves, one by one. -/
def leaveCores (s : State) (l : Launch) (reason : Nat) : State := l.rect.cores.foldl (leaveCore s l reason) s

theorem leaveCores_lowMem : lowMem (leaveCores s l reason).mem = lowMem s.mem :=
  foldl_keeps (g := fun st : State => lowMem st.mem) (fun _ _ st => leaveCore_lowMem st) s

theorem leaveCores_mod : (leaveCores s l reason).mod = s.mod :=
  foldl_keeps (g := fun st : State => st.mod) (fun _ _ st => leaveCore_mod st) s

theorem leaveCores_coreAt_out (h : i ∉ l.rect.cores) : (leaveCores s l reason).coreAt i = s.coreAt i :=
  foldl_keeps (g := fun st : State => st.coreAt i)
    (fun x hx st => leaveCore_coreAt_ne (fun he : i = x => h (by rw [he]; exact hx)) st) s

/-- Every core that the launch held is off. -/
theorem leaveCores_off (hi : i ∈ l.rect.cores) (hl : (s.coreAt i).task.launchId = l.id) : ((leaveCores s l reason).coreAt i).mode = .off := by
  unfold leaveCores
  by_cases hm : (s.coreAt i).mode = .off
  · refine (foldl_keeps (g := fun st : State => (st.coreAt i).mode) (fun x _ st => ?_) s).trans hm
    by_cases hx : i = x
    · subst hx
      rw [leaveCore_coreAt_same, hm]
      dsimp only
      simp only [bne_self_eq_false, Bool.false_and, Bool.false_eq_true, if_false]
      split <;> simp only [closeTrace_mode]
    · rw [leaveCore_coreAt_ne hx]
  · refine foldl_sets (g := fun st : State => (st.coreAt i).mode) hi (fun st => ?_) (fun x _ hne st => by rw [leaveCore_coreAt_ne hne.symm]) s
    have hmine : ((s.coreAt i).mode != .off && (s.coreAt i).task.launchId == l.id) = true := by
      rw [hl, bne_iff_ne.mpr hm, beq_self_eq_true, Bool.true_and]
    rw [leaveCore_coreAt_same, if_pos hmine]
    rfl

/-- A launch leaves its cores one by one, then the module. -/
theorem clearLaunch_eq : s.clearLaunch l reason = ((leaveCores s l reason).onMod fun m => { m with
    images := m.images.filter fun x => x.core.task.launchId != l.id
    barriers := m.barriers.filter fun b => b.slot != l.slot
    pushes := m.pushes.filter fun p => p.launch != l.id
    gens := m.gens.filter fun g => g.1 != l.slot
    flue := { m.flue with
      ops := m.flue.ops.filter fun o => o.launch != l.id
      groups := m.flue.groups.filter fun g => g.launch != l.id
      held := m.flue.held.filter fun h => h.launch != l.id } }).dropLaunch l.slot := rfl

theorem clearLaunch_lowMem : lowMem (s.clearLaunch l reason).mem = lowMem s.mem := by
  simp only [clearLaunch_eq, State.dropLaunch, State.onMod, leaveCores_lowMem]

theorem clearLaunch_launches : (s.clearLaunch l reason).mod.launches = s.mod.launches.filter fun x => x.slot != l.slot := by
  simp only [clearLaunch_eq, State.dropLaunch, State.onMod, leaveCores_mod]

theorem clearLaunch_coreAt : (s.clearLaunch l reason).coreAt i = (leaveCores s l reason).coreAt i := by
  rw [clearLaunch_eq]
  refine coreAt_congr ?_ ?_ ?_ i <;> simp only [State.dropLaunch, State.onMod]

@[simp] theorem publishLaunch_coreAt : (s.publishLaunch l).coreAt i = s.coreAt i := by
  refine coreAt_congr ?_ ?_ ?_ i <;> simp only [State.publishLaunch]

@[simp] theorem publishLaunch_mod : (s.publishLaunch l).mod = s.mod := by
  simp only [State.publishLaunch]

/-- A running launch without tile instructions ends: its logs are published, its record completes, and it leaves the module. -/
theorem endLaunch_running (hst : l.state = .running) (ht : s.mod.tiles = []) : s.endLaunch l code reason =
    ((s.publishLaunch l).finishRecord l.queue l.words code).clearLaunch l reason := by
  simp only [State.endLaunch, hst, ht, reduceCtorEq, if_false, List.filter_nil, List.foldl_nil]

/-- A launch that ends as its record completes with a code. -/
structure EndsWith (s t : State) (l : Launch) (code : Nat) : Prop where
  completed : Completed s t l.words code
  launches : t.mod.launches = s.mod.launches.filter fun x => x.slot != l.slot
  off : ∀ i ∈ l.rect.cores, (s.coreAt i).task.launchId = l.id → (t.coreAt i).mode = .off
  others : ∀ i, i ∉ l.rect.cores → t.coreAt i = s.coreAt i

theorem cwFree_publishLaunch {w : List Nat} (h : CwFree s w) : CwFree (s.publishLaunch l) w :=
  ⟨h.word, by simpa only [State.poisoned, publishLaunch_mod] using h.clean, h.low⟩

theorem finishClear_ends (h : CwFree s l.words) :
    EndsWith s (((s.publishLaunch l).finishRecord l.queue l.words code).clearLaunch l reason) l code where
  completed := by
    have hdone := finishRecord_completes (q := l.queue) (code := code) (cwFree_publishLaunch (l := l) h)
    rw [Completed, publishLaunch_mem] at hdone
    exact completed_of_lowMem h hdone clearLaunch_lowMem
  launches := by rw [clearLaunch_launches, finishRecord_launches, publishLaunch_mod]
  off i hi hl := by
    rw [clearLaunch_coreAt]
    exact leaveCores_off hi (by rwa [finishRecord_coreAt, publishLaunch_coreAt])
  others i hi := by rw [clearLaunch_coreAt, leaveCores_coreAt_out hi, finishRecord_coreAt, publishLaunch_coreAt]

theorem endLaunch_ends (hst : l.state = .running) (ht : s.mod.tiles = []) (h : CwFree s l.words) : EndsWith s (s.endLaunch l code reason) l code := by
  rw [endLaunch_running hst ht]
  exact finishClear_ends h

end Leave

end Sys2Proof.Machine

/-! PROOF. What of the island and the hub stays while launches end and queues are flushed (R402, R407, R408). -/

namespace Sys2Proof.Machine
open Sys2Proof.Manual

/-- What of the island and the hub no end of a launch changes: the endpoint, its incarnation, the island's state, the hub but for its poison. -/
def standingOf (s : State) : Bool × BitVec 8 × Nat × Hub :=
  (s.mod.flue.up, s.mod.flue.inc, s.mod.flue.state, { s.mod.hub with poison := [] })

section Stands

variable {s : State}

theorem standingOf_eq {t : State} (h : standingOf t = standingOf s) : t.mod.flue.up = s.mod.flue.up ∧ t.mod.flue.inc = s.mod.flue.inc ∧
    t.mod.flue.state = s.mod.flue.state ∧ { t.mod.hub with poison := [] } = { s.mod.hub with poison := [] } := by
  simpa only [standingOf, Prod.mk.injEq] using h

/-- A part of the hub other than its poison. -/
theorem hub_of_standingOf {α : Type} {t : State} (h : standingOf t = standingOf s) (f : Hub → α) (hf : ∀ k : Hub, f { k with poison := [] } = f k) :
    f t.mod.hub = f s.mod.hub := by
  obtain ⟨-, -, -, hhub⟩ := standingOf_eq h
  rw [← hf, hhub, hf]

theorem standingOf_of_mod {t : State} (h : t.mod = s.mod) : standingOf t = standingOf s := by rw [standingOf, h, standingOf]

@[simp] theorem later_standing_hub (l : List Instr) : standingOf (s.later l) = standingOf s := rfl
@[simp] theorem setTag_standing_hub (pa : Nat) (t : BitVec 18) : standingOf (s.setTag pa t) = standingOf s := rfl
@[simp] theorem raiseMsix_standing_hub (v : Nat) : standingOf (s.raiseMsix v) = standingOf s := rfl
@[simp] theorem onQueue_standing_hub (q : Nat) (f : Queue → Queue) : standingOf (s.onQueue q f) = standingOf s := rfl
@[simp] theorem dropLaunch_standing_hub (slot : Nat) : standingOf (s.dropLaunch slot) = standingOf s := rfl
@[simp] theorem setCore_standing_hub (i : Nat) (c : Core) : standingOf (s.setCore i c) = standingOf s := standingOf_of_mod (setCore_mod ..)
@[simp] theorem mem_standing_hub (m : Mem) : standingOf { s with mem := m } = standingOf s := rfl

@[simp] theorem memPut_standing_hub (pa : Nat) (data : List Byte) : standingOf (s.memPut pa data) = standingOf s := by
  unfold State.memPut State.notice
  refine (foldl_keeps (g := standingOf) (fun i _ st => ?_) _).trans rfl
  exact setCore_standing_hub ..

@[simp] theorem memWrite_standing_hub (pa : Nat) (repl : Bool) (data : List Byte) : standingOf (s.memWrite pa repl data) = standingOf s := by
  unfold State.memWrite
  split
  · exact foldl_keeps (g := standingOf) (fun _ _ _ => memPut_standing_hub ..) s
  · exact memPut_standing_hub ..

theorem deposit_mod (i : Nat) (pl : Place) (rank grp : Nat) (acc : Bool) (off : Nat) (data : List Byte) (af : After) :
    (s.deposit i pl rank grp acc off data af).mod = s.mod := by
  unfold State.deposit
  split
  · dsimp only
    split <;> rfl
  · exact setCore_mod ..

@[simp] theorem deposit_standing_hub (i : Nat) (pl : Place) (rank grp : Nat) (acc : Bool) (off : Nat) (data : List Byte) (af : After) :
    standingOf (s.deposit i pl rank grp acc off data af) = standingOf s := standingOf_of_mod (deposit_mod ..)

@[simp] theorem onIssuer_standing_hub (x : TileInstr) (f : Core → Core) : standingOf (s.onIssuer x f) = standingOf s := by
  unfold State.onIssuer
  dsimp only
  split
  · exact setCore_standing_hub ..
  · rfl

@[simp] theorem publishLaunch_standing_hub (l : Launch) : standingOf (s.publishLaunch l) = standingOf s := standingOf_of_mod publishLaunch_mod

theorem finishRecord_standing (q : Nat) (w : List Nat) (code : Nat) : standingOf (s.finishRecord q w code) = standingOf s := by
  unfold State.finishRecord
  dsimp only
  split <;> split <;> rfl

theorem queueError_standing (q code idx : Nat) : standingOf (s.queueError q code idx) = standingOf s := by
  unfold State.queueError
  split <;> rfl

theorem clearLaunch_standing (l : Launch) (reason : Nat) : standingOf (s.clearLaunch l reason) = standingOf s := by
  rw [← standingOf_of_mod (leaveCores_mod (s := s) (l := l) (reason := reason)), clearLaunch_eq]
  simp only [standingOf, State.dropLaunch, State.onMod]

theorem tileArea_standing (x : TileInstr) (writes : List (Nat × Nat)) (code : Nat) : standingOf (s.tileArea x writes code) = standingOf s := by
  unfold State.tileArea
  split
  · rfl
  · dsimp only
    split
    · rw [deposit_standing_hub]
      exact foldl_keeps (g := standingOf) (fun _ _ _ => deposit_standing_hub ..) s
    · have hput {o : Option Leaf} {pa : Leaf → Nat} {g : Leaf → List Instr} {st : State} {v : List Byte} : standingOf (match o with
          | some f => if st.meetsPoison (pa f) f.rpl 8 true then st.later (g f) else st.memWrite (pa f) f.rpl v
          | none => st) = standingOf st := by
        split
        · split
          · rfl
          · exact memWrite_standing_hub ..
        · rfl
      exact hput.trans (foldl_keeps (g := standingOf) (fun _ _ _ => hput) s)

theorem tileFinish_standing (x : TileInstr) : standingOf (s.tileFinish x) = standingOf s := by
  have hfin : standingOf (s.tileFinish x) = standingOf (s.tileArea x _ _) := onIssuer_standing_hub ..
  exact hfin.trans (tileArea_standing ..)

theorem endLaunch_standing (l : Launch) (code reason : Nat) : standingOf (s.endLaunch l code reason) = standingOf s := by
  unfold State.endLaunch
  split
  · rfl
  · dsimp only
    rw [clearLaunch_standing, finishRecord_standing, publishLaunch_standing_hub]
    exact foldl_keeps (g := standingOf) (fun _ _ _ => tileFinish_standing ..) s

theorem flushQueue_standing (q code fuel i : Nat) : standingOf (s.flushQueue q code fuel i) = standingOf s := by
  induction fuel generalizing s i with
  | zero => rfl
  | succ fuel ih =>
    rw [State.flushQueue, ih]
    split
    · exact finishRecord_standing ..
    · exact queueError_standing ..

end Stands

end Sys2Proof.Machine

/-! PROOF. Resets, boot and die managers (R441 to R449). -/

namespace Sys2Proof.Machine
open Sys2Proof.Manual

/-! ## The island as compute goes down (R437, R442) -/

/-- Only the island changed, and what is due; its endpoint is as told, its incarnation and state stand. -/
def IslandStep (s t : State) (up : Bool) : Prop :=
  ∃ f d, t = { s with due := d, mod := { s.mod with flue := f } } ∧ f.up = up ∧ f.inc = s.mod.flue.inc ∧ f.state = s.mod.flue.state

section Island

variable {s t u : State} {up : Bool}

theorem IslandStep.refl (s : State) : IslandStep s s s.mod.flue.up := ⟨s.mod.flue, s.due, rfl, rfl, rfl, rfl⟩

theorem IslandStep.trans (h : IslandStep s t up) (k : IslandStep t u t.mod.flue.up) : IslandStep s u up := by
  obtain ⟨f, d, rfl, hup, hinc, hst⟩ := h
  obtain ⟨g, e, rfl, kup, kinc, kst⟩ := k
  exact ⟨g, e, rfl, kup.trans hup, kinc.trans hinc, kst.trans hst⟩

theorem IslandStep.foldl {β : Type} {f : State → β → State} (hf : ∀ st x, IslandStep st (f st x) st.mod.flue.up) (l : List β) (h : IslandStep s t up) :
    IslandStep s (l.foldl f t) up :=
  List.foldlRecOn (motive := fun y => IslandStep s y up) l f h fun _ hy _ _ => hy.trans (hf _ _)

/-- What stays of an island when a packet leaves. -/
theorem send_stands (f : Flue) (p : Packet) : (f.send p).up = f.up ∧ (f.send p).inc = f.inc ∧ (f.send p).state = f.state := by
  unfold Flue.send
  split
  · split <;> exact ⟨rfl, rfl, rfl⟩
  · exact ⟨rfl, rfl, rfl⟩

theorem announce_stands (f : Flue) : f.announce.up = f.up ∧ f.announce.inc = f.inc ∧ f.announce.state = f.state := by
  have hkeep := foldl_keeps (g := fun k : Flue => (k.up, k.inc, k.state)) (l := f.members.filter fun m => m != f.self && f.reaches m)
    (f := fun k m => k.send (.announce f.self m f.up f.inc.toNat)) (fun m _ k => by
      obtain ⟨hup, hinc, hst⟩ := send_stands k (.announce f.self m f.up f.inc.toNat)
      simp only [hup, hinc, hst]) f
  simp only [Prod.mk.injEq] at hkeep
  exact hkeep

theorem answer_step (r : RemoteReq) (code : Nat) (data : List Byte) : IslandStep s (s.answer r code data) s.mod.flue.up := by
  have hbump : IslandStep s (s.onFlue fun f => if code = 1 then f.bump 5 1 else if code = 5 then f.bump 6 1 else f) s.mod.flue.up := by
    refine ⟨_, s.due, rfl, ?_⟩
    dsimp only
    split
    · exact ⟨rfl, rfl, rfl⟩
    · split <;> exact ⟨rfl, rfl, rfl⟩
  unfold State.answer
  dsimp only
  split
  · exact hbump.trans ⟨_, _, rfl, rfl, rfl, rfl⟩
  · exact hbump.trans ⟨_, _, rfl, send_stands _ _⟩

theorem goDown_step (s : State) : IslandStep s (s.onFlue Flue.goDown) false := by
  refine ⟨_, s.due, rfl, ?_⟩
  unfold Flue.goDown
  cases hup : s.mod.flue.up
  · exact ⟨hup, rfl, rfl⟩
  · split
    · split
      · exact announce_stands _
      · exact ⟨rfl, rfl, rfl⟩
    · contradiction

theorem refuseHeld_step (h : IslandStep s t up) : IslandStep s t.refuseHeld up := by
  unfold State.refuseHeld
  refine IslandStep.foldl (fun st r => answer_step r 1 []) _ (h.trans ⟨_, _, rfl, rfl, rfl, rfl⟩)

end Island

/-! ## Compute resets (R442) -/

section Compute

variable {s : State}

/-- The state of a compute reset when the dies reset: DOWN announced, held requests answered, records complete. -/
def drainedForReset (s : State) : State := ((s.onFlue Flue.goDown).refuseHeld).flushAll

theorem flushAll_standing (u : State) : standingOf u.flushAll = standingOf u :=
  (foldl_keeps (g := standingOf) (fun _ _ _ => flushQueue_standing ..) _).trans
    (foldl_keeps (g := standingOf) (fun _ _ _ => endLaunch_standing ..) u)

theorem drainedForReset_standing (s : State) :
    standingOf (drainedForReset s) = (false, s.mod.flue.inc, s.mod.flue.state, { s.mod.hub with poison := [] }) := by
  obtain ⟨f, d, hstep, hup, hinc, hst⟩ := refuseHeld_step (goDown_step s)
  rw [drainedForReset, flushAll_standing, hstep, standingOf]
  simp only [hup, hinc, hst]

/-- With nothing launched or queued a compute reset leaves memory alone. -/
theorem drainedForReset_mem (hl : s.mod.launches = []) (hq : s.mod.queues = []) : (drainedForReset s).mem = s.mem := by
  obtain ⟨f, d, hstep, -⟩ := refuseHeld_step (goDown_step s)
  rw [drainedForReset, hstep]
  simp only [State.flushAll, hl, hq, List.foldl_nil]

theorem finishRecord_queues (q : Nat) (w : List Nat) (code : Nat) : (s.finishRecord q w code).mod.queues = s.mod.queues := by
  unfold State.finishRecord
  dsimp only
  split <;> split <;> rfl

theorem clearLaunch_queues (l : Launch) (reason : Nat) : (s.clearLaunch l reason).mod.queues = s.mod.queues := by
  simp only [clearLaunch_eq, State.dropLaunch, State.onMod, leaveCores_mod]

theorem endLaunch_queues {l : Launch} {code reason : Nat} (hst : l.state = .running) (ht : s.mod.tiles = []) :
    (s.endLaunch l code reason).mod.queues = s.mod.queues := by
  rw [endLaunch_running hst ht, clearLaunch_queues, finishRecord_queues, publishLaunch_mod]

theorem flushAll_one {l : Launch} (hl : s.mod.launches = [l]) (hq : (s.endLaunch l 69 2).mod.queues = []) :
    s.flushAll = s.endLaunch l 69 2 := by
  simp only [State.flushAll, hl, List.foldl_cons, List.foldl_nil, hq]

/-- The record of the one launch completes with COMPUTE_RESET. -/
theorem flushAll_completes {l : Launch} (hl : s.mod.launches = [l]) (hq : s.mod.queues = []) (hst : l.state = .running)
    (ht : s.mod.tiles = []) (h : CwFree s l.words) : Completed s s.flushAll l.words 69 := by
  rw [flushAll_one hl ((endLaunch_queues hst ht).trans hq)]
  exact (endLaunch_ends hst ht h).completed

theorem drainedForReset_completes {l : Launch} (hl : s.mod.launches = [l]) (hq : s.mod.queues = []) (hst : l.state = .running)
    (ht : s.mod.tiles = []) (h : CwFree s l.words) : Completed s (drainedForReset s) l.words 69 := by
  obtain ⟨f, d, hstep, -⟩ := refuseHeld_step (goDown_step s)
  have hdone := flushAll_completes (s := { s with due := d, mod := { s.mod with flue := f } }) hl hq hst ht ⟨h.word, h.clean, h.low⟩
  rw [drainedForReset, hstep]
  exact hdone

/-- What a compute reset leaves. -/
structure ComputeReset (s t : State) : Prop where
  gone : t.mod.launches = [] ∧ t.mod.queues = [] ∧ t.mod.tiles = [] ∧ t.mod.images = [] ∧ t.mod.barriers = []
  off : t.core.mode = .off ∧ ∀ e ∈ t.others, e.2.mode = .off
  host : t.mod.host.hwin = 0 ∧ t.mod.host.faultmap = Vector.replicate 16 0
  island : t.mod.flue.up = false ∧ t.mod.flue.inc = s.mod.flue.inc ∧ t.mod.flue.state = s.mod.flue.state
  hub : t.mod.hub.dies = 0 ∧ t.mod.hub.pending = true ∧ t.mod.hub.firmware = s.mod.hub.firmware
  mem : s.mod.launches = [] → s.mod.queues = [] → t.mem = s.mem
  record : ∀ l, s.mod.launches = [l] → s.mod.queues = [] → l.state = .running → s.mod.tiles = [] → CwFree s l.words → Completed s t l.words 69

/-- A record in the event log changes the log alone. -/
theorem logEvent_sets_log (s : State) (kind : Nat) (payload : List Nat) :
    ∃ x e, s.logEvent kind payload = { s with mod := { s.mod with hub := { s.mod.hub with log := x, evw := e } } } := ⟨_, _, rfl⟩

theorem resetDies_others (u : State) : ∀ e ∈ u.resetDies.others, e.2.mode = .off := by
  intro e he
  obtain ⟨x, -, hx⟩ := List.mem_filterMap.mp he
  split at hx
  · cases hx
  · cases hx
    rfl

theorem resetCompute_resets (s : State) : ComputeReset s s.resetCompute := by
  have hstand := drainedForReset_standing s
  simp only [standingOf, Prod.mk.injEq] at hstand
  obtain ⟨hup, hinc, hst, hhub⟩ := hstand
  have hfirm : (drainedForReset s).mod.hub.firmware = s.mod.hub.firmware := by
    simpa only using congrArg Hub.firmware hhub
  obtain ⟨x, e, hlog⟩ := logEvent_sets_log (drainedForReset s).resetDies 13 [Config.openValue 90 1 0, 0]
  have hreset : s.resetCompute = (drainedForReset s).resetDies.logEvent 13 [Config.openValue 90 1 0, 0] := rfl
  have hmem := drainedForReset_mem (s := s)
  have hrecord (l : Launch) (hl : s.mod.launches = [l]) (hq : s.mod.queues = []) (hrun : l.state = .running) (ht : s.mod.tiles = [])
      (h : CwFree s l.words) : Completed s (drainedForReset s) l.words 69 := drainedForReset_completes hl hq hrun ht h
  rw [hreset, hlog]
  clear hreset hlog hhub
  generalize drainedForReset s = u at *
  exact
    { gone := ⟨rfl, rfl, rfl, rfl, rfl⟩
      off := ⟨rfl, resetDies_others u⟩
      host := ⟨rfl, rfl⟩
      island := ⟨hup, hinc, hst⟩
      hub := ⟨rfl, rfl, hfirm⟩
      mem := hmem
      record := hrecord }

end Compute

/-! ## Die and core resets (R443) -/

section Parts

variable {s : State} {p : Nat → Bool}

theorem resetLaunches_standing : standingOf (s.resetLaunches p) = standingOf s :=
  foldl_keeps (g := standingOf) (fun _ _ _ => endLaunch_standing ..) s

theorem resetLaunches_none {l : Launch} (hl : s.mod.launches = [l]) (hp : l.rect.cores.any p = false) : s.resetLaunches p = s := by
  simp only [State.resetLaunches, hl, List.filter_cons, hp, Bool.false_eq_true, if_false, List.filter_nil, List.foldl_nil]

theorem resetLaunches_one {l : Launch} (hl : s.mod.launches = [l]) (hp : l.rect.cores.any p = true) :
    s.resetLaunches p = s.endLaunch l 69 2 := by
  simp only [State.resetLaunches, hl, List.filter_cons, hp, if_true, List.filter_nil, List.foldl_cons, List.foldl_nil]

/-- What a die or core reset does with the one launch of the module, told by whether the launch holds a core of it. -/
def OneLaunchReset (s t : State) (p : Nat → Bool) : Prop :=
  ∀ l, s.mod.launches = [l] → l.state = .running → s.mod.tiles = [] →
    (l.rect.cores.any p = false → t.mod.launches = [l] ∧ t.mem = s.mem ∧ t.core = s.core ∧ t.others = s.others) ∧
    (l.rect.cores.any p = true → CwFree s l.words → t.mod.launches = [] ∧ Completed s t l.words 69 ∧
      ∀ k ∈ l.rect.cores, (s.coreAt k).task.launchId = l.id → (t.coreAt k).mode = .off)

theorem resetLaunches_one_launch (s : State) (p : Nat → Bool) : OneLaunchReset s (s.resetLaunches p) p := by
  intro l hl hst ht
  refine ⟨fun hp => ?_, fun hp h => ?_⟩
  · rw [resetLaunches_none hl hp]
    exact ⟨hl, rfl, rfl, rfl⟩
  · rw [resetLaunches_one hl hp]
    have hends : EndsWith s (s.endLaunch l 69 2) l 69 := endLaunch_ends hst ht h
    refine ⟨?_, hends.completed, hends.off⟩
    rw [hends.launches, hl, List.filter_cons_of_neg (by simp), List.filter_nil]

/-- What comes after in the hub alone leaves that as it is. -/
theorem OneLaunchReset.onHub {t : State} (h : OneLaunchReset s t p) (f : Hub → Hub) : OneLaunchReset s (t.onHub f) p := h

/-- A die reset takes the die's manager out and ends the launches of the die. -/
theorem dieReset_resets (s : State) (d : BitVec 2) : ∃ t, execDieReset d s = .next t ∧ t.mod.flue.inc = s.mod.flue.inc ∧
    t.mod.hub.dies.getLsbD d.toNat = false ∧ OneLaunchReset s t fun k => coreDie k == d.toNat := by
  have hstand := resetLaunches_standing (s := s) (p := fun k => coreDie k == d.toNat)
  obtain ⟨-, hinc, -⟩ := standingOf_eq hstand
  obtain ⟨x, e, hlog⟩ := logEvent_sets_log ((s.resetLaunches fun i => coreDie i == d.toNat).onHub fun h => { h with
    dies := h.dies &&& ~~~(BitVec.ofNat 4 (2 ^ d.toNat)), mgrSince := s.ts.toNat }) 13 [Config.openValue 90 2 0, d.toNat]
  refine ⟨_, congrArg Host.Outcome.next hlog, hinc, ?_, (resetLaunches_one_launch s _).onHub fun h => { h with
    dies := h.dies &&& ~~~(BitVec.ofNat 4 (2 ^ d.toNat)), mgrSince := s.ts.toNat, log := x, evw := e }⟩
  show (_ &&& ~~~BitVec.ofNat 4 (2 ^ d.toNat)).getLsbD d.toNat = false
  have hd : d.toNat < 4 := d.isLt
  rw [BitVec.getLsbD_and, BitVec.getLsbD_not, BitVec.getLsbD_ofNat, Nat.testBit_two_pow_self, decide_eq_true hd]
  exact Bool.and_false _

theorem coreReset_resets (s : State) {c : BitVec 10} (hc : c.toNat < 768) : ∃ t, execCoreReset c s = .next t ∧ t.mod.flue.inc = s.mod.flue.inc ∧
    t.mod.hub.dies = s.mod.hub.dies ∧ OneLaunchReset s t fun k => k == c.toNat := by
  have hstand := resetLaunches_standing (s := s) (p := fun k => k == c.toNat)
  obtain ⟨-, hinc, -⟩ := standingOf_eq hstand
  have hdies := hub_of_standingOf hstand Hub.dies fun _ => rfl
  refine ⟨_, if_neg (Nat.not_le.mpr hc), hinc, hdies, resetLaunches_one_launch s _⟩

end Parts

/-! ## The firmware image (R447) -/

section Image

variable {m : Mem}

/-- Two sections of an image overlap. -/
def sectionsMeet (m : Mem) (i j : Nat) : Prop :=
  rdLE m (0x28 + 32 * i) 8 < rdLE m (0x28 + 32 * j) 8 + rdLE m (0x30 + 32 * j) 8 ∧
    rdLE m (0x28 + 32 * j) 8 < rdLE m (0x28 + 32 * i) 8 + rdLE m (0x30 + 32 * i) 8

/-- A section stands where none may. -/
def sectionBad (m : Mem) (k : Nat) : Prop :=
  3 < rdLE m (0x20 + 32 * k) 8 ∨ rdLE m (0x38 + 32 * k) 8 ≠ 0 ∨ rdLE m (0x28 + 32 * k) 8 < 0x200 ∨
    rdLE m 0x10 8 < rdLE m (0x28 + 32 * k) 8 + rdLE m (0x30 + 32 * k) 8

theorem headerOk_iff : headerOk m = true ↔ 0x200 ≤ rdLE m 0x10 8 ∧ rdLE m 0x10 8 ≤ 2 ^ 24 ∧ 1 ≤ rdLE m 0x18 8 ∧ rdLE m 0x18 8 ≤ 8 ∧
    (∀ k < rdLE m 0x18 8, ¬ sectionBad m k) ∧ (∀ i < rdLE m 0x18 8, ∀ j < i, ¬ sectionsMeet m i j) ∧ rdLE m 0x1E0 32 = 0 := by
  have hbad (k : Nat) : (rdLE m (0x20 + 32 * k) 8 ≤ 3 ∧ rdLE m (0x38 + 32 * k) 8 = 0 ∧ 0x200 ≤ rdLE m (0x28 + 32 * k) 8 ∧
      rdLE m (0x28 + 32 * k) 8 + rdLE m (0x30 + 32 * k) 8 ≤ rdLE m 0x10 8) ↔ ¬ sectionBad m k := by
    unfold sectionBad
    omega
  unfold headerOk sectionOf imageMax
  dsimp only
  simp only [Bool.and_eq_true, decide_eq_true_eq, List.all_eq_true, List.mem_map, List.mem_range, beq_iff_eq, Bool.not_eq_true',
    Bool.and_eq_false_iff, decide_eq_false_iff_not, forall_exists_index, and_imp, forall_apply_eq_imp_iff₂, hbad, ← not_and_or, and_assoc]
  rfl

theorem imageFail_magic (h : rdLE m 0 8 ≠ 0x47524E31) : imageFail m = 1 := if_pos h

theorem imageFail_header (h : rdLE m 0 8 = 0x47524E31) (hh : headerOk m = false) : imageFail m = 5 := by
  simp only [imageFail, h, hh, not_true_eq_false, ne_eq, if_false, Bool.not_false, if_true]

/-- Past its header an image fails by its key, its version, or its signature, or not at all. -/
theorem imageFail_header_ok (h : rdLE m 0 8 = 0x47524E31) (hh : headerOk m = true) : imageFail m =
    if Config.sha384 (imageKey m) ≠ Config.fusedKey then 2
    else if rdLE m 8 8 < Config.fusedVersion then 3
    else if !Config.ecdsaOk (imageKey m) (Config.sha384 (signedBytes m)) (imageSig m) then 4
    else 0 := by
  simp only [imageFail, h, hh, not_true_eq_false, ne_eq, if_false, Bool.not_true, Bool.false_eq_true]

theorem checkImage_fails {s : State} {code : Nat} (h : imageFail m = code) (hc : code ≠ 0) :
    s.checkImage m = s.onHub fun k => { k with bootMode := 1, bootFail := code } := by
  unfold State.checkImage
  dsimp only
  rw [h, if_pos hc]

/-- The hub once an image is accepted (R447 to R449). -/
structure Accepted (s t : State) (m : Mem) : Prop where
  mode : t.mod.hub.bootMode = 2 ∧ t.mod.hub.bootFail = 0
  image : t.mod.hub.version = rdLE m 8 8 ∧ t.mod.hub.firmware = m ∧ t.mod.hub.meas = measure m
  map : t.mod.hub.retmap = s.mod.retList

theorem checkImage_accepts {s : State} (h : imageFail m = 0) : Accepted s (s.checkImage m) m := by
  unfold State.checkImage
  dsimp only
  rw [h, if_neg (fun hc => hc rfl)]
  exact ⟨⟨rfl, rfl⟩, ⟨rfl, rfl, rfl⟩, rfl⟩

/-- The image that a step checks: that in flash at boot, that in the recovery buffer on a load. -/
def Checks (s : State) (i : Instr) (m : Mem) : Prop :=
  (i = .firmwareBoot ∧ s.mod.hub.bootMode = 0 ∧ s.mod.hub.alarmActive = 0 ∧ m = s.mod.flash.filter fun e => e.1 < 2 ^ 24) ∨
    (i = .recoveryLoad ∧ s.mod.hub.bootMode = 1 ∧ m = s.mod.hub.recovery)

theorem exec_checks {s : State} {i : Instr} (h : Checks s i m) : exec i s = .next (s.checkImage m) := by
  obtain ⟨rfl, hmode, hquiet, rfl⟩ | ⟨rfl, hmode, rfl⟩ := h
  · change execFirmwareBoot s = _
    have halarm : s.alarm s.mod.hub.alarmActive = s := if_pos hquiet
    rw [execFirmwareBoot, if_neg (not_not.mpr hmode), halarm]
    rfl
  · exact if_neg (not_not.mpr hmode)

end Image

end Sys2Proof.Machine

/-! PROOF. Retirement, die managers, islands, errors and alarms (R448 to R464). -/

namespace Sys2Proof.Machine
open Sys2Proof.Manual

/-! ## The retirement map (R459) -/

section Retire

variable {s : State} {i j cause : Nat} {on : Bool}

/-- A word with one bit set or cleared. -/
theorem getLsbD_bit (w : W64) (on : Bool) {b k : Nat} (hb : b < 64) (hk : k < 64) :
    (if on = true then w ||| BitVec.ofNat 64 (2 ^ b) else w &&& ~~~BitVec.ofNat 64 (2 ^ b)).getLsbD k = if k = b then on else w.getLsbD k := by
  have hbit : (BitVec.ofNat 64 (2 ^ b)).getLsbD k = decide (b = k) := by
    rw [BitVec.getLsbD_ofNat, Nat.testBit_two_pow, decide_eq_true hk, Bool.true_and]
  by_cases h : k = b
  · subst h
    cases on
    · simp only [Bool.false_eq_true, if_false, BitVec.getLsbD_and, BitVec.getLsbD_not, hbit, decide_true, Bool.not_true, Bool.and_false, if_true]
    · simp only [if_true, BitVec.getLsbD_or, hbit, decide_true, Bool.or_true]
  · have hne : decide (b = k) = false := decide_eq_false fun he => h he.symm
    cases on
    · simp only [Bool.false_eq_true, if_false, BitVec.getLsbD_and, BitVec.getLsbD_not, hbit, hne, hk, decide_true, Bool.not_false, Bool.and_true, h]
    · simp only [if_true, BitVec.getLsbD_or, hbit, hne, Bool.or_false, h, if_false]

theorem setRetired_retired (hi : i < 768) : (s.setRetired i on).retired j = if j = i then on else s.retired j := by
  have hword : i / 64 < 12 := by omega
  simp only [State.retired, State.setRetired, State.onMod]
  by_cases hw : j / 64 = i / 64
  · rw [hw, vget_vset_same _ _ _ hword, getLsbD_bit _ _ (Nat.mod_lt _ (by omega)) (Nat.mod_lt _ (by omega))]
    have hsame : j % 64 = i % 64 ↔ j = i := by omega
    simp only [hsame]
  · rw [vget_vset_ne _ _ _ (Ne.symm hw), if_neg (fun h : j = i => hw (by rw [h]))]

theorem retired_of_standing {t : State} (h : standingOf t = standingOf s) (j : Nat) : t.retired j = s.retired j :=
  hub_of_standingOf h (fun k => (vget 0 k.retmap (j / 64)).getLsbD (j % 64)) fun _ => rfl

theorem endLaunches_standing (l : List Launch) (code reason : Nat) (s : State) :
    standingOf (l.foldl (fun st x => st.endLaunch x code reason) s) = standingOf s :=
  foldl_keeps (g := standingOf) (fun _ _ _ => endLaunch_standing ..) s

/-- A core that is retired joins the map. -/
theorem retireCore_retired (hi : i < 768) : (s.retireCore i cause).retired j = if j = i then true else s.retired j := by
  unfold State.retireCore
  split
  next h =>
    split
    next he => rw [he, h]
    next => rfl
  next =>
    exact (retired_of_standing (endLaunches_standing _ 67 2 ((s.setRetired i true).logEvent 9 [i, 1, cause])) j).trans (setRetired_retired hi)

theorem returnCore_retired (hi : i < 768) : (s.returnCore i).retired j =
    if j = i ∧ s.mod.hub.silent.getLsbD (coreDie i) = false then false else s.retired j := by
  unfold State.returnCore
  split
  next h =>
    split
    next he =>
      obtain ⟨rfl, hs⟩ := he
      simp only [hs, Bool.or_false, Bool.not_eq_true'] at h
      exact h
    next => rfl
  next h =>
    simp only [Bool.not_eq_true, Bool.or_eq_false_iff] at h
    refine (setRetired_retired (s := s) (on := false) hi).trans ?_
    simp only [h.2, and_true]

theorem retireCore_silent : (s.retireCore i cause).mod.hub.silent = s.mod.hub.silent := by
  unfold State.retireCore
  split
  · rfl
  · exact hub_of_standingOf (endLaunches_standing _ 67 2 ((s.setRetired i true).logEvent 9 [i, 1, cause])) Hub.silent fun _ => rfl

theorem returnCore_silent : (s.returnCore i).mod.hub.silent = s.mod.hub.silent := by
  unfold State.returnCore
  split <;> rfl

/-- What a write of word k of the map does with its bit b. -/
def retmapBit (k : Nat) (v : W64) (st : State) (b : Nat) : State :=
  if v.getLsbD b then st.retireCore (64 * k + b) 0 else st.returnCore (64 * k + b)

section Bit

variable {k b : Nat} {v : W64}

theorem retmapBit_retired (hk : k < 12) (hb : b < 64) : (retmapBit k v s b).retired j =
    if j = 64 * k + b ∧ (v.getLsbD b = true ∨ s.mod.hub.silent.getLsbD (coreDie j) = false) then v.getLsbD b else s.retired j := by
  have hi : 64 * k + b < 768 := by omega
  unfold retmapBit
  split
  next hv => simp only [retireCore_retired hi, hv, true_or, and_true]
  next hv =>
    have hv' : v.getLsbD b = false := Bool.eq_false_iff.mpr hv
    rw [returnCore_retired hi]
    by_cases h : j = 64 * k + b
    · simp only [h, hv', true_and, Bool.false_eq_true, false_or]
    · simp only [h, false_and, if_false]

theorem retmapBit_silent (st : State) : (retmapBit k v st b).mod.hub.silent = st.mod.hub.silent := by
  unfold retmapBit
  split
  · exact retireCore_silent
  · exact returnCore_silent

theorem retmapBits_silent : ((List.range 64).foldl (retmapBit k v) s).mod.hub.silent = s.mod.hub.silent :=
  foldl_keeps (g := fun st : State => st.mod.hub.silent) (fun _ _ st => retmapBit_silent st) s

/-- Cores of other words stay as they are. -/
theorem retmapBits_out (hk : k < 12) (h : j / 64 ≠ k) : ((List.range 64).foldl (retmapBit k v) s).retired j = s.retired j :=
  foldl_keeps (g := fun st : State => st.retired j) (fun b hb st => by
    have hb' : b < 64 := List.mem_range.mp hb
    rw [retmapBit_retired hk hb', if_neg (fun hj => h (by omega))]) s

/-- A bit set retires its core. -/
theorem retmapBits_on (hk : k < 12) (hj : j / 64 = k) (hv : v.getLsbD (j % 64) = true) :
    ((List.range 64).foldl (retmapBit k v) s).retired j = true := by
  have hplace : j = 64 * k + j % 64 := by omega
  have hlt : j % 64 < 64 := Nat.mod_lt _ (by omega)
  refine foldl_sets (g := fun st : State => st.retired j) (List.mem_range.mpr hlt) (fun st => ?_) (fun b hb hne st => ?_) s
  · rw [retmapBit_retired hk hlt, if_pos ⟨hplace, .inl hv⟩, hv]
  · rw [retmapBit_retired hk (List.mem_range.mp hb), if_neg (fun h => hne (by omega))]

/-- A bit cleared returns its core, unless its die's manager is silent. -/
theorem retmapBits_off (hk : k < 12) (hj : j / 64 = k) (hv : v.getLsbD (j % 64) = false)
    (hs : s.mod.hub.silent.getLsbD (coreDie j) = false) : ((List.range 64).foldl (retmapBit k v) s).retired j = false := by
  have hplace : j = 64 * k + j % 64 := by omega
  have hlt : j % 64 < 64 := Nat.mod_lt _ (by omega)
  have hgone : (((List.range 64).foldl (retmapBit k v) s).retired j &&
      !((List.range 64).foldl (retmapBit k v) s).mod.hub.silent.getLsbD (coreDie j)) = false := by
    refine foldl_sets (g := fun st : State => st.retired j && !st.mod.hub.silent.getLsbD (coreDie j)) (List.mem_range.mpr hlt)
      (fun st => ?_) (fun b hb hne st => ?_) s
    · rw [retmapBit_retired hk hlt, retmapBit_silent]
      cases hst : st.mod.hub.silent.getLsbD (coreDie j)
      · rw [if_pos ⟨hplace, .inr rfl⟩, hv, Bool.false_and]
      · exact Bool.and_false _
    · rw [retmapBit_retired hk (List.mem_range.mp hb), retmapBit_silent, if_neg (fun h => hne (by omega))]
  rwa [retmapBits_silent, hs, Bool.not_false, Bool.and_true] at hgone

end Bit

/-- A write of a word of the map (R459). -/
theorem retmapWrite_acts {k : BitVec 4} (v : W64) (hk : k.toNat < 12) : ∃ t, execRetmapWrite k v s = .next t ∧ ∀ i < 768,
    (i / 64 = k.toNat → v.getLsbD (i % 64) = true → t.retired i = true) ∧
    (i / 64 = k.toNat → v.getLsbD (i % 64) = false → s.mod.hub.silent.getLsbD (coreDie i) = false → t.retired i = false) ∧
    (i / 64 ≠ k.toNat → t.retired i = s.retired i) := by
  refine ⟨(List.range 64).foldl (retmapBit k.toNat v) s, if_neg (Nat.not_le.mpr hk), fun i _ => ?_⟩
  exact ⟨retmapBits_on hk, retmapBits_off hk, retmapBits_out hk⟩

/-! ## Die managers (R448) -/

theorem managersDone_retired : s.managersDone.retired j = s.retired j := by
  unfold State.managersDone
  split
  · rfl
  · split
    · rfl
    · split <;> rfl

theorem managersDone_silent : s.managersDone.mod.hub.silent = s.mod.hub.silent := by
  unfold State.managersDone
  split
  · rfl
  · split
    · rfl
    · split <;> rfl

theorem retireCores_silent (l : List Nat) : (l.foldl (fun st i => st.retireCore i cause) s).mod.hub.silent = s.mod.hub.silent :=
  foldl_keeps (g := fun st : State => st.mod.hub.silent) (fun _ _ _ => retireCore_silent) s

theorem retireCores_in {l : List Nat} (hl : ∀ i ∈ l, i < 768) (hj : j ∈ l) : (l.foldl (fun st i => st.retireCore i cause) s).retired j = true := by
  refine foldl_sets (g := fun st : State => st.retired j) hj (fun st => ?_) (fun i hi hne st => ?_) s
  · rw [retireCore_retired (hl j hj), if_pos rfl]
  · rw [retireCore_retired (hl i hi), if_neg (Ne.symm hne)]

theorem retireCores_out {l : List Nat} (hl : ∀ i ∈ l, i < 768) (hj : j ∉ l) :
    (l.foldl (fun st i => st.retireCore i cause) s).retired j = s.retired j :=
  foldl_keeps (g := fun st : State => st.retired j) (fun i hi st => by
    rw [retireCore_retired (hl i hi), if_neg (fun he : j = i => hj (by rw [he]; exact hi))]) s

theorem managersDone_waits (h : s.mod.hub.allReady = false) : s.managersDone = s := by
  rw [State.managersDone, h]
  rfl

theorem managersDone_ready (h : s.mod.hub.allReady = true) (hm : s.mod.hub.bootMode = 2) : s.managersDone =
    (({ s with mem := wrLE s.mem (ctxBase + 0x40010) 8 s.mod.frames }).onHub fun h => { h with bootMode := 3 }).later [.endpointUp] := by
  rw [State.managersDone, h, hm]
  rfl

theorem managerReady_waits {d : BitVec 2} (hm : s.mod.hub.bootMode = 2) (hd : s.mod.hub.dies.getLsbD d.toNat = false)
    (ha : s.mod.hub.dies ||| BitVec.ofNat 4 (2 ^ d.toNat) ||| s.mod.hub.silent ≠ 15) :
    execDieManagerReady d s = .next (s.onHub fun h => { h with dies := s.mod.hub.dies ||| BitVec.ofNat 4 (2 ^ d.toNat) }) := by
  have hguard : ¬ (s.mod.hub.bootMode < 2 ∨ s.mod.hub.dies.getLsbD d.toNat = true) := by simp [hm, hd]
  rw [execDieManagerReady, if_neg hguard, managersDone_waits (beq_eq_false_iff_ne.mpr ha)]
  rfl

/-- A manager that reports last makes the module ready: the frames are told, and the endpoint goes up (R409, R442). -/
theorem managerReady_last {d : BitVec 2} (hm : s.mod.hub.bootMode = 2) (hd : s.mod.hub.dies.getLsbD d.toNat = false)
    (ha : s.mod.hub.dies ||| BitVec.ofNat 4 (2 ^ d.toNat) ||| s.mod.hub.silent = 15) :
    ∃ t, execDieManagerReady d s = .next t ∧ t.mod.hub.dies = s.mod.hub.dies ||| BitVec.ofNat 4 (2 ^ d.toNat) ∧ t.mod.hub.bootMode = 3 ∧
      Instr.endpointUp ∈ t.due ∧ rdLE t.mem (ctxBase + 0x40010) 8 = s.mod.frames % 2 ^ 64 := by
  have hguard : ¬ (s.mod.hub.bootMode < 2 ∨ s.mod.hub.dies.getLsbD d.toNat = true) := by simp [hm, hd]
  have hall : (s.onHub fun h => { h with dies := h.dies ||| BitVec.ofNat 4 (2 ^ d.toNat) }).mod.hub.allReady = true := beq_iff_eq.mpr ha
  rw [execDieManagerReady, if_neg hguard, managersDone_ready hall hm]
  exact ⟨_, rfl, rfl, rfl, List.mem_append_right _ (List.mem_singleton_self _), rdLE_wrLE _ _ _ _⟩

/-- A manager given up retires its die's cores (R448). -/
theorem managerTimeout_acts {d : BitVec 2} (hm : 2 ≤ s.mod.hub.bootMode) (hd : s.mod.hub.dies.getLsbD d.toNat = false)
    (hs : s.mod.hub.silent.getLsbD d.toNat = false) (ht : s.mod.hub.mgrSince + 10000000000 ≤ s.ts.toNat) :
    ∃ t, execDieManagerTimeout d s = .next t ∧ t.mod.hub.silent.getLsbD d.toNat = true ∧ ∀ i < 768,
      (coreDie i = d.toNat → t.retired i = true) ∧ (coreDie i ≠ d.toNat → t.retired i = s.retired i) := by
  have hguard : ¬ (s.mod.hub.bootMode < 2 ∨ s.mod.hub.dies.getLsbD d.toNat = true ∨ s.mod.hub.silent.getLsbD d.toNat = true ∨
      s.ts.toNat < s.mod.hub.mgrSince + 10000000000) := by
    simp only [hd, hs, Bool.false_eq_true, false_or]
    omega
  have hcores : ∀ i ∈ (List.range 768).filter fun i => coreDie i == d.toNat, i < 768 := fun i hi => List.mem_range.mp (List.mem_filter.mp hi).1
  refine ⟨_, if_neg hguard, ?_, fun i hi => ⟨fun h => ?_, fun h => ?_⟩⟩
  · rw [managersDone_silent, retireCores_silent]
    show (_ ||| BitVec.ofNat 4 (2 ^ d.toNat)).getLsbD d.toNat = true
    have hlt : d.toNat < 4 := d.isLt
    rw [BitVec.getLsbD_or, BitVec.getLsbD_ofNat, Nat.testBit_two_pow_self, decide_eq_true hlt]
    exact Bool.or_true _
  · rw [managersDone_retired]
    exact retireCores_in hcores (List.mem_filter.mpr ⟨List.mem_range.mpr hi, beq_iff_eq.mpr h⟩)
  · rw [managersDone_retired, retireCores_out hcores (fun hin => h (beq_iff_eq.mp (List.mem_filter.mp hin).2))]
    rfl

end Retire

/-! ## Attestation (R449) -/

/-- The number at the head of bytes just written. -/
theorem rdLE_wrBytes_head (m : Mem) (a v n : Nat) (rest : List Byte) : rdLE (wrBytes m a (leBytes v n ++ rest)) a n = v % 256 ^ n := by
  rw [← rdLE_wrLE m a n v, ← wrBytes_leBytes]
  refine rdLE_congr fun x hlo hhi => ?_
  obtain ⟨k, rfl⟩ := Nat.exists_eq_add_of_le hlo
  have hk : k < (leBytes v n).length := by rw [leBytes_length]; omega
  rw [rdByte_wrBytes_getD _ _ _ hk, rdByte_wrBytes_getD _ _ _ (by rw [List.length_append]; omega), List.getD_append _ _ _ _ hk]

/-- A report begins with the status word, and the request word falls. -/
theorem attestation_acts {s : State} (h : s.mod.hub.attest = true) : ∃ t, execAttestationRequest s = .next t ∧ t.mod.hub.attest = false ∧
    rdLE t.mod.hub.report 0 8 = (if s.mod.hub.erased then 1 else 0) ∧ t.mod.hub.nonce = s.mod.hub.nonce := by
  have hguard : ¬ (!s.mod.hub.attest) = true := by rw [h]; decide
  refine ⟨_, if_neg hguard, rfl, ?_, rfl⟩
  have hhead : ∃ rest, s.reportBody ++ Config.attest s.reportBody = leBytes (b2n s.mod.hub.erased) 8 ++ rest :=
    ⟨Config.serial ++ (leBytes s.mod.hub.version 8 ++ ((s.mod.hub.meas ++ List.replicate 192 0).take 192 ++ (rdBytes s.mod.hub.nonce 0 48 ++
      (leBytes s.ts.toNat 8 ++ Config.attest s.reportBody)))), by
        rw [congrArg (· ++ Config.attest s.reportBody) (State.reportBody.eq_1 s)]
        simp only [List.append_assoc]⟩
  obtain ⟨rest, hrest⟩ := hhead
  show rdLE (wrBytes [] 0 (s.reportBody ++ Config.attest s.reportBody)) 0 8 = _
  rw [hrest, rdLE_wrBytes_head]
  cases s.mod.hub.erased <;> rfl

/-! ## Compute islands (R460, R461) -/

section Islands

variable {s : State} {n : Nat}

@[simp] theorem logEvent_island (kind : Nat) (payload : List Nat) : (s.logEvent kind payload).island n = s.island n := rfl

theorem setIsland_island (hn : n < 16) (f : Isl → Isl) (cause : Nat) : (s.setIsland n f cause).island n = f (s.island n) := by
  have hset : (s.onHub fun h => { h with isl := vset h.isl n (f (s.island n)) }).island n = f (s.island n) := vget_vset_same _ _ _ (by omega)
  have hlog (u : State) (x y : Isl) : (u.logIsland n x y cause).island n = u.island n := by
    unfold State.logIsland
    split <;> rfl
  unfold State.setIsland
  dsimp only
  split
  · exact (hlog ..).trans hset
  · exact (hlog ..).trans hset

/-- A P-state other than the one in force asks for a relock. -/
theorem setIsland_relocks {f : Isl → Isl} {cause : Nat} (h : (f (s.island n)).want ≠ (f (s.island n)).cur) :
    Instr.relock (BitVec.ofNat 4 n) ∈ (s.setIsland n f cause).due := by
  unfold State.setIsland
  dsimp only
  rw [if_neg h]
  exact List.mem_append_right _ (List.mem_singleton_self _)

end Islands

/-- The steps of one compute island, in the order of R460 and R461. -/
theorem islandSteps (s : State) (n : BitVec 4) : let x := s.island n.toNat
    (∀ v : W64, (v.toNat % 16 < 5 → ∃ t, exec (.pstateWrite (BitVec.ofNat 5 n.toNat) v) s = .next t ∧ (t.island n.toNat).pstate = v.toNat % 16 ∧
        (t.island n.toNat).step = x.step ∧ (max (v.toNat % 16) x.step ≠ x.cur → Instr.relock n ∈ t.due)) ∧
      (5 ≤ v.toNat % 16 → exec (.pstateWrite (BitVec.ofNat 5 n.toNat) v) s = .next s)) ∧
    (∀ up, ∃ t, exec (.throttleStep (BitVec.ofNat 5 n.toNat) up) s = .next t ∧ (t.island n.toNat).step = (if up then min 4 (x.step + 1) else x.step - 1) ∧
      (t.island n.toNat).pstate = x.pstate) ∧
    (x.gate = false → ∃ t, exec (.gateRequest n) s = .next t ∧ (t.island n.toNat).gate = true ∧ (t.island n.toNat).state = 1) ∧
    (x.state = 1 → (s.resident n.toNat = true → exec (.islandGated n) s = .next s) ∧
      (s.resident n.toNat = false → ∃ t, exec (.islandGated n) s = .next t ∧ (t.island n.toNat).state = 2)) ∧
    (x.gate = true → ∃ t, exec (.islandWake n) s = .next t ∧ (t.island n.toNat).gate = false ∧ (t.island n.toNat).state = 3) ∧
    (x.state = 3 → ∃ t, exec (.wakeComplete n) s = .next t ∧ (t.island n.toNat).state = 0) := by
  intro x
  have hn : n.toNat < 16 := n.isLt
  have hwide : (BitVec.ofNat 5 n.toNat).toNat = n.toNat := by rw [BitVec.toNat_ofNat, Nat.mod_eq_of_lt (by omega)]
  have hback : BitVec.ofNat 4 n.toNat = n := by simp
  refine ⟨fun v => ⟨fun hv => ?pstate, fun hv => if_pos (.inr hv)⟩, fun up => ?throttle, fun h => ?gate, fun h => ⟨fun hr => if_pos (.inr hr), fun hr => ?gated⟩,
    fun h => ?wake, fun h => ?woken⟩
  case pstate =>
    refine ⟨_, if_neg (by omega), ?_, ?_, fun hne => ?_⟩
    · rw [hwide, setIsland_island hn]
    · rw [hwide, setIsland_island hn]
    · have hin := setIsland_relocks (f := fun y => { y with pstate := v.toNat % 16 }) (cause := 0) hne
      rw [hback] at hin
      rwa [hwide]
  case throttle =>
    refine ⟨_, if_neg (by omega), ?_, ?_⟩
    · rw [hwide, setIsland_island hn]
      rfl
    · rw [hwide, setIsland_island hn]
      rfl
  case gate =>
    refine ⟨_, if_neg (Bool.not_eq_true _ |>.mpr h), ?_, ?_⟩ <;> rw [setIsland_island hn]
  case gated =>
    refine ⟨_, if_neg (by simp [x, h, hr]), ?_⟩
    rw [setIsland_island hn]
  case wake =>
    refine ⟨_, if_neg (by simp [x, h]), ?_, ?_⟩ <;> rw [setIsland_island hn]
  case woken =>
    refine ⟨_, if_neg (not_not.mpr h), ?_⟩
    rw [setIsland_island hn]

end Sys2Proof.Machine

/-! PROOF. Errors and alarms (R450 to R454, R463, R464). -/

namespace Sys2Proof.Machine
open Sys2Proof.Manual

/-! ## Error counters (R452) -/

section Counters

variable {s : State} {k : Nat}

theorem satU_eq_min (w x : Nat) : satU w x = min x (2 ^ w - 1) := by
  unfold satU
  split <;> omega

/-- One half of a counter rises, saturating. -/
theorem countField_toNat (w : W64) (uncorr : Bool) : (countField w uncorr).toNat =
    min (w.toNat / 2 ^ 32 + b2n uncorr) (2 ^ 32 - 1) * 2 ^ 32 + min (w.toNat % 2 ^ 32 + b2n !uncorr) (2 ^ 32 - 1) := by
  have hw : w.toNat < 2 ^ 64 := w.isLt
  unfold countField
  cases uncorr
  · simp only [Bool.false_eq_true, if_false, satU_eq_min, BitVec.toNat_ofNat, b2n, Bool.not_false, if_true]
    omega
  · simp only [if_true, satU_eq_min, BitVec.toNat_ofNat, b2n, Bool.not_true, Bool.false_eq_true, if_false]
    omega

/-- What of the counters a reader of one sees: its two halves after errors counted. -/
def Counted (s t : State) (k corr uncorr : Nat) : Prop := (vget 0 t.mod.hub.errcnt k).toNat =
  min ((vget 0 s.mod.hub.errcnt k).toNat / 2 ^ 32 + uncorr) (2 ^ 32 - 1) * 2 ^ 32 +
    min ((vget 0 s.mod.hub.errcnt k).toNat % 2 ^ 32 + corr) (2 ^ 32 - 1)

theorem countError_counted (hk : k < 8) (loc launch : Nat) (corrected : Bool) :
    Counted s (s.countError k loc launch corrected) k (b2n corrected) (b2n !corrected) := by
  have hset : vget 0 (s.countError k loc launch corrected).mod.hub.errcnt k = countField (vget 0 s.mod.hub.errcnt k) !corrected :=
    vget_vset_same _ _ _ hk
  rw [Counted, hset, countField_toNat, Bool.not_not]

/-- What of the module a counted error leaves: the launches, and of the hub all but the counter and the event log. -/
theorem countError_stays (loc launch : Nat) (corrected : Bool) : (s.countError k loc launch corrected).mod.launches = s.mod.launches ∧
    (s.countError k loc launch corrected).mod.hub.errcfg = s.mod.hub.errcfg ∧ (s.countError k loc launch corrected).mod.hub.retmap = s.mod.hub.retmap ∧
    (s.countError k loc launch corrected).mod.hub.coreErrs = s.mod.hub.coreErrs ∧ (s.countError k loc launch corrected).mod.hub.poison = s.mod.hub.poison ∧
    (s.countError k loc launch corrected).ts = s.ts := by
  simp only [State.countError, State.logEvent, State.onHub, State.onMod, and_self]

/-- A count told from a state with the same counters, or for one. -/
theorem Counted.of_errcnt {s' t t' : State} {corr uncorr : Nat} (h : Counted s t k corr uncorr) (hs : s'.mod.hub.errcnt = s.mod.hub.errcnt)
    (ht : t'.mod.hub.errcnt = t.mod.hub.errcnt) : Counted s' t' k corr uncorr := by
  rwa [Counted, hs, ht]

end Counters

/-! ## Retirement for errors (R454) -/

section Retire

variable {s : State} {i cause : Nat}

theorem retireCore_errcnt : (s.retireCore i cause).mod.hub.errcnt = s.mod.hub.errcnt := by
  unfold State.retireCore
  split
  · rfl
  · exact hub_of_standingOf (endLaunches_standing _ 67 2 ((s.setRetired i true).logEvent 9 [i, 1, cause])) Hub.errcnt fun _ => rfl

/-- With nothing launched a retirement ends nothing. -/
theorem retireCore_idle (h : s.mod.launches = []) : (s.retireCore i cause).mod.launches = [] ∧ (s.retireCore i cause).mem = s.mem := by
  unfold State.retireCore
  rw [h]
  split
  · exact ⟨h, rfl⟩
  · exact ⟨h, by simp only [List.filter_nil, List.foldl_nil, State.later, State.logEvent, State.onHub, State.onMod, State.setRetired]⟩

theorem autoRetire_errcnt : (s.autoRetire i).mod.hub.errcnt = s.mod.hub.errcnt := by
  unfold State.autoRetire
  dsimp only
  split
  · exact retireCore_errcnt
  · rfl

theorem bits_low16 (x : Nat) : bits x 15 0 = x % 65536 := by simp [bits]

/-- Without AUTORET no core retires by itself. -/
theorem autoRetire_off (h : bits s.mod.hub.errcfg.toNat 63 63 = 0) : s.autoRetire i = s := by
  simp only [State.autoRetire, bit_of_bits_zero h, Bool.false_and, Bool.false_eq_true, if_false]

theorem autoRetire_reached (h : bits s.mod.hub.errcfg.toNat 63 63 = 1) (hthr : bits s.mod.hub.errcfg.toNat 15 0 ≠ 0)
    (hn : bits s.mod.hub.errcfg.toNat 15 0 ≤ s.recentErrs i) : s.autoRetire i = s.retireCore i 2 := by
  rw [bits_low16] at hthr hn
  simp only [State.autoRetire, bit_of_bits h, hthr, hn, ne_eq, not_false_eq_true, decide_true, Bool.and_self, if_true]

/-- A corrected error of a core joins those of the day (R454). -/
def dayError (s : State) (loc : Nat) : State := s.onHub fun h => { h with
  coreErrs := (h.coreErrs.filter fun e => s.ts.toNat < e.2 + dayNs) ++ [(loc, s.ts.toNat)] }

theorem dayError_recentErrs (loc : Nat) : (dayError s loc).recentErrs loc = s.recentErrs loc + 1 := by
  show (List.filter _ (List.filter _ _ ++ [_])).length = (List.filter _ _).length + 1
  rw [List.filter_append, List.filter_filter, List.length_append]
  congr 1
  · congr 1
    refine congrArg (fun p => List.filter p _) (funext fun e => ?_)
    rw [Bool.and_assoc]
    exact congrArg (e.1 == loc && ·) (Bool.and_self _)
  · simp [dayNs, dayError, State.onHub, State.onMod]

end Retire

/-! ## Errors that are corrected (R450, R454) -/

section Errors

variable {s : State} {addr : W64}

theorem correctedError_shared (hk : errorIndex addr = 4 ∨ errorIndex addr = 6) : ∃ t, execCorrectedError addr s = .next t ∧
    Counted s t (errorIndex addr) 1 0 ∧ t.mod.hub.poison = s.mod.hub.poison := by
  have hown : ownStorage (errorIndex addr) = false := by rcases hk with h | h <;> rw [h] <;> rfl
  have hshared : (errorIndex addr == 4 || errorIndex addr == 6) = true := by rcases hk with h | h <;> rw [h] <;> rfl
  refine ⟨s.countError (errorIndex addr) (errorPlace addr) 0 true, ?_, countError_counted (by omega) _ _ true, rfl⟩
  simp only [execCorrectedError, hown, hshared, Bool.false_and, Bool.false_eq_true, if_false, if_true]

theorem correctedError_core (hk : errorIndex addr = 0 ∨ errorIndex addr = 1 ∨ errorIndex addr = 3) (hl : errorPlace addr < 768) :
    ∃ t, execCorrectedError addr s = .next t ∧ Counted s t (errorIndex addr) 1 0 ∧
      (bits s.mod.hub.errcfg.toNat 63 63 = 0 → t.retired (errorPlace addr) = s.retired (errorPlace addr)) ∧
      (bits s.mod.hub.errcfg.toNat 63 63 = 1 → bits s.mod.hub.errcfg.toNat 15 0 ≠ 0 →
        bits s.mod.hub.errcfg.toNat 15 0 ≤ s.recentErrs (errorPlace addr) + 1 → t.retired (errorPlace addr) = true) := by
  have hown : ownStorage (errorIndex addr) = true := by rcases hk with h | h | h <;> rw [h] <;> rfl
  have hcount := countError_counted (s := s) (k := errorIndex addr) (by omega) (errorPlace addr) (s.launchOn (errorPlace addr)) true
  obtain ⟨-, hcfg, hmap, hday, -, hts⟩ := countError_stays (s := s) (k := errorIndex addr) (errorPlace addr) (s.launchOn (errorPlace addr)) true
  have hexec : execCorrectedError addr s = .next ((dayError (s.countError (errorIndex addr) (errorPlace addr) (s.launchOn (errorPlace addr)) true)
      (errorPlace addr)).autoRetire (errorPlace addr)) := by
    simp only [execCorrectedError, hown, hl, decide_true, Bool.and_self, if_true]
    rfl
  rw [hexec]
  generalize s.countError (errorIndex addr) (errorPlace addr) (s.launchOn (errorPlace addr)) true = u at hcount hcfg hmap hday hts
  have hrecent : (dayError u (errorPlace addr)).recentErrs (errorPlace addr) = s.recentErrs (errorPlace addr) + 1 := by
    rw [dayError_recentErrs, State.recentErrs, hday, hts, State.recentErrs]
  have hcfg' : (dayError u (errorPlace addr)).mod.hub.errcfg = s.mod.hub.errcfg := hcfg
  refine ⟨_, rfl, hcount.of_errcnt rfl autoRetire_errcnt, fun h => ?_, fun h hthr hn => ?_⟩
  · rw [autoRetire_off (by rw [hcfg']; exact h), State.retired, State.retired, ← hmap]
    rfl
  · rw [autoRetire_reached (by rw [hcfg']; exact h) (by rw [hcfg']; exact hthr) (by rw [hcfg', hrecent]; exact hn), retireCore_retired hl, if_pos rfl]

/-! ## Errors that are not (R451, R453, R454) -/

/-- What an uncorrectable error in what one core uses leaves: the launch there ended, the error counted, the core retired under AUTORET. -/
def coreFailed (s : State) (k loc : Nat) : State :=
  let s1 := (s.abortOn loc 67).countError k loc (s.launchOn loc) false
  if ownStorage k && bit s.mod.hub.errcfg.toNat 63 then s1.retireCore loc 1 else s1

theorem uncorrectableError_core (hk : errorIndex addr ∈ [0, 1, 2, 3, 5]) (hl : errorPlace addr < 768) :
    execUncorrectableError addr s = .next (coreFailed s (errorIndex addr) (errorPlace addr)) := by
  have hown : (ownStorage (errorIndex addr) || errorIndex addr == 2 || errorIndex addr == 5) = true := by
    simp only [List.mem_cons, List.not_mem_nil, or_false] at hk
    rcases hk with h | h | h | h | h <;> rw [h] <;> rfl
  simp only [execUncorrectableError, hown, hl, decide_true, Bool.and_self, if_true]
  rfl

section Core

variable {k loc : Nat}

theorem completed_of_mem {t u : State} {w : List Nat} {code : Nat} (h : Completed s t w code) (hm : u.mem = t.mem) : Completed s u w code := by
  rw [Completed, hm]
  exact h

/-- The running launch there is aborted, and the error counts against it. -/
theorem coreFailed_ends {l : Launch} (hk : k < 8) (hl : s.mod.launches = [l]) (hst : l.state = .running) (ht : s.mod.tiles = [])
    (h : CwFree s l.words) (hm : (s.coreAt loc).mode ≠ .off) (hs : (s.coreAt loc).task.slot = l.slot) :
    (coreFailed s k loc).mod.launches = [] ∧ Completed s (coreFailed s k loc) l.words 67 ∧ Counted s (coreFailed s k loc) k 0 1 := by
  have hfind : s.launchAt l.slot = some l := by simp [State.launchAt, hl]
  have habort : s.abortOn loc 67 = s.endLaunch l 67 2 := by
    simp only [State.abortOn, if_neg hm, hs, hfind]
  have hends : EndsWith s (s.endLaunch l 67 2) l 67 := endLaunch_ends hst ht h
  have hgone : (s.endLaunch l 67 2).mod.launches = [] := by
    rw [hends.launches, hl, List.filter_cons_of_neg (by simp), List.filter_nil]
  have hcount : Counted s ((s.endLaunch l 67 2).countError k loc (s.launchOn loc) false) k 0 1 :=
    (countError_counted hk loc (s.launchOn loc) false).of_errcnt
      (hub_of_standingOf (endLaunch_standing ..) Hub.errcnt fun _ => rfl).symm rfl
  unfold coreFailed
  rw [habort]
  generalize hu : (s.endLaunch l 67 2).countError k loc (s.launchOn loc) false = u at hcount
  have hgone' : u.mod.launches = [] := by rw [← hu, (countError_stays ..).1, hgone]
  have hdone : Completed s u l.words 67 := completed_of_mem hends.completed (by rw [← hu, countError_mem])
  dsimp only
  split
  · obtain ⟨hnone, hmem⟩ := retireCore_idle (i := loc) (cause := 1) hgone'
    exact ⟨hnone, completed_of_mem hdone hmem, hcount.of_errcnt rfl retireCore_errcnt⟩
  · exact ⟨hgone', hdone, hcount⟩

/-- Under AUTORET a core with an error in its own storage retires. -/
theorem coreFailed_retires (hk : ownStorage k = true) (hl : loc < 768) (h : bits s.mod.hub.errcfg.toNat 63 63 = 1) :
    (coreFailed s k loc).retired loc = true := by
  simp only [coreFailed, hk, bit_of_bits h, Bool.and_self, if_true]
  rw [retireCore_retired hl, if_pos rfl]

end Core

theorem uncorrectableError_hbm (hk : errorIndex addr = 4) (hg : s.core.gacc = []) (hw : s.core.walks = []) :
    ∃ t, execUncorrectableError addr s = .next t ∧ Counted s t 4 0 1 ∧ errorPlace addr / 64 ∈ t.mod.hub.poison ∧
      t.mod.launches = s.mod.launches := by
  let u := s.onHub fun h => { h with
    poison := if h.poison.contains (errorPlace addr / 64) then h.poison else h.poison ++ [errorPlace addr / 64] }
  have hmeets : u.meetsGranule (errorPlace addr) = false := by
    have hg' : u.core.gacc = [] := hg
    have hw' : u.core.walks = [] := hw
    simp only [State.meetsGranule, hg', hw', List.any_nil, Bool.or_self]
  have hin : errorPlace addr / 64 ∈ u.mod.hub.poison := by
    show errorPlace addr / 64 ∈ if _ then _ else _
    split
    next h => exact List.contains_iff_mem.mp h
    next => exact List.mem_append_right _ (List.mem_singleton_self _)
  obtain ⟨hlaunches, -, -, -, hpoison, -⟩ := countError_stays (s := u) (k := 4) (errorPlace addr) 0 false
  refine ⟨u.countError 4 (errorPlace addr) 0 false, ?_, (countError_counted (s := u) (by decide) _ 0 false).of_errcnt rfl rfl,
    by rw [hpoison]; exact hin, hlaunches⟩
  simp only [execUncorrectableError, hk, ownStorage, Nat.reduceBEq, Bool.or_self, Bool.false_and, Bool.false_eq_true, if_false, if_true]
  exact congrArg Host.Outcome.next (if_neg (by rw [hmeets]; decide))

theorem uncorrectableError_module (hk : errorIndex addr = 6) : ∃ t, execUncorrectableError addr s = .next t ∧ Counted s t 6 0 1 ∧
    (if errorPlace addr = 1 then Instr.flueReset else Instr.computeReset) ∈ t.due := by
  refine ⟨(s.countError 6 (errorPlace addr) 0 false).later [if errorPlace addr = 1 then Instr.flueReset else Instr.computeReset], ?_,
    (countError_counted (by decide) _ 0 false).of_errcnt rfl rfl, List.mem_append_right _ (List.mem_singleton_self _)⟩
  simp only [execUncorrectableError, hk, ownStorage, Nat.reduceBEq, Bool.or_self, Bool.false_and, Bool.false_eq_true, if_false, if_true]

end Errors

/-! ## Alarms (R463, R464) -/

section Alarms

variable {s : State} {a : BitVec 4}

theorem le_foldl_max {l : List Nat} {x b : Nat} (h : x ≤ b ∨ x ∈ l) : x ≤ l.foldl max b := by
  induction l generalizing b with
  | nil => exact h.resolve_right List.not_mem_nil
  | cons y l ih =>
    refine ih ?_
    rw [List.mem_cons] at h
    obtain h | rfl | h := h
    · exact .inl (h.trans (Nat.le_max_left ..))
    · exact .inl (Nat.le_max_right ..)
    · exact .inr h

theorem foldl_max_le {l : List Nat} {c : Nat} (h : ∀ x ∈ l, x ≤ c) : l.foldl max 0 ≤ c :=
  List.foldlRecOn (motive := (· ≤ c)) l max (Nat.zero_le c) fun _ hb x hx => Nat.max_le.mpr ⟨hb, h x hx⟩

/-- What the policy asks of a sensor, capped at erasing. -/
theorem alarmAction_eq (k : Nat) : alarmAction k = min 2 (bits Config.alarmPolicy.toNat (2 * k + 1) (2 * k)) := rfl

/-- The strongest action of the sensors that alarm. -/
def strongest (a : BitVec 4) : Nat := (((List.range 4).filter fun k => a.getLsbD k).map alarmAction).foldl max 0

theorem le_strongest {k : Nat} (hk : k < 4) (h : a.getLsbD k = true) : alarmAction k ≤ strongest a :=
  le_foldl_max (.inr (List.mem_map_of_mem (List.mem_filter.mpr ⟨List.mem_range.mpr hk, h⟩)))

theorem strongest_none (h : ∀ k < 4, a.getLsbD k = true → alarmAction k = 0) : strongest a = 0 := by
  refine Nat.le_zero.mp (foldl_max_le fun x hx => ?_)
  obtain ⟨k, hk, rfl⟩ := List.mem_map.mp hx
  obtain ⟨hlt, hbit⟩ := List.mem_filter.mp hk
  exact (h k (List.mem_range.mp hlt) hbit).le

/-- Sensors that alarm together hold placement or erase the keys by the strongest action among theirs. -/
theorem securityAlarm_acts (h : a ≠ 0) : ∃ t, execSecurityAlarm a s = .next t ∧ t.mod.hub.alarmActive = s.mod.hub.alarmActive ||| a ∧
    t.mod.hub.alarmSeen = s.mod.hub.alarmSeen ||| a ∧ t.mod.hub.held = (s.mod.hub.held || decide (1 ≤ strongest a)) ∧
    t.mod.hub.erased = (s.mod.hub.erased || decide (2 ≤ strongest a)) := by
  refine ⟨s.alarm a, rfl, ?_⟩
  rw [State.alarm, if_neg h]
  exact ⟨rfl, rfl, rfl, rfl⟩

end Alarms

end Sys2Proof.Machine

/-! PROOF. The steps of the module together (R441 to R464). -/

namespace Sys2Proof.Machine
open Sys2Proof.Manual

section Clauses

variable {s t : State}

/-! ## Resets (R441 to R443) -/

theorem coldPackageReset_clause (s : State) : (∃ t, exec .coldPackageReset s = .next t ∧ t.core = State.reset.core ∧ t.others = [] ∧
      t.mem = State.reset.mem ∧ t.tags = [] ∧ t.due = [.firmwareBoot] ∧ t.mod.flue = .reset ∧ t.mod.launches = [] ∧ t.mod.queues = [] ∧
      t.mod.host = .reset ∧ t.mod.hub.bootMode = 0 ∧ t.mod.hub.errcfg = 0 ∧ t.mod.flash = s.mod.flash ∧ t.mod.retList = s.mod.retList ∧
      t.mod.hub.erased = s.mod.hub.erased) ∧
    exec (.thermalTrip true) s = exec .coldPackageReset s :=
  ⟨⟨_, rfl, rfl, rfl, rfl, rfl, rfl, rfl, rfl, rfl, rfl, rfl, rfl, rfl, rfl, rfl⟩, rfl⟩

/-- A thermal trip of compute is a compute reset that notes the heat. -/
theorem ComputeReset.hot (h : ComputeReset s t) : ComputeReset s (t.onHub fun h => { h with hot := true }) where
  gone := h.gone
  off := h.off
  host := h.host
  island := h.island
  hub := h.hub
  mem := h.mem
  record := h.record

theorem exec_computeReset {i : Instr} (hi : i = .computeReset ∨ i = .functionLevelReset ∨ i = .thermalTrip false) :
    ∃ t, exec i s = .next t ∧ ComputeReset s t ∧ (i = .thermalTrip false → t.mod.hub.hot = true) := by
  obtain rfl | rfl | rfl := hi
  · exact ⟨s.resetCompute, rfl, resetCompute_resets s, fun h => by cases h⟩
  · exact ⟨s.resetCompute, rfl, resetCompute_resets s, fun h => by cases h⟩
  · exact ⟨s.resetCompute.onHub fun h => { h with hot := true }, rfl, (resetCompute_resets s).hot, fun _ => rfl⟩

theorem computeReset_clause (s : State) (i : Instr) (hi : i = .computeReset ∨ i = .functionLevelReset ∨ i = .thermalTrip false) :
    ∃ t, exec i s = .next t ∧ t.mod.launches = [] ∧ t.mod.queues = [] ∧ t.mod.tiles = [] ∧ t.mod.images = [] ∧ t.mod.barriers = [] ∧ t.core.mode = .off ∧
      (∀ e ∈ t.others, e.2.mode = .off) ∧ t.mod.host.hwin = 0 ∧ t.mod.host.faultmap = Vector.replicate 16 0 ∧ t.mod.flue.up = false ∧
      t.mod.flue.inc = s.mod.flue.inc ∧ t.mod.flue.state = s.mod.flue.state ∧ t.mod.hub.dies = 0 ∧ t.mod.hub.pending = true ∧
      t.mod.hub.firmware = s.mod.hub.firmware ∧ (i = .thermalTrip false → t.mod.hub.hot = true) ∧
      (s.mod.launches = [] → s.mod.queues = [] → t.mem = s.mem) ∧
      (∀ l, s.mod.launches = [l] → s.mod.queues = [] → l.state = .running → s.mod.tiles = [] → CwFree s l.words → Completed s t l.words 69) := by
  obtain ⟨t, ht, hreset, hhot⟩ := exec_computeReset (s := s) hi
  obtain ⟨hlaunches, hqueues, htiles, himages, hbarriers⟩ := hreset.gone
  obtain ⟨hcore, hothers⟩ := hreset.off
  obtain ⟨hwin, hmap⟩ := hreset.host
  obtain ⟨hup, hinc, hstate⟩ := hreset.island
  obtain ⟨hdies, hpending, hfirm⟩ := hreset.hub
  exact ⟨t, ht, hlaunches, hqueues, htiles, himages, hbarriers, hcore, hothers, hwin, hmap, hup, hinc, hstate, hdies, hpending, hfirm, hhot,
    hreset.mem, hreset.record⟩

theorem partReset_clause (s : State) (i : Instr) (p : Nat → Bool) (hi : (∃ d, i = .dieReset d ∧ p = fun k => coreDie k == d.toNat) ∨
      (∃ c : BitVec 10, i = .coreReset c ∧ c.toNat < 768 ∧ p = fun k => k == c.toNat)) :
    ∃ t, exec i s = .next t ∧ t.mod.flue.inc = s.mod.flue.inc ∧ (∀ d, i = .dieReset d → t.mod.hub.dies.getLsbD d.toNat = false) ∧
      (∀ c, i = .coreReset c → t.mod.hub.dies = s.mod.hub.dies) ∧ OneLaunchReset s t p := by
  obtain ⟨d, rfl, rfl⟩ | ⟨c, rfl, hc, rfl⟩ := hi
  · obtain ⟨t, ht, hinc, hdie, hone⟩ := dieReset_resets s d
    refine ⟨t, ht, hinc, fun e he => ?_, fun c he => ?_, hone⟩
    · cases he
      exact hdie
    · cases he
  · obtain ⟨t, ht, hinc, hdies, hone⟩ := coreReset_resets s hc
    exact ⟨t, ht, hinc, (fun e he => by cases he), fun _ _ => hdies, hone⟩

/-! ## Boot and attestation (R447 to R449) -/

theorem exec_fails {i : Instr} {m : Mem} {code : Nat} (h : Checks s i m) (hf : imageFail m = code) (hc : code ≠ 0) :
    exec i s = .next (s.onHub fun h => { h with bootMode := 1, bootFail := code }) := by
  rw [exec_checks h, checkImage_fails hf hc]

theorem headerOk_false {m : Mem} (h : rdLE m 0x10 8 < 0x200 ∨ 2 ^ 24 < rdLE m 0x10 8 ∨ rdLE m 0x18 8 = 0 ∨ 8 < rdLE m 0x18 8 ∨ rdLE m 0x1E0 32 ≠ 0 ∨
      (∃ k < rdLE m 0x18 8, sectionBad m k) ∨ (∃ i < rdLE m 0x18 8, ∃ j < i, sectionsMeet m i j)) : headerOk m = false := by
  refine Bool.eq_false_iff.mpr fun hok => ?_
  obtain ⟨hmin, hmax, hone, hsecs, hgood, happart, hzero⟩ := headerOk_iff.mp hok
  obtain h | h | h | h | h | ⟨k, hk, h⟩ | ⟨i, hi, j, hj, h⟩ := h
  · omega
  · omega
  · omega
  · omega
  · exact h hzero
  · exact hgood k hk h
  · exact happart i hi j hj h

theorem boot_clause (s : State) (i : Instr) (m : Mem) (hi : Checks s i m) :
    let len := rdLE m 0x10 8
    let secs := rdLE m 0x18 8
    let fails := fun (code : Nat) => exec i s = .next (s.onHub fun h => { h with bootMode := 1, bootFail := code })
    (rdLE m 0 8 ≠ 0x47524E31 → fails 1) ∧
    (rdLE m 0 8 = 0x47524E31 → len < 0x200 ∨ 2 ^ 24 < len ∨ secs = 0 ∨ 8 < secs ∨ rdLE m 0x1E0 32 ≠ 0 ∨
      (∃ k < secs, sectionBad m k) ∨ (∃ i < secs, ∃ j < i, sectionsMeet m i j) → fails 5) ∧
    (rdLE m 0 8 = 0x47524E31 → headerOk m = true → Config.sha384 (imageKey m) ≠ Config.fusedKey → fails 2) ∧
    (rdLE m 0 8 = 0x47524E31 → headerOk m = true → Config.sha384 (imageKey m) = Config.fusedKey →
      (rdLE m 8 8 < Config.fusedVersion → fails 3) ∧
      (Config.fusedVersion ≤ rdLE m 8 8 →
        (Config.ecdsaOk (imageKey m) (Config.sha384 (signedBytes m)) (imageSig m) = false → fails 4) ∧
        (Config.ecdsaOk (imageKey m) (Config.sha384 (signedBytes m)) (imageSig m) = true →
          ∃ t, exec i s = .next t ∧ t.mod.hub.bootMode = 2 ∧ t.mod.hub.bootFail = 0 ∧ t.mod.hub.version = rdLE m 8 8 ∧ t.mod.hub.firmware = m ∧
            t.mod.hub.meas = measure m ∧ t.mod.hub.retmap = s.mod.retList))) := by
  refine ⟨fun hmagic => exec_fails hi (imageFail_magic hmagic) (by decide),
    fun hmagic hbad => exec_fails hi (imageFail_header hmagic (headerOk_false hbad)) (by decide), fun hmagic hok hkey => ?_, fun hmagic hok hkey =>
      ⟨fun hver => ?_, fun hver => ⟨fun hsig => ?_, fun hsig => ?_⟩⟩⟩
  · refine exec_fails hi ?_ (by decide)
    rw [imageFail_header_ok hmagic hok, if_pos hkey]
  · refine exec_fails hi ?_ (by decide)
    rw [imageFail_header_ok hmagic hok, if_neg (not_not.mpr hkey), if_pos hver]
  · refine exec_fails hi ?_ (by decide)
    rw [imageFail_header_ok hmagic hok, if_neg (not_not.mpr hkey), if_neg (Nat.not_lt.mpr hver), hsig]
    rfl
  · have hpass : imageFail m = 0 := by
      rw [imageFail_header_ok hmagic hok, if_neg (not_not.mpr hkey), if_neg (Nat.not_lt.mpr hver), hsig]
      rfl
    obtain ⟨⟨hmode, hfail⟩, ⟨hversion, hfirm, hmeas⟩, hmap⟩ := checkImage_accepts (s := s) hpass
    exact ⟨_, exec_checks hi, hmode, hfail, hversion, hfirm, hmeas, hmap⟩

theorem managers_clause (s : State) (d : BitVec 2) : let h := s.mod.hub
    let dies := h.dies ||| BitVec.ofNat 4 (2 ^ d.toNat)
    (h.bootMode = 2 → h.dies.getLsbD d.toNat = false →
      (dies ||| h.silent ≠ 15 → exec (.dieManagerReady d) s = .next (s.onHub fun h => { h with dies := dies })) ∧
      (dies ||| h.silent = 15 → ∃ t, exec (.dieManagerReady d) s = .next t ∧ t.mod.hub.dies = dies ∧ t.mod.hub.bootMode = 3 ∧ Instr.endpointUp ∈ t.due ∧
        rdLE t.mem (ctxBase + 0x40010) 8 = s.mod.frames % 2 ^ 64)) ∧
    (s.ts.toNat < h.mgrSince + 10000000000 → exec (.dieManagerTimeout d) s = .next s) ∧
    (2 ≤ h.bootMode → h.dies.getLsbD d.toNat = false → h.silent.getLsbD d.toNat = false → h.mgrSince + 10000000000 ≤ s.ts.toNat → s.mod.launches = [] →
      ∃ t, exec (.dieManagerTimeout d) s = .next t ∧ t.mod.hub.silent.getLsbD d.toNat = true ∧ ∀ i < 768,
        (coreDie i = d.toNat → t.retired i = true) ∧ (coreDie i ≠ d.toNat → t.retired i = s.retired i)) :=
  ⟨fun hm hd => ⟨managerReady_waits hm hd, managerReady_last hm hd⟩, fun ht => if_pos (.inr (.inr (.inr ht))),
    fun hm hd hs ht _ => managerTimeout_acts hm hd hs ht⟩

theorem attestation_clause (s : State) : (s.mod.hub.attest = false → exec .attestationRequest s = .next s) ∧
    (s.mod.hub.attest = true → ∃ t, exec .attestationRequest s = .next t ∧ t.mod.hub.attest = false ∧
      rdLE t.mod.hub.report 0 8 = (if s.mod.hub.erased then 1 else 0) ∧ t.mod.hub.nonce = s.mod.hub.nonce) :=
  ⟨fun h => if_pos (by rw [h]; decide), attestation_acts⟩

/-! ## The cap and the retirement map (R454, R462) -/

theorem registers_clause (s : State) (v : W64) :
    (1000 ≤ v.toNat % 65536 → v.toNat % 65536 ≤ 3200 → exec (.pcapWrite v) s = .next (s.onHub fun h => { h with pcap := v.toNat % 65536 })) ∧
    (v.toNat % 65536 < 1000 ∨ 3200 < v.toNat % 65536 → exec (.pcapWrite v) s = .next s) ∧
    (∀ k : BitVec 4, k.toNat < 12 → s.mod.launches = [] → ∃ t, exec (.retmapWrite k v) s = .next t ∧ ∀ i < 768,
      (i / 64 = k.toNat → v.getLsbD (i % 64) = true → t.retired i = true) ∧
      (i / 64 = k.toNat → v.getLsbD (i % 64) = false → s.mod.hub.silent.getLsbD (coreDie i) = false → t.retired i = false) ∧
      (i / 64 ≠ k.toNat → t.retired i = s.retired i)) :=
  ⟨fun hmin hmax => if_neg (not_or.mpr ⟨Nat.not_lt.mpr hmin, Nat.not_lt.mpr hmax⟩), fun h => if_pos h, fun _ hk _ => retmapWrite_acts v hk⟩

/-! ## Errors and alarms (R450 to R454, R463, R464) -/

theorem patrolScrub_clean {addr : W64} (h : s.poisoned (addr.toNat / 64 * 64) 64 = false) : execPatrolScrub addr s = .next s :=
  if_neg (Bool.eq_false_iff.mp h)

theorem patrolScrub_poisoned {addr : W64} (h : s.poisoned (addr.toNat / 64 * 64) 64 = true)
    (hloc : addr.toNat % 2 ^ 60 / 64 * 64 = addr.toNat / 64 * 64) : execPatrolScrub addr s =
      .next (s.later [.uncorrectableError (BitVec.ofNat 64 (4 * 2 ^ 60 + addr.toNat % 2 ^ 60 / 64 * 64))]) := by
  have hplace : errorAt 4 (addr.toNat / 64 * 64) = BitVec.ofNat 64 (4 * 2 ^ 60 + addr.toNat % 2 ^ 60 / 64 * 64) := by
    rw [errorAt, ← hloc, Nat.mod_eq_of_lt (a := addr.toNat % 2 ^ 60 / 64 * 64) (by omega)]
  exact (if_pos h).trans (by rw [hplace])

theorem errors_clause (s : State) (addr : W64) :
    (errorIndex addr = 4 ∨ errorIndex addr = 6 → ∃ t, exec (.correctedError addr) s = .next t ∧ Counted s t (errorIndex addr) 1 0 ∧
      t.mod.hub.poison = s.mod.hub.poison) ∧
    (errorIndex addr = 0 ∨ errorIndex addr = 1 ∨ errorIndex addr = 3 → errorPlace addr < 768 → s.mod.launches = [] →
      ∃ t, exec (.correctedError addr) s = .next t ∧ Counted s t (errorIndex addr) 1 0 ∧
      (bits s.mod.hub.errcfg.toNat 63 63 = 0 → t.retired (errorPlace addr) = s.retired (errorPlace addr)) ∧
      (bits s.mod.hub.errcfg.toNat 63 63 = 1 → bits s.mod.hub.errcfg.toNat 15 0 ≠ 0 →
        bits s.mod.hub.errcfg.toNat 15 0 ≤ s.recentErrs (errorPlace addr) + 1 → t.retired (errorPlace addr) = true)) ∧
    (errorIndex addr ∈ [0, 1, 2, 3, 5] → errorPlace addr < 768 → ∃ t, exec (.uncorrectableError addr) s = .next t ∧
      (∀ l, s.mod.launches = [l] → l.state = .running → s.mod.tiles = [] → CwFree s l.words → (s.coreAt (errorPlace addr)).mode ≠ .off →
        (s.coreAt (errorPlace addr)).task.slot = l.slot →
        t.mod.launches = [] ∧ Completed s t l.words 67 ∧ Counted s t (errorIndex addr) 0 1) ∧
      (errorIndex addr ∈ [0, 1, 3] → s.mod.launches = [] → bits s.mod.hub.errcfg.toNat 63 63 = 1 → t.retired (errorPlace addr) = true)) ∧
    (errorIndex addr = 4 → s.core.gacc = [] → s.core.walks = [] → ∃ t, exec (.uncorrectableError addr) s = .next t ∧
      Counted s t (errorIndex addr) 0 1 ∧ errorPlace addr / 64 ∈ t.mod.hub.poison ∧ t.mod.launches = s.mod.launches) ∧
    (errorIndex addr = 6 → ∃ t, exec (.uncorrectableError addr) s = .next t ∧ Counted s t (errorIndex addr) 0 1 ∧
      (if errorPlace addr = 1 then Instr.flueReset else Instr.computeReset) ∈ t.due) ∧
    (s.poisoned (addr.toNat / 64 * 64) 64 = false → exec (.patrolScrub addr) s = .next s) ∧
    (s.poisoned (addr.toNat / 64 * 64) 64 = true → errorPlace addr / 64 * 64 = addr.toNat / 64 * 64 →
      exec (.patrolScrub addr) s = .next (s.later [.uncorrectableError (BitVec.ofNat 64 (4 * 2 ^ 60 + errorPlace addr / 64 * 64))])) := by
  refine ⟨correctedError_shared, fun hk hl _ => correctedError_core hk hl, fun hk hl => ?core, fun hk hg hw => ?hbm, fun hk => ?module,
    patrolScrub_clean, patrolScrub_poisoned⟩
  case core =>
    have hlt : errorIndex addr < 8 := by
      simp only [List.mem_cons, List.not_mem_nil, or_false] at hk
      omega
    refine ⟨_, uncorrectableError_core hk hl, fun l hone hst ht h hm hs => coreFailed_ends hlt hone hst ht h hm hs, fun hown _ hauto =>
      coreFailed_retires ?_ hl hauto⟩
    simp only [List.mem_cons, List.not_mem_nil, or_false] at hown
    obtain h | h | h := hown <;> rw [h] <;> rfl
  case hbm =>
    rw [hk]
    exact uncorrectableError_hbm hk hg hw
  case module =>
    rw [hk]
    exact uncorrectableError_module hk

theorem alarms_clause (s : State) (a : BitVec 4) : let act := fun (k : Nat) => bits Config.alarmPolicy.toNat (2 * k + 1) (2 * k)
    (a ≠ 0 → ∃ t, exec (.securityAlarm a) s = .next t ∧ t.mod.hub.alarmActive = s.mod.hub.alarmActive ||| a ∧ t.mod.hub.alarmSeen = s.mod.hub.alarmSeen ||| a ∧
      ((∃ k < 4, a.getLsbD k = true ∧ 1 ≤ act k) → t.mod.hub.held = true) ∧ ((∃ k < 4, a.getLsbD k = true ∧ act k = 2) → t.mod.hub.erased = true) ∧
      ((∀ k < 4, a.getLsbD k = true → act k = 0) → t.mod.hub.held = s.mod.hub.held ∧ t.mod.hub.erased = s.mod.hub.erased)) ∧
    exec (.alarmSensorClear a) s = .next (s.onHub fun h => { h with alarmActive := h.alarmActive &&& ~~~a }) ∧
    (s.mod.hub.alarmActive ≠ 0 → exec .alarmRelease s = .next s) ∧
    (s.mod.hub.alarmActive = 0 → exec .alarmRelease s = .next (s.onHub fun h => { h with held := false })) := by
  intro act
  have hact (k : Nat) : alarmAction k = min 2 (act k) := alarmAction_eq k
  refine ⟨fun ha => ?_, rfl, fun h => if_pos h, fun h => if_neg (not_not.mpr h)⟩
  obtain ⟨t, ht, hactive, hseen, hheld, herased⟩ := securityAlarm_acts (s := s) ha
  refine ⟨t, ht, hactive, hseen, ?_, ?_, fun hnone => ?_⟩
  · rintro ⟨k, hk, hbit, hhold⟩
    have hle := le_strongest hk hbit
    rw [hact] at hle
    rw [hheld, decide_eq_true (by omega : 1 ≤ strongest a), Bool.or_true]
  · rintro ⟨k, hk, hbit, herase⟩
    have hle := le_strongest hk hbit
    rw [hact] at hle
    rw [herased, decide_eq_true (by omega : 2 ≤ strongest a), Bool.or_true]
  · have hzero : strongest a = 0 := strongest_none fun k hk hbit => by rw [hact, hnone k hk hbit]; rfl
    rw [hheld, herased, hzero]
    exact ⟨Bool.or_false _, Bool.or_false _⟩

end Clauses

/-- Settles O60: each clause by the lemma of its steps. -/
theorem moduleSteps : Obligations.ModuleSteps := by
  unfold Obligations.ModuleSteps
  exact ⟨coldPackageReset_clause, computeReset_clause, partReset_clause, boot_clause, managers_clause, attestation_clause, islandSteps,
    registers_clause, errors_clause, alarms_clause⟩

end Sys2Proof.Machine

/-! PROOF. The host's registers and window (R393 to R397). -/

namespace Sys2Proof.Machine
open Sys2Proof.Manual

section Registers

variable {s : State} {v : W64}

theorem hostRegisterWrite_bar0 {o : Nat} (h : o < 0x800000) : execHostRegisterWrite (BitVec.ofNat 24 o) v s = .next (s.bar0Write o v) := by
  have ho : (BitVec.ofNat 24 o).toNat = o := by
    rw [BitVec.toNat_ofNat]
    exact Nat.mod_eq_of_lt (by omega)
  rw [execHostRegisterWrite, ho, if_pos h]

theorem hostRegisterWrite_unaligned {off : BitVec 24} (h : off.toNat % 8 ≠ 0) : execHostRegisterWrite off v s = .next s := by
  unfold execHostRegisterWrite
  split
  · rw [State.bar0Write, if_pos h]
  · rfl

/-- A FAULTMAP word clears the bits that a write of it has set (R395). -/
theorem bar0Write_faultmap {k : Nat} (hk : k < 16) : s.bar0Write (0x200 + 8 * k) v =
    s.onHost fun h => { h with faultmap := vset h.faultmap k (vget 0 h.faultmap k &&& ~~~v) } := by
  have hplace : (0x200 + 8 * k - 0x200) / 8 = k := by omega
  rw [State.bar0Write, if_neg (by omega), if_neg (by omega), if_neg (by omega), if_neg (by omega), if_pos (by omega), hplace]

/-- The registers of a queue stand 64 bytes apart (R396). -/
theorem bar0Write_queue {q r : Nat} (hq : q < 64) (hr : r < 64) (ha : r % 8 = 0) : s.bar0Write (0x1000 + 64 * q + r) v = s.queueWrite q r v := by
  have hqueue : (0x1000 + 64 * q + r - 0x1000) / 64 = q := by omega
  have hreg : (0x1000 + 64 * q + r) % 64 = r := by omega
  rw [State.bar0Write, if_neg (by omega), if_neg (by omega), if_neg (by omega), if_neg (by omega), if_neg (by omega), if_pos (by omega), hqueue, hreg]

theorem hostRegisters_clause (s : State) (v : W64) :
    exec (.hostRegisterWrite 0x8 v) s = .next (s.onHost fun h => { h with hwin := BitVec.ofNat 64 (bits v.toNat 51 36 * 2 ^ 36) }) ∧
    exec (.hostRegisterWrite 0x10 v) s = .next (s.later [.abort v]) ∧
    exec (.hostRegisterWrite 0x18 v) s = .next (s.onHost fun h => { h with abortId := v }) ∧
    (∀ k < 16, exec (.hostRegisterWrite (BitVec.ofNat 24 (0x200 + 8 * k)) v) s =
      .next (s.onHost fun h => { h with faultmap := vset h.faultmap k (vget 0 h.faultmap k &&& ~~~v) })) ∧
    (∀ q : BitVec 6, exec (.hostRegisterWrite (BitVec.ofNat 24 (0x1000 + 64 * q.toNat + 16)) v) s = .next (s.later [.qtailWrite q v]) ∧
      exec (.hostRegisterWrite (BitVec.ofNat 24 (0x1000 + 64 * q.toNat + 8)) v) s = .next (s.later [.qctlWrite q v])) ∧
    (∀ off : BitVec 24, off.toNat % 8 ≠ 0 → exec (.hostRegisterWrite off v) s = .next s) := by
  refine ⟨rfl, rfl, rfl, fun k hk => ?_, fun q => ⟨?_, ?_⟩, fun off h => hostRegisterWrite_unaligned h⟩
  · exact (hostRegisterWrite_bar0 (by omega)).trans (by rw [bar0Write_faultmap hk])
  · have hq : q.toNat < 64 := q.isLt
    refine (hostRegisterWrite_bar0 (by omega)).trans ?_
    rw [bar0Write_queue hq (by decide) (by decide), State.queueWrite, BitVec.ofNat_toNat, BitVec.setWidth_eq]
  · have hq : q.toNat < 64 := q.isLt
    refine (hostRegisterWrite_bar0 (by omega)).trans ?_
    rw [bar0Write_queue hq (by decide) (by decide), State.queueWrite, BitVec.ofNat_toNat, BitVec.setWidth_eq]

end Registers

section Window

variable {s : State} {off : BitVec 40} {data : List Byte} {pa : Nat}

theorem hbmOk_outside_control {len : Nat} (h : hbmOk pa len = true) : ¬ (ctlBase ≤ pa ∧ pa < ctlBase + ctlSize) := by
  simp only [hbmOk, Bool.and_eq_true, decide_eq_true_eq] at h
  simp only [groupSpan] at h
  simp only [ctlBase]
  omega

theorem bar2Ok_of {o n : Nat} (hn : n ∈ [1, 2, 4, 8, 16, 32, 64]) (ha : o % n = 0) (ho : o < 2 ^ 36) : bar2Ok o n = true := by
  simp only [bar2Ok, List.contains_iff_mem.mpr hn, ha, beq_self_eq_true, Nat.div_eq_of_lt ho, Bool.and_self]

theorem bar2Addr_window (h : s.mod.hub.bootMode ≠ 1) (o : Nat) : s.bar2Addr o = s.mod.host.hwin.toNat + o := if_neg h

/-- A host write outside poison changes the bytes it names and publishes its granule. -/
theorem hostMemWrite_writes (h : s.poisoned pa data.length = false) : SameOutside s.mem (s.hostMemWrite pa data).mem pa data.length ∧
    (∀ k < data.length, rdByte (s.hostMemWrite pa data).mem (pa + k) = data.getD k 0) ∧ ((s.hostMemWrite pa data).tag pa).toNat = 0x3FF * 256 + 2 := by
  have hclean : s.meetsPoison pa false data.length true = false := by
    simp only [State.meetsPoison, h, Bool.and_false, Bool.false_and, Bool.or_self]
  have hmem : (s.hostMemWrite pa data).mem = wrBytes s.mem pa data := by
    rw [State.hostMemWrite, hclean]
    exact notice_mem ..
  have htag : (s.hostMemWrite pa data).tag pa = markOf 0x3FF 0 true false := by
    rw [State.hostMemWrite, if_neg (Bool.eq_false_iff.mp hclean)]
    simp only [State.tag, State.later, State.setTag, sget_sset_same]
  rw [hmem, htag]
  exact ⟨fun x hx => rdByte_wrBytes_out _ _ _ (by omega), fun k hk => rdByte_wrBytes_getD _ _ _ hk, by decide⟩

theorem hostWindow_clause (s : State) (off : BitVec 40) (data : List Byte) (hmode : s.mod.hub.bootMode ≠ 1) (ho : off.toNat < 2 ^ 36) :
    let pa := s.mod.host.hwin.toNat + off.toNat
    (data.length ∈ [1, 2, 4, 8, 16, 32, 64] → off.toNat % data.length = 0 → hbmOk pa data.length = true → s.poisoned pa data.length = false →
      (∃ t, exec (.hostBar2Write off data) s = .next t ∧ SameOutside s.mem t.mem pa data.length ∧ (∀ k < data.length, rdByte t.mem (pa + k) = data.getD k 0) ∧
        (t.tag pa).toNat = 0x3FF * 256 + 2) ∧
      exec (.hostBar2Read off data.length) s = .next (s.onHost fun h => { h with readData := rdBytes s.mem pa data.length })) ∧
    (data.length ∈ [1, 2, 4, 8, 16, 32, 64] → off.toNat % data.length = 0 → hbmOk pa data.length = false → pa < ctlBase ∨ ctlBase + ctlSize ≤ pa →
      exec (.hostBar2Write off data) s = .fault .noStorage ∧ exec (.hostBar2Read off data.length) s = .fault .noStorage) := by
  intro pa
  have hpa : s.bar2Addr off.toNat = pa := bar2Addr_window hmode _
  refine ⟨fun hn ha hok hclean => ?_, fun hn ha hok hout => ?_⟩
  · have htakes : (!bar2Ok off.toNat data.length) = false := by rw [bar2Ok_of hn ha ho]; rfl
    have hctl := hbmOk_outside_control hok
    obtain ⟨hsame, hbytes, htag⟩ := hostMemWrite_writes hclean
    refine ⟨⟨s.hostMemWrite pa data, ?_, hsame, hbytes, htag⟩, ?_⟩
    · show execHostBar2Write off data s = _
      simp only [execHostBar2Write, hpa, htakes, hctl, hok, Bool.false_eq_true, if_false, if_true]
    · show execHostBar2Read off data.length s = _
      simp only [execHostBar2Read, hpa, htakes, hctl, hok, hclean, Bool.false_eq_true, and_false, if_false, if_true]
      rfl
  · have htakes : (!bar2Ok off.toNat data.length) = false := by rw [bar2Ok_of hn ha ho]; rfl
    have hctl : ¬ (ctlBase ≤ pa ∧ pa < ctlBase + ctlSize) := by omega
    refine ⟨?_, ?_⟩
    · show execHostBar2Write off data s = _
      simp only [execHostBar2Write, hpa, htakes, hctl, hok, Bool.false_eq_true, if_false]
    · show execHostBar2Read off data.length s = _
      simp only [execHostBar2Read, hpa, htakes, hctl, hok, Bool.false_eq_true, and_false, if_false]

end Window

end Sys2Proof.Machine

/-! PROOF. The debug and trace blocks of the cores, and the invalidation ring (R415, R424, R427). -/

namespace Sys2Proof.Machine
open Sys2Proof.Manual

/-! ## Debug commands (R424) -/

section Debug

variable {s : State} {l : Launch} {i : Nat}

theorem debugTake_sets (s : State) (i : Nat) : ∃ m, s.debugTake i = { s with mem := m } := ⟨_, rfl⟩

theorem debugResult_sets (s : State) (i res : Nat) : ∃ m, s.debugResult i res = { s with mem := m } := ⟨_, rfl⟩

theorem debugTake_coreAt (k : Nat) : (s.debugTake i).coreAt k = s.coreAt k := by
  obtain ⟨m, hm⟩ := debugTake_sets s i
  rw [hm]
  rfl

theorem debugResult_coreAt (res k : Nat) : (s.debugResult i res).coreAt k = s.coreAt k := by
  obtain ⟨m, hm⟩ := debugResult_sets s i res
  rw [hm]
  rfl

/-- GO falls as the command is taken. -/
theorem debugTake_debugCtl : (s.debugTake i).debugCtl i = s.debugCtl i % 2 ^ 63 := by
  refine (rdLE_wrLE _ _ _ _).trans (Nat.mod_eq_of_lt ?_)
  have := Nat.mod_lt (s.debugCtl i) (by decide : 2 ^ 63 > 0)
  omega

/-- The launch that a command names stays as the command is taken. -/
theorem debugTake_named : rdLE (s.debugTake i).mem (debugBlock i + 8) 8 = rdLE s.mem (debugBlock i + 8) 8 := rdLE_wrLE_out (by omega)

theorem debugResult_debugCtl (res : Nat) : (s.debugResult i res).debugCtl i = s.debugCtl i := rdLE_wrLE_out (by omega)

theorem debugResult_resultOf {res : Nat} (h : res < 256) : resultOf (s.debugResult i res) i = res := by
  have hold : rdLE s.mem (debugBlock i + 16) 8 < 256 ^ 8 := rdLE_lt _ _ _
  have hread : rdLE (s.debugResult i res).mem (debugBlock i + 16) 8 =
      rdLE s.mem (debugBlock i + 16) 8 / 65536 * 65536 + res * 256 + rdLE s.mem (debugBlock i + 16) 8 % 256 := by
    refine (rdLE_wrLE _ _ _ _).trans (Nat.mod_eq_of_lt ?_)
    omega
  rw [resultOf, hread]
  simp only [bits, Nat.reduceAdd, Nat.reduceSub, Nat.reducePow]
  omega

theorem setCore_debugCtl (k : Nat) (c : Core) : (s.setCore k c).debugCtl i = s.debugCtl i := by
  rw [State.debugCtl, setCore_mem, State.debugCtl]

theorem debugMatch_of_runs (h : RunsLaunch s i l) (hm : (s.coreAt i).mode ≠ .off) : s.debugMatch i = true := by
  rw [State.debugMatch, h.named, BitVec.ofNat_toNat, BitVec.setWidth_eq, h.task.1, bne_iff_ne.mpr hm, beq_self_eq_true]
  rfl

/-- The launch named runs also after the command is taken. -/
theorem debugTake_debugLive (h : RunsLaunch s i l) : (s.debugTake i).debugLive i = true := by
  have hlaunch : (s.debugTake i).launchAt l.slot = some l := by
    obtain ⟨m, hm⟩ := debugTake_sets s i
    rw [hm]
    exact h.held
  rw [State.debugLive, debugTake_named, debugTake_coreAt, h.named, h.task.1, h.task.2, hlaunch, BitVec.ofNat_toNat, BitVec.setWidth_eq,
    beq_self_eq_true, Option.any_some, h.running]
  rfl

/-- A well formed command for a launch that is there is taken and carried out. -/
theorem debugCommand_acts {k v : Nat} {act : State → State} (hv : s.debugCtl i = v) (hword : bit v 63 = true ∧ v % 16 = k ∧ debugCtlOk v = true)
    (hmatch : s.debugMatch i = true) : s.debugCommand i k act = act (s.debugTake i) := by
  obtain ⟨hgo, hk, hok⟩ := hword
  simp only [State.debugCommand, hv, hgo, hk, hok, hmatch, Bool.not_true, Bool.false_eq_true, ne_eq, not_true_eq_false, false_and, or_self, if_false]

/-- A malformed command answers 4. -/
theorem debugCommand_malformed {k v : Nat} {act : State → State} (hv : s.debugCtl i = v) (hgo : bit v 63 = true) (hok : debugCtlOk v = false) :
    s.debugCommand i k act = (s.debugTake i).debugResult i 4 := by
  simp only [State.debugCommand, hv, hgo, hok, Bool.not_true, Bool.not_false, Bool.false_eq_true, and_false, or_self, if_false, if_true]

/-- The core that resumes. -/
def resumed (c : Core) (v : Nat) (st : Stop) (one : Bool) : Core := { c with
  mode := .restoring
  skipBrk := bit v 8
  stepOne := one
  gacc := c.gacc.map fun g => if bit v 9 && isRace st.cause && g.org == st.org && g.raced.isSome then { g with perform := true } else g }

section Go

variable {st : Stop} {cause : Cause} {one : Bool}

theorem debugGo_resumes (hl : s.debugLive i = true) (hm : (s.coreAt i).mode = .stopped) (hs : (s.coreAt i).stop = some st)
    (hc : st.cause = some cause) (hr : st.resumable = true) : (s.debugGo i one).coreAt i = resumed (s.coreAt i) (s.debugCtl i) st one ∧
      resultOf (s.debugGo i one) i = 0 := by
  have hgo : s.debugGo i one = ((s.setCore i (resumed (s.coreAt i) (s.debugCtl i) st one)).debugState i 2 (s.coreAt i).frame).debugResult i 0 := by
    have hguard : ¬ ((s.coreAt i).mode ≠ .stopped ∨ st.cause.isNone = true ∨ (!s.debugLive i) = true) := by simp [hm, hc, hl]
    unfold State.debugGo
    dsimp only
    split
    next hnone => rw [hs] at hnone; cases hnone
    next st' hstop =>
      cases hs.symm.trans hstop
      rw [if_neg hguard, if_neg (by rw [hr]; decide)]
      rfl
  rw [hgo]
  exact ⟨by rw [debugResult_coreAt, debugState_coreAt, coreAt_setCore_same], debugResult_resultOf (by decide)⟩

/-- A stop that is not resumable answers 3. -/
theorem debugGo_refused (hl : s.debugLive i = true) (hm : (s.coreAt i).mode = .stopped) (hs : (s.coreAt i).stop = some st)
    (hc : st.cause = some cause) (hr : st.resumable = false) : s.debugGo i one = s.debugResult i 3 := by
  simp only [State.debugGo, hs, hm, hc, hl, hr, Option.isNone_some, Bool.not_true, Bool.not_false, Bool.false_eq_true, ne_eq, not_true_eq_false,
    or_self, if_false, if_true]

/-- A core that is not stopped answers 2. -/
theorem debugGo_running (hm : (s.coreAt i).mode = .run) : s.debugGo i one = s.debugResult i 2 := by
  unfold State.debugGo
  dsimp only
  split
  · rfl
  · rw [hm, if_pos (.inl (by decide))]

end Go

/-- A running task is asked to stop. -/
theorem debugHalt_asks (h : RunsLaunch s i l) (hv : s.debugCtl i = 2 ^ 63 + 1) (hm : (s.coreAt i).mode ∈ [.run, .hold, .halted])
    (hask : (s.coreAt i).stopAsked = none) {core : BitVec 10} (hi : core.toNat = i) : ∃ t st, execDebugHalt core s = .next t ∧
      (t.coreAt i).stopAsked = some st ∧ st.cause = some .debugHalt ∧ st.resumable = true ∧ t.debugCtl i = 1 ∧ resultOf t i = 0 := by
  have hoff : (s.coreAt i).mode ≠ .off := by
    intro hoff
    rw [hoff] at hm
    exact absurd hm (by decide)
  have hruns : ((s.coreAt i).mode == .run || (s.coreAt i).mode == .hold || (s.coreAt i).mode == .halted) = true := by
    simp only [List.mem_cons, List.not_mem_nil, or_false] at hm
    obtain hm | hm | hm := hm <;> rw [hm] <;> rfl
  refine ⟨((s.debugTake i).setCore i { s.coreAt i with stopAsked := some Stop.debug }).debugResult i 0, Stop.debug, ?_, ?_, rfl, rfl, ?_,
    debugResult_resultOf (by decide)⟩
  · rw [execDebugHalt, hi, debugCommand_acts hv (by decide) (debugMatch_of_runs h hoff)]
    simp only [debugTake_debugLive h, debugTake_coreAt, hruns, hask, Option.isNone_none, Bool.and_self, if_true]
  · rw [debugResult_coreAt, coreAt_setCore_same]
  · rw [debugResult_debugCtl, setCore_debugCtl, debugTake_debugCtl, hv]
    decide

end Debug

theorem debug_clause (s : State) (i : BitVec 10) (l : Launch) (h : RunsLaunch s i.toNat l) (hoff : (s.coreAt i.toNat).mode ≠ .off) :
    let n := i.toNat
    let v := s.debugCtl n
    (v = 2 ^ 63 + 1 → (s.coreAt n).mode ∈ [.run, .hold, .halted] → (s.coreAt n).stopAsked = none → ∃ t st, exec (.debugHalt i) s = .next t ∧
      (t.coreAt n).stopAsked = some st ∧ st.cause = some .debugHalt ∧ st.resumable = true ∧ t.debugCtl n = 1 ∧ resultOf t n = 0) ∧
    (∀ st c skip, (s.coreAt n).mode = .stopped → (s.coreAt n).stop = some st → st.cause = some c →
      (v = 2 ^ 63 + 2 + skip * 2 ^ 8 → skip < 2 → st.resumable = true → ∃ t, exec (.debugResume i) s = .next t ∧ (t.coreAt n).mode = .restoring ∧
        (t.coreAt n).skipBrk = decide (skip = 1) ∧ (t.coreAt n).stepOne = false ∧ resultOf t n = 0) ∧
      (v = 2 ^ 63 + 2 → st.resumable = false → ∃ t, exec (.debugResume i) s = .next t ∧ (t.coreAt n).mode = .stopped ∧ resultOf t n = 3) ∧
      (v = 2 ^ 63 + 3 → st.resumable = true → ∃ t, exec (.debugStep i) s = .next t ∧ (t.coreAt n).mode = .restoring ∧
        (t.coreAt n).stepOne = true ∧ resultOf t n = 0)) ∧
    (v = 2 ^ 63 + 2 → (s.coreAt n).mode = .run → ∃ t, exec (.debugResume i) s = .next t ∧ t.coreAt n = s.coreAt n ∧ resultOf t n = 2) ∧
    (v = 2 ^ 63 + 4 → ∃ t, exec (.debugHalt i) s = .next t ∧ t.coreAt n = s.coreAt n ∧ resultOf t n = 4) := by
  intro n v
  have hmatch : s.debugMatch n = true := debugMatch_of_runs h hoff
  have hlive : (s.debugTake n).debugLive n = true := debugTake_debugLive h
  have hcore : (s.debugTake n).coreAt n = s.coreAt n := debugTake_coreAt n
  have htake : (s.debugTake n).debugCtl n = v % 2 ^ 63 := debugTake_debugCtl
  refine ⟨fun hv hm hask => debugHalt_asks h hv hm hask rfl, fun st c skip hm hs hc => ⟨fun hv hskip hr => ?_, fun hv hr => ?_, fun hv hr => ?_⟩,
    fun hv hm => ?_, fun hv => ?_⟩
  · have hword : bit v 63 = true ∧ v % 16 = 2 ∧ debugCtlOk v = true ∧ bit (v % 2 ^ 63) 8 = decide (skip = 1) := by
      obtain rfl | rfl : skip = 0 ∨ skip = 1 := by omega
      · rw [hv]; decide
      · rw [hv]; decide
    obtain ⟨hgo, hcmd, hok, hbrk⟩ := hword
    obtain ⟨hback, hres⟩ := debugGo_resumes (one := false) hlive (by rw [hcore]; exact hm) (by rw [hcore]; exact hs) hc hr
    refine ⟨_, congrArg Host.Outcome.next (debugCommand_acts rfl ⟨hgo, hcmd, hok⟩ hmatch), ?_, ?_, ?_, hres⟩
    · rw [hback, resumed]
    · rw [hback, resumed, htake]
      exact hbrk
    · rw [hback, resumed]
  · refine ⟨_, congrArg Host.Outcome.next (debugCommand_acts hv (by decide) hmatch), ?_, ?_⟩
    · rw [debugGo_refused hlive (by rw [hcore]; exact hm) (by rw [hcore]; exact hs) hc hr, debugResult_coreAt, hcore, hm]
    · rw [debugGo_refused hlive (by rw [hcore]; exact hm) (by rw [hcore]; exact hs) hc hr, debugResult_resultOf (by decide)]
  · obtain ⟨hback, hres⟩ := debugGo_resumes (one := true) hlive (by rw [hcore]; exact hm) (by rw [hcore]; exact hs) hc hr
    refine ⟨_, congrArg Host.Outcome.next (debugCommand_acts hv (by decide) hmatch), ?_, ?_, hres⟩
    · rw [hback, resumed]
    · rw [hback, resumed]
  · refine ⟨_, congrArg Host.Outcome.next (debugCommand_acts hv (by decide) hmatch), ?_, ?_⟩
    · rw [debugGo_running (by rw [hcore]; exact hm), debugResult_coreAt, hcore]
    · rw [debugGo_running (by rw [hcore]; exact hm), debugResult_resultOf (by decide)]
  · refine ⟨_, congrArg Host.Outcome.next (debugCommand_malformed hv (by decide) (by decide)), ?_, ?_⟩
    · rw [debugResult_coreAt, hcore]
    · exact debugResult_resultOf (by decide)

end Sys2Proof.Machine

/-! PROOF. Trace sessions and the invalidation ring (R415, R427). -/

namespace Sys2Proof.Machine
open Sys2Proof.Manual

/-! ## Trace blocks (R427) -/

section Trace

variable {s : State} {i k j v a : Nat} {f : Trace → Trace} {rec8 : List W64}

theorem setTraceWord_sets (s : State) (i k v : Nat) : ∃ m, s.setTraceWord i k v = { s with mem := m } := ⟨_, rfl⟩

@[simp] theorem setTraceWord_coreAt (n : Nat) : (s.setTraceWord i k v).coreAt n = s.coreAt n := by
  obtain ⟨m, hm⟩ := setTraceWord_sets s i k v
  rw [hm]
  rfl

theorem setTraceWord_same : (s.setTraceWord i k v).traceWord i k = v % 2 ^ 64 := rdLE_wrLE _ _ _ _

theorem setTraceWord_ne (h : j ≠ k) : (s.setTraceWord i k v).traceWord i j = s.traceWord i j := rdLE_wrLE_out (by omega)

@[simp] theorem onTrace_coreAt : (s.onTrace i f).coreAt i = { s.coreAt i with trace := f (s.coreAt i).trace } := coreAt_setCore_same ..

theorem wrBytes_append (m : Mem) (b : Nat) (l r : List Byte) : wrBytes m b (l ++ r) = wrBytes (wrBytes m b l) (b + l.length) r := by
  induction l generalizing m b with
  | nil => rfl
  | cons x l ih =>
    rw [List.cons_append, wrBytes, ih, wrBytes, List.length_cons, Nat.add_assoc, Nat.add_comm 1]

/-- Words laid out one after another read back, each at its place. -/
theorem rdLE_wrBytes_words (m : Mem) (b : Nat) (ws : List Nat) {n x : Nat} (hx : ws[n]? = some x) :
    rdLE (wrBytes m b (ws.flatMap fun v => leBytes v 8)) (b + 8 * n) 8 = x % 2 ^ 64 := by
  induction ws generalizing m b n with
  | nil => cases hx
  | cons w ws ih =>
    rw [List.flatMap_cons, wrBytes_append, leBytes_length]
    cases n with
    | zero =>
      cases hx
      refine (rdLE_congr fun y hlo hhi => rdByte_wrBytes_out _ _ _ (.inl (by omega))).trans ?_
      rw [Nat.mul_zero, Nat.add_zero, wrBytes_leBytes]
      exact rdLE_wrLE ..
    | succ n =>
      have hplace : b + 8 * (n + 1) = b + 8 + 8 * n := by omega
      rw [hplace]
      exact ih _ _ hx

theorem traceWrite_word : (s.traceWrite i a rec8).traceWord i 4 = ((s.coreAt i).trace.wptr + 64).toNat := by
  rw [State.traceWrite, setTraceWord_same, onTrace_coreAt]
  exact Nat.mod_eq_of_lt (BitVec.isLt _)

theorem traceWrite_coreAt : (s.traceWrite i a rec8).coreAt i =
    { s.coreAt i with trace := { (s.coreAt i).trace with wptr := (s.coreAt i).trace.wptr + 64 } } := by
  rw [State.traceWrite, setTraceWord_coreAt, onTrace_coreAt]
  rfl

/-- A record below the context area is in the trace area. -/
theorem traceWrite_record (ha : a + 8 * rec8.length ≤ ctxBase) {n : Nat} {x : W64} (hx : rec8[n]? = some x) :
    rdLE (s.traceWrite i a rec8).mem (a + 8 * n) 8 = x.toNat := by
  obtain ⟨hn, -⟩ := List.getElem?_eq_some_iff.mp hx
  have hblock := ctxBase_le_traceBlock i
  rw [State.traceWrite, State.setTraceWord, rdLE_wrLE_out (.inl (by omega)), onTrace_mem]
  have hwords : (rec8.flatMap fun (w : W64) => leBytes w.toNat 8) = (rec8.map BitVec.toNat).flatMap fun v => leBytes v 8 := by
    rw [List.flatMap_map]
  rw [hwords]
  refine (rdLE_wrBytes_words _ _ _ (by rw [List.getElem?_map, hx]; rfl)).trans (Nat.mod_eq_of_lt x.isLt)

theorem opened_sets (launch : W64) (v : Nat) : (Trace.opened launch v).isOpen = true ∧ (Trace.opened launch v).launch = launch ∧
    (Trace.opened launch v).kinds = BitVec.ofNat 8 v := by
  unfold Trace.opened
  dsimp only
  split <;> exact ⟨rfl, rfl, rfl⟩

/-- A session for the launch that the block names and that holds the core opens. -/
theorem traceOpen_opens {core : BitVec 10} (hi : core.toNat = i) (hgo : bits (s.traceWord i 0) 63 63 = 1) (hopen : (s.coreAt i).trace.isOpen = false)
    (hm : (s.coreAt i).mode ≠ .off) (hid : (s.coreAt i).task.launchId.toNat = s.traceWord i 1) (hname : s.traceWord i 1 ≠ 0) :
    ∃ t, execTraceOpen core s = .next t ∧ (t.coreAt i).trace.isOpen = true ∧ (t.coreAt i).trace.launch = (s.coreAt i).task.launchId ∧
      (t.coreAt i).trace.kinds = BitVec.ofNat 8 (s.traceWord i 0) ∧ t.traceWord i 4 = 0 ∧ t.traceWord i 6 = 0 := by
  have hlaunch : BitVec.ofNat 64 (s.traceWord i 1) = (s.coreAt i).task.launchId := by
    rw [← hid, BitVec.ofNat_toNat, BitVec.setWidth_eq]
  have hnot : ¬ (s.coreAt i).task.launchId = 0 := fun h => hname (by rw [← hid, h]; rfl)
  have htarget : s.traceTarget i = some (s.coreAt i).task.launchId := by
    simp only [State.traceTarget, hlaunch, hnot, if_false, ne_eq, hm, not_false_eq_true, and_self, true_or, if_true]
  obtain ⟨hisOpen, hfor, hkinds⟩ := opened_sets (s.coreAt i).task.launchId (s.traceWord i 0)
  refine ⟨((s.onTrace i fun _ => .opened (s.coreAt i).task.launchId (s.traceWord i 0)).setTraceWord i 4 0).setTraceWord i 6 0, ?_, ?_, ?_, ?_, ?_,
    setTraceWord_same⟩
  · unfold execTraceOpen
    dsimp only
    rw [hi, htarget]
    dsimp only
    rw [if_neg (by simp [bit_of_bits hgo, hopen])]
  · rw [setTraceWord_coreAt, setTraceWord_coreAt, onTrace_coreAt]
    exact hisOpen
  · rw [setTraceWord_coreAt, setTraceWord_coreAt, onTrace_coreAt]
    exact hfor
  · rw [setTraceWord_coreAt, setTraceWord_coreAt, onTrace_coreAt]
    exact hkinds
  · exact (setTraceWord_ne (by decide)).trans setTraceWord_same

section Drain

variable {core : BitVec 10} {r : List W64} {rs : List (List W64)}

/-- The oldest record of a buffer goes to the trace area when there is room. -/
theorem traceDrain_writes (hi : core.toNat = i) (hopen : (s.coreAt i).trace.isOpen = true) (hbuf : (s.coreAt i).trace.buf = r :: rs)
    (hroom : s.traceRoom i = some a) : execTraceDrain core s =
      .next (((s.onTrace i fun t => { t with buf := rs }).setTraceWord i 6 (s.coreAt i).trace.dropped.toNat).traceWrite i a r) := by
  unfold execTraceDrain
  simp only [hi, hopen, hbuf, hroom, Bool.not_true, Bool.false_eq_true, if_false]

/-- Without room it is dropped and counted. -/
theorem traceDrain_drops (hi : core.toNat = i) (hopen : (s.coreAt i).trace.isOpen = true) (hbuf : (s.coreAt i).trace.buf = r :: rs)
    (hroom : s.traceRoom i = none) : execTraceDrain core s =
      .next ((s.onTrace i fun t => { t with buf := rs, dropped := t.dropped + 1 }).setTraceWord i 6 ((s.coreAt i).trace.dropped + 1).toNat) := by
  unfold execTraceDrain
  simp only [hi, hopen, hbuf, hroom, Bool.not_true, Bool.false_eq_true, if_false]

end Drain

/-- An open session that closes keeps what is buffered; its last record is made, and OPEN still reads 1. -/
theorem traceClose_closes {core : BitVec 10} {reason : BitVec 2} (hi : core.toNat = i) (hopen : (s.coreAt i).trace.isOpen = true)
    (hclosing : (s.coreAt i).trace.closing = none) : ∃ t r, execTraceClose core reason s = .next t ∧ (t.coreAt i).trace.closing = some r ∧
      (t.coreAt i).trace.buf = (s.coreAt i).trace.buf ∧ bits (t.traceWord i 0) 63 63 = 1 := by
  have hclose : (s.coreAt i).closeTrace s.ts i reason.toNat = { s.coreAt i with trace := { (s.coreAt i).trace with
      closing := some ((s.coreAt i).traceWords s.ts i 7 [BitVec.ofNat 64 reason.toNat]) } } := by
    simp only [Core.closeTrace, hopen, hclosing, Option.isNone_none, Bool.and_self, if_true]
  refine ⟨(s.setCore i ((s.coreAt i).closeTrace s.ts i reason.toNat)).setTraceWord i 0 (s.traceWord i 0 % 2 ^ 63 + 2 ^ 63),
    (s.coreAt i).traceWords s.ts i 7 [BitVec.ofNat 64 reason.toNat], ?_, ?_, ?_, ?_⟩
  · simp only [execTraceClose, hi, hopen, Bool.not_true, Bool.false_eq_true, if_false]
  · rw [setTraceWord_coreAt, coreAt_setCore_same, hclose]
  · rw [setTraceWord_coreAt, coreAt_setCore_same, hclose]
  · rw [setTraceWord_same]
    simp only [bits]
    omega

end Trace

theorem trace_clause (s : State) (i : BitVec 10) : let n := i.toNat
    let tr := (s.coreAt n).trace
    let word := fun (st : State) (k : Nat) => rdLE st.mem (traceBlock n + 8 * k) 8
    (bits (word s 0) 63 63 = 1 → tr.isOpen = false → (s.coreAt n).mode ≠ .off → (s.coreAt n).task.launchId.toNat = word s 1 → word s 1 ≠ 0 →
      ∃ t, exec (.traceOpen i) s = .next t ∧ (t.coreAt n).trace.isOpen = true ∧ (t.coreAt n).trace.launch = (s.coreAt n).task.launchId ∧
        (t.coreAt n).trace.kinds = BitVec.ofNat 8 (word s 0) ∧ word t 4 = 0 ∧ word t 6 = 0) ∧
    (∀ r rs, tr.isOpen = true → tr.buf = r :: rs →
      ((tr.wptr + 64 - BitVec.ofNat 64 (word s 5)).toNat ≤ word s 3 → ∃ t, exec (.traceDrain i) s = .next t ∧ (t.coreAt n).trace.buf = rs ∧
        (t.coreAt n).trace.wptr = tr.wptr + 64 ∧ word t 4 = (tr.wptr + 64).toNat ∧
        (let a := word s 2 + tr.wptr.toNat % word s 3
         a + 8 * r.length ≤ ctxBase → ∀ k x, r[k]? = some x → rdLE t.mem (a + 8 * k) 8 = x.toNat)) ∧
      (word s 3 < (tr.wptr + 64 - BitVec.ofNat 64 (word s 5)).toNat → ∃ t, exec (.traceDrain i) s = .next t ∧ (t.coreAt n).trace.buf = rs ∧
        (t.coreAt n).trace.dropped = tr.dropped + 1 ∧ word t 6 = (tr.dropped + 1).toNat)) ∧
    (∀ reason, tr.isOpen = true → tr.closing = none → ∃ t r, exec (.traceClose i reason) s = .next t ∧ (t.coreAt n).trace.closing = some r ∧
      (t.coreAt n).trace.buf = tr.buf ∧ bits (word t 0) 63 63 = 1) := by
  intro n tr word
  have hword : word = fun st k => st.traceWord n k := rfl
  clear_value word
  subst hword
  beta_reduce
  refine ⟨fun hgo hopen hm hid hname => traceOpen_opens (s := s) (core := i) (i := n) rfl hgo hopen hm hid hname,
    fun r rs hopen hbuf => ⟨fun hroom => ?_, fun hfull => ?_⟩,
    fun reason hopen hclosing => traceClose_closes (s := s) (core := i) (i := n) rfl hopen hclosing⟩
  · have hplace : s.traceRoom n = some (s.traceWord n 2 + tr.wptr.toNat % s.traceWord n 3) := if_neg (Nat.not_lt.mpr hroom)
    refine ⟨_, traceDrain_writes (s := s) (core := i) (i := n) rfl hopen hbuf hplace, ?_, ?_, ?_, fun ha k x hx => traceWrite_record ha hx⟩
    · rw [traceWrite_coreAt, setTraceWord_coreAt, onTrace_coreAt]
    · rw [traceWrite_coreAt, setTraceWord_coreAt, onTrace_coreAt]
    · refine traceWrite_word.trans ?_
      rw [setTraceWord_coreAt, onTrace_coreAt]
  · have hplace : s.traceRoom n = none := if_pos hfull
    refine ⟨_, traceDrain_drops (s := s) (core := i) (i := n) rfl hopen hbuf hplace, ?_, ?_, ?_⟩
    · rw [setTraceWord_coreAt, onTrace_coreAt]
    · rw [setTraceWord_coreAt, onTrace_coreAt]
    · exact setTraceWord_same.trans (Nat.mod_eq_of_lt (BitVec.isLt _))

/-! ## The invalidation ring (R415) -/

section Invalidation

variable {s : State} {n : Nat}

theorem invalidationEntry_takes (hw : s.mod.ivWait = none) (hp : s.ivTail ≠ s.ivHead) : ∃ t, execInvalidationEntry s = .next t ∧
    t.mod.ivWait = some s.ivHead ∧ t.mem = s.mem ∧ t.core.tlb = (s.core.tlb.filter fun l => !s.ivHit s.ivHead l) ∧ t.core.eng = s.core.eng := by
  have hguard : ¬ (s.mod.ivWait.isSome = true ∨ s.ivTail = s.ivHead) := by simp [hw, hp]
  have hasids : (s.takeAsids s.ivHead).core = s.core ∧ (s.takeAsids s.ivHead).mem = s.mem := by
    unfold State.takeAsids
    dsimp only
    split <;> exact ⟨rfl, rfl⟩
  obtain ⟨hcore, hmem⟩ := hasids
  unfold execInvalidationEntry
  rw [if_neg hguard]
  dsimp only
  generalize s.takeAsids s.ivHead = u at hcore hmem
  refine ⟨_, rfl, ?_, hmem, ?_, ?_⟩
  · show some u.ivHead = _
    rw [State.ivHead, hmem, State.ivHead]
  · rw [hcore]
    rfl
  · rw [hcore]
    rfl

/-- Word 3 of an entry that has taken effect: done, and how many pages stay pinned. -/
def ivDone (s : State) (n : Nat) : Nat := 1 + (if s.ivLeft n = 0 then 0 else 2) + s.ivLeft n % 2 ^ 32 * 2 ^ 16

theorem ivDone_fields : bits (ivDone s n) 0 0 = 1 ∧ bits (ivDone s n) 1 1 = (if s.ivLeft n = 0 then 0 else 1) ∧
    bits (ivDone s n) 47 16 = s.ivLeft n % 2 ^ 32 := by
  unfold ivDone
  simp only [bits]
  split <;> omega

theorem invalidationDone_waits (hw : s.mod.ivWait = some n) (hh : s.ivHeld n = true) : execInvalidationDone s = .next s := by
  simp only [execInvalidationDone, hw, hh, if_true]

theorem invalidationDone_ends (hw : s.mod.ivWait = some n) (hh : s.ivHeld n = false) : ∃ t, execInvalidationDone s = .next t ∧
    t.mod.ivWait = none ∧ t.ivHead = (n + 1) % 2 ^ 64 ∧ rdLE t.mem (ctxBase + 0x41000 + 32 * (n % 256) + 24) 8 = ivDone s n := by
  have hdone : ivDone s n < 2 ^ 64 := by
    unfold ivDone
    split <;> omega
  refine ⟨({ s with mem := wrLE (wrLE s.mem (ivEntry n + 24) 8 (ivDone s n)) (ctxBase + 0x40008) 8 (n + 1) }.onMod fun m => { m with ivWait := none }),
    ?_, rfl, ?_, ?_⟩
  · simp only [execInvalidationDone, hw, hh, Bool.false_eq_true, if_false]
    rfl
  · exact rdLE_wrLE (wrLE s.mem (ivEntry n + 24) 8 (ivDone s n)) (ctxBase + 0x40008) 8 (n + 1)
  · refine (rdLE_wrLE_out (by omega)).trans ?_
    exact (rdLE_wrLE s.mem (ivEntry n + 24) 8 (ivDone s n)).trans (Nat.mod_eq_of_lt hdone)

theorem invalidation_clause (s : State) :
    (s.mod.ivWait = none → s.ivTail ≠ s.ivHead → ∃ t, exec .invalidationEntry s = .next t ∧ t.mod.ivWait = some s.ivHead ∧ t.mem = s.mem ∧
      t.core.tlb = (s.core.tlb.filter fun l => !s.ivHit s.ivHead l) ∧ t.core.eng = s.core.eng) ∧
    (∀ n, s.mod.ivWait = some n → s.ivHeld n = true → exec .invalidationDone s = .next s) ∧
    (∀ n, s.mod.ivWait = some n → s.ivHeld n = false → ∃ t, exec .invalidationDone s = .next t ∧ t.mod.ivWait = none ∧ t.ivHead = (n + 1) % 2 ^ 64 ∧
      let w := rdLE t.mem (ctxBase + 0x41000 + 32 * (n % 256) + 24) 8
      bits w 0 0 = 1 ∧ bits w 1 1 = (if s.ivLeft n = 0 then 0 else 1) ∧ bits w 47 16 = s.ivLeft n % 2 ^ 32) := by
  refine ⟨invalidationEntry_takes, fun n => invalidationDone_waits, fun n hw hh => ?_⟩
  obtain ⟨t, ht, hwait, hhead, hword⟩ := invalidationDone_ends hw hh
  refine ⟨t, ht, hwait, hhead, ?_⟩
  rw [hword]
  exact ivDone_fields

end Invalidation

end Sys2Proof.Machine

/-! PROOF. The registers of the queues, and queue resets (R395 to R398, R408). -/

namespace Sys2Proof.Machine
open Sys2Proof.Manual

section Queues

variable {s : State} {q n code idx : Nat} {f : Queue → Queue} {v : W64}

@[simp] theorem onQueue_queue : (s.onQueue q f).queue q = f (s.queue q) := sget_sset_same _ _ _ _

theorem onQueue_queue_ne (h : n ≠ q) : (s.onQueue q f).queue n = s.queue n := sget_sset_ne _ _ _ h

@[simp] theorem later_queue (l : List Instr) : (s.later l).queue q = s.queue q := rfl

/-- A vector that is raised is sent, unless it is masked. -/
theorem raise_msix (h : HostRegs) (v : Nat) : (h.raise v).msix = h.msix ++ (if h.masked v then [] else [v]) := by
  unfold HostRegs.raise
  split
  · exact (List.append_nil _).symm
  · rfl

/-- The first error of a queue is kept, and raises vector 65 (R397). -/
theorem queueError_first (h : (s.queue q).stat.getLsbD 63 = false) : (s.queueError q code idx).queue q =
      { s.queue q with stat := BitVec.ofNat 64 (2 ^ 63 + code * 2 ^ 48 + idx % 2 ^ 32) } ∧
    (s.queueError q code idx).mod.host.msix = s.mod.host.msix ++ (if s.mod.host.masked 65 then [] else [65]) := by
  rw [State.queueError, if_neg (Bool.eq_false_iff.mp h)]
  exact ⟨sget_sset_same Queue.reset s.mod.queues q _, raise_msix ..⟩

/-- An error word holds its code and its index. -/
theorem errorWord_toNat (hc : code < 4) : (BitVec.ofNat 64 (2 ^ 63 + code * 2 ^ 48 + idx % 2 ^ 32)).toNat = 2 ^ 63 + code * 2 ^ 48 + idx % 2 ^ 32 := by
  rw [BitVec.toNat_ofNat]
  omega

/-! ## QTAIL (R398) -/

theorem qtailWrite_ignored {q : BitVec 6} (h : (s.queue q.toNat).en = false ∨ (s.queue q.toNat).rst = true) : execQtailWrite q v s = .next s := by
  have hguard : (!(s.queue q.toNat).en) = true ∨ (s.queue q.toNat).rst = true := h.imp_left fun he => by rw [he]; rfl
  exact if_pos hguard

section On

variable {q : BitVec 6} {tail : W32}

theorem qtailWrite_moves (hen : (s.queue q.toNat).en = true) (hrst : (s.queue q.toNat).rst = false)
    (hroom : (v.setWidth 32 - (s.queue q.toNat).head : W32).toNat ≤ 2 ^ (s.queue q.toNat).logn)
    (hon : ((s.queue q.toNat).tail - (s.queue q.toNat).head).toNat ≤ (v.setWidth 32 - (s.queue q.toNat).head : W32).toNat) :
    execQtailWrite q v s = .next ((s.onQueue q.toNat fun k => { k with tail := v.setWidth 32 }).later [.schedulerStep]) := by
  have hguard : ¬ ((!(s.queue q.toNat).en) = true ∨ (s.queue q.toNat).rst = true) := by rw [hen, hrst]; decide
  unfold execQtailWrite
  dsimp only
  rw [if_neg hguard, if_neg (by omega)]

theorem qtailWrite_fails (hen : (s.queue q.toNat).en = true) (hrst : (s.queue q.toNat).rst = false)
    (h : 2 ^ (s.queue q.toNat).logn < (v.setWidth 32 - (s.queue q.toNat).head : W32).toNat ∨
      (v.setWidth 32 - (s.queue q.toNat).head : W32).toNat < ((s.queue q.toNat).tail - (s.queue q.toNat).head).toNat) :
    execQtailWrite q v s = .next (s.queueError q.toNat 1 (v.setWidth 32 : W32).toNat) := by
  have hguard : ¬ ((!(s.queue q.toNat).en) = true ∨ (s.queue q.toNat).rst = true) := by rw [hen, hrst]; decide
  unfold execQtailWrite
  dsimp only
  rw [if_neg hguard, if_pos h]

/-! ## QCTL (R397, R408) -/

theorem bit_toNat {w : Nat} (x : BitVec w) (i : Nat) : bit x.toNat i = x.getLsbD i := rfl

/-- A configuration that a queue takes (R397). -/
def CfgOk (k : Queue) (v : W64) : Prop := 4 ≤ bits v.toNat 4 1 ∧ bits v.toNat 4 1 ≤ 15 ∧ hbmOk k.base 1 = true

theorem cfgOk_decides (k : Queue) (v : W64) : (decide (4 ≤ fld v.toNat 4 1) && decide (fld v.toNat 4 1 ≤ 15) && hbmOk k.base 1) = true ↔ CfgOk k v := by
  rw [CfgOk, Bool.and_eq_true, Bool.and_eq_true, decide_eq_true_eq, decide_eq_true_eq, and_assoc]
  rfl

section Off

variable (hen : (s.queue q.toNat).en = false) (hrst : (s.queue q.toNat).rst = false) (h0 : v.getLsbD 0 = true) (h8 : v.getLsbD 8 = false)

include hen hrst h0 h8

theorem qctlWrite_enables (hok : CfgOk (s.queue q.toNat) v) : execQctlWrite q v s =
    .next (s.onQueue q.toNat fun k => { k with en := true, logn := bits v.toNat 4 1, age := bits v.toNat 47 32 }) := by
  have hcfg := (cfgOk_decides _ _).mpr hok
  simp only [execQctlWrite, hen, hrst, bit_toNat, h0, h8, hcfg, Bool.false_eq_true, if_false, if_true, Bool.not_false, Bool.not_true, Bool.false_or,
    Bool.true_and, Bool.and_true, Bool.and_false]
  rfl

theorem qctlWrite_fails (hok : ¬ CfgOk (s.queue q.toNat) v) (hstat : (s.queue q.toNat).stat.getLsbD 63 = false) :
    ∃ u : State, u.mod.host = s.mod.host ∧ (u.queue q.toNat).en = false ∧ (u.queue q.toNat).stat.getLsbD 63 = false ∧
      execQctlWrite q v s = .next (u.queueError q.toNat 3 0) := by
  have hcfg := Bool.eq_false_iff.mpr fun h => hok ((cfgOk_decides _ _).mp h)
  refine ⟨s.onQueue q.toNat fun k => { k with age := bits v.toNat 47 32, logn := bits v.toNat 4 1, en := false, headSince := none, ready := false },
    rfl, ?_, ?_, ?_⟩
  · rw [onQueue_queue]
  · rw [onQueue_queue]
    exact hstat
  · simp only [execQctlWrite, hen, hrst, bit_toNat, h0, h8, hcfg, Bool.false_eq_true, if_false, if_true, Bool.not_false, Bool.false_or,
       Bool.and_true, Bool.and_false, Bool.false_and]
    rfl

end Off

/-- A reset that is asked for is due (R408). -/
theorem qctlWrite_resets (hrst : (s.queue q.toNat).rst = false) (h8 : v.getLsbD 8 = true) : ∃ t, execQctlWrite q v s = .next t ∧
    (t.queue q.toNat).rst = true ∧ (t.queue q.toNat).en = false ∧ Instr.queueReset q ∈ t.due := by
  have hguard : (bit v.toNat 8 && !(s.queue q.toNat).rst) = true := by rw [bit_toNat, h8, hrst]; rfl
  refine ⟨_, if_pos hguard, ?_, ?_, List.mem_append_right _ (List.mem_singleton_self _)⟩
  · rw [later_queue, onQueue_queue]
  · rw [later_queue, onQueue_queue]

/-! ## Queue resets (R408) -/

theorem queueReset_ignored (hrst : (s.queue q.toNat).rst = false) : execQueueReset q s = .next s := if_pos (by rw [hrst]; rfl)

/-- A queue that resets is off, and places nothing. -/
def resetting (s : State) (n : Nat) : State := (s.onQueue n fun k => { k with en := false, headSince := none, ready := false }).onMod fun m => { m with
  placing := m.placing.filter fun p => p.queue != some n }

theorem resetting_queue : (resetting s n).queue n = { s.queue n with en := false, headSince := none, ready := false } :=
  sget_sset_same Queue.reset s.mod.queues n _

/-- With nothing launched from it a queue waits for the terminal records of the sessions that its reset closed, then its records complete. -/
theorem queueReset_idle (hrst : (s.queue q.toNat).rst = true) (hl : s.mod.launches = []) : execQueueReset q s =
    (if (!((s.queue q.toNat).draining.filter s.sessionCloses).isEmpty) = true then
      .next ((resetting s q.toNat).onQueue q.toNat fun k => { k with draining := (s.queue q.toNat).draining.filter s.sessionCloses })
    else .next ((((resetting s q.toNat).flushQueue q.toNat 68 ((s.queue q.toNat).tail - (s.queue q.toNat).head).toNat (s.queue q.toNat).head.toNat).onQueue
      q.toNat fun k => { k with head := k.tail, rst := false, draining := [] }).logReset 4 q.toNat)) := by
  have hguard : ¬ (!(s.queue q.toNat).rst) = true := by rw [hrst]; decide
  have hnone : ((resetting s q.toNat).mod.launches.filter fun l => l.queue == q.toNat) = [] := by
    show (s.mod.launches.filter _) = []
    rw [hl, List.filter_nil]
  unfold execQueueReset
  dsimp only
  rw [if_neg hguard, show ((s.onQueue q.toNat fun k => { k with en := false, headSince := none, ready := false }).onMod fun m => { m with
    placing := m.placing.filter fun p => p.queue != some q.toNat }) = resetting s q.toNat from rfl, hnone]
  simp only [List.foldl_nil, List.flatMap_nil, List.append_nil, resetting_queue]
  rfl

theorem resetting_recordAt (i : Nat) : (resetting s n).recordAt n i = s.recordAt n i := by
  rw [State.recordAt, resetting_queue, State.recordAt]
  rfl

theorem finishRecord_queue (m : Nat) (w : List Nat) : (s.finishRecord m w code).queue n = s.queue n := by
  rw [State.queue, finishRecord_queues, State.queue]

@[simp] theorem logReset_queue (row target : Nat) : (s.logReset row target).queue n = s.queue n := rfl

/-- While a session that the reset closed is open, its records wait. -/
theorem queueReset_waits (hrst : (s.queue q.toNat).rst = true) (hl : s.mod.launches = [])
    (hopen : ∃ i ∈ (s.queue q.toNat).draining, (s.coreAt i).trace.closing ≠ none) : ∃ t, execQueueReset q s = .next t ∧
      (t.queue q.toNat).rst = true ∧ (t.queue q.toNat).head = (s.queue q.toNat).head ∧ t.mem = s.mem := by
  obtain ⟨i, hi, hclosing⟩ := hopen
  have hsome : (!((s.queue q.toNat).draining.filter s.sessionCloses).isEmpty) = true := by
    rw [Bool.not_eq_true', List.isEmpty_eq_false_iff_exists_mem]
    exact ⟨i, List.mem_filter.mpr ⟨hi, Option.isSome_iff_ne_none.mpr hclosing⟩⟩
  refine ⟨_, (queueReset_idle hrst hl).trans (if_pos hsome), ?_, ?_, rfl⟩
  · rw [onQueue_queue, resetting_queue]
    exact hrst
  · rw [onQueue_queue, resetting_queue]

/-- The last record completes with QUEUE_RESET, and the head comes to the tail. -/
theorem queueReset_completes {w : List Nat} (hrst : (s.queue q.toNat).rst = true) (hone : (s.queue q.toNat).tail = (s.queue q.toNat).head + 1)
    (hw : w = s.recordAt q.toNat (s.queue q.toNat).head.toNat) (h : CwFree s w) (hl : s.mod.launches = [])
    (hclosed : ∀ i ∈ (s.queue q.toNat).draining, (s.coreAt i).trace.closing = none) : ∃ t, execQueueReset q s = .next t ∧ Completed s t w 68 ∧
      (t.queue q.toNat).head = (s.queue q.toNat).tail ∧ (t.queue q.toNat).rst = false ∧ (t.queue q.toNat).en = false := by
  have hnone : ¬ (!((s.queue q.toNat).draining.filter s.sessionCloses).isEmpty) = true := by
    rw [List.filter_eq_nil_iff.mpr fun i hi => by rw [State.sessionCloses, hclosed i hi]; decide]
    decide
  have hlen : ((s.queue q.toNat).tail - (s.queue q.toNat).head).toNat = 1 := by
    rw [hone, BitVec.add_comm, BitVec.add_sub_cancel]
    rfl
  have hflush : (resetting s q.toNat).flushQueue q.toNat 68 1 (s.queue q.toNat).head.toNat = (resetting s q.toNat).finishRecord q.toNat w 68 := by
    rw [State.flushQueue, resetting_recordAt, ← hw, if_pos h.word, State.flushQueue]
  have hdone : Completed (resetting s q.toNat) ((resetting s q.toNat).finishRecord q.toNat w 68) w 68 := finishRecord_completes ⟨h.word, h.clean, h.low⟩
  refine ⟨_, (queueReset_idle hrst hl).trans (if_neg hnone), ?_, ?_, ?_, ?_⟩
  · rw [hlen, hflush]
    exact hdone
  · rw [hlen, hflush, logReset_queue, onQueue_queue, finishRecord_queue, resetting_queue]
  · rw [hlen, hflush, logReset_queue, onQueue_queue]
  · rw [hlen, hflush, logReset_queue, onQueue_queue, finishRecord_queue, resetting_queue]

end On

end Queues

theorem queueRegisters_clause (s : State) (q : BitVec 6) (v : W64) : let k := s.queue q.toNat
    let tail : W32 := v.setWidth 32
    let failed := fun (t : State) (code idx : Nat) => (t.queue q.toNat).stat.toNat = 2 ^ 63 + code * 2 ^ 48 + idx ∧
      t.mod.host.msix = s.mod.host.msix ++ (if s.mod.host.masked 65 then [] else [65])
    (k.en = false ∨ k.rst = true → exec (.qtailWrite q v) s = .next s) ∧
    (k.en = true → k.rst = false → (tail - k.head).toNat ≤ 2 ^ k.logn → (k.tail - k.head).toNat ≤ (tail - k.head).toNat →
      ∃ t, exec (.qtailWrite q v) s = .next t ∧ t.queue q.toNat = { k with tail := tail } ∧ Instr.schedulerStep ∈ t.due) ∧
    (k.en = true → k.rst = false → k.stat.getLsbD 63 = false → 2 ^ k.logn < (tail - k.head).toNat ∨ (tail - k.head).toNat < (k.tail - k.head).toNat →
      ∃ t, exec (.qtailWrite q v) s = .next t ∧ (t.queue q.toNat).tail = k.tail ∧ failed t 1 tail.toNat) ∧
    (k.en = false → k.rst = false → v.getLsbD 0 = true → v.getLsbD 8 = false →
      let logn := bits v.toNat 4 1
      (4 ≤ logn → logn ≤ 15 → hbmOk k.base 1 = true → exec (.qctlWrite q v) s = .next (s.onQueue q.toNat fun k =>
        { k with en := true, logn := logn, age := bits v.toNat 47 32 })) ∧
      (¬ (4 ≤ logn ∧ logn ≤ 15 ∧ hbmOk k.base 1 = true) → k.stat.getLsbD 63 = false → ∃ t, exec (.qctlWrite q v) s = .next t ∧
        (t.queue q.toNat).en = false ∧ failed t 3 0)) ∧
    (k.rst = false → v.getLsbD 8 = true → ∃ t, exec (.qctlWrite q v) s = .next t ∧ (t.queue q.toNat).rst = true ∧ (t.queue q.toNat).en = false ∧
      Instr.queueReset q ∈ t.due) ∧
    (k.rst = false → exec (.queueReset q) s = .next s) ∧
    (k.rst = true → s.mod.launches = [] → (∃ i ∈ k.draining, (s.coreAt i).trace.closing ≠ none) → ∃ t, exec (.queueReset q) s = .next t ∧
      (t.queue q.toNat).rst = true ∧ (t.queue q.toNat).head = k.head ∧ t.mem = s.mem) ∧
    (∀ w, k.rst = true → k.tail = k.head + 1 → w = s.recordAt q.toNat k.head.toNat → CwFree s w → s.mod.launches = [] →
      (∀ i ∈ k.draining, (s.coreAt i).trace.closing = none) → ∃ t, exec (.queueReset q) s = .next t ∧ Completed s t w 68 ∧ (t.queue q.toNat).head = k.tail ∧
        (t.queue q.toNat).rst = false ∧ (t.queue q.toNat).en = false) := by
  intro k tail failed
  refine ⟨qtailWrite_ignored, fun hen hrst hroom hon => ?_, fun hen hrst hstat h => ?_, fun hen hrst h0 h8 =>
    ⟨fun h4 h15 hbase => qctlWrite_enables hen hrst h0 h8 ⟨h4, h15, hbase⟩, fun hbad hstat => ?_⟩, qctlWrite_resets, queueReset_ignored,
    queueReset_waits, fun w hrst hone hw hfree hl hclosed => queueReset_completes hrst hone hw hfree hl hclosed⟩
  · refine ⟨_, qtailWrite_moves hen hrst hroom hon, ?_, List.mem_append_right _ (List.mem_singleton_self _)⟩
    rw [later_queue, onQueue_queue]
  · obtain ⟨hqueue, hmsix⟩ := queueError_first (code := 1) (idx := tail.toNat) hstat
    refine ⟨_, qtailWrite_fails hen hrst h, ?_, ?_, hmsix⟩
    · rw [hqueue]
    · rw [hqueue]
      exact (errorWord_toNat (by decide)).trans (by rw [Nat.mod_eq_of_lt tail.isLt])
  · obtain ⟨u, hhost, huen, hustat, hexec⟩ := qctlWrite_fails hen hrst h0 h8 hbad hstat
    obtain ⟨hqueue, hmsix⟩ := queueError_first (code := 3) (idx := 0) hustat
    refine ⟨_, hexec, ?_, ?_, ?_⟩
    · rw [hqueue]
      exact huen
    · rw [hqueue]
      exact errorWord_toNat (by decide)
    · rw [hmsix, hhost]

end Sys2Proof.Machine

/-! PROOF. Pre-emption: victims stop, and are saved (R44, R406, R416). -/

namespace Sys2Proof.Machine
open Sys2Proof.Manual

section Preempt

variable {s : State} {l : Launch} {i : Nat}

theorem rect_cores_nodup (r : Rect) : r.cores.Nodup := List.nodup_range.filter _

/-- A core that is asked to stop for a pre-emption, unless it stops already or has nothing to stop. -/
def askCore (c : Core) : Core :=
  if (c.mode == .run || c.mode == .hold || c.mode == .halted) && c.stopAsked.isNone then { c with stopAsked := some Stop.preempt } else c

@[simp] theorem askCore_mode (c : Core) : (askCore c).mode = c.mode := by
  unfold askCore
  split <;> rfl

theorem askCore_again (c : Core) : askCore (askCore c) = askCore c := by
  unfold askCore
  split
  next h => rw [if_neg]; simp
  next => rfl

theorem askCore_asks {c : Core} (hask : c.stopAsked = none) (hm : c.mode ∈ [.run, .hold, .halted]) : (askCore c).stopAsked = some Stop.preempt := by
  have hruns : ((c.mode == .run || c.mode == .hold || c.mode == .halted) && c.stopAsked.isNone) = true := by
    simp only [List.mem_cons, List.not_mem_nil, or_false] at hm
    obtain hm | hm | hm := hm <;> rw [hm, hask] <;> rfl
  rw [askCore, if_pos hruns]

/-- One core of a launch being saved is asked. -/
def askOne (st : State) (i : Nat) : State :=
  if ((st.coreAt i).mode == .run || (st.coreAt i).mode == .hold || (st.coreAt i).mode == .halted) && (st.coreAt i).stopAsked.isNone then
    st.setCore i { st.coreAt i with stopAsked := some Stop.preempt } else st

theorem askStops_eq : s.askStops l = l.rect.cores.foldl askOne s := rfl

theorem askOne_mod (st : State) : (askOne st i).mod = st.mod := by
  unfold askOne
  split
  · exact setCore_mod ..
  · rfl

theorem askOne_coreAt (st : State) (j : Nat) : (askOne st i).coreAt j = if j = i then askCore (st.coreAt i) else st.coreAt j := by
  unfold askOne askCore
  split
  · split
    next h => rw [h, coreAt_setCore_same]
    next h => exact coreAt_setCore_ne _ _ h
  · split
    next h => rw [h]
    next => rfl

theorem askStops_mod : (s.askStops l).mod = s.mod := foldl_keeps (g := fun st : State => st.mod) (fun _ _ st => askOne_mod st) s

theorem askAll_coreAt (is : List Nat) : (is.foldl askOne s).coreAt i = if i ∈ is then askCore (s.coreAt i) else s.coreAt i := by
  induction is generalizing s with
  | nil => simp only [List.foldl_nil, List.not_mem_nil, if_false]
  | cons x is ih =>
    rw [List.foldl_cons, ih, askOne_coreAt]
    by_cases hx : i = x
    · subst hx
      by_cases hi : i ∈ is <;> simp only [hi, if_true, if_false, List.mem_cons, true_or, askCore_again]
    · by_cases hi : i ∈ is <;> simp only [hi, hx, if_true, if_false, List.mem_cons, or_true, or_self]

/-- Cores that are stopped are not asked. -/
theorem askStops_stopped (h : ∀ i ∈ l.rect.cores, (s.coreAt i).mode = .stopped) : s.askStops l = s := by
  refine List.foldlRecOn (motive := fun y => y = s) l.rect.cores askOne rfl fun y hy x hx => ?_
  rw [hy, askOne, h x hx, if_neg]
  simp

/-- A core that is saved leaves its place, its context kept in an image. -/
def saveCore (st : State) (i : Nat) : State :=
  (st.setCore i { Core.zero with trace := (st.coreAt i).trace }).onMod fun m => { m with
    images := m.images ++ [⟨(st.coreAt i).frame, i, { st.coreAt i with trace := .none }⟩] }

theorem saveCore_coreAt_same (st : State) : (saveCore st i).coreAt i = { Core.zero with trace := (st.coreAt i).trace } := coreAt_setCore_same ..

theorem saveCore_coreAt_ne {j : Nat} (h : j ≠ i) (st : State) : (saveCore st i).coreAt j = st.coreAt j := coreAt_setCore_ne _ _ h

theorem saveCore_mod (st : State) : (saveCore st i).mod =
    { st.mod with images := st.mod.images ++ [⟨(st.coreAt i).frame, i, { st.coreAt i with trace := .none }⟩] } := by
  rw [saveCore, State.onMod, setCore_mod]

theorem saveAll_mod {is : List Nat} (hn : is.Nodup) : (is.foldl saveCore s).mod =
    { s.mod with images := s.mod.images ++ is.map fun i => ⟨(s.coreAt i).frame, i, { s.coreAt i with trace := .none }⟩ } := by
  induction is generalizing s with
  | nil => rw [List.foldl_nil, List.map_nil, List.append_nil]
  | cons x is ih =>
    obtain ⟨hx, hn'⟩ := List.nodup_cons.mp hn
    have hrest (i : Nat) (hi : i ∈ is) : (saveCore s x).coreAt i = s.coreAt i := saveCore_coreAt_ne (fun he => hx (by rw [← he]; exact hi)) s
    have hmap := List.map_congr_left (f := fun i => (⟨((saveCore s x).coreAt i).frame, i, { (saveCore s x).coreAt i with trace := .none }⟩ : Image))
      (g := fun i => ⟨(s.coreAt i).frame, i, { s.coreAt i with trace := .none }⟩) fun i hi => by rw [hrest i hi]
    rw [List.foldl_cons, ih hn', hmap, saveCore_mod, List.map_cons, List.append_assoc, List.singleton_append]

theorem saveAll_off {is : List Nat} (hi : i ∈ is) : ((is.foldl saveCore s).coreAt i).mode = .off :=
  foldl_sets (g := fun st : State => (st.coreAt i).mode) hi (fun st => by rw [saveCore_coreAt_same]; rfl)
    (fun _ _ hne st => congrArg Core.mode (saveCore_coreAt_ne hne.symm st)) s

/-- A break of a latency promise changes the hub alone. -/
theorem promiseBreak_sets (kind id ns : Nat) : ∃ h, s.promiseBreak kind id ns = { s with mod := { s.mod with hub := h } } := ⟨_, rfl⟩

/-- The state of a module whose launch has just been saved on its cores, before what its time may break. -/
def savedState (s : State) (l : Launch) (is : List Nat) : State :=
  let s1 := is.foldl saveCore s
  let mine := s1.mod.barriers.filter fun b => b.slot == l.slot
  (s1.onLaunch l.slot fun x => { x with state := .suspended s.ts.toNat, barriers := mine }).onMod fun m => { m with
    barriers := m.barriers.filter fun b => b.slot != l.slot }

/-- What a launch that is saved on its cores leaves: it is suspended, its contexts are among the images. -/
structure Saved (s t : State) (is : List Nat) : Prop where
  state : t.mod.launches.map (·.state) = [.suspended s.ts.toNat]
  off : ∀ i ∈ is, (t.coreAt i).mode = .off
  placing : t.mod.placing = s.mod.placing
  images : t.mod.images = s.mod.images ++ is.map fun i => ⟨(s.coreAt i).frame, i, { s.coreAt i with trace := .none }⟩

theorem savedState_saves {is : List Nat} (hn : is.Nodup) (hl : s.mod.launches = [l]) : Saved s (savedState s l is) is := by
  have hmod := saveAll_mod (s := s) hn
  exact
    { state := by simp only [savedState, State.onLaunch, State.onMod, hmod, hl, List.map_cons, List.map_nil, if_true]
      off := fun i hi => saveAll_off hi
      placing := by simp only [savedState, State.onLaunch, State.onMod, hmod]
      images := by simp only [savedState, State.onLaunch, State.onMod, hmod] }

theorem suspend_eq : ∃ k id ns, s.suspend l = (savedState s l l.rect.cores).takeReq.2 ∨
    s.suspend l = (savedState s l l.rect.cores).takeReq.2.promiseBreak k id ns := by
  unfold State.suspend
  generalize l.rect.cores = is
  dsimp only
  split
  · exact ⟨_, _, _, .inr rfl⟩
  · exact ⟨0, 0, 0, .inl rfl⟩

theorem suspend_saves (hl : s.mod.launches = [l]) : Saved s (s.suspend l) l.rect.cores := by
  obtain ⟨k, id, ns, h⟩ := suspend_eq (s := s) (l := l)
  have hn := rect_cores_nodup l.rect
  generalize l.rect.cores = is at h hn
  have hsaved := savedState_saves hn hl
  generalize savedState s l is = u at h hsaved
  obtain h | h := h
  · rw [h]
    exact ⟨hsaved.state, hsaved.off, hsaved.placing, hsaved.images⟩
  · obtain ⟨hub, hset⟩ := promiseBreak_sets (s := u.takeReq.2) k id ns
    rw [h, hset]
    exact ⟨hsaved.state, hsaved.off, hsaved.placing, hsaved.images⟩

theorem saving_filter (hl : s.mod.launches = [l]) (hst : l.state = .saving) : (s.mod.launches.filter fun x => x.state == .saving) = [l] := by
  rw [hl, List.filter_cons_of_pos (by rw [hst]; decide), List.filter_nil]

theorem preemptVictims_eq (hl : s.mod.launches = [l]) (hst : l.state = .saving) : execPreemptVictims s =
    (let s1 := s.askStops l
     let s2 := if l.rect.cores.all fun i => (s1.coreAt i).mode == .stopped then s1.suspend l else s1
     .next (s2.mod.placing.foldl State.placingDone s2)) := by
  unfold execPreemptVictims
  rw [saving_filter hl hst]
  simp only [List.foldl_cons, List.foldl_nil]

theorem preemptVictims_asks (hl : s.mod.launches = [l]) (hst : l.state = .saving) (hp : s.mod.placing = [])
    (h : ∃ i ∈ l.rect.cores, (s.coreAt i).mode ≠ .stopped) : execPreemptVictims s = .next (s.askStops l) := by
  have hnot : ¬ (l.rect.cores.all fun i => ((s.askStops l).coreAt i).mode == .stopped) = true := by
    obtain ⟨i, hi, hm⟩ := h
    rw [List.all_eq_true]
    intro hall
    have hi' := hall i hi
    rw [askStops_eq, askAll_coreAt, if_pos hi, askCore_mode, beq_iff_eq] at hi'
    exact hm hi'
  rw [preemptVictims_eq hl hst]
  dsimp only
  rw [if_neg hnot, askStops_mod, hp, List.foldl_nil]

theorem preemptVictims_saves (hl : s.mod.launches = [l]) (hst : l.state = .saving) (hp : s.mod.placing = [])
    (h : ∀ i ∈ l.rect.cores, (s.coreAt i).mode = .stopped) : execPreemptVictims s = .next (s.suspend l) := by
  have hplacing := (suspend_saves hl).placing
  rw [preemptVictims_eq hl hst]
  dsimp only
  rw [askStops_stopped h, if_pos (List.all_eq_true.mpr fun i hi => by rw [h i hi]; decide), hplacing, hp, List.foldl_nil]

end Preempt

theorem preempt_clause (s : State) (l : Launch) (hl : s.mod.launches = [l]) (hst : l.state = .saving) (hp : s.mod.placing = []) :
    ((∃ i ∈ l.rect.cores, (s.coreAt i).mode ≠ .stopped) → ∃ t, exec .preemptVictims s = .next t ∧ t.mod = s.mod ∧
      ∀ i ∈ l.rect.cores, (s.coreAt i).stopAsked = none → (s.coreAt i).mode ∈ [.run, .hold, .halted] →
        ∃ st, (t.coreAt i).stopAsked = some st ∧ st.cause = none ∧ st.resumable = true) ∧
    ((∀ i ∈ l.rect.cores, (s.coreAt i).mode = .stopped) → ∃ t, exec .preemptVictims s = .next t ∧
      t.mod.launches.map (·.state) = [.suspended s.ts.toNat] ∧ (∀ i ∈ l.rect.cores, (t.coreAt i).mode = .off) ∧
      t.mod.images = s.mod.images ++ l.rect.cores.map fun i => ⟨(s.coreAt i).frame, i, { s.coreAt i with trace := .none }⟩) := by
  refine ⟨fun h => ⟨_, preemptVictims_asks hl hst hp h, askStops_mod, fun i hi hask hm => ⟨Stop.preempt, ?_, rfl, rfl⟩⟩, fun h => ?_⟩
  · rw [askStops_eq, askAll_coreAt, if_pos hi, askCore_asks hask hm]
  · have hsaved := suspend_saves hl
    exact ⟨_, preemptVictims_saves hl hst hp h, hsaved.state, hsaved.off, hsaved.images⟩

end Sys2Proof.Machine

/-! PROOF. A step of the scheduler over the one record of one queue (R400 to R406). -/

namespace Sys2Proof.Machine
open Sys2Proof.Manual

/-! ## The heads of the queues, one after another -/

/-- A fold in which one element acts, and the others neither before nor after it. -/
theorem foldl_acts_at {α β : Type} {f : α → β → α} {s u : α} {x : β} {l : List β} (hn : l.Nodup) (hx : x ∈ l) (hat : f s x = u)
    (hbefore : ∀ y ∈ l, y ≠ x → f s y = s) (hafter : ∀ y ∈ l, y ≠ x → f u y = u) : l.foldl f s = u := by
  have hsame (a : α) (l : List β) (h : ∀ y ∈ l, f a y = a) : l.foldl f a = a :=
    List.foldlRecOn (motive := fun b => b = a) l f rfl fun b hb y hy => by rw [hb, h y hy]
  obtain ⟨p, r, rfl⟩ := List.append_of_mem hx
  obtain ⟨-, hr, hpr⟩ := List.nodup_append.mp hn
  have hp : ∀ y ∈ p, y ≠ x := fun y hy => hpr y hy x (List.mem_cons_self ..)
  have hrest : ∀ y ∈ r, y ≠ x := fun y hy he => (List.nodup_cons.mp hr).1 (by rw [← he]; exact hy)
  rw [List.foldl_append, List.foldl_cons, hsame s p fun y hy => hbefore y (List.mem_append_left _ hy) (hp y hy), hat,
    hsame u r fun y hy => hafter y (List.mem_append_right _ (List.mem_cons_of_mem _ hy)) (hrest y hy)]

section Heads

variable {s : State} {q n fuel code : Nat} {k : Queue} {w : List Nat}

/-- A queue that is off is not looked at. -/
theorem headCheck_off (h : (s.queue n).en = false) : s.headCheck n fuel = s := by
  cases fuel with
  | zero => rfl
  | succ fuel =>
    rw [State.headCheck]
    dsimp only
    rw [if_pos (by rw [h]; rfl)]

/-- An empty queue is not looked at. -/
theorem headCheck_empty (h : (s.queue n).head = (s.queue n).tail) : s.headCheck n fuel = s := by
  cases fuel with
  | zero => rfl
  | succ fuel =>
    rw [State.headCheck]
    dsimp only
    rw [if_pos (by simp [h])]

@[simp] theorem popHead_queue : (s.popHead q).queue q = { s.queue q with head := (s.queue q).head + 1, headSince := none, ready := false } :=
  onQueue_queue

theorem popHead_queue_ne (h : n ≠ q) : (s.popHead q).queue n = s.queue n := onQueue_queue_ne h

/-- What the check of a head does, once the queue is on, has a record, and has not been given a place. -/
theorem headCheck_record (hon : (!(s.queue q).en || (s.queue q).rst || (s.queue q).head == (s.queue q).tail || (s.queue q).ready || s.headTaken q) = false)
    (hw : s.recordAt q (s.queue q).head.toNat = w) (hclean : s.recordSpoilt q (s.queue q).head.toNat = none) (hcw : wordOk (recCw w) = true) :
    s.headCheck q (fuel + 1) = if !recordOk w then ((s.finishRecord q w 64).popHead q).headCheck q fuel
      else
        let s1 := if (s.queue q).headSince.isNone then s.onQueue q fun k => { k with headSince := some s.ts.toNat } else s
        let waits := (List.range (recWaits w)).map (s.waitState w)
        if waits.any Option.isNone then ((s1.finishRecord q w 65).popHead q).headCheck q fuel
        else if waits.all fun x => x == some true then
          if recKind w = 0 then ((s1.finishRecord q w 0).popHead q).headCheck q fuel else s1.onQueue q fun k => { k with ready := true }
        else s1 := by
  rw [State.headCheck]
  dsimp only
  rw [hon, hw, hclean]
  simp only [hcw, Bool.not_true, Bool.false_eq_true, if_false]

end Heads

/-! ## One record -/

section One

variable {s : State} {q code : Nat} {k : Queue} {w : List Nat}

/-- The module once the head of a queue has been seen. -/
def seen (s : State) (q : Nat) : State := s.onQueue q fun k => { k with headSince := some s.ts.toNat }

section Record

variable (h : OneRecord s q k w)

include h

theorem oneRecord_queue : s.queue q = k := by
  rw [State.queue, h.alone, sget, if_pos rfl]

theorem oneRecord_queue_ne {n : Nat} (hn : n ≠ q) : s.queue n = .reset := by
  rw [State.queue, h.alone, sget, if_neg hn, sget]

theorem oneRecord_on : (!(s.queue q).en || (s.queue q).rst || (s.queue q).head == (s.queue q).tail || (s.queue q).ready || s.headTaken q) = false := by
  obtain ⟨hen, hrst, hready, -⟩ := h.on
  obtain ⟨hlaunches, hplacing⟩ := h.noLaunch
  have hmore : (k.head == k.tail) = false := by
    rw [beq_eq_false_iff_ne, h.one]
    intro he
    have hadd := congrArg (· - k.head) he
    simp only [BitVec.sub_self, BitVec.add_comm k.head, BitVec.add_sub_cancel] at hadd
    exact absurd hadd (by decide)
  rw [oneRecord_queue h, hen, hrst, hready, hmore, State.headTaken, hlaunches, hplacing]
  rfl

/-- What the check of the record does. -/
theorem oneRecord_check {fuel : Nat} (hcw : wordOk (recCw w) = true) : s.headCheck q (fuel + 1) =
    if !recordOk w then ((s.finishRecord q w 64).popHead q).headCheck q fuel
    else
      let waits := (List.range (recWaits w)).map (s.waitState w)
      if waits.any Option.isNone then (((seen s q).finishRecord q w 65).popHead q).headCheck q fuel
      else if waits.all fun x => x == some true then
        if recKind w = 0 then (((seen s q).finishRecord q w 0).popHead q).headCheck q fuel else (seen s q).onQueue q fun k => { k with ready := true }
      else seen s q := by
  have hrec : s.recordAt q (s.queue q).head.toNat = w := by rw [oneRecord_queue h, h.words]
  have hclean : s.recordSpoilt q (s.queue q).head.toNat = none := by rw [oneRecord_queue h, h.clean]
  obtain ⟨-, -, -, hsince⟩ := h.on
  rw [headCheck_record (oneRecord_on h) hrec hclean hcw, oneRecord_queue h, hsince]
  rfl

/-- The heads of all queues are checked by the check of this one. -/
theorem oneRecord_checks {u : State} (hat : s.headCheck q 2 = u) (hne : ∀ n, n ≠ q → u.queue n = s.queue n) :
    (List.range 64).foldl (fun st q => st.headCheck q (((st.queue q).tail - (st.queue q).head).toNat + 1)) s = u := by
  have hlen : (k.tail - k.head).toNat + 1 = 2 := by
    rw [h.one, BitVec.add_comm, BitVec.add_sub_cancel]
    rfl
  refine foldl_acts_at List.nodup_range (List.mem_range.mpr h.queue) ?_ (fun n _ hn => ?_) fun n _ hn => ?_
  · rw [oneRecord_queue h, hlen, hat]
  · exact headCheck_off (by rw [oneRecord_queue_ne h hn]; rfl)
  · exact headCheck_off (by rw [hne n hn, oneRecord_queue_ne h hn]; rfl)

end Record

/-- What the last steps of a record do not change, whether its head has been seen or not. -/
structure SameBut (s r : State) (q : Nat) : Prop where
  mem : r.mem = s.mem
  host : r.mod.host = s.mod.host
  none : r.mod.launches = s.mod.launches ∧ r.mod.placing = s.mod.placing
  hub : r.mod.hub = s.mod.hub
  ends : (r.queue q).head = (s.queue q).head ∧ (r.queue q).tail = (s.queue q).tail
  others : ∀ n, n ≠ q → r.queue n = s.queue n

theorem SameBut.refl (s : State) (q : Nat) : SameBut s s q := ⟨rfl, rfl, ⟨rfl, rfl⟩, rfl, ⟨rfl, rfl⟩, fun _ _ => rfl⟩

theorem seen_sameBut : SameBut s (seen s q) q :=
  ⟨rfl, rfl, ⟨rfl, rfl⟩, rfl, by rw [seen, onQueue_queue]; exact ⟨rfl, rfl⟩, fun _ hn => onQueue_queue_ne hn⟩

/-- The candidate that the head of a queue is, if it is ready. -/
def headCand (s : State) (q : Nat) : Option Cand :=
  if (s.queue q).en && (s.queue q).ready && (s.queue q).head != (s.queue q).tail && !s.headTaken q then
    some ⟨levelOf (recPrio (s.recordAt q (s.queue q).head.toNat)) (s.queue q).age ((s.queue q).headSince.getD s.ts.toNat) s.ts.toNat, false,
      (s.queue q).headSince.getD s.ts.toNat, q, 0, s.recordAt q (s.queue q).head.toNat⟩
  else none

/-- Without a launch the candidates are the heads that are ready. -/
theorem candidates_heads (hl : s.mod.launches = []) : ∃ le, s.candidates = sortBy le ((List.range 64).filterMap (headCand s)) := by
  unfold State.candidates
  rw [hl]
  exact ⟨_, rfl⟩

theorem headCand_none (h : (s.queue q).ready = false) : headCand s q = none := by
  rw [headCand, h, if_neg]
  simp

theorem candidates_none (hl : s.mod.launches = []) (h : ∀ n < 64, (s.queue n).ready = false) : s.candidates = [] := by
  obtain ⟨le, hc⟩ := candidates_heads hl
  rw [hc, List.filterMap_eq_nil_iff.mpr fun n hn => headCand_none (h n (List.mem_range.mp hn))]
  rfl

/-- With one head ready it is the candidate. -/
theorem candidates_one {c : Cand} (hl : s.mod.launches = []) (hq : q < 64) (hc : headCand s q = some c)
    (h : ∀ n < 64, n ≠ q → (s.queue n).ready = false) : s.candidates = [c] := by
  obtain ⟨le, hcand⟩ := candidates_heads hl
  obtain ⟨p, r, hpr⟩ := List.append_of_mem (List.mem_range.mpr hq)
  have hn : (p ++ q :: r).Nodup := hpr ▸ List.nodup_range
  obtain ⟨-, hr, hdisj⟩ := List.nodup_append.mp hn
  have hlt (n : Nat) (hm : n ∈ p ++ q :: r) : n < 64 := List.mem_range.mp (hpr ▸ hm)
  have hbefore : p.filterMap (headCand s) = [] := List.filterMap_eq_nil_iff.mpr fun n hm =>
    headCand_none (h n (hlt n (List.mem_append_left _ hm)) (hdisj n hm q (List.mem_cons_self ..)))
  have hafter : r.filterMap (headCand s) = [] := List.filterMap_eq_nil_iff.mpr fun n hm =>
    headCand_none (h n (hlt n (List.mem_append_right _ (List.mem_cons_of_mem _ hm))) fun he => (List.nodup_cons.mp hr).1 (by rw [← he]; exact hm))
  rw [hcand, hpr, List.filterMap_append, hbefore, List.filterMap_cons, hc, hafter]
  rfl

theorem schedulerStep_quiet {u : State} (hu : (List.range 64).foldl (fun st q => st.headCheck q (((st.queue q).tail - (st.queue q).head).toNat + 1)) s = u)
    (hheld : u.mod.hub.held = false) (hc : u.candidates = []) (hp : u.mod.placing = []) : execSchedulerStep s = .next u := by
  unfold execSchedulerStep
  rw [hu]
  dsimp only
  rw [if_neg (by rw [hheld]; decide), hc, List.foldl_nil]
  exact congrArg Host.Outcome.next (if_pos (by rw [hp]; rfl))

theorem raise_pba {h : HostRegs} {v : Nat} (hv : v < 64) (hm : h.masked v = true) : (vget 0 (h.raise v).pba 0).getLsbD v = true := by
  have hword : v / 64 = 0 := Nat.div_eq_of_lt hv
  have hbit : v % 64 = v := Nat.mod_eq_of_lt hv
  rw [HostRegs.raise, if_pos hm, HostRegs.setPending]
  dsimp only
  rw [hword, hbit, vget_vset_same _ _ _ (by decide), if_pos rfl, BitVec.getLsbD_or, BitVec.getLsbD_shiftLeft]
  simp [hv]

section Ends

variable (h : OneRecord s q k w) (hfree : CwFree s w)

include h hfree

/-- A record whose check ends it completes, and the head moves on. -/
theorem schedulerStep_ends {r : State} (hr : SameBut s r q) (hat : s.headCheck q 2 = ((r.finishRecord q w code).popHead q).headCheck q 1) :
    ∃ t, execSchedulerStep s = .next t ∧ Completed s t w code ∧ (t.queue q).head = k.head + 1 ∧ t.mod.launches = [] ∧
      t.mod.host.msix = s.mod.host.msix ++ (if bits (rw w 0) 14 14 = 1 ∧ s.mod.host.masked q = false then [q] else []) ∧
      (bits (rw w 0) 14 14 = 1 → s.mod.host.masked q = true → (vget 0 t.mod.host.pba 0).getLsbD q = true) := by
  have hclean : r.poisoned (recCw w) 8 = false := by rw [State.poisoned, hr.hub]; exact hfree.clean
  have hsets := finishRecord_sets (q := q) (code := code) hclean
  generalize hv : r.finishRecord q w code = v at hat hsets
  obtain ⟨hlaunches, hplacing⟩ := h.noLaunch
  have hvlaunches : v.mod.launches = [] := by rw [hsets]; exact hr.none.1.trans hlaunches
  have hvplacing : v.mod.placing = [] := by rw [hsets]; exact hr.none.2.trans hplacing
  have hvheld : v.mod.hub.held = false := by rw [hsets]; exact (congrArg Hub.held hr.hub).trans h.free
  have hvqueue (n : Nat) : v.queue n = r.queue n := by rw [hsets]; rfl
  have hvhost : v.mod.host = if recIrq w then s.mod.host.raise q else s.mod.host := by rw [hsets, ← hr.host]
  have hvmem : v.mem = wrLE s.mem (recCw w) 8 (completeWord (rdLE s.mem (recCw w) 8) code) := by rw [hsets, ← hr.mem]
  have hhead : ((v.popHead q).queue q).head = k.head + 1 := by rw [popHead_queue, hvqueue, hr.ends.1, oneRecord_queue h]
  have htail : ((v.popHead q).queue q).tail = k.tail := by rw [popHead_queue, hvqueue, hr.ends.2, oneRecord_queue h]
  have hempty : (v.popHead q).headCheck q 1 = v.popHead q := headCheck_empty (by rw [hhead, htail, h.one])
  have hne (n : Nat) (hn : n ≠ q) : (v.popHead q).queue n = s.queue n := by rw [popHead_queue_ne hn, hvqueue, hr.others n hn]
  have hcand : (v.popHead q).candidates = [] := candidates_none hvlaunches fun n _ => by
    by_cases hn : n = q
    · rw [hn, popHead_queue]
    · rw [hne n hn, oneRecord_queue_ne h hn]
      rfl
  have hirq : recIrq w = decide (bits (rw w 0) 14 14 = 1) := bit_eq_bits _ _
  refine ⟨v.popHead q, schedulerStep_quiet (oneRecord_checks h (hat.trans hempty) hne) hvheld hcand hvplacing, ?_, hhead, hvlaunches, ?_, ?_⟩
  · show rdLE v.mem (recCw w) 8 = _
    rw [hvmem]
    exact (rdLE_wrLE _ _ _ _).trans (Nat.mod_eq_of_lt (completeWord_lt _ (rdLE_lt _ _ _) _))
  · show v.mod.host.msix = _
    rw [hvhost, hirq]
    by_cases hb : bits (rw w 0) 14 14 = 1
    · rw [decide_eq_true hb, if_pos rfl, raise_msix]
      cases s.mod.host.masked q <;> simp [hb]
    · rw [decide_eq_false hb]
      simp [hb]
  · intro hb hm
    show (vget 0 v.mod.host.pba 0).getLsbD q = true
    rw [hvhost, hirq, decide_eq_true hb, if_pos rfl]
    exact raise_pba h.queue hm

end Ends

/-! ## Wait words (R401) -/

theorem waitState_failed (hv : bits (rdLE s.mem (rw w 13) 8) 63 63 = 1) (hi : bits (rw w 0) 15 15 = 0) : s.waitState w 0 = none := by
  simp only [State.waitState, Nat.add_zero, bit_of_bits hv, recIgn, bit_of_bits_zero hi, if_true, Bool.false_eq_true, if_false]

theorem waitState_read (hv : bits (rdLE s.mem (rw w 13) 8) 63 63 = 0) :
    s.waitState w 0 = some (decide (bits (rw w 15) 31 0 ≤ bits (rdLE s.mem (rw w 13) 8) 47 0)) := by
  have hlow : bits (rdLE s.mem (rw w 13) 8) 47 0 = rdLE s.mem (rw w 13) 8 % 2 ^ 48 := by simp [bits]
  simp only [State.waitState, Nat.add_zero, bit_of_bits_zero hv, Bool.false_eq_true, if_false, hlow]
  rfl

section Checks

variable (h : OneRecord s q k w) (hcw : wordOk (recCw w) = true)

include h hcw

theorem headCheck_refused (hok : recordOk w = false) : s.headCheck q 2 = ((s.finishRecord q w 64).popHead q).headCheck q 1 := by
  rw [oneRecord_check h hcw, hok]
  rfl

section Ok

variable (hok : recordOk w = true)

include hok

theorem headCheck_noWaits (hw : recWaits w = 0) : s.headCheck q 2 =
    if recKind w = 0 then (((seen s q).finishRecord q w 0).popHead q).headCheck q 1 else (seen s q).onQueue q fun k => { k with ready := true } := by
  rw [oneRecord_check h hcw, hok, hw]
  rfl

theorem headCheck_failed (hw : recWaits w = 1) (hf : s.waitState w 0 = none) :
    s.headCheck q 2 = (((seen s q).finishRecord q w 65).popHead q).headCheck q 1 := by
  rw [oneRecord_check h hcw, hok, hw, show (List.range 1).map (s.waitState w) = [s.waitState w 0] from rfl, hf]
  rfl

theorem headCheck_blocked (hw : recWaits w = 1) (hf : s.waitState w 0 = some false) : s.headCheck q 2 = seen s q := by
  rw [oneRecord_check h hcw, hok, hw, show (List.range 1).map (s.waitState w) = [s.waitState w 0] from rfl, hf]
  rfl

theorem headCheck_waited (hw : recWaits w = 1) (hf : s.waitState w 0 = some true) (hk : recKind w = 0) :
    s.headCheck q 2 = (((seen s q).finishRecord q w 0).popHead q).headCheck q 1 := by
  rw [oneRecord_check h hcw, hok, hw, show (List.range 1).map (s.waitState w) = [s.waitState w 0] from rfl, hf]
  exact if_pos hk

end Ok

end Checks

/-- A head that waits stays, and nothing completes. -/
theorem schedulerStep_blocked (h : OneRecord s q k w) (hat : s.headCheck q 2 = seen s q) : ∃ t, execSchedulerStep s = .next t ∧ t.mem = s.mem ∧
    (t.queue q).head = k.head ∧ t.mod.launches = [] := by
  obtain ⟨hlaunches, hplacing⟩ := h.noLaunch
  obtain ⟨-, -, hready, -⟩ := h.on
  have hne (n : Nat) (hn : n ≠ q) : (seen s q).queue n = s.queue n := onQueue_queue_ne hn
  have hqueue : (seen s q).queue q = { k with headSince := some s.ts.toNat } := by rw [seen, onQueue_queue, oneRecord_queue h]
  have hcand : (seen s q).candidates = [] := candidates_none hlaunches fun n _ => by
    by_cases hn : n = q
    · rw [hn, hqueue]
      exact hready
    · rw [hne n hn, oneRecord_queue_ne h hn]
      rfl
  exact ⟨seen s q, schedulerStep_quiet (oneRecord_checks h hat hne) h.free hcand hplacing, rfl, by rw [hqueue], hlaunches⟩

/-! ## Placement (R404, R405) -/

theorem aligned_shape {r : Rect} (h : r.aligned = true) : 1 ≤ r.w ∧ r.w ≤ 32 ∧ 1 ≤ r.h ∧ r.h ≤ 24 := by
  simp only [Rect.aligned, Bool.and_eq_true, List.contains_iff_mem, List.mem_cons, List.not_mem_nil, or_false] at h
  obtain ⟨⟨⟨⟨⟨hw, hh⟩, -⟩, -⟩, -⟩, -⟩ := h
  omega

/-- A launch record that is not pinned asks for a shape (R399). -/
theorem recordOk_shape (hok : recordOk w = true) (hk : recKind w = 1) (hpin : recPin w = false) :
    1 ≤ (recRect w).w ∧ (recRect w).w ≤ 32 ∧ 1 ≤ (recRect w).h ∧ (recRect w).h ≤ 24 := by
  unfold recordOk at hok
  simp only [hk, hpin, Bool.false_eq_true, if_false, Bool.and_eq_true, and_assoc] at hok
  obtain ⟨-, -, -, -, -, hshape, -⟩ := hok
  exact aligned_shape (r := ⟨0, 0, (recRect w).w, (recRect w).h⟩) hshape

/-- The first place of a shape is the corner. -/
theorem positionsOfShape_head {a b : Nat} (ha : 1 ≤ a ∧ a ≤ 32) (hb : 1 ≤ b ∧ b ≤ 24) : ∃ ps, positionsOfShape a b = ⟨0, 0, a, b⟩ :: ps := by
  have hrange (n : Nat) (hn : 1 ≤ n) : List.range n = 0 :: (List.range (n - 1)).map Nat.succ := by
    rw [← List.range_succ_eq_map, Nat.sub_add_cancel hn]
  have hx : 1 ≤ 32 / max 1 a := by
    rw [Nat.max_eq_right ha.1]
    exact (Nat.one_le_div_iff (by omega)).mpr ha.2
  have hy : 1 ≤ 24 / max 1 b := by
    rw [Nat.max_eq_right hb.1]
    exact (Nat.one_le_div_iff (by omega)).mpr hb.2
  unfold positionsOfShape
  rw [hrange _ hy, hrange _ hx, List.flatMap_cons, List.map_cons, Nat.zero_mul, Nat.zero_mul, List.cons_append]
  exact ⟨_, rfl⟩

/-- With every core in service, on an island that is on, and nothing placed, every core is free. -/
theorem freeFor_idle (hl : s.mod.launches = []) (hp : s.mod.placing = []) {i : Nat}
    (hi : s.retired i = false ∧ (vget .reset s.mod.hub.isl (islandOf i)).state = 0) : s.freeFor none i = true := by
  rw [State.freeFor, State.unavailable, hl, hp, hi.1, hi.2]
  rfl

theorem freeSlot_idle (hl : s.mod.launches = []) : s.freeSlot = some 0 := by
  rw [State.freeSlot, show (1024 : Nat) = 1023 + 1 from rfl, List.range_succ_eq_map, List.find?_cons_of_pos (by rw [State.launchAt, hl]; rfl)]

theorem freeFrames_idle (hl : s.mod.launches = []) {r : Rect} (hr : r.w * r.h ≤ s.mod.frames) :
    s.freeFrames r = some (r.cores.zip ((List.range s.mod.frames).filter fun f => !([] : List Nat).contains f)) := by
  have hall : ((List.range s.mod.frames).filter fun f => !([] : List Nat).contains f) = List.range s.mod.frames :=
    List.filter_eq_self.mpr fun _ _ => rfl
  rw [State.freeFrames, hl, List.flatMap_nil]
  refine if_neg ?_
  rw [hall, List.length_range]
  omega

/-- The launch that a head becomes in a slot. -/
def placedLaunch (s : State) (q : Nat) (words : List Nat) (r : Rect) (slot : Nat) (frames : List (Nat × Nat)) : Launch :=
  { slot := slot, id := 0, queue := q, words := words, rect := r, asid := recAsid words, tile := recKind words == 2,
    state := .placed, frames := frames, barriers := [], since := s.ts.toNat, result := 0 }

/-- A head that finds a slot and frames is placed, and its dispatch is due. -/
theorem takeSlot_places {words : List Nat} {r : Rect} {slot : Nat} {frames : List (Nat × Nat)} (hslot : s.freeSlot = some slot)
    (hframes : s.freeFrames r = some frames) : s.takeSlot q words r = some ((s.onMod fun m => { m with launches := m.launches ++
      [placedLaunch s q words r slot frames] }).later [.launchDispatch (BitVec.ofNat 10 slot)]) := by
  unfold State.takeSlot
  split
  next a b ha hb =>
    cases hslot.symm.trans ha
    cases hframes.symm.trans hb
    rfl
  next h => exact absurd hframes (h _ _ hslot)

/-- A candidate that is no suspended launch, asks for a shape, and finds every core free takes the corner. -/
theorem tryPlace_corner {c : Cand} (hl : s.mod.launches = []) (hp : s.mod.placing = []) (hs : c.susp = false) (hpin : recPin c.words = false)
    (hshape : 1 ≤ (recRect c.words).w ∧ (recRect c.words).w ≤ 32 ∧ 1 ≤ (recRect c.words).h ∧ (recRect c.words).h ≤ 24)
    (hcores : ∀ i < 768, s.retired i = false ∧ (vget .reset s.mod.hub.isl (islandOf i)).state = 0)
    (hframes : (recRect c.words).w * (recRect c.words).h ≤ s.mod.frames) :
    ∃ t l, s.tryPlace c = (t, false) ∧ t.mod.launches = [l] ∧ l.slot = 0 ∧ l.state = .placed ∧ l.queue = c.queue ∧ l.words = c.words ∧
      l.rect = ⟨0, 0, (recRect c.words).w, (recRect c.words).h⟩ ∧ Instr.launchDispatch 0 ∈ t.due ∧ t.mod.placing = [] ∧
      ∀ n, t.queue n = s.queue n := by
  obtain ⟨hw, hw', hh, hh'⟩ := hshape
  obtain ⟨ps, hps⟩ := positionsOfShape_head ⟨hw, hw'⟩ ⟨hh, hh'⟩
  have hpos : s.candPositions c = ⟨0, 0, (recRect c.words).w, (recRect c.words).h⟩ :: ps := by
    rw [State.candPositions, hs, hpin, ← hps]
    rfl
  have hcore (r : Rect) : ∀ i ∈ r.cores, i < 768 := fun i hi => List.mem_range.mp (List.mem_filter.mp hi).1
  have hplace : s.noPlace c = false := by
    have hany : ((⟨0, 0, (recRect c.words).w, (recRect c.words).h⟩ : Rect).cores.any s.retired) = false :=
      List.any_eq_false.mpr fun i hi => by rw [(hcores i (hcore _ i hi)).1]; decide
    rw [State.noPlace, hpos, List.all_cons, hany, Bool.false_and, Bool.and_false]
  have hfree : ((⟨0, 0, (recRect c.words).w, (recRect c.words).h⟩ : Rect).cores.all (s.freeFor c.own)) = true :=
    List.all_eq_true.mpr fun i hi => by
      rw [Cand.own, hs, if_neg (by decide)]
      exact freeFor_idle hl hp (hcores i (hcore _ i hi))
  have hfind : List.find? (fun r : Rect => r.cores.all (s.freeFor c.own)) (⟨0, 0, (recRect c.words).w, (recRect c.words).h⟩ :: ps) =
      some ⟨0, 0, (recRect c.words).w, (recRect c.words).h⟩ := List.find?_cons_of_pos hfree
  have hslot := freeSlot_idle hl
  have hframe := freeFrames_idle (r := ⟨0, 0, (recRect c.words).w, (recRect c.words).h⟩) hl hframes
  have htry : s.tryPlace c = ((s.takeSlot c.queue c.words ⟨0, 0, (recRect c.words).w, (recRect c.words).h⟩).getD s, false) := by
    rw [State.tryPlace]
    dsimp only
    rw [hplace, hpos, hfind]
    simp only [hs, Bool.false_eq_true, if_false, hslot, hframe, Option.isNone_some, Bool.or_self, State.placeHead, List.isEmpty_nil, if_true]
  generalize (⟨0, 0, (recRect c.words).w, (recRect c.words).h⟩ : Rect) = r at htry hframe ⊢
  generalize (r.cores.zip _ : List (Nat × Nat)) = frames at hframe
  rw [htry, takeSlot_places hslot hframe]
  refine ⟨_, placedLaunch s c.queue c.words r 0 frames, rfl, ?_, rfl, rfl, rfl, rfl, rfl, List.mem_append_right _ (List.mem_singleton_self _), hp,
    fun _ => rfl⟩
  show s.mod.launches ++ _ = _
  rw [hl, List.nil_append]

/-- An unpinned launch record without waits is placed at the corner of a free module. -/
theorem schedulerStep_places (h : OneRecord s q k w) (hcw : wordOk (recCw w) = true) (hok : recordOk w = true) (hk : recKind w = 1)
    (hw : recWaits w = 0) (hpin : recPin w = false)
    (hcores : ∀ i < 768, s.retired i = false ∧ (vget .reset s.mod.hub.isl (islandOf i)).state = 0)
    (hframes : (recRect w).w * (recRect w).h ≤ s.mod.frames) : ∃ t l, execSchedulerStep s = .next t ∧ t.mod.launches = [l] ∧ l.slot = 0 ∧
      l.state = .placed ∧ l.queue = q ∧ l.words = w ∧ l.rect = ⟨0, 0, (recRect w).w, (recRect w).h⟩ ∧ Instr.launchDispatch 0 ∈ t.due ∧
      (t.queue q).head = k.head := by
  obtain ⟨hlaunches, hplacing⟩ := h.noLaunch
  obtain ⟨hen, -, -, -⟩ := h.on
  have hready : s.headCheck q 2 = (seen s q).onQueue q fun k => { k with ready := true } := by
    rw [headCheck_noWaits h hcw hok hw, hk]
    rfl
  generalize hu : ((seen s q).onQueue q fun k => { k with ready := true }) = u at hready
  have hqueue : u.queue q = { k with headSince := some s.ts.toNat, ready := true } := by
    rw [← hu, onQueue_queue, seen, onQueue_queue, oneRecord_queue h]
  have hne (n : Nat) (hn : n ≠ q) : u.queue n = s.queue n := by rw [← hu, onQueue_queue_ne hn, seen, onQueue_queue_ne hn]
  have hmod : u.mod.launches = [] ∧ u.mod.placing = [] ∧ u.mod.hub = s.mod.hub ∧ u.mod.frames = s.mod.frames ∧ u.mem = s.mem := by
    rw [← hu]
    exact ⟨hlaunches, hplacing, rfl, rfl, rfl⟩
  obtain ⟨hul, hup, huhub, huframes, humem⟩ := hmod
  have hmore : (k.head != k.tail) = true := by
    have hon := oneRecord_on h
    simp only [Bool.or_eq_false_iff, oneRecord_queue h] at hon
    rw [bne, hon.1.1.2]
    rfl
  have hrec : u.recordAt q k.head.toNat = w := by
    rw [h.words, State.recordAt, hqueue, humem, State.recordAt, oneRecord_queue h]
  have htaken : u.headTaken q = false := by rw [State.headTaken, hul, hup]; rfl
  obtain ⟨c, hc, hcs, hcq, hcw'⟩ : ∃ c, headCand u q = some c ∧ c.susp = false ∧ c.queue = q ∧ c.words = w := by
    rw [headCand, hqueue]
    dsimp only
    rw [hen, hmore, htaken, if_pos (by decide), hrec]
    exact ⟨_, rfl, rfl, rfl, rfl⟩
  have hcand : u.candidates = [c] := candidates_one hul h.queue hc fun n _ hn => by rw [hne n hn, oneRecord_queue_ne h hn]; rfl
  obtain ⟨t, l, htry, htl, hslot, hst, hlq, hlw, hrect, hdue, htp, htq⟩ := tryPlace_corner (c := c) hul hup hcs (by rw [hcw', hpin])
    (by rw [hcw']; exact recordOk_shape hok hk hpin) (fun i hi => by rw [State.retired, huhub]; exact hcores i hi) (by rw [hcw', huframes]; exact hframes)
  have hstep : execSchedulerStep s = .next t := by
    unfold execSchedulerStep
    rw [oneRecord_checks h hready hne]
    dsimp only
    rw [if_neg (by rw [huhub, h.free]; decide), hcand, List.foldl_cons, List.foldl_nil]
    simp only [htry, Bool.false_and, Bool.false_eq_true, if_false]
    exact congrArg Host.Outcome.next (if_pos (by rw [htp]; rfl))
  exact ⟨t, l, hstep, htl, hslot, hst, hlq.trans hcq, hlw.trans hcw', by rw [hrect, hcw'], hdue, by rw [htq, hqueue]⟩

end One

theorem scheduler_clause (s : State) (q : Nat) (k : Queue) (w : List Nat) (h : OneRecord s q k w) (hfree : CwFree s w) :
    let ends := fun (code : Nat) => ∃ t, exec .schedulerStep s = .next t ∧ Completed s t w code ∧ (t.queue q).head = k.head + 1 ∧ t.mod.launches = [] ∧
      t.mod.host.msix = s.mod.host.msix ++ (if bits (rw w 0) 14 14 = 1 ∧ s.mod.host.masked q = false then [q] else []) ∧
      (bits (rw w 0) 14 14 = 1 → s.mod.host.masked q = true → (vget 0 t.mod.host.pba 0).getLsbD q = true)
    (recordOk w = false → ends 64) ∧
    (recordOk w = true → recKind w = 0 → recWaits w = 0 → ends 0) ∧
    (recordOk w = true → recWaits w = 1 →
      let v := rdLE s.mem (rw w 13) 8
      (bits v 63 63 = 1 → bits (rw w 0) 15 15 = 0 → ends 65) ∧
      (bits v 63 63 = 0 → bits v 47 0 < bits (rw w 15) 31 0 → ∃ t, exec .schedulerStep s = .next t ∧ t.mem = s.mem ∧ (t.queue q).head = k.head ∧
        t.mod.launches = []) ∧
      (bits v 63 63 = 0 → bits (rw w 15) 31 0 ≤ bits v 47 0 → recKind w = 0 → ends 0)) ∧
    (recordOk w = true → recKind w = 1 → recWaits w = 0 → bits (rw w 0) 4 4 = 0 →
      (∀ i < 768, s.retired i = false ∧ (vget .reset s.mod.hub.isl (islandOf i)).state = 0) → (recRect w).w * (recRect w).h ≤ s.mod.frames →
      ∃ t l, exec .schedulerStep s = .next t ∧ t.mod.launches = [l] ∧ l.slot = 0 ∧ l.state = .placed ∧ l.queue = q ∧ l.words = w ∧
        l.rect = ⟨0, 0, (recRect w).w, (recRect w).h⟩ ∧ Instr.launchDispatch 0 ∈ t.due ∧ (t.queue q).head = k.head) := by
  refine ⟨fun hok => ?refused, fun hok hk hw => ?barrier, fun hok hw => ⟨fun hv hi => ?failed, fun hv hlt => ?blocked, fun hv hle hk => ?waited⟩,
    fun hok hk hw hpin => schedulerStep_places (s := s) (q := q) (k := k) (w := w) h hfree.word hok hk hw (bit_of_bits_zero hpin)⟩
  case refused => exact schedulerStep_ends (s := s) (q := q) (k := k) (w := w) h hfree (.refl s q) (headCheck_refused h hfree.word hok)
  case barrier => exact schedulerStep_ends (s := s) (q := q) (k := k) (w := w) h hfree seen_sameBut ((headCheck_noWaits h hfree.word hok hw).trans (if_pos hk))
  case failed => exact schedulerStep_ends (s := s) (q := q) (k := k) (w := w) h hfree seen_sameBut (headCheck_failed h hfree.word hok hw (waitState_failed hv hi))
  case blocked =>
    have hread := (waitState_read hv).trans (congrArg some (decide_eq_false (Nat.not_le.mpr hlt)))
    exact schedulerStep_blocked (s := s) (q := q) (k := k) (w := w) h (headCheck_blocked h hfree.word hok hw hread)
  case waited =>
    have hread := (waitState_read hv).trans (congrArg some (decide_eq_true hle))
    exact schedulerStep_ends (s := s) (q := q) (k := k) (w := w) h hfree seen_sameBut (headCheck_waited h hfree.word hok hw hread hk)

end Sys2Proof.Machine

/-! PROOF. A launch is dispatched, retires or is aborted (R26 to R29, R40, R405, R407). -/

namespace Sys2Proof.Machine
open Sys2Proof.Manual

/-! ## Slots -/

section Slots

variable {s : State} {l x : Launch} {n : Nat}

theorem launchAt_slot (h : s.launchAt n = some l) : l.slot = n := beq_iff_eq.mp (List.find?_some (p := fun l : Launch => l.slot == n) h)

/-- A slot that is given up holds no launch. -/
theorem launchAt_of_filtered {t : State} (h : t.mod.launches = s.mod.launches.filter fun x => x.slot != n) : t.launchAt n = none := by
  rw [State.launchAt, h, List.find?_eq_none]
  intro y hy hn
  exact bne_iff_ne.mp (List.mem_filter.mp hy).2 (beq_iff_eq.mp hn)

/-- A launch that takes another's place in its slot is found there. -/
theorem launchAt_onLaunch (h : s.launchAt n = some l) (hx : x.slot = n) : (s.onLaunch n fun _ => x).launchAt n = some x := by
  rw [State.launchAt] at h
  show (s.mod.launches.map fun l => if l.slot = n then x else l).find? (fun l => l.slot == n) = some x
  generalize s.mod.launches = ls at h
  induction ls with
  | nil => cases h
  | cons y ys ih =>
    by_cases hy : y.slot = n
    · rw [List.map_cons, if_pos hy]
      exact List.find?_cons_of_pos (beq_iff_eq.mpr hx)
    · have hyb : ¬ (y.slot == n) = true := fun hb => hy (beq_iff_eq.mp hb)
      rw [List.map_cons, if_neg hy]
      exact (List.find?_cons_of_neg (p := fun l : Launch => l.slot == n) hyb).trans (ih ((List.find?_cons_of_neg (p := fun l : Launch => l.slot == n) hyb).symm.trans h))

/-- Holding the translation of an address space adds to the held ones alone. -/
theorem holdAsid_sets (s : State) (asid : Nat) : ∃ a, s.holdAsid asid = { s with mod := { s.mod with asids := a } } := by
  unfold State.holdAsid
  split
  · exact ⟨s.mod.asids, rfl⟩
  · exact ⟨_, rfl⟩

theorem holdAsid_coreAt (s : State) (asid i : Nat) : (s.holdAsid asid).coreAt i = s.coreAt i := by
  unfold State.holdAsid
  split <;> rfl

end Slots

/-! ## The start of the cores (R26 to R29) -/

section Starts

variable {s : State} {l : Launch} {ls : List Leaf} {i : Nat}

/-- One core of a launch receives its task; a trace session that is set up for it is to open. -/
def startOne (s : State) (l : Launch) (ls : List Leaf) (st : State) (i : Nat) : State :=
  let image := if l.tile then [] else s.imageBytes ls (rw l.words 3) (16 * fld (rw l.words 2) 46 32) (coreDie i)
  let st1 := st.setCore i (l.startCore i image (BitVec.ofNat 64 (s.asidWord l.asid 1)) s.ts.toNat (st.coreAt i).trace)
  if bit (rdLE st.mem (traceBlock i) 8) 63 then st1.later [.traceOpen (BitVec.ofNat 10 i)] else st1

theorem startCores_eq : s.startCores l ls = l.rect.cores.foldl (startOne s l ls) s := rfl

theorem startOne_mod (st : State) : (startOne s l ls st i).mod = st.mod := by
  unfold startOne
  dsimp only
  split <;> exact setCore_mod ..

theorem startOne_coreAt_same (st : State) : ∃ image th ts trace, (startOne s l ls st i).coreAt i = l.startCore i image th ts trace := by
  unfold startOne
  dsimp only
  split <;> exact ⟨_, _, _, _, coreAt_setCore_same ..⟩

theorem startOne_coreAt_ne {j : Nat} (h : j ≠ i) (st : State) : (startOne s l ls st i).coreAt j = st.coreAt j := by
  unfold startOne
  dsimp only
  split <;> exact coreAt_setCore_ne _ _ h

/-- What one core keeps through the starts of all of them. -/
theorem startAll_keeps {γ : Type} {g : State → γ} {is : List Nat} (h : ∀ y ∈ is, ∀ st, g (startOne s l ls st y) = g st) : g (is.foldl (startOne s l ls) s) = g s :=
  foldl_keeps h s

theorem startAll_coreAt {is : List Nat} (hi : i ∈ is) :
    ∃ image th ts trace, (is.foldl (startOne s l ls) s).coreAt i = l.startCore i image th ts trace := by
  have h : (∃ image th ts trace, (is.foldl (startOne s l ls) s).coreAt i = l.startCore i image th ts trace) = True :=
    foldl_sets (g := fun st : State => ∃ image th ts trace, st.coreAt i = l.startCore i image th ts trace) hi
      (fun st => eq_true (startOne_coreAt_same st)) (fun y _ hy st => by rw [startOne_coreAt_ne (Ne.symm hy)]) s
  exact of_eq_true h

theorem startCores_mod : (s.startCores l ls).mod = s.mod := by
  rw [startCores_eq]
  exact startAll_keeps (g := fun st : State => st.mod) fun _ _ st => startOne_mod st

theorem startCores_coreAt (hi : i ∈ l.rect.cores) :
    ∃ image th ts trace, (s.startCores l ls).coreAt i = l.startCore i image th ts trace := by
  rw [startCores_eq]
  exact startAll_coreAt hi

theorem startCores_coreAt_out (hi : i ∉ l.rect.cores) : (s.startCores l ls).coreAt i = s.coreAt i := by
  rw [startCores_eq]
  exact startAll_keeps (g := fun st : State => st.coreAt i) fun y hy st => startOne_coreAt_ne (fun he => hi (by rw [he]; exact hy)) st

theorem vget_ofFn {α : Type} {m k : Nat} (d : α) (f : Nat → α) (h : k < m) : vget d (Vector.ofFn fun j : Fin m => f j.val) k = f k := by
  simp [vget, h]

/-- What a core of a launch of a kernel finds at its start: its place, its rectangle, its argument words, its task block. -/
structure Started (l : Launch) (i : Nat) (c : Core) : Prop where
  mode : c.mode = .run
  walk : c.walk = some ⟨0, 0⟩
  launch : c.task.launchId = l.id
  rect : c.task.rect = l.rect
  asid : c.task.asid = l.asid
  x : c.readN 1 = BitVec.ofNat 64 (coreX i - l.rect.x0)
  y : c.readN 2 = BitVec.ofNat 64 (coreY i - l.rect.y0)
  width : c.readN 3 = BitVec.ofNat 64 l.rect.w
  height : c.readN 4 = BitVec.ofNat 64 l.rect.h
  block : c.readN 5 = BitVec.ofNat 64 (spBase + taskBlock)
  args : ∀ k < 8, c.readN (6 + k) = BitVec.ofNat 64 (rw l.words (4 + k))
  named : rdLE c.sp (taskBlock + 64) 8 = l.id.toNat

/-- The named registers of a core at its start, n0 aside. -/
theorem startCore_readN (image : List Byte) (th : W64) (ts : Nat) (trace : Trace) {k : Nat} (hk0 : k ≠ 0) (hk : k < 32) :
    (l.startCore i image th ts trace).readN k = BitVec.ofNat 64
      (([0, coreX i - l.rect.x0, coreY i - l.rect.y0, l.rect.w, l.rect.h, spBase + taskBlock] ++ l.args).getD k 0) := by
  rw [Core.readN, if_neg hk0]
  exact vget_ofFn 0 (fun k => BitVec.ofNat 64
    (([0, coreX i - l.rect.x0, coreY i - l.rect.y0, l.rect.w, l.rect.h, spBase + taskBlock] ++ l.args).getD k 0)) hk

theorem args_eq (ht : l.tile = false) : l.args = (l.words.drop 4).take 8 := if_neg (by rw [ht]; decide)

theorem args_length (ht : l.tile = false) (hw : l.words.length = 16) : l.args.length = 8 := by
  rw [args_eq ht, List.length_take, List.length_drop, hw]
  rfl

theorem startCore_args (ht : l.tile = false) (image : List Byte) (th : W64) (ts : Nat) (trace : Trace) {k : Nat} (hk : k < 8) :
    (l.startCore i image th ts trace).readN (6 + k) = BitVec.ofNat 64 (rw l.words (4 + k)) := by
  rw [startCore_readN image th ts trace (by omega) (by omega), List.getD_append_right _ _ _ _ (Nat.le_add_right 6 k), args_eq ht]
  congr 1
  show ((l.words.drop 4).take 8).getD (6 + k - 6) 0 = l.words.getD (4 + k) 0
  rw [Nat.add_sub_cancel_left, List.getD_eq_getElem?_getD, List.getElem?_take, if_pos hk, List.getElem?_drop, List.getD_eq_getElem?_getD]

theorem startCore_named (ht : l.tile = false) (hw : l.words.length = 16) (image : List Byte) (th : W64) (ts : Nat) (trace : Trace) :
    rdLE (l.startCore i image th ts trace).sp (taskBlock + 64) 8 = l.id.toNat := by
  have hlen := args_length ht hw
  have hword : (l.blockWords ts)[8]? = some l.id.toNat := by
    rw [Launch.blockWords, List.getElem?_append_right (Nat.le_of_eq hlen), hlen]
    rfl
  have hsp : (l.startCore i image th ts trace).sp = wrBytes [] taskBlock ((l.blockWords ts).flatMap fun v => leBytes v 8) := rfl
  rw [hsp]
  generalize taskBlock = b
  exact (rdLE_wrBytes_words [] b _ hword).trans (Nat.mod_eq_of_lt l.id.isLt)

theorem getD_append_five (a b c d e f : Nat) (l : List Nat) : ([a, b, c, d, e, f] ++ l).getD 5 0 = f := rfl

theorem startCore_started (ht : l.tile = false) (hw : l.words.length = 16) (image : List Byte) (th : W64) (ts : Nat) (trace : Trace) :
    Started l i (l.startCore i image th ts trace) where
  mode := if_neg (by rw [ht]; decide)
  walk := if_neg (by rw [ht]; decide)
  launch := rfl
  rect := rfl
  asid := rfl
  x := startCore_readN image th ts trace (by decide) (by decide)
  y := startCore_readN image th ts trace (by decide) (by decide)
  width := startCore_readN image th ts trace (by decide) (by decide)
  height := startCore_readN image th ts trace (by decide) (by decide)
  block := (startCore_readN image th ts trace (k := 5) (by decide) (by decide)).trans (congrArg (BitVec.ofNat 64) (getD_append_five ..))
  args _ hk := startCore_args ht image th ts trace hk
  named := startCore_named ht hw image th ts trace

end Starts

/-! ## Dispatch (R405) -/

section Dispatch

variable {s : State} {n : BitVec 10} {l : Launch}

/-- Where the pages of the image do not all translate, the record completes and the launch is gone. -/
theorem launchDispatch_fails (hat : s.launchAt n.toNat = some l) (hst : l.state = .placed) (ht : l.tile = false) (hfree : CwFree s l.words)
    (hnone : s.imageLeaves l.asid (rw l.words 3) (16 * bits (rw l.words 2) 46 32) = none) :
    ∃ t, execLaunchDispatch n s = .next t ∧ Completed s t l.words 66 ∧ t.launchAt n.toNat = none ∧ t.core = s.core ∧ t.others = s.others := by
  have hslot := launchAt_slot hat
  have hleaves : s.dispatchLeaves l = none := by
    rw [State.dispatchLeaves, if_neg (by rw [ht]; decide)]
    exact hnone
  have hrun : execLaunchDispatch n s = .next (((s.popHead l.queue).finishRecord l.queue l.words 66).dropLaunch l.slot) := by
    simp only [execLaunchDispatch, hat, hst, hleaves, ne_eq, not_true_eq_false, if_false]
  have hfree' : CwFree (s.popHead l.queue) l.words := ⟨hfree.word, hfree.clean, hfree.low⟩
  refine ⟨_, hrun, finishRecord_completes (q := l.queue) (code := 66) hfree', ?_, ?_, ?_⟩
  · refine launchAt_of_filtered (s := s) ?_
    rw [← hslot, State.dropLaunch, State.onMod]
    exact congrArg (List.filter fun x : Launch => x.slot != l.slot) finishRecord_launches
  · rw [finishRecord_sets hfree'.clean]
    rfl
  · rw [finishRecord_sets hfree'.clean]
    rfl

/-- The launch as it runs, under the next number. -/
def runningLaunch (s : State) (l : Launch) : Launch := { l with id := s.mod.lastId + 1, state := .running, since := s.ts.toNat }

/-- The module once the launch has its slot's generation and number, before its cores start. -/
def numbered (s : State) (l : Launch) : State :=
  (((s.popHead l.queue).holdAsid l.asid).onLaunch l.slot fun _ => runningLaunch s l).onMod fun m => { m with
    lastId := m.lastId + 1
    lastGen := m.lastGen + 1
    gens := (l.slot, m.lastGen + 1) :: m.gens.filter fun g => g.1 != l.slot }

theorem sameHub (s : State) : ∃ hub, s = { s with mod := { s.mod with hub := hub } } := ⟨s.mod.hub, rfl⟩

/-- What numbering a launch leaves. -/
structure Numbered (s t : State) (l : Launch) : Prop where
  launch : t.launchAt l.slot = some (runningLaunch s l)
  lastId : t.mod.lastId = s.mod.lastId + 1
  gens : t.mod.gens.lookup l.slot = some (s.mod.lastGen + 1)
  mem : t.mem = s.mem
  cores : ∀ i, t.coreAt i = s.coreAt i

theorem onMod_coreAt (f : Module → Module) (i : Nat) : (s.onMod f).coreAt i = s.coreAt i := rfl

theorem numbered_coreAt (i : Nat) : (numbered s l).coreAt i = s.coreAt i := by
  rw [numbered, onMod_coreAt, State.onLaunch, onMod_coreAt]
  exact (holdAsid_coreAt ..).trans rfl

theorem numbered_mem : (numbered s l).mem = s.mem := by
  rw [numbered, State.onMod, State.onLaunch, State.onMod]
  exact (holdAsid_mem _).trans (popHead_mem _)

theorem numbered_numbers (hat : s.launchAt l.slot = some l) : Numbered s (numbered s l) l := by
  refine ⟨?_, ?_, ?_, numbered_mem, numbered_coreAt⟩ <;> (
    rw [numbered]
    obtain ⟨a, ha⟩ := holdAsid_sets (s.popHead l.queue) l.asid
    rw [ha])
  · exact launchAt_onLaunch (s := { s.popHead l.queue with mod := { (s.popHead l.queue).mod with asids := a } }) hat rfl
  · rfl
  · exact List.lookup_cons_self

/-- The rest of a dispatch changes the cores of the launch alone. -/
theorem Numbered.started {t u : State} (h : Numbered s t l) {ls : List Leaf} (hu : ∃ hub, u = { t.startCores (runningLaunch s l) ls with
    mod := { (t.startCores (runningLaunch s l) ls).mod with hub := hub } }) :
    u.launchAt l.slot = some (runningLaunch s l) ∧ u.mod.lastId = s.mod.lastId + 1 ∧ u.mod.gens.lookup l.slot = some (s.mod.lastGen + 1) ∧
      u.mem = s.mem ∧ (∀ i ∈ l.rect.cores, ∃ image th ts trace, u.coreAt i = (runningLaunch s l).startCore i image th ts trace) ∧
      ∀ i, i ∉ l.rect.cores → u.coreAt i = s.coreAt i := by
  obtain ⟨hub, rfl⟩ := hu
  have hmod : (t.startCores (runningLaunch s l) ls).mod = t.mod := startCores_mod
  have hmem : (t.startCores (runningLaunch s l) ls).mem = t.mem := startCores_mem ..
  have hin (i : Nat) (hi : i ∈ l.rect.cores) := startCores_coreAt (s := t) (l := runningLaunch s l) (ls := ls) hi
  have hout (i : Nat) (hi : i ∉ l.rect.cores) := (startCores_coreAt_out (s := t) (l := runningLaunch s l) (ls := ls) hi).trans (h.cores i)
  generalize t.startCores (runningLaunch s l) ls = v at hmod hmem hin hout
  refine ⟨?_, ?_, ?_, hmem.trans h.mem, hin, hout⟩
  · rw [State.launchAt, hmod]
    exact h.launch
  · rw [hmod]
    exact h.lastId
  · rw [hmod]
    exact h.gens

/-- Where they do, the launch runs and its cores have started. -/
theorem launchDispatch_starts (hat : s.launchAt n.toNat = some l) (hst : l.state = .placed) (ht : l.tile = false) (hw : l.words.length = 16)
    {ls : List Leaf} (hsome : s.imageLeaves l.asid (rw l.words 3) (16 * bits (rw l.words 2) 46 32) = some ls) :
    ∃ t, execLaunchDispatch n s = .next t ∧ t.launchAt n.toNat = some (runningLaunch s l) ∧ t.mod.lastId = s.mod.lastId + 1 ∧
      t.mod.gens.lookup l.slot = some (s.mod.lastGen + 1) ∧ t.mem = s.mem ∧ (∀ i ∈ l.rect.cores, Started (runningLaunch s l) i (t.coreAt i)) ∧
      ∀ i, i ∉ l.rect.cores → t.coreAt i = s.coreAt i := by
  have hslot := launchAt_slot hat
  have hleaves : s.dispatchLeaves l = some ls := by
    rw [State.dispatchLeaves, if_neg (by rw [ht]; decide)]
    exact hsome
  have hrun : execLaunchDispatch n s = .next (if 5000 < s.ts.toNat - l.since then
      ((numbered s l).startCores (runningLaunch s l) ls).promiseBreak 0 (runningLaunch s l).id.toNat (s.ts.toNat - l.since)
      else (numbered s l).startCores (runningLaunch s l) ls) := by
    simp only [execLaunchDispatch, hat, hst, hleaves, ht, ne_eq, not_true_eq_false, if_false, Bool.false_eq_true, numbered, runningLaunch]
  have hnum := numbered_numbers (s := s) (l := l) (by rw [hslot]; exact hat)
  generalize numbered s l = t at hrun hnum
  obtain ⟨hlaunch, hid, hgens, hmem, hin, hout⟩ := hnum.started (ls := ls) (u := if 5000 < s.ts.toNat - l.since then
      (t.startCores (runningLaunch s l) ls).promiseBreak 0 (runningLaunch s l).id.toNat (s.ts.toNat - l.since)
      else t.startCores (runningLaunch s l) ls) (by
    split
    · exact promiseBreak_sets ..
    · exact sameHub _)
  refine ⟨_, hrun, by rw [← hslot]; exact hlaunch, hid, hgens, hmem, fun i hi => ?_, hout⟩
  obtain ⟨image, th, ts, trace, hc⟩ := hin i hi
  rw [hc]
  exact startCore_started (l := runningLaunch s l) ht hw image th ts trace

end Dispatch

/-! ## Retirement and aborts (R40, R407) -/

section Leaves

variable {s : State} {n : BitVec 10} {l : Launch}

theorem launchRetire_ends (hat : s.launchAt n.toNat = some l) (hmay : s.mayRetire l = true) (hfree : CwFree s l.words) :
    ∃ t, execLaunchRetire n s = .next t ∧ EndsWith s t l (if l.result = 0 then 0 else 70) := by
  refine ⟨_, ?_, finishClear_ends (reason := 0) hfree⟩
  simp only [execLaunchRetire, hat, hmay, Bool.not_true, Bool.false_eq_true, if_false]

theorem abort_ends {v : W64} (hat : s.launchAt n.toNat = some l) (hv : v.getLsbD 63 = true) (hn : v.toNat % 1024 = n.toNat)
    (hstat : s.mod.host.abortStat ≠ 1) (hid : l.id = s.mod.host.abortId) (hst : l.state = .running) (htiles : s.mod.tiles = [])
    (hfree : CwFree s l.words) : ∃ t u, execAbort v s = .next t ∧ t = { u with mod := { u.mod with host := { u.mod.host with abortStat := 2 } } } ∧
      EndsWith s u l 67 := by
  refine ⟨_, _, ?_, rfl, endLaunch_ends (reason := 2) hst htiles hfree⟩
  rw [execAbort, if_neg (by simp [hv, hstat]), hn, hat]
  exact if_pos ⟨hid, by rw [hst]; nofun⟩

theorem abort_refused {v : W64} (hat : s.launchAt n.toNat = some l) (hv : v.getLsbD 63 = true) (hn : v.toNat % 1024 = n.toNat)
    (hstat : s.mod.host.abortStat ≠ 1) (hid : l.id ≠ s.mod.host.abortId) :
    execAbort v s = .next { s with mod := { s.mod with host := { s.mod.host with abortStat := 3 } } } := by
  rw [execAbort, if_neg (by simp [hv, hstat]), hn, hat]
  exact if_neg fun h => hid h.1

/-- Dispatch, retirement and abort of the launch in a slot. -/
theorem launch_clause (s : State) (n : BitVec 10) (l : Launch) (hat : s.launchAt n.toNat = some l) :
    (l.state = .placed → l.tile = false → l.words.length = 16 → CwFree s l.words →
      let va := rw l.words 3
      let len := 16 * bits (rw l.words 2) 46 32
      (s.imageLeaves l.asid va len = none → ∃ t, exec (.launchDispatch n) s = .next t ∧ Completed s t l.words 66 ∧ t.launchAt n.toNat = none ∧
        t.core = s.core ∧ t.others = s.others) ∧
      (∀ ls, s.imageLeaves l.asid va len = some ls → ∃ t l', exec (.launchDispatch n) s = .next t ∧ t.launchAt n.toNat = some l' ∧ l'.state = .running ∧
        l'.id = s.mod.lastId + 1 ∧ t.mod.lastId = s.mod.lastId + 1 ∧ t.mod.gens.lookup l.slot = some (s.mod.lastGen + 1) ∧ t.mem = s.mem ∧
        (∀ i ∈ l.rect.cores, let c := t.coreAt i
          c.mode = .run ∧ c.walk = some ⟨0, 0⟩ ∧ c.task.launchId = l'.id ∧ c.task.rect = l.rect ∧ c.task.asid = l.asid ∧
          c.readN 1 = BitVec.ofNat 64 (coreX i - l.rect.x0) ∧ c.readN 2 = BitVec.ofNat 64 (coreY i - l.rect.y0) ∧
          c.readN 3 = BitVec.ofNat 64 l.rect.w ∧ c.readN 4 = BitVec.ofNat 64 l.rect.h ∧ c.readN 5 = BitVec.ofNat 64 (spBase + taskBlock) ∧
          (∀ k < 8, c.readN (6 + k) = BitVec.ofNat 64 (rw l.words (4 + k))) ∧ rdLE c.sp (taskBlock + 64) 8 = l'.id.toNat) ∧
        (∀ i, i ∉ l.rect.cores → t.coreAt i = s.coreAt i))) ∧
    (s.mayRetire l = true → CwFree s l.words → (∀ i ∈ l.rect.cores, (s.coreAt i).task.launchId = l.id) → l.slot = n.toNat →
      ∃ t, exec (.launchRetire n) s = .next t ∧ Completed s t l.words (if l.result = 0 then 0 else 70) ∧ t.launchAt n.toNat = none ∧
        (∀ i ∈ l.rect.cores, (t.coreAt i).mode = .off) ∧ ∀ i, i ∉ l.rect.cores → t.coreAt i = s.coreAt i) ∧
    (∀ v : W64, v.getLsbD 63 = true → v.toNat % 1024 = n.toNat → s.mod.host.abortStat ≠ 1 →
      (l.id = s.mod.host.abortId → l.state = .running → s.mod.tiles = [] → CwFree s l.words → ∃ t, exec (.abort v) s = .next t ∧
        t.mod.host.abortStat = 2 ∧ Completed s t l.words 67 ∧ t.launchAt n.toNat = none ∧
        ∀ i ∈ l.rect.cores, (s.coreAt i).task.launchId = l.id → (t.coreAt i).mode = .off) ∧
      (l.id ≠ s.mod.host.abortId → ∃ t, exec (.abort v) s = .next t ∧ t.mod.host.abortStat = 3 ∧ t.mod.launches = s.mod.launches ∧ t.mem = s.mem)) := by
  have hslot := launchAt_slot hat
  refine ⟨fun hst ht hw hfree => ⟨fun hnone => launchDispatch_fails hat hst ht hfree hnone, fun ls hsome => ?_⟩, fun hmay hfree htask _ => ?_,
    fun v hv hn hstat => ⟨fun hid hst htiles hfree => ?_, fun hid => ⟨_, abort_refused hat hv hn hstat hid, rfl, rfl, rfl⟩⟩⟩
  · obtain ⟨t, hrun, hlaunch, hid, hgens, hmem, hin, hout⟩ := launchDispatch_starts hat hst ht hw hsome
    refine ⟨t, runningLaunch s l, hrun, hlaunch, rfl, rfl, hid, hgens, hmem, fun i hi => ?_, hout⟩
    obtain ⟨hmode, hwalk, hl, hrect, hasid, hx, hy, hwd, hht, hblock, hargs, hnamed⟩ := hin i hi
    exact ⟨hmode, hwalk, hl, hrect, hasid, hx, hy, hwd, hht, hblock, hargs, hnamed⟩
  · obtain ⟨t, hrun, hends⟩ := launchRetire_ends hat hmay hfree
    exact ⟨t, hrun, hends.completed, launchAt_of_filtered (s := s) (by rw [← hslot]; exact hends.launches), fun i hi => hends.off i hi (htask i hi), hends.others⟩
  · obtain ⟨t, u, hrun, rfl, hends⟩ := abort_ends hat hv hn hstat hid hst htiles hfree
    exact ⟨_, hrun, rfl, hends.completed, launchAt_of_filtered (s := s) (by rw [← hslot]; exact hends.launches), hends.off⟩

end Leaves

end Sys2Proof.Machine

/-! PROOF. The Splitter hands the parts of a tile instruction out (R376, R378 to R381). -/

namespace Sys2Proof.Machine
open Sys2Proof.Manual

/-! ## Instructions and the cores of a fold -/

section Instrs

variable {s : State} {x : TileInstr} {id : Nat}

/-- The one instruction that bears its number is found by it. -/
theorem tileInstr_of_only (h : Only (·.id) s.mod.tiles x) : s.tileInstr x.id = some x := by
  obtain ⟨hmem, hone⟩ := h
  obtain ⟨y, hy⟩ := Option.isSome_iff_exists.mp (List.find?_isSome (p := fun y : TileInstr => y.id == x.id) |>.mpr ⟨x, hmem, beq_self_eq_true x.id⟩)
  rw [State.tileInstr, hy, hone y (List.mem_of_find?_eq_some hy) (beq_iff_eq.mp (List.find?_some (p := fun y : TileInstr => y.id == x.id) hy))]

theorem onTile_has (hx : x ∈ s.mod.tiles) (hid : x.id = id) (f : TileInstr → TileInstr) : f x ∈ (s.onTile id f).mod.tiles :=
  List.mem_map.mpr ⟨x, hx, if_pos hid⟩

theorem onTile_coreAt (f : TileInstr → TileInstr) (i : Nat) : (s.onTile id f).coreAt i = s.coreAt i := rfl

/-- A fold that changes the core of each of its entries by that core alone, the cores apart. -/
theorem foldl_setCore_at {h : Core → Nat × Nat → Core} {l : List (Nat × Nat)} {e : Nat × Nat} (hn : (l.map (·.1)).Nodup) (he : e ∈ l) (s : State) :
    (l.foldl (fun st e => st.setCore e.1 (h (st.coreAt e.1) e)) s).coreAt e.1 = h (s.coreAt e.1) e := by
  induction l generalizing s with
  | nil => cases he
  | cons y l ih =>
    rw [List.map_cons, List.nodup_cons] at hn
    obtain ⟨hy, hl⟩ := hn
    rw [List.foldl_cons]
    rcases List.mem_cons.mp he with rfl | he
    · refine (foldl_keeps (g := fun st : State => st.coreAt e.1) (fun z hz st => ?_) _).trans (coreAt_setCore_same ..)
      exact coreAt_setCore_ne _ _ fun heq : e.1 = z.1 => hy (by rw [heq]; exact List.mem_map_of_mem hz)
    · rw [ih hl he, coreAt_setCore_ne _ _ fun heq : e.1 = y.1 => hy (by rw [← heq]; exact List.mem_map_of_mem he)]

theorem foldl_setCore_mod {h : State → Nat × Nat → Core} (l : List (Nat × Nat)) (s : State) :
    (l.foldl (fun st e => st.setCore e.1 (h st e)) s).mod = s.mod :=
  foldl_keeps (g := fun st : State => st.mod) (fun _ _ _ => setCore_mod ..) s

theorem foldl_setCore_tags {h : State → Nat × Nat → Core} (l : List (Nat × Nat)) (s : State) :
    (l.foldl (fun st e => st.setCore e.1 (h st e)) s).tags = s.tags :=
  foldl_keeps (g := fun st : State => st.tags) (fun _ _ _ => setCore_tags ..) s

end Instrs

/-! ## Marks of reads -/

section Marks

variable {s t : State}

/-- A state but for the tags, and the write log and race registers of the core in focus. -/
def Marked (s t : State) : Prop :=
  ∃ tags log stat addr, t = { s with tags := tags, core := { s.core with writeLog := log, raceStat := stat, raceAddr := addr } }

theorem Marked.refl (s : State) : Marked s s := ⟨s.tags, s.core.writeLog, s.core.raceStat, s.core.raceAddr, rfl⟩

theorem Marked.trans {u : State} (h : Marked s t) (g : Marked t u) : Marked s u := by
  obtain ⟨_, _, _, _, rfl⟩ := h
  obtain ⟨tags, log, stat, addr, rfl⟩ := g
  exact ⟨tags, log, stat, addr, rfl⟩

theorem logMark_marked (s : State) (pa : Nat) (t : BitVec 18) : Marked s (s.logMark pa t) := by
  unfold State.logMark
  dsimp only
  split
  · exact ⟨_, s.core.writeLog, s.core.raceStat, s.core.raceAddr, rfl⟩
  · split
    · exact ⟨_, s.core.writeLog, s.core.raceStat, s.core.raceAddr, rfl⟩
    · split
      · exact ⟨_, _, s.core.raceStat, s.core.raceAddr, rfl⟩
      · exact ⟨_, s.core.writeLog, _, s.core.raceAddr, rfl⟩

theorem engineRace_marked (s : State) (cause : Cause) (other unit va : Nat) : Marked s (s.onCore fun c => c.engineRace cause other unit va) := by
  unfold State.onCore Core.engineRace
  dsimp only
  split
  · exact ⟨s.tags, s.core.writeLog, _, _, rfl⟩
  · exact ⟨s.tags, s.core.writeLog, _, s.core.raceAddr, rfl⟩

/-- Reads that are checked and marked change the marks alone. -/
theorem markPeeks_marked (s : State) (rs : List (Nat × Nat)) : Marked s (s.markPeeks rs) := by
  unfold State.markPeeks
  refine List.foldlRecOn (motive := Marked s) _ _ (Marked.refl s) fun st hst u _ => ?_
  dsimp only
  split
  · exact hst
  · split
    · exact hst
    · split
      · exact hst.trans (logMark_marked ..)
      · exact hst.trans ((logMark_marked ..).trans (engineRace_marked ..))

end Marks

/-! ## The pool (R381) -/

section Pools

variable {s : State} {w : List Nat} {ts : List Nat}

theorem fld_lt (x hi lo : Nat) : fld x hi lo < 2 ^ (hi + 1 - lo) := Nat.mod_lt _ (Nat.two_pow_pos _)

/-- A sparse product has fewer tiles than the numbers of a pool's entries leave room for. -/
theorem tileCount_lt (hopc : tileOpc w = 1 ∨ tileOpc w = 2) : tileCount w < 2 ^ 40 := by
  have hn : tileN w ≤ 2 ^ 20 := fld_lt _ 63 44
  have hm : tileM w ≤ 2 ^ 20 := fld_lt _ 43 24
  have hside : 32 ≤ tileSide w ∧ tileSide w ≤ 64 := by
    unfold tileSide
    split <;> decide
  have hblocks {k : Nat} (hk : k ≤ 2 ^ 20) : (k + tileSide w - 1) / tileSide w ≤ 2 ^ 16 := by
    refine Nat.le_trans (Nat.div_le_div_left hside.1 (by decide)) ?_
    omega
  have hnone : byProblem (tileOpc w) = false := by rcases hopc with h | h <;> rw [h] <;> rfl
  have hlow : ¬ 12 ≤ tileOpc w := by rcases hopc with h | h <;> rw [h] <;> decide
  simp only [tileCount, if_neg hlow, hnone, Bool.false_eq_true, if_false]
  exact Nat.lt_of_le_of_lt (Nat.mul_le_mul (hblocks hm) (hblocks hn)) (by decide)

/-- The pool lists tiles of the instruction, each with its cost. -/
theorem tilePool_tiles {pool : List (Nat × Nat)} (h : s.tilePool w = .ok pool) : ∀ p ∈ pool, p.1 < tileCount w := by
  have hsorted (a b : List Nat) (q : Nat) : ∀ p ∈ sortBy (fun a b : Nat × Nat => decide (b.2 ≤ a.2))
      ((List.range (tileCount w)).map fun t => (t, a.getD (t / q) 0 + b.getD (t % q) 0)), p.1 < tileCount w := by
    intro p hp
    obtain ⟨t, ht, rfl⟩ := List.mem_map.mp ((sortBy_perm _ _).mem_iff.mp hp)
    exact List.mem_range.mp ht
  simp only [State.tilePool, bind, Except.bind, pure, Except.pure] at h
  cases ha : s.nnz w 0 ((tileM w + 63) / 64) with
  | error e => rw [ha] at h; cases h
  | ok a =>
    rw [ha] at h
    dsimp only at h
    by_cases htwo : tileOpc w = 2
    · rw [if_pos htwo] at h
      cases hb : s.nnz w 1 ((tileN w + 63) / 64) with
      | error e => rw [hb] at h; cases h
      | ok b =>
        rw [hb] at h
        cases h
        exact hsorted a b _
    · rw [if_neg htwo] at h
      cases h
      exact hsorted a [] _

/-- The pool of a sparse product below L3 holds its tiles. -/
theorem startPool_tiles {cores : List Nat} (hopc : tileOpc w = 1 ∨ tileOpc w = 2) (hlevel : tileLevel w < 3) (h : s.startPool w cores = .ok ts) :
    ∀ e ∈ ts, e < tileCount w := by
  have hpooled : pooled w = true := by rcases hopc with h | h <;> rw [pooled, h] <;> rfl
  rw [State.startPool, hpooled, Bool.not_true, if_neg Bool.false_ne_true] at h
  cases hp : s.tilePool w with
  | error e => rw [hp] at h; cases h
  | ok pool =>
    rw [hp] at h
    simp only [Except.map, hlevel, if_true, Except.ok.injEq] at h
    rw [← h]
    intro e he
    obtain ⟨p, hmem, rfl⟩ := List.mem_map.mp he
    exact tilePool_tiles hp p hmem

/-- An entry that no die is bound to is anyone's. -/
theorem poolNext_cons {e : Nat} {es : List Nat} (he : e < 2 ^ 40) (core : Nat) : poolNext (e :: es) core = some e := by
  have hdie : e / 2 ^ 40 = 0 := Nat.div_eq_of_lt he
  exact List.find?_cons_of_pos (by rw [hdie]; rfl)

/-- One core's claim at the start: what has been claimed so far, and the pool that is left. -/
def claimOne (acc : List (Option Nat) × List Nat) (core : Nat) : List (Option Nat) × List Nat :=
  match poolNext acc.2 core with
  | some e => (acc.1 ++ [some (e % 2 ^ 40)], acc.2.erase e)
  | none => (acc.1 ++ [none], acc.2)

theorem claimOne_nil (l : List (Option Nat)) (core : Nat) : claimOne (l, []) core = (l ++ [none], []) := rfl

theorem claimOne_cons {e : Nat} (he : e < 2 ^ 40) (l : List (Option Nat)) (es : List Nat) (core : Nat) :
    claimOne (l, e :: es) core = (l ++ [some e], es) := by
  rw [claimOne, poolNext_cons he core]
  dsimp only
  rw [List.erase_cons_head, Nat.mod_eq_of_lt he]

theorem claimAll_eq {pool : List Nat} (hp : ∀ e ∈ pool, e < 2 ^ 40) (cores : List Nat) (l : List (Option Nat)) :
    cores.foldl claimOne (l, pool) = (l ++ (List.range cores.length).map (pool[·]?), pool.drop cores.length) := by
  induction cores generalizing pool l with
  | nil => simp
  | cons i cs ih =>
    rw [List.foldl_cons, List.length_cons, List.range_succ_eq_map, List.map_cons, List.map_map]
    cases pool with
    | nil =>
      rw [claimOne_nil, ih hp]
      simp [Function.comp_def]
    | cons e es =>
      rw [claimOne_cons (hp e (List.mem_cons_self ..)), ih fun e he => hp e (List.mem_cons_of_mem _ he)]
      simp [Function.comp_def]

/-- The claims of the start take the pool's entries in turn. -/
theorem firstClaims_eq {pool : List Nat} (hp : ∀ e ∈ pool, e < 2 ^ 40) (cores : List Nat) :
    firstClaims pool cores = ((List.range cores.length).map (pool[·]?), pool.drop cores.length) := claimAll_eq hp cores []

theorem firstClaims_at {pool : List Nat} (hp : ∀ e ∈ pool, e < 2 ^ 40) {cores : List Nat} {r i : Nat} (hr : cores[r]? = some i) :
    (firstClaims pool cores).1.getD r none = pool[r]? := by
  obtain ⟨hlt, -⟩ := List.getElem?_eq_some_iff.mp hr
  rw [firstClaims_eq hp]
  simp [List.getD_eq_getElem?_getD, hlt]

end Pools

/-! ## TILE_SPLIT -/

section Split

variable {s : State} {x : TileInstr} {ts : List Nat}

/-- The cores that execute an instruction, by its level. -/
def splitCores (s : State) (x : TileInstr) : List Nat :=
  if tileLevel x.word = 0 then [x.core] else if tileLevel x.word ≤ 2 then (tileRect x.word).elim [] Rect.cores
    else (s.coreAt x.core).task.rect.cores

theorem tileCores_eq : s.tileCores x = splitCores s x := by
  unfold State.tileCores splitCores
  split
  next h => rw [if_pos h]
  next h => rw [if_neg (by omega), if_pos (by omega)]
  next h => rw [if_neg (by omega), if_pos (by omega)]
  next h0 h1 h2 =>
    have hne : tileLevel x.word ≠ 0 ∧ tileLevel x.word ≠ 1 ∧ tileLevel x.word ≠ 2 := ⟨h0, h1, h2⟩
    rw [if_neg h0, if_neg (by omega)]

theorem splitCores_nodup : (splitCores s x).Nodup := by
  unfold splitCores
  split
  · exact List.nodup_singleton _
  · split
    · cases tileRect x.word with
      | none => rw [Option.elim_none]; exact List.nodup_nil
      | some r => rw [Option.elim_some]; exact rect_cores_nodup r
    · exact rect_cores_nodup _

/-- An instruction that starts: its issuer's marks are published. -/
def splitStart (s : State) (x : TileInstr) : State :=
  (({ s with tags := publishTags s.tags x.core (s.coreAt x.core).writeLog }).setCore x.core { s.coreAt x.core with writeLog := [] }).onTile x.id
    fun y => { y with started := true }

/-- The Splitter reads as the issuer does. -/
def splitView (s : State) (x : TileInstr) : State := { splitStart s x with core := (splitStart s x).coreAt x.core, focus := x.core }

/-- The module after those reads. -/
def splitRead (s : State) (x : TileInstr) : State :=
  if pooled x.word then
    { (splitView s x).markPeeks ((splitView s x).nnzLines x.word) with core := (splitStart s x).core, focus := (splitStart s x).focus }.setCore x.core
      ((splitView s x).markPeeks ((splitView s x).nnzLines x.word)).core
  else splitStart s x

theorem splitStart_eng (i : Nat) : ((splitStart s x).coreAt i).eng = (s.coreAt i).eng := by
  rw [splitStart, onTile_coreAt]
  by_cases hi : i = x.core
  · rw [hi, coreAt_setCore_same]
  · rw [coreAt_setCore_ne _ _ hi]
    rfl

theorem splitStart_has (hx : x ∈ s.mod.tiles) : { x with started := true } ∈ (splitStart s x).mod.tiles :=
  onTile_has (by rw [setCore_mod]; exact hx) rfl _

theorem splitRead_mod : (splitRead s x).mod = (splitStart s x).mod := by
  unfold splitRead
  split
  · rw [setCore_mod]
    obtain ⟨tags, log, stat, addr, h⟩ := markPeeks_marked (splitView s x) ((splitView s x).nnzLines x.word)
    rw [h]
    rfl
  · rfl

theorem splitRead_eng (i : Nat) : ((splitRead s x).coreAt i).eng = (s.coreAt i).eng := by
  rw [← splitStart_eng (s := s) (x := x) i]
  unfold splitRead
  split
  · obtain ⟨tags, log, stat, addr, h⟩ := markPeeks_marked (splitView s x) ((splitView s x).nnzLines x.word)
    rw [h]
    by_cases hi : i = x.core
    · rw [hi, coreAt_setCore_same]
      rfl
    · rw [coreAt_setCore_ne _ _ hi]
      rfl
  · rfl

/-- A core receives its part. -/
def handPart (x : TileInstr) (w : List Nat) (size : Nat) (firsts : List (Option Nat)) (k : Core) (e : Nat × Nat) : Core :=
  { k with eng := { k.eng with parts := k.eng.parts ++ [x.part w e.2 size e.1 (firsts.getD e.2 none)] } }

/-- The module once every core has its part. -/
def splitDealt (s : State) (x : TileInstr) (pool : List Nat) : State :=
  let cores := splitCores s x
  cores.zipIdx.foldl (fun st e => st.setCore e.1 (handPart x x.word cores.length (firstClaims pool cores).1 (st.coreAt e.1) e))
    ((splitRead s x).onTile x.id fun y => { y with left := cores, pool := (firstClaims pool cores).2 })

/-- Below L4 the Splitters hand on the word as it is. -/
theorem childWord_low {w : List Nat} (h : tileLevel w < 4) : s.childWord w = w := by
  have hsize : s.splitSize w = 1 := if_neg (by omega)
  rw [State.childWord, hsize]
  exact if_neg fun h => Nat.lt_irrefl 1 h.1

theorem tileAbsent_low {w : List Nat} (h : tileLevel w < 4) : s.tileAbsent w = [] := if_neg (by omega)

/-- The executors are the same once the instruction has started. -/
theorem splitStart_cores : State.tileCores (({ s with tags := publishTags s.tags x.core (s.coreAt x.core).writeLog }).setCore x.core
    { s.coreAt x.core with writeLog := [] }) x = splitCores s x := by
  rw [tileCores_eq, splitCores, coreAt_setCore_same]
  rfl

section Runs

variable (hat : s.tileInstr x.id = some x) (hready : s.tileReady x = true)
include hat hready

theorem tileSplit_other (hopc : 12 ≤ tileOpc x.word) : execTileSplit x.id s = .next (splitStart s x) := by
  rw [execTileSplit, hat]
  dsimp only
  rw [hready, Bool.not_true, if_neg Bool.false_ne_true, if_pos hopc]
  rfl

theorem tileSplit_absent {r : Nat} {rs : List Nat} (hopc : tileOpc x.word < 12) (habs : s.tileAbsent x.word = r :: rs) : execTileSplit x.id s =
    .next ((r :: rs).foldl (fun st m => st.tileFault x.id 5 0 0 255 0 4 m 0 0) (splitStart s x)) := by
  rw [execTileSplit, hat]
  dsimp only
  rw [hready, Bool.not_true, if_neg Bool.false_ne_true, if_neg (by omega), habs]
  rfl

theorem tileSplit_deals (hopc : tileOpc x.word < 12) (hlevel : tileLevel x.word < 4)
    (hpool : (splitView s x).startPool x.word (splitCores s x) = .ok ts) : execTileSplit x.id s = .next (splitDealt s x ts) := by
  unfold splitView splitStart at hpool
  rw [execTileSplit, hat]
  dsimp only
  rw [hready, Bool.not_true, if_neg Bool.false_ne_true, if_neg (by omega), tileAbsent_low hlevel, splitStart_cores]
  dsimp only
  rw [hpool]
  dsimp only
  rw [childWord_low hlevel, splitDealt, splitRead]
  cases hp : pooled x.word <;> rfl

theorem tileSplit_fails {code r k addr o : Nat} (hopc : tileOpc x.word < 12) (hlevel : tileLevel x.word < 4)
    (hpool : (splitView s x).startPool x.word (splitCores s x) = .error ((code, (r, k), addr), o)) : execTileSplit x.id s =
      .next ((splitRead s x).tileFault x.id code r k o addr (min 3 (tileLevel x.word)) (s.tileRank x.word) x.core 0) := by
  unfold splitView splitStart at hpool
  rw [execTileSplit, hat]
  dsimp only
  rw [hready, Bool.not_true, if_neg Bool.false_ne_true, if_neg (by omega), tileAbsent_low hlevel, splitStart_cores]
  dsimp only
  rw [hpool]
  dsimp only
  rw [splitRead]
  cases hp : pooled x.word <;> rfl

end Runs

/-- What the handing out leaves: who is still to end, the pool, and a part more for each executor. -/
theorem splitDealt_has (hx : x ∈ s.mod.tiles) :
    { x with started := true, left := splitCores s x, pool := (firstClaims ts (splitCores s x)).2 } ∈ (splitDealt s x ts).mod.tiles := by
  rw [splitDealt, foldl_setCore_mod]
  exact onTile_has (s := splitRead s x) (x := { x with started := true }) (by rw [splitRead_mod]; exact splitStart_has hx) rfl _

theorem splitDealt_parts {i r : Nat} (hr : (splitCores s x)[r]? = some i) : ((splitDealt s x ts).coreAt i).eng.parts =
    (s.coreAt i).eng.parts ++ [x.part x.word r (splitCores s x).length i ((firstClaims ts (splitCores s x)).1.getD r none)] := by
  have hmem : (i, r) ∈ (splitCores s x).zipIdx := List.mk_mem_zipIdx_iff_getElem?.mpr hr
  rw [splitDealt, foldl_setCore_at (e := (i, r)) (by rw [List.zipIdx_map_fst]; exact splitCores_nodup) hmem, handPart, onTile_coreAt, splitRead_eng]

theorem splitDealt_tags (hp : pooled x.word = false) : (splitDealt s x ts).tags = publishTags s.tags x.core (s.coreAt x.core).writeLog := by
  rw [splitDealt, foldl_setCore_tags, State.onTile, State.onMod, splitRead, hp, if_neg Bool.false_ne_true, splitStart, State.onTile, State.onMod]
  exact setCore_tags ..

/-- The tiles of a rank are those that fall to it in turn; at L0 the one core runs them all (R379). -/
theorem tilesOfRank_eq (hp : pooled x.word = false) {i r : Nat} (hr : (splitCores s x)[r]? = some i) :
    tilesOfRank x.word r (splitCores s x).length = (List.range (tileCount x.word)).filter fun k => k % (splitCores s x).length == r := by
  rw [tilesOfRank, hp, if_neg Bool.false_ne_true]
  split
  next h0 =>
    have hone : splitCores s x = [x.core] := if_pos h0
    rw [hone] at hr ⊢
    obtain ⟨hlt, -⟩ := List.getElem?_eq_some_iff.mp hr
    have hr0 : r = 0 := Nat.lt_one_iff.mp hlt
    exact (List.filter_eq_self.mpr fun k _ => by simp [hr0, Nat.mod_one]).symm
  next => rfl

/-- Faults that are found join those of the instruction. -/
theorem faults_join (hx : x ∈ s.mod.tiles) (ms : List Nat) : ∃ y ∈ (ms.foldl (fun st m => st.tileFault x.id 5 0 0 255 0 4 m 0 0) s).mod.tiles,
    y.id = x.id ∧ y.started = x.started ∧ y.left = x.left ∧ y.faults.map (·.code) = x.faults.map (·.code) ++ ms.map (fun _ => 5) ∧
      y.faults.map (·.rank) = x.faults.map (·.rank) ++ ms := by
  induction ms generalizing s x with
  | nil => exact ⟨x, hx, rfl, rfl, rfl, (List.append_nil _).symm, (List.append_nil _).symm⟩
  | cons m ms ih =>
    obtain ⟨y, hy, hid, hstart, hleft, hcode, hrank⟩ := ih (onTile_has hx rfl fun x => { x with faults := x.faults ++ [⟨5, 0, 0, 255, 0, s.ts.toNat, 4, m, 0, 0⟩] })
    refine ⟨y, hy, hid, hstart, hleft, hcode.trans ?_, hrank.trans ?_⟩ <;> simp

/-- TILE_SPLIT, by the class of the operation. -/
theorem split_clause (s : State) (x : TileInstr) (hone : Only (·.id) s.mod.tiles x) (hready : s.tileReady x = true) :
    (tileLevel x.word < 4 → tileOpc x.word < 12 → tileOpc x.word ≠ 1 → tileOpc x.word ≠ 2 →
      ∃ t y, exec (.tileSplit x.id) s = .next t ∧ y ∈ t.mod.tiles ∧ y.id = x.id ∧ y.started = true ∧
        y.left = splitCores s x ∧ t.tags = publishTags s.tags x.core (s.coreAt x.core).writeLog ∧
        ∀ i r, (splitCores s x)[r]? = some i → ∃ p, (t.coreAt i).eng.parts = (s.coreAt i).eng.parts ++ [p] ∧ p.instr = x.id ∧ p.word = x.word ∧ p.t0 = none ∧
          p.todo = (List.range (tileCount x.word)).filter fun k => k % (splitCores s x).length == r) ∧
    (tileLevel x.word < 3 → tileOpc x.word = 1 ∨ tileOpc x.word = 2 →
      (∀ ts : List Nat, (splitView s x).startPool x.word (splitCores s x) = .ok ts → ∃ t y, exec (.tileSplit x.id) s = .next t ∧ y ∈ t.mod.tiles ∧ y.id = x.id ∧ y.started = true ∧
        y.left = splitCores s x ∧ y.pool = ts.drop (splitCores s x).length ∧
        ∀ i r : Nat, (splitCores s x)[r]? = some i → ∃ p, (t.coreAt i).eng.parts = (s.coreAt i).eng.parts ++ [p] ∧ p.instr = x.id ∧ p.word = x.word ∧ p.t0 = none ∧
          p.pool = true ∧ p.todo = (ts[r]?).toList) ∧
      (∀ code r k addr o, (splitView s x).startPool x.word (splitCores s x) = .error ((code, (r, k), addr), o) → ∃ t y f, exec (.tileSplit x.id) s = .next t ∧ y ∈ t.mod.tiles ∧
        y.id = x.id ∧ y.started = true ∧ y.left = x.left ∧ y.faults = x.faults ++ [f] ∧ f.code = code ∧ f.row = r ∧ f.col = k ∧ f.opnd = o ∧
        f.addr = addr ∧ f.level = tileLevel x.word)) ∧
    (12 ≤ tileOpc x.word → ∃ t y, exec (.tileSplit x.id) s = .next t ∧ y ∈ t.mod.tiles ∧ y = { x with started := true }) ∧
    (∀ r rs, tileOpc x.word < 12 → s.tileAbsent x.word = r :: rs → ∃ t y, exec (.tileSplit x.id) s = .next t ∧ y ∈ t.mod.tiles ∧ y.id = x.id ∧ y.started = true ∧
      y.left = x.left ∧ y.faults.map (·.code) = x.faults.map (·.code) ++ (r :: rs).map (fun _ => 5) ∧
      y.faults.map (·.rank) = x.faults.map (·.rank) ++ (r :: rs)) := by
  have hat := tileInstr_of_only hone
  have hx := hone.1
  refine ⟨fun hlevel hopc h1 h2 => ?_, fun hlevel hopc => ⟨fun ts hpool => ?_, fun code r k addr o hpool => ?_⟩, fun hopc =>
    ⟨_, _, tileSplit_other hat hready hopc, splitStart_has hx, rfl⟩, fun r rs hopc habs => ?_⟩
  · have hp : pooled x.word = false := by simp [pooled, h1, h2]
    have hnone : (splitView s x).startPool x.word (splitCores s x) = .ok [] := by rw [State.startPool, hp]; rfl
    refine ⟨_, _, tileSplit_deals hat hready hopc hlevel hnone, splitDealt_has hx, rfl, rfl, rfl, splitDealt_tags hp, fun i r hr =>
      ⟨_, splitDealt_parts hr, rfl, rfl, rfl, ?_⟩⟩
    rw [TileInstr.part, firstClaims_at (cores := splitCores s x) (by simp) hr]
    exact (List.append_nil _).trans (tilesOfRank_eq hp hr)
  · have hp : pooled x.word = true := by rcases hopc with h | h <;> rw [pooled, h] <;> rfl
    have hlt (e : Nat) (he : e ∈ ts) : e < 2 ^ 40 := Nat.lt_trans (startPool_tiles hopc hlevel hpool e he) (tileCount_lt hopc)
    refine ⟨_, _, tileSplit_deals hat hready (by omega) (by omega) hpool, splitDealt_has hx, rfl, rfl, rfl, by rw [firstClaims_eq hlt], fun i r hr =>
      ⟨_, splitDealt_parts hr, rfl, rfl, rfl, hp, ?_⟩⟩
    rw [TileInstr.part, firstClaims_at (cores := splitCores s x) hlt hr, tilesOfRank, hp]
    rfl
  · have hlevel3 : min 3 (tileLevel x.word) = tileLevel x.word := by omega
    exact ⟨_, _, _, tileSplit_fails hat hready (by omega) (by omega) hpool, onTile_has (s := splitRead s x) (x := { x with started := true })
      (by rw [splitRead_mod]; exact splitStart_has hx) rfl _, rfl, rfl, rfl, rfl, rfl, rfl, rfl, rfl, rfl, hlevel3⟩
  · obtain ⟨y, hy, hid, hstart, hleft, hcode, hrank⟩ := faults_join (splitStart_has hx) (r :: rs)
    exact ⟨_, y, tileSplit_absent hat hready hopc habs, hy, hid, hstart, hleft, hcode, hrank⟩

end Split

end Sys2Proof.Machine

/-! PROOF. A part starts on its core and claims tiles from its pool (R381, R383). -/

namespace Sys2Proof.Machine
open Sys2Proof.Manual

section Parts

variable {s : State} {p : TilePart} {rest : List TilePart} {x : TileInstr}

/-- A change of the part in focus. -/
theorem onPart_parts (h : s.core.eng.parts = p :: rest) (f : TilePart → TilePart) : (s.onPart f).core.eng.parts = f p :: rest := by
  show (match s.core.eng.parts with | p :: r => f p :: r | [] => []) = f p :: rest
  rw [h]

theorem traceClaim_sets (s : State) (word : List Nat) (t : Nat) : ∃ tr, s.traceClaim word t = { s with core := { s.core with trace := tr } } := by
  obtain ⟨tr, h⟩ := traceRec_sets s.core s.ts s.focus 6 [BitVec.ofNat 64 t, BitVec.ofNat 64 (tileCw word)]
  exact ⟨tr, congrArg (fun c => { s with core := c }) h⟩

theorem traceClaims_sets (s : State) (word : List Nat) (ts : List Nat) :
    ∃ tr, ts.foldl (fun st t => st.traceClaim word t) s = { s with core := { s.core with trace := tr } } := by
  refine List.foldlRecOn (motive := fun st : State => ∃ tr, st = { s with core := { s.core with trace := tr } }) ts _ ⟨s.core.trace, rfl⟩ ?_
  rintro _ ⟨tr, rfl⟩ t _
  obtain ⟨tr', h⟩ := traceClaim_sets { s with core := { s.core with trace := tr } } word t
  exact ⟨tr', h⟩

/-! ## TILE_PART_START -/

/-- The part as it stands once it has begun. -/
def startedPart (s : State) (p : TilePart) (todo : List Nat) : TilePart :=
  { p with
    t0 := some s.core.tcc, cs := s.core.tcc + 16, ks := 0, todo := todo, rings := s.core.eng.rings.toList
    quadCfg := s.core.eng.kiln.quadCfg, shadow := s.core.eng.kiln.shadow }

theorem tilePartStart_starts (hp : s.core.eng.parts = p :: rest) (ht : p.t0 = none) (hidle : s.core.unitsIdle = true) :
    ∃ t, execTilePartStart s = .next t ∧ t.core.eng.parts = startedPart s p (if s.claimBarred p then [] else p.todo) :: rest := by
  have hcond : ¬ (p.t0.isSome = true ∨ (!s.core.unitsIdle) = true) := by simp [ht, hidle]
  have hrun : execTilePartStart s = .next ((if p.pool then (if s.claimBarred p then [] else p.todo).foldl (fun st t => st.traceClaim p.word t) s
      else s).onPart fun p' => { p' with
        t0 := some s.core.tcc, cs := s.core.tcc + 16, ks := 0, todo := if s.claimBarred p then [] else p.todo, rings := s.core.eng.rings.toList
        quadCfg := s.core.eng.kiln.quadCfg, shadow := s.core.eng.kiln.shadow }) := by
    rw [execTilePartStart, hp]
    exact if_neg hcond
  refine ⟨_, hrun, onPart_parts ?_ _⟩
  obtain ⟨tr, htr⟩ := traceClaims_sets s p.word (if s.claimBarred p then [] else p.todo)
  rw [htr]
  split <;> exact hp

theorem tilePartStart_waits (hp : s.core.eng.parts = p :: rest) (hidle : s.core.unitsIdle = false) : execTilePartStart s = .next s := by
  rw [execTilePartStart, hp]
  exact if_pos (.inr (by rw [hidle]; rfl))

theorem claimBarred_static (h : p.pool = false) : s.claimBarred p = false := by rw [State.claimBarred, h, Bool.false_and]

theorem claimBarred_eq (hpool : p.pool = true) (hx : s.tileInstr p.instr = some x) : s.claimBarred p = !x.faults.isEmpty := by
  rw [State.claimBarred, hpool, hx, Bool.true_and, Option.any_some]

theorem partStart_clause (s : State) (p : TilePart) (rest : List TilePart) (hp : s.core.eng.parts = p :: rest) (ht : p.t0 = none) :
    (s.core.unitsIdle = false → exec .tilePartStart s = .next s) ∧
    (s.core.unitsIdle = true → ∃ t q, exec .tilePartStart s = .next t ∧ t.core.eng.parts = q :: rest ∧ q.t0 = some s.core.tcc ∧ q.cs = s.core.tcc + 16 ∧
      q.ks = 0 ∧ (p.pool = false → q.todo = p.todo) ∧
      (∀ x, p.pool = true → Only (·.id) s.mod.tiles x → x.id = p.instr → q.todo = if x.faults = [] then p.todo else []) ∧
      q.rings = s.core.eng.rings.toList ∧ q.quadCfg = s.core.eng.kiln.quadCfg ∧ q.shadow = s.core.eng.kiln.shadow) := by
  refine ⟨tilePartStart_waits hp, fun hidle => ?_⟩
  obtain ⟨t, hrun, hparts⟩ := tilePartStart_starts hp ht hidle
  refine ⟨t, _, hrun, hparts, rfl, rfl, rfl, fun hpool => ?_, fun x hpool hone hid => ?_, rfl, rfl, rfl⟩
  · rw [startedPart, claimBarred_static hpool]
    rfl
  · rw [startedPart, claimBarred_eq hpool (by rw [← hid]; exact tileInstr_of_only hone)]
    by_cases hf : x.faults = []
    · rw [hf]
      rfl
    · rw [if_neg hf, if_pos]
      simpa using hf

/-! ## TILE_CLAIM -/

/-- A claim takes the pool's first entry. -/
theorem tileClaim_takes {e : Nat} {es : List Nat} (hp : s.core.eng.parts = [p]) (hc : s.core.claims = true) (hx : s.tileInstr p.instr = some x)
    (hpool : x.pool = e :: es) (he : e < 2 ^ 40) (hf : x.faults = []) : ∃ tr, execTileClaim s = .next
      { (s.onTile x.id fun y => { y with pool := y.pool.erase e }).onPart fun p => { p with todo := [e] } with
        core := { ((s.onTile x.id fun y => { y with pool := y.pool.erase e }).onPart fun p => { p with todo := [e] }).core with trace := tr } } := by
  obtain ⟨tr, htr⟩ := traceClaim_sets ((s.onTile x.id fun y => { y with pool := y.pool.erase e }).onPart fun p => { p with todo := [e] }) x.word e
  refine ⟨tr, ?_⟩
  rw [← htr, execTileClaim, hc, hp]
  dsimp only [List.head?_cons, Option.bind_some]
  rw [Bool.not_true, if_neg Bool.false_ne_true, hx]
  dsimp only
  rw [hf, hpool, poolNext_cons he]
  dsimp only [List.isEmpty_nil]
  rw [if_pos rfl]
  dsimp only
  rw [Nat.mod_eq_of_lt he]

/-- With nothing in the pool, or a fault of the instruction, the part asks no more. -/
theorem tileClaim_ends (hp : s.core.eng.parts = [p]) (hc : s.core.claims = true) (hx : s.tileInstr p.instr = some x)
    (hnone : x.pool = [] ∨ x.faults ≠ []) : execTileClaim s = .next (s.onPart fun p => { p with pool := false }) := by
  have hnext : (if x.faults.isEmpty then poolNext x.pool s.focus else none) = none := by
    rcases hnone with h | h
    · rw [h]
      exact ite_self _
    · exact if_neg (by simpa using h)
  rw [execTileClaim, hc, hp]
  dsimp only [List.head?_cons, Option.bind_some]
  rw [Bool.not_true, if_neg Bool.false_ne_true, hx]
  dsimp only
  rw [hnext]

theorem claim_clause (s : State) (p : TilePart) (x : TileInstr) (hp : s.core.eng.parts = [p]) (hc : s.core.claims = true) (hone : Only (·.id) s.mod.tiles x)
    (hid : x.id = p.instr) :
    (∀ e es, x.pool = e :: es → e < 2 ^ 40 → x.faults = [] → ∃ t y, exec .tileClaim s = .next t ∧ t.core.eng.parts = [{ p with todo := [e] }] ∧
      y ∈ t.mod.tiles ∧ y = { x with pool := es }) ∧
    (x.pool = [] ∨ x.faults ≠ [] → ∃ t, exec .tileClaim s = .next t ∧ t.core.eng.parts = [{ p with pool := false }] ∧ t.mod = s.mod) := by
  have hx : s.tileInstr p.instr = some x := by rw [← hid]; exact tileInstr_of_only hone
  refine ⟨fun e es hpool he hf => ?_, fun hnone => ⟨_, tileClaim_ends hp hc hx hnone, onPart_parts hp _, rfl⟩⟩
  obtain ⟨tr, hrun⟩ := tileClaim_takes hp hc hx hpool he hf
  refine ⟨_, { x with pool := x.pool.erase e }, hrun, onPart_parts (s := s.onTile x.id fun y => { y with pool := y.pool.erase e }) hp _,
    onTile_has hone.1 rfl fun y => { y with pool := y.pool.erase e }, ?_⟩
  rw [hpool, List.erase_cons_head]

end Parts

end Sys2Proof.Machine

/-! PROOF. The sequencer and the element unit over the part that stands alone on its core (R384, R385, R465). -/

namespace Sys2Proof.Machine
open Sys2Proof.Manual

/-! ## Commands of a run -/

section Commands

variable {s : State} {p : TilePart} {r : TileRun} {k : TileCmd} {elem : Bool} {fuel c0 : Nat} {rest : List (Nat × TileCmd)}

/-- With no bytes come back, nothing joins the tiles. -/
theorem absorbTile_quiet (h : ∀ d ∈ s.core.eng.delivered, d.1 ≠ 15) : s.absorbTile = s := by
  have hmine : (s.core.eng.delivered.filter fun d => d.1 == 15) = [] := List.filter_eq_nil_iff.mpr fun d hd => by simpa using h d hd
  have heng : s.core.eng.absorbTile = s.core.eng := by
    unfold Engines.absorbTile
    rw [hmine]
    cases s.core.eng.parts <;> rfl
  show { s with core := { s.core with eng := s.core.eng.absorbTile } } = s
  rw [heng]

/-- Whether a command is the element unit's. -/
def TileCmd.isElement : TileCmd → Bool
  | .element _ => true
  | _ => false

theorem onRun_parts (hp : s.core.eng.parts = [p]) (hr : p.runs = [r]) (f : TileRun → TileRun) :
    (s.onRun r.tile f).core.eng.parts = [{ p with runs := [f r] }] := by
  rw [State.onRun, onPart_parts hp, hr]
  simp

/-- A run whose first command is yet to come has none to carry out. -/
theorem next_late {c : Core} (h : ∀ y ∈ r.cmds, c.tcc < y.1) : r.next c p = none := by
  unfold TileRun.next
  split
  next t k rest hc =>
    have hlt : ¬ t ≤ c.tcc := Nat.not_le.mpr (h (t, k) (by rw [hc]; exact List.mem_cons_self ..))
    simp [hlt]
  next => rfl

theorem next_due {c : Core} (hc : r.cmds = (c0, k) :: rest) (h : c0 ≤ c.tcc) : r.next c p = if k.able c p r then some k else none := by
  rw [TileRun.next, hc]
  simp [h]

/-- With no command to carry out, the rest of the cycle does nothing. -/
theorem tileRunCmds_idle (hp : s.core.eng.parts = [p]) (hn : ∀ r ∈ p.runs, r.next s.core p = none) : s.tileRunCmds elem fuel = s := by
  cases fuel with
  | zero => rfl
  | succ fuel =>
    rw [State.tileRunCmds, hp]
    dsimp only
    rw [List.findSome?_eq_none_iff.mpr fun r hr => by rw [hn r hr]; rfl]

/-- The one run's next command is carried out. -/
theorem tileRunCmds_step (hp : s.core.eng.parts = [p]) (hr : p.runs = [r]) (hn : r.next s.core p = some k) (hk : k.isElement = elem) :
    s.tileRunCmds elem (fuel + 1) = ((s.onRun r.tile fun x => { x with cmds := x.cmds.tail }).tileCmd p r k).tileRunCmds elem fuel := by
  rw [State.tileRunCmds, hp]
  dsimp only
  rw [hr, List.findSome?_cons, hn]
  subst hk
  cases k <;> rfl

/-- With no read asked for and no unit leaving, the copies move nothing. -/
theorem tileFlow_still (hp : s.core.eng.parts = [p]) (h : ∀ r ∈ p.runs, r.asks = [] ∧ r.leaving = false) : s.tileFlow = s := by
  have hasks : p.runs.foldl (fun (st : State) r => r.asksNow.foldl (fun st a => st.tileRead p r.tile a) st) s = s :=
    List.foldlRecOn (motive := fun st => st = s) _ _ rfl fun st hst r hr => by
      rw [hst, TileRun.asksNow, (h r hr).1]
      rfl
  have hnone : (p.runs.find? fun r => r.leaving && !r.outs.isEmpty) = none := List.find?_eq_none.mpr fun r hr => by simp [(h r hr).2]
  rw [State.tileFlow, hp]
  dsimp only
  rw [hasks, hnone]

/-- With no read asked for, a unit of the one run that is leaving moves. -/
theorem tileFlow_out {u : Nat × List Byte} {us : List (Nat × List Byte)} (hp : s.core.eng.parts = [p]) (hr : p.runs = [r]) (ha : r.asks = [])
    (hl : r.leaving = true) (ho : r.outs = u :: us) : s.tileFlow = s.tileUnitOut p r u := by
  have hfind : (p.runs.find? fun r => r.leaving && !r.outs.isEmpty) = some r := by
    rw [hr]
    exact List.find?_cons_of_pos (by rw [hl, ho]; rfl)
  rw [State.tileFlow, hp]
  dsimp only
  rw [hfind, hr, List.foldl_cons, List.foldl_nil, TileRun.asksNow, ha]
  dsimp only
  rw [ho]
  rfl

end Commands

/-! ## A tile begins (R384, R385) -/

section Begins

variable {s : State} {p : TilePart} {t : Nat} {ts : List Nat} {x : TileInstr} {xs : List Opnd}

theorem tileDue_next (hp : s.core.eng.parts = [p]) (htodo : p.todo = t :: ts) (ht : p.t0 ≠ none) (hcs : p.cs ≤ s.core.tcc + 16) (hr : p.runs = []) :
    s.core.tileDue = some (p, t) := by
  have hcond : (p.t0.isSome && decide (p.cs ≤ s.core.tcc + 16) && (published p.word || p.runs.isEmpty)) = true := by
    simp [Option.isSome_iff_ne_none.mpr ht, hcs, hr]
  rw [Core.tileDue, hp]
  dsimp only
  rw [htodo]
  exact if_pos hcond

theorem tileDue_done (hp : s.core.eng.parts = [p]) (htodo : p.todo = []) : s.core.tileDue = none := by
  rw [Core.tileDue, hp]
  dsimp only
  rw [htodo]

/-- What a cycle of the sequencer comes to once a tile has begun. -/
theorem sequencerIssue_begins (h : PartAlone s p) (hdue : s.core.tileDue = some (p, t)) :
    execSequencerCommandIssue s = .next (((s.tileBegin p t).tileRunCmds false 64).tileFlow) := by
  rw [execSequencerCommandIssue, absorbTile_quiet h.quiet, hdue]

theorem sequencerIssue_runs (h : PartAlone s p) (htodo : p.todo = []) :
    execSequencerCommandIssue s = .next ((s.tileRunCmds false 64).tileFlow) := by
  rw [execSequencerCommandIssue, absorbTile_quiet h.quiet, tileDue_done h.alone htodo]

/-- What is found wrong with a tile before it begins: with an operand, or with a page of its streams. -/
def tileChecks (s : State) (p : TilePart) (t : Nat) : Except (TileBad × Nat) (List Opnd) :=
  (s.tileOpnds p.word t).bind fun xs => (s.streamPages p.word t xs).map fun _ => xs

theorem tileChecks_opnds {e : TileBad × Nat} (h : s.tileOpnds p.word t = .error e) : tileChecks s p t = .error e := by rw [tileChecks, h]; rfl

theorem tileChecks_streams {e : TileBad × Nat} (h : s.tileOpnds p.word t = .ok xs) (he : s.streamPages p.word t xs = .error e) :
    tileChecks s p t = .error e := by rw [tileChecks, h, Except.bind, he]; rfl

theorem tileChecks_ok (h : s.tileOpnds p.word t = .ok xs) (hs : s.streamPages p.word t xs = .ok ()) : tileChecks s p t = .ok xs := by
  rw [tileChecks, h, Except.bind, hs]
  rfl

/-- A tile that fails its checks adds its fault, and the part takes no other. -/
theorem tileBegin_fails {code r c addr o : Nat} (hp : s.core.eng.parts = [p]) (hl : tileLevel p.word ≠ 0)
    (h : tileChecks s p t = .error ((code, (r, c), addr), o)) (hx : x ∈ s.mod.tiles) (hid : x.id = p.instr) :
    (s.tileBegin p t).core.eng.parts = [{ p with todo := [], pool := false }] ∧ ∃ f y, y ∈ (s.tileBegin p t).mod.tiles ∧ y.id = x.id ∧
      y.faults = x.faults ++ [f] ∧ f.code = code ∧ f.row = r ∧ f.col = c ∧ f.opnd = o ∧ f.addr = addr ∧ f.ts = s.ts.toNat ∧ f.core = s.focus := by
  unfold tileChecks at h
  rw [State.tileBegin, h]
  dsimp only
  obtain ⟨tags, log, stat, a, hm⟩ := markPeeks_marked s ((List.range (o + 1)).flatMap fun o => s.entryLines p.word o)
  rw [hm]
  refine ⟨?_, _, _, onTile_has hx hid _, rfl, rfl, rfl, rfl, rfl, rfl, rfl, rfl, rfl⟩
  rw [onPart_parts (p := p) (rest := [])]
  · rw [if_neg hl]
  · exact hp

theorem sequencer_fails {code r c addr o : Nat} (h : PartAlone s p) (ht : p.t0 ≠ none) (hr : p.runs = []) (htodo : p.todo = t :: ts)
    (hcs : p.cs ≤ s.core.tcc + 16) (hl : tileLevel p.word ≠ 0) (hbad : tileChecks s p t = .error ((code, (r, c), addr), o)) (hx : x ∈ s.mod.tiles)
    (hid : x.id = p.instr) : ∃ u y f, execSequencerCommandIssue s = .next u ∧ u.core.eng.parts = [{ p with todo := [], pool := false }] ∧ y ∈ u.mod.tiles ∧
      y.id = x.id ∧ y.faults = x.faults ++ [f] ∧ f.code = code ∧ f.row = r ∧ f.col = c ∧ f.opnd = o ∧ f.addr = addr ∧ f.ts = s.ts.toNat ∧ f.core = s.focus := by
  obtain ⟨hparts, f, y, hy⟩ := tileBegin_fails h.alone hl hbad hx hid
  have hnone : ∀ r ∈ ({ p with todo := [], pool := false } : TilePart).runs, r.next (s.tileBegin p t).core { p with todo := [], pool := false } = none := by
    rw [hr]
    simp
  refine ⟨s.tileBegin p t, y, f, ?_, hparts, hy⟩
  rw [sequencerIssue_begins h (tileDue_next h.alone htodo ht hcs hr), tileRunCmds_idle hparts hnone, tileFlow_still hparts]
  rw [hr]
  simp

/-- The schedule of a tile. -/
def tileSched (s : State) (p : TilePart) (t : Nat) (xs : List Opnd) : Sched :=
  if !published p.word then s.freeSched p.word xs t p.cs p.ks
  else if tileOpc p.word ≤ 2 then s.productSched p.word xs t p.cs p.ks
  else s.elementSched p.word xs t p.cs p.ks

section Sorts

variable {α : Type} {le : α → α → Bool}

theorem insertBy_last {a : α} {l : List α} (h : ∀ y ∈ l, le y a = true) : insertBy le a l = l ++ [a] := by
  induction l with
  | nil => rfl
  | cons y l ih =>
    rw [insertBy, if_pos (h y (List.mem_cons_self ..)), ih fun z hz => h z (List.mem_cons_of_mem _ hz), List.cons_append]

/-- A list that is in order stays as it is. -/
theorem sortBy_sorted {l : List α} (h : l.Pairwise fun a b => le a b = true) : sortBy le l = l := by
  induction l using List.reverseRecOn with
  | nil => rfl
  | append_singleton l a ih =>
    obtain ⟨hl, -, hla⟩ := List.pairwise_append.mp h
    rw [sortBy, List.foldl_append, List.foldl_cons, List.foldl_nil, ← sortBy, ih hl]
    exact insertBy_last fun y hy => hla y hy a (List.mem_singleton_self a)

end Sorts

/-- A run as it begins. -/
def begunRun (t : Nat) (xs : List Opnd) (cmds : List (Nat × TileCmd)) : TileRun :=
  ⟨t, xs.map fun x => (x.h.words ++ [0, 0, 0, 0]).take 4 ++ x.side, cmds, [], [], [], [], [], false, []⟩

/-- A tile that passes its checks has its schedule, whose commands are all still to come. -/
theorem sequencer_begins (h : PartAlone s p) (ht : p.t0 ≠ none) (hr : p.runs = []) (htodo : p.todo = t :: ts)
    (hcs : p.cs ≤ s.core.tcc + 16) (hok : tileChecks s p t = .ok xs) {q : Sched} (hq : tileSched s p t xs = q)
    (hsort : q.cmds.Pairwise fun a b => a.1 ≤ b.1) (hlate : ∀ y ∈ q.cmds, s.core.tcc < y.1) :
    ∃ u run, execSequencerCommandIssue s = .next u ∧ run.tile = t ∧ run.cmds = q.cmds ∧
      u.core.eng.parts = [{ p with todo := ts, runs := [run], ks := q.ks, cs := q.cs }] := by
  have hcmds : sortBy (fun a b : Nat × TileCmd => decide (a.1 ≤ b.1)) q.cmds = q.cmds :=
    sortBy_sorted (hsort.imp fun hab => decide_eq_true hab)
  unfold tileChecks at hok
  obtain ⟨tags, log, stat, a, hm⟩ := markPeeks_marked s (s.peekLines p.word t xs)
  have hbegin : (s.tileBegin p t).core.eng.parts = [{ p with todo := ts, runs := [begunRun t xs q.cmds], ks := q.ks, cs := q.cs }] ∧
      (s.tileBegin p t).core.tcc = s.core.tcc := by
    rw [State.tileBegin, hok]
    dsimp only
    rw [← tileSched, hq, hm, hcmds]
    refine ⟨?_, rfl⟩
    rw [onPart_parts (p := p) (rest := [])]
    · rw [htodo, hr]
      rfl
    · exact h.alone
  obtain ⟨hparts, htcc⟩ := hbegin
  have hone : ∀ r ∈ ({ p with todo := ts, runs := [begunRun t xs q.cmds], ks := q.ks, cs := q.cs } : TilePart).runs, r = begunRun t xs q.cmds := fun r hr => List.mem_singleton.mp hr
  refine ⟨s.tileBegin p t, begunRun t xs q.cmds, ?_, rfl, rfl, hparts⟩
  rw [sequencerIssue_begins h (tileDue_next h.alone htodo ht hcs hr), tileRunCmds_idle hparts, tileFlow_still hparts]
  · intro r hr
    rw [hone r hr]
    exact ⟨rfl, rfl⟩
  · intro r hr
    rw [hone r hr]
    exact next_late fun y hy => by rw [htcc]; exact hlate y hy

end Begins

/-! ## Schedules (R384, R465) -/

section Schedules

variable {s : State} {p : TilePart} {t : Nat} {ts : List Nat} {xs : List Opnd} {a b c : Opnd}

/-- The schedule of a product tile of one chunk: the copies, the pass, the drain, the copy to C. -/
def onePass (s : State) (p : TilePart) (t : Nat) (xs : List Opnd) (a b : Opnd) : Sched :=
  let ua := tileKc p.word * typeBytes (tileAt p.word)
  let ub := tileKc p.word * typeBytes (tileBt p.word)
  let la := s.tileLat p.word (s.productLines p.word t 0 a 0) + (if a.h.layout = 1 ∨ a.t = true then 0 else 64)
  let lb := s.tileLat p.word (s.productLines p.word t 1 b 0)
  let st := max p.ks (p.cs + max (la + ua) (lb + ub))
  let map := s.tileMap a p.word ((tileBox p.word t).1 / 64)
  let ks := st + beatPeriod (tileFmt p.word) (tileSr p.word) * chunkBeats p.word xs map 0
  let o := max (ks + 64 + 6) (p.cs + max ua ub)
  ⟨[(p.cs, .copyIn 0), (st, .pass 0), (ks + 64, .drain), (o, .copyOut), (o, .last)], o + 64 * typeBytes (tileCt p.word), ks⟩

theorem productSched_one (ha : xs[0]? = some a) (hb : xs[1]? = some b) (hdual : tileDual p.word = false) (hone : tileChunks p.word = 1) :
    s.productSched p.word xs t p.cs p.ks = onePass s p t xs a b := by
  have ha' : xs.getD 0 ⟨⟨[]⟩, [], false⟩ = a := by rw [List.getD_eq_getElem?_getD, ha]; rfl
  have hb' : xs.getD 1 ⟨⟨[]⟩, [], false⟩ = b := by rw [List.getD_eq_getElem?_getD, hb]; rfl
  simp only [State.productSched, productRun, hdual, hone, ha', hb', Bool.false_eq_true, if_false, List.range_one, List.foldl_cons, List.foldl_nil,
    List.nil_append, List.cons_append, onePass, Bool.or_eq_true, decide_eq_true_eq, Nat.add_assoc]

theorem published_of (hl : tileLevel p.word ≠ 0) (hlen : p.word.length ≤ 4) (hopc : tileOpc p.word ∈ [0, 1, 2, 3, 4, 6, 10]) : published p.word = true := by
  rw [published, List.contains_iff_mem.mpr hopc]
  simp [hl, hlen]

theorem tileSched_product (hl : tileLevel p.word ≠ 0) (hlen : p.word.length ≤ 4) (hopc : tileOpc p.word ≤ 2) :
    tileSched s p t xs = s.productSched p.word xs t p.cs p.ks := by
  have hmem : tileOpc p.word ∈ [0, 1, 2, 3, 4, 6, 10] := by
    interval_cases tileOpc p.word <;> decide
  rw [tileSched, published_of hl hlen hmem]
  exact if_pos hopc

theorem tileSched_element (hl : tileLevel p.word ≠ 0) (hlen : p.word.length ≤ 4) (hopc : tileOpc p.word ∈ [3, 4, 6, 10]) :
    tileSched s p t xs = s.elementSched p.word xs t p.cs p.ks := by
  have hmem : tileOpc p.word ∈ [0, 1, 2, 3, 4, 6, 10] := List.mem_cons_of_mem _ (List.mem_cons_of_mem _ (List.mem_cons_of_mem _ hopc))
  have hlow : ¬ tileOpc p.word ≤ 2 := by
    simp only [List.mem_cons, List.not_mem_nil, or_false] at hopc
    omega
  rw [tileSched, published_of hl hlen hmem]
  exact if_neg hlow

theorem product_order {cs st ks o : Nat} (hst : cs ≤ st) (hks : st ≤ ks + 64) (ho : ks + 64 ≤ o) :
    let cmds : List (Nat × TileCmd) := [(cs, .copyIn 0), (st, .pass 0), (ks + 64, .drain), (o, .copyOut), (o, .last)]
    (cmds.Pairwise fun a b => a.1 ≤ b.1) ∧ ∀ y ∈ cmds, cs ≤ y.1 := by
  constructor
  · simp only [List.pairwise_cons, List.mem_cons, List.not_mem_nil, or_false, forall_eq_or_imp, forall_eq, List.Pairwise.nil, false_implies,
      implies_true, and_true]
    omega
  · simp only [List.mem_cons, List.not_mem_nil, or_false, forall_eq_or_imp, forall_eq]
    omega

/-- The cycles of a product's commands are in order, and none comes before the part's next copy. -/
theorem onePass_order : ((onePass s p t xs a b).cmds.Pairwise fun a b => a.1 ≤ b.1) ∧ ∀ y ∈ (onePass s p t xs a b).cmds, p.cs ≤ y.1 :=
  product_order (Nat.le_trans (Nat.le_add_right ..) (Nat.le_max_right ..)) (Nat.le_trans (Nat.le_add_right ..) (Nat.le_add_right ..))
    (Nat.le_trans (Nat.le_add_right ..) (Nat.le_max_left ..))

theorem product_begins (h : PartAlone s p) (ht : p.t0 ≠ none) (hr : p.runs = []) (htodo : p.todo = t :: ts) (htcc : s.core.tcc < p.cs)
    (hcs : p.cs ≤ s.core.tcc + 16) (hl : tileLevel p.word ≠ 0) (hok : tileChecks s p t = .ok xs) (ha : xs[0]? = some a) (hb : xs[1]? = some b)
    (hlen : p.word.length ≤ 4) (hopc : tileOpc p.word ≤ 2) (hdual : tileDual p.word = false) (hone : tileChunks p.word = 1) :
    ∃ u run, execSequencerCommandIssue s = .next u ∧ run.tile = t ∧ run.cmds = (onePass s p t xs a b).cmds ∧
      u.core.eng.parts = [{ p with todo := ts, runs := [run], ks := (onePass s p t xs a b).ks, cs := (onePass s p t xs a b).cs }] :=
  sequencer_begins h ht hr htodo hcs hok ((tileSched_product hl hlen hopc).trans (productSched_one ha hb hdual hone)) onePass_order.1
    fun y hy => Nat.lt_of_lt_of_le htcc (onePass_order.2 y hy)

/-- The commands of an elementwise tile whose units are written from cycle e on. -/
def elementCmds (p : TilePart) (e uc : Nat) : List (Nat × TileCmd) :=
  (if tileTakes p.word 0 = false ∧ tileTakes p.word 1 = false then [] else [(p.cs, .copyIn 0)]) ++
    (List.range uc).map (fun k => (e + k, .element k)) ++ [(e + uc, .copyOut), (e + uc, .last)]

/-- How long the element unit waits for each of its operands. -/
def elementWait (s : State) (p : TilePart) (t : Nat) (xs : List Opnd) : List Nat :=
  ([0, 1].filter (tileTakes p.word)).map fun o =>
    let x := xs.getD o ⟨⟨[]⟩, [], false⟩
    let b := tileBlock p.word t o x.h
    s.tileLat p.word (x.lines b.1 b.2.1 b.2.2.1 b.2.2.2) + blockUnits p.word t o x + (if x.t then 64 else 0)

theorem elementWait_isEmpty : (elementWait s p t xs).isEmpty = true ↔ tileTakes p.word 0 = false ∧ tileTakes p.word 1 = false := by
  rw [elementWait, List.isEmpty_map]
  cases h0 : tileTakes p.word 0 <;> cases h1 : tileTakes p.word 1 <;> simp [h0, h1]

theorem elementWait_none (h0 : tileTakes p.word 0 = false) (h1 : tileTakes p.word 1 = false) : (elementWait s p t xs).foldl max 0 = 0 := by
  rw [List.isEmpty_iff.mp (elementWait_isEmpty.mpr ⟨h0, h1⟩), List.foldl_nil]

theorem elementSched_eq (hc : xs[2]? = some c) : s.elementSched p.word xs t p.cs p.ks =
    ⟨elementCmds p (p.cs + (elementWait s p t xs).foldl max 0) (blockUnits p.word t 2 c),
      p.cs + (elementWait s p t xs).foldl max 0 + blockUnits p.word t 2 c + blockUnits p.word t 2 c, p.ks⟩ := by
  have hc' : xs.getD 2 ⟨⟨[]⟩, [], false⟩ = c := by rw [List.getD_eq_getElem?_getD, hc]; rfl
  have hif : (if (elementWait s p t xs).isEmpty then [] else [(p.cs, TileCmd.copyIn 0)]) =
      if tileTakes p.word 0 = false ∧ tileTakes p.word 1 = false then [] else [(p.cs, TileCmd.copyIn 0)] := by simp only [elementWait_isEmpty]
  rw [elementCmds, ← hif, ← hc']
  rfl

theorem elementCmds_order {e uc : Nat} (he : p.cs ≤ e) :
    ((elementCmds p e uc).Pairwise fun a b => a.1 ≤ b.1) ∧ ∀ y ∈ elementCmds p e uc, p.cs ≤ y.1 := by
  have hunits : ((List.range uc).map fun k => (e + k, TileCmd.element k)).Pairwise fun a b => a.1 ≤ b.1 :=
    List.pairwise_map.mpr (List.pairwise_lt_range.imp fun h => Nat.add_le_add_left (Nat.le_of_lt h) e)
  have hin : ∀ y ∈ (List.range uc).map fun k => (e + k, TileCmd.element k), e ≤ y.1 ∧ y.1 ≤ e + uc := by
    intro y hy
    obtain ⟨k, hk, rfl⟩ := List.mem_map.mp hy
    have := List.mem_range.mp hk
    dsimp only
    omega
  have hends : ([(e + uc, TileCmd.copyOut), (e + uc, .last)] : List (Nat × TileCmd)).Pairwise (fun a b => a.1 ≤ b.1) ∧
      ∀ y ∈ ([(e + uc, TileCmd.copyOut), (e + uc, .last)] : List (Nat × TileCmd)), y.1 = e + uc := by simp
  have hfirst : ∀ l : List (Nat × TileCmd), (l.Pairwise fun a b => a.1 ≤ b.1) → (∀ y ∈ l, p.cs ≤ y.1) → ∀ b : Prop, [Decidable b] →
      (((if b then [] else [(p.cs, TileCmd.copyIn 0)]) ++ l).Pairwise fun a b => a.1 ≤ b.1) ∧
        ∀ y ∈ (if b then [] else [(p.cs, TileCmd.copyIn 0)]) ++ l, p.cs ≤ y.1 := by
    intro l hl hcs b _
    split
    · exact ⟨hl, hcs⟩
    · exact ⟨List.pairwise_cons.mpr ⟨hcs, hl⟩, List.forall_mem_cons.mpr ⟨Nat.le_refl _, hcs⟩⟩
  unfold elementCmds
  rw [List.append_assoc]
  refine hfirst _ (List.pairwise_append.mpr ⟨hunits, hends.1, fun x hx y hy => ?_⟩) (fun y hy => ?_) _
  · rw [hends.2 y hy]
    exact (hin x hx).2
  · rcases List.mem_append.mp hy with hy | hy
    · exact Nat.le_trans he (hin y hy).1
    · rw [hends.2 y hy]
      omega

theorem element_begins (h : PartAlone s p) (ht : p.t0 ≠ none) (hr : p.runs = []) (htodo : p.todo = t :: ts) (htcc : s.core.tcc < p.cs)
    (hcs : p.cs ≤ s.core.tcc + 16) (hl : tileLevel p.word ≠ 0) (hok : tileChecks s p t = .ok xs) (hc : xs[2]? = some c)
    (hlen : p.word.length ≤ 4) (hopc : tileOpc p.word ∈ [3, 4, 6, 10]) : ∃ u run, execSequencerCommandIssue s = .next u ∧ run.tile = t ∧
      run.cmds = elementCmds p (p.cs + (elementWait s p t xs).foldl max 0) (blockUnits p.word t 2 c) ∧
      u.core.eng.parts = [{ p with todo := ts, runs := [run], ks := p.ks
                                   cs := p.cs + (elementWait s p t xs).foldl max 0 + blockUnits p.word t 2 c + blockUnits p.word t 2 c }] := by
  obtain ⟨hsort, hfrom⟩ := elementCmds_order (p := p) (uc := blockUnits p.word t 2 c) (Nat.le_add_right p.cs ((elementWait s p t xs).foldl max 0))
  exact sequencer_begins h ht hr htodo hcs hok ((tileSched_element hl hlen hopc).trans (elementSched_eq hc)) hsort
    fun y hy => Nat.lt_of_lt_of_le htcc (hfrom y hy)

end Schedules

end Sys2Proof.Machine

/-! PROOF. The sequencer over a tile under way, and the end of a part (R80, R292, R383, R384, R465). -/

namespace Sys2Proof.Machine
open Sys2Proof.Manual

/-! ## The copy to C and the end of a tile -/

section Leaving

variable {s : State} {p : TilePart} {r : TileRun} {c0 off : Nat} {d : List Byte}

/-- A unit for the scratchpad leaves when its bank is free. -/
theorem tileUnitOut_sp {us : List (Nat × List Byte)} (hp : s.core.eng.parts = [p]) (hr : p.runs = [r]) (ho : r.outs = (spBase + off, d) :: us)
    (hoff : off < spSize) (hfree : s.core.bankFree 0 off = true) :
    (s.tileUnitOut p r (spBase + off, d)).core.eng.parts = [{ p with runs := [{ r with outs := us }] }] ∧
      (s.tileUnitOut p r (spBase + off, d)).core.engWrites = s.core.engWrites ++ [(false, off, d)] := by
  have hrun := onRun_parts hp hr fun r => { r with outs := r.outs.tail }
  rw [State.tileUnitOut, regionOf_sp hoff]
  dsimp only
  rw [show b2n false = 0 from rfl, hfree, if_pos rfl]
  refine ⟨hrun.trans ?_, rfl⟩
  rw [ho]
  rfl

/-- A bank is free or not whatever the engines hold. -/
theorem bankFree_eng (c : Core) (e : Engines) (store off : Nat) : ({ c with eng := e } : Core).bankFree store off = c.bankFree store off := rfl

/-- A state but for the engines of the core in focus. -/
def EngOnly (s t : State) : Prop := ∃ e, t = { s with core := { s.core with eng := e } }

theorem onEng_engOnly (s : State) (f : Engines → Engines) : EngOnly s (s.onEng f) := ⟨f s.core.eng, rfl⟩

theorem onRun_engOnly (s : State) (t : Nat) (f : TileRun → TileRun) : EngOnly s (s.onRun t f) := by
  rw [State.onRun, State.onPart]
  exact onEng_engOnly ..

theorem tileCwp_engOnly (s : State) (ch n : Nat) : EngOnly s (s.tileCwp ch n) := by
  rw [State.tileCwp]
  exact onEng_engOnly ..

theorem EngOnly.trans {t u : State} (h : EngOnly s t) (g : EngOnly t u) : EngOnly s u := by
  obtain ⟨_, rfl⟩ := h
  obtain ⟨e, rfl⟩ := g
  exact ⟨e, rfl⟩

theorem tileCwp_parts (ch n : Nat) : (s.tileCwp ch n).core.eng.parts = s.core.eng.parts := rfl

/-- What the start of the copy to C leaves. -/
theorem copyOut_starts {cmds : List (Nat × TileCmd)} {cmd : Nat × TileCmd} (hp : s.core.eng.parts = [p]) (hr : p.runs = [r]) (hc : r.cmds = cmd :: cmds) :
    ∃ e, (s.onRun r.tile fun x => { x with cmds := x.cmds.tail }).tileCmd p r .copyOut = { s with core := { s.core with eng := e } } ∧
      e.parts = [{ p with runs := [{ r with cmds := cmds, leaving := true }] }] := by
  have h1 := onRun_parts hp hr fun x => { x with cmds := x.cmds.tail }
  have h2 := onRun_parts (r := { r with cmds := r.cmds.tail }) h1 rfl fun r => { r with leaving := true }
  have hparts := (tileCwp_parts 0 (tileUnits p.word r).2.2).trans h2
  obtain ⟨e, he⟩ := (onRun_engOnly s r.tile fun x => { x with cmds := x.cmds.tail }).trans
    ((onRun_engOnly _ r.tile fun r => { r with leaving := true }).trans (tileCwp_engOnly _ 0 (tileUnits p.word r).2.2))
  refine ⟨e, he, ?_⟩
  rw [he, hc] at hparts
  exact hparts

/-- With units of a tile still to leave, its last command waits. -/
theorem next_lastWaits {c : Core} {cmds : List (Nat × TileCmd)} (hc : r.cmds = (c0, .last) :: cmds) (ho : r.outs ≠ []) : r.next c p = none := by
  have hable : r.outs.isEmpty = false := List.isEmpty_eq_false_iff.mpr ho
  rw [TileRun.next, hc]
  simp [TileCmd.able, hable]

/-- The copy to C starts, and its first unit leaves in that cycle. -/
theorem sequencer_leaves (h : PartAlone s p) (htodo : p.todo = []) (hr : p.runs = [r]) (hc : r.cmds = [(c0, .copyOut), (c0, .last)]) (hdue : c0 ≤ s.core.tcc)
    (ho : r.outs = [(spBase + off, d)]) (hoff : off < spSize) (ha : r.asks = []) (hfree : s.core.bankFree 0 off = true) :
    ∃ u, execSequencerCommandIssue s = .next u ∧
      u.core.eng.parts = [{ p with runs := [{ r with cmds := [(c0, .last)], outs := [], leaving := true }] }] ∧
      u.core.engWrites = s.core.engWrites ++ [(false, off, d)] := by
  have hstep := tileRunCmds_step (fuel := 63) (elem := false) h.alone hr ((next_due hc hdue).trans (if_pos rfl)) rfl
  obtain ⟨e, he, hparts⟩ := copyOut_starts h.alone hr hc
  rw [he] at hstep
  have hidle : ({ s with core := { s.core with eng := e } } : State).tileRunCmds false 63 = { s with core := { s.core with eng := e } } :=
    tileRunCmds_idle hparts fun x hx => by
      rw [List.mem_singleton.mp hx]
      exact next_lastWaits rfl (by simp [ho])
  have hbank := (bankFree_eng s.core e 0 off).trans hfree
  obtain ⟨hout, hw⟩ := tileUnitOut_sp (s := { s with core := { s.core with eng := e } }) hparts rfl ho hoff hbank
  refine ⟨_, ?_, hout, hw⟩
  rw [sequencerIssue_runs h htodo, hstep, hidle, tileFlow_out (r := { r with cmds := [(c0, .last)], leaving := true }) hparts rfl ha rfl ho]

/-- A tile whose units have all left has ended. -/
theorem sequencer_ends (h : PartAlone s p) (htodo : p.todo = []) (hr : p.runs = [r]) (hc : r.cmds = [(c0, .last)]) (hdue : c0 ≤ s.core.tcc)
    (ho : r.outs = []) (hw : r.wids = []) : ∃ u, execSequencerCommandIssue s = .next u ∧ u.core.eng.parts = [{ p with runs := [] }] := by
  have hable : TileCmd.able s.core p r .last = true := by simp [TileCmd.able, ho, hw]
  have hstep := tileRunCmds_step (fuel := 63) (elem := false) h.alone hr ((next_due hc hdue).trans (if_pos hable)) rfl
  have hparts : ((s.onRun r.tile fun x => { x with cmds := x.cmds.tail }).tileCmd p r .last).core.eng.parts = [{ p with runs := [] }] := by
    refine Eq.trans (onPart_parts (onRun_parts h.alone hr fun x => { x with cmds := x.cmds.tail }) _) ?_
    simp
  generalize (s.onRun r.tile fun x => { x with cmds := x.cmds.tail }).tileCmd p r .last = v at hstep hparts
  refine ⟨v, ?_, hparts⟩
  rw [sequencerIssue_runs h htodo, hstep, tileRunCmds_idle hparts (fun r hr => nomatch hr), tileFlow_still hparts fun r hr => nomatch hr]

end Leaving

/-! ## The element unit (R465) -/

section Elements

variable {s : State} {p : TilePart} {r : TileRun} {c0 k : Nat} {rest : List (Nat × TileCmd)}

theorem elementUnitStep_eq (h : PartAlone s p) : execElementUnitStep s = .next (s.tileRunCmds true 64) := by
  rw [execElementUnitStep, absorbTile_quiet h.quiet]

/-- What the element unit computes from is not the commands. -/
theorem tileSrc_onRun (t : Nat) (f : TileRun → TileRun) (b : Bool) : (s.onRun t f).tileSrc p r b = s.tileSrc p r b := rfl

/-- What the step of the element unit comes to, once the first of its commands is done. -/
theorem elementUnitStep_once {v : State} {r' : TileRun} (h : PartAlone s p) (hr : p.runs = [r]) (hc : r.cmds = (c0, .element k) :: rest) (hdue : c0 ≤ s.core.tcc)
    (howed : r.owed = []) (hlate : ∀ y ∈ rest, s.core.tcc < y.1)
    (hv : (s.onRun r.tile fun x => { x with cmds := x.cmds.tail }).tileCmd p r (.element k) = v) (hparts : v.core.eng.parts = [{ p with runs := [r'] }])
    (hcmds : r'.cmds = rest) (htcc : v.core.tcc = s.core.tcc) : execElementUnitStep s = .next v := by
  have hable : TileCmd.able s.core p r (.element k) = true := by simp [TileCmd.able, howed]
  have hidle : v.tileRunCmds true 63 = v := tileRunCmds_idle hparts fun x hx => by
    rw [List.mem_singleton.mp hx]
    exact next_late fun y hy => by rw [htcc]; exact hlate y (by rw [← hcmds]; exact hy)
  rw [elementUnitStep_eq h, tileRunCmds_step (fuel := 63) (elem := true) h.alone hr ((next_due hc hdue).trans (if_pos hable)) rfl, hv, hidle]

/-- The element unit's first unit forms what the tile writes. -/
theorem tileElement_forms (h : tileOpc p.word ≠ 9) : s.tileElement p r =
    (s.onTile p.instr fun y => { y with flags := y.flags ||| (s.tileSrc p r false).results.2 }).onRun r.tile fun r' =>
      { r' with outs := (s.tileSrc p r false).results.1 } := by
  have hcond : ¬ ((decide (tileOpc p.word = 9) && (s.tileSrc p r false).field.flt.getLsbD 63) = true) := by simp [h]
  rw [State.tileElement]
  generalize s.tileSrc p r false = q at hcond
  dsimp only
  rw [if_neg hcond]

theorem tileCmd_firstUnit : s.tileCmd p r (.element 0) = s.tileElement p r := rfl

theorem element_clause (h : PartAlone s p) (hr : p.runs = [r]) (hc : r.cmds = (c0, .element k) :: rest) (hdue : c0 ≤ s.core.tcc)
    (hlate : ∀ y ∈ rest, s.core.tcc < y.1) (howed : r.owed = []) :
    (k ≠ 0 → ∃ u, exec .elementUnitStep s = .next u ∧ u.core.eng.parts = [{ p with runs := [{ r with cmds := rest }] }]) ∧
    (k = 0 → tileOpc p.word ≠ 9 → ∃ u, exec .elementUnitStep s = .next u ∧
      u.core.eng.parts = [{ p with runs := [{ r with cmds := rest, outs := ((s.tileSrc p r false).results).1 }] }]) := by
  have hparts : (s.onRun r.tile fun x => { x with cmds := x.cmds.tail }).core.eng.parts = [{ p with runs := [{ r with cmds := rest }] }] := by
    rw [onRun_parts h.alone hr, hc]
    rfl
  refine ⟨fun hk => ⟨_, elementUnitStep_once h hr hc hdue howed hlate (if_neg hk) hparts rfl rfl, hparts⟩, fun hk hopc => ?_⟩
  subst hk
  have hforms := tileElement_forms (s := s.onRun r.tile fun x => { x with cmds := x.cmds.tail }) (p := p) (r := r) hopc
  rw [tileSrc_onRun] at hforms
  generalize (s.tileSrc p r false).results = res at hforms
  have hparts' : (((s.onRun r.tile fun x => { x with cmds := x.cmds.tail }).onTile p.instr fun y => { y with flags := y.flags ||| res.2 }).onRun r.tile fun r =>
      { r with outs := res.1 }).core.eng.parts = [{ p with runs := [{ r with cmds := rest, outs := res.1 }] }] :=
    onRun_parts (s := (s.onRun r.tile fun x => { x with cmds := x.cmds.tail }).onTile p.instr fun y => { y with flags := y.flags ||| res.2 })
      (r := { r with cmds := rest }) hparts rfl _
  exact ⟨_, elementUnitStep_once h hr hc hdue howed hlate (tileCmd_firstUnit.trans hforms) hparts' rfl rfl, hparts'⟩

end Elements

/-! ## The end of a part (R383) -/

section Ending

variable {s : State} {p : TilePart} {x : TileInstr}

/-- The core once the part has left it: rings and configurations are as at T0. -/
def partLeft (s : State) (p : TilePart) : State := s.onEng fun e =>
  { e with
    parts := e.parts.tail
    rings := Vector.ofFn fun i => p.rings.getD i.val (vget .none e.rings i.val)
    kiln := { e.kiln with quadCfg := p.quadCfg, shadow := p.shadow } }

theorem ofFn_getD_toList {α : Type} {n : Nat} {l : List α} {d : Nat → α} (h : l.length = n) :
    (Vector.ofFn fun i : Fin n => l.getD i.val (d i.val)).toList = l :=
  List.ext_getElem (by rw [Vector.length_toList, h]) fun i hi hi' => by
    rw [Vector.getElem_toList, Vector.getElem_ofFn, List.getD_eq_getElem?_getD, List.getElem?_eq_getElem hi', Option.getD_some]

theorem partLeft_eng (h : s.core.eng.parts = [p]) : (partLeft s p).core.eng.parts = [] ∧ (partLeft s p).core.eng.kiln.shadow = p.shadow ∧
    (partLeft s p).core.eng.kiln.quadCfg = p.quadCfg ∧ (p.rings.length = 8 → (partLeft s p).core.eng.rings.toList = p.rings) := by
  exact ⟨congrArg List.tail h, rfl, rfl, fun hlen => ofFn_getD_toList hlen⟩

theorem tilePartComplete_ends (h : s.core.eng.parts = [p]) (ht : p.t0 ≠ none) (htodo : p.todo = []) (hpool : p.pool = false) (hr : p.runs = []) :
    ∃ u : State, execTilePartComplete s = .next (u.onTile p.instr fun x => { x with left := x.left.erase s.focus }) ∧
      u.core.eng = (partLeft s p).core.eng ∧ u.mod = s.mod := by
  have hover : s.core.partOver = true := by
    rw [Core.partOver, h]
    simp [Option.isSome_iff_ne_none.mpr ht, htodo, hpool, hr]
  rw [execTilePartComplete, hover, Bool.not_true, if_neg Bool.false_ne_true, h]
  dsimp only
  generalize (decide (tileOpc p.word < 12) && (!published p.word || p.t0 != some (p.cs - 16))) = used
  cases used
  · exact ⟨_, rfl, rfl, rfl⟩
  · exact ⟨_, rfl, rfl, rfl⟩

end Ending

/-- The sequencer, the element unit and the end of the part. -/
theorem sequencer_clause (s : State) (p : TilePart) (h : PartAlone s p) :
    (∀ t ts, p.t0 ≠ none → p.runs = [] → p.todo = t :: ts → s.core.tcc < p.cs → p.cs ≤ s.core.tcc + 16 → tileLevel p.word ≠ 0 →
      (∀ code r c addr o x, s.tileOpnds p.word t = .error ((code, (r, c), addr), o) → Only (·.id) s.mod.tiles x → x.id = p.instr →
        ∃ u y f, exec .sequencerCommandIssue s = .next u ∧ u.core.eng.parts = [{ p with todo := [], pool := false }] ∧ y ∈ u.mod.tiles ∧ y.id = x.id ∧
          y.faults = x.faults ++ [f] ∧ f.code = code ∧ f.row = r ∧ f.col = c ∧ f.opnd = o ∧ f.addr = addr ∧ f.ts = s.ts.toNat ∧ f.core = s.focus) ∧
      (∀ xs a b, s.tileOpnds p.word t = .ok xs → s.streamPages p.word t xs = .ok () → xs[0]? = some a → xs[1]? = some b → p.word.length ≤ 4 →
        tileOpc p.word ≤ 2 → tileDual p.word = false → tileChunks p.word = 1 →
        let ua := tileKc p.word * typeBytes (tileAt p.word)
        let ub := tileKc p.word * typeBytes (tileBt p.word)
        let la := s.tileLat p.word (s.productLines p.word t 0 a 0) + (if a.h.layout = 1 ∨ a.t = true then 0 else 64)
        let lb := s.tileLat p.word (s.productLines p.word t 1 b 0)
        let st := max p.ks (p.cs + max (la + ua) (lb + ub))
        let map := s.tileMap a p.word ((tileBox p.word t).1 / 64)
        let ks := st + beatPeriod (tileFmt p.word) (tileSr p.word) * chunkBeats p.word xs map 0
        let o := max (ks + 64 + 6) (p.cs + max ua ub)
        ∃ u run, exec .sequencerCommandIssue s = .next u ∧ run.tile = t ∧
          run.cmds = [(p.cs, .copyIn 0), (st, .pass 0), (ks + 64, .drain), (o, .copyOut), (o, .last)] ∧
          u.core.eng.parts = [{ p with todo := ts, runs := [run], ks := ks, cs := o + 64 * typeBytes (tileCt p.word) }]) ∧
      (∀ xs code r c addr o x, s.tileOpnds p.word t = .ok xs → s.streamPages p.word t xs = .error ((code, (r, c), addr), o) → Only (·.id) s.mod.tiles x →
        x.id = p.instr → ∃ u y f, exec .sequencerCommandIssue s = .next u ∧ u.core.eng.parts = [{ p with todo := [], pool := false }] ∧ y ∈ u.mod.tiles ∧
          y.id = x.id ∧ y.faults = x.faults ++ [f] ∧ f.code = code ∧ f.row = r ∧ f.col = c ∧ f.opnd = o ∧ f.addr = addr ∧ f.core = s.focus) ∧
      (∀ xs c, s.tileOpnds p.word t = .ok xs → s.streamPages p.word t xs = .ok () → xs[2]? = some c → p.word.length ≤ 4 → tileOpc p.word ∈ [3, 4, 6, 10] →
        let uc := blockUnits p.word t 2 c
        ∃ u run e, exec .sequencerCommandIssue s = .next u ∧ run.tile = t ∧ p.cs ≤ e ∧ (tileTakes p.word 0 = false → tileTakes p.word 1 = false → e = p.cs) ∧
          run.cmds = (if tileTakes p.word 0 = false ∧ tileTakes p.word 1 = false then [] else [(p.cs, .copyIn 0)]) ++
            (List.range uc).map (fun k => (e + k, .element k)) ++ [(e + uc, .copyOut), (e + uc, .last)] ∧
          u.core.eng.parts = [{ p with todo := ts, runs := [run], cs := e + uc + uc }])) ∧
    (∀ r c0 off d, p.todo = [] → p.runs = [r] → r.cmds = [(c0, .copyOut), (c0, .last)] → c0 ≤ s.core.tcc → r.outs = [(spBase + off, d)] → off < spSize →
      r.asks = [] → s.core.bankFree 0 off = true → ∃ u, exec .sequencerCommandIssue s = .next u ∧
        u.core.eng.parts = [{ p with runs := [{ r with cmds := [(c0, .last)], outs := [], leaving := true }] }] ∧
        u.core.engWrites = s.core.engWrites ++ [(false, off, d)]) ∧
    (∀ r c0, p.todo = [] → p.runs = [r] → r.cmds = [(c0, .last)] → c0 ≤ s.core.tcc → r.outs = [] → r.asks = [] → r.wids = [] →
      ∃ u, exec .sequencerCommandIssue s = .next u ∧ u.core.eng.parts = [{ p with runs := [] }]) ∧
    (∀ r c0 k rest, p.runs = [r] → r.cmds = (c0, .element k) :: rest → c0 ≤ s.core.tcc → (∀ y ∈ rest, s.core.tcc < y.1) → r.owed = [] →
      (k ≠ 0 → ∃ u, exec .elementUnitStep s = .next u ∧ u.core.eng.parts = [{ p with runs := [{ r with cmds := rest }] }]) ∧
      (k = 0 → tileOpc p.word ≠ 9 → ∃ u, exec .elementUnitStep s = .next u ∧
        u.core.eng.parts = [{ p with runs := [{ r with cmds := rest, outs := ((s.tileSrc p r false).results).1 }] }])) ∧
    (∀ x, p.t0 ≠ none → p.todo = [] → p.pool = false → p.runs = [] → Only (·.id) s.mod.tiles x → x.id = p.instr →
      ∃ u y, exec .tilePartComplete s = .next u ∧ u.core.eng.parts = [] ∧ y ∈ u.mod.tiles ∧ y = { x with left := x.left.erase s.focus } ∧
        u.core.eng.kiln.shadow = p.shadow ∧ u.core.eng.kiln.quadCfg = p.quadCfg ∧ (p.rings.length = 8 → u.core.eng.rings.toList = p.rings)) := by
  refine ⟨fun t ts ht hr htodo htcc hcs hl => ⟨fun code r c addr o x hbad hone hid => ?_, fun xs a b hops hpages ha hb hlen hopc hdual hchunks => ?_,
    fun xs code r c addr o x hops hbad hone hid => ?_, fun xs c hops hpages hc hlen hopc => ?_⟩, fun r c0 off d htodo hr hc hdue ho hoff ha hfree =>
      sequencer_leaves h htodo hr hc hdue ho hoff ha hfree, fun r c0 htodo hr hc hdue ho _ hw => sequencer_ends h htodo hr hc hdue ho hw,
    fun r c0 k rest hr hc hdue hlate howed => element_clause h hr hc hdue hlate howed, fun x ht htodo hpool hr hone hid => ?_⟩
  · exact sequencer_fails h ht hr htodo hcs hl (tileChecks_opnds hbad) hone.1 hid
  · exact product_begins h ht hr htodo htcc hcs hl (tileChecks_ok hops hpages) ha hb hlen hopc hdual hchunks
  · obtain ⟨u, y, f, hrun, hparts, hy, hyid, hf, hcode, hrow, hcol, hopnd, haddr, -, hcore⟩ :=
      sequencer_fails h ht hr htodo hcs hl (tileChecks_streams hops hbad) hone.1 hid
    exact ⟨u, y, f, hrun, hparts, hy, hyid, hf, hcode, hrow, hcol, hopnd, haddr, hcore⟩
  · obtain ⟨u, run, hrun, htile, hcmds, hparts⟩ := element_begins h ht hr htodo htcc hcs hl (tileChecks_ok hops hpages) hc hlen hopc
    exact ⟨u, run, _, hrun, htile, Nat.le_add_right .., fun h0 h1 => by rw [elementWait_none h0 h1]; rfl, hcmds, hparts⟩
  · obtain ⟨u, hrun, heng, hmod⟩ := tilePartComplete_ends h.alone ht htodo hpool hr
    obtain ⟨hparts, hshadow, hquad, hrings⟩ := partLeft_eng h.alone
    rw [← heng] at hparts hshadow hquad hrings
    exact ⟨_, _, hrun, hparts, onTile_has (by rw [hmod]; exact hone.1) hid _, rfl, hshadow, hquad, hrings⟩

end Sys2Proof.Machine

/-! PROOF. A tile instruction completes in the scratchpad of its issuer (R377, R386, R387). -/

namespace Sys2Proof.Machine
open Sys2Proof.Manual

/-! ## Writes to a live core -/

section Deposits

variable {s : State} {i rank grp off code : Nat} {data : List Byte}

theorem deposit_live_rows : (s.deposit i .live rank grp false off data .none).coreAt i =
    { s.coreAt i with opp := (s.coreAt i).opp ++ rowsFor rank grp off data } := coreAt_setCore_same ..

theorem deposit_live_completes : (s.deposit i .live rank grp false off data (.complete off code)).coreAt i =
    { s.coreAt i with opp := (s.coreAt i).opp ++ [⟨rank, grp, false, off, 8, [], .complete off code⟩] } := coreAt_setCore_same ..

/-- Words written one after another each leave their rows. -/
theorem deposits_live_rows (ws : List (Nat × Nat)) :
    (ws.foldl (fun st w => st.deposit i .live rank grp false (off + w.1) (leBytes w.2 8) .none) s).coreAt i =
      { s.coreAt i with opp := (s.coreAt i).opp ++ ws.flatMap fun w => rowsFor rank grp (off + w.1) (leBytes w.2 8) } := by
  induction ws generalizing s with
  | nil => rw [List.foldl_nil, List.flatMap_nil, List.append_nil]
  | cons w ws ih => rw [List.foldl_cons, ih, deposit_live_rows, List.flatMap_cons, List.append_assoc]

theorem deposits_mod (ws : List (Nat × Nat)) :
    (ws.foldl (fun st w => st.deposit i .live rank grp false (off + w.1) (leBytes w.2 8) .none) s).mod = s.mod :=
  foldl_keeps (g := fun st : State => st.mod) (fun _ _ _ => deposit_mod ..) s

end Deposits

/-! ## The completion area (R377) -/

section Area

variable {s : State} {x : TileInstr} {off code : Nat}

/-- The issuer's task stands live in its place. -/
structure IssuerLive (s : State) (x : TileInstr) : Prop where
  mode : (s.coreAt x.core).mode = .run
  launch : (s.coreAt x.core).task.launchId = x.launch

theorem placeOf_live (h : IssuerLive s x) : s.placeOf x.core (fun t => t.launchId == x.launch) = some (.live, s.coreAt x.core) := by
  rw [State.placeOf]
  rw [if_pos ⟨by rw [h.mode]; decide, beq_iff_eq.mpr h.launch⟩, h.mode]

theorem tileArea_sp (h : IssuerLive s x) (hsp : regionOf (tileCw x.word) = .sp off) (ws : List (Nat × Nat)) : s.tileArea x ws code =
    (ws.foldl (fun st w => st.deposit x.core .live 3 (2 ^ 62 + 2 * x.id) false (off + w.1) (leBytes w.2 8) .none) s).deposit x.core .live 3
      (2 ^ 62 + 2 * x.id) false off [] (.complete off code) := by
  rw [State.tileArea, placeOf_live h]
  dsimp only
  rw [hsp]
  rfl

/-- The rows of the words of the area, then the change of its first word. -/
theorem tileArea_coreAt (h : IssuerLive s x) (hsp : regionOf (tileCw x.word) = .sp off) (ws : List (Nat × Nat)) :
    (s.tileArea x ws code).coreAt x.core = { s.coreAt x.core with
      opp := (s.coreAt x.core).opp ++ (ws.flatMap fun w => rowsFor 3 (2 ^ 62 + 2 * x.id) (off + w.1) (leBytes w.2 8)) ++
        [⟨3, 2 ^ 62 + 2 * x.id, false, off, 8, [], .complete off code⟩] } := by
  rw [tileArea_sp h hsp, deposit_live_completes, deposits_live_rows]

theorem tileArea_mod (h : IssuerLive s x) (hsp : regionOf (tileCw x.word) = .sp off) (ws : List (Nat × Nat)) : (s.tileArea x ws code).mod = s.mod := by
  rw [tileArea_sp h hsp, deposit_mod, deposits_mod]

/-- The flags and the words of a summary stand one after another from the second word of the area on. -/
theorem areaWords_eq (flags : Nat) (words : List Nat) : (8, flags) :: words.zipIdx.map (fun v => (16 + 8 * v.2, v.1)) =
    ((flags :: words).zipIdx).map fun v => (8 + 8 * v.2, v.1) := by
  rw [List.zipIdx_cons, List.map_cons, List.zipIdx_succ, List.map_map]
  congr 1
  refine List.map_congr_left fun v _ => Prod.ext ?_ rfl
  show 16 + 8 * v.2 = 8 + 8 * (v.2 + 1)
  omega

end Area

/-! ## TILE_COMPLETE -/

section Completes

variable {s t : State} {x : TileInstr} {off : Nat}

/-- A core but for its write log. -/
def LogOnly (s t : State) : Prop := t.mod = s.mod ∧ ∀ i, ∃ log, t.coreAt i = { s.coreAt i with writeLog := log }

theorem publishTile_logOnly (x : TileInstr) : LogOnly s (s.publishTile x) := by
  unfold State.publishTile
  refine List.foldlRecOn (motive := LogOnly s) _ _ ⟨rfl, fun i => ⟨(s.coreAt i).writeLog, rfl⟩⟩ fun st hst j _ => ?_
  obtain ⟨hmod, hcore⟩ := hst
  refine ⟨by rw [setCore_mod]; exact hmod, fun i => ?_⟩
  obtain ⟨log, hlog⟩ := hcore i
  by_cases hi : i = j
  · subst hi
    exact ⟨[], by rw [coreAt_setCore_same, hlog]⟩
  · exact ⟨log, by rw [coreAt_setCore_ne _ _ hi]; exact hlog⟩

/-- What the completion leaves with a code and the words of a summary. -/
structure Finished (s t : State) (x : TileInstr) (off code : Nat) (words : List Nat) : Prop where
  tiles : t.mod.tiles = s.mod.tiles.filter fun y => y.id != x.id
  rows : (t.coreAt x.core).opp = (s.coreAt x.core).opp ++
    ((x.flags.toNat :: words).zipIdx.flatMap fun v => rowsFor 3 (2 ^ 62 + 2 * x.id) (off + (8 + 8 * v.2)) (leBytes v.1 8)) ++
      [⟨3, 2 ^ 62 + 2 * x.id, false, off, 8, [], .complete off code⟩]
  fail : (t.coreAt x.core).eng.tileFail = if code = 0 then (s.coreAt x.core).eng.tileFail else BitVec.ofNat 64 (words.headD 0)

/-- The code and the words of the summary of an instruction's primary fault. -/
def summaryOf (x : TileInstr) : Nat × List Nat :=
  (((primaryFault x.faults).map TileFault.code).getD 0,
    ((primaryFault x.faults).map (summaryWords (tileOpc x.word) (x.faults.length - 1))).getD [])

theorem onIssuer_live (h : IssuerLive s x) (f : Core → Core) : s.onIssuer x f = s.setCore x.core (f (s.coreAt x.core)) :=
  if_pos ⟨by rw [h.mode]; decide, h.launch⟩

theorem tileFinish_finishes (h : IssuerLive s x) (hsp : regionOf (tileCw x.word) = .sp off) :
    Finished s (s.tileFinish x) x off (summaryOf x).1 (summaryOf x).2 := by
  have hrun : ∃ l : List Launch, s.tileFinish x = ((s.tileArea x
      ((8, x.flags.toNat) :: (summaryOf x).2.zipIdx.map fun v => (16 + 8 * v.2, v.1)) (summaryOf x).1).onIssuer x fun c =>
      { c with eng := { c.eng.unpin (tilePin x.id) with
        tileFail := if (summaryOf x).1 = 0 then c.eng.tileFail else BitVec.ofNat 64 ((summaryOf x).2.headD 0) } }).onMod fun m => { m with
          tiles := m.tiles.filter fun y => y.id != x.id, launches := l } := ⟨_, rfl⟩
  obtain ⟨l, hl⟩ := hrun
  rw [hl, areaWords_eq]
  generalize summaryOf x = q
  have hcore := tileArea_coreAt (code := q.1) h hsp (((x.flags.toNat :: q.2).zipIdx).map fun v => (8 + 8 * v.2, v.1))
  have hmod := tileArea_mod (code := q.1) h hsp (((x.flags.toNat :: q.2).zipIdx).map fun v => (8 + 8 * v.2, v.1))
  generalize s.tileArea x _ q.1 = u at hcore hmod
  have hlive : IssuerLive u x := ⟨by rw [hcore]; exact h.mode, by rw [hcore]; exact h.launch⟩
  rw [onIssuer_live hlive]
  refine ⟨?_, ?_, ?_⟩
  · rw [← hmod, ← setCore_mod u x.core]
    rfl
  · rw [onMod_coreAt, coreAt_setCore_same, hcore, List.flatMap_map]
  · rw [onMod_coreAt, coreAt_setCore_same, hcore]

theorem Finished.of_logOnly {code : Nat} {words : List Nat} (hl : LogOnly s t) {u : State} (h : Finished t u x off code words) :
    Finished s u x off code words := by
  obtain ⟨hmod, hcore⟩ := hl
  obtain ⟨log, hlog⟩ := hcore x.core
  obtain ⟨htiles, hrows, hfail⟩ := h
  rw [hlog] at hrows hfail
  rw [hmod] at htiles
  exact ⟨htiles, hrows, hfail⟩

theorem tileComplete_finishes (hone : Only (·.id) s.mod.tiles x) (h : IssuerLive s x) (hsp : regionOf (tileCw x.word) = .sp off)
    (hended : s.tileEnded x = true) : ∃ t, execTileComplete x.id s = .next t ∧ Finished s t x off (summaryOf x).1 (summaryOf x).2 := by
  refine ⟨(if tileOpc x.word < 12 then s.publishTile x else s).tileFinish x, ?_, ?_⟩
  · rw [execTileComplete, tileInstr_of_only hone]
    dsimp only
    rw [hended, if_pos rfl]
  · have hlog : LogOnly s (if tileOpc x.word < 12 then s.publishTile x else s) := by
      split
      · exact publishTile_logOnly x
      · exact ⟨rfl, fun i => ⟨_, rfl⟩⟩
    obtain ⟨log, hcore⟩ := hlog.2 x.core
    exact (tileFinish_finishes ⟨by rw [hcore]; exact h.mode, by rw [hcore]; exact h.launch⟩ hsp).of_logOnly hlog

theorem summaryOf_none (h : x.faults = []) : summaryOf x = (0, []) := by rw [summaryOf, h]; rfl

theorem summaryOf_one {f : TileFault} (h : x.faults = [f]) : summaryOf x = (f.code,
    [2 ^ 63 + f.code * 2 ^ 48 + f.level * 2 ^ 45 + f.rank * 2 ^ 28 + coreDie f.core * 2 ^ 26 + dieCore f.core * 2 ^ 18 + f.clus * 2 ^ 16 +
      tileOpc x.word * 2 ^ 8, f.col * 2 ^ 32 + f.row, f.addr, f.ts, f.opnd * 2 ^ 32]) := by
  have hmore : satU 32 0 = 0 := if_pos (Nat.two_pow_pos 32)
  have hone : summaryOf x = (f.code, summaryWords (tileOpc x.word) 0 f) := by
    rw [summaryOf, h]
    rfl
  rw [hone, summaryWords, hmore, Nat.add_zero]

theorem tileEnded_of (hstart : x.started = true) (hleft : x.left = []) (h : s.splitSize x.word ≤ 1 ∨ x.faults ≠ [] ∨ 12 ≤ tileOpc x.word) :
    s.tileEnded x = true := by
  rw [State.tileEnded, hstart, hleft]
  rcases h with h | h | h <;> simp [h]

/-- TILE_COMPLETE without a fault, and with one. -/
theorem complete_clause (s : State) (x : TileInstr) (off : Nat) (hone : Only (·.id) s.mod.tiles x) (hstart : x.started = true) (hleft : x.left = [])
    (hsp : regionOf (tileCw x.word) = .sp off) (hmode : (s.coreAt x.core).mode = .run) (hlaunch : (s.coreAt x.core).task.launchId = x.launch) :
    let grp := 2 ^ 62 + 2 * x.id
    let put := fun (code : Nat) (words : List Nat) (t : State) => t.mod.tiles = (s.mod.tiles.filter fun y => y.id != x.id) ∧
      (t.coreAt x.core).opp = (s.coreAt x.core).opp ++ ((x.flags.toNat :: words).zipIdx.flatMap fun v => rowsFor 3 grp (off + (8 + 8 * v.2)) (leBytes v.1 8)) ++
        [⟨3, grp, false, off, 8, [], .complete off code⟩]
    (x.faults = [] → tileLevel x.word < 4 ∨ s.mod.flue.members.length ≤ 1 ∨ 12 ≤ tileOpc x.word → ∃ t, exec (.tileComplete x.id) s = .next t ∧ put 0 [] t ∧ (t.coreAt x.core).eng.tileFail = (s.coreAt x.core).eng.tileFail) ∧
    (∀ f, x.faults = [f] → f.code ≠ 0 → ∃ t, exec (.tileComplete x.id) s = .next t ∧
      let w0 := 2 ^ 63 + f.code * 2 ^ 48 + f.level * 2 ^ 45 + f.rank * 2 ^ 28 + coreDie f.core * 2 ^ 26 + dieCore f.core * 2 ^ 18 + f.clus * 2 ^ 16 +
        tileOpc x.word * 2 ^ 8
      put f.code [w0, f.col * 2 ^ 32 + f.row, f.addr, f.ts, f.opnd * 2 ^ 32] t ∧ (t.coreAt x.core).eng.tileFail = BitVec.ofNat 64 w0) := by
  have hlive : IssuerLive s x := ⟨hmode, hlaunch⟩
  refine ⟨fun hf hsize => ?_, fun f hf hcode => ?_⟩
  · have hended : s.splitSize x.word ≤ 1 ∨ x.faults ≠ [] ∨ 12 ≤ tileOpc x.word := by
      unfold State.splitSize
      split <;> omega
    obtain ⟨t, hrun, htiles, hrows, hfail⟩ := tileComplete_finishes hone hlive hsp (tileEnded_of hstart hleft hended)
    rw [summaryOf_none hf] at hrows hfail
    exact ⟨t, hrun, ⟨htiles, hrows⟩, hfail⟩
  · obtain ⟨t, hrun, htiles, hrows, hfail⟩ := tileComplete_finishes hone hlive hsp (tileEnded_of hstart hleft (.inr (.inl (by rw [hf]; simp))))
    rw [summaryOf_one hf] at hrows hfail
    exact ⟨t, hrun, ⟨htiles, hrows⟩, hfail.trans (if_neg hcode)⟩

end Completes

end Sys2Proof.Machine

/-! PROOF. Tiles, scheduler, host, debug and trace together. -/

namespace Sys2Proof.Machine
open Sys2Proof.Manual

/-- Settles O59, clause by clause: the Splitter and the sequencer of a tile instruction up to its completion, the scheduler over a queue's
record, dispatch, retirement and abort of a launch, pre-emption, the registers of queues and host, the windows of the host, invalidation, the debug
block and the trace session. -/
theorem launchSteps : Obligations.LaunchSteps := by
  unfold Obligations.LaunchSteps
  exact ⟨split_clause, partStart_clause, claim_clause, sequencer_clause, complete_clause, scheduler_clause, launch_clause, preempt_clause,
    queueRegisters_clause, hostRegisters_clause, hostWindow_clause, invalidation_clause, debug_clause, trace_clause⟩

end Sys2Proof.Machine
